-- ==== Sys2Proof/Word.lean ====
section
/-! DEFINITION. Word.lean: the widths the manual names (00_scope.md R8) and the plainest arithmetic on them. -/
namespace Sys2Proof

/-- A byte (R8). -/
abbrev Byte := BitVec 8
/-- A 32-bit word: the unit of the instruction stream (R135). -/
abbrev W32 := BitVec 32
/-- A 64-bit doubleword: the width of a scalar register and of a pointer (R8, R20). -/
abbrev W64 := BitVec 64
/-- A vector register: 512 bytes (R8, R117). -/
abbrev Vec := BitVec 4096
/-- A mask: one bit per element (R20). -/
abbrev MaskBits := BitVec 1024
/-- A scalar register number (R139). -/
abbrev GReg := BitVec 5

end Sys2Proof
end

