-- ==== Sys2Proof/Config.lean ====
section
/-! DEFINITION. Config.lean: what one package fixes and the manual does not state (constants without a body), and
the figures of the manual that several files use. -/
namespace Sys2Proof.Config

/-- The private key of the device on brainpoolP384r1, before it is brought into range: the physically unclonable function
yields it (R325). No value is assumed. Log entry 9. -/
opaque devicePrivate : Nat
/-- Kelmin's manufacturing public key in mask ROM (R325, R326). No value is assumed. Log entry 9. -/
opaque kelminKey : Nat × Nat
/-- The nonce of a signature of the device, before it is brought into range, by the count of signatures made before it and
the try: the manual does not say how it is drawn (R325, R327). Log entry 9. -/
opaque nonce : Nat → Nat → Nat
/-- Where in a context's save heap a save record of the given size is put: the manual gives no allocation rule
(R297, R300). By the context, the size and the PT of the save. Log entry 10. -/
opaque heapPlace : Nat → Nat → Nat → Nat

/-- What the header of a save record holds (R300). -/
structure SaveHeader where
  size : Nat
  block : Nat
  index : Nat
  g1 : Nat
  g2 : Nat
  g3 : Nat
  roles : List Nat
  modeK : Bool
  vnames : Nat
  spmBase : Nat
  spmUnits : Nat
  semBase : Nat
  semLen : Nat
  deadline : Nat
  savePt : Nat
  stops : List Nat
  mxe : Bool
  resumes : Nat
  deriving DecidableEq, Repr

/-- The bytes in which the header of a save record holds its fields, which the manual names without offsets (R300). No value is
assumed. Log entry 10. -/
opaque headerByte : SaveHeader → Nat → Byte
/-- The 4 KiB in which a save record holds the tags of the accumulator rows, of the scale memory and of the weight buffers, and
the side bit, which the manual names without an arrangement (R300). No value is assumed. Log entry 10. -/
opaque mxeTagByte : List Bool → List Bool → List Bool → Nat → Nat → Byte

/-- The bytes of a record of a context's spill list, by what it holds and the offset: the manual gives a size and no layout
(R46, R299). No value is assumed. Log entry 10. -/
opaque spillByte : List Nat → Nat → Byte

/-- What a fault-log record holds at an offset whose content the fault does not have: the strand or head of a fault that
neither raised, the launch block and index of a fault outside a tile task (R311). By the offset, the PT and the number of the
record in its log. No value is assumed. Log entry 13. -/
opaque logFill : Nat → Nat → Nat → Nat

/-- What `vlane` supplies in element i of a floating type in which i has no exact value (R145 states the exact conversion
only). No value is assumed. Log entry 15. -/
opaque lane : Nat → Nat → Nat

/-- The DRAM row and the bank that hold a physical address: the manual gives no row or bank geometry (R335, R336). Log
entry 16. -/
opaque rowOf : Nat → Nat
/-- The bank of a physical address. Log entry 16. -/
opaque bankOf : Nat → Nat

/-- The context or module number of an event message whose cause has neither (R345). By the cause code and the number of the
event. Log entry 17. -/
opaque eventNum : Nat → Nat → Nat
/-- The 64 bits of detail of an event message, by its cause code and the number of the event: the manual does not say
what they hold (R345). Log entry 17. -/
opaque eventDetail : Nat → Nat → Nat

/-- Bytes and words of the poisoned results of a faulting engine command that completes under IGNORE: the manual gives
the tag and no value (R52). By the command's number and the place written. Log entry 18. -/
opaque poisoned : Nat → Nat → Nat

/-- The cause code that an event message carries for a context that the management core kills as a whole: the manual names
none (R315, R345). Log entry 17. -/
opaque killCause : Nat

/-- The way mask that a management register holds, by its number: the slice or RDC, and the context. The manual says that the
management core writes the masks, and gives no numbers (R109). Log entry 24. -/
opaque maskReg : Nat → Option (Nat × Nat)

/-- The lane map of a module (R332): whether it runs at x32, and then whether on lanes 32 to 63; and the spare lane that
stands in for each failed data lane, in ascending order of lanes. -/
structure LaneMap where
  x32 : Bool
  high : Bool
  uses : List (Nat × Nat)
  deriving DecidableEq, Repr

/-- A factory section of the configuration record as read: the bytes that are signed, its signature, the device id, the
present cores as CPRES holds them, the lane map of each module, and the HBM4 repair: for each repaired bank, the spare rows
that it uses (R325). -/
structure Factory where
  signed : List Byte
  r : Nat
  s : Nat
  device : Nat
  cores : List W64
  lanes : List (Nat × LaneMap)
  repair : List (Nat × Nat)
  deriving DecidableEq, Repr

/-- An owner section as read: the bytes that are signed, its signature if it has one, the device id, the facility keys by slot
with their ids, the owner key, the IPv4 address with mask and gateway, and the IEEE 1588 domain (R325, R345). -/
structure Owner where
  signed : List Byte
  sig : Option (Nat × Nat)
  device : Nat
  facilities : List (Nat × Nat × Nat × Nat)
  key : Option (Nat × Nat)
  ip : Option (Nat × Nat × Nat)
  domain : Nat
  deriving DecidableEq, Repr

/-- A firmware image as read: the bytes that are signed, the digest it states, and its signature (R326). -/
structure Image where
  signed : List Byte
  digest : Nat
  r : Nat
  s : Nat
  deriving DecidableEq, Repr

/-- How the bytes of a factory section are read; none when its length or format is wrong: the manual gives no layout (R325,
R344). Log entry 25. -/
opaque factoryOf : List Byte → Option Factory
/-- How the bytes of an owner section are read. Log entry 25. -/
opaque ownerOf : List Byte → Option Owner
/-- How the bytes of a firmware image are read. Log entry 25. -/
opaque imageOf : List Byte → Option Image

/-- Cores of the package (R16). -/
def cores : Nat := 256
/-- Depth of the MXE queue (R236). -/
def mxeDepth : Nat := 32
/-- Depth of each other engine queue (R236). -/
def engDepth : Nat := 16
/-- Entries of a home slice's postmark queue (R60). -/
def pmDepth : Nat := 256
/-- Waiting not-before loads of a home slice (R66). -/
def nbDepth : Nat := 128
/-- Monitors of a home slice (R104). -/
def monDepth : Nat := 64
/-- Entries of an L1 TLB (R18, R82). -/
def tlbDepth : Nat := 128
/-- Entries of the pending-launch pool that serve other than refills (R46: 4,096 less 256). -/
def poolGeneral : Nat := 3840
/-- Entries of the pending-launch pool (R46). -/
def poolDepth : Nat := 4096
/-- Tasks of the ready list (R270). -/
def readyDepth : Nat := 4096
/-- Graphs in flight (R269). -/
def graphDepth : Nat := 1024
/-- Entries of the tile readiness table (R105). -/
def trtDepth : Nat := 65536
/-- Open launch blocks of a die dispatcher (R275). -/
def dieSlots : Nat := 64
/-- Uncompleted blocks of a stream and its die queue (R266). -/
def streamDepth : Nat := 16
/-- The MXE section of a save record (R298, R300). -/
def mxeSave : Nat := 544768
/-- The most records one CHAIN performs (R259). -/
def chainLimit : Nat := 1048576
/-- The lock wait after power-on, in ns (R56). -/
def lockWait : Nat := 10000000000
/-- The longest wait for a free frame, in ns (R87). -/
def commitWait : Nat := 1000000
/-- The furthest a postmark, a not-before time or a WAITPT target lies ahead, in ns (R59, R66, R202). -/
def timeRange : Nat := 2 ^ 32

end Sys2Proof.Config
end

