-- ==== Sys2Proof/Syntax.lean ====
section
/-! DEFINITION. Syntax.lean: the steps of the part, one constructor for each row of the table of operations and events:
the words a strand issues, the micro-ops of a conductor word, and the events. -/
namespace Sys2Proof

/-- The causes of 21_traps.md R288. `software n` is TRAP n. -/
inductive Cause where
  | illegalOp | reservedField | enginePlacement | badName | privilege | readOnly | crossCluster
  | fifoUnderflow | fifoOverflow | poisonConsumed | loopState
  | translation | protection | commitFail | alignment | memControlError | tagMismatch | quota | spawnOverflow
  | latePostmark | scheduleMiss | staleTag | awaitPoisoned | deadlockAwait | semRange | txnAbortForced | timeRange
  | txnIllegal | postboxRange | semOverflow | badDecl
  | bankConflict | engineOperand | weightFormat | chainFormat | chainLimit | sfJob
  | queueOverrun | shed | recordFormat | spawnRole
  | linkRetryThreshold | regulatorFault | rowSpareExhausted | doubleFault | breakpoint | saveFault | dieIsolated
  | software (n : BitVec 5)
  deriving DecidableEq, Repr

/-- The cause code (R288). -/
def Cause.code : Cause → BitVec 8
  | .illegalOp => 0x01 | .reservedField => 0x02 | .enginePlacement => 0x03 | .badName => 0x04
  | .privilege => 0x05 | .readOnly => 0x06 | .crossCluster => 0x07
  | .fifoUnderflow => 0x21 | .fifoOverflow => 0x22 | .poisonConsumed => 0x23 | .loopState => 0x24
  | .translation => 0x41 | .protection => 0x42 | .commitFail => 0x43 | .alignment => 0x44
  | .memControlError => 0x46 | .tagMismatch => 0x4A | .quota => 0x4C | .spawnOverflow => 0x4E
  | .latePostmark => 0x61 | .scheduleMiss => 0x62 | .staleTag => 0x63 | .awaitPoisoned => 0x64
  | .deadlockAwait => 0x65 | .semRange => 0x66 | .txnAbortForced => 0x67 | .timeRange => 0x68
  | .txnIllegal => 0x69 | .postboxRange => 0x6A | .semOverflow => 0x6B | .badDecl => 0x6C
  | .bankConflict => 0x81 | .engineOperand => 0x82 | .weightFormat => 0x83 | .chainFormat => 0x84
  | .chainLimit => 0x85 | .sfJob => 0x86
  | .queueOverrun => 0xA1 | .shed => 0xA2 | .recordFormat => 0xA3 | .spawnRole => 0xA4
  | .linkRetryThreshold => 0xC1 | .regulatorFault => 0xC2 | .rowSpareExhausted => 0xC3 | .doubleFault => 0xC4
  | .breakpoint => 0xC5 | .saveFault => 0xC6 | .dieIsolated => 0xC7
  | .software n => 0xE0 + n.setWidth 8

/-- Comparisons of SET and BC (R138, R140): LT and GE signed, LTN and GEN unsigned. -/
inductive Cmp where
  | eq | ne | lt | ge | ltn | gen
  deriving DecidableEq, Repr

/-- Access sizes of scalar memory words (R141). -/
inductive Size where
  | b | h | w | d
  deriving DecidableEq, Repr

/-- Scopes of ACQ and REL (R98). -/
inductive Scope where
  | core | die | pkg | sys
  deriving DecidableEq, Repr

/-- Integer atomics (R192). -/
inductive AmoOp where
  | add | and | or | xor | min | max | minn | maxn | swp | cas
  deriving DecidableEq, Repr

/-- Floating-point atomics (R193). -/
inductive AmofOp where
  | add | min | max
  deriving DecidableEq, Repr

/-- Formats of AMOF (R193). -/
inductive AmofFmt where
  | f32 | f16 | bf16
  deriving DecidableEq, Repr

/-- Conditions of VCMP (R220). -/
inductive VCmp where
  | eq | ne | lt | le | gt | ge | uo
  deriving DecidableEq, Repr

/-- Operations of VRED (R227). -/
inductive RedOp where
  | add | max | min
  deriving DecidableEq, Repr

/-- The fields of a vector word other than length and opcode (R144). A source field is its 12 bits: keep in bit 11
and the name below it, or class G, M, T or O of R146. -/
structure VWord where
  ty : BitVec 4
  dst : BitVec 11
  s1 : BitVec 12
  s2 : BitVec 12
  s3 : BitVec 12
  mask : BitVec 4
  zero : Bool
  mode : BitVec 3
  wsem : BitVec 8
  wthr : BitVec 7
  ssem : BitVec 8
  sinc : BitVec 4
  deriving DecidableEq, Repr

/-- The fields every engine word has beside its opcode and operand area (R152). -/
structure EHead where
  wsem : BitVec 8
  wthr : BitVec 7
  ssem : BitVec 8
  sinc : BitVec 4
  stamped : Bool
  stamp : W32
  comp : W32
  deriving DecidableEq, Repr

/-- Operand area of MMA and MMAZ (R243). -/
structure MmaArgs where
  n1 : BitVec 6
  m1 : BitVec 6
  sat : Bool
  cb : BitVec 7
  ca : BitVec 7
  scaled : Bool
  fb : BitVec 4
  fa : BitVec 4
  acc : BitVec 4
  offB : BitVec 14
  bsrc : Bool
  offA : BitVec 14
  base : GReg
  deriving DecidableEq, Repr

/-- Operand area of ACCRD and ACCWR (R246). -/
structure AccArgs where
  ty : BitVec 4
  clr : Bool
  sat : Bool
  rz : Bool
  acc : BitVec 4
  off : BitVec 15
  base : GReg
  deriving DecidableEq, Repr

/-- Operand area of SCLD (R248). -/
structure SclArgs where
  nc1 : BitVec 7
  c0 : BitVec 7
  off : BitVec 15
  base : GReg
  deriving DecidableEq, Repr

/-- Operand area of WSTRM (R253). -/
structure WstArgs where
  width : BitVec 2
  fmt : BitVec 2
  count1 : BitVec 4
  t0 : BitVec 4
  src : GReg
  deriving DecidableEq, Repr

/-- Operand area of the courier words (R255). -/
structure CpyArgs where
  decl : BitVec 3
  skind : Bool
  dkind : Bool
  gw : GReg
  gz : GReg
  gs : GReg
  gd : GReg
  cq : BitVec 2
  deriving DecidableEq, Repr

/-- A message of an IEEE 1588 grandmaster: its domain number, and facility time as the exchange gives it (R56, R345). -/
structure PtpMsg where
  domain : Nat
  facility : Nat
  deriving DecidableEq, Repr

/-- Whom a pre-emption or resume request names (R296, R302). -/
inductive Target where
  | context (ctx : Nat)
  | tileTask (tt : Nat)
  | energyClass (cls : Nat)
  deriving DecidableEq, Repr

/-- The ranks of overlapping requests, weakest first (R303). -/
inductive Rank where
  | debug | switch | park | kill
  deriving DecidableEq, Repr

/-- What an uncorrectable or correctable error strikes (R113). -/
inductive ErrorAt where
  /-- a clean copy in an L1, by core and line -/
  | l1 (core line : Nat)
  /-- a clean copy in an RDC, by die and line -/
  | rdc (die line : Nat)
  /-- a clean line of an L2 slice -/
  | l2Clean (line : Nat)
  /-- a dirty L2 line or memory, by physical address -/
  | memory (pa : Nat)
  /-- a control structure that the access of a strand reads -/
  | controlOf (strand : Nat)
  /-- a control structure that the access of the command at work in an engine queue reads -/
  | controlOfEngine (core q : Nat)
  /-- a control structure that the instruction fetch of a strand reads -/
  | controlOfFetch (strand : Nat)
  /-- a control structure that an access of the control die or of the special-function die reads -/
  | controlOfDie
  /-- a control structure with no access concerned, of a context -/
  | controlIdle (ctx : Nat)
  deriving DecidableEq, Repr

/-- What the management core fixes when it creates a context (R88, R299). -/
structure CtxInit where
  area : Nat
  privileged : Bool
  debuggable : Bool
  policy : BitVec 2
  ceiling : BitVec 32
  root0 : W64
  root1 : W64
  flogOff : Nat
  flogCap : Nat
  spillOff : Nat
  spillCap : Nat
  heapOff : Nat
  heapSize : Nat
  deriving DecidableEq, Repr

/-- The steps of the part: the table of operations and events, row by row. Register fields are named as in R139:
d, a, b. An event's arguments say where it happens and what the surroundings bring. -/
inductive Instr where
  /-- a word that fails step 1 or step 2 of R137, as its units stand -/
  | illegalOp (reserved : Bool) (word : List W32)
  -- scalar words (13_scalar.md)
  | nop
  | add (d a b : GReg)
  | sub (d a b : GReg)
  | mul (d a b : GReg)
  | mulh (d a b : GReg)
  | mulhn (d a b : GReg)
  | div (d a b : GReg)
  | divn (d a b : GReg)
  | rem (d a b : GReg)
  | remn (d a b : GReg)
  | and (d a b : GReg)
  | or (d a b : GReg)
  | xor (d a b : GReg)
  | shl (d a b : GReg)
  | shr (d a b : GReg)
  | sha (d a b : GReg)
  | min (d a b : GReg)
  | max (d a b : GReg)
  | minn (d a b : GReg)
  | maxn (d a b : GReg)
  | clz (d a : GReg)
  | popc (d a : GReg)
  | sel (d a b : GReg)
  | setcc (c : Cmp) (d a b : GReg)
  | shli (d a : GReg) (sh : BitVec 6)
  | shri (d a : GReg) (sh : BitVec 6)
  | shai (d a : GReg) (sh : BitVec 6)
  | addi (d a : GReg) (imm : BitVec 15)
  | andi (d a : GReg) (imm : BitVec 15)
  | ori (d a : GReg) (imm : BitVec 15)
  | xori (d a : GReg) (imm : BitVec 15)
  | ldi (d : GReg) (imm : BitVec 15)
  | ldih (d : GReg) (imm : BitVec 15)
  | adda (d a : GReg) (imm : BitVec 15)
  | b (off : BitVec 24)
  | jl (off : BitVec 24)
  | bz (a : GReg) (off : BitVec 19)
  | bnz (a : GReg) (off : BitVec 19)
  | bccc (c : Cmp) (a b : GReg) (off : BitVec 14)
  | jr (a : GReg)
  | txb (off : BitVec 24)
  | txe
  | txa (code : BitVec 8)
  | txs (d : GReg)
  | loop (lv : BitVec 2) (count : BitVec 8) (last : BitVec 12)
  | loopg (lv : BitVec 2) (a : GReg) (last : BitVec 12)
  | loopp (lv : BitVec 2) (a : GReg) (stages1 : BitVec 3) (last : BitVec 12)
  | lexit (lv : BitVec 2)
  | safept (a : GReg)
  | exit (n : BitVec 3) (e1 e2 e3 e4 : GReg)
  | trap (n : BitVec 5)
  | brk (n : BitVec 5)
  | eret
  | ld (sz : Size) (d a : GReg) (off : BitVec 13)
  | ldn (sz : Size) (d a : GReg) (off : BitVec 13)
  | st (sz : Size) (d a : GReg) (off : BitVec 13)
  | ldS (sz : Size) (d a : GReg) (off : BitVec 13)
  | chk (a : GReg)
  | ldSp (sz : Size) (d a : GReg) (off : BitVec 13)
  | stSp (sz : Size) (d a : GReg) (off : BitVec 13)
  | spld (sz : Size) (d : GReg) (off : BitVec 13)
  | spst (sz : Size) (d : GReg) (off : BitVec 13)
  | ldNb (sz : Size) (d a b : GReg)
  | stPm (sz : Size) (d a b : GReg)
  | mark
  | acq (sc : Scope) (a b : GReg)
  | rel (sc : Scope)
  | fenceq (mask : BitVec 7)
  | amo (op : AmoOp) (dbl : Bool) (d a b : GReg)
  | amof (fz cn sv : Bool) (op : AmofOp) (fmt : AmofFmt) (d a b : GReg)
  | post (s : BitVec 8) (k : BitVec 7)
  | await (s : BitVec 8) (t : BitVec 7)
  | semrd (d : GReg) (s : BitVec 8)
  | semwr (s : BitVec 8) (a : GReg)
  | waitv (d a b : GReg)
  | tagpub (n : BitVec 3)
  | tagq (d : GReg) (n : BitVec 3)
  | ptrd (d : GReg)
  | frrd (d a : GReg)
  | waitpt (a : GReg)
  | mbsend (d a b : GReg)
  | mbrecv (d a b : GReg)
  | mbpoll (d a : GReg)
  | mfs (d : GReg) (r : BitVec 12)
  | mts (r : BitVec 12) (a : GReg)
  | kill (blk : BitVec 6) (mask : BitVec 24)
  | lockwr (a b : GReg)
  | lockrd (d a : GReg)
  | l1inv (a b : GReg)
  | rdcinv (a b : GReg)
  | cacheWb (a b : GReg)
  | tlbinv (a b : GReg)
  | qcfg (n : BitVec 6) (d a b : GReg)
  | qrst (n : BitVec 6)
  -- vector words (15_vector.md)
  | vadd (w : VWord) | vsub (w : VWord) | vmul (w : VWord) | vmulh (w : VWord) | vmad (w : VWord)
  | vmin (w : VWord) | vmax (w : VWord) | vabs (w : VWord) | vneg (w : VWord)
  | vand (w : VWord) | vor (w : VWord) | vxor (w : VWord) | vnot (w : VWord)
  | vshl (w : VWord) | vshr (w : VWord) | vsha (w : VWord) | vpopc (w : VWord)
  | vfadd (w : VWord) | vfsub (w : VWord) | vfmul (w : VWord) | vfma (w : VWord)
  | vfdiv (w : VWord) | vfsqrt (w : VWord) | vfrcp (w : VWord) | vfrsq (w : VWord)
  | vfexp2 (w : VWord) | vflog2 (w : VWord)
  | vfmin (w : VWord) | vfmax (w : VWord) | vfabs (w : VWord) | vfneg (w : VWord)
  | vcmp (c : VCmp) (w : VWord) | vsel (w : VWord)
  | mand (w : VWord) | mor (w : VWord) | mxor (w : VWord) | mnot (w : VWord)
  | mpopc (w : VWord) | mfirst (w : VWord)
  | vcvt (w : VWord) | vwiden (w : VWord) | vnarrow (w : VWord)
  | vquantScale (w : VWord) | vquant (w : VWord) | vdeq (w : VWord)
  | vred (op : RedOp) (w : VWord)
  | vperm (w : VWord) | vshuf (w : VWord) | vbcast (w : VWord) | vslide (w : VWord)
  | vins (w : VWord) | vext (w : VWord) | viota (w : VWord)
  | vld (w : VWord) | vst (w : VWord) | vldg (w : VWord) | vsts (w : VWord)
  | vldm (w : VWord) | vstm (w : VWord) | vldmNb (w : VWord) | vstmPm (w : VWord)
  | vmov (w : VWord) | vrng (w : VWord)
  -- engine words (17_engines.md)
  | mma (h : EHead) (x : MmaArgs)
  | mmaz (h : EHead) (x : MmaArgs)
  | accrd (h : EHead) (x : AccArgs)
  | accwr (h : EHead) (x : AccArgs)
  | accz (h : EHead) (mask : BitVec 16)
  | scld (h : EHead) (x : SclArgs)
  | wstrm (h : EHead) (x : WstArgs)
  | wsel (h : EHead) (buf : BitVec 1)
  | cpy (h : EHead) (x : CpyArgs)
  | cpyt (h : EHead) (x : CpyArgs)
  | cpyf (h : EHead) (x : CpyArgs)
  | chain (h : EHead) (x : CpyArgs)
  -- the records a CHAIN walks (R259), on courier queue q of a core
  | chainEnd (core q : Nat)
  | chainCopy (core q : Nat)
  | chainLoop (core q : Nat)
  | chainCond (core q : Nat)
  | chainSignal (core q : Nat)
  | sfjExp (h : EHead) (desc : GReg)
  | sfjLog (h : EHead) (desc : GReg)
  | sfjSoftmax (h : EHead) (desc : GReg)
  | sfjTopk (h : EHead) (desc : GReg)
  | sfjSort (h : EHead) (desc : GReg)
  | sfjSample (h : EHead) (desc : GReg)
  | sfjCompletion (core : Nat)
  | engineCommandStart (core q : Nat)
  | engineCommandComplete (core q segments : Nat)
  | stampedCommandIssue (core : Nat)
  | mxeOwnershipTake (core tt : Nat)
  -- conductor micro-ops (R157), d the target of their slot: 0-7 matrix dies, 8 the SFD
  | push (d : BitVec 4) (q : BitVec 2) (cb : BitVec 16)
  | qfence (d : BitVec 4) (mask : BitVec 4)
  | launch (g : GReg)
  | launchGraph (g : GReg)
  | overlay
  | overlaySwap (k : Nat)
  | controlBlockHead (k d q : Nat)
  | controlBlockComplete (k d q : Nat)
  -- scheduling (19_scheduling.md)
  | submit (v : W64)
  | graphAccept
  | admitStep
  | taskComplete (graph task : Nat)
  | graphComplete (graph : Nat)
  | dieSlotFill (die : Nat)
  | iterationSelect (die : Nat)
  | stealRequest (die : Nat)
  | stealReply (die : Nat)
  | stealBackoffExpiry (die : Nat)
  | tileTaskEnd (tt : Nat)
  | poolService
  | deadlockAwait (tt : Nat)
  -- time (05_time.md)
  | postmarkDeliver (strand : Nat)
  | postmarkPerform (die slice : Nat)
  | nbLoadPerform (strand : Nat)
  | frontierSample (die : Nat)
  | frontierMessage (src dst : Nat) (lost : Bool)
  | frontierSlip (die : Nat)
  | ptExchange (die : Nat) (ppm : Int) (offset : Int)
  | ptHoldover (die : Nat)
  | ptpMessage (message : PtpMsg)
  | ptStep (facility : Nat)
  | lockWaitExpiry
  | frameOverrun
  | frameStart
  | timetableRelease
  -- memory (07_memory.md)
  | globalLoadBind (strand : Nat)
  | globalStorePerform (strand : Nat)
  | waitvTimeout (strand : Nat)
  | atomicPerform (strand : Nat)
  | txnCommit (strand : Nat)
  | txnAbort (strand : Nat)
  | lazyCommit (strand : Nat)
  | commitWaitTimeout (strand : Nat)
  | uncorrectableError (e : ErrorAt)
  | correctableError (pa : Nat)
  | rowSpareReplace (pa : Nat)
  | parkSelfRefresh (channel : Nat)
  | channelRetire (die channel : Nat)
  | frameMove (frame target : Nat)
  | cxlLinkUp (port capacity : Nat)
  | cxlLinkDown (port : Nat)
  -- links (25_links.md), direction 0 from the first die named to the second
  | flitReceive (module dir seq vc : Nat) (crcOk : Bool) (free : List Nat)
  | nakReceive (module dir seq : Nat)
  | ackReceive (module dir seq : Nat)
  | linkWindowStart (module : Nat)
  | lnkctlPause (module : Nat) (pause : Bool)
  | linkPauseComplete (module : Nat)
  | lnkctlTrain (module : Nat)
  | lnkctlWindow (module len : Nat)
  | linkTrainComplete (module : Nat) (failed : W64) (spareFailed : BitVec 4)
  | lnkstatSvcClear (module : Nat)
  | qschedWrite (die core q : Nat) (v : W64)
  | queuePeriodStart (die core q : Nat)
  | queueOverrun (die core q : Nat)
  | counterClear (core offset : Nat)
  -- pre-emption and debug (21_traps.md)
  | preemptRequest (t : Target) (rank : Rank) (grace : Nat)
  | graceExpiry (tt : Nat)
  | preemptSave (tt : Nat)
  | saveComplete (tt : Nat)
  | resumeRequest (t : Target)
  | tileTaskResume (tt core : Nat)
  -- a context's number, or 64 and the number of one to whose next BRK the stop is armed
  | debugStop (ctx : Nat)
  | dump (ctx : Nat)
  | triggerMatch (trigger : Nat)
  | faultLogDrain (ctx count : Nat)
  | contextCreate (ctx : Nat) (x : CtxInit)
  -- energy (23_energy.md)
  | meterSample (power idle : Nat) (est : List (Nat × Nat × Nat × Nat))
  | replan
  | powerWindowEnd
  | pwrbandClear
  -- a datagram to the package's management port: its bytes, part after part, whatever each holds, and its sender (R345)
  | curveRecord (header record : List Byte) (sender : Nat)
  | curveTakeEffect
  | gradeEnter
  | gradeLeave
  | contextPark (ctx : Nat)
  | contextUnpark (ctx : Nat)
  | regionFrequencyChange (region : Nat)
  | dieGate (die : Nat)
  | dieUngate (die : Nat)
  | regulatorFault (region : Nat)
  | regionDark (region : Nat)
  | feedLoss (feed : Nat) (carries : Bool)
  | powerOn
  -- host and management ports (25_links.md)
  | substatClear
  | apertureWrite (v : W64)
  | killedClear (v : W64)
  | cfgInstallSection (v : W64)
  | cfgInstallFirmware (v : W64)
  | cfgAttestation (v : W64)
  | cfgCommandDone
  -- an offset in BAR 1, or 2 ^ 24 and an offset in BAR 0
  | hostBar1Access (write : Bool) (off : Nat) (data : List Byte)
  | hostBar2Access (write : Bool) (off : Nat) (data : List Byte)
  | attestationMessage (header ctx reserved nonce : List Byte) (sender : Nat)
  | arpRequest (ip sender : Nat)
  | icmpEcho (ip sender : Nat) (data : List Byte)
  | mgmtRegisterWrite (num : BitVec 12) (v : W64)
  -- what remains
  | vectorWordCompletion (strand index : Nat)
  | waitptComplete (strand : Nat)
  | freePoolRefill (die size frame : Nat)
  | dhcp (ip mask gateway : Nat)
  | dieUngateComplete (die : Nat)
  | managementCoreKill (ctx : Nat)
  deriving DecidableEq, Repr

end Sys2Proof
end

