-- ==== Sys2Proof/WellFormed.lean ====
section
/-! DEFINITION. WellFormed.lean: what the first two checks of R137 ask of a word before any state is looked at: the form
is allocated, and every reserved or unused field is zero. The decoder refuses by these same checks. -/
namespace Sys2Proof

/-- Why a word is not well formed: step 1 or step 2 of R137. -/
inductive Bad where
  | illegal
  | reserved
  deriving DecidableEq, Repr

/-- Field classes of a vector word (R145, R146, R147). -/
inductive FClass where
  /-- an operand name -/
  | v
  /-- a scalar register in bits [4:0] -/
  | g
  /-- a mask in bits [3:0] -/
  | m
  /-- a type code in bits [3:0] -/
  | t
  /-- a 12-bit offset -/
  | o
  /-- must be 0 -/
  | none
  deriving DecidableEq, Repr

/-- How a vector word reads its mode field (R122, R212, and the word's own description). -/
inductive MClass where
  /-- must be 0 -/
  | zero
  /-- mode[0] is sat -/
  | sat
  /-- R122; rnd 3 is ILLEGAL_OP -/
  | fp
  /-- ftz; rnd must be 0 (R219) -/
  | ftz
  /-- VCMP: 0 for I types, ftz for F types (R220) -/
  | cmp
  /-- VSEL: the selecting mask (R221) -/
  | sel
  /-- VCVT: R122; rnd 3 only from f32 to bf16 (R223) -/
  | cvt
  /-- VQUANT scale form: ftz; rnd must be 0 (R225) -/
  | qscale
  /-- VRED.add: R122 for F types, sat for I types (R227) -/
  | redAdd
  /-- VRED.max and .min: R122 for F types, 0 for I types (R227) -/
  | redCmp
  /-- VSHUF: patterns 0 to 3 (R228) -/
  | shuf
  deriving DecidableEq, Repr

/-- The type codes a vector word accepts (R211). -/
inductive TClass where
  | i | f | if_ | if8 | q | any
  /-- i32 and n32 (R235) -/
  | rng
  /-- the field must be 0 (R211, R222) -/
  | zero
  deriving DecidableEq, Repr

/-- The form of a vector opcode: its field classes (R147), types, mode, and whether it takes mask and zero (R150). -/
structure VForm where
  dst : FClass
  s1 : FClass
  s2 : FClass
  s3 : FClass
  ty : TClass
  mode : MClass
  maskOk : Bool
  zeroOk : Bool
  deriving DecidableEq, Repr

/-- Whether a type code belongs to a class (R211). -/
def TClass.has (c : TClass) (t : Nat) : Bool :=
  match c with
  | .i => t < 8
  | .f => 8 ≤ t && t < 11
  | .if_ => t < 11
  | .if8 => t < 11 && t ≠ 6 && t ≠ 7
  | .q => 11 ≤ t && t < 14
  | .any => t < 14
  | .rng => t = 4 || t = 5
  | .zero => true

/-- Width in bits of a type code (R116). -/
def typeWidth (t : Nat) : Nat :=
  if t = 0 || t = 1 || t = 11 || t = 12 then 8
  else if t = 2 || t = 3 || t = 9 || t = 10 then 16
  else if t = 4 || t = 5 || t = 8 then 32
  else 4

/-- The name of `vzero` (R145). -/
def nameVzero : Nat := 1600

/-- Unused bits of a source field of a class are zero; a special operand is never kept (R145, R146). -/
def FClass.srcOk (c : FClass) (f : BitVec 12) : Bool :=
  match c with
  | .v => !(f.extractLsb' 11 1 = 1 && 1600 ≤ (f.extractLsb' 0 11).toNat && (f.extractLsb' 0 11).toNat ≤ 1603)
  | .g => f.extractLsb' 5 7 = 0
  | .m => f.extractLsb' 4 8 = 0
  | .t => f.extractLsb' 4 8 = 0 && (f.extractLsb' 0 4).toNat < 14
  | .o => true
  | .none => f = 0

/-- Unused bits of the destination field of a class are zero (R146). -/
def FClass.dstOk (c : FClass) (f : BitVec 11) : Bool :=
  match c with
  | .v => true
  | .g => f.extractLsb' 5 6 = 0
  | .m => f.extractLsb' 4 7 = 0
  | .t => false
  | .o => false
  | .none => f = 0

/-- Whether the value of a mode field is allocated: step 1 of R137 (R122, R212, R223, R228). -/
def MClass.legal (c : MClass) (ty st mode : Nat) : Bool :=
  match c with
  | .fp => mode % 4 ≠ 3
  | .cvt => mode % 4 ≠ 3 || (st = 8 && ty = 10)
  | .redAdd | .redCmp => !(8 ≤ ty && ty < 14) || mode % 4 ≠ 3
  | .shuf => mode < 4
  | _ => true

/-- Whether the bits a mode class does not define are 0: step 2 of R137. -/
def MClass.clean (c : MClass) (ty mode : Nat) : Bool :=
  match c with
  | .zero => mode = 0
  | .sat => mode < 2
  | .fp => true
  | .ftz => mode % 4 = 0
  | .cmp => if ty < 8 then mode = 0 else mode % 4 = 0
  | .sel => true
  | .cvt => true
  | .qscale => mode % 4 = 0
  | .redAdd => !(ty < 8) || mode < 2
  | .redCmp => !(ty < 8) || mode = 0
  | .shuf => true

/-- The forms of the vector opcodes (R147, R150, R217-R235). VQUANT's two forms differ in src2 (R225). -/
def vform (opc : Nat) (scale : Bool) : Option VForm :=
  let f3 (ty : TClass) (mode : MClass) : VForm := ⟨.v, .v, .v, .none, ty, mode, true, true⟩
  let f2 (ty : TClass) (mode : MClass) : VForm := ⟨.v, .v, .none, .none, ty, mode, true, true⟩
  let f4 (ty : TClass) (mode : MClass) : VForm := ⟨.v, .v, .v, .v, ty, mode, true, true⟩
  match opc with
  | 0x01 | 0x02 | 0x03 | 0x0E => some (f3 .i .sat)
  | 0x04 | 0x06 | 0x07 | 0x0F | 0x10 => some (f3 .i .zero)
  | 0x05 => some (f4 .i .sat)
  | 0x08 | 0x09 => some (f2 .i .sat)
  | 0x0A | 0x0B | 0x0C => some (f3 .if_ .zero)
  | 0x0D => some (f2 .if_ .zero)
  | 0x11 => some (f2 .i .zero)
  | 0x20 | 0x21 | 0x22 | 0x28 => some (f3 .f .fp)
  | 0x23 => some (f4 .f .fp)
  | 0x24 | 0x25 => some (f3 .f .ftz)
  | 0x26 | 0x27 => some (f2 .f .ftz)
  | 0x29 | 0x2A | 0x2B | 0x2C | 0x2D => some (f2 .f .fp)
  | 0x40 | 0x41 | 0x42 | 0x43 | 0x44 | 0x45 => some ⟨.m, .v, .v, .none, .if_, .cmp, false, false⟩
  | 0x46 => some ⟨.m, .v, .v, .none, .f, .cmp, false, false⟩
  | 0x48 => some ⟨.v, .v, .v, .none, .if_, .sel, false, false⟩
  | 0x49 | 0x4A | 0x4B => some ⟨.m, .m, .m, .none, .zero, .zero, false, false⟩
  | 0x4C => some ⟨.m, .m, .none, .none, .zero, .zero, false, false⟩
  | 0x4D | 0x4E => some ⟨.g, .m, .none, .none, .zero, .zero, false, false⟩
  | 0x60 => some ⟨.v, .v, .none, .t, .any, .cvt, true, true⟩
  | 0x61 => some ⟨.v, .v, .none, .t, .i, .zero, true, true⟩
  | 0x62 => some ⟨.v, .v, .none, .t, .i, .sat, true, true⟩
  | 0x63 => some ⟨.v, .v, .v, .t, .q, if scale then .qscale else .fp, false, false⟩
  | 0x64 => some ⟨.v, .v, .v, .t, .f, .fp, false, false⟩
  | 0x70 => some ⟨.v, .v, .none, .none, .if_, .redAdd, true, false⟩
  | 0x71 | 0x72 => some ⟨.v, .v, .none, .none, .if_, .redCmp, true, false⟩
  | 0x74 => some (f3 .if8 .zero)
  | 0x75 => some (f3 .if_ .shuf)
  | 0x76 => some ⟨.v, .g, .none, .none, .if_, .zero, true, true⟩
  | 0x77 => some ⟨.v, .v, .v, .g, .if_, .zero, true, true⟩
  | 0x78 => some ⟨.v, .v, .g, .g, .if_, .zero, true, true⟩
  | 0x79 => some ⟨.g, .v, .g, .none, .if_, .zero, false, false⟩
  | 0x7A => some ⟨.v, .m, .none, .none, .i, .zero, true, true⟩
  | 0x80 | 0x84 => some ⟨.v, .g, .o, .none, .any, .zero, true, true⟩
  | 0x81 | 0x85 => some ⟨.none, .g, .o, .v, .any, .zero, true, false⟩
  | 0x82 => some ⟨.v, .g, .o, .v, .if8, .zero, true, true⟩
  | 0x83 => some ⟨.v, .g, .o, .v, .if8, .zero, true, false⟩
  | 0x86 => some ⟨.v, .g, .o, .g, .any, .zero, true, true⟩
  | 0x87 => some ⟨.g, .g, .o, .v, .any, .zero, true, false⟩
  | 0x90 => some (f2 .any .zero)
  | 0x91 => some ⟨.v, .g, .g, .none, .rng, .zero, true, true⟩
  | _ => none

/-- Whether the scale form of VQUANT is meant: src2 names vzero (R225). -/
def VWord.isScale (w : VWord) : Bool := (w.s2.extractLsb' 0 11).toNat = nameVzero

/-- The pairs of types that VCVT, VWIDEN, VNARROW, VQUANT and VDEQ allow (R223-R226). -/
def typePairOk (opc ty st : Nat) : Bool :=
  match opc with
  | 0x60 => (8 ≤ ty || 8 ≤ st) && ty ≠ st
  | 0x61 => st < 8 && typeWidth st < typeWidth ty
  | 0x62 => st < 8 && typeWidth ty < typeWidth st
  | 0x63 => 8 ≤ st && st < 11
  | 0x64 => 11 ≤ st
  | _ => true

/-- The two static checks of a vector word, in the order of R137. -/
def vcheck (opc : Nat) (w : VWord) : Option Bad :=
  match vform opc w.isScale with
  | none => some .illegal
  | some f =>
    let ty := w.ty.toNat
    let st := (w.s3.extractLsb' 0 4).toNat
    let stDef := f.s3 = .t && 14 ≤ st
    if ty < 14 && !f.ty.has ty then some .illegal
    else if ty < 14 && !stDef && !typePairOk opc ty st then some .illegal
    else if !f.mode.legal ty st w.mode.toNat then some .illegal
    else if (opc = 0x85 || opc = 0x87) && ty < 14 && typeWidth ty = 4 && w.mask ≠ 0 then some .illegal
    else if !(ty < 14) || stDef then some .reserved
    else if !f.mode.clean ty w.mode.toNat then some .reserved
    else if f.ty = .zero && ty ≠ 0 then some .reserved
    else if !(f.dst.dstOk w.dst && f.s1.srcOk w.s1 && f.s2.srcOk w.s2 && f.s3.srcOk w.s3) then some .reserved
    else if !f.maskOk && w.mask ≠ 0 then some .reserved
    else if !f.zeroOk && w.zero then some .reserved
    else if w.wthr = 0 && w.wsem ≠ 0 then some .reserved
    else if w.sinc = 0 && w.ssem ≠ 0 then some .reserved
    else none

/-- What every engine word's common fields must be (R152): a stamp only on MXE words, the stamp 0 without it, and the
semaphore field of an absent clause 0 (R151). -/
def EHead.clean (h : EHead) (mxe : Bool) : Bool :=
  (mxe || !h.stamped) && (h.stamped || h.stamp = 0) &&
  (h.wthr ≠ 0 || h.wsem = 0) && (h.sinc ≠ 0 || h.ssem = 0)

/-- A type of MMA is a floating type (R241). -/
def mmaFloat (fa : Nat) : Bool := 8 ≤ fa

/-- The fields an MMA or MMAZ does not use are 0, and no type code is 14 or 15 (R116, R243). -/
def MmaArgs.clean (x : MmaArgs) : Bool :=
  x.fa.toNat < 14 && x.fb.toNat < 14 && (x.scaled || (x.ca = 0 && x.cb = 0)) &&
  (!(mmaFloat x.fa.toNat && mmaFloat x.fb.toNat) || !x.sat) && (!x.bsrc || x.offB.extractLsb' 4 10 = 0)

/-- The fields an ACCWR does not use are 0 (R246). -/
def AccArgs.clean (x : AccArgs) (wr : Bool) : Bool :=
  x.ty.toNat < 14 && (!wr || (!x.clr && !x.sat && !x.rz))

/-- The width field is used by the 2:4 format only (R253). -/
def WstArgs.clean (x : WstArgs) : Bool := x.fmt = 1 || x.width = 0

/-- The courier words, by the fields they use (R255): 0 CPY, 1 CPYT, 2 CPYF, 3 CHAIN. -/
def CpyArgs.clean (x : CpyArgs) (op : Nat) : Bool :=
  match op with
  | 0 => x.decl = 0
  | 1 => true
  | 2 => x.decl = 0 && !x.skind
  | _ => x.decl = 0 && !x.skind && !x.dkind && x.gd = 0 && x.gw = 0 && x.gz = 0

/-- The static checks of a scalar word beyond its encoding: step 1 (R138-R142). -/
def Instr.scalarLegal : Instr → Bool
  | .ldn .d _ _ _ => false
  | .loopp _ a sg _ => sg = 0 || a.toNat ≤ 30
  | .tagpub n => n.toNat < 6
  | .tagq _ n => n.toNat < 6
  | _ => true

/-- The static checks of a scalar word: step 2 (R142). -/
def Instr.scalarClean : Instr → Bool
  | .loop _ _ last => last ≠ 0
  | .loopg _ _ last => last ≠ 0
  | .loopp _ _ _ last => last ≠ 0
  | .exit n e1 e2 e3 e4 =>
    n.toNat ≤ 4 && (1 ≤ n.toNat || e1 = 0) && (2 ≤ n.toNat || e2 = 0) && (3 ≤ n.toNat || e3 = 0) &&
    (4 ≤ n.toNat || e4 = 0)
  | _ => true

/-- The opcode and the fields of a vector word (R147). -/
def Instr.vword : Instr → Option (Nat × VWord)
  | .vadd w => some (0x01, w) | .vsub w => some (0x02, w) | .vmul w => some (0x03, w) | .vmulh w => some (0x04, w)
  | .vmad w => some (0x05, w) | .vmin w => some (0x06, w) | .vmax w => some (0x07, w) | .vabs w => some (0x08, w)
  | .vneg w => some (0x09, w) | .vand w => some (0x0A, w) | .vor w => some (0x0B, w) | .vxor w => some (0x0C, w)
  | .vnot w => some (0x0D, w) | .vshl w => some (0x0E, w) | .vshr w => some (0x0F, w) | .vsha w => some (0x10, w)
  | .vpopc w => some (0x11, w)
  | .vfadd w => some (0x20, w) | .vfsub w => some (0x21, w) | .vfmul w => some (0x22, w) | .vfma w => some (0x23, w)
  | .vfmin w => some (0x24, w) | .vfmax w => some (0x25, w) | .vfabs w => some (0x26, w) | .vfneg w => some (0x27, w)
  | .vfdiv w => some (0x28, w) | .vfsqrt w => some (0x29, w) | .vfrcp w => some (0x2A, w) | .vfrsq w => some (0x2B, w)
  | .vfexp2 w => some (0x2C, w) | .vflog2 w => some (0x2D, w)
  | .vcmp .eq w => some (0x40, w) | .vcmp .ne w => some (0x41, w) | .vcmp .lt w => some (0x42, w)
  | .vcmp .le w => some (0x43, w) | .vcmp .gt w => some (0x44, w) | .vcmp .ge w => some (0x45, w)
  | .vcmp .uo w => some (0x46, w)
  | .vsel w => some (0x48, w)
  | .mand w => some (0x49, w) | .mor w => some (0x4A, w) | .mxor w => some (0x4B, w) | .mnot w => some (0x4C, w)
  | .mpopc w => some (0x4D, w) | .mfirst w => some (0x4E, w)
  | .vcvt w => some (0x60, w) | .vwiden w => some (0x61, w) | .vnarrow w => some (0x62, w)
  | .vquantScale w => some (0x63, w) | .vquant w => some (0x63, w) | .vdeq w => some (0x64, w)
  | .vred .add w => some (0x70, w) | .vred .max w => some (0x71, w) | .vred .min w => some (0x72, w)
  | .vperm w => some (0x74, w) | .vshuf w => some (0x75, w) | .vbcast w => some (0x76, w)
  | .vslide w => some (0x77, w) | .vins w => some (0x78, w) | .vext w => some (0x79, w) | .viota w => some (0x7A, w)
  | .vld w => some (0x80, w) | .vst w => some (0x81, w) | .vldg w => some (0x82, w) | .vsts w => some (0x83, w)
  | .vldm w => some (0x84, w) | .vstm w => some (0x85, w) | .vldmNb w => some (0x86, w) | .vstmPm w => some (0x87, w)
  | .vmov w => some (0x90, w) | .vrng w => some (0x91, w)
  | _ => none

/-- The static checks of an engine word's own fields (R152, R237 step 2 leaves the rest to issue). -/
def Instr.engineClean : Instr → Option Bool
  | .mma h x => some (h.clean true && x.clean)
  | .mmaz h x => some (h.clean true && x.clean)
  | .accrd h x => some (h.clean true && x.clean false)
  | .accwr h x => some (h.clean true && x.clean true)
  | .accz h _ => some (h.clean true)
  | .scld h _ => some (h.clean true)
  | .wstrm h x => some (h.clean false && x.clean)
  | .wsel h _ => some (h.clean false)
  | .cpy h x => some (h.clean false && x.clean 0)
  | .cpyt h x => some (h.clean false && x.clean 1)
  | .cpyf h x => some (h.clean false && x.clean 2)
  | .chain h x => some (h.clean false && x.clean 3)
  | .sfjExp h _ => some (h.clean false)
  | .sfjLog h _ => some (h.clean false)
  | .sfjSoftmax h _ => some (h.clean false)
  | .sfjTopk h _ => some (h.clean false)
  | .sfjSort h _ => some (h.clean false)
  | .sfjSample h _ => some (h.clean false)
  | _ => none

/-- The first failing static check of a word, in the order of R137; none when the word is well formed. -/
def Instr.check (i : Instr) : Option Bad :=
  match i.vword with
  | some (opc, w) => vcheck opc w
  | none =>
    match i.engineClean with
    | some ok => if ok then none else some .reserved
    | none => if !i.scalarLegal then some .illegal else if !i.scalarClean then some .reserved else none

/-- VQUANT's two constructors are told apart by src2 (R225). -/
def Instr.quantOk : Instr → Bool
  | .vquantScale w => w.isScale
  | .vquant w => !w.isScale
  | _ => true

/-- A micro-op stands in the slot of one of the nine targets (R155). -/
def Instr.slotOk : Instr → Bool
  | .push d _ _ => d.toNat < 9
  | .qfence d _ => d.toNat < 9
  | _ => true

/-- A well-formed step: a word that passes the static checks of R137. An event is well formed as it stands. -/
def Instr.wf (i : Instr) : Bool := i.check = none && i.quantOk && i.slotOk

end Sys2Proof
end

