-- ==== Sys2Proof/Decode.lean ====
section
/-! DEFINITION. Decode.lean: from the bits of a word to the step it asks for, by the maps of 11_encoding.md and the
operand areas of 17_engines.md, and back. A word is rejected by the first of the two static checks of R137 that fails. -/
namespace Sys2Proof

/-- Bits [hi:lo] of a number (R12). -/
def bits (x lo n : Nat) : Nat := x / 2 ^ lo % 2 ^ n

/-- Units of a word, from bits [1:0] of its first unit (R135). -/
def unitsOf (u : W32) : Nat :=
  match bits u.toNat 0 2 with
  | 1 => 3
  | 3 => 6
  | _ => 1

/-- Refuse by the static checks of R137, or accept. -/
def accept (i : Instr) : Except Bad Instr :=
  match i.check with
  | some b => .error b
  | none => .ok i

/-- The step is refused when a field it does not use is not 0 (R137 step 2), and otherwise judged by `accept`. -/
def acceptIf (unusedZero : Bool) (i : Instr) : Except Bad Instr :=
  match accept i with
  | .error b => .error b
  | .ok i => if unusedZero then .ok i else .error .reserved

/-- The comparison of a condition number (R138, R140). -/
def cmpOf (n : Nat) : Option Cmp :=
  match n with
  | 0 => some .eq | 1 => some .ne | 2 => some .lt | 3 => some .ge | 4 => some .ltn | 5 => some .gen | _ => none

/-- The access size of a size field (R141). -/
def sizeOf2 (n : Nat) : Size :=
  match n with
  | 0 => .b | 1 => .h | 2 => .w | _ => .d

/-- The scope of ACQ and REL (R140). -/
def scopeOf (n : Nat) : Scope :=
  match n with
  | 0 => .core | 1 => .die | 2 => .pkg | _ => .sys

/-- The operation of an AMO (R140). -/
def amoOf (n : Nat) : AmoOp :=
  match n with
  | 0 => .add | 1 => .and | 2 => .or | 3 => .xor | 4 => .min | 5 => .max | 6 => .minn | 7 => .maxn | 8 => .swp | _ => .cas

/-- The operation of an AMOF (R140). -/
def amofOf (n : Nat) : Option AmofOp :=
  match n with
  | 0 => some .add | 1 => some .min | 2 => some .max | _ => none

/-- The format of an AMOF (R140). -/
def amofFmtOf (n : Nat) : Option AmofFmt :=
  match n with
  | 0 => some .f32 | 1 => some .f16 | 2 => some .bf16 | _ => none

/-- What an opcode map makes of a word: whether its unused fields are 0, and the step; none for an opcode that it does not
give. -/
abbrev Form := Option (Bool × Instr)

/-- A step whose word has no unused field. -/
def form (i : Instr) : Form := some (true, i)

/-- A step, and whether the unused fields of its word are 0. -/
def formIf (unusedZero : Bool) (i : Instr) : Form := some (unusedZero, i)

/-- The SR function map (R140). -/
def decodeSR (w : Nat) : Form :=
  let f := bits w 23 9 * 2 + bits w 1 1
  let bn := bits w 18 5
  let an := bits w 13 5
  let dn := bits w 8 5
  let b : GReg := BitVec.ofNat 5 bn
  let a : GReg := BitVec.ofNat 5 an
  let d : GReg := BitVec.ofNat 5 dn
  if f = 0x000 then formIf (bn = 0 && an = 0 && dn = 0) .nop
  else if f < 0x01C then
    match f with
    | 0x001 => form (.add d a b) | 0x002 => form (.sub d a b) | 0x003 => form (.mul d a b)
    | 0x004 => form (.mulh d a b) | 0x005 => form (.mulhn d a b) | 0x006 => form (.div d a b)
    | 0x007 => form (.divn d a b) | 0x008 => form (.rem d a b) | 0x009 => form (.remn d a b)
    | 0x010 => form (.and d a b) | 0x011 => form (.or d a b) | 0x012 => form (.xor d a b)
    | 0x013 => form (.shl d a b) | 0x014 => form (.shr d a b) | 0x015 => form (.sha d a b)
    | 0x018 => form (.min d a b) | 0x019 => form (.max d a b) | 0x01A => form (.minn d a b)
    | 0x01B => form (.maxn d a b)
    | _ => none
  else if f < 0x030 then
    match f with
    | 0x01C => formIf (bn = 0) (.clz d a)
    | 0x01D => formIf (bn = 0) (.popc d a)
    | 0x01E => form (.sel d a b)
    | 0x020 => form (.setcc .eq d a b) | 0x021 => form (.setcc .ne d a b) | 0x022 => form (.setcc .lt d a b)
    | 0x023 => form (.setcc .ge d a b) | 0x024 => form (.setcc .ltn d a b) | 0x025 => form (.setcc .gen d a b)
    | _ => none
  else if f < 0x040 then
    match f with
    | 0x030 => formIf (dn = 0 && bn = 0) (.jr a)
    | 0x031 => formIf (dn = 0 && an = 0 && bn = 0) .eret
    | 0x032 => formIf (dn = 0 && bn = 0) (.safept a)
    | 0x033 => formIf (dn = 0 && bn = 0) (.chk a)
    | 0x034 => formIf (an = 0 && bn = 0) (.ptrd d)
    | 0x035 => formIf (dn = 0 && bn = 0) (.waitpt a)
    | 0x036 => formIf (bn = 0) (.frrd d a)
    | 0x038 => formIf (dn = 0 && an = 0 && bn = 0) .txe
    | 0x03A => formIf (an = 0 && bn = 0) (.txs d)
    | _ => none
  else if f < 0x046 then formIf (dn = 0 && an = 0 && bn = 0) (.tagpub (BitVec.ofNat 3 (f - 0x040)))
  else if 0x048 ≤ f && f < 0x04E then formIf (an = 0 && bn = 0) (.tagq d (BitVec.ofNat 3 (f - 0x048)))
  else if 0x050 ≤ f && f < 0x056 then
    let sh := BitVec.ofNat 6 (f % 2 * 32 + bn)
    match f / 2 with
    | 0x28 => form (.shli d a sh)
    | 0x29 => form (.shri d a sh)
    | _ => form (.shai d a sh)
  else if 0x058 ≤ f && f < 0x080 then
    match f with
    | 0x058 => formIf (dn = 0 && an = 0 && bn = 0) .mark
    | 0x060 | 0x061 | 0x062 | 0x063 => formIf (dn = 0) (.acq (scopeOf (f - 0x060)) a b)
    | 0x064 | 0x065 | 0x066 | 0x067 => formIf (dn = 0 && an = 0 && bn = 0) (.rel (scopeOf (f - 0x064)))
    | 0x068 => form (.waitv d a b)
    | 0x069 => form (.mbsend d a b)
    | 0x06A => form (.mbrecv d a b)
    | 0x06B => formIf (bn = 0) (.mbpoll d a)
    | 0x06C => formIf (dn = 0) (.tlbinv a b)
    | 0x070 => formIf (an = 0 && bn = 0) (.trap d)
    | 0x071 => formIf (an = 0 && bn = 0) (.brk d)
    | 0x078 | 0x079 | 0x07A | 0x07B => form (.ldNb (sizeOf2 (f - 0x078)) d a b)
    | 0x07C | 0x07D | 0x07E | 0x07F => form (.stPm (sizeOf2 (f - 0x07C)) d a b)
    | _ => none
  else if 0x080 ≤ f && f < 0x100 then formIf (dn = 0 && an = 0 && bn = 0) (.fenceq (BitVec.ofNat 7 (f - 0x080)))
  else if 0x100 ≤ f && f < 0x140 then form (.qcfg (BitVec.ofNat 6 (f - 0x100)) d a b)
  else if 0x140 ≤ f && f < 0x180 then formIf (dn = 0 && an = 0 && bn = 0) (.qrst (BitVec.ofNat 6 (f - 0x140)))
  else if 0x180 ≤ f && f < 0x1A8 then
    if f % 4 < 2 then none else form (.amo (amoOf ((f - 0x180) / 4)) (f % 4 = 3) d a b)
  else if 0x1E0 ≤ f && f < 0x1E5 then
    match f with
    | 0x1E0 => formIf (dn = 0) (.lockwr a b)
    | 0x1E1 => formIf (bn = 0) (.lockrd d a)
    | 0x1E2 => formIf (dn = 0) (.l1inv a b)
    | 0x1E3 => formIf (dn = 0) (.rdcinv a b)
    | _ => formIf (dn = 0) (.cacheWb a b)
  else if 0x200 ≤ f && f < 0x300 then formIf (dn = 0 && an = 0 && bn = 0) (.txa (BitVec.ofNat 8 (f - 0x200)))
  else if 0x300 ≤ f && f < 0x400 then
    match amofOf (bits f 3 2), amofFmtOf (bits f 0 3) with
    | some op, some fmt => form (.amof (bits f 5 1 = 1) (bits f 6 1 = 1) (bits f 7 1 = 1) op fmt d a b)
    | _, _ => none
  else none

/-- The SI words (R138, R139, R141). `p` is the even member of the pair of primary opcodes, halved. -/
def decodeSI (p w : Nat) : Form :=
  let imm := bits w 18 14 * 2 + bits w 1 1
  let im : BitVec 15 := BitVec.ofNat 15 imm
  let an := bits w 13 5
  let dn := bits w 8 5
  let a : GReg := BitVec.ofNat 5 an
  let d : GReg := BitVec.ofNat 5 dn
  let sz := sizeOf2 (bits imm 13 2)
  let off : BitVec 13 := BitVec.ofNat 13 imm
  let sem : BitVec 8 := BitVec.ofNat 8 imm
  let k : BitVec 7 := BitVec.ofNat 7 (bits imm 8 7)
  match p with
  | 0x01 => form (.addi d a im)
  | 0x02 => form (.andi d a im)
  | 0x03 => form (.ori d a im)
  | 0x04 => form (.xori d a im)
  | 0x05 => formIf (an = 0) (.ldi d im)
  | 0x06 => formIf (an = 0) (.ldih d im)
  | 0x07 => form (.adda d a im)
  | 0x08 => form (.ld sz d a off)
  | 0x09 => form (.ldn sz d a off)
  | 0x0A => form (.st sz d a off)
  | 0x0B => form (.ldS sz d a off)
  | 0x0C => form (.ldSp sz d a off)
  | 0x0D => form (.stSp sz d a off)
  | 0x0E => formIf (an = 0) (.spld sz d off)
  | 0x0F => formIf (an = 0) (.spst sz d off)
  | 0x10 => formIf (dn = 0 && an = 0) (.post sem k)
  | 0x11 => formIf (dn = 0 && an = 0) (.await sem k)
  | 0x12 => formIf (k = 0 && an = 0) (.semrd d sem)
  | 0x13 => formIf (k = 0 && dn = 0) (.semwr sem a)
  | 0x1D => formIf (an = 0 && bits imm 12 3 = 0) (.mfs d (BitVec.ofNat 12 imm))
  | 0x1E => formIf (dn = 0 && bits imm 12 3 = 0) (.mts (BitVec.ofNat 12 imm) a)
  | _ => none

/-- The SB, SX and SL words (R139, R142), by primary opcode. -/
def decodeSB (p w : Nat) : Form :=
  let a8 : GReg := BitVec.ofNat 5 (bits w 8 5)
  let b13 : GReg := BitVec.ofNat 5 (bits w 13 5)
  let off24 : BitVec 24 := BitVec.ofNat 24 (bits w 8 24)
  let off19 : BitVec 19 := BitVec.ofNat 19 (bits w 13 19)
  let lv : BitVec 2 := BitVec.ofNat 2 (bits w 8 2)
  let a10 : GReg := BitVec.ofNat 5 (bits w 10 5)
  let last : BitVec 12 := BitVec.ofNat 12 (bits w 20 12)
  match p with
  | 0x30 => form (.b off24)
  | 0x31 => form (.jl off24)
  | 0x32 => form (.bz a8 off19)
  | 0x33 => form (.bnz a8 off19)
  | 0x34 => form (.txb off24)
  | 0x35 => formIf (bits w 31 1 = 0)
      (.exit (BitVec.ofNat 3 (bits w 28 3)) a8 b13 (BitVec.ofNat 5 (bits w 18 5)) (BitVec.ofNat 5 (bits w 23 5)))
  | 0x36 => formIf (bits w 18 2 = 0) (.loop lv (BitVec.ofNat 8 (bits w 10 8)) last)
  | 0x37 => formIf (bits w 15 5 = 0) (.loopg lv a10 last)
  | 0x38 => formIf (bits w 18 2 = 0) (.loopp lv a10 (BitVec.ofNat 3 (bits w 15 3)) last)
  | 0x39 => formIf (bits w 10 22 = 0) (.lexit lv)
  | _ =>
    if 0x28 ≤ p && p ≤ 0x2F then
      match cmpOf (p % 8) with
      | some c => form (.bccc c a8 b13 (BitVec.ofNat 14 (bits w 18 14)))
      | none => none
    else none

/-- The step that the map gives a scalar word, whatever its unused bits hold: bit 0 is 0 and bits [7:1] are the primary
opcode (R138). -/
def scalarForm (u : W32) : Form :=
  let w := u.toNat
  let p := bits w 1 7
  if bits w 0 1 = 1 then none
  else if p < 2 then decodeSR w
  else if p < 0x28 then decodeSI (p / 2) w
  else if p < 0x3A then decodeSB p w
  else if p < 0x3E then decodeSI (p / 2) w
  else if p < 0x40 then none
  else form (.kill (BitVec.ofNat 6 (p - 0x40)) (BitVec.ofNat 24 (bits w 8 24)))

/-- A scalar word, judged by the two static checks of R137. -/
def decodeScalar (u : W32) : Except Bad Instr :=
  match scalarForm u with
  | none => .error .illegal
  | some (unusedZero, i) => acceptIf unusedZero i

/-- The fields of a vector word (R144). -/
def vwordOf (w : Nat) : VWord where
  ty := BitVec.ofNat 4 (bits w 10 4)
  dst := BitVec.ofNat 11 (bits w 14 11)
  s1 := BitVec.ofNat 12 (bits w 25 12)
  s2 := BitVec.ofNat 12 (bits w 37 12)
  s3 := BitVec.ofNat 12 (bits w 49 12)
  mask := BitVec.ofNat 4 (bits w 61 4)
  zero := bits w 65 1 = 1
  mode := BitVec.ofNat 3 (bits w 66 3)
  wsem := BitVec.ofNat 8 (bits w 69 8)
  wthr := BitVec.ofNat 7 (bits w 77 7)
  ssem := BitVec.ofNat 8 (bits w 84 8)
  sinc := BitVec.ofNat 4 (bits w 92 4)

/-- The vector opcode map (R147); VQUANT's forms differ in src2 (R225). -/
def vmake (opc : Nat) (w : VWord) : Option Instr :=
  match opc with
  | 0x01 => some (.vadd w) | 0x02 => some (.vsub w) | 0x03 => some (.vmul w) | 0x04 => some (.vmulh w)
  | 0x05 => some (.vmad w) | 0x06 => some (.vmin w) | 0x07 => some (.vmax w) | 0x08 => some (.vabs w)
  | 0x09 => some (.vneg w) | 0x0A => some (.vand w) | 0x0B => some (.vor w) | 0x0C => some (.vxor w)
  | 0x0D => some (.vnot w) | 0x0E => some (.vshl w) | 0x0F => some (.vshr w) | 0x10 => some (.vsha w)
  | 0x11 => some (.vpopc w)
  | 0x20 => some (.vfadd w) | 0x21 => some (.vfsub w) | 0x22 => some (.vfmul w) | 0x23 => some (.vfma w)
  | 0x24 => some (.vfmin w) | 0x25 => some (.vfmax w) | 0x26 => some (.vfabs w) | 0x27 => some (.vfneg w)
  | 0x28 => some (.vfdiv w) | 0x29 => some (.vfsqrt w) | 0x2A => some (.vfrcp w) | 0x2B => some (.vfrsq w)
  | 0x2C => some (.vfexp2 w) | 0x2D => some (.vflog2 w)
  | 0x40 => some (.vcmp .eq w) | 0x41 => some (.vcmp .ne w) | 0x42 => some (.vcmp .lt w) | 0x43 => some (.vcmp .le w)
  | 0x44 => some (.vcmp .gt w) | 0x45 => some (.vcmp .ge w) | 0x46 => some (.vcmp .uo w)
  | 0x48 => some (.vsel w) | 0x49 => some (.mand w) | 0x4A => some (.mor w) | 0x4B => some (.mxor w)
  | 0x4C => some (.mnot w) | 0x4D => some (.mpopc w) | 0x4E => some (.mfirst w)
  | 0x60 => some (.vcvt w) | 0x61 => some (.vwiden w) | 0x62 => some (.vnarrow w)
  | 0x63 => some (if w.isScale then .vquantScale w else .vquant w)
  | 0x64 => some (.vdeq w)
  | 0x70 => some (.vred .add w) | 0x71 => some (.vred .max w) | 0x72 => some (.vred .min w)
  | 0x74 => some (.vperm w) | 0x75 => some (.vshuf w) | 0x76 => some (.vbcast w) | 0x77 => some (.vslide w)
  | 0x78 => some (.vins w) | 0x79 => some (.vext w) | 0x7A => some (.viota w)
  | 0x80 => some (.vld w) | 0x81 => some (.vst w) | 0x82 => some (.vldg w) | 0x83 => some (.vsts w)
  | 0x84 => some (.vldm w) | 0x85 => some (.vstm w) | 0x86 => some (.vldmNb w) | 0x87 => some (.vstmPm w)
  | 0x90 => some (.vmov w) | 0x91 => some (.vrng w)
  | _ => none

/-- A vector word from its 96 bits (R144, R147). -/
def decodeVector (w : Nat) : Except Bad Instr :=
  match vmake (bits w 2 8) (vwordOf w) with
  | none => .error .illegal
  | some i => accept i

/-- The common fields of an engine word (R152). -/
def eheadOf (w : Nat) : EHead where
  wsem := BitVec.ofNat 8 (bits w 10 8)
  wthr := BitVec.ofNat 7 (bits w 18 7)
  ssem := BitVec.ofNat 8 (bits w 32 8)
  sinc := BitVec.ofNat 4 (bits w 25 4)
  stamped := bits w 29 1 = 1
  stamp := BitVec.ofNat 32 (bits w 128 32)
  comp := BitVec.ofNat 32 (bits w 160 32)

/-- The operand area of MMA and MMAZ (R243). -/
def mmaOf (w : Nat) : MmaArgs where
  n1 := BitVec.ofNat 6 (bits w 122 6)
  m1 := BitVec.ofNat 6 (bits w 116 6)
  sat := bits w 115 1 = 1
  cb := BitVec.ofNat 7 (bits w 108 7)
  ca := BitVec.ofNat 7 (bits w 101 7)
  scaled := bits w 100 1 = 1
  fb := BitVec.ofNat 4 (bits w 96 4)
  fa := BitVec.ofNat 4 (bits w 92 4)
  acc := BitVec.ofNat 4 (bits w 88 4)
  offB := BitVec.ofNat 14 (bits w 74 14)
  bsrc := bits w 73 1 = 1
  offA := BitVec.ofNat 14 (bits w 59 14)
  base := BitVec.ofNat 5 (bits w 54 5)

/-- The operand area of ACCRD and ACCWR (R246). -/
def accOf (w : Nat) : AccArgs where
  ty := BitVec.ofNat 4 (bits w 67 4)
  clr := bits w 66 1 = 1
  sat := bits w 65 1 = 1
  rz := bits w 64 1 = 1
  acc := BitVec.ofNat 4 (bits w 60 4)
  off := BitVec.ofNat 15 (bits w 45 15)
  base := BitVec.ofNat 5 (bits w 40 5)

/-- The operand area of SCLD (R248). -/
def sclOf (w : Nat) : SclArgs where
  nc1 := BitVec.ofNat 7 (bits w 67 7)
  c0 := BitVec.ofNat 7 (bits w 60 7)
  off := BitVec.ofNat 15 (bits w 45 15)
  base := BitVec.ofNat 5 (bits w 40 5)

/-- The operand area of WSTRM (R253). -/
def wstOf (w : Nat) : WstArgs where
  width := BitVec.ofNat 2 (bits w 55 2)
  fmt := BitVec.ofNat 2 (bits w 53 2)
  count1 := BitVec.ofNat 4 (bits w 49 4)
  t0 := BitVec.ofNat 4 (bits w 45 4)
  src := BitVec.ofNat 5 (bits w 40 5)

/-- The operand area of the courier words (R255). -/
def cpyOf (w : Nat) : CpyArgs where
  decl := BitVec.ofNat 3 (bits w 64 3)
  skind := bits w 63 1 = 1
  dkind := bits w 62 1 = 1
  gw := BitVec.ofNat 5 (bits w 57 5)
  gz := BitVec.ofNat 5 (bits w 52 5)
  gs := BitVec.ofNat 5 (bits w 47 5)
  gd := BitVec.ofNat 5 (bits w 42 5)
  cq := BitVec.ofNat 2 (bits w 40 2)

/-- The special-function word of a sub-operation (R260). -/
def sfjOf (h : EHead) (op : Nat) (desc : GReg) : Option Instr :=
  match op with
  | 0 => some (.sfjExp h desc) | 1 => some (.sfjLog h desc) | 2 => some (.sfjSoftmax h desc)
  | 3 => some (.sfjTopk h desc) | 4 => some (.sfjSort h desc) | 5 => some (.sfjSample h desc)
  | _ => none

/-- An engine word from its 192 bits (R152, R153). Bits [31:30] are reserved. A sub-operation 6 or 7 is found after the
reserved bits (R237 step 2; log entry 11). -/
def decodeEngine (w : Nat) : Except Bad Instr :=
  let h := eheadOf w
  let res := bits w 30 2 = 0
  match bits w 2 8 with
  | 0x01 => acceptIf (res && bits w 40 14 = 0) (.mma h (mmaOf w))
  | 0x02 => acceptIf (res && bits w 40 14 = 0) (.mmaz h (mmaOf w))
  | 0x03 => acceptIf (res && bits w 71 57 = 0) (.accrd h (accOf w))
  | 0x04 => acceptIf (res && bits w 71 57 = 0) (.accwr h (accOf w))
  | 0x05 => acceptIf (res && bits w 56 72 = 0) (.accz h (BitVec.ofNat 16 (bits w 40 16)))
  | 0x06 => acceptIf (res && bits w 74 54 = 0) (.scld h (sclOf w))
  | 0x10 => acceptIf (res && bits w 57 71 = 0) (.wstrm h (wstOf w))
  | 0x11 => acceptIf (res && bits w 41 87 = 0) (.wsel h (BitVec.ofNat 1 (bits w 40 1)))
  | 0x20 => acceptIf (res && bits w 67 61 = 0) (.cpy h (cpyOf w))
  | 0x21 => acceptIf (res && bits w 67 61 = 0) (.cpyt h (cpyOf w))
  | 0x22 => acceptIf (res && bits w 67 61 = 0) (.cpyf h (cpyOf w))
  | 0x23 => acceptIf (res && bits w 67 61 = 0) (.chain h (cpyOf w))
  | 0x30 =>
    let clean := res && bits w 48 80 = 0
    match sfjOf h (bits w 40 3) (BitVec.ofNat 5 (bits w 43 5)) with
    | some i => acceptIf clean i
    | none => if clean && h.clean false then .error .illegal else .error .reserved
  | _ => .error .illegal

/-- The number that consecutive units stand for: the first is the least significant (R135). -/
def unitsNat : List W32 → Nat
  | [] => 0
  | u :: us => u.toNat + 2 ^ 32 * unitsNat us

/-- The word that begins with the first unit of a list and takes as many units as that unit says (R135). Units that
are wanting make the word illegal. -/
def decodeUnits (us : List W32) : Except Bad Instr :=
  match us with
  | [] => .error .illegal
  | u :: _ =>
    let n := unitsOf u
    if us.length < n then .error .illegal
    else if n = 1 then decodeScalar u
    else if n = 3 then decodeVector (unitsNat (us.take 3))
    else decodeEngine (unitsNat (us.take 6))

/-- Little-endian units of a list of bytes (R7, R135). -/
def unitsOfBytes : List Byte → List W32
  | b0 :: b1 :: b2 :: b3 :: rest => (b3 ++ b2 ++ b1 ++ b0) :: unitsOfBytes rest
  | _ => []

/-- The strand's decoder, total on any bytes. -/
def decode (bs : List Byte) : Except Bad Instr := decodeUnits (unitsOfBytes bs)

/-- The common fields and the descriptor register of a special-function word whose sub-operation is 6 or 7: that is refused
only after the checks of R137 and a tag of the register (R237 steps 1 and 2). -/
def sfjUnallocated (us : List W32) : Option (EHead × GReg) :=
  let w := unitsNat us
  if us.length = 6 && bits w 0 2 = 3 && bits w 2 8 = 0x30 && 6 ≤ bits w 40 3 then some (eheadOf w, BitVec.ofNat 5 (bits w 43 5))
  else none

/-- A scalar word a conductor slot may hold (R156). -/
def conductorScalar : Instr → Bool
  | .nop | .add .. | .sub .. | .mul .. | .mulh .. | .mulhn .. | .div .. | .divn .. | .rem .. | .remn ..
  | .and .. | .or .. | .xor .. | .shl .. | .shr .. | .sha .. | .min .. | .max .. | .minn .. | .maxn ..
  | .clz .. | .popc .. | .sel .. | .setcc .. | .shli .. | .shri .. | .shai ..
  | .addi .. | .andi .. | .ori .. | .xori .. | .ldi .. | .ldih .. | .adda ..
  | .b .. | .bccc .. | .bz .. | .bnz .. | .jl .. | .jr .. | .loop .. | .loopg ..
  | .ld .. | .ldn .. | .st .. | .post .. | .await .. | .semrd .. | .ptrd .. | .waitpt .. => true
  | .mfs _ r => r.toNat ≤ 9
  | _ => false

/-- The micro-op of slot 2 + d, for the target d (R157); `none` for an empty slot. -/
def decodeDieOp (d : BitVec 4) (u : W32) : Except Bad (Option Instr) :=
  let w := u.toNat
  match bits w 0 2 with
  | 0 => if w = 0 then .ok none else .error .reserved
  | 1 => if bits w 20 12 = 0 then
      .ok (some (.push d (BitVec.ofNat 2 (bits w 2 2)) (BitVec.ofNat 16 (bits w 4 16)))) else .error .reserved
  | 2 => if bits w 8 24 = 0 && bits w 2 2 = 0 then
      .ok (some (.qfence d (BitVec.ofNat 4 (bits w 4 4)))) else .error .reserved
  | _ => .error .illegal

/-- The control-die micro-op of slot 11 (R157). -/
def decodeCdOp (u : W32) : Except Bad (Option Instr) :=
  let w := u.toNat
  match bits w 0 2 with
  | 0 => if w = 0 then .ok none else .error .reserved
  | 1 =>
    if bits w 8 24 = 0 then
      let g : GReg := BitVec.ofNat 5 (bits w 3 5)
      .ok (some (if bits w 2 1 = 1 then .launchGraph g else .launch g))
    else .error .reserved
  | 2 => if bits w 2 30 = 0 then .ok (some .overlay) else .error .reserved
  | _ => .error .illegal

/-! The encoder, from the same tables. -/

/-- A field of a word placed at its lowest bit. -/
def fld {n : Nat} (x : BitVec n) (lo : Nat) : Nat := x.toNat * 2 ^ lo

/-- A one-bit field. -/
def flag (x : Bool) (lo : Nat) : Nat := if x then 2 ^ lo else 0

/-- An SR word (R139). -/
def encSR (f : Nat) (d a b : GReg) : W32 :=
  BitVec.ofNat 32 (f / 2 * 2 ^ 23 + fld b 18 + fld a 13 + fld d 8 + f % 2 * 2)

/-- An SI word; `p` is the even primary opcode of the pair (R139). -/
def encSI (p : Nat) (d a : GReg) (imm : Nat) : W32 :=
  BitVec.ofNat 32 (imm / 2 * 2 ^ 18 + fld a 13 + fld d 8 + p * 2 + imm % 2 * 2)

/-- A word whose primary opcode stands in [7:1] and the rest above (R138). -/
def encP (p rest : Nat) : W32 := BitVec.ofNat 32 (rest * 2 ^ 8 + p * 2)

/-- The number of a comparison (R138, R140). -/
def Cmp.num : Cmp → Nat
  | .eq => 0 | .ne => 1 | .lt => 2 | .ge => 3 | .ltn => 4 | .gen => 5

/-- The size field (R141). -/
def Size.num : Size → Nat
  | .b => 0 | .h => 1 | .w => 2 | .d => 3

/-- The scope number (R140). -/
def Scope.num : Scope → Nat
  | .core => 0 | .die => 1 | .pkg => 2 | .sys => 3

/-- The number of an integer atomic (R140). -/
def AmoOp.num : AmoOp → Nat
  | .add => 0 | .and => 1 | .or => 2 | .xor => 3 | .min => 4 | .max => 5 | .minn => 6 | .maxn => 7 | .swp => 8 | .cas => 9

/-- The number of a floating-point atomic (R140). -/
def AmofOp.num : AmofOp → Nat
  | .add => 0 | .min => 1 | .max => 2

/-- The format number of a floating-point atomic (R140). -/
def AmofFmt.num : AmofFmt → Nat
  | .f32 => 0 | .f16 => 1 | .bf16 => 2

/-- The immediate of a memory word (R141). -/
def memImm (sz : Size) (off : BitVec 13) : Nat := sz.num * 2 ^ 13 + off.toNat

/-- The word of a scalar step (R138-R142). -/
def encodeScalar : Instr → Option W32
  | .nop => some (encSR 0 0 0 0)
  | .add d a b => some (encSR 0x001 d a b) | .sub d a b => some (encSR 0x002 d a b)
  | .mul d a b => some (encSR 0x003 d a b) | .mulh d a b => some (encSR 0x004 d a b)
  | .mulhn d a b => some (encSR 0x005 d a b) | .div d a b => some (encSR 0x006 d a b)
  | .divn d a b => some (encSR 0x007 d a b) | .rem d a b => some (encSR 0x008 d a b)
  | .remn d a b => some (encSR 0x009 d a b) | .and d a b => some (encSR 0x010 d a b)
  | .or d a b => some (encSR 0x011 d a b) | .xor d a b => some (encSR 0x012 d a b)
  | .shl d a b => some (encSR 0x013 d a b) | .shr d a b => some (encSR 0x014 d a b)
  | .sha d a b => some (encSR 0x015 d a b) | .min d a b => some (encSR 0x018 d a b)
  | .max d a b => some (encSR 0x019 d a b) | .minn d a b => some (encSR 0x01A d a b)
  | .maxn d a b => some (encSR 0x01B d a b) | .clz d a => some (encSR 0x01C d a 0)
  | .popc d a => some (encSR 0x01D d a 0) | .sel d a b => some (encSR 0x01E d a b)
  | .setcc c d a b => some (encSR (0x020 + c.num) d a b)
  | .shli d a sh => some (encSR (0x050 + sh.toNat / 32) d a (BitVec.ofNat 5 sh.toNat))
  | .shri d a sh => some (encSR (0x052 + sh.toNat / 32) d a (BitVec.ofNat 5 sh.toNat))
  | .shai d a sh => some (encSR (0x054 + sh.toNat / 32) d a (BitVec.ofNat 5 sh.toNat))
  | .addi d a im => some (encSI 0x02 d a im.toNat) | .andi d a im => some (encSI 0x04 d a im.toNat)
  | .ori d a im => some (encSI 0x06 d a im.toNat) | .xori d a im => some (encSI 0x08 d a im.toNat)
  | .ldi d im => some (encSI 0x0A d 0 im.toNat) | .ldih d im => some (encSI 0x0C d 0 im.toNat)
  | .adda d a im => some (encSI 0x0E d a im.toNat)
  | .b off => some (encP 0x30 off.toNat) | .jl off => some (encP 0x31 off.toNat)
  | .bz a off => some (encP 0x32 (off.toNat * 2 ^ 5 + a.toNat))
  | .bnz a off => some (encP 0x33 (off.toNat * 2 ^ 5 + a.toNat))
  | .bccc c a b off => some (encP (0x28 + c.num) (off.toNat * 2 ^ 10 + fld b 5 + a.toNat))
  | .jr a => some (encSR 0x030 0 a 0)
  | .txb off => some (encP 0x34 off.toNat)
  | .txe => some (encSR 0x038 0 0 0)
  | .txa code => some (encSR (0x200 + code.toNat) 0 0 0)
  | .txs d => some (encSR 0x03A d 0 0)
  | .loop lv n last => some (encP 0x36 (last.toNat * 2 ^ 12 + n.toNat * 2 ^ 2 + lv.toNat))
  | .loopg lv a last => some (encP 0x37 (last.toNat * 2 ^ 12 + a.toNat * 2 ^ 2 + lv.toNat))
  | .loopp lv a sg last => some (encP 0x38 (last.toNat * 2 ^ 12 + sg.toNat * 2 ^ 7 + a.toNat * 2 ^ 2 + lv.toNat))
  | .lexit lv => some (encP 0x39 lv.toNat)
  | .safept a => some (encSR 0x032 0 a 0)
  | .exit n e1 e2 e3 e4 => some (encP 0x35 (n.toNat * 2 ^ 20 + fld e4 15 + fld e3 10 + fld e2 5 + e1.toNat))
  | .trap n => some (encSR 0x070 n 0 0)
  | .brk n => some (encSR 0x071 n 0 0)
  | .eret => some (encSR 0x031 0 0 0)
  | .ld sz d a off => some (encSI 0x10 d a (memImm sz off)) | .ldn sz d a off => some (encSI 0x12 d a (memImm sz off))
  | .st sz d a off => some (encSI 0x14 d a (memImm sz off)) | .ldS sz d a off => some (encSI 0x16 d a (memImm sz off))
  | .ldSp sz d a off => some (encSI 0x18 d a (memImm sz off))
  | .stSp sz d a off => some (encSI 0x1A d a (memImm sz off))
  | .spld sz d off => some (encSI 0x1C d 0 (memImm sz off)) | .spst sz d off => some (encSI 0x1E d 0 (memImm sz off))
  | .chk a => some (encSR 0x033 0 a 0)
  | .ldNb sz d a b => some (encSR (0x078 + sz.num) d a b)
  | .stPm sz d a b => some (encSR (0x07C + sz.num) d a b)
  | .mark => some (encSR 0x058 0 0 0)
  | .acq sc a b => some (encSR (0x060 + sc.num) 0 a b)
  | .rel sc => some (encSR (0x064 + sc.num) 0 0 0)
  | .fenceq m => some (encSR (0x080 + m.toNat) 0 0 0)
  | .amo op dbl d a b => some (encSR (0x182 + 4 * op.num + dbl.toNat) d a b)
  | .amof fz cn sv op fmt d a b =>
    some (encSR (0x300 + flag fz 5 + flag cn 6 + flag sv 7 + op.num * 8 + fmt.num) d a b)
  | .post sm k => some (encSI 0x20 0 0 (k.toNat * 2 ^ 8 + sm.toNat))
  | .await sm t => some (encSI 0x22 0 0 (t.toNat * 2 ^ 8 + sm.toNat))
  | .semrd d sm => some (encSI 0x24 d 0 sm.toNat)
  | .semwr sm a => some (encSI 0x26 0 a sm.toNat)
  | .waitv d a b => some (encSR 0x068 d a b)
  | .tagpub n => some (encSR (0x040 + n.toNat) 0 0 0)
  | .tagq d n => some (encSR (0x048 + n.toNat) d 0 0)
  | .ptrd d => some (encSR 0x034 d 0 0)
  | .frrd d a => some (encSR 0x036 d a 0)
  | .waitpt a => some (encSR 0x035 0 a 0)
  | .mbsend d a b => some (encSR 0x069 d a b)
  | .mbrecv d a b => some (encSR 0x06A d a b)
  | .mbpoll d a => some (encSR 0x06B d a 0)
  | .mfs d r => some (encSI 0x3A d 0 r.toNat)
  | .mts r a => some (encSI 0x3C 0 a r.toNat)
  | .kill blk mask => some (encP (0x40 + blk.toNat) mask.toNat)
  | .lockwr a b => some (encSR 0x1E0 0 a b)
  | .lockrd d a => some (encSR 0x1E1 d a 0)
  | .l1inv a b => some (encSR 0x1E2 0 a b)
  | .rdcinv a b => some (encSR 0x1E3 0 a b)
  | .cacheWb a b => some (encSR 0x1E4 0 a b)
  | .tlbinv a b => some (encSR 0x06C 0 a b)
  | .qcfg n d a b => some (encSR (0x100 + n.toNat) d a b)
  | .qrst n => some (encSR (0x140 + n.toNat) 0 0 0)
  | _ => none

/-- The 96 bits of a vector word (R144). -/
def encVector (opc : Nat) (w : VWord) : Nat :=
  1 + opc * 2 ^ 2 + fld w.ty 10 + fld w.dst 14 + fld w.s1 25 + fld w.s2 37 + fld w.s3 49 + fld w.mask 61 +
  flag w.zero 65 + fld w.mode 66 + fld w.wsem 69 + fld w.wthr 77 + fld w.ssem 84 + fld w.sinc 92

/-- The common bits of an engine word (R152). -/
def encHead (opc : Nat) (h : EHead) : Nat :=
  3 + opc * 2 ^ 2 + fld h.wsem 10 + fld h.wthr 18 + fld h.sinc 25 + flag h.stamped 29 + fld h.ssem 32 +
  fld h.stamp 128 + fld h.comp 160

/-- The operand area of MMA and MMAZ (R243). -/
def encMma (x : MmaArgs) : Nat :=
  fld x.base 54 + fld x.offA 59 + flag x.bsrc 73 + fld x.offB 74 + fld x.acc 88 + fld x.fa 92 + fld x.fb 96 +
  flag x.scaled 100 + fld x.ca 101 + fld x.cb 108 + flag x.sat 115 + fld x.m1 116 + fld x.n1 122

/-- The operand area of ACCRD and ACCWR (R246). -/
def encAcc (x : AccArgs) : Nat :=
  fld x.base 40 + fld x.off 45 + fld x.acc 60 + flag x.rz 64 + flag x.sat 65 + flag x.clr 66 + fld x.ty 67

/-- The operand area of SCLD (R248). -/
def encScl (x : SclArgs) : Nat := fld x.base 40 + fld x.off 45 + fld x.c0 60 + fld x.nc1 67

/-- The operand area of WSTRM (R253). -/
def encWst (x : WstArgs) : Nat := fld x.src 40 + fld x.t0 45 + fld x.count1 49 + fld x.fmt 53 + fld x.width 55

/-- The operand area of the courier words (R255). -/
def encCpy (x : CpyArgs) : Nat :=
  fld x.cq 40 + fld x.gd 42 + fld x.gs 47 + fld x.gz 52 + fld x.gw 57 + flag x.dkind 62 + flag x.skind 63 +
  fld x.decl 64

/-- The operand area of SFJ (R260). -/
def encSfj (op : Nat) (desc : GReg) : Nat := op * 2 ^ 40 + fld desc 43

/-- The 192 bits of an engine word (R152, R153). -/
def encodeEngine : Instr → Option Nat
  | .mma h x => some (encHead 0x01 h + encMma x)
  | .mmaz h x => some (encHead 0x02 h + encMma x)
  | .accrd h x => some (encHead 0x03 h + encAcc x)
  | .accwr h x => some (encHead 0x04 h + encAcc x)
  | .accz h m => some (encHead 0x05 h + fld m 40)
  | .scld h x => some (encHead 0x06 h + encScl x)
  | .wstrm h x => some (encHead 0x10 h + encWst x)
  | .wsel h b => some (encHead 0x11 h + fld b 40)
  | .cpy h x => some (encHead 0x20 h + encCpy x)
  | .cpyt h x => some (encHead 0x21 h + encCpy x)
  | .cpyf h x => some (encHead 0x22 h + encCpy x)
  | .chain h x => some (encHead 0x23 h + encCpy x)
  | .sfjExp h g => some (encHead 0x30 h + encSfj 0 g)
  | .sfjLog h g => some (encHead 0x30 h + encSfj 1 g)
  | .sfjSoftmax h g => some (encHead 0x30 h + encSfj 2 g)
  | .sfjTopk h g => some (encHead 0x30 h + encSfj 3 g)
  | .sfjSort h g => some (encHead 0x30 h + encSfj 4 g)
  | .sfjSample h g => some (encHead 0x30 h + encSfj 5 g)
  | _ => none

/-- The units of a number, least significant first (R135). -/
def natUnits : Nat → Nat → List W32
  | 0, _ => []
  | n + 1, x => BitVec.ofNat 32 x :: natUnits n (x / 2 ^ 32)

/-- The units of the word that asks a strand for a step; an event has none (R135). -/
def encode (i : Instr) : List W32 :=
  match encodeScalar i with
  | some u => [u]
  | none =>
    match i.vword with
    | some (opc, w) => natUnits 3 (encVector opc w)
    | none =>
      match encodeEngine i with
      | some x => natUnits 6 x
      | none => []

/-- The micro-op of a slot (R157). -/
def encodeMicro : Instr → Option W32
  | .push _ q cb => some (BitVec.ofNat 32 (1 + fld q 2 + fld cb 4))
  | .qfence _ m => some (BitVec.ofNat 32 (2 + fld m 4))
  | .launch g => some (BitVec.ofNat 32 (1 + fld g 3))
  | .launchGraph g => some (BitVec.ofNat 32 (5 + fld g 3))
  | .overlay => some 2
  | _ => none

/-- Bytes of a word, lowest address first (R7). -/
def natBytes : Nat → Nat → List Byte
  | 0, _ => []
  | n + 1, x => BitVec.ofNat 8 x :: natBytes n (x / 2 ^ 8)

/-- Bytes of the longest word (R135). -/
def longest : Nat := 24

/-- The step the decoder reads from the low `nbits` bits of a word, every bit above them 0. -/
def decodeTableWord (nbits w : Nat) : Option Instr :=
  match decode (natBytes longest (w % 2 ^ nbits)) with
  | .ok i => some i
  | .error _ => none

end Sys2Proof
end

