-- ==== Sys2Proof/Machine/Tab.lean ====
section
/-! DEFINITION. Machine/Tab.lean: finite tables in one canonical form. A table lists the keys whose value is not the
default, in strictly rising order of key, so that equal contents are equal data. Memory is such a table of bytes. -/
namespace Sys2Proof.Machine

/-- A table: keys with their values, every other key holding the default. -/
abbrev Tab (α : Type) := List (Nat × α)

/-- The value at a key. -/
def tget {α : Type} (d : α) : Tab α → Nat → α
  | [], _ => d
  | (k, v) :: t, n => if n = k then v else tget d t n

/-- The table without a key. -/
def tdel {α : Type} : Tab α → Nat → Tab α
  | [], _ => []
  | (k, v) :: t, n => if n = k then tdel t n else (k, v) :: tdel t n

/-- The table with a key given a value that is not the default. -/
def tput {α : Type} : Tab α → Nat → α → Tab α
  | [], n, x => [(n, x)]
  | (k, v) :: t, n, x =>
    if n = k then (k, x) :: t else if n < k then (n, x) :: (k, v) :: t else (k, v) :: tput t n x

/-- The table with a key given a value: the default removes the key. -/
def tset {α : Type} [DecidableEq α] (d : α) (t : Tab α) (n : Nat) (x : α) : Tab α :=
  if x = d then tdel t n else tput t n x

/-- A value changed in place. -/
def tmod {α : Type} [DecidableEq α] (d : α) (t : Tab α) (n : Nat) (f : α → α) : Tab α := tset d t n (f (tget d t n))

/-- Keys rise strictly from a lower bound and no entry is the default. -/
def tokFrom {α : Type} [DecidableEq α] (d : α) : Nat → Tab α → Bool
  | _, [] => true
  | lo, (k, v) :: t => lo ≤ k && v ≠ d && tokFrom d (k + 1) t

/-- The canonical form. -/
def tok {α : Type} [DecidableEq α] (d : α) (t : Tab α) : Bool := tokFrom d 0 t

/-- The values at consecutive keys. -/
def tgets {α : Type} (d : α) (t : Tab α) (n : Nat) : Nat → List α
  | 0 => []
  | c + 1 => tget d t n :: tgets d t (n + 1) c

/-- Values written at consecutive keys. -/
def tsets {α : Type} [DecidableEq α] (d : α) (t : Tab α) (n : Nat) : List α → Tab α
  | [] => t
  | x :: xs => tsets d (tset d t n x) (n + 1) xs

/-- Every present entry kept or dropped by a test. -/
def tfilter {α : Type} (p : Nat → α → Bool) : Tab α → Tab α
  | [] => []
  | (k, v) :: t => if p k v then (k, v) :: tfilter p t else tfilter p t

end Sys2Proof.Machine
end

