-- ==== Sys2Proof/Machine/State.lean ====
section
/-! DEFINITION. Machine/State.lean: the state of a package, as plain data. Every piece of state that the manual names
is a field; INVENTORY.md lists them with their rules. A table (`Tab`) lists only what differs from its default. -/
namespace Sys2Proof.Machine

/-- Why the machine stops. -/
inductive Fault where
  /-- Raised by `step` when both feeds are lost and the turn is not POWER_ON: no state survives and nothing runs
  (R324). Safe: the hardware does nothing either. -/
  | powerOff
  deriving DecidableEq, Repr

/-- Why a step has no meaning. -/
inductive Refusal where
  /-- Raised by an arm of `exec` whose instruction has no meaning yet. Safe. -/
  | notModelled (mnemonic : String)
  deriving DecidableEq, Repr

/-- The trap record ei0 to ei3 (R284). -/
structure Rec where
  ei0 : W64
  ei1 : W64
  ei2 : W64
  ei3 : W64
  deriving DecidableEq, Repr

/-- An empty trap record. -/
def Rec.zero : Rec := ⟨0, 0, 0, 0⟩

/-- Containment policies (R35, R52). -/
inductive Policy where
  | ignore | retry | killSelf | killParent
  deriving DecidableEq, Repr

/-- The levels a fault is offered to, innermost first (R52). -/
inductive Level where
  | tileTask | block | task | graph | context
  deriving DecidableEq, Repr

/-- Roles of a strand (R38). -/
inductive Role where
  | loader | computer | storer
  deriving DecidableEq, Repr

/-- Where a strand stopped for a request (R297, R300). -/
inductive StopKind where
  | point | safept | wait | forced
  deriving DecidableEq, Repr

/-- One entry of a vector name: its value once produced, its poison tag (R47, R214), and the mark of the word that
produces it. -/
structure Entry where
  ready : Bool
  v : Vec
  tag : Bool
  tok : Nat
  deriving DecidableEq, Repr

/-- A port (R208). -/
structure Port where
  base : W64
  stride1 : W32
  count1 : W32
  stride2 : W32
  count2 : W32
  cursor : Nat
  deriving DecidableEq, Repr

/-- An unconfigured port (R39). -/
def Port.none : Port := ⟨0, 0, 0, 0, 0, 0⟩

/-- A loop level (R175, R181), with what a LOOPP stop under way leaves to do (R182). -/
structure Loop where
  active : Bool
  pipelined : Bool
  lc : W64
  start : W64
  last : W64
  /-- the address after the end word (R177) -/
  after : W64
  stages : Nat
  map : W64
  index : W64
  total : W64
  /-- iterations still to start after resumption, while the level drains for a pre-emption (R182) -/
  left : W64
  draining : Bool
  /-- nesting depth among active levels when it was activated, 1 outermost -/
  depth : Nat
  deriving DecidableEq, Repr

/-- An inactive level (R39). -/
def Loop.none : Loop := ⟨false, false, 0, 0, 0, 0, 1, 0, 0, 0, 0, false, 0⟩

/-- A cached copy of a line: 128 bytes, and one poison tag for each sector (R89). -/
structure Copy where
  data : BitVec 1024
  p0 : Bool
  p1 : Bool
  deriving DecidableEq, Repr

/-- An L1 TLB entry (R82): one page of one context, with its entry. -/
structure TlbE where
  ctx : Nat
  va : Nat
  log : Nat
  pte : W64
  deriving DecidableEq, Repr

/-- Where a loaded vector goes (R216): the destination field, the mark of its reservation, the bits that the enabled
elements cover, and what the other bits hold; for a port, the scratchpad address of the push. -/
structure VDest where
  dst : Nat
  addr : Nat
  tok : Nat
  en : Vec
  fill : Vec
  /-- bits that a push to a port writes -/
  pen : Vec
  tag : Bool
  deriving DecidableEq, Repr

/-- What a load-queue entry does when it is performed (R92). -/
inductive LoadWhat where
  /-- LD, LDN, LD.s -/
  | scalar (d : GReg) (n : Nat) (signed : Bool)
  /-- LD.nb with its not-before time -/
  | nb (d : GReg) (n : Nat) (time : W64)
  /-- VLDM -/
  | vec (x : VDest)
  /-- VLDM.nb -/
  | vecNb (x : VDest) (time : W64)
  /-- CACHEOP.lockrd -/
  | lock (d : GReg)
  /-- WAITV: expected word, deadline, and whether its monitor is armed (R104) -/
  | waitv (d : GReg) (expect deadline : W64) (armed : Bool)
  deriving DecidableEq, Repr

/-- A part of an access: where its bytes stand in the value, its physical address and its length, and the cache
attribute of its page (R80); it lies in one line. -/
structure Part where
  off : Nat
  pa : Nat
  len : Nat
  cache : Nat
  deriving DecidableEq, Repr

/-- A load-queue entry (R92): its parts, those of them still to be performed and the bytes bound so far. -/
structure LoadOp where
  what : LoadWhat
  va : W64
  full : List Part
  parts : List Part
  got : Vec
  tag : Bool
  epoch : Nat
  tok : Nat
  /-- the signal clause: absolute semaphore and increment -/
  sig : Option (Nat × Nat)
  /-- the address of its issue group (R290) -/
  at_ : W64
  deriving DecidableEq, Repr

/-- What a store-queue entry does (R92). -/
inductive StoreWhat where
  | plain
  /-- ST.pm, VSTM.pm with postmark -/
  | pm (p : W64)
  /-- AMO: destination, width in bytes, operand, compare value -/
  | amo (op : AmoOp) (d : GReg) (n : Nat) (b cmp : W64)
  /-- AMOF: control bits, destination, operand -/
  | amof (fz cn sv : Bool) (op : AmofOp) (fmt : AmofFmt) (d : GReg) (b : W64)
  /-- CACHEOP.lockwr: the lock value -/
  | lock (v : BitVec 4)
  /-- CACHEOP.wb: a virtual range, or the whole cache -/
  | wb (whole : Bool)
  deriving DecidableEq, Repr

/-- A store-queue entry, with the parts still to be performed. -/
structure StoreOp where
  what : StoreWhat
  va : W64
  parts : List Part
  data : Vec
  /-- bytes enabled by the governing mask -/
  en : BitVec 512
  tag : Bool
  epoch : Nat
  tok : Nat
  /-- place in the strand's sequence of stores -/
  sn : Nat
  sig : Option (Nat × Nat)
  deriving DecidableEq, Repr

/-- A REL not yet complete (R98): it waits for the stores and engine commands before it. -/
structure RelOp where
  sn : Nat
  cmd : Nat
  sys : Bool
  deriving DecidableEq, Repr

/-- A vector word in flight (R216): the entries it produces, the scratchpad bytes a destination port writes, and its
signal clause. -/
structure Fly where
  tok : Nat
  outs : List (Nat × Vec × Bool)
  /-- scratchpad address, value and written bits of each push -/
  pushes : List (Nat × Vec × Vec)
  tag : Bool
  sig : Option (Nat × Nat)
  deriving DecidableEq, Repr

/-- An open transaction (R101). -/
structure Txn where
  /-- the abort target; none when TXB named none -/
  target : Option W64
  /-- TXE has issued: 1 while the commit is asked of the homes, 2 once it has succeeded, 3 or 4 once it has failed for a
  conflict or for poison -/
  phase : Nat
  /-- read sectors with the version read -/
  reads : List (Nat × Nat)
  /-- buffered bytes by physical address -/
  writes : Tab (Option Byte)
  /-- sectors stored to, with whether a tagged value went there -/
  stored : List (Nat × Bool)
  /-- pages stored to, whose dirty bit the commit sets -/
  pages : List W64
  deriving DecidableEq, Repr

/-- A strand (R39, R175, R283, R301). -/
structure Strand where
  tt : Nat
  role : Role
  ended : Bool
  stop : Option StopKind
  pc : W64
  g : Tab W64
  gtag : Tab Bool
  vn : Tab (List Entry)
  m : Tab MaskBits
  mtag : Tab Bool
  ports : Tab Port
  loops : Tab Loop
  fpm : W64
  srkey : W64
  srctr : W64
  epc : W64
  cause : BitVec 8
  handler : Bool
  /-- the loop levels as the trap under way found them: ERET restores them (R179) -/
  kept : Tab Loop
  einfo : W64
  tvec : W64
  /-- the record of the trap being handled, as the strand record of a save holds it (R301) -/
  trec : Rec
  txsCode : BitVec 8
  txsTxa : BitVec 8
  txn : Option Txn
  spill : Tab Byte
  spillTag : Tab Bool
  lq : List LoadOp
  sq : List StoreOp
  rels : List RelOp
  /-- RELs that waited for engine commands as the strand stopped: they are replayed on resumption (R209) -/
  relAgain : List RelOp
  /-- the stores behind those RELs: they are entered again with them (R98) -/
  sqAgain : List StoreOp
  fly : List Fly
  /-- registers whose producer has not completed, by the producer's mark; 0 when none (R166) -/
  busy : Tab Nat
  epoch : Nat
  sn : Nat
  mark : Nat
  /-- issue groups issued since strand start (R305) -/
  groups : Nat
  /-- a wait for a free frame: its end, and the address that needs it (R87) -/
  commitWait : Option (Nat × W64)
  /-- an uncorrectable error in a control structure that the next access reads (R113) -/
  ctlError : Bool
  /-- an uncorrectable error in a control structure that the next fetch reads (R113) -/
  ctlFetch : Bool
  waitPt : Option W64
  /-- a word waits at issue at a place where a pending request stops the strand (R209) -/
  waiting : Bool
  /-- it has issued no group since the clocks of its head were last counted (R280) -/
  idle : Bool
  /-- the wait under way raises DEADLOCK_AWAIT (R295) -/
  deadlock : Bool
  successors : List W64
  exitReserve : Nat
  deriving DecidableEq, Repr

/-- A strand before it runs: every register as at strand start (R39, R283). -/
def Strand.init : Strand where
  tt := 0
  role := .loader
  ended := false
  stop := none
  pc := 0
  g := []
  gtag := []
  vn := []
  m := []
  mtag := []
  ports := []
  loops := []
  fpm := 0
  srkey := 0
  srctr := 0
  epc := 0
  cause := 0
  handler := false
  kept := []
  einfo := 0
  tvec := 0
  trec := Rec.zero
  txsCode := 0
  txsTxa := 0
  txn := none
  spill := []
  spillTag := []
  lq := []
  sq := []
  rels := []
  relAgain := []
  sqAgain := []
  fly := []
  busy := []
  epoch := 0
  sn := 0
  mark := 0
  groups := 0
  commitWait := none
  ctlError := false
  ctlFetch := false
  waitPt := none
  waiting := false
  idle := true
  deadlock := false
  successors := []
  exitReserve := 0

/-- A semaphore: its count and its poison bit (R20, R293). -/
structure Sem where
  count : Nat
  poisoned : Bool
  deriving DecidableEq, Repr

/-- A semaphore at 0. -/
def Sem.zero : Sem := ⟨0, false⟩

/-- Who waits on a semaphore: a strand, or the head of engine queue q. -/
inductive Waiter where
  | strand (n : Nat)
  | engine (q : Nat)
  deriving DecidableEq, Repr

/-- Semaphores with their waiters in order of arrival (R53, R151). -/
structure Sync where
  sems : Tab Sem
  waiters : Tab (List (Waiter × Nat))
  deriving DecidableEq, Repr

/-- Semaphores at 0 with no waiter. -/
def Sync.init : Sync := ⟨[], []⟩

/-- The state of a chain (R259). -/
structure Chain where
  at_ : W64
  i : Nat
  os : W64
  od : W64
  /-- records performed -/
  count : Nat
  /-- the COPY record under way, as it was read, and the bytes it has moved -/
  copying : Option (List Byte)
  moved : Nat
  deriving DecidableEq, Repr

/-- A command in an engine queue (R236): its word, the registers it captured, its issuer, and its progress. -/
structure Cmd where
  id : Nat
  word : Instr
  /-- register values read at issue, in the order in which the word's description names them -/
  regs : List W64
  strand : Nat
  /-- the strand's mark at issue: its earlier scratchpad accesses come before the command's (R96) -/
  mark : Nat
  tt : Nat
  ctx : Nat
  /-- SPM window: first byte and bytes -/
  spmBase : Nat
  spmLen : Nat
  semBase : Nat
  semLen : Nat
  /-- wait clause already served -/
  waited : Bool
  started : Bool
  /-- a fault of the command was absorbed under IGNORE: it completes with poisoned results (R52) -/
  failed : Bool
  /-- H of a stamped word, once at the head (R71) -/
  arrived : Option W64
  /-- of a stamped word whose clock E has passed: it could issue then (R72) -/
  atE : Option Bool
  /-- restored from a save (R72) -/
  resumed : Bool
  /-- bytes moved (R256) -/
  progress : Nat
  chain : Option Chain
  /-- its signal is discarded (R251) -/
  discard : Bool
  /-- a job has come to its engine on the SFD, whose jobs run in this order (R262) -/
  order : Option Nat
  deriving DecidableEq, Repr

/-- A core: what its partitions share (R18, R20, R239, R240). -/
structure Core where
  sync : Sync
  spm : Tab Byte
  spmTag : Tab Bool
  /-- context + 1 that last wrote each 4 KiB unit of the scratchpad; 0 none (R38) -/
  spmOwner : Tab Nat
  acc : Tab W32
  accTag : Tab Bool
  scale : Tab (BitVec 16)
  scaleTag : Tab Bool
  wb : Tab Byte
  wbTag : Tab Bool
  /-- the weight buffer on the MXE side (R252) -/
  side : Nat
  mxeOwner : Option Nat
  mxeCtx : Option Nat
  queues : Tab (List Cmd)
  /-- the number the next command takes -/
  nextCmd : Nat
  /-- commands started, per head 8 to 14 (R305) -/
  starts : Tab Nat
  /-- jobs completed on the SFD whose completion travels (R262) -/
  arriving : List Cmd
  counters : Tab Nat
  l1 : Tab (Option Copy)
  icache : Tab (Option Copy)
  tlb : List TlbE
  /-- the spill memory of each partition and its tags, while no strand holds it (R17, R20) -/
  spills : Tab (Tab Byte)
  spillTags : Tab (Tab Bool)
  /-- engine queues with an uncorrectable error in a control structure that their next access reads (R113) -/
  ctlErrors : List Nat
  deriving DecidableEq, Repr

/-- A core at power-on. -/
def Core.init : Core where
  sync := Sync.init
  spm := []
  spmTag := []
  spmOwner := []
  acc := []
  accTag := []
  scale := []
  scaleTag := []
  wb := []
  wbTag := []
  side := 0
  mxeOwner := none
  mxeCtx := none
  queues := []
  nextCmd := 0
  starts := []
  arriving := []
  counters := []
  l1 := []
  icache := []
  tlb := []
  spills := []
  spillTags := []
  ctlErrors := []

/-- A record of a context's spill list (R46). -/
inductive SpillRec where
  /-- a successor: its address and its owning task -/
  | succ (va : W64) (graph task parent : Nat)
  /-- a held iteration -/
  | held (block idx : Nat)
  deriving DecidableEq, Repr

/-- A resident context (R88, R299). -/
structure Ctx where
  privileged : Bool
  debuggable : Bool
  policy : Policy
  limit : BitVec 32
  ceiling : BitVec 32
  commit : BitVec 32
  root0 : W64
  root1 : W64
  mbBase : W64
  mbCount : BitVec 17
  trtfb : BitVec 32
  flogOff : Nat
  flogCap : Nat
  /-- records of faults that wait for the modules to the home of the fault log, oldest first (R311, R333) -/
  flogWait : List (List Byte)
  spillOff : Nat
  spillCap : Nat
  heapOff : Nat
  heapSize : Nat
  spill : List SpillRec
  /-- the place in the ring of the list's head record (R46) -/
  spillHead : Nat
  /-- the image of the list in memory waits for the modules to its home (R46, R333) -/
  spillWait : Bool
  spillResv : Nat
  heapUsed : Nat
  parked : Bool
  killing : Bool
  /-- a debug stop is armed to the context's next BRK (R306) -/
  armed : Bool
  misses : Nat
  /-- the pages that stand in escrow: the address of each leaf entry, with the home it left (R322) -/
  escrow : Option (List (Nat × Nat))
  deriving DecidableEq, Repr

/-- A loop-table entry (R36). -/
structure LoopEnt where
  kind : Nat
  slot : Nat
  preempt : Bool
  count : Nat
  start : Nat
  step : Nat
  deriving DecidableEq, Repr

/-- A tile declaration (R37). -/
structure Decl where
  buffer : Nat
  output : Bool
  gen : Nat
  off1 : BitVec 8
  off2 : BitVec 8
  off3 : BitVec 8
  desc : W64
  deriving DecidableEq, Repr

/-- The fields of a launch block (R34, R35). -/
structure LbRec where
  ttPolicy : Policy
  lbPolicy : Policy
  timetabled : Bool
  poison : Bool
  modeK : Bool
  roles : BitVec 3
  semWin : Nat
  spmUnits : Nat
  deadline : W64
  arg : W64
  codeBase : W64
  entryLd : Nat
  entryCp : Nat
  entrySt : Nat
  release : Nat
  vnames : Nat
  dieMask : BitVec 8
  loops : List LoopEnt
  decls : List Decl
  deriving DecidableEq, Repr

/-- A launch block with no work: the default of a table that lists none. -/
def LbRec.empty : LbRec where
  ttPolicy := .ignore
  lbPolicy := .ignore
  timetabled := false
  poison := false
  modeK := false
  roles := 0
  semWin := 0
  spmUnits := 0
  deadline := 0
  arg := 0
  codeBase := 0
  entryLd := 0
  entryCp := 0
  entrySt := 0
  release := 0
  vnames := 0
  dieMask := 0
  loops := []
  decls := []

/-- How a launch block came to the machine (R34, R266). -/
inductive Via where
  /-- LAUNCH or EXIT, through the pool -/
  | pool
  /-- a PUSH, by stream number 64 d + 4 k + q -/
  | queue (stream : Nat)
  deriving DecidableEq, Repr

/-- A placed launch block (R34, R42, R43, R277). -/
structure Block where
  ctx : Nat
  graph : Nat
  task : Nat
  via : Via
  /-- record-memory offset or virtual address, as fault logs report it -/
  addr : W64
  lb : LbRec
  /-- its absolute deadline (R34, R269) -/
  deadline : Nat
  /-- launch sequence number (R269) -/
  seq : Option Nat
  total : Nat
  /-- undispatched range of each die: cursor and end (R43) -/
  ranges : Tab (Nat × Nat)
  /-- dies that have not yet taken the range they were given (R278) -/
  untaken : List Nat
  /-- in the pool, waiting for placement on its dies (R278) -/
  waiting : Bool
  /-- iterations returned ready, with their die -/
  ready : List (Nat × Nat)
  /-- iterations held for the TRT, with their die, in a pool entry or a spill record -/
  held : List (Nat × Nat)
  /-- iterations that have ended -/
  done : Nat
  /-- timetable: the frame it is a member of (R75) -/
  frame : Option Nat
  released : Bool
  /-- output declarations published, by iteration (R106) -/
  published : List (Nat × Nat)
  /-- declarations that count as satisfied under IGNORE (R349) -/
  excused : List (Nat × Nat)
  /-- iterations that have had one RETRY before their tile task started (R349) -/
  retriedIts : List Nat
  /-- iterations whose tile task has been restarted under RETRY (R52) -/
  restarted : List Nat
  retried : Bool
  /-- restarts since placement: an old tile task's end no longer counts -/
  parent : Nat
  deriving DecidableEq, Repr

/-- A tile task (R38). -/
structure TileTask where
  block : Nat
  /-- the graph whose work it is, as long as it runs or drains (R269) -/
  graph : Option Nat
  idx : Nat
  ctx : Nat
  /-- core it runs on, or ran on when it was saved -/
  core : Nat
  /-- strand numbers of its strands -/
  strands : List Nat
  g1 : W64
  g2 : W64
  g3 : W64
  vnames : Nat
  modeK : Bool
  dead : Bool
  spmBase : Nat
  spmUnits : Nat
  semBase : Nat
  semLen : Nat
  /-- bytes reserved in the save heap, and the place of the reservation in it (R298) -/
  reserved : Nat
  heapAt : Nat
  /-- an MXE or weight-stream word waits for the heap to grant the extension by M (R239, R298) -/
  wantsMxe : Bool
  /-- the request being served: its rank and the PT at which grace ends (R297) -/
  request : Option (Rank × Nat)
  /-- the park of its energy class or of its context has reached it: saved, it waits for the unpark (R302, R322) -/
  parking : Bool
  /-- a debug stop has reached it: its heads enter the cut when it stops, whatever rank prevails (R303, R305) -/
  cutting : Bool
  /-- declarations whose range its start has still to acquire; no strand issues before (R99) -/
  acquiring : List Decl
  /-- a save is under way (R297 step 4), and the request that waits for its end (R303) -/
  saving : Bool
  killAfter : Bool
  /-- every strand has ended abnormally or been stopped: the tile task ends as KILL_SELF does -/
  failing : Bool
  retry : Bool
  /-- resumed count (R300) -/
  resumes : Nat
  deriving DecidableEq, Repr

/-- A saved tile task (R297, R300): what its record holds. -/
structure Saved where
  tt : TileTask
  /-- due for resumption (R302) -/
  due : Bool
  park : Bool
  strands : List (Nat × Strand)
  sems : List Sem
  cmds : List (Nat × Cmd)
  /-- SFJ signals recorded after the semaphores were saved (R250) -/
  signals : List (Nat × Nat)
  spm : List Byte
  spmTag : List Bool
  /-- the MXE state, if owned -/
  mxe : Option Core
  /-- where the record lies in the save heap -/
  heapAt : Nat
  size : Nat
  deriving DecidableEq, Repr

/-- The fields of a task record (R32), with its successor list read. -/
structure TaskRec where
  cls : Nat
  policy : Policy
  floor : Nat
  preds : Nat
  succs : List Nat
  deadline : W64
  ovOff : Nat
  ovLen : Nat
  ops : List W32
  /-- malformed in a field that leaves the graph's shape known (R33) -/
  bad : Bool
  deriving DecidableEq, Repr

/-- The life of a task (R32, R269, R271). -/
inductive TaskState where
  | waiting
  /-- ready but the list is full, or listed -/
  | ready
  /-- admitted: overlay running or its blocks running -/
  | running
  | done
  deriving DecidableEq, Repr

/-- A task of a graph in flight. -/
structure Task where
  info : TaskRec
  left : Nat
  st : TaskState
  /-- entry in force (R271, R318) -/
  entry : Nat
  /-- it has been admitted: its format is fixed for the rest of its life (R314) -/
  begun : Bool
  /-- overlay has ended -/
  overlayDone : Bool
  retried : Bool
  /-- a save of its last tile task completed at park: its estimate has left q (R318) -/
  parked : Bool
  shed : Bool
  deriving DecidableEq, Repr

/-- A graph in flight (R31, R269). -/
structure Graph where
  ctx : Nat
  seq : Nat
  header : W64
  submitted : W64
  policy : Policy
  doneAddr : W64
  tasks : List Task
  retried : Bool
  /-- it has ended, abnormally or not, at a PT, and its end word waits to be written (R87, R269) -/
  ended : Option (Bool × Nat)
  deriving DecidableEq, Repr

/-- An iteration as the TRT holds it: block, linear index, declaration. -/
structure HeldIt where
  block : Nat
  idx : Nat
  decl : Nat
  deriving DecidableEq, Repr

/-- A tile coordinate. -/
structure Key where
  c1 : BitVec 16
  c2 : BitVec 16
  c3 : BitVec 16
  deriving DecidableEq, Repr

/-- A TRT entry (R105); its consumer count is the number of iterations held on it. -/
structure TrtEntry where
  ctx : Nat
  buffer : Nat
  key : Key
  gen : BitVec 8
  published : Bool
  held : List HeldIt
  deriving DecidableEq, Repr

/-- A TRT buffer record (R105, R323). -/
structure Buf where
  ctx : Nat
  buffer : Nat
  coarse : Bool
  live : BitVec 8
  fresh : Bool
  count : BitVec 32
  /-- iterations placed with an output declaration, by generation -/
  placed : Tab Nat
  /-- the tasks that placed them: graph, task, generation (R323) -/
  prods : List (Nat × Nat × BitVec 8)
  /-- generations with a shed producer (R323) -/
  shed : List (BitVec 8)
  held : List HeldIt
  deriving DecidableEq, Repr

/-- A die dispatcher (R43, R44, R53, R275). -/
structure Disp where
  slots : List Nat
  lastCore : Nat
  /-- the reserved core, and the launch block for which it is reserved (R53) -/
  reserved : Option (Nat × Nat)
  /-- iterations returned ready whose block has no slot: block, index -/
  returned : List (Nat × Nat)
  /-- dies asked so far in this round; none outside a round (R44) -/
  asked : Nat
  outstanding : Option Nat
  waitUntil : Nat
  requests : List Nat
  deriving DecidableEq, Repr

/-- A dispatcher at power-on: the first core after core 31 is core 0. -/
def Disp.init : Disp := ⟨[], 31, none, [], 0, none, 0, []⟩

/-- A control block in a stream (R265, R266). -/
structure Ctl where
  graph : Nat
  task : Nat
  ctx : Nat
  /-- the overlay run that pushed it (R268) -/
  run : Nat
  kind : Nat
  waitSem : Nat
  waitThr : Nat
  sigSem : Nat
  sigInc : Nat
  deadline : W64
  target : W64
  subop : Nat
  /-- its wait has been served and it stands in the die queue -/
  queued : Bool
  /-- the launch block it became -/
  block : Option Nat
  /-- its job has been handed to an engine, whose jobs run in this order (R275) -/
  started : Bool
  order : Nat
  deriving DecidableEq, Repr

/-- A stream with its die queue, and the queue's budget (R266, R274). -/
structure Stream where
  items : List Ctl
  period : Nat
  budget : Nat
  used : Nat
  /-- the usage at the start of the present tick, by which a queue is eligible (R274, R282) -/
  before : Nat
  overrun : Bool
  start : Nat
  deriving DecidableEq, Repr

/-- A stream at power-on. -/
def Stream.init : Stream := ⟨[], 0, 0, 0, 0, false, 0⟩

/-- A conductor core (R155, R156, R264, R268). -/
structure Conductor where
  /-- graph and task whose overlay it runs -/
  task : Option (Nat × Nat)
  /-- OVERLAY has issued: the core waits for the named queues -/
  swapping : Bool
  run : Nat
  pc : W64
  g : Tab W64
  loops : Tab Loop
  /-- its 256 semaphores; waiter strand 0 is its AWAIT, waiter engine i the head of stream i -/
  sync : Sync
  trailer : W64
  waitPt : Option W64
  stopped : Bool
  deriving DecidableEq, Repr

/-- A free conductor core (R271). -/
def Conductor.init : Conductor := ⟨none, false, 0, 0, [], [], Sync.init, 0, none, false⟩

/-- A postmarked part in a slice's queue (R60). -/
structure PmPart where
  p : W64
  pa : Nat
  data : List Byte
  en : List Bool
  tag : Bool
  ctx : Nat
  deriving DecidableEq, Repr

/-- A byte as it stood before a postmarked store was performed, for not-before loads of an earlier time (R67). -/
structure Old where
  pa : Nat
  p : W64
  v : Byte
  deriving DecidableEq, Repr

/-- The poison of a sector as it stood before a postmarked store was performed (R67, R114). -/
structure OldTag where
  sec : Nat
  p : W64
  tag : Bool
  deriving DecidableEq, Repr

/-- A way of an L2 or RDC set that holds a line (R109). -/
structure Way where
  way : Nat
  line : Nat
  owner : Nat
  dirty : Bool
  deriving DecidableEq, Repr

/-- Who waits for a free frame besides a strand (R87): a tile task at its start, an engine command by core and number, the
head of a stream, a successor that is read, a submission, the end word of a graph. -/
inductive FrameUser where
  | tile (tt : Nat)
  | engine (core id : Nat)
  | stream (i : Nat)
  | successor (ctx : Nat)
  | accept
  | graph (g : Nat)
  deriving DecidableEq, Repr

/-- State of a 64 KiB frame (R336, R338). -/
inductive FrameSt where
  | normal | retired | unbacked
  deriving DecidableEq, Repr

/-- The memory of the package and what stands beside it. -/
structure MemState where
  bytes : List Host.Cell
  poison : Tab Bool
  locks : Tab (BitVec 16)
  ver : Tab Nat
  old : List Old
  oldTags : List OldTag
  frames : Tab FrameSt
  /-- free frames of each die and size: key 4 × die + level -/
  pool : Tab (List Nat)
  /-- waits for a free frame of others than strands, with the PT at which each ends (R87) -/
  frameWaits : List (FrameUser × Nat)
  rdc : Tab (Option Copy)
  /-- sets of the RDCs: key 8,192 × die + set, most recently used first -/
  rdcSets : Tab (List Way)
  /-- sets of the L2 slices: key (128 × die + slice) × 64 + set -/
  l2Sets : Tab (List Way)
  /-- way masks, key 64 × unit + context: unit 128 × die + slice for a slice, 2,048 + die for an RDC (R109) -/
  masks : Tab (BitVec 16)
  pmq : Tab (List PmPart)
  /-- not-before loads that wait at a slice: strand, mark of the load, address of the part (R66) -/
  nbq : Tab (List (Nat × Nat × Nat))
  /-- an uncorrectable error in a control structure that the next access of the control die or the SFD reads (R113) -/
  ctlError : Bool
  corrected : Nat
  poisoned : Nat
  spares : Tab Nat
  /-- PT of the corrected errors of each row (R336) -/
  rowErr : Tab (List Nat)
  /-- rows with an uncorrectable error -/
  rowBad : Tab Bool
  chanAccess : Tab Nat
  refresh : Tab Bool
  retiring : Option (Nat × Nat)
  /-- retired channels: key 32 × die + channel (R338) -/
  dead : Tab Bool
  cxlUp : Tab Bool
  cxlCap : Tab Nat
  cxlDropped : Nat
  /-- CTXAREA of each context (R299) -/
  areas : Tab W64
  overlay : Tab Byte
  record : Tab Byte
  mgmt : Tab Byte
  deriving DecidableEq, Repr

/-- Memory at power-on: nothing listed. -/
def MemState.init : MemState where
  bytes := []
  poison := []
  locks := []
  ver := []
  old := []
  oldTags := []
  frames := []
  pool := []
  frameWaits := []
  rdc := []
  rdcSets := []
  l2Sets := []
  masks := []
  pmq := []
  nbq := []
  ctlError := false
  corrected := 0
  poisoned := 0
  spares := []
  rowErr := []
  rowBad := []
  chanAccess := []
  refresh := []
  retiring := none
  dead := []
  cxlUp := []
  cxlCap := []
  cxlDropped := 0
  areas := []
  overlay := []
  record := []
  mgmt := []

/-- A record of the management core's logs (R68, R76, R272, R345). -/
inductive LogRec where
  | slip (die : Nat) (pt : Nat) (lag : Nat)
  | frameSlip (frame slip : Nat)
  | missTask (graph task : Nat) (late : Nat)
  | missBlock (addr : W64) (late : Nat)
  | event (cause : BitVec 8) (num : Nat) (pt : Nat) (detail : Nat)
  | port (port : Nat) (pt : Nat)
  deriving DecidableEq, Repr

/-- Package time, frontiers and frames (R54-R76). -/
structure TimeState where
  /-- the least PT that a die in step may show -/
  base : Nat
  /-- the part of a nanosecond that the master has counted beyond it, in millionths -/
  baseFrac : Nat
  /-- PT of each die: 0-7 matrix dies, 8 SFD, 9 control die -/
  pt : Tab Nat
  /-- the part of a nanosecond that each die has counted beyond its PT, in millionths -/
  frac : Tab Nat
  /-- each die's rate against the master's, in ppm: it holds its last one while it has no exchange (R55) -/
  rate : Tab Int
  locked : Bool
  hold : Tab Bool
  offset : Int
  stepped : Bool
  /-- the master has locked to the facility grandmaster (R56) -/
  sawLock : Bool
  /-- PT of the last timestamp exchange of each die (R55) -/
  exchanged : Tab Nat
  /-- PT at which the lock wait ends, while it runs -/
  waitOver : Bool
  /-- frontiers received: key 16 × holder + source -/
  held : Tab Nat
  /-- messages on their way: source, destination, value -/
  msgs : List (Nat × Nat × Nat)
  slipth : Nat
  fslip : Tab Nat
  /-- a slip event has been recorded and the lag has not fallen since (R68) -/
  slipped : Tab Bool
  framelen : Nat
  frameno : Nat
  framestart : Nat
  frameOn : Bool
  /-- the length in force of the current frame (R74) -/
  curLen : Nat
  /-- the PT from which frame 0 is sought (R74) -/
  origin : Option Nat
  /-- the slip of the frame that overran (R76) -/
  overran : Bool
  /-- PT at which the last member of the current frame completed -/
  lastMember : Nat
  tslipCount : Nat
  tslipLast : Nat
  log : List LogRec
  deriving DecidableEq, Repr

/-- Time at power-on (R57). -/
def TimeState.init : TimeState where
  base := 0
  baseFrac := 0
  pt := []
  frac := []
  rate := []
  locked := false
  hold := []
  offset := 0
  stepped := false
  sawLock := false
  exchanged := []
  waitOver := false
  held := []
  msgs := []
  slipth := 4096
  fslip := []
  slipped := []
  framelen := 1048576
  frameno := 0
  framestart := 0
  frameOn := false
  curLen := 1048576
  origin := none
  overran := false
  lastMember := 0
  tslipCount := 0
  tslipLast := 0
  log := []

/-- A budget curve record (R316). -/
structure Curve where
  slot : Nat
  seq : Nat
  validFrom : Nat
  validTo : Nat
  band : Nat
  bandFloor : Nat
  tslow : Nat
  tpark : Nat
  tshed : Nat
  points : List (Nat × Nat)
  effect : Nat
  deriving DecidableEq, Repr

/-- A region's operating point, ceiling and failures (R28, R313, R324). -/
structure Region where
  fcode : Nat
  vcode : Nat
  ceiling : Nat
  fails : Nat
  dark : Bool
  deriving DecidableEq, Repr

/-- A region at power-on (R313). -/
def Region.init : Region := ⟨0, 0, 100, 0, false⟩

/-- The budget scheduler, the meters and power delivery (R271, R316-R324). -/
structure EnergyState where
  headroom : Int
  trim : Int
  started : Bool
  grade : Nat
  /-- since when c(t) has stood at or above 102 % of the threshold of grade g, key g -/
  above : Tab (Option Nat)
  /-- when that was last found -/
  noted : Nat
  /-- the firmware's estimates: graph, task, entry, watts -/
  est : List (Nat × Nat × Nat × Nat)
  idle : Nat
  curve : Option Curve
  pending : List Curve
  accepted : Nat
  /-- a record has been accepted since power-on -/
  anyAccepted : Bool
  sender : Option Nat
  /-- samples of the present window: sum and count of p, sum of c -/
  winP : Nat
  winC : Nat
  winN : Nat
  /-- the present window is exempt (R319) -/
  winExempt : Bool
  /-- the last 100 samples of p and c, newest first -/
  hist : List (Nat × Nat)
  /-- PT of the last step of c or change of grade (R319) -/
  lastStep : Option Nat
  powerMean : Nat
  curveMean : Nat
  bandDev : Nat
  bandFac : Nat
  regions : Tab Region
  sfd : Region
  gated : Tab Bool
  /-- requests to gate (false) or ungate (true) a die, in arrival order -/
  gateQ : List (Bool × Nat)
  gateBusy : Option (Bool × Nat)
  /-- feeds that carry no power (R4, R324) -/
  feedLost : Tab Bool
  powered : Bool
  deriving DecidableEq, Repr

/-- Energy at power-on (R318, R320, R321). -/
def EnergyState.init : EnergyState where
  headroom := 0
  trim := 0
  started := false
  grade := 0
  above := []
  noted := 0
  est := []
  idle := 0
  curve := none
  pending := []
  accepted := 0
  anyAccepted := false
  sender := none
  winP := 0
  winC := 0
  winN := 0
  winExempt := false
  hist := []
  lastStep := none
  powerMean := 0
  curveMean := 3000
  bandDev := 0
  bandFac := 0
  regions := []
  sfd := Region.init
  gated := []
  gateQ := []
  gateBusy := none
  feedLost := []
  powered := true

/-- One direction of a module (R329). -/
structure Dir where
  next : Nat
  /-- sent and not acknowledged: sequence and virtual channel -/
  replay : List (Nat × Nat)
  expect : Nat
  /-- virtual channels stopped by the receiver -/
  stop : Tab Bool
  /-- the next flit to resend; none when nothing waits to be resent -/
  resend : Option Nat
  /-- virtual channels of the flits of a module that went down, to be sent here first (R334) -/
  rerouted : List Nat
  /-- the flit under way when a pause was asked for may still be finished (R330) -/
  current : Bool
  deriving DecidableEq, Repr

/-- A direction at power-on. -/
def Dir.init : Dir := ⟨0, [], 0, [], none, [], false⟩

/-- A module (R330). -/
structure Link where
  pause : Bool
  pausing : Bool
  thresh : Nat
  window : Nat
  state : Nat
  x32 : Bool
  /-- at x32, the half in use: lanes 32 to 63 (R332) -/
  high : Bool
  /-- the failed data lanes with the spares that stand in for them (R332) -/
  uses : List (Nat × Nat)
  svc : Bool
  /-- PT of the last window start, or of the last write of a length (R330) -/
  winAt : Nat
  retryWin : Nat
  retryTot : Nat
  failed : W64
  fwd : Dir
  bwd : Dir
  deriving DecidableEq, Repr

/-- A module at power-on (R330). -/
def Link.init : Link :=
  { pause := false, pausing := false, thresh := 16, window := 1000000, state := 0, x32 := false,
    high := false, uses := [], svc := false, winAt := 0, retryWin := 0, retryTot := 0, failed := 0, fwd := Dir.init, bwd := Dir.init }

/-- A facility key slot of the owner section (R325). -/
structure Facility where
  slot : Nat
  id : Nat
  keyX : Nat
  keyY : Nat
  deriving DecidableEq, Repr

/-- The configuration record (R325). -/
structure CfgRec where
  factory : List Byte
  owner : List Byte
  facilities : List Facility
  ownerKey : Option (Nat × Nat)
  cores : List W64
  lanes : List (Nat × Config.LaneMap)
  /-- banks of HBM4 that use spare rows from manufacture on, with their number (R325, R336) -/
  repair : List (Nat × Nat)
  ip : Option (Nat × Nat × Nat)
  domain : Nat
  deriving DecidableEq, Repr

/-- A message the package sends on the management port (R345). -/
inductive Message where
  | curveReply (dest seq status accepted : Nat)
  | report (dest seq : Nat) (data : List Byte)
  | refusal (dest seq : Nat)
  | event (dest cause num pt detail : Nat)
  | feed (dest bits : Nat)
  | arp (dest ip : Nat)
  | echo (dest : Nat) (data : List Byte)
  deriving DecidableEq, Repr

/-- The host port, the management port, configuration and firmware (R325-R327, R342-R345). -/
structure HostState where
  submits : List W64
  /-- SUBMIT as it was last written (R343) -/
  submitReg : W64
  dropped : Nat
  rejected : Nat
  aperture : W64
  killed : W64
  cfgcmd : W64
  cfgstate : Nat
  cfgstep : Nat
  /-- host writes through BAR 2 that have not been performed, oldest first: physical address and bytes (R338, R342) -/
  writes : List (Nat × List Byte)
  /-- the answer of the last BAR read: bytes, and whether the completion is marked poisoned -/
  lastRead : List Byte × Bool
  recovery : Bool
  cfg : CfgRec
  /-- a factory section written to flash that takes effect at the next power-on -/
  nextFactory : Option CfgRec
  image : List Byte
  running : List Byte
  address : Option (Nat × Nat × Nat)
  sent : List Message
  signatures : Nat
  deriving DecidableEq, Repr

/-- A configuration record that disables nothing and holds no owner section. -/
def CfgRec.none : CfgRec := ⟨[], [], [], Option.none, [], [], [], Option.none, 0⟩

/-- The ports at power-on (R343, R344). -/
def HostState.init : HostState where
  submits := []
  submitReg := 0
  dropped := 0
  rejected := 0
  aperture := 0
  killed := 0
  cfgcmd := 0
  cfgstate := 0
  cfgstep := 0
  writes := []
  lastRead := ([], false)
  recovery := false
  cfg := CfgRec.none
  nextFactory := none
  image := []
  running := []
  address := none
  sent := []
  signatures := 0

/-- A trigger of the debug unit (R308, R309). -/
structure Trigger where
  ctl : W64
  start : W64
  stop : W64
  sel : W64
  active : Bool
  lastSample : Nat
  deriving DecidableEq, Repr

/-- A trigger at power-on (R308). -/
def Trigger.init : Trigger := ⟨0, 0, 0, 0, false, 0⟩

/-- A trace or sample record (R310). -/
structure TraceRec where
  pt : Nat
  num : Nat
  queue : Nat
  position : Nat
  /-- the pc of a strand head (R305) -/
  pc : W64
  cls : Nat
  flag : Nat
  trigger : Nat
  deriving DecidableEq, Repr

/-- Debug (R305-R310). -/
structure DebugState where
  triggers : Tab Trigger
  trace : Tab (List TraceRec)
  drop : Tab Nat
  /-- the cut a debug stop reports: head and its position (R305) -/
  cut : List (Nat × Nat × W64)
  /-- the last dump: the bytes read (R307) -/
  dumped : List Byte
  /-- traps taken since time last passed: the strand, the cause and the context (R308) -/
  traps : List (Nat × BitVec 8 × Nat)
  /-- PT of each die before time last passed (R309) -/
  before : Tab Nat
  deriving DecidableEq, Repr

/-- Debug at power-on. -/
def DebugState.init : DebugState := ⟨[], [], [], [], [], [], []⟩

/-- Work in the machine (R31-R46, R269-R279). -/
structure WorkState where
  graphs : Tab (Option Graph)
  graphSeq : Nat
  launchSeq : Nat
  /-- conductor cores whose LAUNCH of a graph waits unaccepted, in order of arrival, with the number of waiting
  submissions that arrived before it (R269) -/
  launched : List (Nat × Nat)
  /-- the ready list and the tasks that wait for a place: graph, task -/
  readyList : List (Nat × Nat)
  readyWait : List (Nat × Nat)
  blocks : Tab (Option Block)
  nextBlock : Nat
  tts : Tab (Option TileTask)
  nextTt : Nat
  saved : Tab (Option Saved)
  /-- pool entries: blocks awaiting placement and iterations held (R46) -/
  poolBlocks : List Nat
  poolHeld : List (Nat × Nat)
  /-- the entries of the pool that are refill entries: a block, or an iteration held (R46, R278) -/
  refilled : List (Nat × Option Nat)
  refillNext : Nat
  /-- jobs that have come to the engines of the SFD so far (R262, R275) -/
  jobNext : Nat
  disp : Tab Disp
  trt : List TrtEntry
  bufs : List Buf
  cond : Tab Conductor
  streams : Tab Stream
  conductorStop : Bool
  deriving DecidableEq, Repr

/-- Work at power-on: none. -/
def WorkState.init : WorkState where
  graphs := []
  graphSeq := 0
  launchSeq := 0
  launched := []
  readyList := []
  readyWait := []
  blocks := []
  nextBlock := 1
  tts := []
  nextTt := 1
  saved := []
  poolBlocks := []
  poolHeld := []
  refilled := []
  refillNext := 0
  jobNext := 0
  disp := []
  trt := []
  bufs := []
  cond := []
  streams := []
  conductorStop := false

/-- Who performs scalar words: a strand, by its number 8 c + p (R143), or a conductor core. -/
inductive Agent where
  | strand (n : Nat)
  | conductor (k : Nat)
  deriving DecidableEq, Repr

/-- What the last word did. -/
inductive Verdict where
  /-- it issued, and transferred control to a target or fell through -/
  | issued (target : Option W64)
  /-- it waits at issue, on a semaphore with a threshold or for another reason -/
  | waits (sem : Option (Nat × Nat))
  /-- it raised a precise trap that the containment did not absorb at the word -/
  | trapped (c : Cause) (r : Rec)
  /-- the strand issues nothing more -/
  | ended
  deriving DecidableEq, Repr

/-- Where the word that is performed stands: the address of its first byte, its bytes, and whether its traps are
left for the group to deliver (R159). -/
structure Slot where
  addr : W64
  len : Nat
  defer : Bool
  deriving DecidableEq, Repr

/-- What a group reads, as it stood when the group began (R159). -/
structure View where
  strand : Strand
  core : Core
  cond : Conductor
  /-- by how much earlier members have advanced SRCTR (R129) -/
  sr : Nat
  /-- entries whose accessed bit a walk of the group has set, with the context (R292) -/
  walked : List (Nat × Nat)
  deriving DecidableEq, Repr

/-- What a turn of the model does. -/
inductive Act where
  | strand (n : Nat)
  | conductor (k : Nat)
  | event (i : Instr)
  /-- a strand runs some words from an address on, past a branch that has not resolved, and they are squashed (R49) -/
  | stray (n : Nat) (a : W64) (words : Nat)
  deriving DecidableEq, Repr

/-- A turn: nanoseconds that pass before it, how far each die's PT may run ahead (two bits a die), what is done, and how
it takes a choice that the manual leaves open. -/
structure Turn where
  dt : Nat
  skew : Nat
  act : Act
  choice : Nat
  deriving DecidableEq, Repr

/-- The state of a package. -/
structure State where
  mem : MemState
  cores : Tab Core
  strands : Tab (Option Strand)
  ctxs : Tab (Option Ctx)
  work : WorkState
  time : TimeState
  energy : EnergyState
  cpres : Tab W64
  links : Tab Link
  host : HostState
  dbg : DebugState
  agenda : List Turn
  cur : Agent
  slot : Slot
  view : Option View
  verdict : Verdict
  choice : Nat
  deriving DecidableEq, Repr

/-- All 64 cores of a word of CPRES present. -/
def allPresent : W64 := BitVec.allOnes 64

/-- The package right after power-on: every register at its power-on value, no context, no work. -/
def State.reset : State where
  mem := MemState.init
  cores := []
  strands := []
  ctxs := []
  work := WorkState.init
  time := TimeState.init
  energy := EnergyState.init
  cpres := [(0, allPresent), (1, allPresent), (2, allPresent), (3, allPresent)]
  links := []
  host := HostState.init
  dbg := DebugState.init
  agenda := []
  cur := .strand 0
  slot := ⟨0, 4, false⟩
  view := none
  verdict := .issued none
  choice := 0

end Sys2Proof.Machine
end

