-- ==== Sys2Proof/Machine/Base.lean ====
section
/-! DEFINITION. Machine/Base.lean: the named operations over the state that every meaning uses: units of the package by
number, registers with their poison tags and producers (R20, R166), verdicts, trap records (R284), semaphores (R151). -/
namespace Sys2Proof.Machine

/-! Units by number (R14-R19, R26). -/

/-- The strand of a number, if present. -/
def State.strandAt (s : State) (n : Nat) : Option Strand := tget none s.strands n

/-- A strand put in place. -/
def State.setStrand (s : State) (n : Nat) (st : Option Strand) : State :=
  { s with strands := tset none s.strands n st }

/-- A present strand changed. -/
def State.modStrand (s : State) (n : Nat) (f : Strand → Strand) : State :=
  match s.strandAt n with
  | some st => s.setStrand n (some (f st))
  | none => s

/-- A core. -/
def State.coreAt (s : State) (c : Nat) : Core := tget Core.init s.cores c

/-- A core put in place. -/
def State.setCore (s : State) (c : Nat) (x : Core) : State := { s with cores := tset Core.init s.cores c x }

/-- A core changed. -/
def State.modCore (s : State) (c : Nat) (f : Core → Core) : State := s.setCore c (f (s.coreAt c))

/-- A resident context. -/
def State.ctxAt (s : State) (c : Nat) : Option Ctx := tget none s.ctxs c

/-- A context put in place. -/
def State.setCtx (s : State) (c : Nat) (x : Option Ctx) : State := { s with ctxs := tset none s.ctxs c x }

/-- A resident context changed. -/
def State.modCtx (s : State) (c : Nat) (f : Ctx → Ctx) : State :=
  match s.ctxAt c with
  | some x => s.setCtx c (some (f x))
  | none => s

/-- Memory changed. -/
def State.modMem (s : State) (f : MemState → MemState) : State := { s with mem := f s.mem }

/-- Work changed. -/
def State.modWork (s : State) (f : WorkState → WorkState) : State := { s with work := f s.work }

/-- Time changed. -/
def State.modTime (s : State) (f : TimeState → TimeState) : State := { s with time := f s.time }

/-- Energy changed. -/
def State.modEnergy (s : State) (f : EnergyState → EnergyState) : State := { s with energy := f s.energy }

/-- The ports changed. -/
def State.modHost (s : State) (f : HostState → HostState) : State := { s with host := f s.host }

/-- Debug changed. -/
def State.modDebug (s : State) (f : DebugState → DebugState) : State := { s with dbg := f s.dbg }

/-- A tile task. -/
def State.ttAt (s : State) (t : Nat) : Option TileTask := tget none s.work.tts t

/-- A tile task put in place. -/
def State.setTt (s : State) (t : Nat) (x : Option TileTask) : State :=
  s.modWork fun w => { w with tts := tset none w.tts t x }

/-- A tile task changed. -/
def State.modTt (s : State) (t : Nat) (f : TileTask → TileTask) : State :=
  match s.ttAt t with
  | some x => s.setTt t (some (f x))
  | none => s

/-- A placed launch block. -/
def State.blockAt (s : State) (b : Nat) : Option Block := tget none s.work.blocks b

/-- A launch block put in place. -/
def State.setBlock (s : State) (b : Nat) (x : Option Block) : State :=
  s.modWork fun w => { w with blocks := tset none w.blocks b x }

/-- A launch block changed. -/
def State.modBlock (s : State) (b : Nat) (f : Block → Block) : State :=
  match s.blockAt b with
  | some x => s.setBlock b (some (f x))
  | none => s

/-- A graph in flight. -/
def State.graphAt (s : State) (g : Nat) : Option Graph := tget none s.work.graphs g

/-- A graph put in place. -/
def State.setGraph (s : State) (g : Nat) (x : Option Graph) : State :=
  s.modWork fun w => { w with graphs := tset none w.graphs g x }

/-- A graph changed. -/
def State.modGraph (s : State) (g : Nat) (f : Graph → Graph) : State :=
  match s.graphAt g with
  | some x => s.setGraph g (some (f x))
  | none => s

/-- A task of a graph. -/
def State.taskAt (s : State) (g t : Nat) : Option Task :=
  match s.graphAt g with
  | some x => x.tasks[t]?
  | none => none

/-- A task changed. -/
def State.modTask (s : State) (g t : Nat) (f : Task → Task) : State :=
  s.modGraph g fun x => { x with tasks := x.tasks.mapIdx fun i y => if i = t then f y else y }

/-- A conductor core. -/
def State.condAt (s : State) (k : Nat) : Conductor := tget Conductor.init s.work.cond k

/-- A conductor core put in place. -/
def State.setCond (s : State) (k : Nat) (x : Conductor) : State :=
  s.modWork fun w => { w with cond := tset Conductor.init w.cond k x }

/-- A conductor core changed. -/
def State.modCond (s : State) (k : Nat) (f : Conductor → Conductor) : State := s.setCond k (f (s.condAt k))

/-- A stream with its die queue, by number 64 d + 4 k + q. -/
def State.streamAt (s : State) (i : Nat) : Stream := tget Stream.init s.work.streams i

/-- A stream put in place. -/
def State.setStream (s : State) (i : Nat) (x : Stream) : State :=
  s.modWork fun w => { w with streams := tset Stream.init w.streams i x }

/-- A stream changed. -/
def State.modStream (s : State) (i : Nat) (f : Stream → Stream) : State := s.setStream i (f (s.streamAt i))

/-- A die dispatcher. -/
def State.dispAt (s : State) (d : Nat) : Disp := tget Disp.init s.work.disp d

/-- A die dispatcher changed. -/
def State.modDisp (s : State) (d : Nat) (f : Disp → Disp) : State :=
  s.modWork fun w => { w with disp := tset Disp.init w.disp d (f (tget Disp.init w.disp d)) }

/-- A module. -/
def State.linkAt (s : State) (l : Nat) : Link := tget Link.init s.links l

/-- A module changed. -/
def State.modLink (s : State) (l : Nat) (f : Link → Link) : State :=
  { s with links := tset Link.init s.links l (f (s.linkAt l)) }

/-- A region. -/
def State.regionAt (s : State) (r : Nat) : Region := tget Region.init s.energy.regions r

/-- PT of a die (R54). -/
def State.pt (s : State) (die : Nat) : Nat := tget 0 s.time.pt die

/-- The number of the control die (R14). -/
def cd : Nat := 9

/-- The number of the special-function die (R14). -/
def sfd : Nat := 8

/-- The core of a strand number (R16, R143). -/
def coreOfStrand (n : Nat) : Nat := n / 8

/-- The die of a core (R16). -/
def dieOfCore (c : Nat) : Nat := c / 32

/-- A core is present (R19). -/
def State.present (s : State) (c : Nat) : Bool := (tget 0 s.cpres (c / 64)).getLsbD (c % 64)

/-! Who acts. -/

/-- The strand that acts; the initial strand when none does. -/
def State.me (s : State) : Strand :=
  match s.cur with
  | .strand n => (s.strandAt n).getD Strand.init
  | .conductor _ => Strand.init

/-- The strand that acts, changed. -/
def State.modMe (s : State) (f : Strand → Strand) : State :=
  match s.cur with
  | .strand n => s.modStrand n f
  | .conductor _ => s

/-- The number of the strand that acts. -/
def State.myNum (s : State) : Nat :=
  match s.cur with
  | .strand n => n
  | .conductor _ => 0

/-- The core of the strand that acts. -/
def State.myCore (s : State) : Nat := coreOfStrand s.myNum

/-- The die of the agent that acts. -/
def State.myDie (s : State) : Nat :=
  match s.cur with
  | .strand n => dieOfCore (coreOfStrand n)
  | .conductor _ => cd

/-- A conductor core acts. -/
def State.conducting (s : State) : Bool :=
  match s.cur with
  | .strand _ => false
  | .conductor _ => true

/-- The number of the conductor core that acts. -/
def State.myCondNum (s : State) : Nat :=
  match s.cur with
  | .strand _ => 0
  | .conductor k => k

/-- The tile task of the strand that acts. -/
def State.myTt (s : State) : Option TileTask := s.ttAt s.me.tt

/-- The context number of the agent that acts. -/
def State.myCtx (s : State) : Nat :=
  match s.cur with
  | .strand _ => match s.myTt with
    | some t => t.ctx
    | none => 64
  | .conductor k => match (s.condAt k).task with
    | some (g, _) => match s.graphAt g with
      | some x => x.ctx
      | none => 64
    | none => 64

/-- The strand as a group reads it (R159). -/
def State.readStrand (s : State) : Strand :=
  match s.view with
  | some v => v.strand
  | none => s.me

/-- The core as a group reads it (R159). -/
def State.readCore (s : State) : Core :=
  match s.view with
  | some v => v.core
  | none => s.coreAt s.myCore

/-- The conductor core as its word reads it (R159). -/
def State.readCond (s : State) : Conductor :=
  match s.view with
  | some v => v.cond
  | none => s.condAt s.myCondNum

/-! Scalar registers (R20, R166). -/

/-- The value of a scalar register; g0 reads 0. -/
def State.g (s : State) (a : GReg) : W64 :=
  if a = 0 then 0
  else match s.cur with
    | .strand _ => tget 0 s.readStrand.g a.toNat
    | .conductor _ => tget 0 s.readCond.g a.toNat

/-- The poison tag of a scalar register; g0 and a conductor core's registers are untagged. -/
def State.gt (s : State) (a : GReg) : Bool :=
  if a = 0 then false
  else match s.cur with
    | .strand _ => tget false s.readStrand.gtag a.toNat
    | .conductor _ => false

/-- A register whose producer has not completed (R166). -/
def State.gBusy (s : State) (a : GReg) : Bool :=
  match s.cur with
  | .strand _ => a ≠ 0 && tget 0 s.readStrand.busy a.toNat ≠ 0
  | .conductor _ => false

/-- A scalar register and its tag written in a strand; a write to g0 is discarded. -/
def Strand.setG (st : Strand) (d : GReg) (v : W64) (t : Bool) : Strand :=
  if d = 0 then st
  else { st with g := tset 0 st.g d.toNat v, gtag := tset false st.gtag d.toNat t, busy := tset 0 st.busy d.toNat 0 }

/-- A scalar register of the acting agent written. -/
def State.setG (s : State) (d : GReg) (v : W64) (t : Bool) : State :=
  match s.cur with
  | .strand n => s.modStrand n fun st => st.setG d v t
  | .conductor k => if d = 0 then s else s.modCond k fun c => { c with g := tset 0 c.g d.toNat v }

/-! Verdicts. -/

/-- The word issued and falls through. -/
def State.issued (s : State) : State := { s with verdict := .issued none }

/-- The word issued and transfers control. -/
def State.goTo (s : State) (t : W64) : State := { s with verdict := .issued (some t) }

/-- The word is not ready: an interlock, a full queue, or a like wait (R166, R236). -/
def State.holds (s : State) : State := { s with verdict := .waits none }

/-- The word waits at a place at which a pending request stops the strand (R209). -/
def State.waitsAt (s : State) (sem : Option (Nat × Nat)) : State :=
  { s.modMe (fun st => { st with waiting := true }) with verdict := .waits sem }

/-- The word runs once every register it reads has been produced (R166). -/
def State.whenReady (s : State) (rs : List GReg) (k : State) : State := if rs.any s.gBusy then s.holds else k

/-! Trap records (R284). -/

/-- The record of POISON_CONSUMED at a scalar register (R166). -/
def Rec.reg (a : GReg) : Rec := { Rec.zero with ei0 := BitVec.ofNat 64 (a.toNat * 2 ^ 8) }

/-- A record with a primary value. -/
def Rec.addr (a : W64) : Rec := { Rec.zero with ei1 := a }

/-- A record with primary and secondary values. -/
def Rec.pair (a b : W64) : Rec := { Rec.zero with ei1 := a, ei2 := b }

/-- The record of TRAP n and BRK n (R185). -/
def Rec.soft (n : BitVec 5) : Rec := { Rec.zero with ei0 := BitVec.ofNat 64 (n.toNat * 2 ^ 24) }

/-- A flag bit of ei0 set. -/
def Rec.withBit (r : Rec) (i : Nat) : Rec := { r with ei0 := r.ei0 ||| BitVec.ofNat 64 (2 ^ i) }

/-! Outcomes of an access that may trap or wait, with the state it leaves. -/

/-- What an access answers. -/
inductive Res (α : Type) where
  | ok (a : α) (s : State)
  | trap (c : Cause) (r : Rec) (s : State)
  | wait (s : State)

/-- One access after another. -/
def Res.andThen {α β : Type} (x : Res α) (f : α → State → Res β) : Res β :=
  match x with
  | .ok a s => f a s
  | .trap c r s => .trap c r s
  | .wait s => .wait s

/-! Semaphores (R151, R197). -/

/-- Absolute number of a name in a window. -/
def semNum (base k : Nat) : Nat := (base + k) % 256

/-- A semaphore. -/
def Sync.sem (c : Sync) (i : Nat) : Sem := tget Sem.zero c.sems i

/-- A semaphore written. -/
def Sync.setSem (c : Sync) (i : Nat) (x : Sem) : Sync := { c with sems := tset Sem.zero c.sems i x }

/-- Whether a waiter may be served: the count suffices and no earlier waiter is unserved (R53, R151). -/
def Sync.ready (c : Sync) (i t : Nat) (w : Waiter) : Bool :=
  t ≤ (c.sem i).count &&
  (match tget [] c.waiters i with
   | [] => true
   | (w', _) :: _ => decide (w' = w))

/-- A waiter served: its count is subtracted and it leaves the line. -/
def Sync.take (c : Sync) (i t : Nat) (w : Waiter) : Sync :=
  let c := c.setSem i { c.sem i with count := (c.sem i).count - t }
  { c with waiters := tset [] c.waiters i ((tget [] c.waiters i).filter fun x => x.1 ≠ w) }

/-- A waiter joins the line of a semaphore in order of arrival. -/
def Sync.join (c : Sync) (i t : Nat) (w : Waiter) : Sync :=
  let l := tget [] c.waiters i
  if l.any (fun x => x.1 = w) then c else { c with waiters := tset [] c.waiters i (l ++ [(w, t)]) }

/-- A waiter leaves every line (R209). -/
def Sync.leave (c : Sync) (w : Waiter) : Sync :=
  { c with waiters := (c.waiters.map fun (k, l) => (k, l.filter fun x => x.1 ≠ w)).filter fun x => x.2 ≠ [] }

/-- A signal on a semaphore: none when the count would pass 65,535; no effect on a poisoned one (R151, R197). -/
def Sync.post (c : Sync) (i n : Nat) : Option Sync :=
  let x := c.sem i
  if x.poisoned then some c
  else if 65535 < x.count + n then none
  else some (c.setSem i { x with count := x.count + n })

/-- A core's semaphores changed. -/
def Core.modSync (c : Core) (f : Sync → Sync) : Core := { c with sync := f c.sync }

/-- A semaphore of a core. -/
def Core.sem (c : Core) (i : Nat) : Sem := c.sync.sem i

/-! Numbers. -/

/-- Bits [hi:lo] of a bit vector as a number (R12). -/
def fieldOf {n : Nat} (x : BitVec n) (lo len : Nat) : Nat := bits x.toNat lo len

/-- A two's-complement value of n bits (R12). -/
def signed (n x : Nat) : Int := if x % 2 ^ n < 2 ^ (n - 1) then (x % 2 ^ n : Nat) else (x % 2 ^ n : Nat) - 2 ^ n

/-- An integer kept to 64 bits (R12). -/
def wrap64 (x : Int) : W64 := BitVec.ofInt 64 x

/-- Bytes to a number, little-endian (R7). -/
def leNat : List Byte → Nat
  | [] => 0
  | b :: bs => b.toNat + 256 * leNat bs

/-- A number to bytes, little-endian (R7). -/
def leBytes (n x : Nat) : List Byte := natBytes n x

/-- The list of the numbers below n, in order. -/
def upto (n : Nat) : List Nat := List.range n

/-- Round up to a multiple. -/
def roundUp (x m : Nat) : Nat := (x + m - 1) / m * m

end Sys2Proof.Machine
end

