-- ==== Sys2Proof/Machine/Home.lean ====
section
/-! DEFINITION. Machine/Home.lean: physical memory and its homes (R24-R26), poison (R113, R114), copies in caches
(R89-R91, R109), locks (R84) and the writes that homes perform, with the monitors they wake (R104). -/
namespace Sys2Proof.Machine

/-! Routes (R15, R328, R334). -/

/-- A module is up and not paused: flits cross it (R330, R333). -/
def State.linkUp (s : State) (l : Nat) : Bool := (s.linkAt l).state = 0 && !(s.linkAt l).pause

/-- A module is down. -/
def State.linkDown (s : State) (l : Nat) : Bool := (s.linkAt l).state = 3

/-- The ring modules from a matrix die to another, in a direction. -/
def ringPath (up : Bool) (a n : Nat) : List Nat :=
  (upto n).map fun i => if up then 16 + (a + i) % 8 else 16 + (a + 7 - i) % 8

/-- The modules between two matrix dies: the direction with fewer hops, upwards at four; the opposite direction past a
module that is down. -/
def State.ringRoute (s : State) (a b : Nat) : List Nat :=
  let n := (b + 8 - a) % 8
  let up := decide (n ≤ 4)
  let p := ringPath up a (if up then n else 8 - n)
  if p.any s.linkDown then ringPath (!up) a (if up then 8 - n else n) else p

/-- The modules between a matrix die and the SFD: past a module that is down, by way of the next matrix die, and where the module of
that one is down as well, of the one after it (R334). -/
def State.sfdRoute (s : State) (d : Nat) : List Nat :=
  match (upto 8).find? fun i => !s.linkDown (24 + (d + i) % 8) with
  | some i => s.ringRoute d ((d + i) % 8) ++ [24 + (d + i) % 8]
  | none => [24 + d]

/-- The module between a matrix die and the control die for an even or odd conductor core. -/
def State.cdRoute (s : State) (d m : Nat) : Nat := if s.linkDown (2 * d + m) then 2 * d + (1 - m) else 2 * d + m

/-- The module between the SFD and the control die. -/
def State.sfdCdRoute (s : State) : Nat := if s.linkDown 32 then 33 else 32

/-- The modules that traffic crosses from one die to another. DESIGN CHOICE (log entry 118): R15 gives a module to the conductor
cores alone; all other traffic with the control die takes module 0 of a die, and that of the SFD its module 0. -/
def State.route (s : State) (a b : Nat) : List Nat :=
  if a = b then []
  else if a < 8 && b < 8 then s.ringRoute a b
  else if a < 8 then if b = sfd then s.sfdRoute a else [s.cdRoute a 0]
  else if b < 8 then if a = sfd then s.sfdRoute b else [s.cdRoute b 0]
  else [s.sfdCdRoute]

/-- Traffic crosses from one die to another now: no module on its way is paused, training or down (R333). -/
def State.reaches (s : State) (a b : Nat) : Bool := (s.route a b).all s.linkUp

/-- Traffic of a conductor core crosses between the control die and another die: core k uses module k mod 2 of a matrix die
(R15, R334). -/
def State.condReaches (s : State) (k d : Nat) : Bool :=
  s.linkUp (if d = sfd then s.sfdCdRoute else s.cdRoute d (k % 2))

/-! The physical address map (R24-R26). -/

/-- Bytes of a matrix die's range. -/
def dieRange : Nat := 0x1000000000
/-- Backed bytes of a matrix die's range. -/
def dieBacked : Nat := 0xC00000000
/-- First byte of the park tier. -/
def parkBase : Nat := 0x8000000000
/-- First byte of CXL port 0, and the size of each port's range. -/
def cxlBase : Nat := 0x10000000000

/-- The frame of a physical address. -/
def frameOf (pa : Nat) : Nat := pa / 65536

/-- The CXL port of an address. -/
def cxlPort (pa : Nat) : Option Nat := if cxlBase ≤ pa ∧ pa < 5 * cxlBase then some (pa / cxlBase - 1) else none

/-! Park-tier and HBM4 channels (R335, R337, R338). -/

/-- The channel of a frame: die and channel number. -/
def channelOf (pa : Nat) : Option (Nat × Nat) :=
  if pa < parkBase then some (pa / dieRange, pa % dieRange / 65536 % 32)
  else if pa < cxlBase then some (sfd, (pa - parkBase) / 65536 % 16)
  else none

/-- The channel of an address has been retired (R338). -/
def MemState.channelDead (m : MemState) (pa : Nat) : Bool :=
  match channelOf pa with
  | some (d, c) => tget false m.dead (32 * d + c)
  | none => false

/-- The die whose range a physical address lies in, backed or not (R24). -/
def rangeDie (pa : Nat) : Option Nat :=
  if pa < parkBase then some (pa / dieRange)
  else if pa < cxlBase || (cxlPort pa).isSome then some sfd
  else none

/-- The home die of a physical address; none when it is unbacked (R24, R25, R338). -/
def MemState.homeDie (m : MemState) (pa : Nat) : Option Nat :=
  if tget .normal m.frames (frameOf pa) = .unbacked || m.channelDead pa then none
  else if pa < parkBase then if pa % dieRange < dieBacked then some (pa / dieRange) else none
  else if pa < cxlBase then some sfd
  else match cxlPort pa with
    | some p => if pa % cxlBase < tget 0 m.cxlCap p then some sfd else none
    | none => none

/-- The home slice of a backed address, by its die and number (R26). -/
def sliceOf (pa : Nat) : Nat × Nat :=
  if pa < parkBase then (pa / dieRange, pa % dieRange / 128 % 80)
  else if pa < cxlBase then (sfd, (pa - parkBase) / 128 % 32)
  else (sfd, pa % cxlBase / 128 % 32)

/-- The number under which a slice's queues stand. -/
def sliceKey (x : Nat × Nat) : Nat := x.1 * 128 + x.2

/-! Bytes and poison. -/

/-- Memory is in its canonical form: addresses strictly rising, and no byte listed that is what an unlisted address reads as. -/
def Memory.wf (m : MemState) : Bool := tok (0 : Byte) m.bytes

/-- The byte at a physical address: what an unlisted address reads as is 0 (log entry 2). -/
def MemState.byteAt (m : MemState) (pa : Nat) : Byte := tget 0 m.bytes pa

/-- Whether a byte reads as poisoned: its sector is poisoned, its frame is retired, or its port is down
(R114, R336, R340). -/
def MemState.poisonAt (m : MemState) (pa : Nat) : Bool :=
  tget false m.poison (pa / 64) || tget .normal m.frames (frameOf pa) = .retired ||
  (match cxlPort pa with
   | some p => !(tget false m.cxlUp p)
   | none => false)

/-- What a home reads at one byte: 0 in a poisoned sector (R114). -/
def MemState.readByte (m : MemState) (pa : Nat) : Byte := if m.poisonAt pa then 0 else m.byteAt pa

/-- Bytes read at the home, with whether any came from a poisoned sector (R114). -/
def MemState.read (m : MemState) (pa n : Nat) : List Byte × Bool :=
  ((upto n).map fun i => m.readByte (pa + i), (upto n).any fun i => m.poisonAt (pa + i))

/-- A little-endian value read at the home. -/
def MemState.readNat (m : MemState) (pa n : Nat) : Nat := leNat (m.read pa n).1

/-- Sectors that a range touches. -/
def sectorsOf (pa n : Nat) : List Nat := if n = 0 then [] else (upto ((pa + n - 1) / 64 - pa / 64 + 1)).map (pa / 64 + ·)

/-- Bytes stored at enabled places. -/
def putBytes (t : List Host.Cell) (pa : Nat) : List (Option Byte) → List Host.Cell
  | [] => t
  | some b :: bs => putBytes (tset 0 t pa b) (pa + 1) bs
  | none :: bs => putBytes t (pa + 1) bs

/-- The bytes enabled in a sector by a write. -/
def coversSector (pa : Nat) (bs : List (Option Byte)) (sec : Nat) : Bool :=
  (upto 64).all fun i => pa ≤ sec * 64 + i && ((bs[sec * 64 + i - pa]?).getD none).isSome

/-- A write receives an enabled byte in a sector. -/
def touchesSector (pa : Nat) (bs : List (Option Byte)) (sec : Nat) : Bool :=
  (upto 64).any fun i => pa ≤ sec * 64 + i && ((bs[sec * 64 + i - pa]?).getD none).isSome

/-- Poison of a sector after a write: a tagged write sets it, an untagged one that covers it clears it (R114). -/
def poisonAfter (old tag covers : Bool) : Bool := tag || (old && !covers)

/-- A write to a retired frame, or to a port that is down, is discarded (R336, R340). -/
def MemState.discards (m : MemState) (pa : Nat) : Bool :=
  tget .normal m.frames (frameOf pa) = .retired ||
  (match cxlPort pa with
   | some p => !(tget false m.cxlUp p)
   | none => false)

/-- A write performed at the home: bytes, poison, and the version of each sector it touches (R101, R114). -/
def MemState.write (m : MemState) (pa : Nat) (bs : List (Option Byte)) (tag : Bool) : MemState :=
  if m.discards pa then
    { m with cxlDropped := if (cxlPort pa).isSome then m.cxlDropped + 1 else m.cxlDropped }
  else
    let secs := (sectorsOf pa bs.length).filter (touchesSector pa bs)
    { m with
      bytes := putBytes m.bytes pa bs
      poison := secs.foldl (fun t x =>
        tset false t x (poisonAfter (tget false t x) tag (coversSector pa bs x))) m.poison
      ver := secs.foldl (fun t x => tset 0 t x (tget 0 t x + 1)) m.ver
      old := m.old.filter fun o => !(pa ≤ o.pa && ((bs[o.pa - pa]?).getD none).isSome)
      oldTags := m.oldTags.map fun o =>
        if secs.contains o.sec then { o with tag := poisonAfter o.tag tag (coversSector pa bs o.sec) } else o }

/-- Every byte of a value enabled. -/
def whole (bs : List Byte) : List (Option Byte) := bs.map some

/-! Cache sets (R109). -/

/-- The way a fill takes: the lowest invalid allowed way, else the least recently used allowed one. -/
def fillWay (mask : BitVec 16) (ws : List Way) : Option Nat :=
  match (upto 16).filter fun w => mask.getLsbD w && ws.all fun x => x.way ≠ w with
  | w :: _ => some w
  | [] => match (ws.reverse.filter fun x => mask.getLsbD x.way) with
    | x :: _ => some x.way
    | [] => none

/-- A set after an access to a line by a context: a hit moves to the front, a miss fills under the mask. The line
evicted, if any, and whether the line is now present. -/
def touchSet (mask : BitVec 16) (ctx line : Nat) (dirty : Bool) (ws : List Way) : List Way × Option Nat × Bool :=
  match ws.find? fun x => x.line = line with
  | some x => ({ x with dirty := x.dirty || dirty } :: ws.filter fun y => y.line ≠ line, none, true)
  | none => match fillWay mask ws with
    | none => (ws, none, false)
    | some w =>
      let out := (ws.find? fun x => x.way = w).map (·.line)
      (⟨w, line, ctx, dirty⟩ :: ws.filter (fun x => x.way ≠ w), out, true)

/-- The way mask of a context at a slice or an RDC; the host's accesses and the management core's, numbered 64, have every way
(R109; log entry 12). -/
def MemState.wayMask (m : MemState) (unit ctx : Nat) : BitVec 16 :=
  if ctx < 64 then tget (BitVec.allOnes 16) m.masks (64 * unit + ctx) else BitVec.allOnes 16

/-- The L2 set of a line: slices hold 64 sets, taken in turn (the index is the model's, log entry 12). -/
def l2Key (pa : Nat) : Nat :=
  let x := sliceOf pa
  sliceKey x * 64 + pa / 128 / (if x.1 = sfd then 32 else 80) % 64

/-- An access to a park-tier channel wakes it from self-refresh and notes its time (R337). -/
def State.touchChannel (s : State) (pa : Nat) : State :=
  match channelOf pa with
  | some (8, c) => s.modMem fun m =>
      { m with chanAccess := tset 0 m.chanAccess c (tget 0 s.time.pt sfd), refresh := tset false m.refresh c false }
  | _ => s

/-- An access to a range of 64 KiB frames or more wakes the park-tier channels that it lies in (R337). -/
def State.touchSpan (s : State) (pa n : Nat) : State :=
  (upto (min 16 ((n + 65535) / 65536))).foldl (fun s i => s.touchChannel (pa + 65536 * i)) s

/-- An access at the home touches its L2 slice; a miss reaches its memory channel, and so does the write-back of a dirty line
that it evicts (R89, R109, R337). -/
def State.touchL2 (s : State) (ctx pa : Nat) (dirty : Bool) : State :=
  let k := l2Key pa
  let ws := tget [] s.mem.l2Sets k
  let (ws', out, _) := touchSet (s.mem.wayMask (k / 64) ctx) ctx (pa / 128) dirty ws
  let s := if ws.any fun w => w.line = pa / 128 then s else s.touchChannel pa
  let s := match out with
    | some l => if ws.any fun w => w.line = l && w.dirty then s.touchChannel (l * 128) else s
    | none => s
  s.modMem fun m => { m with l2Sets := tset [] m.l2Sets k ws' }

/-- Every line of the parts of an access touched at its home for reading. -/
def State.touchParts (s : State) (ctx : Nat) (ps : List Part) : State := ps.foldl (fun s p => s.touchL2 ctx p.pa false) s

/-- Every line of a range of physical memory that has a home touched there for reading: what a read by the management core does
(R89, R337). -/
def State.touchLines (s : State) (a n : Nat) : State :=
  (upto ((a + n + 127) / 128 - a / 128)).foldl (fun s i =>
    let l := (a / 128 + i) * 128
    if (s.mem.homeDie l).isSome then s.touchL2 64 l false else s) s

/-- Occupancy of a context in an L2 slice or an RDC: the lines resident that it filled (R109). -/
def occupancy (t : Tab (List Way)) (lo hi ctx : Nat) : Nat :=
  (t.filter fun x => lo ≤ x.1 && x.1 < hi).foldl (fun n x => n + (x.2.filter fun w => w.owner = ctx).length) 0

/-- The occupancy counter of a context at a unit, numbered as its way mask is (R109, R110). -/
def MemState.occupancyOf (m : MemState) (unit ctx : Nat) : Nat :=
  if unit < 2048 then occupancy m.l2Sets (64 * unit) (64 * (unit + 1)) ctx
  else occupancy m.rdcSets (8192 * (unit - 2048)) (8192 * (unit - 2047)) ctx

/-! Copies (R89-R91). -/

/-- The number of an RDC copy: line and die. -/
def rdcKey (die line : Nat) : Nat := line * 16 + die

/-- The line as the home holds it. -/
def MemState.copyOf (m : MemState) (line : Nat) : Copy where
  data := BitVec.ofNat 1024 (leNat (m.read (line * 128) 128).1)
  p0 := m.poisonAt (line * 128)
  p1 := m.poisonAt (line * 128 + 64)

/-- Bytes of a copy. -/
def Copy.read (c : Copy) (off n : Nat) : List Byte × Bool :=
  (leBytes n (c.data.toNat / 2 ^ (8 * off)),
   (c.p0 && off < 64) || (c.p1 && 64 < off + n))

/-- Bytes of a copy replaced by a store (R89). -/
def Copy.write (c : Copy) (off : Nat) (bs : List (Option Byte)) (tag : Bool) : Copy where
  data := BitVec.ofNat 1024 (leNat ((leBytes 128 c.data.toNat).mapIdx fun i b =>
    if off ≤ i then ((bs[i - off]?).getD none).getD b else b))
  p0 := if touchesSector off bs 0 then poisonAfter c.p0 tag (coversSector off bs 0) else c.p0
  p1 := if touchesSector off bs 1 then poisonAfter c.p1 tag (coversSector off bs 1) else c.p1

/-- The copy of a line dropped from a core's L1. -/
def State.dropL1 (s : State) (core line : Nat) : State := s.modCore core fun c => { c with l1 := tdel c.l1 line }

/-- The copy of a line dropped from a die's RDC, with its way. -/
def State.dropRdc (s : State) (die line : Nat) : State :=
  s.modMem fun m =>
    let k := die * 8192 + line % 8192
    { m with
      rdc := tdel m.rdc (rdcKey die line)
      rdcSets := tset [] m.rdcSets k ((tget [] m.rdcSets k).filter fun w => w.line ≠ line) }

/-- The copies of a line that a strand's core and die hold, dropped (R90). -/
def State.dropCopies (s : State) (core line : Nat) : State := (s.dropL1 core line).dropRdc (dieOfCore core) line

/-- A line filled into a die's RDC under the context's mask, evicting another (R89, R109). -/
def State.fillRdc (s : State) (die ctx line : Nat) (c : Copy) : State :=
  let k := die * 8192 + line % 8192
  let (ws, out, ok) := touchSet (s.mem.wayMask (2048 + die) ctx) ctx line false (tget [] s.mem.rdcSets k)
  s.modMem fun m =>
    let r := match out with
      | some l => tdel m.rdc (rdcKey die l)
      | none => m.rdc
    { m with rdcSets := tset [] m.rdcSets k ws, rdc := if ok then tset none r (rdcKey die line) (some c) else r }

/-- A line moved to the front of its RDC set by a hit (R109). -/
def State.useRdc (s : State) (die ctx line : Nat) : State :=
  let k := die * 8192 + line % 8192
  s.modMem fun m => { m with
    rdcSets := tset [] m.rdcSets k (touchSet (m.wayMask (2048 + die) ctx) ctx line false (tget [] m.rdcSets k)).1 }

/-- A line homed elsewhere, on a page with cache 0 or 1, in a matrix die's RDC (R89). -/
def inRdc (die cache pa : Nat) : Bool := die < 8 && (sliceOf pa).1 ≠ die && cache < 2

/-- A read through a die's RDC: of a line homed elsewhere on a page with cache 0 or 1, from a present copy unless the
copy is dropped, and otherwise from the home with a fill (R89, R96). -/
def State.dieRead (s : State) (die ctx cache pa n : Nat) (drop : Bool) : (List Byte × Bool) × State :=
  let line := pa / 128
  let remote := inRdc die cache pa
  match if remote && !drop then tget none s.mem.rdc (rdcKey die line) else none with
  | some c => (c.read (pa % 128) n, s.useRdc die ctx line)
  | none =>
    let s1 := s.touchL2 ctx pa false
    (s.mem.read pa n, if remote then s1.fillRdc die ctx line (s.mem.copyOf line) else s1)

/-- A line put in an L1: a set holds eight, and a full set gives one up, which one the manual leaves open (R20, log
entry 98). -/
def Core.fillL1 (c : Core) (line pick : Nat) (x : Copy) : Core :=
  let there := (c.l1.map (·.1)).filter fun l => l % 128 = line % 128 && l ≠ line
  let t := if there.length < 8 then c.l1 else match there[pick % 8]? with
    | some l => tdel c.l1 l
    | none => c.l1
  { c with l1 := tset none t line (some x) }

/-- A load of a core: through its L1 on a page with cache 0, and through the die's RDC (R89). `pick` names the victim of a
full set of the L1. -/
def State.coreRead (s : State) (core ctx cache pa n : Nat) (dropL dropR : Bool) (pick : Nat) : (List Byte × Bool) × State :=
  let line := pa / 128
  match if cache = 0 && !dropL then tget none (s.coreAt core).l1 line else none with
  | some c => (c.read (pa % 128) n, s)
  | none =>
    if cache = 0 then
      let die := dieOfCore core
      let (_, s1) := s.dieRead die ctx cache (line * 128) 128 dropR
      let c := match tget none s1.mem.rdc (rdcKey die line) with
        | some c => if (sliceOf pa).1 ≠ die then c else s.mem.copyOf line
        | none => s.mem.copyOf line
      (c.read (pa % 128) n, s1.modCore core fun x => x.fillL1 line pick c)
    else s.dieRead (dieOfCore core) ctx cache pa n dropR

/-- A read of a core is served by a copy that its L1 or its die's RDC holds, and not at the home (R89). -/
def State.served (s : State) (core cache pa : Nat) (dropL dropR : Bool) : Bool :=
  (cache = 0 && !dropL && (tget none (s.coreAt core).l1 (pa / 128)).isSome) ||
  (inRdc (dieOfCore core) cache pa && !dropR && (tget none s.mem.rdc (rdcKey (dieOfCore core) (pa / 128))).isSome)

/-- A store's acknowledgement updates the copies its core and its die hold (R89). -/
def State.updateCopies (s : State) (core : Option Nat) (die pa : Nat) (bs : List (Option Byte)) (tag : Bool) : State :=
  let line := pa / 128
  let up (c : Option Copy) : Option Copy := c.map fun c => c.write (pa % 128) bs tag
  let s := match core with
    | some k => s.modCore k fun x => { x with l1 := tmod none x.l1 line up }
    | none => s
  s.modMem fun m => { m with rdc := tmod none m.rdc (rdcKey die line) up }

/-! Monitors (R104) and home writes. -/

/-- The value bound by a WAITV: the doubleword, 0 and tagged when poisoned. -/
def MemState.word8 (m : MemState) (pa : Nat) : W64 × Bool :=
  let (bs, t) := m.read pa 8
  (BitVec.ofNat 64 (leNat bs), t)

/-- The head of a strand's load queue, when it is an armed monitor. -/
def Strand.monitor (st : Strand) : Option (LoadOp × GReg × W64 × W64) :=
  match st.lq with
  | op :: _ => match op.what with
    | .waitv d e t true => some (op, d, e, t)
    | _ => none
  | [] => none

/-- A register bound by the producer that still owns it (R166). -/
def Strand.bind (st : Strand) (d : GReg) (mark : Nat) (v : W64) (tag : Bool) : Strand :=
  if d ≠ 0 && tget 0 st.busy d.toNat = mark then st.setG d v tag else st

/-- A monitor returns a word: the load queue's head leaves, and the copies of its line are dropped (R90). -/
def State.fireMonitor (s : State) (n : Nat) (op : LoadOp) (d : GReg) : State :=
  match op.parts with
  | p :: _ =>
    let (v, t) := s.mem.word8 p.pa
    (s.modStrand n fun st => { st.bind d op.tok v t with lq := st.lq.tail }).dropCopies (coreOfStrand n) (p.pa / 128)
  | [] => s

/-- Every armed monitor on a written range whose word now differs returns it (R104). -/
def State.wake (s : State) (pa n : Nat) : State :=
  s.strands.foldl (fun s x =>
    match x.2 with
    | some st => match st.monitor with
      | some (op, d, e, _) => match op.parts with
        | p :: _ =>
          if p.pa < pa + n && pa < p.pa + 8 && (s.mem.word8 p.pa).1 ≠ e then s.fireMonitor x.1 op d else s
        | [] => s
      | none => s
    | none => s) s

/-- A write performed at its home for a context: the bytes, the L2 line made dirty, the monitors (R89, R104). -/
def State.homeWrite (s : State) (ctx pa : Nat) (bs : List (Option Byte)) (tag : Bool) : State :=
  (((s.modMem fun m => m.write pa bs tag).touchL2 ctx pa true).wake pa bs.length)

/-- Bytes of any length written, line by line, each at its home (R26, R89). -/
def State.homeWriteAll (s : State) (ctx pa : Nat) (bs : List (Option Byte)) (tag : Bool) : State :=
  (upto ((pa + bs.length + 127) / 128 - pa / 128)).foldl (fun s i =>
    let lo := max pa ((pa / 128 + i) * 128)
    let hi := min (pa + bs.length) ((pa / 128 + i + 1) * 128)
    s.homeWrite ctx lo ((bs.drop (lo - pa)).take (hi - lo)) tag) s

/-- A doubleword written at its home. -/
def State.homeWrite8 (s : State) (ctx pa : Nat) (v : W64) : State := s.homeWrite ctx pa (whole (leBytes 8 v.toNat)) false

/-! Locks (R84, R85). -/

/-- The lock history of a granule: the current lock in [3:0], older locks above, newest first. -/
def MemState.lockAt (m : MemState) (pa : Nat) : BitVec 16 := tget 0 m.locks (pa / 32)

/-- A lock written: the current one moves into the history. -/
def MemState.setLock (m : MemState) (pa : Nat) (v : BitVec 4) : MemState :=
  { m with locks := tmod 0 m.locks (pa / 32) fun h => (h.extractLsb' 0 12) ++ v }

/-- A slice holds queued parts whose time has come: it performs them before ordinary accesses (R61). -/
def State.dueParts (s : State) (slice : Nat × Nat) : Bool :=
  (tget [] s.mem.pmq (sliceKey slice)).any fun x => x.p.toNat ≤ s.pt slice.1

/-- Enabled bytes of a value. -/
def enabledBytes (v : Vec) (en : BitVec 512) : List (Option Byte) :=
  (leBytes 512 v.toNat).mapIdx fun i b => if en.getLsbD i then some b else none

/-- The enabled bytes of a part of a store. -/
def StoreOp.partBytes (o : StoreOp) (p : Part) : List (Option Byte) := ((enabledBytes o.data o.en).drop p.off).take p.len

/-- A part of a postmarked store as its slice queues it (R60). -/
def StoreOp.pmPart (o : StoreOp) (p : W64) (ctx : Nat) (x : Part) : PmPart :=
  let bs := o.partBytes x
  ⟨p, x.pa, bs.map (·.getD 0), bs.map (·.isSome), o.tag, ctx⟩

/-- A time held back by the postmarked stores that a strand has issued and that are not delivered (R64). -/
def Strand.heldBack (st : Strand) (m : Nat) : Nat :=
  (st.sq ++ st.sqAgain).foldl (fun m o => match o.what with
    | .pm p => min m (p.toNat - 1)
    | _ => m) m

/-- The frontier of a die: its PT, held back by the postmarked stores issued on it and not delivered (R64), those that a saved tile
task holds behind a REL among them (log entry 93). -/
def State.frontier (s : State) (die : Nat) : Nat :=
  s.work.saved.foldl (fun m x =>
    match x.2 with
    | some v => if dieOfCore v.tt.core = die then v.strands.foldl (fun m y => y.2.heldBack m) m else m
    | none => m)
  (s.strands.foldl (fun m x =>
    match x.2 with
    | some st => if dieOfCore (coreOfStrand x.1) = die then st.heldBack m else m
    | none => m) (s.pt die))

/-- The global frontier as a die holds it: the least of the ten values it holds (R65). -/
def State.gf (s : State) (die : Nat) : Nat :=
  (upto 10).foldl (fun m d => if d = die then min m (s.frontier die) else min m (tget 0 s.time.held (16 * die + d)))
    (s.frontier die)

/-- The time of a not-before load (R66). -/
def LoadOp.notBefore (o : LoadOp) : Option W64 :=
  match o.what with
  | .nb _ _ t | .vecNb _ t => some t
  | _ => none

/-- The load of an entry of a slice's not-before loads that still waits: it stands at the head of its strand's queue, and the
strand has not stopped (R66, R69). -/
def State.nbLoad (s : State) (e : Nat × Nat × Nat) : Option LoadOp :=
  match s.strandAt e.1 with
  | some st =>
    if st.stop.isSome then none
    else (st.lq.head?).filter fun o => o.tok = e.2.1 && o.parts.any fun p => p.pa = e.2.2
  | none => none

/-- An entry of a slice's not-before loads whose load still waits. -/
def State.nbLive (s : State) (e : Nat × Nat × Nat) : Bool := (s.nbLoad e).isSome

/-- The not-before loads that wait at a slice (R66). -/
def State.nbAt (s : State) (slice : Nat × Nat) : List (Nat × Nat × Nat) :=
  (tget [] s.mem.nbq (sliceKey slice)).filter s.nbLive

/-- A not-before load that waits at a slice can be performed: its value has a way back, and PT and the frontier of the home have
reached its time. The slice performs it before ordinary accesses (R61, R66). -/
def State.dueLoads (s : State) (slice : Nat × Nat) : Bool :=
  (tget [] s.mem.nbq (sliceKey slice)).any fun e =>
    s.reaches (dieOfCore (coreOfStrand e.1)) slice.1 && ((s.nbLoad e).bind (·.notBefore)).any fun t =>
      t.toNat ≤ s.pt slice.1 && t.toNat ≤ s.gf slice.1

/-- An ordinary access from a die may be performed at its home now: traffic crosses, and the slice owes neither a due part nor a
not-before load that can be performed (R61, R333). -/
def State.homeFree (s : State) (die pa : Nat) : Bool :=
  s.reaches die (sliceOf pa).1 && !s.dueParts (sliceOf pa) && !s.dueLoads (sliceOf pa)

/-- As `homeFree`, over the parts of an access. -/
def State.homesFree (s : State) (die : Nat) (ps : List Part) : Bool := ps.all fun p => s.homeFree die p.pa

/-- A frame that is moving, in a channel that is being retired, bounces writes (R338). -/
def MemState.bounces (m : MemState) (pa : Nat) : Bool := m.retiring.isSome && m.retiring = channelOf pa

/-- Traffic crosses from a die to every home of a range of physical memory: its frames are looked at one by one (R333). -/
def State.reachesAll (s : State) (die a n : Nat) : Bool :=
  (upto ((a + n + 65535) / 65536 - a / 65536)).all fun i => match s.mem.homeDie ((a / 65536 + i) * 65536) with
    | some d => s.reaches die d
    | none => true

/-- An access of the control die to physical addresses waits: traffic does not cross to a home, a slice owes a due part, or, for a
write, a moving frame bounces it (R61, R333, R338). -/
def State.rangeHeld (s : State) (write : Bool) (a n : Nat) : Bool :=
  (upto ((a + n + 127) / 128 - a / 128)).any fun i =>
    let pa := (a / 128 + i) * 128
    (s.mem.homeDie pa).isSome && (!s.homeFree cd pa || (write && s.mem.bounces pa))

end Sys2Proof.Machine
end

