-- ==== Sys2Proof/Machine/Walk.lean ====
section
/-! DEFINITION. Machine/Walk.lean: pointers, page-table walks, the L1 TLB, memory-tag checks, lazy commit, and the
access operation that every load, store, atomic and engine transfer begins with (R78-R88, R292). -/
namespace Sys2Proof.Machine

/-- What an access needs of a page (R80). -/
inductive Need where
  | read | write | both | exec
  /-- a store or an atomic of a transaction: it stores at the commit -/
  | txnWrite | txnBoth
  /-- no right: the page is only looked up -/
  | look
  deriving DecidableEq, Repr

/-- The access stores, and so sets the dirty bit (R80). -/
def Need.stores : Need → Bool
  | .write | .both => true
  | _ => false

/-- A page as a walk finds it: its first virtual and physical byte, log2 of its size, its entry. -/
structure Page where
  va : Nat
  log : Nat
  pte : W64
  deriving DecidableEq, Repr

/-- A field of an entry. -/
def pteF (e : W64) (lo n : Nat) : Nat := bits e.toNat lo n

/-- The physical address of a byte of a page. -/
def Page.pa (p : Page) (va : Nat) : Nat := pteF p.pte 16 36 * 65536 + va % 2 ^ p.log

/-- The page's cache attribute (R80). -/
def Page.cache (p : Page) : Nat := pteF p.pte 6 2

/-- The page checks memory tags (R80, R84). -/
def Page.tagged (p : Page) : Bool := pteF p.pte 5 1 = 1

/-- The page grants a need (R80). -/
def pteGrants (e : W64) : Need → Bool
  | .read => pteF e 2 1 = 1
  | .write => pteF e 3 1 = 1
  | .both => pteF e 2 1 = 1 && pteF e 3 1 = 1
  | .exec => pteF e 4 1 = 1
  | .txnWrite => pteF e 3 1 = 1
  | .txnBoth => pteF e 2 1 = 1 && pteF e 3 1 = 1
  | .look => true

/-- log2 of the page size of a leaf of a level (R79). -/
def pageLog (lvl : Nat) : Nat := if lvl = 0 then 16 else if lvl = 1 then 21 else 30

/-- The index of a level (R79). -/
def walkIndex (lvl va : Nat) : Nat :=
  match lvl with
  | 0 => bits va 16 5
  | 1 => bits va 21 9
  | 2 => bits va 30 9
  | 3 => bits va 39 9
  | _ => bits va 48 9

/-- The physical address of an entry. -/
def entryPa (table lvl va : Nat) : Nat := table + 8 * walkIndex lvl va

/-- A leaf entry that a level accepts (R80): a die in its home field (R14), reserved bits, cache and park, with home 8 when
park = 2, and, unless lazy, a frame aligned to the page, in the range of its home (R25), and in the park tier when park = 2. -/
def leafOk (lvl : Nat) (e : W64) : Bool :=
  lvl ≤ 2 && pteF e 12 4 < 10 && pteF e 54 2 = 0 && pteF e 9 1 = 0 && pteF e 6 2 ≠ 3 && pteF e 52 2 ≠ 3 &&
  (pteF e 52 2 ≠ 2 || pteF e 12 4 = sfd) &&
  (pteF e 8 1 = 1 ||
    (let pa := pteF e 16 36 * 65536
     pa % 2 ^ pageLog lvl = 0 && decide (rangeDie pa = some (pteF e 12 4)) &&
     (pteF e 52 2 ≠ 2 || (parkBase ≤ pa && pa < cxlBase))))

/-- A pointer entry that a level accepts, with the next table (R80). -/
def nextTable (m : MemState) (lvl : Nat) (e : W64) : Option Nat :=
  let t := pteF e 8 44 * 256
  if pteF e 52 4 = 0 && pteF e 2 6 = 0 && (lvl = 1 || t % 4096 = 0) && (m.homeDie t).isSome then some t else none

/-- A fault of a walk at an address. -/
inductive WalkOut where
  | leaf (lvl at_ : Nat) (e : W64)
  | fault (c : Cause)

/-- The walk from a table of a level down (R79-R81). An entry in a poisoned sector is an error of a control
structure (R113). -/
def walkFrom (m : MemState) (va : Nat) : Nat → Nat → WalkOut
  | lvl, table =>
    let pa := entryPa table lvl va
    if m.poisonAt pa then .fault .memControlError
    else
      let e : W64 := BitVec.ofNat 64 (m.readNat pa 8)
      if pteF e 0 1 = 0 then .fault .translation
      else if pteF e 1 1 = 1 then if leafOk lvl e then .leaf lvl pa e else .fault .translation
      else match lvl with
        | 0 => .fault .translation
        | l + 1 => match nextTable m (l + 1) e with
          | some t => walkFrom m va l t
          | none => .fault .translation

/-- The entries that a walk reads, from a table of a level down (R79). -/
def walkPath (m : MemState) (va : Nat) : Nat → Nat → List Nat
  | lvl, table =>
    let pa := entryPa table lvl va
    let e : W64 := BitVec.ofNat 64 (m.readNat pa 8)
    match lvl with
    | 0 => [pa]
    | l + 1 =>
      if m.poisonAt pa || pteF e 0 1 = 0 || pteF e 1 1 = 1 then [pa]
      else match nextTable m (l + 1) e with
        | some t => pa :: walkPath m va l t
        | none => [pa]

/-- A walk's entries read at their homes (R81, R89). -/
def State.touchWalk (s : State) (ctx va root : Nat) : State :=
  (walkPath s.mem va 4 root).foldl (fun s pa => s.touchL2 ctx pa false) s

/-- A translation in the core's L1 TLB (R82). -/
def Core.tlbFind (c : Core) (ctx va : Nat) : Option Page :=
  (c.tlb.find? fun e => e.ctx = ctx && e.va = va / 2 ^ e.log * 2 ^ e.log).map fun e => ⟨e.va, e.log, e.pte⟩

/-- A translation added to the TLB, newest first (R82). -/
def Core.tlbAdd (c : Core) (ctx : Nat) (p : Page) : Core :=
  { c with tlb := (⟨ctx, p.va, p.log, p.pte⟩ ::
      c.tlb.filter fun e => !(e.ctx = ctx && e.va = p.va)).take Config.tlbDepth }

/-- A range of memory made all zero, unpoisoned and unlocked (R86). -/
def MemState.zeroRange (m : MemState) (pa n : Nat) : MemState :=
  { m with
    bytes := tfilter (fun k _ => !(pa ≤ k && k < pa + n)) m.bytes
    poison := tfilter (fun k _ => !(pa / 64 ≤ k && k < (pa + n) / 64)) m.poison
    locks := tfilter (fun k _ => !(pa / 32 ≤ k && k < (pa + n) / 32)) m.locks
    old := m.old.filter fun o => !(pa ≤ o.pa && o.pa < pa + n)
    oldTags := m.oldTags.filter fun o => !(pa / 64 ≤ o.sec && o.sec < (pa + n) / 64) }

/-- A frame zeroed at its home, with its locks (R86): its park-tier channels are accessed (R337), and the writes are discarded and
counted, line by line, at a port that is down (R340). -/
def State.zeroFrame (s : State) (pa n : Nat) : State :=
  (s.touchSpan pa n).modMem fun m =>
    if m.discards pa then { m with cxlDropped := if (cxlPort pa).isSome then m.cxlDropped + n / 128 else m.cxlDropped }
    else m.zeroRange pa n

/-- Units of 64 KiB of a page (R86). -/
def pageUnits (lvl : Nat) : Nat := 2 ^ (pageLog lvl - 16)

/-- The commit of a lazy page (R86, R87): the quota is checked, a frame is taken from the pool of the entry's home,
zeroed and written into the entry, and the context's count grows. -/
def State.commit (s : State) (ctx lvl at_ : Nat) (e : W64) : Res W64 :=
  match s.ctxAt ctx with
  | none => .trap .translation Rec.zero s
  | some c =>
    if c.limit.toNat < c.commit.toNat + pageUnits lvl then .trap .quota Rec.zero s
    else
      let key := 4 * pteF e 12 4 + lvl
      match tget [] s.mem.pool key with
      | [] => .wait s
      | f :: fs =>
        let e' : W64 := BitVec.ofNat 64 (e.toNat - pteF e 16 36 * 65536 - 256 + f / 65536 * 65536)
        let s := (s.zeroFrame f (2 ^ pageLog lvl)).modMem fun m => { m with pool := tset [] m.pool key fs }
        let s := s.homeWrite8 ctx at_ e'
        .ok e' (s.setCtx ctx (some { c with commit := c.commit + BitVec.ofNat 32 (pageUnits lvl) }))

/-- A walk of a group has set the accessed bit of an entry (R292). -/
def State.noteWalk (s : State) (ctx at_ : Nat) : State :=
  { s with view := s.view.map fun v => { v with walked := v.walked ++ [(ctx, at_)] } }

/-- The translation of an address for a need (R78-R88): a TLB hit, unless a fresh walk is taken, or a walk from the root, which
must be backed as every table is (R25). The walker sets accessed, and dirty for a store (R81). `core` is none for a reader that has no TLB. -/
def State.translate (s : State) (core : Option Nat) (ctx : Nat) (ptr : W64) (need : Need) (fresh : Bool) : Res Page :=
  let p := ptr.toNat
  let va := bits p 63 1 * 2 ^ 56 + bits p 0 56
  if bits p 60 3 ≠ 0 then .trap .translation (Rec.addr ptr) s
  else match s.ctxAt ctx with
  | none => .trap .translation (Rec.addr ptr) s
  | some c =>
    if bits p 63 1 = 1 && !c.privileged then .trap .protection (Rec.addr ptr) s
    else
      let hit := match core with
        | some k => if fresh then none else (s.coreAt k).tlbFind ctx va
        | none => none
      match hit.bind fun h => if need.stores && pteF h.pte 11 1 = 0 then none else some h with
      | some h => if pteGrants h.pte need then .ok h s else .trap .protection (Rec.addr ptr) s
      | none =>
        let root := (if bits p 63 1 = 1 then c.root1 else c.root0).toNat
        if root = 0 || (s.mem.homeDie root).isNone then .trap .translation (Rec.addr ptr) s
        else
        let s := s.touchWalk ctx va root
        match walkFrom s.mem va 4 root with
        | .fault cause => .trap cause (Rec.addr ptr) s
        | .leaf lvl at_ e =>
          if !pteGrants e need then .trap .protection (Rec.addr ptr) s
          else if pteF e 8 1 = 0 && (s.mem.homeDie (pteF e 16 36 * 65536 + va % 2 ^ pageLog lvl)).isNone then
            .trap .translation (Rec.addr ptr) s
          else
            let r := if pteF e 8 1 = 1 then s.commit ctx lvl at_ e else .ok e s
            match r with
            | .trap cause _ s => .trap cause (Rec.addr ptr) s
            | .wait s => .wait s
            | .ok e s =>
              let e' := e ||| BitVec.ofNat 64 (if need.stores then 0xC00 else 0x400)
              let s := if e' = e then s else (s.homeWrite8 ctx at_ e').noteWalk ctx at_
              let page : Page := ⟨va / 2 ^ pageLog lvl * 2 ^ pageLog lvl, pageLog lvl, e'⟩
              .ok page (match core with
                | some k => s.modCore k fun x => x.tlbAdd ctx page
                | none => s)

/-- The virtual address of a pointer (R78). -/
def vaOf (ptr : W64) : Nat := bits ptr.toNat 63 1 * 2 ^ 56 + bits ptr.toNat 0 56

/-- The lines that a range of a pointer touches: offset, length. -/
def linePieces (ptr : Nat) : Nat → Nat → Nat → List (Nat × Nat)
  | 0, _, _ => []
  | fuel + 1, off, n =>
    if n = 0 then []
    else
      let k := min n (128 - (ptr + off) % 128)
      (off, k) :: linePieces ptr fuel (off + k) (n - k)

/-- The pieces of a range. -/
def pieces (ptr n : Nat) : List (Nat × Nat) := linePieces ptr (n / 128 + 2) 0 n

/-- Each piece translated in ascending order: the first fault is at the lowest faulting address (R83). A byte whose
physical address is unbacked raises TRANSLATION (R25). -/
def State.translateAll (s : State) (core : Option Nat) (ctx : Nat) (ptr : W64) (need : Need) (fresh : Bool) :
    List (Nat × Nat) → Res (List (Part × Page))
  | [] => .ok [] s
  | (off, n) :: ps =>
    let q := ptr + BitVec.ofNat 64 off
    match s.translate core ctx q need fresh with
    | .trap c r s => .trap c r s
    | .wait s => .wait s
    | .ok page s =>
      let pa := page.pa (vaOf q)
      if (s.mem.homeDie pa).isNone then .trap .translation (Rec.addr q) s
      else match s.translateAll core ctx ptr need fresh ps with
        | .trap c r s => .trap c r s
        | .wait s => .wait s
        | .ok rest s => .ok ((⟨off, pa, n, page.cache⟩, page) :: rest) s

/-- A translation for a die waits: a page of some pieces is not in the TLB, and a module on the way to the home of an entry that
its walk reads is paused, training or down (R333). -/
def State.walksHeld (s : State) (die : Nat) (core : Option Nat) (ctx : Nat) (ptr : W64) (ps : List (Nat × Nat)) : Bool :=
  (s.links.any fun x => !s.linkUp x.1) && ps.any fun (off, _) =>
    let va := vaOf (ptr + BitVec.ofNat 64 off)
    match s.ctxAt ctx with
    | none => false
    | some c =>
      let root := (if (ptr + BitVec.ofNat 64 off).getLsbD 63 then c.root1 else c.root0).toNat
      (core.bind fun k => (s.coreAt k).tlbFind ctx va).isNone && root ≠ 0 &&
      (walkPath s.mem va 4 root).any fun pa => !s.reaches die (sliceOf pa).1

/-- As `walksHeld`, over a range. -/
def State.walkHeld (s : State) (die : Nat) (core : Option Nat) (ctx : Nat) (ptr : W64) (n : Nat) : Bool :=
  s.walksHeld die core ctx ptr (pieces ptr.toNat n)

/-- Granules of a part. -/
def granules (pa n : Nat) : List Nat := if n = 0 then [] else (upto ((pa + n - 1) / 32 - pa / 32 + 1)).map (pa / 32 + ·)

/-- The first granule whose lock differs from the key, by the pointer of the part and the history (R84). -/
def tagFault (m : MemState) (ptr : W64) : List (Part × Page) → Option (W64 × BitVec 16)
  | [] => none
  | (p, page) :: ps =>
    let q := ptr + BitVec.ofNat 64 p.off
    if page.tagged then
      match (granules p.pa p.len).find? fun g => bits (m.lockAt (g * 32)).toNat 0 4 ≠ bits q.toNat 56 4 with
      | some g => some (q + BitVec.ofNat 64 (g * 32 - p.pa), m.lockAt (g * 32))
      | none => tagFault m ptr ps
    else tagFault m ptr ps

/-- A global access: every page translated and its rights checked, then every granule's tag (R83, R84, R186). It
answers the parts by line. One of the control die or of the SFD meets an error in a control structure that it reads (R113). -/
def State.access (s : State) (core : Option Nat) (ctx : Nat) (ptr : W64) (n : Nat) (need : Need) (fresh : Bool) :
    Res (List Part) :=
  if core.isNone && s.mem.ctlError then
    .trap .memControlError (Rec.addr ptr) (s.modMem fun m => { m with ctlError := false })
  else match s.translateAll core ctx ptr need fresh (pieces ptr.toNat n) with
  | .trap c r s => .trap c r s
  | .wait s => .wait s
  | .ok ps s =>
    match tagFault s.mem ptr ps with
    | some (q, h) => .trap .tagMismatch (Rec.pair q (h.setWidth 64)) s
    | none => .ok (ps.map (·.1)) s

/-- As `access`, for an access that checks no key (R206). -/
def State.accessNoKey (s : State) (core : Option Nat) (ctx : Nat) (ptr : W64) (n : Nat) (need : Need) (fresh : Bool) :
    Res (List Part) :=
  match s.translateAll core ctx ptr need fresh (pieces ptr.toNat n) with
  | .trap c r s => .trap c r s
  | .wait s => .wait s
  | .ok ps s => .ok (ps.map (·.1)) s

/-- Bytes read at their homes, over the parts of an access (R90). -/
def State.readParts (s : State) : List Part → List Byte × Bool
  | [] => ([], false)
  | p :: ps =>
    let (b, t) := s.mem.read p.pa p.len
    let (bs, ts) := s.readParts ps
    (b ++ bs, t || ts)

/-- Bytes written at their homes, over the parts of an access. -/
def State.writeParts (s : State) (ctx : Nat) (bs : List Byte) (tag : Bool) : List Part → State
  | [] => s
  | p :: ps => (s.homeWrite ctx p.pa (whole ((bs.drop p.off).take p.len)) tag).writeParts ctx bs tag ps

/-- Whether an open choice takes a fresh walk, drops an L1 copy or drops an RDC copy (R82, R89), and what is left of
the choice. -/
def State.fresh (s : State) : Bool := s.choice % 2 = 1
/-- The turn drops the L1 copy (R89). -/
def State.dropsL1 (s : State) : Bool := s.choice / 2 % 2 = 1
/-- The turn drops the RDC copy (R89). -/
def State.dropsRdc (s : State) : Bool := s.choice / 4 % 2 = 1
/-- What the turn picks among parts or outcomes. -/
def State.pick (s : State) : Nat := s.choice / 8

/-- The wait of an agent outside the strands for a free frame is over. -/
def State.endFrameWait (s : State) (u : FrameUser) : State :=
  s.modMem fun m => { m with frameWaits := m.frameWaits.filter fun x => x.1 ≠ u }

/-- An agent outside the strands finds no free frame (R87): its wait begins or goes on, and `fail` once it has lasted
1,000,000 ns by the PT of a die. -/
def State.frameWait {α : Type} (s : State) (u : FrameUser) (die : Nat) (fail wait : State → α) : α :=
  match s.mem.frameWaits.find? fun x => x.1 = u with
  | some x => if x.2 ≤ s.pt die then fail (s.endFrameWait u) else wait s
  | none =>
    let e := s.pt die + Config.commitWait
    wait (s.modMem fun m => { m with frameWaits := m.frameWaits ++ [(u, e)] })

/-- An access of the control die waits for a home, or for a walk, not for a free frame (R61, R333). -/
def State.cdHeld (s : State) (ctx : Nat) (a : W64) (n : Nat) (need : Need) : Bool :=
  s.walkHeld cd none ctx a n || match s.access none ctx a n need false with
  | .ok ps _ => !s.homesFree cd ps
  | _ => false

/-- An error in a control structure that the word at issue reads raises MEM_CONTROL_ERROR (R113). -/
def State.ctlTurn {α : Type} (s : State) (bad : State → α) (k : α) : α :=
  if s.me.ctlError then bad (s.modMe fun st => { st with ctlError := false }) else k

/-- What stands before an access at issue: an error in a control structure that it reads (R113), and a wait for a free
frame that has ended (R87). -/
def State.atIssue {α : Type} (s : State) (ptr : W64) (k : Res α) : Res α :=
  s.ctlTurn (.trap .memControlError (Rec.addr ptr)) (if s.me.commitWait.any (fun x => x.1 = 0) then .wait s else k)

/-- An access of the acting strand at issue. -/
def State.myAccess (s : State) (ptr : W64) (n : Nat) (need : Need) : Res (List Part) :=
  s.atIssue ptr (s.access (some s.myCore) s.myCtx ptr n need s.fresh)

/-- A word at issue goes on unless the walk of its access waits (R333). -/
def State.unheld (s : State) (ptr : W64) (n : Nat) (k : State) : State :=
  if s.walkHeld s.myDie (some s.myCore) s.myCtx ptr n then s.holds else k

end Sys2Proof.Machine
end

