-- ==== Sys2Proof/Machine/Contain.lean ====
section
/-! DEFINITION. Machine/Contain.lean: how a unit ends abnormally and how a fault is offered outward through the levels
(R52, R293, R349), the fault log (R311) and the events of the management core (R345). -/
namespace Sys2Proof.Machine

/-- A message of type 5 or 6 goes to the sender of the last accepted curve record, or to no one (R345). -/
def State.send (s : State) (f : Nat → Message) : State :=
  match s.energy.sender with
  | some a => s.modHost fun h => { h with sent := h.sent ++ [f a] }
  | none => s

/-- An event of class M, or the kill of a context, with its detail (R289, R345). -/
def State.mEventWith (s : State) (cause : BitVec 8) (num detail : Nat) : State :=
  let pt := s.pt cd
  (s.modTime fun t => { t with log := t.log ++ [.event cause num pt detail] }).send
    fun a => .event a cause.toNat num pt detail

/-- An event whose detail the manual does not state (R345). -/
def State.mEvent (s : State) (cause : BitVec 8) (num : Nat) : State :=
  s.mEventWith cause num (Config.eventDetail cause.toNat s.time.log.length)

/-- The code of a policy (R35). -/
def Policy.num : Policy → Nat
  | .ignore => 0 | .retry => 1 | .killSelf => 2 | .killParent => 3

/-- The policy of a code (R35). -/
def policyOf (n : Nat) : Policy :=
  match n with
  | 0 => .ignore | 1 => .retry | 2 => .killSelf | _ => .killParent

/-- The code of a level in a fault-log record (R311). -/
def Level.num : Level → Nat
  | .tileTask => 0 | .block => 1 | .task => 2 | .graph => 3 | .context => 4

/-- Where a fault was raised: the units concerned and the number its log record carries (R52, R311). -/
structure FaultAt where
  ctx : Nat
  tt : Option Nat
  block : Option Nat
  /-- the linear index, where the fault has one -/
  idx : Option Nat
  task : Option (Nat × Nat)
  /-- the strand or head, where one raised it -/
  who : Option Nat
  /-- the launch block's address, where there is one -/
  addr : Option W64
  deriving DecidableEq, Repr

/-- A fault raised by no strand or head, for no tile task. -/
def noUnit (ctx : Nat) : FaultAt :=
  ⟨ctx, none, none, none, none, none, none⟩

/-- The 64 bytes of a fault-log record (R311). -/
def flogBytes (r : Rec) (cause : BitVec 8) (lvl : Level) (pol : Policy) (who pt : Nat) (addr : W64) (idx : Nat) :
    List Byte :=
  leBytes 8 r.ei0.toNat ++ leBytes 8 r.ei1.toNat ++ leBytes 8 r.ei2.toNat ++ leBytes 8 r.ei3.toNat ++
  leBytes 4 (cause.toNat + lvl.num * 2 ^ 8 + pol.num * 2 ^ 11) ++ leBytes 4 who ++ leBytes 8 pt ++
  leBytes 8 addr.toNat ++ leBytes 8 idx

/-- A record written to the context's fault log, or counted lost when the log is full (R311). -/
def State.flogNow (s : State) (ctx : Nat) (bs : List Byte) : State :=
  match s.ctxAt ctx with
  | none => s
  | some c =>
    let base := (tget 0 s.mem.areas ctx).toNat
    let n := s.mem.readNat (base + 0x14) 4
    if n < c.flogCap then
      (s.homeWrite ctx (base + c.flogOff + 64 * n) (whole bs) false).homeWrite ctx (base + 0x14)
        (whole (leBytes 4 (n + 1))) false
    else
      let l := s.mem.readNat (base + 0x24) 4
      s.homeWrite ctx (base + 0x24) (whole (leBytes 4 (if l = 2 ^ 32 - 1 then l else l + 1))) false

/-- The next write of a context's fault log waits: no traffic crosses to the homes of the header or of the record (R333). -/
def State.flogHeld (s : State) (ctx : Nat) : Bool :=
  match s.ctxAt ctx with
  | none => false
  | some c =>
    let base := (tget 0 s.mem.areas ctx).toNat
    !s.reachesAll cd base 64 || !s.reachesAll cd (base + c.flogOff + 64 * s.mem.readNat (base + 0x14) 4) 64

/-- A record for the context's fault log: written, or left waiting behind those that wait (R311, R333). -/
def State.flog (s : State) (ctx : Nat) (bs : List Byte) : State :=
  if ((s.ctxAt ctx).any fun c => c.flogWait ≠ []) || s.flogHeld ctx then
    s.modCtx ctx fun c => { c with flogWait := c.flogWait ++ [bs] }
  else s.flogNow ctx bs

/-- Records that wait written in order, as far as traffic crosses to their homes (R333). -/
def State.flushLog (s : State) (ctx : Nat) : List (List Byte) → State
  | [] => s.modCtx ctx fun c => { c with flogWait := [] }
  | b :: bs => if s.flogHeld ctx then s.modCtx ctx fun c => { c with flogWait := b :: bs } else (s.flogNow ctx b).flushLog ctx bs

/-- The log record of a fault absorbed at a level. -/
def State.logFault (s : State) (f : FaultAt) (c : Cause) (r : Rec) (lvl : Level) (pol : Policy) : State :=
  let fill (k : Nat) : Nat := Config.logFill k (s.pt cd) (s.mem.readNat ((tget 0 s.mem.areas f.ctx).toNat + 0x14) 4)
  s.flog f.ctx (flogBytes r c.code lvl pol (f.who.getD (fill 0x24)) (s.pt cd)
    (f.addr.getD (BitVec.ofNat 64 (fill 0x30))) (f.idx.getD (fill 0x38)))

/-! Abnormal ends. -/

/-- The transaction of a strand ends without its stores; the code is recorded (R102). One whose commit has succeeded is past
every abort: its TXE has only to retire (R101). -/
def Strand.abortTxn (st : Strand) (code : BitVec 8) : Strand :=
  match st.txn with
  | some x => if x.phase = 2 then st else { st with txn := none, txsCode := code }
  | none => st

/-- A strand at the moment a trap is taken: an open transaction aborts with code 0x07 (R102), and a wait for a frame is
over (R87). -/
def Strand.trapped (st : Strand) : Strand :=
  { st.abortTxn 7 with commitWait := none, waitPt := none, ctlError := false, deadlock := false }

/-- A load whose destination is a port: it ends with a scratchpad write (R213). -/
def LoadOp.toPort (o : LoadOp) : Bool :=
  match o.what with
  | .vec x | .vecNb x _ => 1536 ≤ x.dst
  | _ => false

/-- A load that still has an effect once its strand has ended: a push to a port, or a signal clause. -/
def LoadOp.runsOn (o : LoadOp) : Bool := o.sig.isSome || o.toPort

/-- A load of the strand waits at its home: a not-before load, or an armed monitor (R66, R104). -/
def LoadOp.waits (o : LoadOp) : Bool :=
  match o.what with
  | .nb .. | .vecNb .. | .waitv .. => true
  | _ => false

/-- A load that waits at its home is cancelled there: it replays whole on resumption (R69, R104). -/
def LoadOp.cancel (o : LoadOp) : LoadOp :=
  match o.what with
  | .nb .. | .vecNb .. => { o with parts := o.full, got := 0, tag := false }
  | .waitv d e t _ => { o with what := .waitv d e t false }
  | _ => o

/-- A level that a stop left drained is entered again with the iterations still to start (R182). -/
def Loop.reenter (x : Loop) : Loop :=
  if !x.active && x.left ≠ 0 then
    { x with active := true, lc := x.left + BitVec.ofNat 64 (x.stages - 1), index := 0, total := x.left, left := 0
             draining := false }
  else x

/-- A strand that goes on after a stop: a level that drained with iterations still to start is entered again at its body
(R182). -/
def Strand.resumed (st : Strand) : Strand :=
  let back := st.loops.find? fun x => !x.2.active && x.2.left ≠ 0
  { st with
    stop := none
    pc := match back with
      | some x => x.2.start
      | none => st.pc
    loops := (st.loops.map fun (i, x) => (i, x.reenter)).filter fun x => x.2 ≠ Loop.none }

/-- The engine commands of a strand that have not completed. -/
def State.cmdsOf (s : State) (n : Nat) : List Nat :=
  ((s.coreAt (coreOfStrand n)).queues.map fun x => (x.2.filter fun y => y.strand = n).map (·.id)).flatten

/-- A REL waits for one of some engine commands (R98). -/
def RelOp.stuck (r : RelOp) (cmds : List Nat) : Bool := cmds.any (· < r.cmd)

/-- A store stands behind a REL that waits for one of some engine commands (R98). -/
def Strand.behindRel (st : Strand) (cmds : List Nat) (o : StoreOp) : Bool :=
  st.rels.any fun r => r.stuck cmds && decide (r.sn ≤ o.sn)

/-- A strand as it stops for a request: what it waits for at issue has had no effect. A REL that waits for an engine command is
left without effect and replayed on resumption, and with it the stores that it puts behind itself; every other REL completes as the
store queue drains (R98, R209, R297; log entry 93). -/
def Strand.halt (st : Strand) (cmds : List Nat) (k : StopKind) : Strand :=
  { st with
    stop := some k, waiting := false, commitWait := none, waitPt := none, deadlock := false
    lq := st.lq.map LoadOp.cancel
    sq := st.sq.filter (!st.behindRel cmds ·), sqAgain := st.sqAgain ++ st.sq.filter (st.behindRel cmds)
    rels := st.rels.filter (!·.stuck cmds), relAgain := st.relAgain ++ st.rels.filter (·.stuck cmds) }

/-- A strand stops for good: it issues nothing more and its names are discarded; its issued stores and loads, and the
scratchpad writes and signals that issued words still owe, run on (R184, R293), the stores that a stop held back among them. -/
def Strand.finish (st : Strand) : Strand :=
  { st.abortTxn 5 with
    sq := st.sq ++ st.sqAgain, sqAgain := [], rels := st.rels ++ st.relAgain, relAgain := []
    ended := true, waiting := false, txn := none
    fly := (st.fly.map fun f => { f with outs := [] }).filter fun f => f.pushes ≠ [] || f.sig.isSome
    vn := [], successors := [], exitReserve := 0, commitWait := none, waitPt := none, loops := [] }

/-- A spill-list reservation released (R46). -/
def State.unreserve (s : State) (ctx n : Nat) : State :=
  s.modCtx ctx fun c => { c with spillResv := c.spillResv - n }

/-- A strand ends abnormally: every semaphore of its window is poisoned and its successors are discarded (R293); its waiting
not-before loads and monitors are cancelled (R70, R104). -/
def State.endStrand (s : State) (n : Nat) : State :=
  match s.strandAt n with
  | none => s
  | some st =>
    let s := s.setStrand n (some { st.finish with lq := st.lq.filter (!·.waits) })
    let s := s.modCore (coreOfStrand n) (·.modSync (·.leave (.strand n)))
    match s.ttAt st.tt with
    | none => s
    | some t =>
      (s.unreserve t.ctx st.exitReserve).modCore t.core fun c =>
        (upto t.semLen).foldl (fun c k =>
          let i := semNum t.semBase k
          c.modSync fun y => y.setSem i { y.sem i with poisoned := true }) c

/-- The engine queues of a core in which a tile task's command waits leave the lines of the semaphores: the head for its wait
clause, or a chain in a SIGNAL record (R151, R259). -/
def Core.leaveLines (c : Core) (tt : Nat) : Core :=
  (upto 7).foldl (fun c q =>
    match (tget [] c.queues q).find? fun x => q ≠ 0 || !x.started with
    | some x => if x.tt = tt then c.modSync (·.leave (.engine q)) else c
    | none => c) c

/-- The unstarted commands of a tile task are discarded; the started ones lose their signals (R251). -/
def Core.drain (c : Core) (tt : Nat) : Core :=
  let c := c.leaveLines tt
  let queues := c.queues.map fun (q, l) =>
    (q, (l.filter fun x => x.tt ≠ tt || x.started).map fun x => if x.tt = tt then { x with discard := true } else x)
  { c with
    queues := queues.filter fun x => x.2 ≠ []
    arriving := c.arriving.map fun x => if x.tt = tt then { x with discard := true } else x }

/-- A tile task ends abnormally: its strands stop and its engine commands drain (R52, R251). -/
def State.killTt (s : State) (t : Nat) (retry : Bool) : State :=
  match s.ttAt t with
  | none => s
  | some x =>
    let s := x.strands.foldl (fun s n => s.endStrand n) s
    (s.modCore x.core (·.drain t)).modTt t fun x => { x with failing := true, retry := retry, request := none }

/-- A saved tile task is discarded with what it holds, but for its postmarked stores: they are issued, and so delivered (R63). -/
def State.deliverSaved (s : State) (v : Saved) : State :=
  let ps := (v.strands.map fun x => (x.2.sqAgain.map fun o => match o.what with
    | .pm p => o.parts.map (o.pmPart p v.tt.ctx)
    | _ => []).flatten).flatten
  s.modMem fun m => { m with pmq := ps.foldl (fun t x => tmod [] t (sliceKey (sliceOf x.pa)) (· ++ [x])) m.pmq }

/-- A saved record discarded, and its reservation released (R63, R303). -/
def State.discardSaved (s : State) (tt : Nat) (v : Saved) : State :=
  ((s.deliverSaved v).modCtx v.tt.ctx fun c => { c with heapUsed := c.heapUsed - v.tt.reserved }).modWork fun w =>
    { w with saved := tset none w.saved tt none }

/-- Saved records that a test names are discarded, and their reservations released; one whose save is under way is discarded
when the save is complete (R303). -/
def State.dropSaved (s : State) (p : Saved → Bool) : State :=
  s.work.saved.foldl (fun s x =>
    match x.2 with
    | some v => if !p v then s
      else if ((s.ttAt x.1).map (·.saving)).getD false then s.modTt x.1 fun t => { t with killAfter := true }
      else s.discardSaved x.1 v
    | none => s) s

/-- A dispatcher without a launch block (R275). -/
def Disp.forget (x : Disp) (b : Nat) : Disp :=
  { x with
    slots := x.slots.filter fun y => y ≠ b
    returned := x.returned.filter fun y => y.1 ≠ b
    reserved := x.reserved.filter fun y => y.2 ≠ b }

/-- Everything the machine holds for a launch block beside its record is removed (R46, R107, R275). -/
def WorkState.forget (w : WorkState) (b : Nat) : WorkState :=
  { w with
    poolBlocks := w.poolBlocks.filter (· ≠ b)
    poolHeld := w.poolHeld.filter fun x => x.1 ≠ b
    refilled := w.refilled.filter fun x => x.1 ≠ b
    disp := (w.disp.map fun (d, x) => (d, x.forget b)).filter fun x => x.2 ≠ Disp.init
    trt := w.trt.map fun e => { e with held := e.held.filter fun h => h.block ≠ b }
    bufs := w.bufs.map fun e => { e with held := e.held.filter fun h => h.block ≠ b } }

/-- A member of the current frame has completed: the PT of the last one is kept (R74, R75). -/
def State.memberDone (s : State) (b : Nat) : State :=
  match s.blockAt b with
  | some x =>
    let pt := s.pt cd
    if x.frame = some s.time.frameno then s.modTime fun t => { t with lastMember := pt } else s
  | none => s

/-- The tile tasks of a launch block are killed and no longer count for it, and its saved ones are discarded. -/
def State.killBlockTts (s : State) (b : Nat) : State :=
  let s := s.work.tts.foldl (fun s x =>
    match x.2 with
    | some t => if t.block = b then (s.killTt x.1 false).modTt x.1 fun t => { t with block := 0 } else s
    | none => s) s
  (s.dropSaved fun v => v.tt.block = b).modWork (·.forget b)

/-- The bytes of a spill record (R46). -/
def SpillRec.bytes : SpillRec → List Byte
  | .succ va g t p => (upto 16).map (Config.spillByte [0, va.toNat, g, t, p])
  | .held b i => (upto 16).map (Config.spillByte [1, b, i])

/-- A record of the spill list written to its place in the ring of the context area (R46, R299); while no traffic crosses to its
home the list's image waits (R333). -/
def State.writeSpill (s : State) (ctx i : Nat) (r : SpillRec) : State :=
  match s.ctxAt ctx with
  | none => s
  | some c =>
    let a := (tget 0 s.mem.areas ctx).toNat + c.spillOff + 16 * ((c.spillHead + i) % c.spillCap)
    if c.spillCap = 0 then s
    else if !s.reachesAll cd a 16 then s.modCtx ctx fun c => { c with spillWait := true }
    else s.homeWriteAll ctx a (whole r.bytes) false

/-- A record enters a context's spill list (R46). -/
def State.addSpill (s : State) (ctx : Nat) (r : SpillRec) : State :=
  let n := ((s.ctxAt ctx).map (·.spill.length)).getD 0
  (s.writeSpill ctx n r).modCtx ctx fun c => { c with spill := c.spill ++ [r] }

/-- The head record leaves a context's spill list. -/
def Ctx.takeSpill (c : Ctx) : Ctx := { c with spill := c.spill.tail, spillHead := (c.spillHead + 1) % c.spillCap }

/-- A record returns to the head of the spill list it was taken from. -/
def Ctx.putBack (c : Ctx) (r : SpillRec) : Ctx :=
  { c with spill := r :: c.spill, spillHead := (c.spillHead + c.spillCap - 1) % c.spillCap }

/-- Records leave a context's spill list from any place in it: those behind them move up. -/
def State.dropSpill (s : State) (ctx : Nat) (p : SpillRec → Bool) : State :=
  match s.ctxAt ctx with
  | none => s
  | some c =>
    if !c.spill.any p then s
    else
      let l := c.spill.filter fun r => !p r
      (l.zipIdx.foldl (fun s x => s.writeSpill ctx x.2 x.1) s).modCtx ctx fun c => { c with spill := l }

/-- A launch block leaves the machine: it counts as completed (R52, R75, R266). -/
def State.removeBlock (s : State) (b : Nat) : State :=
  let s := s.memberDone b
  let s := s.dropSpill (((s.blockAt b).map (·.ctx)).getD 64) fun
    | .held x _ => x = b
    | .succ .. => false
  s.setBlock b none

/-- A launch block ends abnormally. -/
def State.killBlock (s : State) (b : Nat) : State := (s.killBlockTts b).removeBlock b

/-- The whole index range of a launch block, on the dies it was given at placement (R52: a restarted block re-walks
its whole range). -/
def Block.restart (x : Block) (ranges : Tab (Nat × Nat)) : Block :=
  { x with ranges := ranges, untaken := [], ready := [], held := [], done := 0, retried := true, excused := [], retriedIts := [], restarted := [] }

/-- Blocks that a test names, killed. -/
def State.killBlocks (s : State) (p : Block → Bool) : State :=
  s.work.blocks.foldl (fun s x =>
    match x.2 with
    | some b => if p b then s.killBlock x.1 else s
    | none => s) s

/-- A successor that waits in a spill list for a task that has ended is dropped with it. -/
def State.dropSuccessors (s : State) (g t : Nat) : State :=
  (upto 64).foldl (fun s c => s.dropSpill c fun
    | .succ _ g' t' _ => g' = g && t' = t
    | .held .. => false) s

/-- Waits for a free frame of the control blocks of a task in streams end with them (R87). -/
def State.endStreamWaits (s : State) (g t : Nat) : State :=
  s.modMem fun m => { m with frameWaits := m.frameWaits.filter fun x => match x.1 with
    | .stream i => !(s.streamAt i).items.any fun c => c.graph = g && c.task = t
    | _ => true }

/-- A conductor core freed (R268). -/
def State.freeCond (s : State) (k : Nat) : State :=
  (s.modCond k fun c => { Conductor.init with run := c.run + 1 }).modWork fun w =>
    { w with launched := w.launched.filter fun x => x.1 ≠ k }

/-- The conductor core that runs a task's overlay. -/
def State.condOf (s : State) (g t : Nat) : Option Nat :=
  (upto 16).find? fun k => (s.condAt k).task = some (g, t)

/-- The work of a task is stopped: its blocks, its control blocks in streams and die queues, its overlay
(R52, R266). -/
def State.stopTask (s : State) (g t : Nat) (free : Bool) : State :=
  let s := s.killBlocks fun b => b.graph = g && b.task = t
  let s := s.dropSuccessors g t
  let s := s.endStreamWaits g t
  let s := s.modWork fun w => { w with
    streams := (w.streams.map fun (i, x) =>
      (i, { x with items := x.items.filter fun c => !(c.graph = g && c.task = t) })).filter fun x => x.2 ≠ Stream.init }
  match s.condOf g t with
  | some k => if free then s.freeCond k else s
  | none => s

/-- The keys by which ready and admitted tasks are ranked (R270, R318). -/
def State.rankKey (s : State) (x : Nat × Nat) : Nat × Nat × Nat :=
  match s.graphAt x.1, s.taskAt x.1 x.2 with
  | some g, some t => (g.submitted.toNat + t.info.deadline.toNat, g.seq, x.2)
  | _, _ => (0, 0, 0)

/-- Whether one key ranks before another. -/
def keyLt (a b : Nat × Nat × Nat) : Bool :=
  a.1 < b.1 || (a.1 = b.1 && (a.2.1 < b.2.1 || (a.2.1 = b.2.1 && a.2.2 < b.2.2)))

/-- A task put in its place in a ranked list. -/
def State.rankInsert (s : State) (x : Nat × Nat) : List (Nat × Nat) → List (Nat × Nat)
  | [] => [x]
  | y :: ys => if keyLt (s.rankKey x) (s.rankKey y) then x :: y :: ys else y :: s.rankInsert x ys

/-- A task becomes ready: it is listed, or waits for a place (R270). A task whose record is malformed and was absorbed
counts at once as completed with a fault, at its TASK_COMPLETE (R33). -/
def State.makeReady (s : State) (g t : Nat) : State :=
  match s.taskAt g t with
  | none => s
  | some x =>
    if x.info.bad then s.modTask g t fun x => { x with st := .running, overlayDone := true }
    else
      let s := s.modTask g t fun x => { x with st := .ready }
      if s.work.readyList.length < Config.readyDepth then
        let l := s.rankInsert (g, t) s.work.readyList
        s.modWork fun w => { w with readyList := l }
      else s.modWork fun w => { w with readyWait := w.readyWait ++ [(g, t)] }

/-- A place in the ready list freed, filled in the order in which tasks became ready (R270). -/
def State.refillReady (s : State) : State :=
  match s.work.readyWait with
  | x :: rest =>
    if s.work.readyList.length < Config.readyDepth then
      let l := s.rankInsert x s.work.readyList
      s.modWork fun w => { w with readyList := l, readyWait := rest }
    else s
  | [] => s

/-- A task leaves the ready list. -/
def State.unlist (s : State) (g t : Nat) : State :=
  (s.modWork fun w => { w with
    readyList := w.readyList.filter (· ≠ (g, t)), readyWait := w.readyWait.filter (· ≠ (g, t)) }).refillReady

/-- One predecessor of a task has completed (R32). -/
def State.decrement (s : State) (g t : Nat) : State :=
  match s.taskAt g t with
  | some x =>
    if x.st = .waiting then
      let s := s.modTask g t fun x => { x with left := x.left - 1 }
      if x.left = 1 then s.makeReady g t else s
    else s
  | none => s

/-- The firmware's estimate of a task at an entry, in W; 0 where it has given none (R271, log entry 21). -/
def State.est (s : State) (g t i : Nat) : Nat :=
  ((s.energy.est.find? fun x => x.1 = g && x.2.1 = t && x.2.2.1 = i).map (·.2.2.2)).getD 0

/-- The task is admitted, and its estimate counts in q (R318). -/
def Task.counts (x : Task) : Bool := x.st = .running && !x.parked && !x.info.bad

/-- The estimate of an admitted task leaves q: the headroom rises by it (R271, R318). -/
def State.leaveQ (s : State) (g t : Nat) : State :=
  match s.taskAt g t with
  | some x => if x.counts then
      let w := s.est g t x.entry
      s.modEnergy fun e => { e with headroom := e.headroom + w }
    else s
  | none => s

/-- Numbers in ascending order. -/
def sortNat : List Nat → List Nat
  | [] => []
  | x :: xs =>
    let l := sortNat xs
    l.filter (· < x) ++ x :: l.filter (x ≤ ·)

/-- A task completes, with or without a fault: its successors' counts fall, in the order of their indices (R32, R282). -/
def State.taskDone (s : State) (g t : Nat) : State :=
  match s.taskAt g t with
  | none => s
  | some x =>
    if x.st = .done then s
    else
      let s := ((s.leaveQ g t).modTask g t fun x => { x with st := .done, parked := false }).unlist g t
      (sortNat x.info.succs).foldl (fun s i => s.decrement g i) s

/-- A task ends abnormally (R52). -/
def State.killTask (s : State) (g t : Nat) : State := (s.stopTask g t true).taskDone g t

/-- A graph leaves the machine with all its work. -/
def State.stopGraph (s : State) (g : Nat) : State :=
  match s.graphAt g with
  | none => s
  | some x =>
    (upto x.tasks.length).foldl (fun s t => ((s.leaveQ g t).stopTask g t true).unlist g t) s

/-- A graph leaves with its work, and nothing is written. -/
def State.removeGraph (s : State) (g : Nat) : State := (s.stopGraph g).setGraph g none

/-- A context with no tile task left, being killed, is no longer resident, once its fault log has been written. -/
def State.reapCtx (s : State) (ctx : Nat) : State :=
  match s.ctxAt ctx with
  | some c =>
    if c.killing && c.flogWait = [] && !(s.work.tts.any fun x => (x.2.map (·.ctx)) = some ctx) then s.setCtx ctx none else s
  | none => s

/-- What a context has waiting for its context area is written, as far as traffic crosses to the homes: records of the fault log,
and the image of the spill list (R46, R311, R333). -/
def State.settleArea (s : State) (ctx : Nat) : State :=
  match s.ctxAt ctx with
  | none => s
  | some c =>
    let s := if c.flogWait = [] then s else (s.flushLog ctx c.flogWait).reapCtx ctx
    if c.spillWait then
      c.spill.zipIdx.foldl (fun s x => s.writeSpill ctx x.2 x.1) (s.modCtx ctx fun c => { c with spillWait := false })
    else s

/-- What every context has waiting for its context area. -/
def State.settleAreas (s : State) : State := s.ctxs.foldl (fun s x => s.settleArea x.1) s

/-- A context is killed: its work ends, its KILLED bit is set and an event is sent (R52, R269, R343, R345). -/
def State.killCtxWith (s : State) (ctx : Nat) (cause : BitVec 8) (detail : Nat) : State :=
  match s.ctxAt ctx with
  | none => s
  | some c =>
    if c.killing then s
    else
      let s := s.modCtx ctx fun c => { c with killing := true, spill := [], spillResv := 0 }
      let s := s.work.graphs.foldl (fun s x => if (x.2.map (·.ctx)) = some ctx then s.removeGraph x.1 else s) s
      let s := s.killBlocks fun b => b.ctx = ctx
      let s := s.dropSaved fun v => v.tt.ctx = ctx
      let s := s.work.tts.foldl (fun s x =>
        match x.2 with
        | some t => if t.ctx = ctx then s.killTt x.1 false else s
        | none => s) s
      let s := s.modWork fun w => { w with
        trt := w.trt.filter fun e => e.ctx ≠ ctx
        bufs := w.bufs.filter fun e => e.ctx ≠ ctx }
      let s := s.modHost fun h => { h with killed := h.killed ||| BitVec.ofNat 64 (2 ^ ctx) }
      (s.mEventWith cause ctx detail).reapCtx ctx

/-- A context is killed for a cause whose event has no stated detail. -/
def State.killCtx (s : State) (ctx : Nat) (cause : BitVec 8) : State :=
  s.killCtxWith ctx cause (Config.eventDetail cause.toNat s.time.log.length)

/-! The levels, outermost first. -/

/-- The context level: IGNORE absorbs, every other policy kills (R52). -/
def State.containCtx (s : State) (f : FaultAt) (c : Cause) (r : Rec) : State :=
  match s.ctxAt f.ctx with
  | none => s
  | some x =>
    let s := s.logFault f c r .context x.policy
    match x.policy with
    | .ignore => s
    | _ => s.killCtx f.ctx c.code

/-- A tile task of a graph runs, or drains after its end: its release is still to come (R45, R269). -/
def State.graphDrains (s : State) (g : Nat) : Bool := s.work.tts.any fun x => x.2.any fun t => t.graph = some g

/-- A graph that has ended, abnormally or not, at a PT: its end word is written at done_addr, when that is not 0; a fault of the
store is offered to the context level (R269). Until the last release of its tile tasks, and while the page of the word waits for a
free frame or moves, the graph stands with its end noted (R87, R269, R338). -/
def State.endGraph (s : State) (g : Nat) (abnormal : Bool) (pt : Nat) : State :=
  match s.graphAt g with
  | none => s
  | some x =>
    let later (s : State) : State := s.modGraph g fun x => { x with ended := some (abnormal, pt) }
    if x.doneAddr = 0 then s.setGraph g none
    else if s.graphDrains g then later s
    else if s.cdHeld x.ctx x.doneAddr 8 .write then later s
    else match s.access none x.ctx x.doneAddr 8 .write false with
      | .ok ps s =>
        if ps.any fun p => s.mem.bounces p.pa then later s
        else
          let word := pt + if abnormal then 2 ^ 63 else 0
          ((s.writeParts x.ctx (leBytes 8 word) false ps).endFrameWait (.graph g)).setGraph g none
      | .trap c _ s => (s.containCtx (noUnit x.ctx) c (Rec.addr x.doneAddr)).setGraph g none
      | .wait s => s.frameWait (.graph g) cd
          (fun s => (s.containCtx (noUnit x.ctx) .commitFail (Rec.addr x.doneAddr)).setGraph g none) later

/-- A graph ends abnormally while its context continues: its work is stopped, and its end word tells (R269). -/
def State.killGraph (s : State) (g : Nat) : State :=
  match s.graphAt g with
  | none => s
  | some x => if x.ended.isSome then s else
      ((s.stopGraph g).modGraph g fun x => { x with tasks := [] }).endGraph g true (s.pt cd)

/-- The number of successor lists that name a task, over a list of task records. -/
def predsOf (ts : List TaskRec) (i : Nat) : Nat := ts.foldl (fun n t => n + (t.succs.filter (· = i)).length) 0

/-- A graph admitted again: its tasks as at acceptance (R52). DESIGN CHOICE (log entry 99): a task that has had its restart
under RETRY does not get another one with the graph's. -/
def State.readmit (s : State) (g : Nat) : State :=
  match s.graphAt g with
  | none => s
  | some x =>
    let s := (s.stopGraph g).modGraph g fun x => { x with
      retried := true
      tasks := x.tasks.map fun t => { t with
        left := t.info.preds, st := .waiting, entry := 0, begun := false, overlayDone := false, parked := false, shed := false } }
    (upto x.tasks.length).foldl (fun s t =>
      match x.tasks[t]? with
      | some y => if y.info.preds = 0 then s.makeReady g t else s
      | none => s) s

/-- The graph level (R52). -/
def State.containGraph (s : State) (f : FaultAt) (c : Cause) (r : Rec) : State :=
  match f.task.bind fun x => (s.graphAt x.1).map fun y => (x.1, y) with
  | none => s.containCtx f c r
  | some (g, x) =>
    match x.policy with
    | .ignore => s.logFault f c r .graph .ignore
    | .retry =>
      let s := s.logFault f c r .graph .retry
      if x.retried then s.killGraph g else s.readmit g
    | .killSelf => (s.logFault f c r .graph .killSelf).killGraph g
    | .killParent => (s.containCtx f c r).killGraph g

/-- A conductor core at the start of a task's overlay, with its preloads (R264). -/
def State.beginOverlay (s : State) (k g t run : Nat) (trailer : W64) : State :=
  match s.graphAt g, s.taskAt g t with
  | some y, some x =>
    let regs : List (Nat × W64) :=
      [(1, BitVec.ofNat 64 t), (2, y.header), (3, BitVec.ofNat 64 x.entry), (4, y.submitted + x.info.deadline)]
    s.setCond k { Conductor.init with
      task := some (g, t), run := run, pc := BitVec.ofNat 64 x.info.ovOff, trailer := trailer
      g := regs.foldl (fun l r => tset 0 l r.1 r.2) [] }
  | _, _ => s

/-- A task's overlay run again from its start on its conductor core (R52, R264). -/
def State.rerun (s : State) (g t : Nat) : State :=
  let s' := s.modTask g t fun x => { x with overlayDone := false, retried := true }
  match s.condOf g t with
  | some k =>
    let c := s.condAt k
    ((s'.stopTask g t false).freeCond k).beginOverlay k g t (c.run + 1) c.trailer
  | none => ((s'.leaveQ g t).stopTask g t true).makeReady g t

/-- The task level (R52). It answers whether the task absorbed the fault under IGNORE. -/
def State.containTask (s : State) (f : FaultAt) (c : Cause) (r : Rec) : State × Bool :=
  match f.task.bind fun x => (s.taskAt x.1 x.2).map fun y => (x, y) with
  | none => (s.containCtx f c r, false)
  | some ((g, t), x) =>
    match x.info.policy with
    | .ignore => (s.logFault f c r .task .ignore, true)
    | .retry =>
      let s := s.logFault f c r .task .retry
      (if x.retried then s.killTask g t else s.rerun g t, false)
    | .killSelf => ((s.logFault f c r .task .killSelf).killTask g t, false)
    | .killParent => ((s.killTask g t).containGraph f c r, false)

/-- Spatial levels of a launch block (R36). -/
def LbRec.spatial (b : LbRec) : List LoopEnt := b.loops.filter fun l => l.kind ≠ 0

/-- Iterations of a launch block (R40). -/
def LbRec.total (b : LbRec) : Nat := b.spatial.foldl (fun n l => n * l.count) 1

/-- A launch block walked again from its first index (R52). One that came by a queue is walked again whole on its die. DESIGN CHOICE
(log entry 123): one that came through the pool goes back to it, beyond any capacity check, and is placed on its dies afresh by
R42. -/
def State.rewalk (s : State) (b : Nat) : State :=
  match s.blockAt b with
  | none => s
  | some x =>
    let d := match x.via with
      | .queue i => some (i / 64)
      | .pool => none
    let s := s.killBlockTts b
    match d with
    | some d => s.setBlock b (some (x.restart (if x.total = 0 then [] else [(d, (0, x.total))])))
    | none => (s.setBlock b (some { x.restart [] with waiting := true })).modWork fun w =>
        { w with poolBlocks := w.poolBlocks ++ [b] }

/-- The launch-block level (R52). -/
def State.containBlock (s : State) (f : FaultAt) (c : Cause) (r : Rec) : State :=
  match f.block.bind fun b => (s.blockAt b).map fun y => (b, y) with
  | none => (s.containTask f c r).1
  | some (b, x) =>
    match x.lb.lbPolicy with
    | .ignore => s.logFault f c r .block .ignore
    | .retry =>
      let s := s.logFault f c r .block .retry
      if x.retried then s.killBlock b else s.rewalk b
    | .killSelf => (s.logFault f c r .block .killSelf).killBlock b
    | .killParent => ((s.killBlock b).containTask f c r).1

/-- The tile-task level (R52). It answers whether the tile task absorbed the fault under IGNORE: what faulted then
goes on as R52 states. A tile task whose launch block is gone is ending abnormally: it absorbs what its draining commands
still raise (R311; log entry 94). -/
def State.containTt (s : State) (f : FaultAt) (c : Cause) (r : Rec) : State × Bool :=
  match f.tt.bind fun t => (s.ttAt t).map fun y => (t, y) with
  | none => (s.containBlock f c r, false)
  | some (t, x) =>
    match s.blockAt x.block with
    | none => ((s.logFault f c r .tileTask .killSelf).killTt t false, false)
    | some b => match b.lb.ttPolicy with
      | .ignore => (s.logFault f c r .tileTask .ignore, true)
      | .retry => ((s.logFault f c r .tileTask .retry).killTt t (!b.restarted.contains x.idx), false)
      | .killSelf => ((s.logFault f c r .tileTask .killSelf).killTt t false, false)
      | .killParent => ((s.killTt t false).containBlock f c r, false)

/-- Where a fault of a tile task is raised, by a strand or a head. -/
def State.faultOfTt (s : State) (tt : Nat) (who : Option Nat) : FaultAt :=
  match s.ttAt tt with
  | none => { noUnit 64 with who := who }
  | some t =>
    let b := s.blockAt t.block
    ⟨t.ctx, some tt, some t.block, some t.idx, b.map fun b => (b.graph, b.task), who,
      b.map (·.addr)⟩

/-- Where a fault of a strand is raised. -/
def State.faultOfStrand (s : State) (n : Nat) : FaultAt :=
  match s.strandAt n with
  | none => { noUnit 64 with who := some n }
  | some st => s.faultOfTt st.tt (some n)

/-- Where a fault of an engine command is raised; head 8 + q of its core (R280, R311). -/
def State.faultOfCmd (s : State) (core q : Nat) (x : Cmd) : FaultAt :=
  match s.ttAt x.tt with
  | none => { noUnit x.ctx with who := some (core * 16 + 8 + q) }
  | some _ => s.faultOfTt x.tt (some (core * 16 + 8 + q))

/-- Where a fault of a launch block is raised, for one of its iterations. -/
def State.faultOfBlock (s : State) (b idx : Nat) : FaultAt :=
  match s.blockAt b with
  | none => noUnit 64
  | some x => ⟨x.ctx, none, some b, some idx, some (x.graph, x.task), none, some x.addr⟩

/-- Where a fault of a conductor core's word is raised (R157). -/
def State.faultOfCond (s : State) (k : Nat) : FaultAt :=
  match (s.condAt k).task with
  | none => noUnit 64
  | some (g, t) => { noUnit (((s.graphAt g).map (·.ctx)).getD 64) with task := some (g, t) }

end Sys2Proof.Machine
end

