-- ==== Sys2Proof/Machine/Ops.lean ====
section
/-! DEFINITION. Machine/Ops.lean: taking a precise trap and returning from it (R283-R289), and the operations that the
meanings of words are made of: register results, checks of poison, aborts. -/
namespace Sys2Proof.Machine

/-- The fetch of a handler's first word faults: the strand stops and the context is killed (R287). -/
def State.doubleFault (s : State) (n : Nat) (c : Cause) (vec : W64) : State :=
  let f := s.faultOfStrand n
  let r : Rec := { Rec.zero with ei0 := BitVec.ofNat 64 (c.code.toNat * 2 ^ 16), ei1 := vec }
  let pol := ((s.ctxAt f.ctx).map (·.policy)).getD .killSelf
  let s := s.logFault f .doubleFault r .context pol
  { (s.endStrand n).killCtx f.ctx Cause.doubleFault.code with verdict := .ended }

/-- The trap record as the strand's spill memory holds it, bytes 16,352 to 16,383 (R284). -/
def Strand.spillRec (st : Strand) (r : Rec) : Strand :=
  let bs := leBytes 8 r.ei0.toNat ++ leBytes 8 r.ei1.toNat ++ leBytes 8 r.ei2.toNat ++ leBytes 8 r.ei3.toNat
  { st with
    spill := tsets 0 st.spill 16352 bs
    spillTag := tsets false st.spillTag 16352 (List.replicate 32 false) }

/-- A trap counts for the triggers that watch its strand until time passes (R308). -/
def State.noteTrap (s : State) (n : Nat) (c : Cause) : State :=
  s.modDebug fun d => { d with traps := d.traps ++ [(n, c.code, (((s.strandAt n).bind fun st => s.ttAt st.tt).map (·.ctx)).getD 64)] }

/-- Taking a precise trap in a strand (R285, R286): from the state `s`, with EPC at `epc`. With no handler, or in
handler mode, the fault goes to containment; a tile task that absorbs it under IGNORE goes on from `ign`, in which the
word has retired (R52). A transaction is aborted first (R102). -/
def State.takeTrap (s : State) (n : Nat) (c : Cause) (r : Rec) (epc : W64) (ign : State) : State :=
  match s.strandAt n with
  | none => s
  | some st0 =>
    let s := (s.modStrand n (·.trapped)).noteTrap n c
    let ign := ign.noteTrap n c
    let st := st0.trapped
    if st.handler || st.tvec = 0 then
      let f := s.faultOfStrand n
      let x := s.containTt f c r
      if x.2 then ((ign.modStrand n (·.trapped)).logFault f c r .tileTask .ignore).issued else { x.1 with verdict := .trapped c r }
    else
      let s := s.setStrand n (some ({ st with
        epc := epc, cause := c.code, handler := true, kept := st.loops, einfo := r.ei0, trec := r, pc := st.tvec
        waiting := false } |>.spillRec r))
      match s.access (some (coreOfStrand n)) ((s.ttAt st.tt).map (·.ctx) |>.getD 64) st.tvec 4 .exec false with
      | .trap c' _ s => s.doubleFault n c' st.tvec
      | .ok _ s => { s with verdict := .trapped c r }
      | .wait s => { s with verdict := .trapped c r }

/-- A class-I trap of the word that is performed (R289, R291): `s` is the state without the word's effect, `ign` the
state in which it has retired under IGNORE. A member of a group whose traps the group delivers leaves it to the step. -/
def State.trapI (s : State) (c : Cause) (r : Rec) (ign : State) : State :=
  if s.slot.defer then { ign with verdict := .trapped c r }
  else match s.cur with
    | .strand n => s.takeTrap n c r s.me.pc ign
    | .conductor _ => { s with verdict := .trapped c r }

/-- A class-A trap: the word has been performed and EPC is the next word (R185, R289). -/
def State.trapA (s : State) (c : Cause) (r : Rec) : State :=
  if s.slot.defer then { s with verdict := .trapped c r }
  else match s.cur with
    | .strand n => s.takeTrap n c r (s.slot.addr + BitVec.ofNat 64 s.slot.len) s
    | .conductor _ => { s with verdict := .trapped c r }

/-- The causes of class A (R288). -/
def Cause.isAfter : Cause → Bool
  | .breakpoint => true
  | .software _ => true
  | _ => false

/-- A class-I trap of a word with no destination. -/
def State.trap (s : State) (c : Cause) (r : Rec) : State := s.trapI c r s.issued

/-- A class-I trap of a word that writes a scalar register: under IGNORE the register becomes 0 and tagged (R52). -/
def State.trapD (s : State) (c : Cause) (r : Rec) (d : GReg) : State := s.trapI c r ((s.setG d 0 true).issued)

/-- Return from a trap (R185, R286): outside a handler the word is illegal; a misaligned EPC raises ALIGNMENT. The loop levels
are restored as the trap saved them (R179). -/
def State.returnFromTrap (s : State) : State :=
  let st := s.readStrand
  if !st.handler then s.trap .illegalOp Rec.zero
  else if fieldOf st.epc 0 2 ≠ 0 then s.trap .alignment (Rec.addr st.epc)
  else (s.modMe fun x => { x with handler := false, loops := x.kept, kept := [] }).goTo st.epc

/-- The first tagged register of a list raises POISON_CONSUMED (R166); otherwise the word goes on. -/
def State.clean (s : State) (rs : List GReg) (ign : State) (k : State) : State :=
  match rs.find? s.gt with
  | some a => s.trapI .poisonConsumed (Rec.reg a) ign
  | none => k

/-- A result computed from scalar registers: tagged if any of them is (R166). -/
def State.result (s : State) (d : GReg) (rs : List GReg) (v : W64) : State :=
  s.whenReady rs ((s.setG d v (rs.any s.gt)).issued)

/-- An untagged result (R166). -/
def State.plain (s : State) (d : GReg) (v : W64) : State := (s.setG d v false).issued

/-- A transaction aborts at the word (R102): execution continues at the abort target, or TXN_ABORT_FORCED is raised.
Registers keep their values. -/
def State.txnFail (s : State) (code : BitVec 8) : State :=
  match s.me.txn with
  | none => s
  | some x =>
    let s' := s.modMe fun st => st.abortTxn code
    match x.target with
    | some t => s'.goTo t
    | none => s'.trap .txnAbortForced { Rec.zero with ei0 := BitVec.ofNat 64 (code.toNat * 2 ^ 16) }

/-- Inside a transaction the word raises TXN_ILLEGAL, and the transaction aborts with code 0x07 (R103). -/
def State.outsideTxn (s : State) (k : State) : State :=
  if s.me.txn.isSome then s.trap .txnIllegal Rec.zero else k

/-- A privileged word from a context that is not privileged raises PRIVILEGE (R137). -/
def State.privileged (s : State) (k : State) : State :=
  match s.ctxAt s.myCtx with
  | some c => if c.privileged then k else s.trap .privilege Rec.zero
  | none => s.trap .privilege Rec.zero

/-- LEAD of a region (R58). -/
def leadOf (fcode : Nat) : Nat := 512 + (1024000 + (800 + 25 * fcode) - 1) / (800 + 25 * fcode)

/-- LEAD as the agent that acts reads it: a conductor core reads the largest of the package (R57). -/
def State.lead (s : State) : Nat :=
  match s.cur with
  | .strand n => leadOf (s.regionAt (coreOfStrand n / 2)).fcode
  | .conductor _ => (upto 128).foldl (fun m r => max m (leadOf (s.regionAt r).fcode)) 0

/-- A dirty line of CXL memory written back: it is clean afterwards (R98, R206). -/
def MemState.cleanLines (m : MemState) (p : Nat → Bool) : MemState :=
  { m with l2Sets := m.l2Sets.map fun (k, ws) => (k, ws.map fun w => if p w.line then { w with dirty := false } else w) }

/-- A line lies in CXL memory. -/
def isCxlLine (line : Nat) : Bool := (cxlPort (line * 128)).isSome

/-- The dirty lines of the L2 slices that a test names. -/
def MemState.dirtyLines (m : MemState) (p : Nat → Bool) : List Nat :=
  (m.l2Sets.map fun x => (x.2.filter fun w => w.dirty && p w.line).map (·.line)).flatten

/-- Dirty lines written back: each reaches its memory channel (R98, R206, R337). -/
def State.writeBack (s : State) (p : Nat → Bool) : State :=
  ((s.mem.dirtyLines p).foldl (fun s l => s.touchChannel (l * 128)) s).modMem fun m => m.cleanLines p

/-- A write-back that a die asks for waits for a module on the way to the home of one of its lines (R333). -/
def State.backHeld (s : State) (die : Nat) (p : Nat → Bool) : Bool :=
  (s.mem.dirtyLines p).any fun l => !s.reaches die (sliceOf (l * 128)).1

/-- Everything before a REL of the strand has been done: no earlier store is left in its queue, and no earlier engine
command with its writes; with system scope, the dirty CXL lines can be written back (R98, R333). -/
def State.relDone (s : State) (n : Nat) (st : Strand) (r : RelOp) : Bool :=
  st.sq.all (fun o => r.sn ≤ o.sn) &&
  ((s.coreAt (coreOfStrand n)).queues.all fun x => x.2.all fun y => y.strand ≠ n || r.cmd ≤ y.id) &&
  !(r.sys && s.backHeld (dieOfCore (coreOfStrand n)) isCxlLine)

/-- The RELs of a strand that are complete leave; one of system scope writes dirty CXL lines back (R98). -/
def State.settleRels (s : State) (n : Nat) : State :=
  match s.strandAt n with
  | none => s
  | some st =>
    match st.rels with
    | [] => s
    | _ =>
      let done := st.rels.filter (s.relDone n st)
      let s := s.modStrand n fun st => { st with rels := st.rels.filter fun r => !done.contains r }
      if done.any (·.sys) then s.writeBack isCxlLine else s

/-- The RELs of every strand looked at: what they waited for may be done with no event of their strand, as when a kill discards
engine commands or a module carries traffic again (R98, R251, R333). -/
def State.settleAll (s : State) : State := s.strands.foldl (fun s x => s.settleRels x.1) s

/-- A REL entered in the strand's sequence (R98, R191). -/
def State.enterRel (s : State) (sys : Bool) : State :=
  (s.modMe fun st => { st with rels := st.rels ++ [⟨st.sn, (s.coreAt s.myCore).nextCmd, sys⟩] }).settleRels s.myNum

/-- A word that issues only after every earlier REL of the strand has completed (R191). -/
def State.afterRels (s : State) (k : State) : State :=
  if (s.settleRels s.myNum).me.rels = [] then k else s.waitsAt none

/-- A word that holds for some other reason while its wait on a semaphore is not satisfied waits on the semaphore (R280). -/
def State.orWaits (r s : State) (sem t : Nat) (w : Waiter) : State :=
  let c := s.coreAt s.myCore
  match r.verdict with
  | .waits none => if t ≠ 0 && !(c.sem sem).poisoned && !c.sync.ready sem t w then r.waitsAt (some (sem, t)) else r
  | _ => r

/-- A range of a core's L1 dropped (R98). -/
def State.invL1 (s : State) (core : Nat) (p : Nat → Bool) : State :=
  s.modCore core fun c => { c with l1 := tfilter (fun line _ => !(p line)) c.l1 }

/-- A range of a die's RDC dropped (R98). -/
def State.invRdc (s : State) (die : Nat) (p : Nat → Bool) : State :=
  s.modMem fun m => { m with
    rdc := tfilter (fun k _ => !(k % 16 = die && p (k / 16))) m.rdc
    rdcSets := (m.rdcSets.map fun (k, ws) =>
      (k, if k / 8192 = die then ws.filter fun w => !(p w.line) else ws)).filter fun x => x.2 ≠ [] }

/-- Clean CXL lines leave the SFD slices (R98). -/
def State.invCxl (s : State) (p : Nat → Bool) : State :=
  s.modMem fun m => { m with
    l2Sets := (m.l2Sets.map fun (k, ws) =>
      (k, ws.filter fun w => w.dirty || !(isCxlLine w.line && p w.line))).filter fun x => x.2 ≠ [] }

/-- The instruction cache of a core dropped (R136). -/
def State.invI (s : State) (core : Nat) : State := s.modCore core fun c => { c with icache := [] }

/-- The physical lines of a range of virtual addresses, as first and last line of each 64 KiB page that the context's
tables map. A line outside every mapped page is not cached for the context. -/
def State.linesOf (s : State) (core ctx : Nat) (base : W64) (len : Nat) : List (Nat × Nat) :=
  if len = 0 then []
  else
    let lo := base.toNat
    let hi := base.toNat + len - 1
    (upto (hi / 65536 - lo / 65536 + 1)).filterMap fun i =>
      let page := (lo / 65536 + i) * 65536
      let a := max lo page
      let z := min hi (page + 65535)
      match s.accessNoKey (some core) ctx (BitVec.ofNat 64 a) 1 .look false with
      | .ok (x :: _) _ => some (x.pa / 128, (x.pa + (z - a)) / 128)
      | _ => none

/-- The acquire of a scope over a range, or without one (R98). -/
def State.acquire (s : State) (core ctx : Nat) (sc : Scope) (range : Option (W64 × Nat)) : State :=
  let p : Nat → Bool := match range with
    | none => fun _ => true
    | some (b, n) =>
      let ls := s.linesOf core ctx b n
      fun l => ls.any fun x => x.1 ≤ l && l ≤ x.2
  let s := (s.invI core).invL1 core p
  match sc with
  | .core | .die => s
  | .pkg => s.invRdc (dieOfCore core) p
  | .sys => (s.invRdc (dieOfCore core) p).invCxl p

end Sys2Proof.Machine
end

