-- ==== Sys2Proof/Machine/Flags.lean ====
section
/-! DEFINITION. Machine/Flags.lean: the conditions that comparisons and branches test (R138, R140, R170, R173). The
part has no flag register: a comparison answers a bit. -/
namespace Sys2Proof.Machine

/-- Whether a condition holds of two 64-bit values: LT and GE signed, LTN and GEN unsigned. -/
def holds (c : Cmp) (a b : W64) : Bool :=
  match c with
  | .eq => a = b
  | .ne => a ≠ b
  | .lt => a.slt b
  | .ge => !(a.slt b)
  | .ltn => a.ult b
  | .gen => !(a.ult b)

/-- A bit as a register value. -/
def bitOf (x : Bool) : W64 := if x then 1 else 0

/-- Leading zero bits, 0 to 64 (R170). -/
def clz64 (a : W64) : Nat := if a = 0 then 64 else 63 - a.toNat.log2

/-- Set bits (R170). -/
def popcount (w : Nat) (a : Nat) : Nat := (upto w).foldl (fun n i => n + bits a i 1) 0

/-- Signed quotient, rounded toward zero, with the edges of R171. -/
def sdiv64 (a b : W64) : W64 := if b = 0 then BitVec.allOnes 64 else wrap64 (a.toInt.tdiv b.toInt)
/-- Unsigned quotient (R171). -/
def udiv64 (a b : W64) : W64 := if b = 0 then BitVec.allOnes 64 else BitVec.ofNat 64 (a.toNat / b.toNat)
/-- Signed remainder, with the sign of a (R171). -/
def srem64 (a b : W64) : W64 := if b = 0 then a else wrap64 (a.toInt.tmod b.toInt)
/-- Unsigned remainder (R171). -/
def urem64 (a b : W64) : W64 := if b = 0 then a else BitVec.ofNat 64 (a.toNat % b.toNat)

/-- Bits [127:64] of the signed product (R170). -/
def mulhS (a b : W64) : W64 := wrap64 ((a.toInt * b.toInt) / 2 ^ 64)
/-- Bits [127:64] of the unsigned product (R170). -/
def mulhU (a b : W64) : W64 := BitVec.ofNat 64 (a.toNat * b.toNat / 2 ^ 64)

end Sys2Proof.Machine
end

