-- ==== Sys2Proof/Machine/Arith.lean ====
section
/-! DEFINITION. Machine/Arith.lean: integer and address arithmetic (R170-R172), for strands and for the scalar slots of
conductor words (R156). -/
namespace Sys2Proof.Machine

/-- What a step answers. -/
abbrev Out := Host.Outcome State Fault Refusal

/-- NOP (R185). -/
def execNop (s : State) : Out := .next s.issued
/-- ADD (R170). -/
def execAdd (d a b : GReg) (s : State) : Out := .next (s.result d [a, b] (s.g a + s.g b))
/-- SUB (R170). -/
def execSub (d a b : GReg) (s : State) : Out := .next (s.result d [a, b] (s.g a - s.g b))
/-- MUL (R170). -/
def execMul (d a b : GReg) (s : State) : Out := .next (s.result d [a, b] (s.g a * s.g b))
/-- MULH (R170). -/
def execMulh (d a b : GReg) (s : State) : Out := .next (s.result d [a, b] (mulhS (s.g a) (s.g b)))
/-- MULHN (R170). -/
def execMulhn (d a b : GReg) (s : State) : Out := .next (s.result d [a, b] (mulhU (s.g a) (s.g b)))
/-- DIV (R170, R171). -/
def execDiv (d a b : GReg) (s : State) : Out := .next (s.result d [a, b] (sdiv64 (s.g a) (s.g b)))
/-- DIVN (R170, R171). -/
def execDivn (d a b : GReg) (s : State) : Out := .next (s.result d [a, b] (udiv64 (s.g a) (s.g b)))
/-- REM (R170, R171). -/
def execRem (d a b : GReg) (s : State) : Out := .next (s.result d [a, b] (srem64 (s.g a) (s.g b)))
/-- REMN (R170, R171). -/
def execRemn (d a b : GReg) (s : State) : Out := .next (s.result d [a, b] (urem64 (s.g a) (s.g b)))
/-- AND (R170). -/
def execAnd (d a b : GReg) (s : State) : Out := .next (s.result d [a, b] (s.g a &&& s.g b))
/-- OR (R170). -/
def execOr (d a b : GReg) (s : State) : Out := .next (s.result d [a, b] (s.g a ||| s.g b))
/-- XOR (R170). -/
def execXor (d a b : GReg) (s : State) : Out := .next (s.result d [a, b] (s.g a ^^^ s.g b))
/-- SHL by b[5:0] (R170). -/
def execShl (d a b : GReg) (s : State) : Out := .next (s.result d [a, b] (s.g a <<< ((s.g b).toNat % 64)))
/-- SHR by b[5:0] (R170). -/
def execShr (d a b : GReg) (s : State) : Out := .next (s.result d [a, b] (s.g a >>> ((s.g b).toNat % 64)))
/-- SHA by b[5:0] (R170). -/
def execSha (d a b : GReg) (s : State) : Out := .next (s.result d [a, b] ((s.g a).sshiftRight ((s.g b).toNat % 64)))
/-- MIN, signed (R170). -/
def execMin (d a b : GReg) (s : State) : Out :=
  .next (s.result d [a, b] (if (s.g a).slt (s.g b) then s.g a else s.g b))
/-- MAX, signed (R170). -/
def execMax (d a b : GReg) (s : State) : Out :=
  .next (s.result d [a, b] (if (s.g a).slt (s.g b) then s.g b else s.g a))
/-- MINN, unsigned (R170). -/
def execMinn (d a b : GReg) (s : State) : Out :=
  .next (s.result d [a, b] (if (s.g a).ult (s.g b) then s.g a else s.g b))
/-- MAXN, unsigned (R170). -/
def execMaxn (d a b : GReg) (s : State) : Out :=
  .next (s.result d [a, b] (if (s.g a).ult (s.g b) then s.g b else s.g a))
/-- CLZ (R170). -/
def execClz (d a : GReg) (s : State) : Out := .next (s.result d [a] (BitVec.ofNat 64 (clz64 (s.g a))))
/-- POPC (R170). -/
def execPopc (d a : GReg) (s : State) : Out := .next (s.result d [a] (BitVec.ofNat 64 (popcount 64 (s.g a).toNat)))
/-- SEL: the tag follows d and the selected source (R170). -/
def execSel (d a b : GReg) (s : State) : Out :=
  .next (s.whenReady [d, a, b]
    (if s.g d ≠ 0 then (s.setG d (s.g a) (s.gt d || s.gt a)).issued
     else (s.setG d (s.g b) (s.gt d || s.gt b)).issued))
/-- SET.cc (R170). -/
def execSetcc (c : Cmp) (d a b : GReg) (s : State) : Out :=
  .next (s.result d [a, b] (bitOf (holds c (s.g a) (s.g b))))
/-- SHLI (R170). -/
def execShli (d a : GReg) (sh : BitVec 6) (s : State) : Out := .next (s.result d [a] (s.g a <<< sh.toNat))
/-- SHRI (R170). -/
def execShri (d a : GReg) (sh : BitVec 6) (s : State) : Out := .next (s.result d [a] (s.g a >>> sh.toNat))
/-- SHAI (R170). -/
def execShai (d a : GReg) (sh : BitVec 6) (s : State) : Out := .next (s.result d [a] ((s.g a).sshiftRight sh.toNat))
/-- ADDI (R172). -/
def execAddi (d a : GReg) (imm : BitVec 15) (s : State) : Out := .next (s.result d [a] (s.g a + imm.signExtend 64))
/-- ANDI, with a sign-extended immediate (R172). -/
def execAndi (d a : GReg) (imm : BitVec 15) (s : State) : Out := .next (s.result d [a] (s.g a &&& imm.signExtend 64))
/-- ORI, with a zero-extended immediate (R172). -/
def execOri (d a : GReg) (imm : BitVec 15) (s : State) : Out := .next (s.result d [a] (s.g a ||| imm.zeroExtend 64))
/-- XORI, with a zero-extended immediate (R172). -/
def execXori (d a : GReg) (imm : BitVec 15) (s : State) : Out := .next (s.result d [a] (s.g a ^^^ imm.zeroExtend 64))
/-- LDI: untagged (R166, R172). -/
def execLdi (d : GReg) (imm : BitVec 15) (s : State) : Out := .next (s.plain d (imm.signExtend 64))
/-- LDIH: d is read and written (R172), and the result carries the tag of the register read (R166). -/
def execLdih (d : GReg) (imm : BitVec 15) (s : State) : Out :=
  .next (s.result d [d] ((s.g d <<< 15) ||| imm.zeroExtend 64))
/-- ADDA: bits [63:56] of a are kept (R172). -/
def execAdda (d a : GReg) (imm : BitVec 15) (s : State) : Out :=
  .next (s.result d [a] ((s.g a).extractLsb' 56 8 ++ ((s.g a).extractLsb' 0 56 + imm.signExtend 56)))

end Sys2Proof.Machine
end

