-- ==== Sys2Proof/Machine/Fetch.lean ====
section
/-! DEFINITION. Machine/Fetch.lean: instruction fetch through the instruction cache of a core (R136), and fetch of
conductor words from overlay memory (R155, R264). -/
namespace Sys2Proof.Machine

/-- A line put in an instruction cache of 1,024 lines: a full one gives one up, which one the manual leaves open (R20, log
entry 98). -/
def Core.fillI (c : Core) (line pick : Nat) (x : Copy) : Core :=
  let t := if c.icache.length < 1024 then c.icache else match c.icache[pick % 1024]? with
    | some y => tdel c.icache y.1
    | none => c.icache
  { c with icache := tset none t line (some x) }

/-- Bytes of a line through the instruction cache: a present copy, or a fill from the home (R89, R136). -/
def State.ifetchPart (s : State) (core ctx : Nat) (p : Part) : List Byte × State :=
  let line := p.pa / 128
  match tget none (s.coreAt core).icache line with
  | some c => ((c.read (p.pa % 128) p.len).1, s)
  | none =>
    let c := s.mem.copyOf line
    ((c.read (p.pa % 128) p.len).1, (s.touchL2 ctx p.pa false).modCore core fun x => x.fillI line s.pick c)

/-- Bytes of several parts through the instruction cache. -/
def State.ifetchParts (s : State) (core ctx : Nat) : List Part → List Byte × State
  | [] => ([], s)
  | p :: ps =>
    let (b, s) := s.ifetchPart core ctx p
    let (bs, s) := s.ifetchParts core ctx ps
    (b ++ bs, s)

/-- Units of code at an address, translated page by page with the exec right (R136). -/
def State.fetchUnits (s : State) (core ctx : Nat) (pc : W64) (units : Nat) : Res (List W32) :=
  match s.access (some core) ctx pc (4 * units) .exec s.fresh with
  | .trap c r s => .trap c r s
  | .wait s => .wait s
  | .ok ps s =>
    let (bs, s) := s.ifetchParts core ctx ps
    .ok (unitsOfBytes bs) s

/-- The units of the word at an address (R135). -/
def State.fetchWord (s : State) (core ctx : Nat) (pc : W64) : Res (List W32) :=
  match s.fetchUnits core ctx pc 1 with
  | .trap c r s => .trap c r s
  | .wait s => .wait s
  | .ok us s =>
    let n := match us with
      | u :: _ => unitsOf u
      | [] => 1
    if n = 1 then .ok us s else s.fetchUnits core ctx pc n

/-- The fetch of some units waits: a line that the instruction cache lacks cannot be read at its home now (R61, R333). -/
def State.fetchHeld (s : State) (core ctx : Nat) (pc : W64) (units : Nat) : Bool :=
  match s.access (some core) ctx pc (4 * units) .exec false with
  | .ok ps _ => ps.any fun p => (tget none (s.coreAt core).icache (p.pa / 128)).isNone && !s.homeFree (dieOfCore core) p.pa
  | _ => false

/-- The offsets, in units from the start of a list, at which words start (R181). -/
def wordStarts : Nat → Nat → List W32 → List Nat
  | 0, _, _ => []
  | _, _, [] => []
  | fuel + 1, off, u :: us => off :: wordStarts fuel (off + unitsOf u) ((u :: us).drop (unitsOf u))

/-- Bytes of overlay memory. -/
def State.overlayBytes (s : State) (off n : Nat) : List Byte := tgets 0 s.mem.overlay off n

/-- Bytes of conductor record memory. -/
def State.recordBytes (s : State) (off n : Nat) : List Byte := tgets 0 s.mem.record off n

/-- The slots of a conductor word (R155). -/
def State.fetchSlots (s : State) (pc : Nat) : List W32 := unitsOfBytes (s.overlayBytes pc 48)

end Sys2Proof.Machine
end

