-- ==== Sys2Proof/Machine/Control.lean ====
section
/-! DEFINITION. Machine/Control.lean: branches, hardware loops, safe points, the end of a strand, software traps and the
return from a trap (R173-R185), with the conductor cores' forms of them (R156, R346). -/
namespace Sys2Proof.Machine

/-! The loop engine (R175-R181). A strand and a conductor core each have four levels. -/

/-- The loop levels of the agent that acts. -/
def State.loops (s : State) : Tab Loop :=
  match s.cur with
  | .strand _ => s.me.loops
  | .conductor k => (s.condAt k).loops

/-- The loop levels as the group reads them (R159). -/
def State.readLoops (s : State) : Tab Loop :=
  match s.cur with
  | .strand _ => s.readStrand.loops
  | .conductor _ => s.readCond.loops

/-- The loop levels of the agent that acts, put in place. -/
def State.setLoops (s : State) (l : Tab Loop) : State :=
  match s.cur with
  | .strand _ => s.modMe fun st => { st with loops := l }
  | .conductor k => s.modCond k fun c => { c with loops := l }

/-- A level. -/
def loopAt (l : Tab Loop) (i : Nat) : Loop := tget Loop.none l i

/-- A level put in its place in a list of levels, the one activated last first. -/
def placeLevel (l : Tab Loop) (i : Nat) : List Nat → List Nat
  | [] => [i]
  | j :: js => if (loopAt l j).depth ≤ (loopAt l i).depth then i :: j :: js else j :: placeLevel l i js

/-- Active levels, innermost first: a level is inner to those active when it was activated (R175). -/
def activeLevels (l : Tab Loop) : List Nat := ((upto 4).filter fun i => (loopAt l i).active).foldr (placeLevel l) []

/-- The mark a level takes when it is activated: above those of the active levels (R175). -/
def nextDepth (l : Tab Loop) : Nat := (activeLevels l).foldl (fun m i => max m (loopAt l i).depth) 0 + 1

/-- How many active levels a level lies in, itself among them: 1 for the outermost. -/
def nesting (l : Tab Loop) (i : Nat) : Nat :=
  ((activeLevels l).filter fun j => (loopAt l j).depth ≤ (loopAt l i).depth).length

/-- An address lies in the body of a level (R175). -/
def Loop.inBody (x : Loop) (a : W64) : Bool := x.start.toNat ≤ a.toNat && a.toNat < x.after.toNat

/-- A level made inactive. -/
def Loop.off (x : Loop) (zero : Bool) : Loop := { x with active := false, left := 0, lc := if zero then 0 else x.lc }

/-- A level and every level inner to it made inactive (R179, R180). -/
def deactivate (l : Tab Loop) (i : Nat) (zero : Bool) : Tab Loop :=
  let d := (loopAt l i).depth
  ((upto 4).filter fun j => (loopAt l j).active && d ≤ (loopAt l j).depth).foldl
    (fun l j => tmod Loop.none l j (·.off zero)) l

/-- A taken branch that leaves bodies deactivates their levels and the inner ones; their counters keep their values
(R179). -/
def leaveBodies (l : Tab Loop) (from_ to_ : W64) : Tab Loop :=
  (activeLevels l).foldl (fun l i =>
    let x := loopAt l i
    if x.active && x.inBody from_ && !x.inBody to_ then deactivate l i false else l) l

/-- In handler mode no level is deactivated and no end test is performed (R179). -/
def State.handling (s : State) : Bool := !s.conducting && s.me.handler

/-- A taken transfer of control that may leave loop bodies (R179, R346): a conductor target must be a multiple of 16. -/
def State.branchTo (s : State) (t : W64) : State :=
  if s.conducting && fieldOf t 0 4 ≠ 0 then s.trap .alignment (Rec.addr t)
  else if s.handling then s.goTo t
  else (s.setLoops (leaveBodies s.loops s.slot.addr t)).goTo t

/-- The target of an offset: the word's own address + 4 × off (R139, R346). -/
def State.target (s : State) {n : Nat} (off : BitVec n) : W64 := s.slot.addr + (off.signExtend 64 <<< 2)

/-- The address of the next word. -/
def State.nextAddr (s : State) : W64 := s.slot.addr + BitVec.ofNat 64 s.slot.len

/-- B (R173). -/
def execB (off : BitVec 24) (s : State) : Out := .next (s.branchTo (s.target off))

/-- JL: g31 receives the next word's address, untagged; no level is deactivated (R173, R179). -/
def execJl (off : BitVec 24) (s : State) : Out :=
  .next (let t := s.target off
    if s.conducting && fieldOf t 0 4 ≠ 0 then s.trap .alignment (Rec.addr t)
    else (s.setG 31 s.nextAddr false).goTo t)

/-- A conditional branch on registers: tagged conditions raise POISON_CONSUMED (R166, R174). -/
def State.branchIf (s : State) (rs : List GReg) (c : Bool) (t : W64) : State :=
  s.whenReady rs (s.clean rs s.issued (if c then s.branchTo t else s.issued))

/-- BZ (R173). -/
def execBz (a : GReg) (off : BitVec 19) (s : State) : Out := .next (s.branchIf [a] (s.g a = 0) (s.target off))
/-- BNZ (R173). -/
def execBnz (a : GReg) (off : BitVec 19) (s : State) : Out := .next (s.branchIf [a] (s.g a ≠ 0) (s.target off))
/-- BC.cc (R173). -/
def execBccc (c : Cmp) (a b : GReg) (off : BitVec 14) (s : State) : Out :=
  .next (s.branchIf [a, b] (holds c (s.g a) (s.g b)) (s.target off))

/-- JR: a tagged target raises POISON_CONSUMED, a misaligned one ALIGNMENT (R136, R166, R173). -/
def execJr (a : GReg) (s : State) : Out :=
  .next (s.whenReady [a] (s.clean [a] s.issued
    (if fieldOf (s.g a) 0 2 ≠ 0 then s.trap .alignment (Rec.addr (s.g a)) else s.branchTo (s.g a))))

/-- The end word of a loop: its address and the address after it (R177, R346). -/
def State.endWord (s : State) (last : BitVec 12) : Res (W64 × W64) :=
  let e := s.slot.addr + BitVec.ofNat 64 (4 * last.toNat)
  match s.cur with
  | .conductor _ => .ok (e, e + 48) s
  | .strand _ => match s.fetchUnits s.myCore s.myCtx e 1 with
    | .trap c r s => .trap c r s
    | .wait s => .wait s
    | .ok us s => .ok (e, e + BitVec.ofNat 64 (4 * match us with
        | u :: _ => unitsOf u
        | [] => 1)) s

/-- The checks of a loop instruction (R175, R346): a conductor's end is a multiple of 12; the level named is inactive;
the end word does not lie beyond that of the innermost active level. -/
def State.loopChecks (s : State) (lv : BitVec 2) (last : BitVec 12) : Option Cause :=
  let l := s.readLoops
  let e := s.slot.addr + BitVec.ofNat 64 (4 * last.toNat)
  if s.conducting && last.toNat % 12 ≠ 0 then some .illegalOp
  else if (loopAt l lv.toNat).active then some .loopState
  else match activeLevels l with
    | i :: _ => if (loopAt l i).last.toNat < e.toNat then some .loopState else none
    | [] => none

/-- Entry to a loop (R177). -/
def State.enterLoop (s : State) (lv : BitVec 2) (n : W64) (last : BitVec 12) (pipelined : Bool) (stages : Nat) (map : W64) :
    State :=
  match s.loopChecks lv last with
  | some c => s.trap c Rec.zero
  | none => match s.endWord last with
    | .trap c r s => s.trap c r
    | .wait s => s.holds
    | .ok (e, a) s =>
      if n = 0 then s.goTo a
      else
        let x : Loop := ⟨true, pipelined, n + BitVec.ofNat 64 (stages - 1), s.nextAddr, e, a, stages, map, 0, n, 0,
          false, nextDepth s.loops⟩
        (s.setLoops (tset Loop.none s.loops lv.toNat x)).goTo s.nextAddr

/-- LOOP (R176, R177). -/
def execLoop (lv : BitVec 2) (count : BitVec 8) (last : BitVec 12) (s : State) : Out :=
  .next (s.enterLoop lv (count.setWidth 64) last false 1 0)

/-- LOOPG: a tagged count raises POISON_CONSUMED (R166, R176, R177). -/
def execLoopg (lv : BitVec 2) (a : GReg) (last : BitVec 12) (s : State) : Out :=
  .next (s.whenReady [a] (s.clean [a] s.issued (s.enterLoop lv (s.g a) last false 1 0)))

/-- b_k of a stage map, in units from the body start; b_0 is 0 (R181). -/
def stageStart (map : W64) (k : Nat) : Nat := if k = 0 then 0 else bits map.toNat (9 * k - 9) 9

/-- The stage map's rules: ascending, at most end − 1, each the start of a word (R181). -/
def mapOk (map : W64) (stages last : Nat) (starts : List Nat) : Bool :=
  (upto stages).all fun k => k = 0 ||
    (stageStart map (k - 1) ≤ stageStart map k && stageStart map k ≤ last - 1 && starts.contains (stageStart map k))

/-- LOOPP: the count in g[a], the stage map in g[a+1] when there are two or more stages (R181). A tagged count or map
raises POISON_CONSUMED (R166). -/
def execLoopp (lv : BitVec 2) (a : GReg) (stages1 : BitVec 3) (last : BitVec 12) (s : State) : Out :=
  .next (
    let stages := stages1.toNat + 1
    let rs := if stages = 1 then [a] else [a, a + 1]
    s.whenReady rs (s.clean rs s.issued
      (match s.loopChecks lv last with
       | some c => s.trap c Rec.zero
       | none =>
         if stages = 1 then s.enterLoop lv (s.g a) last true 1 0
         else match s.fetchUnits s.myCore s.myCtx s.nextAddr last.toNat with
           | .trap c r s => s.trap c r
           | .wait s => s.holds
           | .ok us s =>
             if mapOk (s.g (a + 1)) stages last.toNat (wordStarts last.toNat 0 us) then
               s.enterLoop lv (s.g a) last true stages (s.g (a + 1))
             else s.trap .loopState Rec.zero)))

/-- LEXIT (R180): in a trap handler no level is deactivated (R179). -/
def execLexit (lv : BitVec 2) (s : State) : Out :=
  .next (
    let x := loopAt s.readLoops lv.toNat
    if !x.active then s.trap .loopState Rec.zero
    else if s.handling then s.goTo x.after
    else (s.setLoops (deactivate s.loops lv.toNat true)).goTo x.after)

/-- Where a word stands in a pipelined loop: the largest stage whose start is at or before it (R181). -/
def Loop.stageOf (x : Loop) (a : W64) : Nat :=
  let off := (a.toNat - x.start.toNat) / 4
  (upto x.stages).foldl (fun m k => if stageStart x.map k ≤ off then k else m) 0

/-- The predicate of a stage at the present execution (R181, R182). -/
def Loop.pred (x : Loop) (k : Nat) : Bool := k ≤ x.index.toNat && x.index.toNat - k < x.total.toNat

/-- A word of a stage whose predicate is 0 issues as NOP (R181). -/
def squashed (l : Tab Loop) (a : W64) : Bool :=
  (activeLevels l).any fun i =>
    let x := loopAt l i
    x.pipelined && x.inBody a && !x.pred (x.stageOf a)

/-- A word that starts before the end address of a loop it is in and ends after it (R142). -/
def straddles (l : Tab Loop) (a : W64) (len : Nat) : Bool :=
  (activeLevels l).any fun i =>
    let x := loopAt l i
    x.inBody a && a.toNat < x.last.toNat && x.last.toNat < a.toNat + len

/-- The word that acts straddles the end of a body (R142). -/
def State.straddling (s : State) : Bool := !s.handling && straddles s.readLoops s.slot.addr s.slot.len

/-- The end tests of the word at an address (R178), innermost level first: the levels after them, the body start to
go back to if one loops, and the levels tested. A level that has drained for a pre-emption with iterations still to start is
not over: the levels outside it are not tested (R182). -/
def endTests (a : W64) : List Nat → Tab Loop → Tab Loop × Option W64 × List Nat
  | [], l => (l, none, [])
  | i :: is, l =>
    let x := loopAt l i
    if x.active && x.last = a then
      let x := if x.pipelined then { x with index := x.index + 1 } else x
      if 1 < x.lc.toNat then (tset Loop.none l i { x with lc := x.lc - 1 }, some x.start, [i])
      else if x.draining && x.left ≠ 0 then (tset Loop.none l i { x with active := false, lc := 0 }, none, [i])
      else
        let (l', t, js) := endTests a is (tset Loop.none l i { x with active := false, lc := 0 })
        (l', t, i :: js)
    else endTests a is l

/-! Pre-emption requests as strands see them (R296, R303). -/

/-- Ranks in order (R303). -/
def rankNum : Rank → Nat
  | .debug => 0 | .switch => 1 | .park => 2 | .kill => 3

/-- A request reaches a tile task: in the stop phase requests merge, the stronger action with the lesser grace
(R303); during a save only a kill has an effect, after it. -/
def TileTask.ask (t : TileTask) (r : Rank) (graceEnd : Nat) : TileTask :=
  if t.saving then (if r = .kill then { t with killAfter := true } else t)
  else match t.request with
    | none => { t with request := some (r, graceEnd), cutting := t.cutting || decide (r = .debug) }
    | some (r', g) => { t with
        request := some (if rankNum r' < rankNum r then r else r', min g graceEnd)
        cutting := t.cutting || decide (r = .debug) }

/-- The request pending for the acting strand's tile task. -/
def State.requested (s : State) : Bool :=
  match s.myTt with
  | some t => t.request.isSome
  | none => false

/-- The conductor cores of a context stop at a word boundary (R305). -/
def State.haltConds (s : State) (ctx : Nat) : State :=
  (upto 16).foldl (fun s k =>
    match (s.condAt k).task with
    | some (g, _) => if ((s.graphAt g).map (·.ctx)) = some ctx then s.modCond k fun c => { c with stopped := true } else s
    | none => s) s

/-- A debug stop reaches every tile task of a context, with no grace, and its conductor cores; the cut it reports is empty
until tile tasks have stopped (R305). -/
def State.debugStop (s : State) (ctx : Nat) : State :=
  let s := s.modWork fun w => { w with tts := w.tts.map fun (n, t) => (n, t.map fun t =>
    if t.ctx = ctx && !t.failing then t.ask .debug 0 else t) }
  (s.haltConds ctx).modDebug fun d => { d with cut := [] }

/-- Names of a SAFEPT mask: bit i marks iB to iB + B − 1, with B the vnames in 64ths, rounded up (R183). -/
def liveName (mask : W64) (vnames n : Nat) : Bool := mask.getLsbD (n / ((vnames + 63) / 64))

/-- SAFEPT (R183, R286): with a request pending the strand stops before the next word and keeps only live names. -/
def execSafept (a : GReg) (s : State) : Out :=
  .next (s.whenReady [a] (
    if s.me.txn.isSome then s.trap .txnIllegal Rec.zero
    else if s.readStrand.handler || !s.requested then s.issued
    else
      let vn := (s.myTt.map (·.vnames)).getD 1
      (s.modMe fun st => { st.halt (s.cmdsOf s.myNum) .safept with vn := tfilter (fun n _ => liveName (s.g a) vn n) st.vn }).issued))

/-- The spawning strand of a tile task: the storer, else the computer, else the loader (R45). -/
def spawnRole (roles : BitVec 3) : Role :=
  if roles.getLsbD 2 then .storer else if roles.getLsbD 1 then .computer else .loader

/-- Roles of the acting strand's launch block. -/
def State.myRoles (s : State) : BitVec 3 :=
  match s.myTt with
  | some t => ((s.blockAt t.block).map (·.lb.roles)).getD 0
  | none => 0

/-- Spill-list records neither in use nor reserved (R46). -/
def Ctx.spillFree (c : Ctx) : Nat := c.spillCap - c.spill.length - c.spillResv

/-- The record of the trap being handled, as the strand's spill memory holds it (R284, R286). -/
def Strand.savedRec (st : Strand) : Rec :=
  let w (o : Nat) : W64 := BitVec.ofNat 64 (leNat (tgets 0 st.spill (16352 + o) 8))
  ⟨w 0, w 8, w 16, w 24⟩

/-- The cause of a code, as EXIT in handler mode passes it on (R286). -/
def causeOf (code : BitVec 8) : Cause :=
  match [Cause.illegalOp, .reservedField, .enginePlacement, .badName, .privilege, .readOnly, .crossCluster,
    .fifoUnderflow, .fifoOverflow, .poisonConsumed, .loopState, .translation, .protection, .commitFail, .alignment,
    .memControlError, .tagMismatch, .quota, .spawnOverflow, .latePostmark, .scheduleMiss, .staleTag, .awaitPoisoned,
    .deadlockAwait, .semRange, .txnAbortForced, .timeRange, .txnIllegal, .postboxRange, .semOverflow, .badDecl,
    .bankConflict, .engineOperand, .weightFormat, .chainFormat, .chainLimit, .sfJob, .queueOverrun, .shed,
    .recordFormat, .spawnRole, .linkRetryThreshold, .regulatorFault, .rowSpareExhausted, .doubleFault, .breakpoint,
    .saveFault, .dieIsolated].find? fun c => c.code = code with
  | some c => c
  | none => .software (BitVec.ofNat 5 code.toNat)

/-- The strand ends: it issues nothing more, its names are discarded, its successors pass to the tile task's end
(R184). -/
def State.exitWith (s : State) (succ : List W64) (reserve : Nat) : State :=
  { s.modMe (fun st => { st.finish with successors := succ, exitReserve := reserve }) with verdict := .ended }

/-- EXIT in handler mode: the strand ends abnormally with the saved fault (R286, R293). -/
def State.exitHandler (s : State) (n : Nat) : State :=
  let st := s.me
  let f := s.faultOfStrand n
  { ((s.endStrand n).containTt f (causeOf st.cause) st.savedRec).1 with verdict := .ended }

/-- EXIT (R184): the checks in order, then the end of the strand. DESIGN CHOICE (log entry 95): in a transaction TXN_ILLEGAL
comes before the four checks, and the wait for earlier RELs before both; the rule orders only the four. -/
def execExit (n : BitVec 3) (e1 e2 e3 e4 : GReg) (s : State) : Out :=
  .next (
    let rs := [e1, e2, e3, e4].take n.toNat
    s.whenReady rs (s.afterRels (s.outsideTxn (
      if s.readStrand.handler then s.exitHandler s.myNum
      else
        let plain := s.exitWith [] 0
        s.clean rs plain (
          match rs.find? fun e => fieldOf (s.g e) 0 8 ≠ 0 with
          | some e => s.trapI .alignment (Rec.addr (s.g e)) plain
          | none =>
            if n ≠ 0 && s.readStrand.role ≠ spawnRole s.myRoles then s.trapI .spawnRole Rec.zero plain
            else
              let free := ((s.ctxAt s.myCtx).map (·.spillFree)).getD 0
              if free < n.toNat then s.trapI .spawnOverflow Rec.zero plain
              else (s.modCtx s.myCtx fun c => { c with spillResv := c.spillResv + n.toNat }).exitWith
                (rs.map s.g) n.toNat))))) 

/-- TRAP n (R185): the cause is 0xE0 + n, with EPC at the next word. -/
def execTrap (n : BitVec 5) (s : State) : Out := .next (s.trapA (.software n) (Rec.soft n))

/-- BRK n (R185, R306): a stop in a debuggable context to which one is armed, otherwise BREAKPOINT. The strand stops at its next
group boundary, as every strand of the context does; the arming serves one stop (log entry 101). -/
def execBrk (n : BitVec 5) (s : State) : Out :=
  .next (
    match s.ctxAt s.myCtx with
    | some c =>
      if c.debuggable && c.armed then
        ((s.debugStop s.myCtx).modCtx s.myCtx fun c => { c with armed := false }).issued
      else s.trapA .breakpoint (Rec.soft n)
    | none => s.trapA .breakpoint (Rec.soft n))

/-- ERET (R185, R286). -/
def execEret (s : State) : Out := .next s.returnFromTrap

end Sys2Proof.Machine
end

