-- ==== Sys2Proof/Machine/Queues.lean ====
section
/-! DEFINITION. Machine/Queues.lean: the scratchpad (R21, R22, R214), and the strand's load and store queues: what enters
them, when their heads may be performed (R92, R93), transactions (R101), and performing (R61, R66, R90, R100, R104). -/
namespace Sys2Proof.Machine

/-! The scratchpad. -/

/-- Bytes of a scratchpad with whether any row read is tagged (R214). -/
def Core.spmRead (c : Core) (a n : Nat) : List Byte × Bool :=
  (tgets 0 c.spm a n, (sectorsOf a n).any fun r => tget false c.spmTag r)

/-- Bytes written to a scratchpad for a context, with the rows' tags: `full` are the bytes that are written in every bit, which
alone cover a row (R214). -/
def Core.spmPut (c : Core) (ctx a : Nat) (bs full : List (Option Byte)) (tag : Bool) : Core :=
  let rows := (sectorsOf a bs.length).filter (touchesSector a bs)
  { c with
    spm := putBytes c.spm a bs
    spmTag := rows.foldl (fun t r => tset false t r (poisonAfter (tget false t r) tag (coversSector a full r))) c.spmTag
    spmOwner := rows.foldl (fun t r => tset 0 t (r / 64) (ctx + 1)) c.spmOwner }

/-- Whole bytes written to a scratchpad for a context, with the rows' tags (R214). -/
def Core.spmWrite (c : Core) (ctx a : Nat) (bs : List (Option Byte)) (tag : Bool) : Core := c.spmPut ctx a bs bs tag

/-- A scratchpad range lies in a window (R22). -/
def inWindow (base len a n : Nat) : Bool := base ≤ a && a + n ≤ base + len

/-- The checks of a scratchpad access (R22): alignment, then the address and the window. `vector` asks that 512 bytes lie
in one bank group. -/
def spmCheck (base len : Nat) (a : W64) (n align : Nat) (vector : Bool) : Option Cause :=
  if a.toNat % align ≠ 0 || (vector && a.toNat % 2 ^ 19 + n > 2 ^ 19) then some .alignment
  else if 2 ^ 21 ≤ a.toNat || !inWindow base len a.toNat n then some .translation
  else none

/-- The SPM window of the acting strand's tile task: first byte and bytes (R38). -/
def State.window (s : State) : Nat × Nat :=
  match s.myTt with
  | some t => (t.spmBase, t.spmUnits * 4096)
  | none => (0, 0)

/-- An earlier scratchpad write of the strand still in flight overlaps a range: a read of the range waits (R213). -/
def Strand.spmPending (st : Strand) (a n : Nat) : Bool :=
  (st.fly.any fun f => f.pushes.any fun p => p.1 < a + n && a < p.1 + 512) ||
  (st.lq.any fun o => match o.what with
    | .vec x | .vecNb x _ => 1536 ≤ x.dst && x.addr < a + n && a < x.addr + 512
    | _ => false)

/-- The strand has stopped with a load at the head of its queue that is cancelled, or that a MARK puts behind a store which waits
for the resumption: that load and those behind it wait for the resumption, and hold nothing back (R69, R93, R297). -/
def Strand.cancelled (st : Strand) : Bool :=
  st.stop.isSome && (st.lq.head?.map fun o => o.waits || st.sqAgain.any fun x => x.epoch < o.epoch).getD false

/-- A scratchpad write of the strand older than a mark is still in flight: a later write, or a signal that would release it,
comes after it (R94, R95). -/
def Strand.owesBefore (st : Strand) (tok : Nat) : Bool :=
  (st.fly.any fun f => f.tok < tok && f.pushes ≠ []) ||
  (!st.cancelled && st.lq.any fun o => o.tok < tok && o.toPort)

/-! Vector destinations. -/

/-- The entry that a mark reserved is produced in a name (R47, R48). -/
def Strand.produce (st : Strand) (name tok : Nat) (v : Vec) (tag : Bool) : Strand :=
  { st with vn := tmod [] st.vn name fun l => l.map fun e => if !e.ready && e.tok = tok then ⟨true, v, tag, tok⟩ else e }

/-- The bytes of a 512-byte access whose enabled bits answer a test. -/
def bytesWhere (p : Nat → Bool) (en : Vec) : BitVec 512 :=
  BitVec.ofNat 512 ((upto 512).foldl (fun n i => n + if p (bits en.toNat (8 * i) 8) then 2 ^ i else 0) 0)

/-- Enabled bytes of a 512-byte access, from the bits that enabled elements cover. -/
def byteMask (en : Vec) : BitVec 512 := bytesWhere (· ≠ 0) en

/-- Bytes of a 512-byte access of which every bit is enabled. -/
def fullMask (en : Vec) : BitVec 512 := bytesWhere (· = 255) en

/-- Merge of a value under bits enabled with what the rest hold. -/
def blend (en v fill : Vec) : Vec := (v &&& en) ||| (fill &&& ~~~en)

/-- A vector write performed in a scratchpad: the bits of `en` are written, every other bit keeps its value (R213). -/
def Core.push (c : Core) (ctx a : Nat) (v en : Vec) (tag : Bool) : Core :=
  let old : Vec := BitVec.ofNat 4096 (leNat (tgets 0 c.spm a 512))
  let new := blend en v old
  c.spmPut ctx a (enabledBytes new (byteMask en)) (enabledBytes new (fullMask en)) tag

/-- Writes of a strand to the scratchpad, each an address, a value and the bits written. -/
abbrev Pushes := List (Nat × Vec × Vec)

/-- Scratchpad writes performed in order. -/
def Core.pushAll (c : Core) (ctx : Nat) (ps : Pushes) (tag : Bool) : Core :=
  ps.foldl (fun c p => c.push ctx p.1 p.2.1 p.2.2 tag) c

/-- The scratchpad writes of the word at issue, in program order (R94): behind writes of the strand that are still in flight
they stand in line, and otherwise they are performed at once. -/
def State.spmStore (s : State) (ps : Pushes) (tag : Bool) : State :=
  let tok := s.me.mark + 1
  if s.me.owesBefore tok then s.modMe fun st => { st with mark := tok, fly := st.fly ++ [⟨tok, [], ps, tag, none⟩] }
  else
    let ctx := s.myCtx
    s.modCore s.myCore fun c => c.pushAll ctx ps tag

/-- n bytes at an address as a write. -/
def pushBytes (a n v : Nat) : Nat × Vec × Vec := (a, BitVec.ofNat 4096 v, BitVec.ofNat 4096 (2 ^ (8 * n) - 1))

/-- A signal clause performed; a count that would pass 65,535 raises SEM_OVERFLOW outside the strand, offered first to
the tile-task level (R151). -/
def State.signal (s : State) (core : Nat) (f : FaultAt) (sig : Option (Nat × Nat)) : State :=
  match sig with
  | none => s
  | some (i, n) => match (s.coreAt core).sync.post i n with
    | some c => s.modCore core fun x => { x with sync := c }
    | none => (s.containTt f .semOverflow Rec.zero).1

/-- A loaded vector reaches its destination (R216). -/
def State.deliverVec (s : State) (n : Nat) (x : VDest) (got : Vec) (tag : Bool) : State :=
  let v := blend x.en got x.fill
  let tag := tag || x.tag
  if x.dst < 1536 then s.modStrand n fun st => st.produce x.dst x.tok v tag
  else
    let ctx := (s.faultOfStrand n).ctx
    s.modCore (coreOfStrand n) fun c => c.push ctx x.addr v x.pen tag

/-! Entering the queues. -/

/-- A load enters the queue; its destination register waits for it (R92, R166). -/
def State.enterLoad (s : State) (what : LoadWhat) (va : W64) (parts : List Part) (sig : Option (Nat × Nat))
    (d : Option GReg) : State :=
  s.modMe fun st =>
    let tok := st.mark + 1
    { st with
      mark := tok
      lq := st.lq ++ [⟨what, va, parts, parts, 0, false, st.epoch, tok, sig, st.pc⟩]
      commitWait := none
      busy := match d with
        | some d => if d = 0 then st.busy else tset 0 st.busy d.toNat tok
        | none => st.busy }

/-- A store or an atomic enters the queue (R92). -/
def State.enterStore (s : State) (what : StoreWhat) (va : W64) (parts : List Part) (data : Vec) (en : BitVec 512)
    (tag : Bool) (sig : Option (Nat × Nat)) (d : Option GReg) : State :=
  s.modMe fun st =>
    let tok := st.mark + 1
    { st with
      mark := tok
      sn := st.sn + 1
      sq := st.sq ++ [⟨what, va, parts, data, en, tag, st.epoch, tok, st.sn, sig⟩]
      commitWait := none
      busy := match d with
        | some d => if d = 0 then st.busy else tset 0 st.busy d.toNat tok
        | none => st.busy }

/-- What a store needs of its page: in a transaction it is the commit that stores (R80). -/
def State.storeNeed (s : State) : Need := if s.me.txn.isSome then .txnWrite else .write

/-- A wait for a free frame begins (R87). -/
def State.beginFrameWait (s : State) (ea : W64) : State :=
  (s.modMe fun st => { st with commitWait := some (s.pt s.myDie + Config.commitWait, ea) }).waitsAt none

/-- A word waits for a free frame (R87): the wait begins, goes on, or has ended, and then COMMIT_FAIL is raised. -/
def State.awaitFrame (s : State) (ea : W64) (fail : State) : State :=
  match s.me.commitWait with
  | some (t, _) => if t ≤ s.pt s.myDie then fail else s.waitsAt none
  | none => s.beginFrameWait ea

/-- A global access of the word at issue: a fault traps, a wait for a frame waits, and otherwise the word goes on with
the parts (R186). -/
def State.withAccess (s : State) (ea : W64) (n : Nat) (need : Need) (ign : State → State) (k : List Part → State → State) :
    State :=
  s.unheld ea n (match s.myAccess ea n need with
  | .trap c r s => s.trapI c r (ign s)
  | .wait s => s.awaitFrame ea (s.trapI .commitFail (Rec.addr ea) (ign s))
  | .ok ps s => k ps s)

/-! When a head may be performed (R92, R93). -/

/-- No store or atomic of an earlier MARK epoch is left, so a load of this epoch may be performed. -/
def Strand.loadMay (st : Strand) (o : LoadOp) : Bool := (st.sq ++ st.sqAgain).all fun x => o.epoch ≤ x.epoch

/-- No load of an earlier MARK epoch is left, and no REL before the store is unfinished, so the store may be
performed (R93, R98). The loads that a stop has cancelled do not hold the store queue back (R297). -/
def Strand.storeMay (st : Strand) (o : StoreOp) : Bool :=
  (st.cancelled || st.lq.all fun x => o.epoch ≤ x.epoch) && st.rels.all fun r => o.sn < r.sn

/-- The part that the turn picks, and the rest (a vector access is performed line by line, in no stated order). -/
def pickPart (i : Nat) (ps : List Part) : Option (Part × List Part) :=
  match ps[i % max 1 ps.length]? with
  | some p => some (p, ps.eraseIdx (i % max 1 ps.length))
  | none => none

/-- Bytes put in a value at an offset. -/
def putAt (v : Vec) (off : Nat) (bs : List Byte) : Vec :=
  v ||| BitVec.ofNat 4096 (leNat bs * 2 ^ (8 * off))

/-! Transactions (R101, R102). -/

/-- Sectors of the parts of an access. -/
def partSectors (ps : List Part) : List Nat := (ps.map fun p => sectorsOf p.pa p.len).flatten

/-- Sectors of a transaction: read and written, once each. -/
def Txn.sectors (x : Txn) : List Nat := ((x.reads.map (·.1)) ++ (x.stored.map (·.1))).eraseDups

/-- The abort that an access of a transaction brings about: poison, a second die, or more than 16 sectors (R102). -/
def State.txnObjects (s : State) (x : Txn) (ps : List Part) : Option (BitVec 8) :=
  let new := partSectors ps
  let all := (x.sectors ++ new).eraseDups
  if new.any fun c => s.mem.poisonAt (c * 64) then some 6
  else if all.any fun c => (sliceOf (c * 64)).1 ≠ (sliceOf ((all.head?.getD 0) * 64)).1 then some 3
  else if 16 < all.length then some 2
  else none

/-- Bytes that a transaction reads: buffered bytes over the home's (R101). -/
def State.txnBytes (s : State) (x : Txn) (p : Part) : List Byte :=
  (upto p.len).map fun i =>
    match tget none x.writes (p.pa + i) with
    | some b => b
    | none => s.mem.readByte (p.pa + i)

/-- Read sectors recorded with their versions (R101). -/
def State.txnNote (s : State) (x : Txn) (ps : List Part) : Txn :=
  { x with reads := (partSectors ps).foldl (fun l c =>
      if l.any fun y => y.1 = c then l else l ++ [(c, tget 0 s.mem.ver c)]) x.reads }

/-- A transaction has stored a tagged value to a sector of some parts, and no untagged one over the whole sector since: its
buffered bytes read as tagged. DESIGN CHOICE (log entry 119): every byte of the sector does, as in a poisoned sector. -/
def Txn.tagged (x : Txn) (ps : List Part) : Bool :=
  (partSectors ps).any fun c => x.stored.any fun y => y.1 = c && y.2

/-- Stores of a transaction buffered (R101); the tag of a sector follows them as its poison would (R114). -/
def Txn.buffer (x : Txn) (va : W64) (ps : List Part) (data : Vec) (en : BitVec 512) (tag : Bool) : Txn :=
  let bs := enabledBytes data en
  { x with
    writes := ps.foldl (fun t p => ((bs.drop p.off).take p.len).foldl
      (fun (t : Tab (Option Byte) × Nat) b => (if b.isSome then tset none t.1 t.2 b else t.1, t.2 + 1)) (t, p.pa) |>.1) x.writes
    stored := ps.foldl (fun l p => (sectorsOf p.pa p.len).foldl (fun l c => if l.any fun y => y.1 = c then
        l.map fun y => if y.1 = c then
          (c, poisonAfter y.2 tag (coversSector p.pa ((bs.drop p.off).take p.len) c)) else y
      else l ++ [(c, tag)]) l) x.stored
    pages := ps.foldl (fun l p => l ++ [va + BitVec.ofNat 64 p.off]) x.pages }

/-- A transactional load at the home (R101): it drops the strand's older copies as it binds (R90). It gives its value and whether
that is tagged. -/
def State.txnLoad (s : State) (x : Txn) (ps : List Part) (k : Vec → Bool → State → State) : State :=
  if !s.homesFree s.myDie ps then s.holds
  else match s.txnObjects x ps with
  | some code => s.txnFail code
  | none =>
    let v := ps.foldl (fun v p => putAt v p.off (s.txnBytes x p)) 0
    let s' := (s.modMe fun st => { st with txn := some (s.txnNote x ps), commitWait := none }).touchParts s.myCtx ps
    k v (x.tagged ps) (ps.foldl (fun s p => s.dropCopies s.myCore (p.pa / 128)) s')

/-- A transactional store (R101). -/
def State.txnStore (s : State) (x : Txn) (va : W64) (ps : List Part) (data : Vec) (en : BitVec 512) (tag : Bool)
    (k : State) : State :=
  match s.txnObjects x ps with
  | some code => s.txnFail code
  | none => { k with strands := (k.modMe fun st =>
      { st with txn := some (x.buffer va ps data en tag), commitWait := none }).strands }

/-! Atomics at the home (R100, R192). -/

/-- The new memory value of an integer atomic, over w bits (R192). -/
def amoNew (op : AmoOp) (w old b cmp : Nat) : Nat :=
  match op with
  | .add => (old + b) % 2 ^ w
  | .and => old &&& b
  | .or => old ||| b
  | .xor => old ^^^ b
  | .min => if signed w old ≤ signed w b then old else b
  | .max => if signed w old ≤ signed w b then b else old
  | .minn => min old b
  | .maxn => max old b
  | .swp => b
  | .cas => if old = cmp then b else old

end Sys2Proof.Machine
end

