-- ==== Sys2Proof/Machine/Mem.lean ====
section
/-! DEFINITION. Machine/Mem.lean: scalar loads and stores of global, scratchpad, spill and conductor record memory
(R156, R186-R190), and the words that order them (R191). -/
namespace Sys2Proof.Machine

/-- Bytes of an access size. -/
def Size.bytes : Size → Nat
  | .b => 1 | .h => 2 | .w => 4 | .d => 8

/-- The effective address of [ga+off] (R168). -/
def State.ea (s : State) (a : GReg) (off : BitVec 13) : W64 := s.g a + off.signExtend 64

/-- A loaded value of n bytes, sign- or zero-extended. -/
def extend (n : Nat) (sgn : Bool) (v : Nat) : W64 :=
  if sgn then wrap64 (signed (8 * n) v) else BitVec.ofNat 64 (v % 2 ^ (8 * n))

/-- The low n bytes of a 512-byte value. -/
def lowBytes (n : Nat) : BitVec 512 := BitVec.ofNat 512 (2 ^ n - 1)

/-- A scalar as the data of a store. -/
def storeData (n : Nat) (v : W64) : Vec := BitVec.ofNat 4096 (v.toNat % 2 ^ (8 * n))

/-- The state in which a word that writes d has retired under IGNORE: d is 0 and tagged (R52). -/
def State.lost (d : GReg) (s : State) : State := (s.setG d 0 true).issued

/-! Conductor record memory (R156, R346). -/

/-- Bytes of conductor record memory: 4 MiB. -/
def recordSize : Nat := 2 ^ 22

/-- An access of record memory: aligned to its size, and inside it. -/
def recordCheck (ea : W64) (n : Nat) : Option Cause :=
  if ea.toNat % n ≠ 0 then some .alignment else if recordSize ≤ ea.toNat then some .translation else none

/-- A load of a conductor core. -/
def State.condLoad (s : State) (d a : GReg) (off : BitVec 13) (n : Nat) (sgn : Bool) : State :=
  let ea := s.ea a off
  match recordCheck ea n with
  | some c => s.trap c (Rec.addr ea)
  | none => s.plain d (extend n sgn (leNat (s.recordBytes ea.toNat n)))

/-- A store of a conductor core. -/
def State.condStore (s : State) (d a : GReg) (off : BitVec 13) (n : Nat) : State :=
  let ea := s.ea a off
  match recordCheck ea n with
  | some c => s.trap c (Rec.addr ea)
  | none => (s.modMem fun m => { m with record := tsets 0 m.record ea.toNat (leBytes n (s.g d).toNat) }).issued

/-! Global loads and stores. -/

/-- A scalar load once its address is known to be aligned: in a transaction it binds at its home, otherwise it enters the
load queue (R92, R101). -/
def State.loadGlobal (s : State) (d : GReg) (ea : W64) (n : Nat) (sgn : Bool) (parts : List Part) : State :=
  match s.me.txn with
  | some x => s.txnLoad x parts fun v t s => (s.setG d (extend n sgn v.toNat) t).issued
  | none => (s.enterLoad (.scalar d n sgn) ea parts none (some d)).issued

/-- A transactional access may not be performed yet: it waits for the loads before it, and for the stores that a MARK puts
before it (R92, R93, R101). -/
def State.txnWaits (s : State) : Bool :=
  s.me.txn.isSome && (s.me.lq ≠ [] || s.me.sq.any fun x => x.epoch < s.me.epoch)

/-- A transactional access in its turn. -/
def State.txnTurn (s : State) (k : State) : State := if s.txnWaits then s.holds else k

/-- LD and LDN in a strand (R186). -/
def State.strandLoad (s : State) (d a : GReg) (off : BitVec 13) (n : Nat) (sgn : Bool) : State :=
  let ea := s.ea a off
  s.whenReady [a] (s.clean [a] (s.lost d) (
    if ea.toNat % n ≠ 0 then s.trapD .alignment (Rec.addr ea) d
    else s.txnTurn (s.withAccess ea n .read (State.lost d) fun ps s => s.loadGlobal d ea n sgn ps)))

/-- LD.sz (R186). -/
def execLd (sz : Size) (d a : GReg) (off : BitVec 13) (s : State) : Out :=
  .next (if s.conducting then s.condLoad d a off (Size.bytes sz) true else s.strandLoad d a off (Size.bytes sz) true)

/-- LDN.sz (R186). -/
def execLdn (sz : Size) (d a : GReg) (off : BitVec 13) (s : State) : Out :=
  .next (if s.conducting then s.condLoad d a off (Size.bytes sz) false else s.strandLoad d a off (Size.bytes sz) false)

/-- A store once it may access its bytes (R92, R101, R114). -/
def State.storeGlobal (s : State) (ea : W64) (parts : List Part) (data : Vec) (en : BitVec 512) (tag : Bool)
    (sig : Option (Nat × Nat)) : State :=
  match s.me.txn with
  | some x => s.txnStore x ea parts data en tag s.issued
  | none => (s.enterStore .plain ea parts data en tag sig none).issued

/-- ST in a strand (R186). -/
def State.strandStore (s : State) (d a : GReg) (off : BitVec 13) (n : Nat) : State :=
  let ea := s.ea a off
  s.whenReady [a, d] (s.clean [a] s.issued (
    if ea.toNat % n ≠ 0 then s.trap .alignment (Rec.addr ea)
    else s.txnTurn (s.withAccess ea n s.storeNeed State.issued fun ps s =>
      s.storeGlobal ea ps (storeData n (s.g d)) (lowBytes n) (s.gt d) none)))

/-- ST.sz (R186). -/
def execSt (sz : Size) (d a : GReg) (off : BitVec 13) (s : State) : Out :=
  .next (if s.conducting then s.condStore d a off (Size.bytes sz) else s.strandStore d a off (Size.bytes sz))

/-- The faults that LD.s defers (R50, R187). -/
def Cause.deferred : Cause → Bool
  | .translation | .protection | .alignment | .tagMismatch | .quota | .commitFail | .memControlError => true
  | _ => false

/-- LD.s.sz (R50, R187): a deferred fault leaves d 0 and tagged. -/
def execLdS (sz : Size) (d a : GReg) (off : BitVec 13) (s : State) : Out :=
  .next (
    let n := Size.bytes sz
    let ea := s.ea a off
    s.whenReady [a] (s.clean [a] (s.lost d) (
      if ea.toNat % n ≠ 0 then s.lost d
      else s.txnTurn (s.unheld ea n (match s.myAccess ea n .read with
        | .trap c r s => if Cause.deferred c then s.lost d else s.trapD c r d
        | .wait s => s.awaitFrame ea ((s.modMe fun st => { st with commitWait := none }).lost d)
        | .ok ps s => s.loadGlobal d ea n true ps)))))

/-- CHK (R50, R187). -/
def execChk (a : GReg) (s : State) : Out := .next (s.whenReady [a] (s.clean [a] s.issued s.issued))

/-! Scratchpad and spill memory. -/

/-- LD.sp.sz (R188). -/
def execLdSp (sz : Size) (d a : GReg) (off : BitVec 13) (s : State) : Out :=
  .next (
    let n := Size.bytes sz
    let ea := s.ea a off
    let (base, len) := s.window
    s.whenReady [a] (s.clean [a] (s.lost d) (
      match spmCheck base len ea n n false with
      | some c => s.trapD c (Rec.addr ea) d
      | none =>
        if s.readStrand.spmPending ea.toNat n then s.holds
        else
          let (bs, t) := s.readCore.spmRead ea.toNat n
          (s.setG d (extend n true (leNat bs)) t).issued)))

/-- ST.sp.sz (R188). -/
def execStSp (sz : Size) (d a : GReg) (off : BitVec 13) (s : State) : Out :=
  .next (
    let n := Size.bytes sz
    let ea := s.ea a off
    let (base, len) := s.window
    s.whenReady [a, d] (s.clean [a] s.issued (
      match spmCheck base len ea n n false with
      | some c => s.trap c (Rec.addr ea)
      | none => (s.spmStore [pushBytes ea.toNat n (s.g d).toNat] (s.gt d)).issued)))

/-- A spill slot's first byte, when the slot lies in the partition's 16 KiB (R189). -/
def spillAt (n : Nat) (off : BitVec 13) : Option Nat :=
  if off.toNat * n + n ≤ 16384 then some (off.toNat * n) else none

/-- The record of a spill access that lies beyond byte 16,383. -/
def spillRec (n : Nat) (off : BitVec 13) : Rec := Rec.addr (BitVec.ofNat 64 (off.toNat * n))

/-- SPLD.sz (R189). -/
def execSpld (sz : Size) (d : GReg) (off : BitVec 13) (s : State) : Out :=
  .next (
    let n := Size.bytes sz
    match spillAt n off with
    | none => s.trapD .translation (spillRec n off) d
    | some o =>
      let st := s.readStrand
      (s.setG d (extend n true (leNat (tgets 0 st.spill o n))) ((tgets false st.spillTag o n).any id)).issued)

/-- SPST.sz (R189). -/
def execSpst (sz : Size) (d : GReg) (off : BitVec 13) (s : State) : Out :=
  .next (
    let n := Size.bytes sz
    s.whenReady [d] (match spillAt n off with
    | none => s.trap .translation (spillRec n off)
    | some o => (s.modMe fun st => { st with
        spill := tsets 0 st.spill o (leBytes n (s.g d).toNat)
        spillTag := tsets false st.spillTag o (List.replicate n (s.gt d)) }).issued))

/-! Timed memory (R59, R66, R190). -/

/-- TIME_RANGE: a time more than 2³² ns ahead of the issuing PT (R59, R66, R202). -/
def tooFar (t : W64) (pt : Nat) : Bool := pt + Config.timeRange < t.toNat

/-- The record of a time fault: the time and the issuing PT (R284). -/
def State.timeRec (s : State) (t : W64) : Rec := Rec.pair t (BitVec.ofNat 64 (s.pt s.myDie))

/-- LATE_POSTMARK: the issuing PT lies after P − LEAD (R59). -/
def State.late (s : State) (p : W64) : Bool := p.toNat < s.pt s.myDie + s.lead

/-- LD.nb.sz (R66, R190): zero-extended. -/
def execLdNb (sz : Size) (d a b : GReg) (s : State) : Out :=
  .next (
    let n := Size.bytes sz
    let ea := s.g a
    s.outsideTxn (s.whenReady [a, b] (s.clean [a, b] (s.lost d) (
      if ea.toNat % n ≠ 0 then s.trapD .alignment (Rec.addr ea) d
      else if tooFar (s.g b) (s.pt s.myDie) then s.trapD .timeRange (s.timeRec (s.g b)) d
      else s.withAccess ea n .read (State.lost d) fun ps s =>
        (s.enterLoad (.nb d n (s.g b)) ea ps none (some d)).issued))))

/-- ST.pm.sz (R59, R190). -/
def execStPm (sz : Size) (d a b : GReg) (s : State) : Out :=
  .next (
    let n := Size.bytes sz
    let ea := s.g a
    s.outsideTxn (s.whenReady [a, d, b] (s.clean [a, b] s.issued (
      if ea.toNat % n ≠ 0 then s.trap .alignment (Rec.addr ea)
      else if tooFar (s.g b) (s.pt s.myDie) then s.trap .timeRange (s.timeRec (s.g b))
      else if s.late (s.g b) then s.trap .latePostmark (s.timeRec (s.g b))
      else s.withAccess ea n .write State.issued fun ps s =>
        (s.enterStore (.pm (s.g b)) ea ps (storeData n (s.g d)) (lowBytes n) (s.gt d) none none).issued))))

/-! Ordering (R93, R97, R98, R191). -/

/-- MARK (R93). -/
def execMark (s : State) : Out := .next (s.outsideTxn (s.modMe fun st => { st with epoch := st.epoch + 1 }).issued)

/-- The range of a word with an address and a length in registers: none with fields a = b = 0 or with a length above 2³²
(R191). -/
def State.range (s : State) (a b : GReg) : Option (W64 × Nat) :=
  if (a = 0 && b = 0) || 2 ^ 32 < (s.g b).toNat then none else some (s.g a, (s.g b).toNat)

/-- A word that is ordered after every earlier load of the strand (R98). -/
def State.afterLoads (s : State) (k : State) : State := if s.me.lq = [] then k else s.holds

/-- ACQ.scope (R98, R191). -/
def execAcq (sc : Scope) (a b : GReg) (s : State) : Out :=
  .next (s.whenReady [a, b] (s.clean [a, b] s.issued (s.afterLoads
    (s.acquire s.myCore s.myCtx sc (s.range a b)).issued)))

/-- REL.scope (R98, R191). -/
def execRel (sc : Scope) (s : State) : Out := .next (s.enterRel (sc = .sys)).issued

/-- An engine command of a strand stands in a queue, or its completion travels (R97, R262). -/
def State.busyQueue (s : State) (n q : Nat) : Bool :=
  let c := s.coreAt (coreOfStrand n)
  (tget [] c.queues q).any (fun x => x.strand = n) || (q = 6 && c.arriving.any fun x => x.strand = n)

/-- FENCEQ (R97). -/
def execFenceq (mask : BitVec 7) (s : State) : Out :=
  .next (if (upto 7).any fun q => mask.getLsbD q && s.busyQueue s.myNum q then s.waitsAt none else s.issued)

end Sys2Proof.Machine
end

