-- ==== Sys2Proof/Machine/Sync.lean ====
section
/-! DEFINITION. Machine/Sync.lean: semaphores (R151, R197, R198), value waits (R199), time (R202) and transactions
(R194-R196) as scalar words. -/
namespace Sys2Proof.Machine

/-! Semaphores. -/

/-- The absolute number of a semaphore name of the acting strand, when it lies in the window (R151). -/
def State.mySem (s : State) (k : Nat) : Option Nat :=
  match s.myTt with
  | some t => if k < t.semLen then some (semNum t.semBase k) else none
  | none => none

/-- Pushes that words of the same group have in flight are performed, as a POST releases them (R95). -/
def State.landPushes (s : State) : State :=
  let ctx := s.myCtx
  let fs := s.me.fly
  let s := s.modCore s.myCore fun c => fs.foldl (fun c f => f.pushes.foldl (fun c p =>
    c.push ctx p.1 p.2.1 p.2.2 f.tag) c) c
  s.modMe fun st => { st with fly := st.fly.map fun f => { f with pushes := [] } }

/-- A load of the strand still owes a port its push (R94). -/
def Strand.owesPush (st : Strand) : Bool :=
  st.lq.any fun o => match o.what with
    | .vec x | .vecNb x _ => 1536 ≤ x.dst
    | _ => false

/-- A POST of a strand (R95, R197): it waits for the strand's earlier scratchpad writes. -/
def State.strandPost (s : State) (i k : Nat) : State :=
  if s.readStrand.fly.any (fun f => f.pushes ≠ []) || s.me.owesPush then s.holds
  else match (s.coreAt s.myCore).sync.post i k with
    | none => s.trap .semOverflow Rec.zero
    | some c => (s.landPushes.modCore s.myCore fun x => { x with sync := c }).issued

/-- POST (R151, R197): in a conductor core all 256 semaphores are named (R156). -/
def execPost (k : BitVec 8) (n : BitVec 7) (s : State) : Out :=
  .next (
    if s.conducting then
      match (s.condAt s.myCondNum).sync.post k.toNat n.toNat with
      | none => s.trap .semOverflow Rec.zero
      | some c => (s.modCond s.myCondNum fun x => { x with sync := c }).issued
    else match s.mySem k.toNat with
      | none => s.trap .semRange Rec.zero
      | some i => s.outsideTxn (s.afterRels (s.strandPost i n.toNat)))

/-- The acting agent leaves every line it waits in. -/
def State.leaveLines (s : State) : State :=
  let n := s.myNum
  s.modCore s.myCore (·.modSync (·.leave (.strand n)))

/-- A wait of the acting strand on a semaphore of its core (R151, R294): a poisoned one raises AWAIT_POISONED; a wait
that is served goes on from the state in which its count is subtracted. -/
def State.waitSem (s : State) (i t : Nat) (ign : State → State) (k : State → State) : State :=
  let c := s.coreAt s.myCore
  if (c.sem i).poisoned then (s.leaveLines).trapI .awaitPoisoned Rec.zero (ign s.leaveLines)
  else if s.me.deadlock then (s.leaveLines).trapI .deadlockAwait Rec.zero (ign s.leaveLines)
  else if t = 0 then k s
  else if c.sync.ready i t (.strand s.myNum) then
    let n := s.myNum
    k (s.modCore s.myCore (·.modSync (·.take i t (.strand n))))
  else s.waitsAt (some (i, t))

/-- AWAIT (R151, R197). -/
def execAwait (k : BitVec 8) (t : BitVec 7) (s : State) : Out :=
  .next (
    if s.conducting then
      let c := (s.condAt s.myCondNum).sync
      if t = 0 then s.issued
      else if c.ready k.toNat t.toNat (.strand 0) then
        (s.modCond s.myCondNum fun x => { x with sync := x.sync.take k.toNat t.toNat (.strand 0) }).issued
      else s.waitsAt (some (k.toNat, t.toNat))
    else match s.mySem k.toNat with
      | none => s.trap .semRange Rec.zero
      | some i => (s.outsideTxn (s.afterRels (s.waitSem i t.toNat State.issued State.issued))).orWaits s i t.toNat
          (.strand s.myNum))

/-- SEMRD: the count, and the poison bit in [16], as they stood before the group (R197, R198). -/
def execSemrd (d : GReg) (k : BitVec 8) (s : State) : Out :=
  .next (
    let value (x : Sem) : W64 := BitVec.ofNat 64 (x.count + if x.poisoned then 2 ^ 16 else 0)
    if s.conducting then s.plain d (value (s.readCond.sync.sem k.toNat))
    else match s.mySem k.toNat with
      | none => s.trapD .semRange Rec.zero d
      | some i => s.plain d (value (s.readCore.sem i)))

/-- SEMWR (R197): the poison is cleared. -/
def execSemwr (k : BitVec 8) (a : GReg) (s : State) : Out :=
  .next (s.privileged (match s.mySem k.toNat with
    | none => s.trap .semRange Rec.zero
    | some i => s.whenReady [a] (s.clean [a] s.issued (
        if 65535 < (s.g a).toNat then s.trap .semOverflow Rec.zero
        else
          let v := (s.g a).toNat
          (s.modCore s.myCore (·.modSync (·.setSem i ⟨v, false⟩))).issued))))

/-! Value waits and time. -/

/-- WAITV (R104, R199). -/
def execWaitv (d a b : GReg) (s : State) : Out :=
  .next (s.outsideTxn (s.whenReady [d, a, b] (s.clean [d, a, b] (s.lost d) (
    if (s.g a).toNat % 8 ≠ 0 then s.trapD .alignment (Rec.addr (s.g a)) d
    else s.withAccess (s.g a) 8 .read (State.lost d) fun ps s' =>
      (s'.enterLoad (.waitv d (s.g b) (s.g d) false) (s.g a) ps none (some d)).issued))))

/-- PTRD (R202). -/
def execPtrd (d : GReg) (s : State) : Out := .next (s.plain d (BitVec.ofNat 64 (s.pt s.myDie)))

/-- FRRD (R202): both registers are untagged. -/
def execFrrd (d a : GReg) (s : State) : Out :=
  .next (((s.setG d (BitVec.ofNat 64 s.time.frameno) false).setG a (BitVec.ofNat 64 s.time.framestart) false).issued)

/-- The target of a WAITPT under way. -/
def State.setWaitPt (s : State) (t : Option W64) : State :=
  match s.cur with
  | .strand _ => s.modMe fun st => { st with waitPt := t }
  | .conductor k => s.modCond k fun c => { c with waitPt := t }

/-- WAITPT (R202). -/
def execWaitpt (a : GReg) (s : State) : Out :=
  .next (s.whenReady [a] (s.clean [a] s.issued (
    if tooFar (s.g a) (s.pt s.myDie) then s.trap .timeRange (s.timeRec (s.g a))
    else if (s.g a).toNat ≤ s.pt s.myDie then (s.setWaitPt none).issued
    else (s.setWaitPt (some (s.g a))).waitsAt none)))

/-! Transactions. -/

/-- TXB: off = 0 names no abort target (R102, R194). -/
def execTxb (off : BitVec 24) (s : State) : Out :=
  .next (s.outsideTxn (s.modMe fun st => { st with
    txn := some ⟨if off = 0 then none else some (s.target off), 0, [], [], [], []⟩ }).issued)

/-- Outside a transaction the word raises TXN_ILLEGAL (R103). -/
def State.insideTxn (s : State) (k : Txn → State) : State :=
  match s.me.txn with
  | some x => k x
  | none => s.trap .txnIllegal Rec.zero

/-- TXE: the read and write sets go to the home die (R101); the word completes when the commit has succeeded, and TXS.code
becomes 0 (R195). -/
def execTxe (s : State) : Out :=
  .next (s.insideTxn fun x =>
    if x.phase = 3 then s.txnFail 1
    else if x.phase = 4 then s.txnFail 6
    else if x.phase = 2 then (s.modMe fun st => { st with txn := none, txsCode := 0 }).issued
    else (s.modMe fun st => { st with txn := some { x with phase := 1 } }).holds)

/-- TXA: the code goes to TXS[15:8] and the transaction aborts with 0x04 (R195). -/
def execTxa (code : BitVec 8) (s : State) : Out :=
  .next (s.insideTxn fun _ => (s.modMe fun st => { st with txsTxa := code }).txnFail 4)

/-- TXS (R196). -/
def Strand.txs (st : Strand) : W64 :=
  BitVec.ofNat 64 (st.txsCode.toNat + st.txsTxa.toNat * 2 ^ 8 + if st.txn.isSome then 2 ^ 16 else 0)

/-- TXS gd (R195, R196). -/
def execTxs (d : GReg) (s : State) : Out := .next (s.plain d s.readStrand.txs)

end Sys2Proof.Machine
end

