-- ==== Sys2Proof/Machine/Special.lean ====
section
/-! DEFINITION. Machine/Special.lean: the special registers (R19, R57, R88, R121, R143, R175, R283) and the words that
read and write them (R204). -/
namespace Sys2Proof.Machine

/-- The time registers of a die, numbers 0x000 to 0x009 (R57). -/
def State.timeReg (s : State) (n : Nat) : W64 :=
  let die := s.myDie
  let t := s.time
  match n with
  | 0 => BitVec.ofNat 64 (s.pt die)
  | 1 => BitVec.ofNat 64 s.lead
  | 2 =>
    let held := tget false t.hold die || tget false t.hold cd
    let off : Int := if t.offset < -(2 ^ 31 - 1) then -(2 ^ 31 - 1) else if 2 ^ 31 - 1 < t.offset then 2 ^ 31 - 1 else t.offset
    (BitVec.ofInt 32 off) ++ BitVec.ofNat 32 ((if t.locked then 1 else 0) + if held then 2 else 0)
  | 3 => BitVec.ofNat 64 (s.gf die)
  | 4 => BitVec.ofNat 64 t.slipth
  | 5 => BitVec.ofNat 64 (if s.conducting then 0 else tget 0 t.fslip die)
  | 6 => BitVec.ofNat 64 t.framelen
  | 7 => BitVec.ofNat 64 t.frameno
  | 8 => BitVec.ofNat 64 t.framestart
  | _ => BitVec.ofNat 32 t.tslipLast ++ BitVec.ofNat 32 t.tslipCount

/-- A context register, numbers 0x020 to 0x026 (R88). -/
def Ctx.reg (c : Ctx) (n : Nat) : W64 :=
  match n with
  | 0x020 => c.ceiling ++ c.limit
  | 0x021 => c.commit.setWidth 64
  | 0x022 => c.root0
  | 0x023 => c.root1
  | 0x024 => c.mbBase
  | 0x025 => c.mbCount.setWidth 64
  | _ => c.trtfb.setWidth 64

/-- CAUSE (R283). -/
def Strand.causeReg (st : Strand) : W64 := BitVec.ofNat 64 (st.cause.toNat + if st.handler then 2 ^ 8 else 0)

/-- The special register of a number, as MFS reads it; none when the number is not listed (R143). -/
def State.special (s : State) (n : Nat) : Option W64 :=
  let st := s.readStrand
  if n ≤ 9 then some (s.timeReg n)
  else if n = 0x010 then some st.fpm
  else if n = 0x011 then some (st.srkey)
  else if n = 0x012 then some (st.srctr)
  else if 0x020 ≤ n ∧ n ≤ 0x026 then (s.ctxAt s.myCtx).map (·.reg n)
  else if 0x030 ≤ n ∧ n ≤ 0x033 then some (tget 0 s.cpres (n - 0x030))
  else if n = 0x040 then some st.epc
  else if n = 0x041 then some st.causeReg
  else if n = 0x042 then some st.einfo
  else if n = 0x043 then some st.tvec
  else if 0x050 ≤ n ∧ n ≤ 0x053 then some (loopAt st.loops (n - 0x050)).lc
  else if n = 0x060 then some (BitVec.ofNat 64 s.myNum)
  else if n = 0x061 then some (BitVec.ofNat 64 s.myCtx)
  else none

/-- MFS (R143, R204): a number of the management core raises PRIVILEGE, one not listed BAD_NAME. -/
def execMfs (d : GReg) (r : BitVec 12) (s : State) : Out :=
  .next (
    if 0x800 ≤ r.toNat then s.trapD .privilege Rec.zero d
    else match s.special r.toNat with
      | some v => s.plain d v
      | none => s.trapD .badName Rec.zero d)

/-- How MTS may use a number (R143). -/
inductive Access where
  | readOnly | writable | privileged
  deriving DecidableEq, Repr

/-- The access of a number that is listed. -/
def accessOf (n : Nat) : Access :=
  if n = 4 ∨ n = 6 ∨ n = 0x024 ∨ n = 0x025 then .privileged
  else if n = 0x010 ∨ n = 0x011 ∨ n = 0x012 ∨ n = 0x020 ∨ n = 0x040 ∨ n = 0x043 ∨ (0x050 ≤ n ∧ n ≤ 0x053) then .writable
  else .readOnly

/-- FPMODE after a write: rm 5 to 7 leaves rm (R121). -/
def fpmWrite (old v : W64) : W64 :=
  let rm := if fieldOf v 0 3 < 5 then fieldOf v 0 3 else fieldOf old 0 3
  BitVec.ofNat 64 (rm + 8 * fieldOf v 3 2)

/-- A write of FRAMELEN: outside the range, or not a multiple of 1,024, it is ignored (R74). -/
def frameLenOk (v : Nat) : Bool := 65536 ≤ v && v ≤ 1073741824 && v % 1024 = 0

/-- A value written to the writable fields of a special register. DESIGN CHOICE (log entry 126): MBBASE keeps a value that is not a
multiple of 64 KiB, and MBCOUNT the 17 bits of a value above 65,536, as written. -/
def State.setSpecial (s : State) (n : Nat) (v : W64) : State :=
  let lo := fieldOf v 0 32
  if n = 4 then s.modTime fun t => { t with slipth := lo }
  else if n = 6 then s.modTime fun t => if frameLenOk lo then { t with framelen := lo } else t
  else if n = 0x010 then s.modMe fun st => { st with fpm := fpmWrite st.fpm v }
  else if n = 0x011 then s.modMe fun st => { st with srkey := BitVec.ofNat 64 lo }
  else if n = 0x012 then s.modMe fun st => { st with srctr := BitVec.ofNat 64 lo }
  else if n = 0x020 then s.modCtx s.myCtx fun c => { c with limit := BitVec.ofNat 32 (min lo c.ceiling.toNat) }
  else if n = 0x024 then s.modCtx s.myCtx fun c => { c with mbBase := v }
  else if n = 0x025 then s.modCtx s.myCtx fun c => { c with mbCount := v.setWidth 17 }
  else if n = 0x040 then s.modMe fun st => { st with epc := v }
  else if n = 0x043 then s.modMe fun st => { st with tvec := v }
  else s.modMe fun st => { st with loops := tmod Loop.none st.loops (n - 0x050) fun x => { x with lc := v } }

/-- The checks of a write in its own description: TVEC's alignment (R283) and an active LOOPP level's counter (R175). -/
def State.specialCheck (s : State) (n : Nat) (v : W64) : Option (Cause × Rec) :=
  if n = 0x043 then if fieldOf v 0 2 ≠ 0 then some (.alignment, Rec.addr v) else none
  else if 0x050 ≤ n then
    let x := loopAt s.readStrand.loops (n - 0x050)
    if x.active && x.pipelined then some (.loopState, Rec.zero) else none
  else none

/-- MTS (R137, R143, R204). -/
def execMts (r : BitVec 12) (a : GReg) (s : State) : Out :=
  .next (
    let n := r.toNat
    let write := s.whenReady [a] (s.clean [a] s.issued (match s.specialCheck n (s.g a) with
      | some (c, rec) => s.trap c rec
      | none => (s.setSpecial n (s.g a)).issued))
    if 0x800 ≤ n then s.trap .privilege Rec.zero
    else match s.special n with
      | none => s.trap .badName Rec.zero
      | some _ => match accessOf n with
        | .readOnly => s.trap .readOnly Rec.zero
        | .privileged => s.privileged write
        | .writable => write)

end Sys2Proof.Machine
end

