-- ==== Sys2Proof/Machine/System.lean ====
section
/-! DEFINITION. Machine/System.lean: cache operations (R206), TLB invalidation (R207) and port configuration (R208). -/
namespace Sys2Proof.Machine

/-- CACHEOP.lockwr (R85, R206): a store of locks; the key is not checked. DESIGN CHOICE (log entry 128): in a transaction it goes
through the ordinary store queue, outside the transaction (R103). -/
def execLockwr (a b : GReg) (s : State) : Out :=
  .next (s.whenReady [a, b] (s.clean [a, b] s.issued (
    let ea := s.g a
    if ea.toNat % 32 ≠ 0 then s.trap .alignment (Rec.addr ea)
    else
      let v := s.g b
      let n := 32 * (fieldOf v 8 16 + 1)
      s.unheld ea n (match s.atIssue ea (s.accessNoKey (some s.myCore) s.myCtx ea n .write s.fresh) with
      | .trap c r s => s.trap c r
      | .wait s => s.awaitFrame ea (s.trap .commitFail (Rec.addr ea))
      | .ok ps s => (s.enterStore (.lock (v.setWidth 4)) ea ps 0 0 false none none).issued))))

/-- CACHEOP.lockrd (R206): a load of a granule's lock history. DESIGN CHOICE (log entry 128): in a transaction it reads the home's
locks, outside the transaction (R103). -/
def execLockrd (d a : GReg) (s : State) : Out :=
  .next (s.whenReady [a] (s.clean [a] (s.lost d) (
    let ea := s.g a
    s.withAccess ea 1 .read (State.lost d) fun ps s => (s.enterLoad (.lock d) ea ps none (some d)).issued)))

/-- The lines of a range form of CACHEOP: a length above 2³² is the whole cache (R206). -/
def State.cacheRange (s : State) (a b : GReg) : Nat → Bool :=
  if 2 ^ 32 < (s.g b).toNat then fun _ => true
  else
    let ls := s.linesOf s.myCore s.myCtx (s.g a) (s.g b).toNat
    fun l => ls.any fun x => x.1 ≤ l && l ≤ x.2

/-- CACHEOP.l1inv (R206). -/
def execL1inv (a b : GReg) (s : State) : Out :=
  .next (s.whenReady [a, b] (s.clean [a, b] s.issued (s.afterLoads
    (s.invL1 s.myCore (s.cacheRange a b)).issued)))

/-- CACHEOP.rdcinv (R206). -/
def execRdcinv (a b : GReg) (s : State) : Out :=
  .next (s.whenReady [a, b] (s.clean [a, b] s.issued (s.afterLoads
    (s.invRdc s.myDie (s.cacheRange a b)).issued)))

/-- CACHEOP.wb (R206): the write-back stands in the store queue between two RELs: it is performed once every earlier store
and engine write is, and what follows a REL waits for it. -/
def execCacheWb (a b : GReg) (s : State) : Out :=
  .next (s.whenReady [a, b] (s.clean [a, b] s.issued (
    let all := decide (2 ^ 32 < (s.g b).toNat)
    let ls := if all then [] else s.linesOf s.myCore s.myCtx (s.g a) (s.g b).toNat
    let ps := ls.map fun x => (⟨0, x.1 * 128, (x.2 - x.1 + 1) * 128, 0⟩ : Part)
    (((s.enterRel false).enterStore (.wb all) (s.g a) ps 0 0 false none none).enterRel false).issued)))

/-- TLB entries that a test names dropped from every core (R82, R207). -/
def State.dropTlb (s : State) (hit : TlbE → Bool) : State :=
  let drop (c : Core) : Core := { c with tlb := c.tlb.filter fun e => !hit e }
  { s with cores := (s.cores.map fun (n, c) => (n, drop c)).filter fun x => x.2 ≠ Core.init }

/-- TLBINV (R82, R207): every core discards the context's entries for pages that meet the range, or all of them. -/
def execTlbinv (a b : GReg) (s : State) : Out :=
  .next (s.privileged (s.whenReady [a, b] (s.clean [a, b] s.issued (
    let ctx := s.myCtx
    let lo := vaOf (s.g a)
    let len := (s.g b).toNat
    let hit (e : TlbE) : Bool := e.ctx = ctx && ((a = 0 && b = 0) || (e.va < lo + len && lo < e.va + 2 ^ e.log))
    (s.dropTlb hit).issued))))

/-- QCFG (R208). DESIGN CHOICE (log entry 113): a tagged value in any of the three registers raises POISON_CONSUMED. -/
def execQcfg (n : BitVec 6) (d a b : GReg) (s : State) : Out :=
  .next (s.whenReady [d, a, b] (s.clean [d, a, b] s.issued (
    let p : Port := ⟨s.g d, (s.g a).setWidth 32, (s.g a).extractLsb' 32 32, (s.g b).setWidth 32, (s.g b).extractLsb' 32 32, 0⟩
    if p.base.toNat % 64 ≠ 0 || p.stride1.toNat % 64 ≠ 0 || p.stride2.toNat % 64 ≠ 0 then
      s.trap .alignment (Rec.addr p.base)
    else (s.modMe fun st => { st with ports := tset Port.none st.ports n.toNat p }).issued)))

/-- QRST (R208). -/
def execQrst (n : BitVec 6) (s : State) : Out :=
  .next (s.modMe fun st => { st with ports := tmod Port.none st.ports n.toNat fun p => { p with cursor := 0 } }).issued

end Sys2Proof.Machine
end

