-- ==== Sys2Proof/Machine/Trt.lean ====
section
/-! DEFINITION. Machine/Trt.lean: coordinates of iterations (R40), the tile readiness table: declarations, holding,
publishing, generations, the coarse fallback, and faults of iterations that have not started (R105-R108, R323, R349). -/
namespace Sys2Proof.Machine

/-! Coordinates and declared tiles. -/

/-- Iterations of a list of spatial levels. -/
def countOf (ls : List LoopEnt) : Nat := ls.foldl (fun n l => n * l.count) 1

/-- The coordinate bound to a slot for a linear index, the last level varying fastest (R40); 0 when no level is bound. -/
def coordOf : List LoopEnt → Nat → Nat → Nat
  | [], _, _ => 0
  | l :: ls, slot, idx =>
    if l.slot = slot then l.start + idx / countOf ls % l.count * l.step else coordOf ls slot idx

/-- The coordinate that a register g1 to g3 is preloaded with (R39, R40). -/
def LbRec.coord (b : LbRec) (slot idx : Nat) : W64 := BitVec.ofNat 64 (coordOf b.spatial slot idx)

/-- The tile of a declaration at coordinates (R37). -/
def Decl.key (d : Decl) (c1 c2 c3 : W64) : Key :=
  ⟨c1.setWidth 16 + d.off1.signExtend 16, c2.setWidth 16 + d.off2.signExtend 16, c3.setWidth 16 + d.off3.signExtend 16⟩

/-- The tile of a declaration for an iteration of a block. -/
def LbRec.key (b : LbRec) (d : Decl) (idx : Nat) : Key := d.key (b.coord 1 idx) (b.coord 2 idx) (b.coord 3 idx)

/-! Buffer records and entries (R105). -/

/-- A buffer record as at power-on: fresh, fine. -/
def Buf.init (ctx b : Nat) : Buf := ⟨ctx, b, false, 0, true, 0, [], [], [], []⟩

/-- The record of a buffer. -/
def WorkState.buf (w : WorkState) (ctx b : Nat) : Buf :=
  (w.bufs.find? fun x => x.ctx = ctx && x.buffer = b).getD (Buf.init ctx b)

/-- A buffer record put in place. -/
def WorkState.setBuf (w : WorkState) (x : Buf) : WorkState :=
  { w with bufs := x :: w.bufs.filter fun y => !(y.ctx = x.ctx && y.buffer = x.buffer) }

/-- The entry of a tile. -/
def WorkState.entry (w : WorkState) (ctx b : Nat) (k : Key) : Option TrtEntry :=
  w.trt.find? fun e => e.ctx = ctx && e.buffer = b && e.key = k

/-- An entry put in place. -/
def WorkState.setEntry (w : WorkState) (e : TrtEntry) : WorkState :=
  { w with trt := e :: w.trt.filter fun y => !(y.ctx = e.ctx && y.buffer = e.buffer && y.key = e.key) }

/-- Entries free in the whole table. -/
def WorkState.trtFree (w : WorkState) : Nat := Config.trtDepth - w.trt.length

/-- The coarse condition of R108 for the live generation. -/
def Buf.complete (x : Buf) : Bool :=
  let n := tget 0 x.placed x.live.toNat
  n ≠ 0 && x.count.toNat = n

/-- A publish count one higher, saturating (R105, R201). -/
def satSucc (c : BitVec 32) : BitVec 32 := if c = BitVec.allOnes 32 then c else c + 1

/-- Iterations of a block placed with output declarations (R105, R323). -/
def State.placeOutputs (s : State) (b : Nat) : State :=
  match s.blockAt b with
  | none => s
  | some x => x.lb.decls.foldl (fun s d =>
      if d.output then s.modWork fun w =>
        let y := w.buf x.ctx d.buffer
        w.setBuf { y with
          placed := tmod 0 y.placed d.gen (· + x.lb.total)
          prods := (x.graph, x.task, BitVec.ofNat 8 d.gen) :: y.prods }
      else s) s

/-! Iterations that end or become ready. -/

/-- Every iteration of a launch block has ended (R272, R277): a deadline miss is recorded, and the block leaves. -/
def State.finishBlock (s : State) (b : Nat) : State :=
  match s.blockAt b with
  | none => s
  | some x =>
    let pt := s.pt cd
    let s := if x.deadline < pt then
        (s.modTime fun t => { t with log := t.log ++ [.missBlock x.addr (pt - x.deadline)] }).modCtx x.ctx
          fun c => { c with misses := c.misses + 1 }
      else s
    (s.removeBlock b).modWork (·.forget b)

/-- One more iteration of a launch block has ended. -/
def State.iterationDone (s : State) (b : Nat) : State :=
  match s.blockAt b with
  | none => s
  | some x =>
    let s := s.setBlock b (some { x with done := x.done + 1 })
    if x.done + 1 = x.lb.total then s.finishBlock b else s

/-- A hold of one iteration for one declaration removed from every entry and record. -/
def WorkState.unhold (w : WorkState) (p : HeldIt → Bool) : WorkState :=
  { w with
    trt := w.trt.map fun e => { e with held := e.held.filter fun h => !p h }
    bufs := w.bufs.map fun e => { e with held := e.held.filter fun h => !p h } }

/-- The iteration is held for some declaration. -/
def WorkState.isHeld (w : WorkState) (b idx : Nat) : Bool :=
  (w.trt.any fun e => e.held.any fun h => h.block = b && h.idx = idx) ||
  (w.bufs.any fun e => e.held.any fun h => h.block = b && h.idx = idx)

/-- A held iteration returns ready to its die (R43, R275). -/
def State.returnReady (s : State) (b idx : Nat) : State :=
  match s.blockAt b with
  | none => s
  | some x => match x.held.find? fun h => h.1 = idx with
    | none => s
    | some h =>
      let s := s.setBlock b (some { x with held := x.held.filter (· ≠ h), ready := x.ready ++ [h] })
      s.modDisp h.2 fun d => if d.slots.contains b then d else { d with returned := d.returned ++ [(b, idx)] }

/-- A declaration of a held iteration is satisfied: with the last one, the iteration returns ready (R107). -/
def State.satisfy (s : State) (h : HeldIt) : State :=
  let s := s.modWork (·.unhold (· = h))
  if s.work.isHeld h.block h.idx then s else s.returnReady h.block h.idx

/-- Iterations held on a buffer record in coarse mode, released when the coarse condition holds (R106, R108). -/
def State.releaseCoarse (s : State) (ctx b : Nat) : State :=
  let y := s.work.buf ctx b
  if y.coarse && y.complete then
    (y.held.filter fun h => match s.blockAt h.block with
      | some x => ((x.lb.decls[h.decl]?).map (·.gen)) = some y.live.toNat
      | none => false).foldl (·.satisfy ·) s
  else s

/-- The switch to coarse mode (R108). With its last entry freed the record is fresh again (R105). -/
def State.toCoarse (s : State) (ctx b : Nat) : State :=
  let es := s.work.trt.filter fun e => e.ctx = ctx && e.buffer = b
  let s := s.modWork fun w =>
    let y := w.buf ctx b
    ({ w with trt := w.trt.filter fun e => !(e.ctx = ctx && e.buffer = b) }).setBuf
      { y with coarse := true, fresh := y.fresh || es ≠ [], held := y.held ++ (es.map fun e : TrtEntry => e.held).flatten }
  s.modCtx ctx fun c => { c with trtfb := satSucc c.trtfb }

/-! Evaluating a declaration (R107, R323). -/

/-- A fresh record takes a generation as live (R106, R107). -/
def Buf.open_ (y : Buf) (g : BitVec 8) : Buf :=
  if y.fresh then { y with fresh := false, live := g, shed := y.shed.filter fun h => (h - g).toNat < 128 } else y

/-- What an input declaration's evaluation answers. -/
inductive DeclOut where
  | satisfied | held | stale | shed
  deriving DecidableEq, Repr

/-- The evaluation of an input declaration of an iteration, with no effect: on a fresh record its generation counts as live. -/
def State.declState (s : State) (b idx di : Nat) : DeclOut :=
  match s.blockAt b with
  | none => .satisfied
  | some x => match x.lb.decls[di]? with
    | none => .satisfied
    | some d =>
      if d.output || x.excused.contains (idx, di) then .satisfied
      else
        let g : BitVec 8 := BitVec.ofNat 8 d.gen
        let y := (s.work.buf x.ctx d.buffer).open_ g
        let wait : DeclOut := if y.shed.contains g then .shed else .held
        if 128 ≤ (g - y.live).toNat then .stale
        else if g ≠ y.live then wait
        else if y.coarse then if y.complete then .satisfied else wait
        else match s.work.entry x.ctx d.buffer (x.lb.key d idx) with
          | some e => if e.published then .satisfied else wait
          | none => wait

/-- An iteration held for an unsatisfied declaration (R107). -/
def State.holdDecl (s : State) (b idx di : Nat) : State :=
  match s.blockAt b with
  | none => s
  | some x => match x.lb.decls[di]? with
    | none => s
    | some d =>
      let g : BitVec 8 := BitVec.ofNat 8 d.gen
      let h : HeldIt := ⟨b, idx, di⟩
      let k := x.lb.key d idx
      let s := s.modWork fun w => w.setBuf ((w.buf x.ctx d.buffer).open_ g)
      let y := s.work.buf x.ctx d.buffer
      let onRecord (s : State) : State := s.modWork fun w =>
        let y := w.buf x.ctx d.buffer
        w.setBuf { y with held := y.held ++ [h] }
      if g ≠ y.live || y.coarse then onRecord s
      else match s.work.entry x.ctx d.buffer k with
        | some e => s.modWork fun w => w.setEntry { e with held := e.held ++ [h] }
        | none =>
          if s.work.trtFree = 0 then (onRecord (s.toCoarse x.ctx d.buffer)).releaseCoarse x.ctx d.buffer
          else s.modWork fun w => w.setEntry ⟨x.ctx, d.buffer, k, y.live, false, [h]⟩

/-- Declarations of a block, by number. -/
def State.declNums (s : State) (b : Nat) : List Nat :=
  match s.blockAt b with
  | some x => upto x.lb.decls.length
  | none => []

/-- An iteration's declarations registered: each unsatisfied one holds it. -/
def State.holdAll (s : State) (b idx : Nat) : State :=
  (s.declNums b).foldl (fun s di => if s.declState b idx di = .held then s.holdDecl b idx di else s) s

/-- The first step of an evaluation, for every input declaration of an iteration in turn: a fresh record takes its generation as
live (R107). -/
def State.openAll (s : State) (b idx : Nat) : State :=
  match s.blockAt b with
  | none => s
  | some x => (x.lb.decls.zipIdx).foldl (fun s d =>
      if d.1.output || x.excused.contains (idx, d.2) then s
      else s.modWork fun w => w.setBuf ((w.buf x.ctx d.1.buffer).open_ (BitVec.ofNat 8 d.1.gen))) s

/-- The first declaration of an iteration whose evaluation faults. -/
def State.declFault (s : State) (b idx : Nat) : Option (Nat × Cause) :=
  (s.declNums b).findSome? fun di => match s.declState b idx di with
    | .stale => some (di, .staleTag)
    | .shed => some (di, .shed)
    | _ => none

/-- An iteration leaves the table and the pool without being dispatched: it counts as completed with a fault (R349). -/
def State.dropIteration (s : State) (b idx : Nat) : State :=
  let s := s.modWork fun w =>
    let w := w.unhold fun h => h.block = b && h.idx = idx
    { w with poolHeld := w.poolHeld.filter (· ≠ (b, idx)), refilled := w.refilled.filter (· ≠ (b, some idx)) }
  (s.modBlock b fun x => { x with
    held := x.held.filter fun h => h.1 ≠ idx, ready := x.ready.filter fun h => h.1 ≠ idx }).iterationDone b

/-- The iteration stands among the held ones of its die. -/
def Block.hold (x : Block) (idx die : Nat) : Block :=
  if x.held.any fun h => h.1 = idx then x
  else { x with held := x.held ++ [(idx, die)], ready := x.ready.filter fun h => h.1 ≠ idx }

/-- A fault of an iteration before its tile task starts, at its tile-task level (R349). -/
def State.faultIteration (s : State) (b idx di : Nat) (c : Cause) : State :=
  match s.blockAt b with
  | none => s
  | some x =>
    let f := s.faultOfBlock b idx
    match x.lb.ttPolicy with
    | .ignore =>
      ((s.logFault f c Rec.zero .tileTask .ignore).modBlock b fun x =>
        { x with excused := x.excused ++ [(idx, di)] }).satisfy ⟨b, idx, di⟩
    | .retry =>
      let s := s.logFault f c Rec.zero .tileTask .retry
      if x.retriedIts.contains idx then s.dropIteration b idx
      else
        let s := s.modWork (·.unhold fun h => h.block = b && h.idx = idx)
        let s := (s.modBlock b fun x => { x with retriedIts := x.retriedIts ++ [idx] }).openAll b idx
        match s.declFault b idx with
        | some (_, c') => (s.logFault f c' Rec.zero .tileTask .retry).dropIteration b idx
        | none =>
          let s := s.holdAll b idx
          if s.work.isHeld b idx then s else s.returnReady b idx
    | .killSelf => (s.logFault f c Rec.zero .tileTask .killSelf).dropIteration b idx
    | .killParent =>
      let s := s.containBlock f c Rec.zero
      if x.lb.lbPolicy = .ignore then s.dropIteration b idx else s

/-- An iteration stands before its tile task: held or returned ready. -/
def State.pendingIt (s : State) (b idx : Nat) : Bool :=
  match s.blockAt b with
  | some x => (x.held ++ x.ready).any fun h => h.1 = idx
  | none => false

/-- Iterations held for declarations, faulted one after another; one that an earlier fault has ended faults no more. -/
def State.faultHeld (s : State) (c : Cause) (hs : List HeldIt) : State :=
  hs.foldl (fun s h => if s.pendingIt h.block h.idx then s.faultIteration h.block h.idx h.decl c else s) s

/-- Iterations held on a buffer record evaluated again when L has advanced (R107); one that an earlier fault has ended is not. -/
def State.reevaluate (s : State) (hs : List HeldIt) : State :=
  hs.foldl (fun s h =>
    if !s.pendingIt h.block h.idx then s
    else match s.declState h.block h.idx h.decl with
    | .satisfied => s.satisfy h
    | .held => (s.modWork (·.unhold (· = h))).holdDecl h.block h.idx h.decl
    | .stale => s.faultIteration h.block h.idx h.decl .staleTag
    | .shed => s.faultIteration h.block h.idx h.decl .shed) s

/-- The live generation advances (R106, R107): the old entries are freed, their held iterations fault, and those held on
the record are evaluated again. DEDUCED (log entry 115): the fresh bit that freeing the last entry sets is clear again at once, as
the generation that is being published becomes live. -/
def State.advance (s : State) (ctx b : Nat) (g : BitVec 8) : State :=
  let es := s.work.trt.filter fun e => e.ctx = ctx && e.buffer = b
  let waiting := (s.work.buf ctx b).held
  let s := s.modWork fun w =>
    let w := { w with trt := w.trt.filter fun e => !(e.ctx = ctx && e.buffer = b) }
    let y := w.buf ctx b
    let newer (h : BitVec 8) : Bool := (h - g).toNat < 128
    w.setBuf { y with
      live := g, count := 0
      coarse := y.coarse && w.trtFree < 4096
      placed := tfilter (fun k _ => newer (BitVec.ofNat 8 k)) y.placed
      prods := y.prods.filter fun p => newer p.2.2
      shed := y.shed.filter newer }
  (s.faultHeld .staleTag (es.map fun e : TrtEntry => e.held).flatten).reevaluate waiting

/-- The generation check of a publish: the generation is older than L (R106). -/
def State.stalePublish (s : State) (ctx b : Nat) (g : BitVec 8) : Bool :=
  let y := s.work.buf ctx b
  !y.fresh && 128 ≤ (g - y.live).toNat

/-- A publish whose generation is not stale (R106). -/
def State.publish (s : State) (ctx b : Nat) (k : Key) (g : BitVec 8) : State :=
  let s := s.modWork fun w => w.setBuf ((w.buf ctx b).open_ g)
  let s := if (s.work.buf ctx b).live = g then s else s.advance ctx b g
  let counted (s : State) : State := s.modWork fun w =>
    let y := w.buf ctx b
    w.setBuf { y with count := satSucc y.count }
  let y := s.work.buf ctx b
  if y.coarse then (counted s).releaseCoarse ctx b
  else match s.work.entry ctx b k with
    | some e =>
      if e.published then s
      else
        let s := counted (s.modWork fun w => w.setEntry { e with published := true, held := [] })
        e.held.foldl (fun s h =>
          if s.work.isHeld h.block h.idx then s else s.returnReady h.block h.idx) s
    | none =>
      if s.work.trtFree = 0 then (counted (s.toCoarse ctx b)).releaseCoarse ctx b
      else counted (s.modWork fun w => w.setEntry ⟨ctx, b, k, y.live, true, []⟩)

/-- A task is shed: the unpublished tiles of every buffer and generation that it placed; in coarse mode every consumer held on
the record faults (R323). DEDUCED (log entry 116): in coarse mode that is every consumer, of whatever generation. -/
def State.shedTiles (s : State) (g t : Nat) : State :=
  s.work.bufs.foldl (fun s y =>
    match (y.prods.filter fun p => p.1 = g && p.2.1 = t).map (·.2.2) with
    | [] => s
    | gens =>
      let s := s.modWork fun w =>
        let y := w.buf y.ctx y.buffer
        w.setBuf { y with shed := y.shed ++ gens }
      let onRecord := y.held.filter fun h => y.coarse || match s.blockAt h.block with
        | some x => ((x.lb.decls[h.decl]?).map fun d => gens.contains (BitVec.ofNat 8 d.gen)) = some true
        | none => false
      let dead := s.work.trt.filter fun e =>
        e.ctx = y.ctx && e.buffer = y.buffer && gens.contains e.gen && !e.published
      let s := s.modWork fun w =>
        let w := { w with trt := w.trt.filter fun e =>
          !(e.ctx = y.ctx && e.buffer = y.buffer && gens.contains e.gen && !e.published) }
        if dead ≠ [] && !(w.trt.any fun e => e.ctx = y.ctx && e.buffer = y.buffer) then
          w.setBuf { w.buf y.ctx y.buffer with fresh := true }
        else w
      s.faultHeld .shed (onRecord ++ (dead.map fun e : TrtEntry => e.held).flatten)) s

/-! The words (R200, R201). -/

/-- A declaration of the acting tile task, with its tile at the coordinates preloaded at strand start. -/
def State.myDecl (s : State) (n : Nat) : Option (Decl × Key) :=
  match s.myTt with
  | none => none
  | some t => match s.blockAt t.block with
    | none => none
    | some x => (x.lb.decls[n]?).map fun d => (d, d.key t.g1 t.g2 t.g3)

/-- The 32-byte buffer descriptor of a declaration, as a byte range for a tile (R37). DESIGN CHOICE (log entry 105): the 64
reserved bits are not looked at, and the strides are unsigned. -/
def tileRange (bs : List Byte) (k : Key) : W64 × Nat :=
  let w (o n : Nat) : Nat := leNat ((bs.drop o).take n)
  (BitVec.ofNat 64 (w 0 8 + k.c1.toNat * w 8 4 + k.c2.toNat * w 12 4 + k.c3.toNat * w 16 4), w 20 4)

/-- The read of a descriptor waits for its home or for a walk (R61, R333). -/
def State.descHeld (s : State) (core ctx : Nat) (d : Decl) (n : Nat) : Bool :=
  s.walkHeld (dieOfCore core) (some core) ctx d.desc n || match s.access (some core) ctx d.desc n .read false with
  | .ok ps _ => !s.homesFree (dieOfCore core) ps
  | _ => false

/-- Bytes of a descriptor read at its home for the acting strand (R37). -/
def State.descriptor (s : State) (d : Decl) (n : Nat) : Res (List Byte) :=
  match s.myAccess d.desc n .read with
  | .trap c r s => .trap c r s
  | .wait s => .wait s
  | .ok ps s => .ok (s.readParts ps).1 (s.touchParts s.myCtx ps)

/-- Stores of a strand that a range release still waits for (R62, R106): physical lines of the range. -/
def Strand.storesIn (st : Strand) (ls : List (Nat × Nat)) : Bool :=
  st.sq.any fun o => o.parts.any fun p => ls.any fun l => p.pa / 128 ≤ l.2 && l.1 ≤ (p.pa + p.len - 1) / 128

/-- The iteration records a publication of a declaration; a second one is not made (R106). -/
def State.notePublished (s : State) (b idx di : Nat) : State :=
  s.modBlock b fun x => { x with published := x.published ++ [(idx, di)] }

/-- The iteration has published the declaration (R106). -/
def State.hasPublished (s : State) (b idx di : Nat) : Bool :=
  match s.blockAt b with
  | some x => x.published.contains (idx, di)
  | none => false

/-- TAGPUB n (R106, R200). The update waits for the module to the control die (R333). -/
def execTagpub (n : BitVec 3) (s : State) : Out :=
  .next (s.outsideTxn (
    match s.myDecl n.toNat, s.myTt with
    | some (d, k), some t =>
      if !d.output then s.trap .badDecl Rec.zero
      else s.afterRels (
        if s.hasPublished t.block t.idx n.toNat then s.issued
        else if s.descHeld s.myCore s.myCtx d 32 then s.holds
        else s.ctlTurn (·.trap .memControlError (Rec.addr d.desc)) (match s.descriptor d 32 with
          | .trap c r s => s.trap c r
          | .wait s => s.awaitFrame d.desc (s.trap .commitFail (Rec.addr d.desc))
          | .ok bs s =>
            let (base, len) := tileRange bs k
            if s.readStrand.storesIn (s.linesOf s.myCore s.myCtx base len) || !s.reaches s.myDie cd then s.holds
            else if s.stalePublish t.ctx d.buffer (BitVec.ofNat 8 d.gen) then s.trap .staleTag Rec.zero
            else ((s.notePublished t.block t.idx n.toNat).publish t.ctx d.buffer k (BitVec.ofNat 8 d.gen)).issued))
    | _, _ => s.trap .badDecl Rec.zero))

/-- The snapshot that TAGQ returns (R201). DESIGN CHOICE (log entry 112): it is that of the entry or of the record, whatever the
declaration's generation. -/
def State.tagSnapshot (s : State) (ctx : Nat) (d : Decl) (k : Key) : W64 :=
  let y := s.work.buf ctx d.buffer
  let e := if y.coarse then none else s.work.entry ctx d.buffer k
  let pub := if y.coarse then y.complete else (e.map (·.published)).getD false
  let n := (e.map (·.held.length)).getD 0
  y.count ++ (BitVec.ofNat 16 n ++ (y.live ++
    BitVec.ofNat 8 ((if pub then 1 else 0) + (if y.coarse then 2 else 0) + if y.fresh then 4 else 0)))

/-- TAGQ gd, n (R201), once traffic crosses to the control die (R333). -/
def execTagq (d : GReg) (n : BitVec 3) (s : State) : Out :=
  .next (match s.myDecl n.toNat, s.myTt with
    | some (x, k), some t => if !s.reaches s.myDie cd then s.holds else s.ctlTurn (·.trapD .memControlError Rec.zero d) (s.plain d (s.tagSnapshot t.ctx x k))
    | _, _ => s.trapD .badDecl Rec.zero d)

end Sys2Proof.Machine
end

