-- ==== Sys2Proof/Machine/Postbox.lean ====
section
/-! DEFINITION. Machine/Postbox.lean: postboxes (R111, R112, R203), performed at the home of the control block. -/
namespace Sys2Proof.Machine

/-- A control block as it is read: ring base, capacity in messages, head and tail. -/
structure Postbox where
  ring : W64
  cap : Nat
  head : W32
  tail : W32
  deriving DecidableEq, Repr

/-- A control block of 16 bytes (R111): none when its size is 0 or above 16. -/
def postboxOf (bs : List Byte) : Option Postbox :=
  let a := leNat (bs.take 8)
  let b := leNat (bs.drop 8)
  let size := bits a 0 6
  if size = 0 ∨ 16 < size then none
  else some ⟨BitVec.ofNat 64 (a / 64 * 64), 2 ^ size, BitVec.ofNat 32 b, BitVec.ofNat 32 (b / 2 ^ 32)⟩

/-- Messages in the ring. -/
def Postbox.used (p : Postbox) : Nat := (p.tail - p.head).toNat

/-- The slot of a message count. -/
def Postbox.slot (p : Postbox) (n : W32) : W64 := p.ring + BitVec.ofNat 64 (64 * (n.toNat % p.cap))

/-- The copies of the lines of an access that the acting core and its die hold, dropped (R90). -/
def State.dropParts (s : State) (ps : List Part) : State :=
  ps.foldl (fun s p => s.dropCopies s.myCore (p.pa / 128)) s

/-- A postbox operation on some bytes goes on at their homes: traffic crosses, the slices owe no due part, and nothing to be
written lies in a moving frame (R61, R333, R338). -/
def State.atHomes (s : State) (ps : List Part) (write : Bool) (k : State → State) : State :=
  if !s.homesFree s.myDie ps || write && ps.any fun p => s.mem.bounces p.pa then s.holds else k (s.touchParts s.myCtx ps)

/-- The control block of postbox g[a] read at its home (R111, R113). -/
def State.withPostbox (s : State) (d a : GReg) (need : Need) (k : Postbox → List Part → State → State) : State :=
  let n := (s.g a).toNat
  match s.ctxAt s.myCtx with
  | none => s.trapD .postboxRange Rec.zero d
  | some c =>
    if c.mbCount.toNat ≤ n then s.trapD .postboxRange Rec.zero d
    else
      let cb := c.mbBase + BitVec.ofNat 64 (16 * n)
      s.withAccess cb 16 need (State.lost d) fun ps s => s.atHomes ps (need = .write) fun s =>
        let (bs, bad) := s.readParts ps
        if bad then s.trapD .memControlError (Rec.addr cb) d
        else match postboxOf bs with
          | none => s.trapD .translation (Rec.addr cb) d
          | some p => k p ps s

/-- The scratchpad address of a message: 64-byte aligned, in the window (R203). -/
def State.withMessage (s : State) (d a b : GReg) (k : Nat → State) : State :=
  let (base, len) := s.window
  s.outsideTxn (s.whenReady [a, b] (s.clean [a, b] (s.lost d) (
    match spmCheck base len (s.g b) 64 64 false with
    | some c => s.trapD c (Rec.addr (s.g b)) d
    | none => if s.readStrand.spmPending (s.g b).toNat 64 then s.holds else k (s.g b).toNat)))

/-- Everything the strand stored before is performed (R98). -/
def State.released (s : State) : Bool :=
  s.relDone s.myNum s.me ⟨s.me.sn, (s.coreAt s.myCore).nextCmd, false⟩

/-- A doubleword of a control block, head and tail, written at its home. -/
def State.writeCounts (s : State) (ps : List Part) (head tail : W32) : State :=
  s.writeParts s.myCtx (leBytes 4 head.toNat ++ leBytes 4 tail.toNat) false
    (ps.filterMap fun p => if p.off + p.len ≤ 8 then none
      else some { p with off := p.off + (8 - p.off) - 8, pa := p.pa + (8 - p.off), len := p.len - (8 - p.off) })

/-- MBSEND (R112, R203). -/
def execMbsend (d a b : GReg) (s : State) : Out :=
  .next (s.withMessage d a b fun m =>
    if !s.released then s.holds
    else s.withPostbox d a .write fun p cb s =>
      if p.used = p.cap then ((s.dropParts cb).setG d 1 false).issued
      else s.withAccess (p.slot p.tail) 64 .write (State.lost d) fun ps s => s.atHomes ps true fun s =>
          let (bs, t) := s.readCore.spmRead m 64
          let s := s.writeParts s.myCtx bs t ps
          let s := s.writeCounts cb p.head (p.tail + 1)
          (((s.dropParts ps).dropParts cb).setG d 0 false).issued)

/-- MBRECV (R112, R203). -/
def execMbrecv (d a b : GReg) (s : State) : Out :=
  .next (s.withMessage d a b fun m => s.afterLoads
    (s.withPostbox d a .write fun p cb s =>
      if p.used = 0 then ((s.dropParts cb).setG d 1 false).issued
      else s.withAccess (p.slot p.head) 64 .write (State.lost d) fun ps s => s.atHomes ps false fun s =>
          let (bs, t) := s.readParts ps
          let s := s.spmStore [pushBytes m 64 (leNat bs)] t
          let s := s.writeCounts cb (p.head + 1) p.tail
          let s := (s.dropParts ps).dropParts cb
          ((s.acquire s.myCore s.myCtx .core none).setG d 0 false).issued))

/-- MBPOLL (R112, R203). -/
def execMbpoll (d a : GReg) (s : State) : Out :=
  .next (s.outsideTxn (s.whenReady [a] (s.clean [a] (s.lost d)
    (s.withPostbox d a .read fun p cb s =>
      ((s.dropParts cb).setG d (BitVec.ofNat 64 p.used) false).issued))))

end Sys2Proof.Machine
end

