-- ==== Sys2Proof/Machine/Float.lean ====
section
/-! DEFINITION. Machine/Float.lean: number formats (R116, R119), exact values, rounding (R122-R126), NaN results (R125),
the counter hash and stochastic rounding (R127, R128), block scales (R130) and the exact and correctly rounded operations
(R120, R218). -/
namespace Sys2Proof.Machine

/-! Formats. -/

/-- A floating format: exponent and fraction widths, bias, the largest finite magnitude. -/
structure Fmt where
  ew : Nat
  fw : Nat
  bias : Nat
  top : Nat
  deriving DecidableEq, Repr

/-- The format of a floating type code, 8 to 13 (R119). -/
def fmtOf (ty : Nat) : Fmt :=
  match ty with
  | 8 => ⟨8, 23, 127, 0x7F7FFFFF⟩
  | 9 => ⟨5, 10, 15, 0x7BFF⟩
  | 10 => ⟨8, 7, 127, 0x7F7F⟩
  | 11 => ⟨4, 3, 7, 0x7E⟩
  | 12 => ⟨5, 2, 15, 0x7B⟩
  | _ => ⟨2, 1, 1, 0x7⟩

/-- Width of a format with its sign. -/
def Fmt.width (f : Fmt) : Nat := 1 + f.ew + f.fw

/-- The exponent of the least subnormal. -/
def Fmt.qmin (f : Fmt) : Int := 1 - (f.bias : Int) - f.fw

/-- A value: a NaN with its sign and its fraction aligned to 23 bits, an infinity, or ±m·2^e. -/
inductive FVal where
  | nan (neg : Bool) (frac : Nat)
  | inf (neg : Bool)
  | fin (neg : Bool) (m : Nat) (e : Int)
  deriving DecidableEq, Repr

/-- Whether type codes 8 to 10: the formats that ftz acts on (R122). -/
def flushes (ty : Nat) : Bool := 8 ≤ ty && ty ≤ 10

/-- The value of an element of a floating type (R119); with `ftz`, a subnormal reads as zero (R122). -/
def unpack (ty : Nat) (ftz : Bool) (x : Nat) : FVal :=
  let f := fmtOf ty
  let neg := bits x (f.ew + f.fw) 1 = 1
  let e := bits x f.fw f.ew
  let m := bits x 0 f.fw
  if ty ≠ 13 && e = 2 ^ f.ew - 1 && (ty ≠ 11 || m = 7) then
    if m = 0 && ty ≠ 11 then .inf neg else .nan neg (m * 2 ^ (23 - f.fw))
  else if e = 0 then
    if ftz && flushes ty then .fin neg 0 0 else .fin neg m f.qmin
  else .fin neg (m + 2 ^ f.fw) ((e : Int) - f.bias - f.fw)

/-- Rounding modes (R121). -/
inductive Rnd where
  | rne | rz | ru | rd
  deriving DecidableEq, Repr

/-- How results are rounded, flushed and saturated (R121, R122). -/
structure FEnv where
  rm : Rnd
  ftz : Bool
  canon : Bool
  sat : Bool
  deriving DecidableEq, Repr

/-- The canonical NaN of a format (R119, R125). -/
def canonNan (ty : Nat) : Nat :=
  match ty with
  | 8 => 0x7FC00000
  | 9 => 0x7E00
  | 10 => 0x7FC0
  | 11 => 0x7F
  | 12 => 0x7E
  | _ => 0

/-- The sign bit of a format. -/
def signBit (ty : Nat) (neg : Bool) : Nat := if neg then 2 ^ ((fmtOf ty).width - 1) else 0

/-- A NaN operand as a result of a format (R125). -/
def nanAs (ty : Nat) (neg : Bool) (frac : Nat) : Nat :=
  let f := fmtOf ty
  if ty = 13 then 0
  else if ty = 11 then signBit ty neg + 0x7F
  else signBit ty neg + (2 ^ f.ew - 1) * 2 ^ f.fw + (frac / 2 ^ (23 - f.fw) ||| 2 ^ (f.fw - 1))

/-- A NaN result: the first NaN among the operands, or the canonical one (R125). -/
def nanResult (ty : Nat) (env : FEnv) (xs : List FVal) : Nat :=
  if env.canon then canonNan ty
  else match xs.findSome? fun x => match x with
      | .nan s f => some (nanAs ty s f)
      | _ => none with
    | some v => v
    | none => canonNan ty

/-- An exact infinity in a format (R124): the formats without infinities give NaN or their largest value. `clamp` asks for
the largest finite value (FPMODE.sat in a conversion). -/
def infResult (ty : Nat) (env : FEnv) (neg clamp : Bool) : Nat :=
  let f := fmtOf ty
  if ty = 13 then signBit ty neg + f.top
  else if clamp then signBit ty neg + f.top
  else if ty = 11 then (if env.canon then 0x7F else signBit ty neg + 0x7F)
  else signBit ty neg + (2 ^ f.ew - 1) * 2 ^ f.fw

/-- What a rounded value beyond the range becomes (R124). -/
def overflow (ty : Nat) (env : FEnv) (neg : Bool) : Nat :=
  let f := fmtOf ty
  let away := match env.rm with
    | .rne => true
    | .rz => false
    | .ru => !neg
    | .rd => neg
  if away && !env.sat && ty ≠ 13 then infResult ty env neg false else signBit ty neg + f.top

/-- Whether the magnitude n, with a remainder r of 2^k and a sticky bit below it, is rounded up. -/
def roundsUp (rm : Rnd) (neg : Bool) (n r half : Nat) (sticky : Bool) : Bool :=
  match rm with
  | .rne => half < r || (r = half && half ≠ 0 && (sticky || n % 2 = 1))
  | .rz => false
  | .ru => !neg && (r ≠ 0 || sticky)
  | .rd => neg && (r ≠ 0 || sticky)

/-- A magnitude m·2^e, with a sticky bit for what lies below it, rounded to a multiple of 2^q. -/
def roundAt (rm : Rnd) (neg : Bool) (m : Nat) (e q : Int) (sticky : Bool) : Nat :=
  if q ≤ e then
    let n := m * 2 ^ (e - q).toNat
    n + if roundsUp rm neg n 0 0 sticky then 1 else 0
  else
    let k := (q - e).toNat
    let n := m / 2 ^ k
    n + if roundsUp rm neg n (m % 2 ^ k) (2 ^ (k - 1)) sticky then 1 else 0

/-- Round to a format, before ftz: the magnitude and sign of the result (R124). -/
def roundFin (ty : Nat) (env : FEnv) (neg : Bool) (m : Nat) (e : Int) (sticky : Bool) : Nat :=
  let f := fmtOf ty
  if m = 0 && !sticky then signBit ty neg
  else
    let top : Int := (m.log2 : Int) + e
    -- far below the least subnormal, or far above the range: the same rounding decides
    if m = 0 || top < f.qmin - 2 then signBit ty neg + roundAt env.rm neg 1 0 3 true
    else if f.qmin + f.fw + 2 ^ f.ew < top then overflow ty env neg
    else
      let q := max (top - f.fw) f.qmin
      let n := roundAt env.rm neg m e q sticky
      let mag := (q - f.qmin).toNat * 2 ^ f.fw + n
      if f.top < mag then overflow ty env neg else signBit ty neg + mag

/-- A subnormal result written as zero of its sign, with ftz (R122). -/
def flushOut (ty : Nat) (ftz : Bool) (x : Nat) : Nat :=
  let f := fmtOf ty
  if ftz && flushes ty && bits x f.fw f.ew = 0 then x / 2 ^ (f.ew + f.fw) * 2 ^ (f.ew + f.fw) else x

/-- A finite exact result rounded once (R120). -/
def roundTo (ty : Nat) (env : FEnv) (neg : Bool) (m : Nat) (e : Int) (sticky : Bool) : Nat :=
  flushOut ty env.ftz (roundFin ty env neg m e sticky)

/-- A signed exact value m·2^e rounded; `zneg` is the sign of an exact zero. -/
def roundInt (ty : Nat) (env : FEnv) (v : Int) (e : Int) (zneg : Bool) : Nat :=
  if v = 0 then signBit ty zneg else roundTo ty env (v < 0) v.natAbs e false

/-! Exact arithmetic. -/

/-- A finite value as an integer multiple of 2^q, for q at most its exponent. -/
def atExp (neg : Bool) (m : Nat) (e q : Int) : Int :=
  let v : Int := (m * 2 ^ (e - q).toNat : Nat)
  if neg then -v else v

/-- The sum of two values, rounded: the sign of an exact zero is that of the terms when they agree, else + or, rounding
down, − (R120). -/
def fadd (ty : Nat) (env : FEnv) (xs : List FVal) (a b : FVal) : Nat :=
  match a, b with
  | .nan .., _ => nanResult ty env xs
  | _, .nan .. => nanResult ty env xs
  | .inf s, .inf t => if s = t then infResult ty env s false else nanResult ty env xs
  | .inf s, _ => infResult ty env s false
  | _, .inf s => infResult ty env s false
  | .fin s m e, .fin t n g =>
    let q := min e g
    roundInt ty env (atExp s m e q + atExp t n g q) q (if s = t then s else env.rm = .rd)

/-- The exact product. -/
def fmulX (a b : FVal) : FVal :=
  match a, b with
  | .nan s f, _ => .nan s f
  | _, .nan s f => .nan s f
  | .inf s, .inf t => .inf (s ≠ t)
  | .inf s, .fin t m _ => if m = 0 then .nan false 0x400000 else .inf (s ≠ t)
  | .fin s m _, .inf t => if m = 0 then .nan false 0x400000 else .inf (s ≠ t)
  | .fin s m e, .fin t n g => .fin (s ≠ t) (m * n) (e + g)

/-- A NaN among values. -/
def FVal.isNan : FVal → Bool
  | .nan .. => true
  | _ => false

/-- The sign of a value. -/
def FVal.neg : FVal → Bool
  | .nan s _ => s
  | .inf s => s
  | .fin s .. => s

/-- A value with its sign inverted. -/
def FVal.flip : FVal → FVal
  | .nan s f => .nan s f
  | .inf s => .inf !s
  | .fin s m e => .fin (!s) m e

/-- A product rounded. -/
def fmul (ty : Nat) (env : FEnv) (a b : FVal) : Nat :=
  if a.isNan || b.isNan then nanResult ty env [a, b]
  else match fmulX a b with
    | .nan .. => nanResult ty env []
    | .inf s => infResult ty env s false
    | .fin s m e => roundTo ty env s m e false

/-- Fused multiply-add with one rounding. -/
def ffma (ty : Nat) (env : FEnv) (a b c : FVal) : Nat :=
  if a.isNan || b.isNan || c.isNan then nanResult ty env [a, b, c]
  else match fmulX a b with
    | .nan .. => nanResult ty env []
    | p => fadd ty env [] p c

/-- A quotient rounded (R218). -/
def fdiv (ty : Nat) (env : FEnv) (a b : FVal) : Nat :=
  match a, b with
  | .nan .., _ => nanResult ty env [a, b]
  | _, .nan .. => nanResult ty env [a, b]
  | .inf _, .inf _ => nanResult ty env []
  | .inf s, .fin t _ _ => infResult ty env (s ≠ t) false
  | .fin s _ _, .inf t => signBit ty (s ≠ t)
  | .fin s m e, .fin t n g =>
    if n = 0 then if m = 0 then nanResult ty env [] else infResult ty env (s ≠ t) false
    else if m = 0 then signBit ty (s ≠ t)
    else
      let k := 64 + n.log2
      roundTo ty env (s ≠ t) (m * 2 ^ k / n) (e - g - k) (m * 2 ^ k % n ≠ 0)

/-- Integer square root by Newton's method from above, over fuel. -/
def isqrtFrom : Nat → Nat → Nat → Nat
  | 0, _, x => x
  | k + 1, n, x =>
    let y := (x + n / x) / 2
    if y < x then isqrtFrom k n y else x

/-- The integer square root. -/
def isqrt (n : Nat) : Nat := if n = 0 then 0 else isqrtFrom (n.log2 + 2) n (2 ^ (n.log2 / 2 + 1))

/-- A value m·2^e with an even exponent and m at least 2^lo. -/
def evenExp (m : Nat) (e : Int) (lo : Nat) : Nat × Int :=
  let k := lo + if (e - lo) % 2 = 0 then 0 else 1
  (m * 2 ^ k, e - k)

/-- A square root rounded (R218). -/
def fsqrt (ty : Nat) (env : FEnv) (a : FVal) : Nat :=
  match a with
  | .nan .. => nanResult ty env [a]
  | .inf s => if s then nanResult ty env [] else infResult ty env false false
  | .fin s m e =>
    if m = 0 then signBit ty s
    else if s then nanResult ty env []
    else
      let (n, g) := evenExp m e 128
      let r := isqrt n
      roundTo ty env false r (g / 2) (r * r ≠ n)

/-- 1 ÷ a rounded (R218). -/
def frcp (ty : Nat) (env : FEnv) (a : FVal) : Nat := if a.isNan then nanResult ty env [a] else fdiv ty env (.fin false 1 0) a

/-- 1 ÷ √a rounded (R218). -/
def frsq (ty : Nat) (env : FEnv) (a : FVal) : Nat :=
  match a with
  | .nan .. => nanResult ty env [a]
  | .inf s => if s then nanResult ty env [] else signBit ty false
  | .fin s m e =>
    if m = 0 then infResult ty env s false
    else if s then nanResult ty env []
    else
      let (n, g) := evenExp m e 0
      let k := 128 + n.log2
      let r := isqrt (2 ^ (2 * k) / n)
      roundTo ty env false r (-(g / 2) - k) (r * r * n ≠ 2 ^ (2 * k))

/-! Transcendental functions in fixed point, with 320 bits below the point: enough for the correct rounding of every
operand (log entry 14). -/

/-- Bits below the point. -/
def fixP : Nat := 320

/-- Σ x^k/k! from a term on. -/
def expTerms : Nat → Nat → Nat → Nat → Nat
  | 0, _, _, _ => 0
  | fuel + 1, k, t, x => t + expTerms fuel (k + 1) (t * x / 2 ^ fixP / (k + 1)) x

/-- e^x for 0 ≤ x < 1. -/
def fixExp (x : Nat) : Nat := expTerms 90 0 (2 ^ fixP) x

/-- Σ z^(2k+1)/(2k+1) from a term on. -/
def atanhTerms : Nat → Nat → Nat → Nat → Nat
  | 0, _, _, _ => 0
  | fuel + 1, k, t, z2 => t / (2 * k + 1) + atanhTerms fuel (k + 1) (t * z2 / 2 ^ fixP) z2

/-- ln of n/d for 1 ≤ n/d ≤ 2. -/
def fixLn (n d : Nat) : Nat :=
  let z := (n - d) * 2 ^ fixP / (n + d)
  2 * atanhTerms 110 0 z (z * z / 2 ^ fixP)

/-- ln 2. -/
def fixLn2 : Nat := fixLn 2 1

/-- 2^a rounded, for a = v·2^e (R218). -/
def exp2Fin (ty : Nat) (env : FEnv) (neg : Bool) (m : Nat) (e : Int) : Nat :=
  if m = 0 then roundTo ty env false 1 0 false
  else
    let top : Int := (m.log2 : Int) + e
    if 20 < top then (if neg then roundTo ty env false 1 (-1000000) true else roundTo ty env false 1 1000000 false)
    else
      -- the operand as an integer multiple of 2^-320, exact for every format
      let x : Int := atExp neg m e (-320)
      let n : Int := x / 2 ^ fixP
      let f : Nat := (x % 2 ^ fixP).toNat
      if f = 0 then roundTo ty env false 1 n false
      else roundTo ty env false (fixExp (f * fixLn2 / 2 ^ fixP)) (n - fixP) true

/-- VFEXP2 (R218). -/
def fexp2 (ty : Nat) (env : FEnv) (a : FVal) : Nat :=
  match a with
  | .nan .. => nanResult ty env [a]
  | .inf s => if s then signBit ty false else infResult ty env false false
  | .fin s m e => exp2Fin ty env s m e

/-- log2 of m·2^e as a fixed-point number, with whether it is exact. -/
def log2Fin (m : Nat) (e : Int) : Int × Bool :=
  let l := m.log2
  let whole : Int := ((l : Int) + e) * 2 ^ fixP
  if m = 2 ^ l then (whole, true) else (whole + (fixLn m (2 ^ l) * 2 ^ fixP / fixLn2 : Nat), false)

/-- A fixed-point number rounded, with the sign of what it approximates from below. -/
def roundFix (ty : Nat) (env : FEnv) (v : Int) (exact : Bool) : Nat :=
  if v = 0 then signBit ty false
  else if v < 0 then
    -- the value lies just above v: its magnitude just below |v|
    (if exact then roundTo ty env true v.natAbs (-320) false else roundTo ty env true (v.natAbs - 1) (-320) true)
  else roundTo ty env false v.natAbs (-320) (!exact)

/-- VFLOG2 (R218). -/
def flog2 (ty : Nat) (env : FEnv) (a : FVal) : Nat :=
  match a with
  | .nan .. => nanResult ty env [a]
  | .inf s => if s then nanResult ty env [] else infResult ty env false false
  | .fin s m e =>
    if m = 0 then infResult ty env true false
    else if s then nanResult ty env []
    else
      let (v, ex) := log2Fin m e
      roundFix ty env v ex

/-- e^a rounded. -/
def fexp (ty : Nat) (env : FEnv) (a : FVal) : Nat :=
  match a with
  | .nan .. => nanResult ty env [a]
  | .inf s => if s then signBit ty false else infResult ty env false false
  | .fin s m e =>
    if m = 0 then roundTo ty env false 1 0 false
    else
      let top : Int := (m.log2 : Int) + e
      if 20 < top then (if s then roundTo ty env false 1 (-1000000) true else roundTo ty env false 1 1000000 false)
      else
        let x : Int := atExp s m e (-320)
        let n : Int := x / fixLn2
        let r : Nat := (x % fixLn2).toNat
        roundTo ty env false (fixExp r) (n - fixP) true

/-- ln a rounded. -/
def fln (ty : Nat) (env : FEnv) (a : FVal) : Nat :=
  match a with
  | .nan .. => nanResult ty env [a]
  | .inf s => if s then nanResult ty env [] else infResult ty env false false
  | .fin s m e =>
    if m = 0 then infResult ty env true false
    else if s then nanResult ty env []
    else
      let l := m.log2
      let v : Int := ((l : Int) + e) * fixLn2 + fixLn m (2 ^ l)
      roundFix ty env v (v = 0)

/-! Comparison. -/

/-- Two finite or infinite values compared: a < b, with −0 equal to +0. -/
def FVal.lt (a b : FVal) : Bool :=
  match a, b with
  | .nan .., _ => false
  | _, .nan .. => false
  | .inf s, .inf t => s && !t
  | .inf s, _ => s
  | _, .inf t => !t
  | .fin s m e, .fin t n g => atExp s m e (min e g) < atExp t n g (min e g)

/-- Two values compared for equality. -/
def FVal.eq (a b : FVal) : Bool :=
  match a, b with
  | .nan .., _ => false
  | _, .nan .. => false
  | .inf s, .inf t => s = t
  | .inf _, _ => false
  | _, .inf _ => false
  | .fin s m e, .fin t n g => atExp s m e (min e g) = atExp t n g (min e g)

/-- The IEEE 754-2019 minimum or maximum of two elements, as patterns; −0 is less than +0 (R219). -/
def fminmax (ty : Nat) (env : FEnv) (isMax : Bool) (x y : Nat) (a b : FVal) : Nat :=
  if a.isNan || b.isNan then nanResult ty env [a, b]
  else
    let less := a.lt b || (a.eq b && a.neg && !b.neg)
    if less = isMax then y else x

/-! Conversions (R124, R126). -/

/-- A value as an element of a floating format. -/
def toFloat (ty : Nat) (env : FEnv) (a : FVal) : Nat :=
  match a with
  | .nan .. => nanResult ty env [a]
  | .inf s => infResult ty env s env.sat
  | .fin s m e => roundTo ty env s m e false

/-- Range of an integer type of width w. -/
def intMin (sgn : Bool) (w : Nat) : Int := if sgn then -(2 ^ (w - 1)) else 0
/-- Range of an integer type of width w. -/
def intMax (sgn : Bool) (w : Nat) : Int := if sgn then 2 ^ (w - 1) - 1 else 2 ^ w - 1

/-- An integer clamped to a range. -/
def clamp (lo hi v : Int) : Int := if v < lo then lo else if hi < v then hi else v

/-- The low w bits of an integer. -/
def lowBits (w : Nat) (v : Int) : Nat := (v % 2 ^ w).toNat

/-- A value converted to an integer type: rounded in the mode, saturated, NaN to 0 (R126). -/
def toIntElem (sgn : Bool) (w : Nat) (rm : Rnd) (a : FVal) : Nat :=
  match a with
  | .nan .. => 0
  | .inf s => lowBits w (if s then intMin sgn w else intMax sgn w)
  | .fin s m e =>
    let big : Bool := m ≠ 0 && 64 < (m.log2 : Int) + e
    let n : Int := if big then 2 ^ 64 else roundAt rm s m e 0 false
    lowBits w (clamp (intMin sgn w) (intMax sgn w) (if s then -n else n))

/-! The counter hash and stochastic rounding. -/

/-- H(c, k) (R127). -/
def hashH (c k : Nat) : Nat :=
  let x := (c % 2 ^ 32) ^^^ (k * 0x9E3779B1 % 2 ^ 32)
  let x := x ^^^ (x / 2 ^ 16)
  let x := x * 0x7FEB352D % 2 ^ 32
  let x := x ^^^ (x / 2 ^ 15)
  let x := x * 0x846CA68B % 2 ^ 32
  x ^^^ (x / 2 ^ 16)

/-- SR rounding of an f32 element to bf16 (R128). -/
def srBf16 (ctr key x i : Nat) (ftz sat : Bool) : Nat :=
  let isNan := bits x 23 8 = 255 && bits x 0 23 ≠ 0
  if isNan then 0x7FC0
  else
    let x := if ftz && bits x 23 8 = 0 then bits x 31 1 * 2 ^ 31 else x
    let r := hashH ((ctr + i) % 2 ^ 32) key / 2 ^ 16
    let m := bits x 0 31
    let sign := bits x 31 1 * 2 ^ 15
    let y := bits (m + r) 16 15
    let y := if ftz && y / 2 ^ 7 = 0 then 0 else y
    let y := if y = 0x7F80 && m ≠ 0x7F800000 && sat then 0x7F7F else y
    sign + y

/-! Block scales (R130). -/

/-- A K9 code as it is read. -/
inductive Scale where
  | zero
  | nan
  | val (m : Nat) (e : Int)
  deriving DecidableEq, Repr

/-- A container's scale: bits [8:0]. -/
def scaleOf (x : Nat) : Scale :=
  let c := x % 512
  if c = 0 then .zero
  else if c = 1 ∨ 0x1FE ≤ c then .nan
  else .val (2 + c % 2) ((c / 2 : Nat) - 128)

/-- The value of an element under a block scale, exactly. -/
def scaled (s : Scale) (a : FVal) : FVal :=
  match s, a with
  | .zero, _ => .fin false 0 0
  | .nan, _ => .nan false 0x400000
  | .val _ _, .nan t f => .nan t f
  | .val _ _, .inf t => .inf t
  | .val m e, .fin t n g => .fin t (m * n) (e + g)

/-- The value of a code, as an exact pair. -/
def codeLe (maxF : Nat × Int) (m : Nat × Int) (c : Nat) : Bool :=
  match scaleOf c with
  | .val n g =>
    -- m ≤ maxF × scale
    let q := min m.2 (maxF.2 + g)
    atExp false m.1 m.2 q ≤ atExp false (maxF.1 * n) (maxF.2 + g) q
  | _ => false

/-- The largest finite value of a quantised format (R225). -/
def maxFinite (ty : Nat) : Nat × Int :=
  match ty with
  | 11 => (448, 0)
  | 12 => (57344, 0)
  | _ => (6, 0)

/-- The scale chosen for a block (R225). -/
def blockScale (fmt : Nat) (xs : List FVal) : Nat :=
  if xs.any fun x => match x with
      | .nan .. => true
      | .inf .. => true
      | .fin .. => false then 0x1FE
  else
    let m := xs.foldl (fun (b : FVal) x => match b, x with
      | .fin _ p e, .fin _ q g => if FVal.lt (.fin false p e) (.fin false q g) then .fin false q g else .fin false p e
      | _, _ => b) (.fin false 0 0)
    match m with
    | .fin _ p e =>
      if p = 0 then 0
      else (((upto (0x1FE - 2)).map (· + 2)).find? fun c => codeLe (maxFinite fmt) (p, e) c).getD 0x1FD
    | _ => 0x1FE

end Sys2Proof.Machine
end

