-- ==== Sys2Proof/Machine/Operands.lean ====
section
/-! DEFINITION. Machine/Operands.lean: the operands of vector words: names, ports and special operands, groups, keep bits,
masks, prior values and clauses (R145-R151, R210-R214), and the common effect of R216. -/
namespace Sys2Proof.Machine

/-! Elements (R117, R118). -/

/-- Elements of one register of a width. -/
def countAt (w : Nat) : Nat := 4096 / w

/-- Elements of a register, lowest first. -/
def elems (w : Nat) (v : Vec) : List Nat := (upto (countAt w)).map fun i => bits v.toNat (w * i) w

/-- Elements of a group in blocked order (R118). -/
def groupElems (w : Nat) (vs : List Vec) : List Nat := (vs.map (elems w)).flatten

/-- Elements to a number, lowest first. -/
def packNat (w : Nat) : List Nat → Nat
  | [] => 0
  | x :: xs => x % 2 ^ w + 2 ^ w * packNat w xs

/-- A register of elements. -/
def packVec (w : Nat) (xs : List Nat) : Vec := BitVec.ofNat 4096 (packNat w xs)

/-- The k-th register of a group of elements. -/
def packPart (w k : Nat) (xs : List Nat) : Vec := packVec w ((xs.drop (k * countAt w)).take (countAt w))

/-- Whether an integer type code is signed (R116). -/
def isSigned (ty : Nat) : Bool := ty % 2 = 0

/-- An element of an integer type as a value. -/
def intOf (ty x : Nat) : Int := if isSigned ty then signed (typeWidth ty) x else (x : Int)

/-- A floating type code (R116). -/
def isFloat (ty : Nat) : Bool := 8 ≤ ty

/-! Fields. -/

/-- The name of a source field. -/
def srcName (f : BitVec 12) : Nat := f.toNat % 2048
/-- The keep bit of a source field. -/
def srcKeep (f : BitVec 12) : Bool := f.toNat / 2048 = 1
/-- The register of a class-G or class-A field (R146). -/
def srcReg (f : BitVec 12) : GReg := f.setWidth 5
/-- The mask of a class-M field (R146). -/
def srcMask (f : BitVec 12) : Nat := f.toNat % 16

/-- A V operand read by a word: name, keep bit, registers of its group, and the type in which special operands supply it. -/
structure Operand where
  name : Nat
  keep : Bool
  group : Nat
  ty : Nat
  deriving DecidableEq, Repr

/-- The widths of a group: registers of the destination and of src1 (R210, R223-R226). -/
def groupSizes (opc : Nat) (w : VWord) : Nat × Nat :=
  let wd := typeWidth w.ty.toNat
  let ws := typeWidth (w.s3.toNat % 16)
  match opc with
  | 0x60 | 0x61 | 0x62 => if ws < wd then (wd / ws, 1) else (1, ws / wd)
  | 0x63 => (1, ws / wd)
  | 0x64 => (wd / ws, 1)
  | _ => (1, 1)

/-- A word whose src3 names the source type (R147). -/
def hasSourceType (opc : Nat) : Bool := 0x60 ≤ opc && opc ≤ 0x64

/-- A source field of class V as an operand. -/
def operandOf (c : FClass) (f : BitVec 12) (g ty : Nat) : List Operand :=
  if c = .v then [⟨srcName f, srcKeep f, g, ty⟩] else []

/-- The V operands that a word reads, in the order in which it reads them (R47, R231). DESIGN CHOICE (log entry 129): a special
operand read as src1 of a conversion is of the source type (R145, R213). -/
def vOperands (opc : Nat) (w : VWord) : List Operand :=
  match vform opc w.isScale with
  | none => []
  | some f =>
    let ty := w.ty.toNat
    let st := if hasSourceType opc then w.s3.toNat % 16 else ty
    (if opc = 0x83 then [⟨w.dst.toNat, false, 1, ty⟩] else []) ++
    operandOf f.s1 w.s1 (groupSizes opc w).2 st ++
    (if opc = 0x63 && w.isScale then [] else operandOf f.s2 w.s2 1 ty) ++
    operandOf f.s3 w.s3 1 ty

/-- The V destination of a word: its name and the registers of its group. -/
def vTarget (opc : Nat) (w : VWord) : Option (Nat × Nat) :=
  match vform opc w.isScale with
  | some f => if f.dst = .v && opc ≠ 0x83 then some (w.dst.toNat, (groupSizes opc w).1) else none
  | none => none

/-- The V fields of a word, in the order dst, src1, src2, src3, with their groups (R148). -/
def vFields (opc : Nat) (w : VWord) : List (Nat × Nat) :=
  (match vTarget opc w with
   | some x => [x]
   | none => []) ++ (vOperands opc w).map fun o => (o.name, o.group)

/-- The home cluster of a word: true for B (R148). -/
def vHome (opc vnames : Nat) (w : VWord) : Bool :=
  match (vFields opc w).find? fun x => x.1 < 1536 with
  | some x => vnames / 2 ≤ x.1
  | none => false

/-- The home cluster of the 96 bits of a vector word that is refused: by the fields of its form, or, where its opcode has none, by
all four read as names (R148; log entry 92). -/
def rawHome (vnames w : Nat) : Bool :=
  let x := vwordOf w
  let opc := bits w 2 8
  if (vform opc x.isScale).isSome then vHome opc vnames x
  else match ([x.dst.toNat, srcName x.s1, srcName x.s2, srcName x.s3].find? (· < 1536)) with
    | some n => vnames / 2 ≤ n
    | none => false

/-- A name or group that step 5 of R137 rejects (R145, R210). -/
def nameBad (vnames n g : Nat) (dst : Bool) : Bool :=
  1604 ≤ n || (dst && 1600 ≤ n) || (n < 1536 && vnames < n + g)

/-- A name or group that lies outside a cluster (R149). -/
def outside (vnames : Nat) (home : Bool) (x : Nat × Nat) : Bool :=
  x.1 < 1536 && !(if home then vnames / 2 ≤ x.1 else x.1 + x.2 ≤ vnames / 2)

/-- Steps 5 to 7 of R137 for a vector word: names, clusters (R149), clause names (R151). -/
def vPlaced (opc vnames semLen : Nat) (w : VWord) : Option Cause :=
  let home := vHome opc vnames w
  let bad := (match vTarget opc w with
    | some x => nameBad vnames x.1 x.2 true
    | none => false) || ((vOperands opc w).any fun o => nameBad vnames o.name o.group false) ||
    (opc = 0x83 && nameBad vnames w.dst.toNat 1 true)
  let fs := if opc = 0x90 then (vFields opc w).take 1 else vFields opc w
  if bad then some .badName
  else if fs.any (outside vnames home) || ((opc = 0x28 || opc = 0x29) && !home) then some .crossCluster
  else if (w.wthr ≠ 0 && semLen ≤ w.wsem.toNat) || (w.sinc ≠ 0 && semLen ≤ w.ssem.toNat) then some .semRange
  else none

/-! Reading. -/

/-- The acting tile task runs in mode K. -/
def State.modeK (s : State) : Bool := (s.myTt.map (·.modeK)).getD false

/-- Vector names of the acting strand's window. -/
def State.vnames (s : State) : Nat := (s.myTt.map (·.vnames)).getD 0

/-- A 32-bit pattern in every word. -/
def splat32 (x : Nat) : Vec := packVec 32 (List.replicate 128 x)

/-- What a dead name reads as: 0, or in debug-poison mode the pattern, tagged (R48). -/
def State.deadValue (s : State) : Vec × Bool :=
  if (s.myTt.map (·.dead)).getD false then (splat32 0x7FF0DEAD, true) else (0, false)

/-- One read of a vector name (R47, R48). -/
def State.readName (s : State) (n : Nat) (keep : Bool) : Res (Vec × Bool) :=
  match tget [] s.me.vn n with
  | [] => if s.modeK then .ok s.deadValue s else .trap .fifoUnderflow Rec.zero s
  | e :: es =>
    if !e.ready then .wait s
    else .ok (e.v, e.tag) (if s.modeK || keep then s else s.modMe fun st => { st with vn := tset [] st.vn n es })

/-- Accesses a port makes before it is used up (R208). -/
def Port.total (p : Port) : Nat := p.count1.toNat * p.count2.toNat

/-- A port after one more access, if it is not used up. -/
def Port.next (p : Port) : Port := if p.cursor < p.total then { p with cursor := p.cursor + 1 } else p

/-- port_addr(j) (R208). -/
def Port.addr (p : Port) (j : Nat) : W64 :=
  p.base + BitVec.ofNat 64 (j / p.count1.toNat) * p.stride2.signExtend 64 +
    BitVec.ofNat 64 (j % p.count1.toNat) * p.stride1.signExtend 64

/-- A port of the acting strand. -/
def State.port (s : State) (p : Nat) : Port := tget Port.none s.me.ports p

/-- The next address of a port, checked under R22 over 512 bytes; the cursor advances unless the read keeps it. -/
def State.portNext (s : State) (p : Nat) (keep : Bool) (done : Cause) : Res Nat :=
  let x := s.port p
  let (base, len) := s.window
  if x.total ≤ x.cursor then .trap done Rec.zero s
  else match spmCheck base len (x.addr x.cursor) 512 64 true with
    | some c => .trap c (Rec.addr (x.addr x.cursor)) s
    | none => .ok (x.addr x.cursor).toNat (if keep then s
        else s.modMe fun st => { st with ports := tset Port.none st.ports p { x with cursor := x.cursor + 1 } })

/-- 512 bytes of the scratchpad as the group reads them (R159). -/
def State.spmVec (s : State) (a : Nat) : Res (Vec × Bool) :=
  if s.readStrand.spmPending a 512 then .wait s
  else
    let (bs, t) := s.readCore.spmRead a 512
    .ok (BitVec.ofNat 4096 (leNat bs), t) s

/-- Element i of `vlane` in a type (R145, R213). -/
def laneElem (ty i : Nat) : Nat :=
  if isFloat ty then
    let x := toFloat ty ⟨.rne, false, false, false⟩ (.fin false i 0)
    if FVal.eq (unpack ty false x) (.fin false i 0) then x else Config.lane ty i
  else i % 2 ^ typeWidth ty

/-- A special operand in a type (R145, R213). -/
def specialVec (ty n : Nat) : Vec :=
  let w := typeWidth ty
  match n with
  | 1600 => 0
  | 1601 => BitVec.allOnes 4096
  | 1602 => packVec w ((upto (countAt w)).map (laneElem ty))
  | _ => packVec w (List.replicate (countAt w)
      (if isFloat ty then toFloat ty ⟨.rne, false, false, false⟩ (.fin false 1 0) else 1))

/-- One register of an operand: a name of its group, a port access, or a special operand. DESIGN CHOICE (log entry 127): a keep read
of a port whose accesses are used up, or that is not configured, raises FIFO_UNDERFLOW as a pop does (R208). -/
def State.readOne (s : State) (o : Operand) (k : Nat) : Res (Vec × Bool) :=
  if o.name < 1536 then s.readName (o.name + k) o.keep
  else if o.name < 1600 then
    (s.portNext (o.name - 1536) o.keep .fifoUnderflow).andThen fun a s => s.spmVec a
  else .ok (specialVec o.ty o.name, false) s

/-- The registers of a group from the k-th on (R210). -/
def State.readGroup (s : State) (o : Operand) : Nat → Nat → Res (List Vec × Bool)
  | 0, _ => .ok ([], false) s
  | n + 1, k => (s.readOne o k).andThen fun x s =>
      (s.readGroup o n (k + 1)).andThen fun y s => .ok (x.1 :: y.1, x.2 || y.2) s

/-- Every operand read in order (R47). -/
def State.readOperands (s : State) : List Operand → Res (List (List Vec) × Bool)
  | [] => .ok ([], false) s
  | o :: os => (s.readGroup o o.group 0).andThen fun x s =>
      (s.readOperands os).andThen fun y s => .ok (x.1 :: y.1, x.2 || y.2) s

/-- Names whose last use the word marks become dead when it retires (R48). -/
def State.freeLast (s : State) (os : List Operand) : State :=
  if s.modeK then
    s.modMe fun st => { st with vn := os.foldl (fun t o =>
      if o.keep && o.name < 1536 then (upto o.group).foldl (fun t k => tset [] t (o.name + k) []) t else t) st.vn }
  else s

/-- Reads and pops made as far as they can be: the word retires under IGNORE (R52). -/
def State.popAll (s : State) (os : List Operand) : State :=
  (os.foldl (fun s o => (upto o.group).foldl (fun s k =>
    if o.keep then s
    else if o.name < 1536 then
      if s.modeK then s else s.modMe fun st => { st with vn := tmod [] st.vn (o.name + k) List.tail }
    else if o.name < 1600 then
      s.modMe fun st => { st with ports := tmod Port.none st.ports (o.name - 1536) Port.next }
    else s) s) s).freeLast os

/-! Masks. -/

/-- A mask as the group reads it (R159). -/
def State.mask (s : State) (k : Nat) : MaskBits := tget 0 s.readStrand.m k

/-- The tag of a mask. -/
def State.maskTag (s : State) (k : Nat) : Bool := tget false s.readStrand.mtag k

/-- A mask written with its tag. -/
def State.setMask (s : State) (k : Nat) (v : MaskBits) (tag : Bool) : State :=
  s.modMe fun st => { st with m := tset 0 st.m k v, mtag := tset false st.mtag k tag }

/-- Element i takes part: the word is unmasked or the governing mask's bit is 1 (R150). -/
def State.enabled (s : State) (w : VWord) : Nat → Bool :=
  if w.mask = 0 then fun _ => true
  else
    let m := s.mask w.mask.toNat
    fun i => m.getLsbD i

/-- The tag of the governing mask. -/
def State.govTag (s : State) (w : VWord) : Bool := w.mask ≠ 0 && s.maskTag w.mask.toNat

/-! Destinations. -/

/-- The newest entry of a name, for disabled elements: it is never popped (R150). -/
def State.priorOne (s : State) (n : Nat) : Res (Vec × Bool) :=
  match (tget [] s.me.vn n).getLast? with
  | none => .ok (0, false) s
  | some e => if e.ready then .ok (e.v, e.tag) s else .wait s

/-- The prior values of a destination group. -/
def State.priors (s : State) (n : Nat) : Nat → Nat → Res (List Vec × Bool)
  | 0, _ => .ok ([], false) s
  | c + 1, k => (s.priorOne (n + k)).andThen fun x s =>
      (s.priors n c (k + 1)).andThen fun y s => .ok (x.1 :: y.1, x.2 || y.2) s

/-- The prior values that a word needs (R150): those of a masked word that does not zero and writes names. -/
def State.priorOf (s : State) (w : VWord) (opc : Nat) : Res (List Vec × Bool) :=
  match vTarget opc w with
  | some (n, g) =>
    if w.mask ≠ 0 && !w.zero && n < 1536 && !(0x70 ≤ opc && opc ≤ 0x72) then s.priors n g 0
    else .ok (List.replicate g 0, false) s
  | none => .ok ([], false) s

/-- One entry reserved in a name (R47, R48). -/
def State.reserveOne (s : State) (n tok : Nat) : Res Nat :=
  if s.modeK then .ok 0 (s.modMe fun st => { st with vn := tset [] st.vn n [⟨false, 0, false, tok⟩] })
  else if 2 ≤ (tget [] s.me.vn n).length then .trap .fifoOverflow Rec.zero s
  else .ok 0 (s.modMe fun st => { st with vn := tmod [] st.vn n (· ++ [⟨false, 0, false, tok⟩]) })

/-- The registers of a destination reserved in ascending order, or the scratchpad addresses of a port's pushes (R210). -/
def State.reserve (s : State) (n tok : Nat) : Nat → Nat → Res (List Nat)
  | 0, _ => .ok [] s
  | c + 1, k =>
    (if n < 1536 then s.reserveOne (n + k) tok
     else (s.portNext (n - 1536) false .fifoOverflow).andThen fun a s =>
       .ok a s).andThen fun x s =>
      (s.reserve n tok c (k + 1)).andThen fun y s => .ok (x :: y) s

/-- A word's mark, and the strand that has given it. -/
def State.nextTok (s : State) : Nat := s.me.mark + 1

/-- The signal clause of a vector word: absolute semaphore and increment (R151). -/
def State.sigOf (s : State) (w : VWord) : Option (Nat × Nat) :=
  if w.sinc = 0 then none else some (semNum ((s.myTt.map (·.semBase)).getD 0) w.ssem.toNat, w.sinc.toNat)

/-- A word in flight until its completion (R216); one with nothing left to do is not. -/
def State.launchFly (s : State) (f : Fly) : State :=
  s.modMe fun st => { st with
    mark := f.tok
    fly := if f.outs = [] && f.pushes = [] && f.sig = none then st.fly else st.fly ++ [f] }

/-- What the destination of a word receives under IGNORE: 0, tagged, in every register (R52). -/
def State.zeroDest (s : State) (opc : Nat) (w : VWord) : State :=
  match vTarget opc w with
  | none => match vform opc w.isScale with
    | some f =>
      if f.dst = .g && opc ≠ 0x87 then s.setG (w.dst.setWidth 5) 0 true
      else if f.dst = .m then s.setMask (w.dst.toNat % 16) 0 true
      else s
    | none => s
  | some (n, g) =>
    if n < 1536 then
      (upto g).foldl (fun s k =>
        if s.vnames ≤ n + k then s
        else s.modMe fun st => { st with vn := tmod [] st.vn (n + k) fun l =>
          if s.modeK then [⟨true, 0, true, 0⟩] else if 2 ≤ l.length then l else l ++ [⟨true, 0, true, 0⟩] }) s
    else if n < 1600 then
      (upto g).foldl (fun s _ => match s.portNext (n - 1536) false .fifoOverflow with
        | .ok a s => s.spmStore [(a, 0, BitVec.allOnes 4096)] true
        | _ => s) s
    else s

/-- The state in which a vector word has retired under IGNORE: pops performed, destinations 0 and tagged, its clauses
performed (R52, R151). -/
def State.vlost (opc : Nat) (w : VWord) (s : State) : State :=
  let s := (s.popAll (vOperands opc w)).zeroDest opc w
  (s.launchFly ⟨s.nextTok, [], [], true, s.sigOf w⟩).issued

/-! The common effect (R216). -/

/-- What an element operation has to work on. -/
structure VIn where
  /-- the registers of each V operand, in reading order -/
  xs : List (List Vec)
  /-- whether anything read is tagged -/
  tag : Bool
  prior : List Vec
  en : Nat → Bool

/-- The i-th operand's registers. -/
def VIn.op (x : VIn) (i : Nat) : List Vec := x.xs[i]?.getD []

/-- What the issue of a word leaves: the state, the elements of a V result, and a tag read from memory. -/
structure VOut where
  s : State
  r : List Nat
  tag : Bool

/-- Elements of a destination of width w under the mask: enabled ones new, the rest 0 or prior (R216). -/
def mergeElems (w : Nat) (zero : Bool) (x : VIn) (r : List Nat) : List Nat :=
  (r.zip (groupElems w x.prior)).mapIdx fun i p => if x.en i then p.1 else if zero then 0 else p.2

/-- The bits of register k of a group that enabled elements cover. -/
def enBits (w k : Nat) (en : Nat → Bool) : Vec :=
  packVec w ((upto (countAt w)).map fun i => if en (k * countAt w + i) then 2 ^ w - 1 else 0)

/-- A V result sent on its way to names or ports (R213, R216). -/
def State.writeVec (s : State) (w : VWord) (opc tok : Nat) (places : List Nat) (x : VIn) (r : List Nat) (tag : Bool) :
    State :=
  match vTarget opc w with
  | none => s.launchFly ⟨tok, [], [], tag, s.sigOf w⟩
  | some (n, g) =>
    let wd := typeWidth w.ty.toNat
    -- a reduction writes its destination in full (R227)
    let x := if 0x70 ≤ opc && opc ≤ 0x72 then { x with en := fun _ => true } else x
    if n < 1536 then
      let m := mergeElems wd w.zero x r
      s.launchFly ⟨tok, (upto g).map fun k => (n + k, packPart wd k m, tag), [], tag, s.sigOf w⟩
    else
      let m := r.mapIdx fun i v => if x.en i then v else 0
      s.launchFly ⟨tok, [], places.mapIdx fun k a =>
        (a, packPart wd k m, if w.zero then BitVec.allOnes 4096 else enBits wd k x.en), tag, s.sigOf w⟩

/-- The issue of a vector word: the checks of R137, the wait clause, the traps of its own description, its reads and
reservations (R216), and what `fin` does with them. `addr` are registers whose tag traps, `vals` registers whose tag tags
the result. `pre` is what the word asks of memory first; where it answers a wait, that state is what the word leaves. DESIGN CHOICE
(log entry 130): a trap of `pre` comes before one of an operand's port; VLDG and VSTS, whose check needs their operands, meet the
operands' traps first. -/
def State.vissue {α : Type} (s : State) (opc : Nat) (w : VWord) (addr vals : List GReg) (pre : State → Res α)
    (fin : α → VIn → List Nat → Nat → State → State) : State :=
  let lost := State.vlost opc w
  match vPlaced opc s.vnames ((s.myTt.map (·.semLen)).getD 0) w with
  | some c => s.trapI c Rec.zero (lost s)
  | none =>
    let sem := semNum ((s.myTt.map (·.semBase)).getD 0) w.wsem.toNat
    let t := w.wthr.toNat
    let me := s.myNum
    State.orWaits (s.whenReady (addr ++ vals) (
    let rels (k : State) : State := if w.sinc = 0 then k else s.afterRels k
    let served (s : State) : State := if t = 0 then s else s.modCore s.myCore (·.modSync (·.take sem t (.strand me)))
    rels (
      if t ≠ 0 && ((s.coreAt s.myCore).sem sem).poisoned then
        (s.leaveLines).trapI .awaitPoisoned Rec.zero (lost s.leaveLines)
      else if t ≠ 0 && s.me.deadlock then (s.leaveLines).trapI .deadlockAwait Rec.zero (lost s.leaveLines)
      else if t ≠ 0 && !(s.coreAt s.myCore).sync.ready sem t (.strand me) then s.waitsAt (some (sem, t))
      else s.clean addr (served (lost s)) (
        match pre s with
        | .trap c r s => s.trapI c r (served (lost s))
        | .wait s => s
        | .ok a s =>
          let tok := s.nextTok
          let out := (s.priorOf w opc).andThen fun p s =>
            (s.readOperands (vOperands opc w)).andThen fun q s =>
              let s := s.freeLast (vOperands opc w)
              (match vTarget opc w with
               | some (n, g) => s.reserve n tok g 0
               | none => .ok [] s).andThen fun places s => .ok (p, q, places) s
          match out with
          | .trap c r _ => s.trapI c r (served (lost s))
          | .wait _ => s.holds
          | .ok (p, q, places) s =>
            let x : VIn := ⟨q.1, q.2 || p.2 || s.govTag w || vals.any s.gt, p.1, s.enabled w⟩
            fin a x places tok (served s))))) s sem t (.strand me)

/-- A vector word whose effect is complete at issue but for a V result, which is written at completion (R216). -/
def State.vword {α : Type} (s : State) (opc : Nat) (w : VWord) (addr vals : List GReg) (pre : State → Res α)
    (body : α → VIn → State → VOut) : State :=
  s.vissue opc w addr vals pre fun a x places tok s =>
    let o := body a x s
    (o.s.writeVec w opc tok places x o.r (x.tag || o.tag)).issued

/-- Nothing to do in memory first. -/
def noPre (s : State) : Res Unit := .ok () s

/-- A word that computes a V result from its operands alone. -/
def State.compute (s : State) (opc : Nat) (w : VWord) (vals : List GReg) (f : VIn → List Nat) : State :=
  s.vword opc w [] vals noPre fun _ x s => ⟨s, f x, false⟩

/-- Elements of the i-th operand in a width. -/
def VIn.elems (x : VIn) (w i : Nat) : List Nat := groupElems w (x.op i)

/-- A word of one element operation over one operand. -/
def State.map1 (s : State) (opc : Nat) (w : VWord) (f : Nat → Nat) : State :=
  s.compute opc w [] fun x => (x.elems (typeWidth w.ty.toNat) 0).map f

/-- A word of one element operation over two operands. -/
def State.map2 (s : State) (opc : Nat) (w : VWord) (f : Nat → Nat → Nat) : State :=
  s.compute opc w [] fun x =>
    let wd := typeWidth w.ty.toNat
    List.zipWith f (x.elems wd 0) (x.elems wd 1)

/-- A word of one element operation over three operands. -/
def State.map3 (s : State) (opc : Nat) (w : VWord) (f : Nat → Nat → Nat → Nat) : State :=
  s.compute opc w [] fun x =>
    let wd := typeWidth w.ty.toNat
    List.zipWith (fun p c => f p.1 p.2 c) ((x.elems wd 0).zip (x.elems wd 1)) (x.elems wd 2)

/-- KILL vB, mask (R47, R48, R205). -/
def execKill (blk : BitVec 6) (mask : BitVec 24) (s : State) : Out :=
  .next (
    let names := ((upto 24).filter fun j => mask.getLsbD j).map fun j => 24 * blk.toNat + j
    if names.any fun n => s.vnames ≤ n then s.trap .badName Rec.zero
    else if !s.modeK && names.any fun n => (tget [] s.me.vn n).any fun e => !e.ready then s.holds
    else (s.modMe fun st => { st with vn := names.foldl (fun t n => tset [] t n []) st.vn }).issued)

end Sys2Proof.Machine
end

