-- ==== Sys2Proof/Machine/VInt.lean ====
section
/-! DEFINITION. Machine/VInt.lean: integer arithmetic and logic of vector words (R212, R217). -/
namespace Sys2Proof.Machine

/-- The sat bit of an integer word's mode (R212). -/
def satBit (w : VWord) : Bool := w.mode.toNat % 2 = 1

/-- An exact integer as an element: modulo 2^w, or clamped to the range of the type (R212). -/
def reduceInt (ty : Nat) (sat : Bool) (v : Int) : Nat :=
  let wd := typeWidth ty
  lowBits wd (if sat then clamp (intMin (isSigned ty) wd) (intMax (isSigned ty) wd) v else v)

/-- A word whose element result is an exact integer function of two elements, reduced. -/
def State.int2 (s : State) (opc : Nat) (w : VWord) (f : Int → Int → Int) : State :=
  let ty := w.ty.toNat
  s.map2 opc w fun a b => reduceInt ty (satBit w) (f (intOf ty a) (intOf ty b))

/-- A word whose element result is an exact integer function of one element, reduced. -/
def State.int1 (s : State) (opc : Nat) (w : VWord) (f : Int → Int) : State :=
  let ty := w.ty.toNat
  s.map1 opc w fun a => reduceInt ty (satBit w) (f (intOf ty a))

/-- VADD (R217). -/
def execVadd (w : VWord) (s : State) : Out := .next (s.int2 0x01 w (· + ·))
/-- VSUB (R217). -/
def execVsub (w : VWord) (s : State) : Out := .next (s.int2 0x02 w (· - ·))
/-- VMUL (R217). -/
def execVmul (w : VWord) (s : State) : Out := .next (s.int2 0x03 w (· * ·))
/-- VMULH: bits [2w−1:w] of the exact product (R217). -/
def execVmulh (w : VWord) (s : State) : Out :=
  .next (s.int2 0x04 w fun a b => (a * b) / 2 ^ typeWidth w.ty.toNat)
/-- VMAD, reduced once (R217). -/
def execVmad (w : VWord) (s : State) : Out :=
  .next (
    let ty := w.ty.toNat
    s.map3 0x05 w fun a b c => reduceInt ty (satBit w) (intOf ty a * intOf ty b + intOf ty c))
/-- VMIN (R217). -/
def execVmin (w : VWord) (s : State) : Out := .next (s.int2 0x06 w min)
/-- VMAX (R217). -/
def execVmax (w : VWord) (s : State) : Out := .next (s.int2 0x07 w max)
/-- VABS (R217). -/
def execVabs (w : VWord) (s : State) : Out := .next (s.int1 0x08 w fun a => (a.natAbs : Int))
/-- VNEG (R217). -/
def execVneg (w : VWord) (s : State) : Out := .next (s.int1 0x09 w (- ·))
/-- VAND (R217). -/
def execVand (w : VWord) (s : State) : Out := .next (s.map2 0x0A w (· &&& ·))
/-- VOR (R217). -/
def execVor (w : VWord) (s : State) : Out := .next (s.map2 0x0B w (· ||| ·))
/-- VXOR (R217). -/
def execVxor (w : VWord) (s : State) : Out := .next (s.map2 0x0C w (· ^^^ ·))
/-- VNOT (R217). -/
def execVnot (w : VWord) (s : State) : Out := .next (s.map1 0x0D w fun a => 2 ^ typeWidth w.ty.toNat - 1 - a)
/-- VSHL: a × 2^b; from b = w on every nonzero a lies beyond the range (R217). -/
def execVshl (w : VWord) (s : State) : Out :=
  .next (
    let ty := w.ty.toNat
    s.map2 0x0E w fun a b => reduceInt ty (satBit w) (intOf ty a * 2 ^ min b (typeWidth ty)))
/-- VSHR (R217). -/
def execVshr (w : VWord) (s : State) : Out := .next (s.map2 0x0F w fun a b => a / 2 ^ min b (typeWidth w.ty.toNat))
/-- VSHA (R217). -/
def execVsha (w : VWord) (s : State) : Out :=
  .next (
    let wd := typeWidth w.ty.toNat
    s.map2 0x10 w fun a b => lowBits wd (signed wd a / 2 ^ min b wd))
/-- VPOPC (R217). -/
def execVpopc (w : VWord) (s : State) : Out := .next (s.map1 0x11 w (popcount (typeWidth w.ty.toNat)))

end Sys2Proof.Machine
end

