-- ==== Sys2Proof/Machine/VFloat.lean ====
section
/-! DEFINITION. Machine/VFloat.lean: floating-point arithmetic of vector words (R122, R218, R219). -/
namespace Sys2Proof.Machine

/-- The rounding mode that FPMODE.rm selects; SR rounds RNE where it is not defined (R121, R123). -/
def rmOf (fpm : W64) : Rnd :=
  match fieldOf fpm 0 3 with
  | 1 => .rz
  | 2 => .ru
  | 3 => .rd
  | _ => .rne

/-- The ftz bit of a mode field (R122). -/
def ftzBit (w : VWord) : Bool := 4 ≤ w.mode.toNat

/-- FPMODE as the group reads it. -/
def State.fpm (s : State) : W64 := s.readStrand.fpm

/-- How a floating-point word rounds (R121, R122). -/
def State.fenv (s : State) (w : VWord) : FEnv where
  rm := match w.mode.toNat % 4 with
    | 0 => rmOf s.fpm
    | 2 => .rz
    | _ => .rne
  ftz := ftzBit w
  canon := s.fpm.getLsbD 3
  sat := s.fpm.getLsbD 4

/-- A word of one operation on the values of one operand's elements. -/
def State.fp1 (s : State) (opc : Nat) (w : VWord) (f : Nat → FEnv → FVal → Nat) : State :=
  let ty := w.ty.toNat
  let env := s.fenv w
  s.map1 opc w fun a => f ty env (unpack ty env.ftz a)

/-- A word of one operation on the values of two operands' elements. -/
def State.fp2 (s : State) (opc : Nat) (w : VWord) (f : Nat → FEnv → FVal → FVal → Nat) : State :=
  let ty := w.ty.toNat
  let env := s.fenv w
  s.map2 opc w fun a b => f ty env (unpack ty env.ftz a) (unpack ty env.ftz b)

/-- VFADD (R218). -/
def execVfadd (w : VWord) (s : State) : Out := .next (s.fp2 0x20 w fun ty env a b => fadd ty env [a, b] a b)
/-- VFSUB (R218). -/
def execVfsub (w : VWord) (s : State) : Out := .next (s.fp2 0x21 w fun ty env a b => fadd ty env [a, b] a b.flip)
/-- VFMUL (R218). -/
def execVfmul (w : VWord) (s : State) : Out := .next (s.fp2 0x22 w fmul)
/-- VFMA (R218). -/
def execVfma (w : VWord) (s : State) : Out :=
  .next (
    let ty := w.ty.toNat
    let env := s.fenv w
    s.map3 0x23 w fun a b c => ffma ty env (unpack ty env.ftz a) (unpack ty env.ftz b) (unpack ty env.ftz c))
/-- The minimum or maximum of two elements (R219). -/
def minmaxElem (ty : Nat) (env : FEnv) (isMax : Bool) (x y : Nat) : Nat :=
  fminmax ty env isMax (flushOut ty env.ftz x) (flushOut ty env.ftz y) (unpack ty env.ftz x) (unpack ty env.ftz y)
/-- VFMIN (R219). -/
def execVfmin (w : VWord) (s : State) : Out :=
  .next (
    let env := s.fenv w
    s.map2 0x24 w (minmaxElem w.ty.toNat env false))
/-- VFMAX (R219). -/
def execVfmax (w : VWord) (s : State) : Out :=
  .next (
    let env := s.fenv w
    s.map2 0x25 w (minmaxElem w.ty.toNat env true))
/-- VFABS (R219). -/
def execVfabs (w : VWord) (s : State) : Out :=
  .next (s.map1 0x26 w fun a => flushOut w.ty.toNat (ftzBit w) a % 2 ^ (typeWidth w.ty.toNat - 1))
/-- VFNEG (R219). -/
def execVfneg (w : VWord) (s : State) : Out :=
  .next (s.map1 0x27 w fun a => flushOut w.ty.toNat (ftzBit w) a ^^^ 2 ^ (typeWidth w.ty.toNat - 1))
/-- VFDIV (R218). -/
def execVfdiv (w : VWord) (s : State) : Out := .next (s.fp2 0x28 w fdiv)
/-- VFSQRT (R218). -/
def execVfsqrt (w : VWord) (s : State) : Out := .next (s.fp1 0x29 w fsqrt)
/-- VFRCP (R218). -/
def execVfrcp (w : VWord) (s : State) : Out := .next (s.fp1 0x2A w frcp)
/-- VFRSQ (R218). -/
def execVfrsq (w : VWord) (s : State) : Out := .next (s.fp1 0x2B w frsq)
/-- VFEXP2 (R218). -/
def execVfexp2 (w : VWord) (s : State) : Out := .next (s.fp1 0x2C w fexp2)
/-- VFLOG2 (R218). -/
def execVflog2 (w : VWord) (s : State) : Out := .next (s.fp1 0x2D w flog2)

end Sys2Proof.Machine
end

