-- ==== Sys2Proof/Machine/VMask.lean ====
section
/-! DEFINITION. Machine/VMask.lean: compares, selection and the mask words (R220-R222). -/
namespace Sys2Proof.Machine

/-- An integer compare (R220). -/
def cmpInt (c : VCmp) (a b : Int) : Bool :=
  match c with
  | .eq => a = b
  | .ne => a ≠ b
  | .lt => a < b
  | .le => a ≤ b
  | .gt => b < a
  | .ge => b ≤ a
  | .uo => false

/-- A floating compare, with a NaN unordered (R220). -/
def cmpFloat (c : VCmp) (a b : FVal) : Bool :=
  match c with
  | .eq => FVal.eq a b
  | .ne => !FVal.eq a b
  | .lt => FVal.lt a b
  | .le => FVal.lt a b || FVal.eq a b
  | .gt => FVal.lt b a
  | .ge => FVal.lt b a || FVal.eq a b
  | .uo => a.isNan || b.isNan

/-- Bits to a number, lowest first. -/
def bitsNat : List Bool → Nat
  | [] => 0
  | b :: bs => (if b then 1 else 0) + 2 * bitsNat bs

/-- The opcode of a compare (R147). -/
def cmpOpc (c : VCmp) : Nat :=
  match c with
  | .eq => 0x40 | .ne => 0x41 | .lt => 0x42 | .le => 0x43 | .gt => 0x44 | .ge => 0x45 | .uo => 0x46

/-- The compare of two elements of a type (R220). -/
def cmpElem (c : VCmp) (ty : Nat) (ftz : Bool) (a b : Nat) : Bool :=
  if isFloat ty then cmpFloat c (unpack ty ftz a) (unpack ty ftz b) else cmpInt c (intOf ty a) (intOf ty b)

/-- VCMP.cc (R220). -/
def execVcmp (c : VCmp) (w : VWord) (s : State) : Out :=
  .next (
    let ty := w.ty.toNat
    let wd := typeWidth ty
    s.vword (cmpOpc c) w [] [] noPre fun _ x s =>
      let r := List.zipWith (cmpElem c ty (ftzBit w)) (x.elems wd 0) (x.elems wd 1)
      ⟨s.setMask (w.dst.toNat % 16) (BitVec.ofNat 1024 (bitsNat r)) x.tag, [], false⟩)

/-- VSEL: the mode field names the selecting mask (R221). -/
def execVsel (w : VWord) (s : State) : Out :=
  .next (
    let wd := typeWidth w.ty.toNat
    let m := s.mask w.mode.toNat
    let t := s.maskTag w.mode.toNat
    s.vword 0x48 w [] [] noPre fun _ x s =>
      ⟨s, ((x.elems wd 0).zip (x.elems wd 1)).mapIdx fun i p => if m.getLsbD i then p.1 else p.2, t⟩)

/-- A word that combines masks into a mask (R222). -/
def State.maskOp (s : State) (opc : Nat) (w : VWord) (v : MaskBits) (tag : Bool) : State :=
  s.vword opc w [] [] noPre fun _ _ s => ⟨s.setMask (w.dst.toNat % 16) v tag, [], false⟩

/-- A word that counts in a mask (R222). -/
def State.maskCount (s : State) (opc : Nat) (w : VWord) (f : MaskBits → Nat) : State :=
  let m := srcMask w.s1
  let v := BitVec.ofNat 64 (f (s.mask m))
  let t := s.maskTag m
  s.vword opc w [] [] noPre fun _ _ s => ⟨s.setG (w.dst.setWidth 5) v t, [], false⟩

/-- A word of two masks. -/
def State.mask2 (s : State) (opc : Nat) (w : VWord) (f : MaskBits → MaskBits → MaskBits) : State :=
  s.maskOp opc w (f (s.mask (srcMask w.s1)) (s.mask (srcMask w.s2)))
    (s.maskTag (srcMask w.s1) || s.maskTag (srcMask w.s2))

/-- MAND (R222). -/
def execMand (w : VWord) (s : State) : Out := .next (s.mask2 0x49 w (· &&& ·))
/-- MOR (R222). -/
def execMor (w : VWord) (s : State) : Out := .next (s.mask2 0x4A w (· ||| ·))
/-- MXOR (R222). -/
def execMxor (w : VWord) (s : State) : Out := .next (s.mask2 0x4B w (· ^^^ ·))
/-- MNOT (R222). -/
def execMnot (w : VWord) (s : State) : Out :=
  .next (s.maskOp 0x4C w (~~~(s.mask (srcMask w.s1))) (s.maskTag (srcMask w.s1)))
/-- MPOPC (R222). -/
def execMpopc (w : VWord) (s : State) : Out := .next (s.maskCount 0x4D w fun m => popcount 1024 m.toNat)
/-- MFIRST (R222). -/
def execMfirst (w : VWord) (s : State) : Out :=
  .next (s.maskCount 0x4E w fun m => ((upto 1024).find? fun i => m.getLsbD i).getD 1024)

end Sys2Proof.Machine
end

