-- ==== Sys2Proof/Machine/VConv.lean ====
section
/-! DEFINITION. Machine/VConv.lean: conversions, quantisation and dequantisation (R223-R226), and stochastic rounding
(R128, R129). -/
namespace Sys2Proof.Machine

/-- The source type of a conversion, class T in src3. -/
def sourceType (w : VWord) : Nat := w.s3.toNat % 16

/-- A VCVT that rounds in SR: from f32 to bf16, by its rnd or by FPMODE.rm (R123, R223). -/
def State.usesSr (s : State) (w : VWord) : Bool :=
  sourceType w = 8 && w.ty = 10 &&
  (w.mode.toNat % 4 = 3 || (w.mode.toNat % 4 = 0 && fieldOf s.fpm 0 3 = 4))

/-- One element converted from a type to another (R124-R126, R223). -/
def convElem (dt st : Nat) (env : FEnv) (x : Nat) : Nat :=
  if isFloat st then
    let a := unpack st env.ftz x
    if isFloat dt then toFloat dt env a else toIntElem (isSigned dt) (typeWidth dt) env.rm a
  else roundInt dt env (intOf st x) 0 false

/-- SRCTR as a word of the group uses it: earlier members have advanced it (R129). -/
def State.srBase (s : State) : Nat :=
  match s.view with
  | some v => v.strand.srctr.toNat + v.sr
  | none => s.me.srctr.toNat

/-- SRCTR advanced by the elements of a result (R129): from what it holds now, so that an MTS of the same group, which does not
reach this word, reaches every later group. -/
def State.advanceSr (s : State) (n : Nat) : State :=
  let s := s.modMe fun st => { st with srctr := BitVec.ofNat 64 ((st.srctr.toNat + n) % 2 ^ 32) }
  { s with view := s.view.map fun v => { v with sr := v.sr + n } }

/-- VCVT (R223). -/
def execVcvt (w : VWord) (s : State) : Out :=
  .next (
    let st := sourceType w
    let dt := w.ty.toNat
    let env := s.fenv w
    if s.usesSr w then
      let ctr := s.srBase
      let key := s.readStrand.srkey.toNat
      s.vword 0x60 w [] [] noPre fun _ x s =>
        let r := (x.elems 32 0).mapIdx fun i e => srBf16 ctr key e i env.ftz env.sat
        ⟨s.advanceSr r.length, r, false⟩
    else s.compute 0x60 w [] fun x => (x.elems (typeWidth st) 0).map (convElem dt st env))

/-- VWIDEN: extension by the signedness of the source type (R224). -/
def execVwiden (w : VWord) (s : State) : Out :=
  .next (
    let st := sourceType w
    s.compute 0x61 w [] fun x => (x.elems (typeWidth st) 0).map fun a => lowBits (typeWidth w.ty.toNat) (intOf st a))

/-- VNARROW (R212, R224). -/
def execVnarrow (w : VWord) (s : State) : Out :=
  .next (
    let st := sourceType w
    s.compute 0x62 w [] fun x => (x.elems (typeWidth st) 0).map fun a =>
      reduceInt w.ty.toNat (satBit w) (intOf st a))

/-- A list cut into blocks of 32 (R130). -/
def blocks32 : Nat → List FVal → List (List FVal)
  | 0, _ => []
  | n + 1, xs => xs.take 32 :: blocks32 n (xs.drop 32)

/-- VQUANT, scale form: one register of K9 containers (R225). -/
def execVquantScale (w : VWord) (s : State) : Out :=
  .next (
    let st := sourceType w
    let wd := typeWidth w.ty.toNat
    s.compute 0x63 w [] fun x =>
      let xs := (x.elems (typeWidth st) 0).map (unpack st (ftzBit w))
      elems wd (packVec 16 ((blocks32 (xs.length / 32) xs).map (blockScale w.ty.toNat))))

/-- Every element with the container of its block of 32 (R130, R225). -/
def withScale (cs : List Nat) (xs : List Nat) : List (Nat × Nat) :=
  xs.zip ((cs.map fun c => List.replicate 32 c).flatten)

/-- One element quantised (R225): the exact quotient by the scale, rounded. -/
def quantElem (fmt st : Nat) (env : FEnv) (c x : Nat) : Nat :=
  match scaleOf c with
  | .zero => 0
  | .nan => canonNan fmt
  | .val m e => match unpack st env.ftz x with
    | .nan n f => nanResult fmt env [.nan n f]
    | .inf n => infResult fmt env n env.sat
    | .fin n a g => fdiv fmt env (.fin n a g) (.fin false m e)

/-- VQUANT, quantise form (R225). -/
def execVquant (w : VWord) (s : State) : Out :=
  .next (
    let st := sourceType w
    let env := s.fenv w
    s.compute 0x63 w [] fun x =>
      (withScale (x.elems 16 1) (x.elems (typeWidth st) 0)).map fun p => quantElem w.ty.toNat st env p.2 p.1)

/-- VDEQ: each value times the scale of its block, exactly, and rounded (R226). -/
def execVdeq (w : VWord) (s : State) : Out :=
  .next (
    let st := sourceType w
    let env := s.fenv w
    s.compute 0x64 w [] fun x =>
      (withScale (x.elems 16 1) (x.elems (typeWidth st) 0)).map fun p =>
        toFloat w.ty.toNat env (scaled (scaleOf p.2) (unpack st false p.1)))

end Sys2Proof.Machine
end

