-- ==== Sys2Proof/Machine/VMove.lean ====
section
/-! DEFINITION. Machine/VMove.lean: reductions, permutes, moves of single elements and random numbers
(R133, R227-R229, R234, R235). -/
namespace Sys2Proof.Machine

/-- The identity of a reduction (R133). -/
def redIdentity (op : RedOp) (ty : Nat) : Nat :=
  let wd := typeWidth ty
  let sgn := isSigned ty
  if isFloat ty then match op with
    | .add => 0
    | .max => signBit ty true + (2 ^ (fmtOf ty).ew - 1) * 2 ^ (fmtOf ty).fw
    | .min => (2 ^ (fmtOf ty).ew - 1) * 2 ^ (fmtOf ty).fw
  else match op with
    | .add => 0
    | .max => lowBits wd (intMin sgn wd)
    | .min => lowBits wd (intMax sgn wd)

/-- One combination of a reduction (R227). -/
def redElem (op : RedOp) (ty : Nat) (env : FEnv) (sat : Bool) (a b : Nat) : Nat :=
  if isFloat ty then match op with
    | .add =>
      let x := unpack ty env.ftz a
      let y := unpack ty env.ftz b
      fadd ty env [x, y] x y
    | .max => minmaxElem ty env true a b
    | .min => minmaxElem ty env false a b
  else match op with
    | .add => reduceInt ty sat (intOf ty a + intOf ty b)
    | .max => if intOf ty a ≤ intOf ty b then b else a
    | .min => if intOf ty a ≤ intOf ty b then a else b

/-- The pairwise tree: each level combines element i with element i + s (R133). -/
def redTree (f : Nat → Nat → Nat) : Nat → List Nat → Nat
  | 0, xs => xs.headD 0
  | k + 1, xs => redTree f k (List.zipWith f (xs.take (2 ^ k)) (xs.drop (2 ^ k)))

/-- Levels of the tree over N elements. -/
def redLevels (w : Nat) : Nat := (countAt w).log2

/-- The opcode of a reduction (R147). -/
def redOpc (op : RedOp) : Nat :=
  match op with
  | .add => 0x70 | .max => 0x71 | .min => 0x72

/-- VRED (R133, R227). -/
def execVred (op : RedOp) (w : VWord) (s : State) : Out :=
  .next (
    let ty := w.ty.toNat
    let wd := typeWidth ty
    let env := s.fenv w
    s.compute (redOpc op) w [] fun x =>
      let xs := (x.elems wd 0).mapIdx fun i e => if x.en i then e else redIdentity op ty
      redTree (redElem op ty env (satBit w)) (redLevels wd) xs :: List.replicate (countAt wd - 1) 0)

/-- VPERM (R228). -/
def execVperm (w : VWord) (s : State) : Out :=
  .next (
    let wd := typeWidth w.ty.toNat
    s.compute 0x74 w [] fun x =>
      let a := (x.elems wd 0).toArray
      (x.elems wd 1).map fun b => a.getD (b % countAt wd) 0)

/-- Two lists interleaved. -/
def zipLists : List Nat → List Nat → List Nat
  | a :: as, b :: bs => a :: b :: zipLists as bs
  | _, _ => []

/-- Every second element, from the first. -/
def evens : List Nat → List Nat
  | a :: _ :: t => a :: evens t
  | [a] => [a]
  | [] => []

/-- The four patterns of VSHUF (R228). -/
def shuffle (mode n : Nat) (a b : List Nat) : List Nat :=
  match mode with
  | 0 => zipLists (a.take (n / 2)) (b.take (n / 2))
  | 1 => zipLists (a.drop (n / 2)) (b.drop (n / 2))
  | 2 => evens (a ++ b)
  | _ => evens ((a ++ b).drop 1)

/-- VSHUF (R228). -/
def execVshuf (w : VWord) (s : State) : Out :=
  .next (
    let wd := typeWidth w.ty.toNat
    s.compute 0x75 w [] fun x => shuffle w.mode.toNat (countAt wd) (x.elems wd 0) (x.elems wd 1))

/-- VBCAST (R229). -/
def execVbcast (w : VWord) (s : State) : Out :=
  .next (
    let wd := typeWidth w.ty.toNat
    let v := (s.g (srcReg w.s1)).toNat % 2 ^ wd
    s.compute 0x76 w [srcReg w.s1] fun _ => List.replicate (countAt wd) v)

/-- VSLIDE: a tagged slide register raises POISON_CONSUMED (R214, R229). -/
def execVslide (w : VWord) (s : State) : Out :=
  .next (
    let wd := typeWidth w.ty.toNat
    let n := countAt wd
    let k := min (s.g (srcReg w.s3)).toNat (2 * n)
    s.vword 0x77 w [srcReg w.s3] [] noPre fun _ x s =>
      ⟨s, ((x.elems wd 0 ++ x.elems wd 1).drop k ++ List.replicate (2 * n) 0).take n, false⟩)

/-- VINS: a tagged index register raises POISON_CONSUMED, a tagged value tags the result (R214, R229). -/
def execVins (w : VWord) (s : State) : Out :=
  .next (
    let wd := typeWidth w.ty.toNat
    let v := (s.g (srcReg w.s2)).toNat % 2 ^ wd
    let k := (s.g (srcReg w.s3)).toNat
    s.vword 0x78 w [srcReg w.s3] [srcReg w.s2] noPre fun _ x s =>
      ⟨s, (x.elems wd 0).mapIdx fun i e => if i = k then v else e, false⟩)

/-- VEXT (R229). -/
def execVext (w : VWord) (s : State) : Out :=
  .next (
    let ty := w.ty.toNat
    let wd := typeWidth ty
    let k := (s.g (srcReg w.s2)).toNat
    s.vword 0x79 w [srcReg w.s2] [] noPre fun _ x s =>
      let e := if k < countAt wd then ((x.elems wd 0)[k]?).getD 0 else 0
      ⟨s.setG (w.dst.setWidth 5) (wrap64 (if isFloat ty then (e : Int) else intOf ty e)) x.tag, [], false⟩)

/-- The numbers of 1 bits below each bit of a list of bits, from a count on. -/
def countsBelow : Nat → List Bool → List Nat
  | _, [] => []
  | k, b :: bs => k :: countsBelow (k + if b then 1 else 0) bs

/-- VIOTA (R229). -/
def execViota (w : VWord) (s : State) : Out :=
  .next (
    let wd := typeWidth w.ty.toNat
    let m := s.mask (srcMask w.s1)
    let t := s.maskTag (srcMask w.s1)
    s.vword 0x7A w [] [] noPre fun _ _ s =>
      ⟨s, (countsBelow 0 ((upto (countAt wd)).map m.getLsbD)).map (· % 2 ^ wd), t⟩)

/-- VMOV (R234). -/
def execVmov (w : VWord) (s : State) : Out := .next (s.map1 0x90 w id)

/-- VRNG (R127, R235). -/
def execVrng (w : VWord) (s : State) : Out :=
  .next (
    let c := (s.g (srcReg w.s1)).toNat
    let k := (s.g (srcReg w.s2)).toNat % 2 ^ 32
    s.compute 0x91 w [srcReg w.s1, srcReg w.s2] fun _ => (upto 128).map fun i => hashH ((c + i) % 2 ^ 32) k)

end Sys2Proof.Machine
end

