-- ==== Sys2Proof/Machine/VMem.lean ====
section
/-! DEFINITION. Machine/VMem.lean: scratchpad and global vector memory (R230-R233). -/
namespace Sys2Proof.Machine

/-! Scratchpad vector memory. -/

/-- Byte offset of a class-O field: 0 to 262,080, a multiple of 64 (R146). -/
def vOffset (w : VWord) : Nat := 64 * w.s2.toNat

/-- The address [sp:ga+off], modulo 2²¹ (R230). -/
def State.spAddr (s : State) (w : VWord) : Nat := ((s.g (srcReg w.s1)).toNat + vOffset w) % 2 ^ 21

/-- The check of a 512-byte scratchpad access of a word, and the wait of a read for a write in flight that overlaps it
(R22, R213). -/
def State.spCheck (s : State) (w : VWord) (read : Bool) : Res Nat :=
  let a := s.spAddr w
  let (base, len) := s.window
  match spmCheck base len (BitVec.ofNat 64 a) 512 64 true with
  | some c => .trap c (Rec.addr (BitVec.ofNat 64 a)) s
  | none => if read && s.readStrand.spmPending a 512 then .wait s.holds else .ok a s

/-- VLD (R230). -/
def execVld (w : VWord) (s : State) : Out :=
  .next (s.vword 0x80 w [srcReg w.s1] [] (fun s => s.spCheck w true) fun a _ s =>
    let (bs, t) := s.readCore.spmRead a 512
    ⟨s, elems (typeWidth w.ty.toNat) (BitVec.ofNat 4096 (leNat bs)), t⟩)

/-- VST: the enabled elements are written (R230). -/
def execVst (w : VWord) (s : State) : Out :=
  .next (s.vword 0x81 w [srcReg w.s1] [] (fun s => s.spCheck w false) fun a x s =>
    let wd := typeWidth w.ty.toNat
    ⟨s.spmStore [(a, packVec wd (x.elems wd 0), enBits wd 0 x.en)] x.tag, [], false⟩)

/-- The enabled elements of an index register with their byte addresses, in ascending order of element (R231). -/
def elemAddrs (base w : Nat) (en : Nat → Bool) (idx : List Nat) : List (Nat × Nat) :=
  ((upto (countAt w)).zip idx).filterMap fun x => if en x.1 then some (x.1, base + x.2 * (w / 8)) else none

/-- The checks of a gather or a scatter, once its operands can be read: alignment, then the window for every enabled element,
and for a gather the writes still in flight (R22, R213, R231). Operands that cannot be read leave their trap or wait to the word
itself. DEDUCED (log entry 121): an element address that is not a multiple of w ÷ 8 raises ALIGNMENT. -/
def State.gatherCheck (s : State) (opc : Nat) (w : VWord) : Res Unit :=
  let wd := typeWidth w.ty.toNat
  let (base, len) := s.window
  match s.readOperands (vOperands opc w) with
  | .ok q _ =>
    let xs := elemAddrs (s.spAddr w) wd (s.enabled w) (groupElems wd (q.1.headD []))
    (match xs.find? fun x => x.2 % (wd / 8) ≠ 0, xs.find? fun x => !inWindow base len x.2 (wd / 8) with
     | some x, _ => .trap .alignment (Rec.addr (BitVec.ofNat 64 x.2)) s
     | none, some x => .trap .translation (Rec.addr (BitVec.ofNat 64 x.2)) s
     | none, none =>
       if opc = 0x82 && xs.any fun x => s.readStrand.spmPending x.2 (wd / 8) then .wait s.holds else .ok () s)
  | .trap .. => .ok () s
  | .wait _ => .ok () s

/-- VLDG (R231). -/
def execVldg (w : VWord) (s : State) : Out :=
  .next (s.vword 0x82 w [srcReg w.s1] [] (fun s => s.gatherCheck 0x82 w) fun _ x s =>
    let wd := typeWidth w.ty.toNat
    let base := s.spAddr w
    let rs := ((x.elems wd 0).mapIdx fun i k =>
      if x.en i then
        let (bs, t) := s.readCore.spmRead (base + k * (wd / 8)) (wd / 8)
        (leNat bs, t)
      else (0, false))
    ⟨s, rs.map (·.1), rs.any (·.2)⟩)

/-- Bytes of a scatter, the higher-numbered element's over a lower one's (R231). -/
def scatterBytes (n : Nat) (vals : List Nat) (xs : List (Nat × Nat)) : Tab (Option Byte) :=
  xs.foldl (fun t x => tsets none t x.2 (whole (leBytes n ((vals[x.1]?).getD 0)))) []

/-- Scattered bytes as writes row by row: one for each 64-byte row (R214). -/
def scatterPushes (t : Tab (Option Byte)) : Pushes :=
  ((t.map fun x => x.1 / 64).eraseDups).map fun r =>
    let bs := tgets none t (64 * r) 64
    (64 * r, BitVec.ofNat 4096 (leNat (bs.map (·.getD 0))), BitVec.ofNat 4096 (leNat (bs.map fun b => if b.isSome then 0xFF else 0)))

/-- VSTS: index first, then data (R231). -/
def execVsts (w : VWord) (s : State) : Out :=
  .next (s.vword 0x83 w [srcReg w.s1] [] (fun s => s.gatherCheck 0x83 w) fun _ x s =>
    let wd := typeWidth w.ty.toNat
    let xs := elemAddrs (s.spAddr w) wd x.en (x.elems wd 0)
    let t := scatterBytes (wd / 8) (x.elems wd 1) xs
    ⟨s.spmStore (scatterPushes t) x.tag, [], false⟩)

/-! Global vector memory. -/

/-- The pointer [ga+off], modulo 2⁶⁴ (R232). -/
def State.vPtr (s : State) (w : VWord) : W64 := s.g (srcReg w.s1) + BitVec.ofNat 64 (vOffset w)

/-- A 64-byte segment holds an enabled element (R232). -/
def segmentOn (wd : Nat) (en : Nat → Bool) (j : Nat) : Bool :=
  (upto (512 / wd)).any fun i => en (j * (512 / wd) + i)

/-- The touched segments of an access by line: offset and length (R60, R232). -/
def touched (ptr wd : Nat) (en : Nat → Bool) : List (Nat × Nat) :=
  ((pieces ptr 512).map fun p =>
    match ((upto (p.2 / 64)).map (p.1 / 64 + ·)).filter (segmentOn wd en) with
    | [] => []
    | [j] => [(64 * j, 64)]
    | _ => [p]).flatten

/-- A global access to some pieces of a range: translation and rights of each page, then every granule's tag
(R83, R84, R232). One that touches nothing meets nothing. -/
def State.accessPieces (s : State) (ptr : W64) (need : Need) (ps : List (Nat × Nat)) : Res (List Part) :=
  if ps = [] then .ok [] s
  else s.atIssue ptr (match s.translateAll (some s.myCore) s.myCtx ptr need s.fresh ps with
  | .trap c r s => .trap c r s
  | .wait s => .wait s
  | .ok ps s =>
    match tagFault s.mem ptr ps with
    | some (q, h) => .trap .tagMismatch (Rec.pair q (h.setWidth 64)) s
    | none => .ok (ps.map (·.1)) s)

/-- What a global vector word asks of memory (R232, R233): alignment, its time, translation, and in a transaction its
turn and its objects. DESIGN CHOICE (log entry 120): a tagged register of a timed word traps before the transaction does. -/
def State.vGlobal (s : State) (w : VWord) (store : Bool) (time : Option W64) : Res (List Part) :=
  let ptr := s.vPtr w
  let wd := typeWidth w.ty.toNat
  if time.isSome && s.me.txn.isSome then .trap .txnIllegal Rec.zero s
  else if ptr.toNat % 64 ≠ 0 then .trap .alignment (Rec.addr ptr) s
  else match time.bind fun p => if tooFar p (s.pt s.myDie) then some (Cause.timeRange, p)
      else if store && s.late p then some (Cause.latePostmark, p) else none with
  | some (c, p) => .trap c (s.timeRec p) s
  | none =>
    let ps := touched ptr.toNat wd (s.enabled w)
    if s.txnWaits || s.walksHeld s.myDie (some s.myCore) s.myCtx ptr ps then .wait s.holds
    else match s.accessPieces ptr (if store then s.storeNeed else .read) ps with
    | .trap c r s => .trap c r s
    | .wait s => (match s.me.commitWait with
      | some (t, _) => if t ≤ s.pt s.myDie then .trap .commitFail (Rec.addr ptr) s else .wait (s.waitsAt none)
      | none => .wait (s.beginFrameWait ptr))
    | .ok ps s => match s.me.txn with
      | some x => (match s.txnObjects x ps with
        | some code => .wait (s.txnFail code)
        | none => .ok ps s)
      | none => .ok ps s

/-- The destination of a vector load in the load queue (R216). -/
def vDest (w : VWord) (tok : Nat) (places : List Nat) (x : VIn) : VDest :=
  let wd := typeWidth w.ty.toNat
  let en := enBits wd 0 x.en
  let port := 1536 ≤ w.dst.toNat
  { dst := w.dst.toNat, addr := places.headD 0, tok := tok, en := en,
    fill := if w.zero || port then 0 else x.prior.headD 0,
    pen := if w.zero then BitVec.allOnes 4096 else en, tag := x.tag }

/-- VLDM and VLDM.nb (R232, R233). -/
def State.vLoad (s : State) (opc : Nat) (w : VWord) (time : Option W64) (regs : List GReg) : State :=
  s.vissue opc w regs [] (fun s => s.vGlobal w false time) fun ps x places tok s =>
    match s.me.txn with
    | some t => s.txnLoad t ps fun v tag s =>
        (s.writeVec w opc tok places x (elems (typeWidth w.ty.toNat) v) (x.tag || tag)).issued
    | none =>
      let d := vDest w tok places x
      (s.enterLoad (match time with
        | some n => .vecNb d n
        | none => .vec d) (s.vPtr w) ps (s.sigOf w) none).issued

/-- VLDM (R232). -/
def execVldm (w : VWord) (s : State) : Out := .next (s.vLoad 0x84 w none [srcReg w.s1])

/-- VLDM.nb (R233). -/
def execVldmNb (w : VWord) (s : State) : Out :=
  .next (s.vLoad 0x86 w (some (s.g (srcReg w.s3))) [srcReg w.s1, srcReg w.s3])

/-- VSTM and VSTM.pm (R232, R233). -/
def State.vStore (s : State) (opc : Nat) (w : VWord) (time : Option W64) (regs : List GReg) : State :=
  s.vissue opc w regs [] (fun s => s.vGlobal w true time) fun ps x _ tok s =>
    let wd := typeWidth w.ty.toNat
    let v := packVec wd (x.elems wd 0)
    let en := byteMask (enBits wd 0 x.en)
    match time with
    | some p => (s.enterStore (.pm p) (s.vPtr w) ps v en x.tag (s.sigOf w) none).issued
    | none =>
      let s := if s.me.txn.isSome then s.launchFly ⟨tok, [], [], false, s.sigOf w⟩ else s
      s.storeGlobal (s.vPtr w) ps v en x.tag (s.sigOf w)

/-- VSTM (R232). -/
def execVstm (w : VWord) (s : State) : Out := .next (s.vStore 0x85 w none [srcReg w.s1])

/-- VSTM.pm: the dst field names the postmark (R233). -/
def execVstmPm (w : VWord) (s : State) : Out :=
  .next (s.vStore 0x87 w (some (s.g (w.dst.setWidth 5))) [srcReg w.s1, w.dst.setWidth 5])

end Sys2Proof.Machine
end

