-- ==== Sys2Proof/Machine/Atomics.lean ====
section
/-! DEFINITION. Machine/Atomics.lean: integer and floating-point atomics at issue, and the new value that the home slice
computes (R100, R134, R192, R193). -/
namespace Sys2Proof.Machine

/-- The type code of an AMOF format (R116, R193). -/
def amofType (f : AmofFmt) : Nat :=
  match f with
  | .f32 => 8 | .f16 => 9 | .bf16 => 10

/-- Bytes of an AMOF format (R193). -/
def amofBytes (f : AmofFmt) : Nat := typeWidth (amofType f) / 8

/-- The new memory value of an AMOF, the old value first and the register operand second (R134, R193). -/
def amofNew (fz cn sv : Bool) (op : AmofOp) (f : AmofFmt) (old b : Nat) : Nat :=
  let ty := amofType f
  let env : FEnv := ⟨.rne, fz, cn, sv⟩
  let x := unpack ty fz old
  let y := unpack ty fz b
  match op with
  | .add => fadd ty env [x, y] x y
  | .min => minmaxElem ty env false old b
  | .max => minmaxElem ty env true old b

/-- An atomic at issue: it enters the store queue; in a transaction it is a transactional load of its sector followed by a
transactional store of the computed value (R192). `new` computes the value from the old one, `back` what d receives. -/
def State.atomic (s : State) (what : StoreWhat) (d a : GReg) (vals : List GReg) (n : Nat) (new : Nat → Nat)
    (back : Nat → W64) : State :=
  let ea := s.g a
  let tag := vals.any s.gt
  s.whenReady (a :: vals) (s.clean [a] (s.lost d) (
    if ea.toNat % n ≠ 0 then s.trapD .alignment (Rec.addr ea) d
    else s.txnTurn (s.withAccess ea n (if s.me.txn.isSome then .txnBoth else .both) (State.lost d) fun ps s =>
      match s.me.txn with
      | some x => s.txnLoad x ps fun v t s =>
          let old := v.toNat % 2 ^ (8 * n)
          (match s.me.txn with
           | some x => s.txnStore x ea ps (BitVec.ofNat 4096 (new old)) (lowBytes n) (t || tag) (s.setG d (back old) t).issued
           | none => s.issued)
      | none => (s.enterStore what ea ps 0 (lowBytes n) tag none (some d)).issued)))

/-- What AMO returns: the old value, sign-extended for .w (R192). -/
def amoBack (n old : Nat) : W64 := extend n true old

/-- AMO.op.sz (R192): for cas, d is read first. -/
def execAmo (op : AmoOp) (dbl : Bool) (d a b : GReg) (s : State) : Out :=
  .next (
    let n := if dbl then 8 else 4
    let v := (s.g b).toNat % 2 ^ (8 * n)
    let cmp := (s.g d).toNat % 2 ^ (8 * n)
    s.atomic (.amo op d n (BitVec.ofNat 64 v) (BitVec.ofNat 64 cmp)) d a (if op = .cas then [b, d] else [b]) n
      (fun old => amoNew op (8 * n) old v cmp) (amoBack n))

/-- AMOF.op.fmt (R193): the old value is returned zero-extended. -/
def execAmof (fz cn sv : Bool) (op : AmofOp) (fmt : AmofFmt) (d a b : GReg) (s : State) : Out :=
  .next (
    let n := amofBytes fmt
    let v := (s.g b).toNat % 2 ^ (8 * n)
    s.atomic (.amof fz cn sv op fmt d (BitVec.ofNat 64 v)) d a [b] n
      (fun old => amofNew fz cn sv op fmt old v) (BitVec.ofNat 64))

end Sys2Proof.Machine
end

