-- ==== Sys2Proof/Machine/MemEvents.lean ====
section
/-! DEFINITION. Machine/MemEvents.lean: what homes do with the strands' queues: loads bound, stores, atomics, postmarked
parts and transactions performed, monitors, lazy commits (R60-R62, R66, R67, R86, R87, R89-R92, R100-R104). An event that
is not due changes nothing. -/
namespace Sys2Proof.Machine

/-- The context of a strand's tile task. -/
def State.ctxOfStrand (s : State) (n : Nat) : Nat :=
  match s.strandAt n with
  | some st => ((s.ttAt st.tt).map (·.ctx)).getD 64
  | none => 64

/-- The die of a strand's core. -/
def State.dieOfStrand (_ : State) (n : Nat) : Nat := dieOfCore (coreOfStrand n)

/-! The lag of the frontiers (R68). -/

/-- The lag of a die's frontier (R68). -/
def State.lag (s : State) (die : Nat) : Nat := s.pt die - s.gf die

/-- A slip is over once the lag has fallen (R68). -/
def State.settleSlips (s : State) : State :=
  let keep (d : Nat) : Bool := decide (s.time.slipth < s.lag d)
  s.modTime fun t => { t with slipped := tfilter (fun d _ => keep d) t.slipped }

/-! Loads. -/

/-- A load whose every part is bound reaches its destination and performs its signal clause (R92, R95, R216). -/
def State.finishLoad (s : State) (n : Nat) (o : LoadOp) : State :=
  let s := s.modStrand n fun st => { st with lq := st.lq.tail }
  let s := match o.what with
    | .scalar d k sgn => s.modStrand n fun st => st.bind d o.tok (extend k sgn o.got.toNat) o.tag
    | .nb d k _ => s.modStrand n fun st => st.bind d o.tok (extend k false o.got.toNat) o.tag
    | .vec x => s.deliverVec n x o.got o.tag
    | .vecNb x _ => s.deliverVec n x o.got o.tag
    | .lock d => s.modStrand n fun st => st.bind d o.tok (BitVec.ofNat 64 o.got.toNat) o.tag
    | .waitv .. => s
  s.signal (coreOfStrand n) (s.faultOfStrand n) o.sig

/-- The head of a load queue replaced, or finished once no part is left and no older scratchpad write holds back its signal or
its own write (R94, R95). -/
def State.stepLoad (s : State) (n : Nat) (o : LoadOp) : State :=
  match s.strandAt n with
  | none => s
  | some st =>
    if o.parts = [] && !((o.sig.isSome || o.toPort) && st.owesBefore o.tok) then s.finishLoad n o
    else s.setStrand n (some { st with lq := o :: st.lq.tail })

/-- One part of a load bound with bytes read. -/
def LoadOp.took (o : LoadOp) (p : Part) (rest : List Part) (bs : List Byte) (tag : Bool) : LoadOp :=
  { o with parts := rest, got := putAt o.got p.off bs, tag := o.tag || tag }

/-- Armed monitors of a slice (R104). -/
def State.monitors (s : State) (slice : Nat × Nat) : Nat :=
  (s.strands.filter fun x => match x.2.bind Strand.monitor with
    | some (o, _) => o.parts.any fun p => sliceOf p.pa = slice
    | none => false).length

/-- WAITV at its home: the word is returned at once, also where the deadline has passed, or a monitor is armed (R104, R199). -/
def State.armMonitor (s : State) (n : Nat) (o : LoadOp) (d : GReg) (e t : W64) : State :=
  match o.parts with
  | p :: _ =>
    let s := s.touchL2 (s.ctxOfStrand n) p.pa false
    if (s.mem.word8 p.pa).1 ≠ e || t.toNat ≤ s.pt (sliceOf p.pa).1 || Config.monDepth ≤ s.monitors (sliceOf p.pa) then
      s.fireMonitor n o d
    else s.modStrand n fun st => { st with lq := { o with what := .waitv d e t true } :: st.lq.tail }
  | [] => s

/-- GLOBAL_LOAD_BIND: the head of a strand's load queue binds its value, or one of its line parts (R89-R92). -/
def execGlobalLoadBind (strand : Nat) (s : State) : Out :=
  .next (
    match s.strandAt strand with
    | none => s
    | some st => match st.lq with
      | [] => s
      | o :: _ =>
        if !st.loadMay o then s
        else match o.what with
          | .nb .. | .vecNb .. => s
          | .waitv d e t armed =>
            if armed || st.stop.isSome || !s.homesFree (s.dieOfStrand strand) o.parts then s else s.armMonitor strand o d e t
          | .lock _ => match o.parts with
            | p :: _ =>
              if !s.homeFree (s.dieOfStrand strand) p.pa then s
              else (s.touchL2 (s.ctxOfStrand strand) p.pa false).stepLoad strand
                (o.took p [] (leBytes 2 (s.mem.lockAt p.pa).toNat) false)
            | [] => s
          | .scalar .. | .vec .. => match pickPart s.pick o.parts with
            | none => s.stepLoad strand o
            | some (p, rest) =>
              let core := coreOfStrand strand
              if !(s.served core p.cache p.pa s.dropsL1 s.dropsRdc || s.homeFree (s.dieOfStrand strand) p.pa) then s
              else
                let (r, s) := s.coreRead core (s.ctxOfStrand strand) p.cache p.pa p.len s.dropsL1 s.dropsRdc (s.pick / 64)
                s.stepLoad strand (o.took p rest r.1 r.2))

/-- The byte kept from before the first postmarked store of a time later than t, in the order of their times (R67). -/
def firstLater (pa t : Nat) : List Old → Option Old
  | [] => none
  | o :: os =>
    let rest := firstLater pa t os
    if o.pa = pa && t < o.p.toNat then match rest with
      | some x => if x.p.toNat < o.p.toNat then some x else some o
      | none => some o
    else rest

/-- A byte as it stood before every postmarked store of a time later than t (R67). -/
def MemState.byteBefore (m : MemState) (t : Nat) (pa : Nat) : Byte :=
  match firstLater pa t m.old with
  | some o => o.v
  | none => m.byteAt pa

/-- The poison of a sector kept from before the first postmarked store of a time later than t (R67). -/
def firstLaterTag (sec t : Nat) : List OldTag → Option OldTag
  | [] => none
  | o :: os =>
    let rest := firstLaterTag sec t os
    if o.sec = sec && t < o.p.toNat then match rest with
      | some x => if x.p.toNat < o.p.toNat then some x else some o
      | none => some o
    else rest

/-- The poison of a sector as it stood before every postmarked store of a time later than t (R67, R114). -/
def MemState.tagBefore (m : MemState) (t sec : Nat) : Bool :=
  match firstLaterTag sec t m.oldTags with
  | some o => o.tag
  | none => tget false m.poison sec

/-- A byte reads as poisoned for a not-before load of a time (R67, R114, R336, R340). -/
def MemState.nbPoison (m : MemState) (t pa : Nat) : Bool := m.tagBefore t (pa / 64) || m.discards pa

/-- A byte as a not-before load reads it: the value from before every postmarked store of a later time (R67). -/
def MemState.nbByte (m : MemState) (t : Nat) (pa : Nat) : Byte := if m.nbPoison t pa then 0 else m.byteBefore t pa

/-- The not-before loads that wait at a slice, replaced. -/
def State.setNb (s : State) (slice : Nat × Nat) (l : List (Nat × Nat × Nat)) : State :=
  s.modMem fun m => { m with nbq := tset [] m.nbq (sliceKey slice) l }

/-- NB_LOAD_PERFORM: a part of the not-before load at the head of a strand's load queue comes to its home, where it takes one
of the 128 entries if one is free; it is performed once PT and the frontier of its home have reached N (R66, R67). -/
def execNbLoadPerform (strand : Nat) (s : State) : Out :=
  .next (
    match s.strandAt strand with
    | none => s
    | some st => match st.lq with
      | [] => s
      | o :: _ =>
        match o.notBefore, pickPart s.pick o.parts with
        | some t, some (p, rest) =>
          let sl := sliceOf p.pa
          let e := (strand, o.tok, p.pa)
          let l := s.nbAt sl
          if st.stop.isSome || !st.loadMay o || !s.reaches (s.dieOfStrand strand) sl.1 then s
          else if !l.contains e && Config.nbDepth ≤ l.length then s
          else if s.pt sl.1 < t.toNat || s.gf sl.1 < t.toNat || s.dueParts sl then
            if l.contains e then s else s.setNb sl (l ++ [e])
          else
            let bs := (upto p.len).map fun i => s.mem.nbByte t.toNat (p.pa + i)
            let tag := (upto p.len).any fun i => s.mem.nbPoison t.toNat (p.pa + i)
            let s := ((s.setNb sl (l.filter (· ≠ e))).touchL2 (s.ctxOfStrand strand) p.pa false).dropCopies
              (coreOfStrand strand) (p.pa / 128)
            s.stepLoad strand (o.took p rest bs tag)
        | some _, none => s.stepLoad strand o
        | none, _ => s)

/-- WAITV_TIMEOUT: the home die's PT has reached the deadline of an armed monitor (R104). -/
def execWaitvTimeout (strand : Nat) (s : State) : Out :=
  .next (
    match s.strandAt strand with
    | none => s
    | some st => match st.monitor with
      | some (o, d, _, t) => match o.parts with
        | p :: _ =>
          if t.toNat ≤ s.pt (sliceOf p.pa).1 then (s.touchL2 (s.ctxOfStrand strand) p.pa false).fireMonitor strand o d else s
        | [] => s
      | none => s)

/-! Stores. -/

/-- The head of a store queue leaves: its signal clause is performed and the RELs behind it are looked at
(R92, R95, R98). -/
def State.finishStore (s : State) (n : Nat) (o : StoreOp) : State :=
  let s := s.modStrand n fun st => { st with sq := st.sq.tail }
  (s.signal (coreOfStrand n) (s.faultOfStrand n) o.sig).settleRels n

/-- The head of a store queue replaced, or finished once no part is left and no older push holds its signal back. -/
def State.stepStore (s : State) (n : Nat) (o : StoreOp) : State :=
  match s.strandAt n with
  | none => s
  | some st =>
    if o.parts = [] && !(o.sig.isSome && st.owesBefore o.tok) then s.finishStore n o
    else s.setStrand n (some { st with sq := o :: st.sq.tail })

/-- Locks of every granule of a part written (R84, R206); a write at a port that is down is discarded and counted (R340). -/
def MemState.setLocks (m : MemState) (p : Part) (v : BitVec 4) : MemState :=
  if m.discards p.pa then { m with cxlDropped := if (cxlPort p.pa).isSome then m.cxlDropped + 1 else m.cxlDropped }
  else (granules p.pa p.len).foldl (fun m g => m.setLock (g * 32) v) m

/-- GLOBAL_STORE_PERFORM: the home performs the store at the head of a strand's store queue, or one of its line parts, and
acknowledges it (R85, R89, R92, R206). A write to a moving frame is bounced (R338). -/
def execGlobalStorePerform (strand : Nat) (s : State) : Out :=
  .next (
    match s.strandAt strand with
    | none => s
    | some st => match st.sq with
      | [] => s
      | o :: _ =>
        if !st.storeMay o then s
        else match o.what with
          | .pm _ | .amo .. | .amof .. => s
          | .wb all =>
            let p (l : Nat) : Bool := all || o.parts.any fun x => x.pa / 128 ≤ l && l < (x.pa + x.len) / 128
            if s.backHeld (s.dieOfStrand strand) p then s else (s.writeBack p).stepStore strand { o with parts := [] }
          | .lock v => match o.parts with
            | p :: rest =>
              if s.mem.bounces p.pa || !s.homeFree (s.dieOfStrand strand) p.pa then s
              else ((s.modMem fun m => m.setLocks p v).touchL2 (s.ctxOfStrand strand) p.pa true).stepStore strand
                { o with parts := rest }
            | [] => s.stepStore strand o
          | .plain => match pickPart s.pick o.parts with
            | none => s.stepStore strand o
            | some (p, rest) =>
              if s.mem.bounces p.pa || !s.homeFree (s.dieOfStrand strand) p.pa then s
              else
                let bs := o.partBytes p
                let core := coreOfStrand strand
                ((s.homeWrite (s.ctxOfStrand strand) p.pa bs o.tag).updateCopies (some core) (dieOfCore core) p.pa bs
                  o.tag).stepStore strand { o with parts := rest })

/-- An atomic performed at its home (R100, R192, R193): on a poisoned sector it writes nothing and returns 0 tagged; at a
port that is down its write is discarded and counted as any other (R340). -/
def State.performAtomic (s : State) (n : Nat) (o : StoreOp) (p : Part) (d : GReg) (new : Nat → Nat) (back : Nat → W64) :
    State :=
  let old := s.mem.readNat p.pa p.len
  let bad := (s.mem.read p.pa p.len).2
  let s := if bad && !s.mem.discards p.pa then s.touchL2 (s.ctxOfStrand n) p.pa false
    else s.homeWrite (s.ctxOfStrand n) p.pa (whole (leBytes p.len (new old))) o.tag
  let s := s.dropCopies (coreOfStrand n) (p.pa / 128)
  (s.modStrand n fun st => st.bind d o.tok (if bad then 0 else back old) bad).finishStore n o

/-- ATOMIC_PERFORM: the atomic at the head of a strand's store queue (R90, R92, R100). -/
def execAtomicPerform (strand : Nat) (s : State) : Out :=
  .next (
    match s.strandAt strand with
    | none => s
    | some st => match st.sq with
      | [] => s
      | o :: _ =>
        match o.parts with
        | [] => s
        | p :: _ =>
          if !st.storeMay o || s.mem.bounces p.pa || !s.homeFree (s.dieOfStrand strand) p.pa then s
          else match o.what with
            | .amo op d k b cmp =>
              s.performAtomic strand o p d (fun old => amoNew op (8 * k) old b.toNat cmp.toNat) (amoBack k)
            | .amof fz cn sv op f d b =>
              s.performAtomic strand o p d (fun old => amofNew fz cn sv op f old b.toNat) (BitVec.ofNat 64)
            | _ => s)

/-! Postmarked parts (R60-R62). -/

/-- A part performed: a write at the home; the bytes it replaces stay for not-before loads of an earlier time
(R61, R67). A part that arrives after parts of later times have been performed counts before them for those loads. No L1 or
RDC copy changes (R90). -/
def State.performPart (s : State) (x : PmPart) : State :=
  let bs := (x.data.zip x.en).map fun y => if y.2 then some y.1 else none
  let hit (pa : Nat) : Bool := x.pa ≤ pa && ((bs[pa - x.pa]?).getD none).isSome
  let kept := (s.mem.old.filter fun o => hit o.pa).map fun o =>
    if x.p.toNat < o.p.toNat then { o with v := ((bs[o.pa - x.pa]?).getD none).getD o.v } else o
  let now := ((upto bs.length).filter fun i => hit (x.pa + i)).map fun i =>
    (⟨x.pa + i, x.p, s.mem.byteBefore x.p.toNat (x.pa + i)⟩ : Old)
  let secs := (sectorsOf x.pa bs.length).filter (touchesSector x.pa bs)
  let tags := s.mem.oldTags.map fun o =>
    if secs.contains o.sec && x.p.toNat < o.p.toNat then { o with tag := poisonAfter o.tag x.tag (coversSector x.pa bs o.sec) }
    else o
  let tagsNow := secs.map fun c => (⟨c, x.p, s.mem.tagBefore x.p.toNat c⟩ : OldTag)
  (s.homeWrite x.ctx x.pa bs x.tag).modMem fun m => { m with old := m.old ++ kept ++ now, oldTags := tags ++ tagsNow }

/-- POSTMARK_DELIVER: a home slice accepts a line part of the postmarked store at the head of a strand's store queue, if
its queue has an entry free; once PT has reached P it performs the part on arrival (R60, R61). -/
def execPostmarkDeliver (strand : Nat) (s : State) : Out :=
  .next (
    match s.strandAt strand with
    | none => s
    | some st => match st.sq with
      | [] => s
      | o :: _ =>
        match o.what with
        | .pm p =>
          if !st.storeMay o then s
          else match pickPart s.pick o.parts with
            | none => s.stepStore strand o
            | some (x, rest) =>
              let sl := sliceOf x.pa
              let q := tget [] s.mem.pmq (sliceKey sl)
              let part := o.pmPart p (s.ctxOfStrand strand) x
              let late := decide (p.toNat ≤ s.pt sl.1)
              if Config.pmDepth ≤ q.length || s.mem.bounces x.pa || !s.reaches (s.dieOfStrand strand) sl.1 ||
                  late && q.any (fun y => y.p.toNat ≤ p.toNat) then s
              else
                let s := if late then s.performPart part
                  else s.modMem fun m => { m with pmq := tset [] m.pmq (sliceKey sl) (q ++ [part]) }
                (s.stepStore strand { o with parts := rest }).settleSlips
        | _ => s)

/-- The part of a queue with the least postmark, the first accepted among equals, and the rest. -/
def leastPart : List PmPart → Option (PmPart × List PmPart)
  | [] => none
  | x :: xs => match leastPart xs with
    | none => some (x, xs)
    | some (y, ys) => if y.p.toNat < x.p.toNat then some (y, x :: ys) else some (x, xs)

/-- POSTMARK_PERFORM: a slice performs the queued part with the least P, once its die's PT has reached it (R61). -/
def execPostmarkPerform (die slice : Nat) (s : State) : Out :=
  .next (
    let k := sliceKey (die, slice)
    match leastPart (tget [] s.mem.pmq k) with
    | none => s
    | some (x, rest) =>
      if s.pt die < x.p.toNat then s
      else (s.modMem fun m => { m with pmq := tset [] m.pmq k rest }).performPart x)

/-! Transactions (R101, R102). -/

/-- A read sector has been written since the transaction read it, or lies in a moving frame (R101, R338). -/
def State.txnConflict (s : State) (x : Txn) : Bool :=
  x.reads.any fun r => tget 0 s.mem.ver r.1 ≠ r.2

/-- A sector of the transaction is poisoned. -/
def State.txnPoison (s : State) (x : Txn) : Bool := x.sectors.any fun c => s.mem.poisonAt (c * 64)

/-- Every buffered store performed, sector by sector, and the dirty bits set (R80, R101). -/
def State.txnPerform (s : State) (n : Nat) (x : Txn) : State :=
  let core := coreOfStrand n
  let ctx := s.ctxOfStrand n
  let s := x.stored.foldl (fun s c => s.homeWrite ctx (c.1 * 64) (tgets none x.writes (c.1 * 64) 64) c.2) s
  let s := x.sectors.foldl (fun s c => s.dropCopies core (c / 2)) s
  x.pages.foldl (fun s va => match s.translate (some core) ctx va .write false with
    | .ok _ s => s
    | .trap _ _ s => s
    | .wait s => s) s

/-- The stores of a transaction stand in their turn: after the strand's earlier stores and releases, and after the loads that a
MARK puts before them (R92, R93, R98). -/
def Strand.commitMay (st : Strand) : Bool := st.sq = [] && st.rels = [] && st.lq.all fun o => st.epoch ≤ o.epoch

/-- TXN_COMMIT: the homes find every read sector unchanged and perform the buffered stores (R101). -/
def execTxnCommit (strand : Nat) (s : State) : Out :=
  .next (
    match s.strandAt strand with
    | none => s
    | some st => match st.txn with
      | none => s
      | some x =>
        if x.phase ≠ 1 || !st.commitMay || s.txnConflict x || s.txnPoison x ||
            x.sectors.any (fun c => s.mem.bounces (c * 64) || !s.homeFree (s.dieOfStrand strand) (c * 64)) then s
        else (s.txnPerform strand x).modStrand strand fun st => { st with txn := some { x with phase := 2 } })

/-- TXN_ABORT: a home reports a conflict or poison, at TXE or before it (R102, R195). Execution continues at the abort
target; without one, TXE raises TXN_ABORT_FORCED when it is performed again. -/
def execTxnAbort (strand : Nat) (s : State) : Out :=
  .next (
    match s.strandAt strand with
    | none => s
    | some st => match st.txn with
      | none => s
      | some x =>
        let poison := x.phase = 1 && s.txnPoison x
        let conflict := x.phase < 2 && s.txnConflict x
        if !poison && !conflict then s
        else match x.target with
          | some t =>
            (s.modStrand strand fun st => { st.abortTxn (if conflict then 1 else 6) with pc := t, waiting := false, commitWait := none }).modCore
              (coreOfStrand strand) (·.modSync (·.leave (.strand strand)))
          | none =>
            if x.phase = 1 then
              s.modStrand strand fun st => { st with txn := some { x with phase := if conflict then 3 else 4 } }
            else s)

/-! Lazy commit (R86, R87). -/

/-- LAZY_COMMIT: the walker commits the page that a strand waits for, once a frame of its size is in the pool. -/
def execLazyCommit (strand : Nat) (s : State) : Out :=
  .next (
    match s.strandAt strand with
    | none => s
    | some st => match st.commitWait with
      | none => s
      | some (t, ea) =>
        let ctx := s.ctxOfStrand strand
        match s.ctxAt ctx with
        | none => s
        | some c =>
          let va := vaOf ea
          let root := (if bits ea.toNat 63 1 = 1 then c.root1 else c.root0).toNat
          if t = 0 then s
          else match walkFrom s.mem va 4 root with
            | .leaf lvl at_ e =>
              if pteF e 8 1 = 1 then match s.commit ctx lvl at_ e with
                | .ok _ s => s
                | _ => s
              else s
            | .fault _ => s)

/-- COMMIT_WAIT_TIMEOUT: a wait for a free frame has lasted 1,000,000 ns: the access raises COMMIT_FAIL when it is
performed again (R87). -/
def execCommitWaitTimeout (strand : Nat) (s : State) : Out :=
  .next (
    match s.strandAt strand with
    | none => s
    | some st => match st.commitWait with
      | some (t, ea) =>
        if t ≤ s.pt (dieOfCore (coreOfStrand strand)) then s.modStrand strand fun st => { st with commitWait := some (0, ea) }
        else s
      | none => s)

end Sys2Proof.Machine
end

