-- ==== Sys2Proof/Machine/MemFail.lean ====
section
/-! DEFINITION. Machine/MemFail.lean: errors (R113, R115), row sparing and frame retirement (R336), park-tier channels
(R337), channel retirement (R338), CXL ports (R339, R340) and the refill of free pools (R87). -/
namespace Sys2Proof.Machine

/-! Errors (R113). -/

/-- One more error corrected. -/
def MemState.corrects (m : MemState) : MemState := { m with corrected := m.corrected + 1 }

/-- The L2 way that holds a line. -/
def MemState.l2Way (m : MemState) (line : Nat) : Option Way :=
  (tget [] m.l2Sets (l2Key (line * 128))).find? fun w => w.line = line

/-- A clean line dropped from its L2 slice. -/
def MemState.dropL2 (m : MemState) (line : Nat) : MemState :=
  let k := l2Key (line * 128)
  { m with l2Sets := tset [] m.l2Sets k ((tget [] m.l2Sets k).filter fun w => w.line ≠ line || w.dirty) }

/-- UNCORRECTABLE_ERROR: what it strikes decides (R113). An error in memory, rather than in a dirty L2 line, makes its row
fail (R336). -/
def execUncorrectableError (e : ErrorAt) (s : State) : Out :=
  .next (
    match e with
    | .l1 core line => (s.dropL1 core line).modMem (·.corrects)
    | .rdc die line => (s.dropRdc die line).modMem (·.corrects)
    | .l2Clean line => s.modMem fun m => (m.dropL2 line).corrects
    | .memory pa => s.modMem fun m => { m with
        poison := tset false m.poison (pa / 64) true
        poisoned := m.poisoned + 1
        rowBad := if (m.l2Way (pa / 128)).any (·.dirty) then m.rowBad else tset false m.rowBad (Config.rowOf pa) true }
    | .controlOf n => s.modStrand n fun st => { st with ctlError := true }
    | .controlOfEngine core q =>
      if core < Config.cores && q < 7 then s.modCore core fun c => { c with ctlErrors := c.ctlErrors ++ [q] } else s
    | .controlOfFetch n => s.modStrand n fun st => { st with ctlFetch := true }
    | .controlOfDie => s.modMem fun m => { m with ctlError := true }
    | .controlIdle ctx => s.containCtx (noUnit ctx) .memControlError Rec.zero)

/-- CORRECTABLE_ERROR: corrected and counted (R113, R336). -/
def execCorrectableError (pa : Nat) (s : State) : Out :=
  .next (s.modMem fun m => { m.corrects with
    rowErr := tset [] m.rowErr (Config.rowOf pa) (tget 0 s.time.pt (sliceOf pa).1 :: tget [] m.rowErr (Config.rowOf pa)) })

/-- One hour of PT, in ns. -/
def hour : Nat := 3600000000000

/-- Spare rows of a bank (R336, R337). -/
def spareRows (pa : Nat) : Nat := if parkBase ≤ pa then 4 else 8

/-- A frame retired: every sector reads as poisoned, and it leaves the free pool (R336). -/
def MemState.retireFrame (m : MemState) (pa : Nat) : MemState :=
  { m with
    frames := tset .normal m.frames (frameOf pa) .retired
    pool := (m.pool.map fun (k, l) => (k, l.filter fun f =>
      !(f ≤ pa && pa < f + 2 ^ pageLog (k % 4)))).filter fun x => x.2 ≠ [] }

/-- ROW_SPARE_REPLACE: a row with an uncorrectable error, or with more than 64 corrected ones in an hour, is replaced;
with no spare left its frame is retired (R336). -/
def execRowSpareReplace (pa : Nat) (s : State) : Out :=
  .next (
    let row := Config.rowOf pa
    let bank := Config.bankOf pa
    let now := tget 0 s.time.pt (sliceOf pa).1
    let recent := (tget [] s.mem.rowErr row).filter fun t => now < t + hour
    if !(tget false s.mem.rowBad row) && recent.length ≤ 64 then s
    else
      let s := s.modMem fun m => { m with rowErr := tset [] m.rowErr row [], rowBad := tset false m.rowBad row false }
      if tget 0 s.mem.spares bank < spareRows pa then
        s.modMem fun m => { m with spares := tset 0 m.spares bank (tget 0 m.spares bank + 1) }
      else
        (s.modMem fun m => m.retireFrame pa).mEvent Cause.rowSpareExhausted.code
          (Config.eventNum Cause.rowSpareExhausted.code.toNat s.time.log.length))

/-- PARK_SELF_REFRESH: a park-tier channel with no access for 1 ms (R337). -/
def execParkSelfRefresh (channel : Nat) (s : State) : Out :=
  .next (
    if channel < 16 && tget 0 s.mem.chanAccess channel + 1000000 ≤ s.pt sfd then
      s.modMem fun m => { m with refresh := tset false m.refresh channel true }
    else s)

/-! Channel retirement (R338). -/

/-- The entries of a table and of the tables below it: level, address, entry. -/
def tableEntries (m : MemState) : Nat → Nat → List (Nat × Nat × W64)
  | 0, table => (upto 32).filterMap fun i =>
      let e : W64 := BitVec.ofNat 64 (m.readNat (table + 8 * i) 8)
      if pteF e 0 1 = 1 then some (0, table + 8 * i, e) else none
  | l + 1, table => ((upto 512).map fun i =>
      let e : W64 := BitVec.ofNat 64 (m.readNat (table + 8 * i) 8)
      if pteF e 0 1 = 0 then []
      else (l + 1, table + 8 * i, e) ::
        (if pteF e 1 1 = 1 then [] else match nextTable m (l + 1) e with
          | some t => tableEntries m l t
          | none => [])).flatten

/-- The table roots of every context. -/
def State.roots (s : State) : List Nat :=
  (s.ctxs.map fun x => match x.2 with
    | some c => ([c.root0.toNat, c.root1.toNat]).filter (· ≠ 0)
    | none => []).flatten

/-- Every entry of every context's tables. -/
def State.allEntries (s : State) : List (Nat × Nat × W64) := (s.roots.map (tableEntries s.mem 4)).flatten

/-- An entry is a leaf that maps memory. -/
def mapsMemory (e : W64) : Bool := pteF e 1 1 = 1 && pteF e 8 1 = 0

/-- The physical address that an entry leads to: its frame, or its next table. -/
def entryTarget (e : W64) : Nat := if pteF e 1 1 = 1 then pteF e 16 36 * 65536 else pteF e 8 44 * 256

/-- A free frame of the management core's pool of a die, outside the channel that is being retired. -/
def State.takeFrame (s : State) (die : Nat) : Option Nat × State :=
  let l := tget [] s.mem.pool (4 * die)
  match l.find? fun f => s.mem.retiring ≠ channelOf f with
  | some f => (some f, (s.zeroFrame f 65536).modMem fun m => { m with pool := tset [] m.pool (4 * die) (l.filter (· ≠ f)) })
  | none => (none, s)

/-- A leaf of level 2 or 1 replaced by a table of leaves of the level below, down to level 0; none where the pool has no frame
for a table (R338). -/
def State.splitLeaf (s : State) : Nat → Nat → W64 → Option State
  | 0, _, _ => some s
  | l + 1, at_, e =>
    match s.takeFrame (pteF e 12 4) with
    | (none, _) => none
    | (some f, s) =>
      let n := if l = 0 then 32 else 512
      let child (i : Nat) : W64 := e + BitVec.ofNat 64 (i * 2 ^ pageLog l)
      let s := (upto n).foldl (fun s i => s.homeWrite8 64 (f + 8 * i) (child i)) s
      let s := s.homeWrite8 64 at_ (BitVec.ofNat 64 (f + 1))
      if l = 0 then some s
      else (upto n).foldl (fun s i => s.bind fun s => s.splitLeaf l (f + 8 * i) (child i)) (some s)

/-- A leaf, or a table, that an entry of a level leads to lies in a channel: a page larger than a frame spans every channel of its
die (R335, R337, R338). -/
def inChannel (lvl : Nat) (e : W64) (d c : Nat) : Bool :=
  if 1 ≤ lvl && pteF e 1 1 = 1 then (channelOf (entryTarget e)).map (·.1) = some d else channelOf (entryTarget e) = some (d, c)

/-- The channel being retired is retired once no entry, root or context area leads to it: its frames are unbacked
(R338). -/
def State.endRetirement (s : State) : State :=
  match s.mem.retiring with
  | none => s
  | some (d, c) =>
    let inside (pa : Nat) : Bool := channelOf pa = some (d, c)
    if s.allEntries.any (fun x => (mapsMemory x.2.2 || pteF x.2.2 1 1 = 0) && inChannel x.1 x.2.2 d c) ||
        s.roots.any inside || s.mem.areas.any (fun x => inside x.2.toNat) then s
    else s.modMem fun m => { m with retiring := none, dead := tset false m.dead (32 * d + c) true }

/-- CHANNEL_RETIRE: large leaves are split, the channel's frames leave the free pool and are marked moving; while the pool has too
few frames for the tables of the split, nothing happens (R338). -/
def execChannelRetire (die channel : Nat) (s : State) : Out :=
  .next (
    let ok := (die < 8 && channel < 32) || (die = sfd && channel < 16)
    if !ok || s.mem.retiring.isSome || tget false s.mem.dead (32 * die + channel) then s
    else
      let s' := s.modMem fun m => { m with
        retiring := some (die, channel)
        pool := (m.pool.map fun (k, l) => (k, l.filter fun f =>
          !(k / 4 = die && (k % 4 ≠ 0 || channelOf f = some (die, channel))))).filter fun x => x.2 ≠ [] }
      let big := s'.allEntries.filter fun x =>
        1 ≤ x.1 && mapsMemory x.2.2 && (channelOf (entryTarget x.2.2)).map (·.1) = some die
      match big.foldl (fun s x => s.bind fun s => s.splitLeaf x.1 x.2.1 x.2.2) (some s') with
      | none => s
      | some s =>
        (s.dropTlb fun t => 16 < t.log && (channelOf (pteF t.pte 16 36 * 65536)).map (·.1) = some die).endRetirement)

/-- An address of a moved frame. -/
def movedTo (frame target pa : Nat) : Nat := if frame ≤ pa && pa < frame + 65536 then pa - frame + target else pa

/-- An entry that leads into a moved frame, rewritten. -/
def moveEntry (frame target : Nat) (home : Nat) (e : W64) : W64 :=
  let t := entryTarget e
  if frame ≤ t && t < frame + 65536 then
    if pteF e 1 1 = 1 then
      BitVec.ofNat 64 (e.toNat - t + target - pteF e 12 4 * 2 ^ 12 + home * 2 ^ 12)
    else BitVec.ofNat 64 (e.toNat - t + (t - frame + target))
  else e

/-- Entries of a table of memory that lie in a frame, at their places in another. -/
def moveTab {α : Type} [DecidableEq α] (d : α) (t : Tab α) (from_ to_ n : Nat) : Tab α :=
  (t.filter fun x => from_ ≤ x.1 && x.1 < from_ + n).foldl (fun t x => tset d t (x.1 - from_ + to_) x.2)
    (t.filter fun x => !(from_ ≤ x.1 && x.1 < from_ + n))

/-- A frame copied with its locks, lock history and poison: every sector of a retired frame, or of one at a port that is down,
reads as poisoned and so arrives poisoned (R114, R336, R340). At a port that is down the copy's writes are discarded, and counted
line by line (R340). -/
def MemState.copyFrame (m : MemState) (frame target : Nat) : MemState :=
  let bytes := moveTab 0 m.bytes frame target 65536
  let poison := moveTab false m.poison (frame / 64) (target / 64) 1024
  let locks := moveTab 0 m.locks (frame / 32) (target / 32) 2048
  if m.discards target then { m with cxlDropped := if (cxlPort target).isSome then m.cxlDropped + 512 else m.cxlDropped }
  else { m with
    bytes := bytes
    poison := if m.discards frame then (upto 1024).foldl (fun t i => tset false t (target / 64 + i) true) poison else poison
    locks := locks }

/-- A frame moved: its bytes and what stands beside them (`MemState.copyFrame`), and its postmark-queue entries and the not-before
loads that wait for it, which go to the new home's slices. -/
def MemState.moveFrame (m : MemState) (frame target : Nat) : MemState :=
  let parts := (m.pmq.map (·.2)).flatten.filter fun x => frame ≤ x.pa && x.pa < frame + 65536
  let inside (x : Nat × Nat × Nat) : Bool := frame ≤ x.2.2 && x.2.2 < frame + 65536
  let loads := (m.nbq.map (·.2)).flatten.filter inside
  let others := (m.nbq.map fun (k, l) => (k, l.filter fun x => !inside x)).filter fun x => x.2 ≠ []
  let left := (m.pmq.map fun (k, l) => (k, l.filter fun x => !(frame ≤ x.pa && x.pa < frame + 65536))).filter fun x => x.2 ≠ []
  { m.copyFrame frame target with
    old := m.old.map fun o => { o with pa := movedTo frame target o.pa }
    oldTags := m.oldTags.map fun o => { o with sec := movedTo frame target (o.sec * 64) / 64 }
    pmq := parts.foldl (fun t x =>
      let y := { x with pa := movedTo frame target x.pa }
      tmod [] t (sliceKey (sliceOf y.pa)) (· ++ [y])) left
    nbq := loads.foldl (fun t x =>
      let y := (x.1, x.2.1, movedTo frame target x.2.2)
      tmod [] t (sliceKey (sliceOf y.2.2)) (· ++ [y])) others
    frames := tset .normal m.frames (frameOf frame) .unbacked
    areas := m.areas.map fun (c, a) => (c, BitVec.ofNat 64 (movedTo frame target a.toNat)) }

/-- A strand's queued accesses sent to the new home; a transaction that holds a sector of the frame will abort for a
conflict (R338). -/
def Strand.moveFrame (st : Strand) (frame target : Nat) : Strand :=
  let mv (p : Part) : Part := { p with pa := movedTo frame target p.pa }
  { st with
    lq := st.lq.map fun o => { o with full := o.full.map mv, parts := o.parts.map mv }
    sq := st.sq.map fun o => { o with parts := o.parts.map mv }
    sqAgain := st.sqAgain.map fun o => { o with parts := o.parts.map mv }
    txn := st.txn.map fun x => match x.sectors.find? fun c => frame ≤ c * 64 && c * 64 < frame + 65536 with
      | some c => { x with reads := x.reads ++ [(c, 0), (c, 1)] }
      | none => x }

/-- The queued accesses of every strand, running or saved, sent to the new home (R338). -/
def State.moveQueues (s : State) (frame target : Nat) : State :=
  let saved : Tab (Option Saved) := s.work.saved.map fun x => (x.1, x.2.map fun v =>
    { v with strands := v.strands.map fun y => (y.1, y.2.moveFrame frame target) })
  let strands : Tab (Option Strand) := s.strands.map fun x => (x.1, x.2.map fun st => st.moveFrame frame target)
  { s with strands := strands, work := { s.work with saved := saved } }

/-- A context's table roots, and the places of its leaves in escrow, after a move. -/
def Ctx.moveFrame (c : Ctx) (frame target : Nat) : Ctx :=
  { c with
    root0 := BitVec.ofNat 64 (movedTo frame target c.root0.toNat)
    root1 := BitVec.ofNat 64 (movedTo frame target c.root1.toNat)
    escrow := c.escrow.map fun l => l.map fun x => (movedTo frame target x.1, x.2) }

/-- Host writes through BAR 2 performed in order, up to the first that waits for its home or that a moving frame bounces; bytes at
unbacked addresses are discarded (R333, R338, R342). -/
def State.hostWrites (s : State) : State :=
  let rec go : List (Nat × List Byte) → State → State
    | [], s => s.modHost fun h => { h with writes := [] }
    | w :: ws, s =>
      if s.rangeHeld true w.1 w.2.length then s.modHost fun h => { h with writes := w :: ws }
      else go ws (s.homeWriteAll 64 w.1 (w.2.zipIdx.map fun x => if (s.mem.homeDie (w.1 + x.2)).isSome then some x.1 else none) false)
  go s.host.writes s

/-- Host writes to a moved frame are sent to its new home: each is cut where the frame begins and ends (R338). -/
def moveWrites (frame target : Nat) (ws : List (Nat × List Byte)) : List (Nat × List Byte) :=
  (ws.map fun w =>
    let a := frame - w.1
    let z := frame + 65536 - w.1
    ([(w.1, w.2.take a), (movedTo frame target (w.1 + a), (w.2.take z).drop a), (w.1 + z, w.2.drop z)]).filter fun x =>
      x.2 ≠ []).flatten

/-- FRAME_MOVE: a frame of the channel that is being retired moves to a free frame of another channel (R338). -/
def execFrameMove (frame target : Nat) (s : State) : Out :=
  .next (
    let die := (sliceOf target).1
    if s.mem.retiring.isNone || s.mem.retiring ≠ channelOf frame || frame % 65536 ≠ 0 ||
        !(tget [] s.mem.pool (4 * die)).contains target || (channelOf target).isNone then s
    else
      let s := (s.zeroFrame target 65536).modMem fun m => { m with
        pool := tset [] m.pool (4 * die) ((tget [] m.pool (4 * die)).filter (· ≠ target)) }
      -- monitors return the unchanged word
      let s := s.strands.foldl (fun s x => match x.2.bind Strand.monitor with
        | some (o, d, _, _) =>
          if o.parts.any fun p => frame ≤ p.pa && p.pa < frame + 65536 then s.fireMonitor x.1 o d else s
        | none => s) s
      let s : State := s.allEntries.foldl (fun s x =>
        let e := moveEntry frame target die x.2.2
        if (mapsMemory x.2.2 || pteF x.2.2 1 1 = 0) && e ≠ x.2.2 then s.homeWrite8 64 x.2.1 e else s) s
      let cs : Tab (Option Ctx) := s.ctxs.map fun x => (x.1, x.2.map fun c => c.moveFrame frame target)
      let s := ({ s with ctxs := cs } : State).moveQueues frame target
      let s := (((s.touchChannel frame).touchChannel target).modMem fun m => m.moveFrame frame target).dropTlb fun t =>
        frame / 65536 = pteF t.pte 16 36
      (s.endRetirement.modHost fun h => { h with writes := moveWrites frame target h.writes }).hostWrites)

/-! CXL ports (R339, R340). -/

/-- CXL_LINK_UP: the expander's capacity is mapped at the start of the port's range (R339). -/
def execCxlLinkUp (port capacity : Nat) (s : State) : Out :=
  .next (
    if 4 ≤ port then s
    else s.modMem fun m => { m with
      cxlUp := tset false m.cxlUp port true, cxlCap := tset 0 m.cxlCap port (min capacity cxlBase) })

/-- CXL_LINK_DOWN: reads return poisoned sectors and writes are discarded from now on (R340). -/
def execCxlLinkDown (port : Nat) (s : State) : Out :=
  .next (
    if !(tget false s.mem.cxlUp port) then s
    else (s.modMem fun m => { m with cxlUp := tset false m.cxlUp port false }).modTime fun t =>
      { t with log := t.log ++ [.port port (tget 0 t.pt cd)] })

/-- FREE_POOL_REFILL: the management core gives a frame of a page size to a die's pool (R87). -/
def execFreePoolRefill (die size frame : Nat) (s : State) : Out :=
  .next (
    let k := 4 * die + size
    let n := 2 ^ pageLog size
    let taken := s.mem.pool.any fun x => x.2.any fun f => f < frame + n && frame < f + 2 ^ pageLog (x.1 % 4)
    if 2 < size || frame % n ≠ 0 || taken ||
        s.mem.retiring.any (fun x => if size = 0 then channelOf frame = some x else (channelOf frame).map (·.1) = some x.1) ||
        !((upto (n / 65536)).all fun i => s.mem.homeDie (frame + 65536 * i) = some die &&
          tget .normal s.mem.frames (frameOf frame + i) = .normal) then s
    else s.modMem fun m => { m with pool := tset [] m.pool k (tget [] m.pool k ++ [frame]) })

end Sys2Proof.Machine
end

