-- ==== Sys2Proof/Machine/Complete.lean ====
section
/-! DEFINITION. Machine/Complete.lean: vector words that complete (R213, R216), and waits for package time that end (R202). -/
namespace Sys2Proof.Machine

/-- A vector word in flight is held back: its writes by the strand's older scratchpad writes, and its signal by those and its
own (R94, R95). -/
def Strand.holdsFly (st : Strand) (f : Fly) : Bool :=
  if f.pushes = [] then f.sig.isSome && st.owesBefore (f.tok + 1) else st.owesBefore f.tok

/-- Every result of a vector word produced, on one clock (R210). -/
def Strand.produceAll (st : Strand) (f : Fly) : Strand :=
  f.outs.foldl (fun st o => st.produce o.1 f.tok o.2.1 o.2.2) st

/-- VECTOR_WORD_COMPLETION: the word of a strand in flight at an index writes its results and performs its signal clause
(R47, R95, R151, R213, R216). -/
def execVectorWordCompletion (strand index : Nat) (s : State) : Out :=
  .next (
    match s.strandAt strand with
    | none => s
    | some st => match st.fly[index]? with
      | none => s
      | some f =>
        if st.holdsFly f then s
        else
          let ctx := s.ctxOfStrand strand
          let core := coreOfStrand strand
          let s := s.setStrand strand (some ({ st with fly := st.fly.eraseIdx index }.produceAll f))
          let s := s.modCore core fun c => c.pushAll ctx f.pushes f.tag
          s.signal core (s.faultOfStrand strand) f.sig)

/-- WAITPT_COMPLETE: package time has reached the target of a strand's WAITPT, which retires when it is performed again
(R202). -/
def execWaitptComplete (strand : Nat) (s : State) : Out :=
  .next (
    match s.strandAt strand with
    | none => s
    | some st => match st.waitPt with
      | some t =>
        if t.toNat ≤ s.pt (dieOfCore (coreOfStrand strand)) then
          s.modStrand strand fun st => { st with waitPt := none, waiting := false }
        else s
      | none => s)

end Sys2Proof.Machine
end

