-- ==== Sys2Proof/Machine/Matrix.lean ====
section
/-! DEFINITION. Machine/Matrix.lean: what the matrix engine does with its state when a command is performed (R131, R132,
R239-R248): operands and layout, the tile step, accumulator and scale transfers. -/
namespace Sys2Proof.Machine

/-! Operands (R117, R241). -/

/-- n elements of width w from bytes, lowest first. -/
def elemsOf (w n : Nat) (bs : List Byte) : List Nat :=
  let v := leNat bs
  (upto n).map fun k => bits v (w * k) w

/-- K and whether scales are allowed and required, of a pair of formats; none when the pair is not allowed (R241). -/
def mmaPair (fa fb : Nat) : Option (Nat × Bool × Bool) :=
  if (fa = 10 ∧ fb = 10) ∨ (fa = 9 ∧ fb = 9) then some (64, false, false)
  else if (fa = 11 ∨ fa = 12) ∧ (fb = 11 ∨ fb = 12) then some (128, true, false)
  else if fa = 13 ∧ fb = 13 then some (256, true, true)
  else if fa < 2 ∧ fb < 2 then some (128, false, false)
  else if (fa = 6 ∨ fa = 7) ∧ (fb = 6 ∨ fb = 7) then some (256, false, false)
  else none

/-- The scratchpad address of an operand (R244). -/
def spmAddr (base : W64) (unit off : Nat) : Nat := (base.toNat + unit * off) % 2 ^ 21

/-- The scratchpad address of ACCRD, ACCWR and SCLD, which no modulus brings back into the scratchpad (R246, R248). -/
def spmPlace (base : W64) (unit off : Nat) : W64 := base + BitVec.ofNat 64 (unit * off)

/-! The accumulator (R240). -/

/-- The number of an accumulator word. -/
def accKey (tile i j : Nat) : Nat := 4096 * tile + 64 * i + j

/-- The 4,096 words of a tile, row by row. -/
def Core.accTile (c : Core) (tile : Nat) : List W32 := tgets 0 c.acc (accKey tile 0 0) 4096

/-- A tile written. -/
def Core.setAcc (c : Core) (tile : Nat) (ws : List W32) (tag : Bool) : Core :=
  { c with acc := tsets 0 c.acc (accKey tile 0 0) ws, accTag := tset false c.accTag tile tag }

/-- A tile made 0 and untagged. -/
def Core.zeroAcc (c : Core) (tile : Nat) : Core :=
  { c with
    acc := tfilter (fun k _ => !(accKey tile 0 0 ≤ k && k < accKey (tile + 1) 0 0)) c.acc
    accTag := tset false c.accTag tile false }

/-! The tile step. -/

/-- A finite value cut to a multiple of 2^q, toward zero, as a signed multiple. -/
def truncAt (q : Int) : FVal → Int
  | .fin s m e =>
    let n : Nat := if q ≤ e then m * 2 ^ (e - q).toNat else m / 2 ^ (q - e).toNat
    if s then -(n : Int) else n
  | _ => 0

/-- The exponent of the leading bit of a nonzero finite value. -/
def leadExp : FVal → Option Int
  | .fin _ m e => if m = 0 then none else some ((m.log2 : Int) + e)
  | _ => none

/-- An infinity of a sign. -/
def FVal.isInf (neg : Bool) : FVal → Bool
  | .inf s => s = neg
  | _ => false

/-- How the matrix and special-function engines round: RNE, subnormals kept, canonical NaNs. -/
def engineEnv : FEnv := ⟨.rne, false, true, false⟩

/-- A floating tile step of one element, from the exact terms (R131). -/
def mxeFloatStep (terms : List FVal) : Nat :=
  let pos := terms.any (·.isInf false)
  let neg := terms.any (·.isInf true)
  if terms.any (·.isNan) || (pos && neg) then 0x7FC00000
  else if pos || neg then infResult 8 engineEnv neg false
  else match terms.filterMap leadExp with
    | [] => 0
    | e :: es =>
      let q := es.foldl max e - 60
      roundInt 8 engineEnv ((terms.map (truncAt q)).foldl (· + ·) 0) q false

/-- An integer tile step of one element (R132). -/
def mxeIntStep (c : W32) (ps : List Int) (sat : Bool) : W32 :=
  let s := ps.foldl (· + ·) c.toInt
  BitVec.ofInt 32 (if sat then clamp (-(2 ^ 31)) (2 ^ 31 - 1) s else s)

/-- A vector of an operand as exact values, its block scales applied (R131, R242). -/
def Core.scaledVec (c : Core) (ty : Nat) (col : Option Nat) (lane : Nat) (xs : List Nat) : List FVal :=
  xs.mapIdx fun k x =>
    let v := unpack ty (ty = 10) x
    match col with
    | none => v
    | some ca => scaled (scaleOf (tget 0 c.scale (128 * lane + ca + k / 32)).toNat) v

/-- The bytes and tag of a vector of an operand, from the scratchpad or from a weight-buffer tile. -/
def Core.mmaVector (c : Core) (wb : Bool) (at_ i : Nat) : List Byte × Bool :=
  if wb then
    (tgets 0 c.wb (131072 * c.side + 8192 * at_ + 128 * i) 128, tget false c.wbTag (64 * (16 * c.side + at_) + i))
  else c.spmRead (at_ + 128 * i) 128

/-- A scale of a lane that a step reads is tagged (R245). -/
def Core.scaleTagged (c : Core) (lane col n : Nat) : Bool :=
  (upto n).any fun b => tget false c.scaleTag (128 * lane + col + b)

/-- MMA and MMAZ performed (R245), from the scratchpad addresses of A and B. -/
def Core.mmaStep (c : Core) (x : MmaArgs) (zero : Bool) (addrA addrB : Nat) : Core :=
  let fa := x.fa.toNat
  let fb := x.fb.toNat
  let m := x.m1.toNat + 1
  let n := x.n1.toNat + 1
  let k := ((mmaPair fa fb).map (·.1)).getD 0
  let tile := x.acc.toNat
  let av := (upto m).map fun i => c.mmaVector false addrA i
  let bv := (upto n).map fun j => c.mmaVector x.bsrc (if x.bsrc then x.offB.toNat % 16 else addrB) j
  let as := av.map fun v => elemsOf (typeWidth fa) k v.1
  let bs := bv.map fun v => elemsOf (typeWidth fb) k v.1
  let cells : List (List W32) :=
    if mmaFloat fa then
      let fas := as.mapIdx fun i v => c.scaledVec fa (if x.scaled then some x.ca.toNat else none) i v
      let fbs := bs.mapIdx fun j v => c.scaledVec fb (if x.scaled then some x.cb.toNat else none) j v
      fas.mapIdx fun i a => fbs.mapIdx fun j b =>
        let old : FVal := if zero then .fin false 0 0 else unpack 8 false (tget 0 c.acc (accKey tile i j)).toNat
        BitVec.ofNat 32 (mxeFloatStep (old :: List.zipWith fmulX a b))
    else
      as.mapIdx fun i a => bs.mapIdx fun j b =>
        let old : W32 := if zero then 0 else tget 0 c.acc (accKey tile i j)
        mxeIntStep old (List.zipWith (fun p q => intOf fa p * intOf fb q) a b) x.sat
  let acc := (cells.foldl (fun (t : Tab W32 × Nat) row => (tsets 0 t.1 (accKey tile t.2 0) row, t.2 + 1)) (c.acc, 0)).1
  let tagged := (av.any (·.2)) || (bv.any (·.2)) || (x.scaled &&
    ((upto m).any (fun i => c.scaleTagged i x.ca.toNat (k / 32)) ||
     (upto n).any fun j => c.scaleTagged j x.cb.toNat (k / 32)))
  let accTag := if tagged then tset false c.accTag tile true
    else if zero && m = 64 && n = 64 then tset false c.accTag tile false else c.accTag
  { c with acc := acc, accTag := accTag }

/-! Transfers. -/

/-- The types of ACCRD and ACCWR (R246): f32, i32, f16, bf16, i16, i8. -/
def accType (ty : Nat) : Bool := [8, 4, 9, 10, 2, 0].contains ty

/-- A finite f32 word that no f16 reaches even when it is truncated: 2^16 or more. Every finite f32 is truncated into bf16
(R246). -/
def overflows16 (ty : Nat) (v : W32) : Bool :=
  ty = 9 && 0x47800000 ≤ v.toNat % 2 ^ 31 && v.toNat % 2 ^ 31 < 0x7F800000

/-- An accumulator word as an element of the scratchpad (R246). -/
def accOut (ty : Nat) (rz sat : Bool) (v : W32) : Nat :=
  if ty = 8 || ty = 4 then v.toNat
  else if isFloat ty then
    let env : FEnv := ⟨if rz then .rz else .rne, false, true, sat⟩
    if rz && !sat && overflows16 ty v then infResult ty env v.msb false else toFloat ty env (unpack 8 false v.toNat)
  else lowBits (typeWidth ty) (if sat then clamp (intMin true (typeWidth ty)) (intMax true (typeWidth ty)) v.toInt
    else v.toInt)

/-- An element of the scratchpad as an accumulator word (R246). -/
def accIn (ty x : Nat) : W32 :=
  if ty = 8 || ty = 4 then BitVec.ofNat 32 x
  else if isFloat ty then BitVec.ofNat 32 (toFloat 8 ⟨.rne, false, false, false⟩ (unpack ty false x))
  else BitVec.ofInt 32 (signed (typeWidth ty) x)

/-- Bytes of a tile in the scratchpad. -/
def accBytes (ty : Nat) : Nat := 4096 * typeWidth ty / 8

/-- ACCRD performed. -/
def Core.accRead (c : Core) (ctx : Nat) (x : AccArgs) (addr : Nat) : Core :=
  let ty := x.ty.toNat
  let tile := x.acc.toNat
  let n := typeWidth ty / 8
  let bs := ((c.accTile tile).map fun v => leBytes n (accOut ty x.rz x.sat v)).flatten
  let c' := c.spmWrite ctx addr (whole bs) (tget false c.accTag tile)
  if x.clr then c'.zeroAcc tile else c'

/-- ACCWR performed. -/
def Core.accWrite (c : Core) (x : AccArgs) (addr : Nat) : Core :=
  let ty := x.ty.toNat
  let (bs, tag) := c.spmRead addr (accBytes ty)
  c.setAcc x.acc.toNat ((elemsOf (typeWidth ty) 4096 bs).map (accIn ty)) tag

/-- ACCZ performed. -/
def Core.accZero (c : Core) (mask : BitVec 16) : Core :=
  (upto 16).foldl (fun c i => if mask.getLsbD i then c.zeroAcc i else c) c

/-- SCLD performed (R248). -/
def Core.scaleLoad (c : Core) (x : SclArgs) (addr : Nat) : Core :=
  let n := x.nc1.toNat + 1
  (upto 64).foldl (fun c l => (upto n).foldl (fun c j =>
    let (bs, tag) := c.spmRead (addr + 2 * (l * n + j)) 2
    let key := 128 * l + x.c0.toNat + j
    { c with
      scale := tset 0 c.scale key (BitVec.ofNat 16 (leNat bs % 512))
      scaleTag := tset false c.scaleTag key tag }) c) c

/-! Ownership (R239). -/

/-- The MXE state at the moment a tile task of a context takes it. -/
def Core.takeMxe (c : Core) (tt ctx : Nat) : Core :=
  let c := if c.mxeCtx = some ctx then c
    else { c with acc := [], accTag := [], scale := [], scaleTag := [], wb := [], wbTag := [] }
  { c with mxeOwner := some tt, mxeCtx := some ctx, side := 0 }

end Sys2Proof.Machine
end

