-- ==== Sys2Proof/Machine/Engines.lean ====
section
/-! DEFINITION. Machine/Engines.lean: engine words at issue (R137, R236, R237, R239), and the queues: heads, wait clauses,
faults outside the strand and completion (R52, R236, R250-R252). -/
namespace Sys2Proof.Machine

/-! Queues: 0 the MXE, 1 to 4 the courier queues, 5 the weight stream, 6 the special-function queue (R97, R236). -/

/-- The head field of an engine word. -/
def engineHead : Instr → Option EHead
  | .mma h _ => some h | .mmaz h _ => some h | .accrd h _ => some h | .accwr h _ => some h | .accz h _ => some h
  | .scld h _ => some h | .wstrm h _ => some h | .wsel h _ => some h | .cpy h _ => some h | .cpyt h _ => some h
  | .cpyf h _ => some h | .chain h _ => some h | .sfjExp h _ => some h | .sfjLog h _ => some h
  | .sfjSoftmax h _ => some h | .sfjTopk h _ => some h | .sfjSort h _ => some h | .sfjSample h _ => some h
  | _ => none

/-- The words that a MXE word with a weight-buffer operand is ordered against (R252). -/
def readsWb : Instr → Bool
  | .mma _ x => x.bsrc
  | .mmaz _ x => x.bsrc
  | _ => false

/-- Tiles for which a command is held until the steps that write them have ended (R249). -/
def heldTiles : Instr → List Nat
  | .accrd _ x => [x.acc.toNat]
  | .accwr _ x => [x.acc.toNat]
  | .accz _ mask => (upto 16).filter fun i => mask.getLsbD i
  | _ => []

/-- The tile that a step writes. -/
def stepTile : Instr → Option Nat
  | .mma _ x => some x.acc.toNat
  | .mmaz _ x => some x.acc.toNat
  | _ => none

/-- An engine queue of a core. -/
def Core.queue (c : Core) (q : Nat) : List Cmd := tget [] c.queues q

/-- An engine queue put in place. -/
def Core.setQueue (c : Core) (q : Nat) (l : List Cmd) : Core := { c with queues := tset [] c.queues q l }

/-- A command of a queue changed. -/
def Core.modCmd (c : Core) (q id : Nat) (f : Cmd → Cmd) : Core :=
  c.setQueue q ((c.queue q).map fun x => if x.id = id then f x else x)

/-- The command at the head of a queue: the first that has not started (R236). -/
def Core.head (c : Core) (q : Nat) : Option Cmd := (c.queue q).find? fun x => !x.started

/-- A command leaves its queue, and the line in which its queue waits when it is the head. -/
def Core.dropCmd (c : Core) (q id : Nat) : Core :=
  let c := if (c.head q).map (·.id) = some id then c.modSync (·.leave (.engine q)) else c
  c.setQueue q ((c.queue q).filter fun x => x.id ≠ id)

/-- Depth of a queue (R236). -/
def queueDepth (q : Nat) : Nat := if q = 0 then Config.mxeDepth else Config.engDepth

/-- A queue has no room: a started command has left the head and takes none. -/
def Core.full (c : Core) (q : Nat) : Bool := queueDepth q ≤ ((c.queue q).filter fun x => !x.started).length

/-- H noted for a stamped word that stands at the head of the MXE queue (R71). -/
def State.noteHead (s : State) (core : Nat) : State :=
  match (s.coreAt core).head 0 with
  | none => s
  | some x =>
    if ((engineHead x.word).map (·.stamped)).getD false && x.arrived.isNone then
      let h : W64 := BitVec.ofNat 64 (s.pt (dieOfCore core))
      s.modCore core (·.modCmd 0 x.id fun x => { x with arrived := some h })
    else s

/-! Ownership of the MXE state (R239, R298). -/

/-- Two ranges do not meet. -/
def rangesApart (a n b m : Nat) : Bool := a + n ≤ b || b + m ≤ a

/-- The reservations of a context's save heap, but for that of one tile task: place and size (R298). -/
def State.heapTaken (s : State) (ctx self : Nat) : List (Nat × Nat) :=
  (s.work.tts.filterMap fun x => x.2.bind fun t =>
    if t.ctx = ctx && x.1 ≠ self then some (t.heapAt, t.reserved) else none) ++
  s.work.saved.filterMap fun x => x.2.bind fun v =>
    if v.tt.ctx = ctx && (s.ttAt x.1).isNone then some (v.heapAt, v.size) else none

/-- The place of a reservation of a size in a context's save heap: the manual gives no allocation rule. A place that lies in
the heap and meets no other reservation is taken; otherwise the lowest such place, which is the heap's start or the end of
another reservation; none when there is none (log entry 10). -/
def State.heapPlace (s : State) (ctx size self : Nat) : Option Nat :=
  let others := s.heapTaken ctx self
  let room := ((s.ctxAt ctx).map (·.heapSize)).getD 0
  let ok (a : Nat) : Bool := a + size ≤ room && others.all fun o => rangesApart a size o.1 o.2
  let wish := Config.heapPlace ctx size (s.pt cd)
  (((0 :: others.map fun o => o.1 + o.2).filter ok).foldl (fun m a => match m with
    | some b => some (min a b)
    | none => some a) none).map fun lowest => if ok wish then wish else lowest

/-- The context's save heap can grow the reservation of a tile task by n bytes to a size (R298). -/
def State.heapGrants (s : State) (ctx n size self : Nat) : Bool :=
  match s.ctxAt ctx with
  | some c => c.heapUsed + n ≤ c.heapSize && (s.heapPlace ctx size self).isSome
  | none => false

/-- The heap can extend the reservation of a tile task by M (R239, R298). -/
def State.mxeGrants (s : State) (tt : Nat) : Bool :=
  match s.ttAt tt with
  | some t => s.heapGrants t.ctx Config.mxeSave (t.reserved + Config.mxeSave) tt
  | none => false

/-- A tile task takes ownership of its core's MXE state. -/
def State.takeMxe (s : State) (core tt : Nat) : State :=
  match s.ttAt tt with
  | none => s
  | some t =>
    let s := s.modCtx t.ctx fun c => { c with heapUsed := c.heapUsed + Config.mxeSave }
    let place := (s.heapPlace t.ctx (t.reserved + Config.mxeSave) tt).getD t.heapAt
    let s := s.modTt tt fun t => { t with reserved := t.reserved + Config.mxeSave, heapAt := place, wantsMxe := false }
    s.modCore core (·.takeMxe tt t.ctx)

/-- An MXE or weight-stream word goes on when its tile task owns the MXE state, or takes it now; otherwise it waits at
issue (R239, R298). -/
def State.owning (s : State) (q : Nat) (k : State → State) : State :=
  if q ≠ 0 && q ≠ 5 then k s
  else
    let tt := s.me.tt
    match (s.coreAt s.myCore).mxeOwner with
    | some o => if o = tt then k s else s.holds
    | none =>
      if s.mxeGrants tt then k (s.takeMxe s.myCore tt)
      else (s.modTt tt fun t => { t with wantsMxe := true }).holds

/-! Issue. -/

/-- The command of an engine word of the acting strand, with the values of the registers it reads. -/
def State.cmdOf (s : State) (i : Instr) (regs : List W64) : Cmd :=
  let (base, len) := s.window
  let t := s.myTt
  { id := (s.coreAt s.myCore).nextCmd, word := i, regs := regs, strand := s.myNum, mark := s.me.mark, tt := s.me.tt
    ctx := s.myCtx, spmBase := base, spmLen := len, semBase := (t.map (·.semBase)).getD 0
    semLen := (t.map (·.semLen)).getD 0, waited := false, started := false, failed := false, arrived := none, atE := none
    resumed := false, progress := 0, chain := none, discard := false, order := none }

/-- A command enters its queue. -/
def State.enterCmd (s : State) (q : Nat) (x : Cmd) : State :=
  (s.modCore s.myCore fun c => { c.setQueue q (c.queue q ++ [x]) with nextCmd := c.nextCmd + 1 }).noteHead s.myCore

/-- The issue of an engine word (R137, R236, R237, R239): `regs` are the registers it reads, `bad` what its own checks find
in them. DESIGN CHOICE (log entry 111): a fault absorbed here under IGNORE leaves no command, and so no signal. -/
def State.engineIssue (s : State) (i : Instr) (h : EHead) (q : Nat) (regs : List GReg) (bad : Option (Cause × Rec)) :
    State :=
  let n := (s.myTt.map (·.semLen)).getD 0
  if q = 0 && s.readStrand.role ≠ .computer then s.trap .enginePlacement Rec.zero
  else if (h.wthr ≠ 0 && n ≤ h.wsem.toNat) || (h.sinc ≠ 0 && n ≤ h.ssem.toNat) then s.trap .semRange Rec.zero
  else s.outsideTxn (s.whenReady regs (s.clean regs s.issued (
    match bad with
    | some (c, r) => s.trap c r
    | none => s.afterRels (
        if (s.coreAt s.myCore).full q then s.holds
        else s.owning q fun s => (s.enterCmd q (s.cmdOf i (regs.map s.g))).issued))))

/-! Checks of R237, each in its order. -/

/-- Scratchpad ranges of the acting tile task: the first that leaves the window. -/
def State.leaves (s : State) (rs : List (Nat × Nat)) : Option (Cause × Rec) :=
  let (base, len) := s.window
  (rs.find? fun r => !inWindow base len r.1 r.2).map fun r => (.translation, Rec.addr (BitVec.ofNat 64 r.1))

/-- The checks of MMA and MMAZ (R241, R242, R244). -/
def State.mmaBad (s : State) (x : MmaArgs) : Option (Cause × Rec) :=
  match mmaPair x.fa.toNat x.fb.toNat with
  | none => some (.illegalOp, Rec.zero)
  | some (k, may, must) =>
    if (x.scaled && !may) || (!x.scaled && must) ||
        (x.scaled && (128 < x.ca.toNat + k / 32 || 128 < x.cb.toNat + k / 32)) then some (.engineOperand, Rec.zero)
    else
      let base := s.g x.base
      let as := spmAddr base 128 x.offA.toNat ::
        (if x.bsrc then [] else [spmAddr base 128 x.offB.toNat])
      match as.find? fun a => a % 128 ≠ 0 || a / 2 ^ 19 ≠ (a + 8191) / 2 ^ 19 with
      | some a => some (.alignment, Rec.addr (BitVec.ofNat 64 a))
      | none => (s.leaves (as.map fun a => (a, 8192))).orElse fun _ =>
        match as with
        | [a, b] => if a / 2 ^ 19 = b / 2 ^ 19 then some (.bankConflict, Rec.zero) else none
        | _ => none

/-- The checks of ACCRD and ACCWR (R246). -/
def State.accBad (s : State) (x : AccArgs) : Option (Cause × Rec) :=
  if !accType x.ty.toNat then some (.illegalOp, Rec.zero)
  else
    let a := spmPlace (s.g x.base) 64 x.off.toNat
    if a.toNat % 64 ≠ 0 then some (.alignment, Rec.addr a) else s.leaves [(a.toNat, accBytes x.ty.toNat)]

/-- The checks of SCLD (R248). -/
def State.sclBad (s : State) (x : SclArgs) : Option (Cause × Rec) :=
  let n := x.nc1.toNat + 1
  let a := spmPlace (s.g x.base) 64 x.off.toNat
  if 128 < x.c0.toNat + n then some (.engineOperand, Rec.zero)
  else if a.toNat % 64 ≠ 0 then some (.alignment, Rec.addr a)
  else s.leaves [(a.toNat, 128 * n)]

/-- The checks of WSTRM (R253). -/
def State.wstBad (s : State) (x : WstArgs) : Option (Cause × Rec) :=
  if x.fmt = 3 || (x.fmt = 1 && x.width = 3) then some (.illegalOp, Rec.zero)
  else if 16 < x.t0.toNat + x.count1.toNat + 1 then some (.engineOperand, Rec.zero)
  else if (s.g x.src).toNat % 64 ≠ 0 then some (.alignment, Rec.addr (s.g x.src))
  else none

/-- A copy or fill as it is to be performed (R256, R257). -/
structure Move where
  skind : Bool
  dkind : Bool
  fill : Bool
  src : W64
  dst : W64
  rows : Nat
  rowBytes : Nat
  sstride : Int
  dstride : Int
  deriving DecidableEq, Repr

/-- Bytes that a copy moves. -/
def Move.total (m : Move) : Nat := m.rows * m.rowBytes

/-- A misaligned address, row length or stride of a copy, with the address when it is one (R256). -/
def Move.misaligned (m : Move) : Option W64 :=
  if !m.fill && m.src.toNat % 64 ≠ 0 then some m.src
  else if m.dst.toNat % 64 ≠ 0 then some m.dst
  else if m.rowBytes % 64 ≠ 0 || m.dstride % 64 ≠ 0 || (!m.fill && m.sstride % 64 ≠ 0) then some 0
  else none

/-- Lowest and one past the highest byte that rows of a side reach, from an address taken mod 2^21 (R256). -/
def Move.extent (m : Move) (a : W64) (stride : Int) : Int × Int :=
  let b : Int := (a.toNat % 2 ^ 21 : Nat)
  let d : Int := ((m.rows : Int) - 1) * stride
  (b + min 0 d, b + max 0 d + m.rowBytes)

/-- A scratchpad side of a copy that leaves a window: its address (R256). -/
def Move.outside (m : Move) (base len : Nat) : Option W64 :=
  let out (a : W64) (stride : Int) : Bool :=
    let x := m.extent a stride
    x.1 < (base : Int) || ((base + len : Nat) : Int) < x.2
  if m.rows = 0 || m.rowBytes = 0 then none
  else if m.skind && !m.fill && out m.src m.sstride then some m.src
  else if m.dkind && out m.dst m.dstride then some m.dst
  else none

/-- The copy that a courier word describes, from its registers d, s, z and w (R255). -/
def moveOf (x : CpyArgs) (fill : Bool) (d src z w : W64) : Move where
  skind := x.skind
  dkind := x.dkind
  fill := fill
  src := src
  dst := d
  rows := fieldOf z 32 32
  rowBytes := fieldOf z 0 32
  sstride := signed 32 (fieldOf w 0 32)
  dstride := signed 32 (fieldOf w 32 32)

/-- The checks of a copy (R256, R257). -/
def State.moveBad (s : State) (m : Move) : Option (Cause × Rec) :=
  match m.misaligned with
  | some a => some (.alignment, Rec.addr a)
  | none =>
    let (base, len) := s.window
    (m.outside base len).map fun a => (.translation, Rec.addr a)

/-- The checks of CPYT's declaration (R237 step 7). -/
def State.declBad (s : State) (n : Nat) : Option (Cause × Rec) :=
  match s.myDecl n with
  | some (d, _) => if d.output then none else some (.badDecl, Rec.zero)
  | none => some (.badDecl, Rec.zero)

/-! The words. -/

/-- MMA (R237, R243, R244). -/
def execMma (h : EHead) (x : MmaArgs) (s : State) : Out := .next (s.engineIssue (.mma h x) h 0 [x.base] (s.mmaBad x))
/-- MMAZ (R237, R243, R244). -/
def execMmaz (h : EHead) (x : MmaArgs) (s : State) : Out := .next (s.engineIssue (.mmaz h x) h 0 [x.base] (s.mmaBad x))
/-- ACCRD (R246). -/
def execAccrd (h : EHead) (x : AccArgs) (s : State) : Out :=
  .next (s.engineIssue (.accrd h x) h 0 [x.base] (s.accBad x))
/-- ACCWR (R246). -/
def execAccwr (h : EHead) (x : AccArgs) (s : State) : Out :=
  .next (s.engineIssue (.accwr h x) h 0 [x.base] (s.accBad x))
/-- ACCZ (R247). -/
def execAccz (h : EHead) (mask : BitVec 16) (s : State) : Out := .next (s.engineIssue (.accz h mask) h 0 [] none)
/-- SCLD (R248). -/
def execScld (h : EHead) (x : SclArgs) (s : State) : Out := .next (s.engineIssue (.scld h x) h 0 [x.base] (s.sclBad x))
/-- WSTRM (R253). -/
def execWstrm (h : EHead) (x : WstArgs) (s : State) : Out := .next (s.engineIssue (.wstrm h x) h 5 [x.src] (s.wstBad x))
/-- WSEL (R252). -/
def execWsel (h : EHead) (buf : BitVec 1) (s : State) : Out := .next (s.engineIssue (.wsel h buf) h 5 [] none)

/-- The registers of a courier word: destination, source, shape, strides. -/
def cpyRegs (x : CpyArgs) : List GReg := [x.gd, x.gs, x.gz, x.gw]

/-- The copy that a courier word of the acting strand describes. -/
def State.myMove (s : State) (x : CpyArgs) (fill : Bool) : Move :=
  moveOf x fill (s.g x.gd) (s.g x.gs) (s.g x.gz) (s.g x.gw)

/-- CPY (R255, R256). -/
def execCpy (h : EHead) (x : CpyArgs) (s : State) : Out :=
  .next (s.engineIssue (.cpy h x) h (1 + x.cq.toNat) (cpyRegs x) (s.moveBad (s.myMove x false)))
/-- CPYT (R255, R258): a declaration number above 5 is outside the limits of the field (R237 step 3). -/
def execCpyt (h : EHead) (x : CpyArgs) (s : State) : Out :=
  .next (s.engineIssue (.cpyt h x) h (1 + x.cq.toNat) (cpyRegs x)
    ((if 6 ≤ x.decl.toNat then some (.engineOperand, Rec.zero) else none).orElse fun _ =>
      (s.moveBad (s.myMove x false)).orElse fun _ => s.declBad x.decl.toNat))
/-- CPYF (R255, R257). -/
def execCpyf (h : EHead) (x : CpyArgs) (s : State) : Out :=
  .next (s.engineIssue (.cpyf h x) h (1 + x.cq.toNat) (cpyRegs x) (s.moveBad (s.myMove x true)))
/-- CHAIN (R259): the first record is a multiple of 64 and lies in the window. -/
def execChain (h : EHead) (x : CpyArgs) (s : State) : Out :=
  .next (
    let a := s.g x.gs
    let (base, len) := s.window
    s.engineIssue (.chain h x) h (1 + x.cq.toNat) [x.gs]
      ((spmCheck base len a 64 64 false).map fun c => (c, Rec.addr a)))

/-- The descriptor of a special-function job is a multiple of 64 (R260). -/
def State.sfjBad (s : State) (desc : GReg) : Option (Cause × Rec) :=
  if (s.g desc).toNat % 64 ≠ 0 then some (.alignment, Rec.addr (s.g desc)) else none

/-- SFJ.exp (R260). -/
def execSfjExp (h : EHead) (d : GReg) (s : State) : Out := .next (s.engineIssue (.sfjExp h d) h 6 [d] (s.sfjBad d))
/-- SFJ.log (R260). -/
def execSfjLog (h : EHead) (d : GReg) (s : State) : Out := .next (s.engineIssue (.sfjLog h d) h 6 [d] (s.sfjBad d))
/-- SFJ.softmax (R260). -/
def execSfjSoftmax (h : EHead) (d : GReg) (s : State) : Out :=
  .next (s.engineIssue (.sfjSoftmax h d) h 6 [d] (s.sfjBad d))
/-- SFJ.topk (R260). -/
def execSfjTopk (h : EHead) (d : GReg) (s : State) : Out := .next (s.engineIssue (.sfjTopk h d) h 6 [d] (s.sfjBad d))
/-- SFJ.sort (R260). -/
def execSfjSort (h : EHead) (d : GReg) (s : State) : Out := .next (s.engineIssue (.sfjSort h d) h 6 [d] (s.sfjBad d))
/-- SFJ.sample (R260). -/
def execSfjSample (h : EHead) (d : GReg) (s : State) : Out :=
  .next (s.engineIssue (.sfjSample h d) h 6 [d] (s.sfjBad d))

/-- A word that the opcode map does not allow, or with a nonzero reserved field (R137). A special-function word with a
sub-operation 6 or 7 goes through the checks that come before that of its sub-operation (R237), unless it straddles the end of
a body, which comes first (R142). -/
def execIllegalOp (reserved : Bool) (word : List W32) (s : State) : Out :=
  .next (
    if reserved then s.trap .reservedField Rec.zero
    else match if s.straddling then none else sfjUnallocated word with
      | some (h, d) => s.engineIssue (.illegalOp reserved word) h 6 [d] (some (.illegalOp, Rec.zero))
      | none => s.trap .illegalOp Rec.zero)

/-- MXE_OWNERSHIP_TAKE: the MXE state of a core has no owner, and the heap grants the extension for which a word of a tile
task waits (R239, R298). -/
def execMxeOwnershipTake (core tt : Nat) (s : State) : Out :=
  .next (
    match s.ttAt tt with
    | some t =>
      if t.core = core && t.wantsMxe && (s.coreAt core).mxeOwner.isNone && s.mxeGrants tt then
        s.takeMxe core tt
      else s
    | none => s)

/-! Faults and completion of commands. -/

/-- The absolute semaphore and increment of a command's signal clause. -/
def Cmd.sig (x : Cmd) : Option (Nat × Nat) :=
  match engineHead x.word with
  | some h => if h.sinc = 0 then none else some (semNum x.semBase h.ssem.toNat, h.sinc.toNat)
  | none => none

/-- A fault of a command, raised outside the strand (R237): the tile-task level is asked first; under IGNORE the command
completes with poisoned results in its turn, and otherwise it is gone (R52). -/
def State.failCmd (s : State) (core q : Nat) (x : Cmd) (c : Cause) (r : Rec) : State :=
  let s := s.endFrameWait (.engine core x.id)
  let (s, absorbed) := s.containTt (s.faultOfCmd core q x) c r
  let s := s.modCore core (·.modSync (·.leave (.engine q)))
  if absorbed then
    (s.modCore core (·.modCmd q x.id fun y => { y with started := true, failed := true, waited := true })).noteHead core
  else (s.modCore core (·.dropCmd q x.id)).noteHead core

/-- A command has completed: it leaves its queue and performs its signal clause, unless that is discarded (R236, R251). -/
def State.completeCmd (s : State) (core q : Nat) (x : Cmd) : State :=
  let f := s.faultOfCmd core q x
  let s := ((s.endFrameWait (.engine core x.id)).modCore core (·.dropCmd q x.id)).noteHead core
  let s := if x.discard then s else s.signal core f x.sig
  s.settleRels x.strand

/-- The tile task of a command is stopped for a request: every strand has stopped or ended, so that its engines start
nothing more (R250, R297). -/
def State.frozen (s : State) (tt : Nat) : Bool :=
  match s.ttAt tt with
  | some t => t.request.isSome && !t.failing && t.strands.all fun n => match s.strandAt n with
    | some st => st.ended || st.stop.isSome
    | none => true
  | none => false

/-- Earlier scratchpad accesses of the issuing strand are still in flight (R96). -/
def State.owesCmd (s : State) (x : Cmd) : Bool :=
  match s.strandAt x.strand with
  | some st => st.tt = x.tt && st.owesBefore (x.mark + 1)
  | none => false

/-- The MXE can take a command now: at most three in flight, the tiles it is held for, and the order of R252 (R249). The
turn says whether the occupancy slot is still taken by a command in flight. -/
def State.mxeTakes (s : State) (c : Core) (x : Cmd) : Bool :=
  let flying := (c.queue 0).filter (·.started)
  flying.length < 3 && !(flying ≠ [] && s.pick % 2 = 1) &&
  ((heldTiles x.word).all fun t => flying.all fun y => stepTile y.word ≠ some t) &&
  (!readsWb x.word || (c.queue 5).all fun y => match y.word with
    | .wsel .. => x.id < y.id
    | _ => true)

/-- A command may start now, its wait clause apart. -/
def State.mayStart (s : State) (core q : Nat) (x : Cmd) : Bool :=
  let c := s.coreAt core
  !s.owesCmd x &&
  (if q = 0 then s.mxeTakes c x
   else match x.word with
    | .wsel .. => (c.queue 0).all fun y => !readsWb y.word || x.id < y.id
    | _ => true)

/-- What the wait clause of a head answers. -/
inductive Served where
  | yes | no | poisoned
  deriving DecidableEq, Repr

/-- The wait clause of a head tested (R151, R294). -/
def Core.clause (c : Core) (q : Nat) (x : Cmd) : Served :=
  match engineHead x.word with
  | none => .yes
  | some h =>
    if h.wthr = 0 || x.waited then .yes
    else
      let i := semNum x.semBase h.wsem.toNat
      if (c.sem i).poisoned then .poisoned
      else if c.sync.ready i h.wthr.toNat (.engine q) then .yes
      else .no

/-- The wait clause of a head served: its count is subtracted (R151). -/
def Core.serve (c : Core) (q : Nat) (x : Cmd) : Core :=
  match engineHead x.word with
  | none => c
  | some h =>
    let c := if h.wthr = 0 || x.waited then c
      else c.modSync (·.take (semNum x.semBase h.wsem.toNat) h.wthr.toNat (.engine q))
    c.modCmd q x.id fun x => { x with waited := true }

/-- A head that is not served stands in the line of its semaphore (R151). -/
def Core.queueUp (c : Core) (q : Nat) (x : Cmd) : Core :=
  match engineHead x.word with
  | none => c
  | some h => c.modSync (·.join (semNum x.semBase h.wsem.toNat) h.wthr.toNat (.engine q))

end Sys2Proof.Machine
end

