-- ==== Sys2Proof/Machine/Courier.lean ====
section
/-! DEFINITION. Machine/Courier.lean: the global accesses of the engines (R96), copies by 64-byte segments (R256, R257), the
publish of CPYT (R258), and chains of records (R259). -/
namespace Sys2Proof.Machine

/-! Global memory as the engines reach it (R96). -/

/-- The parts of a read as the die's L2 and RDC give them. -/
def State.dieReadParts (s : State) (die ctx : Nat) : List Part → (List Byte × Bool) × State
  | [] => (([], false), s)
  | p :: ps =>
    let (x, s) := s.dieRead die ctx p.cache p.pa p.len s.dropsRdc
    let (y, s) := s.dieReadParts die ctx ps
    ((x.1 ++ y.1, x.2 || y.2), s)

/-- A read of global memory by an engine of a core: through the die's L2 and RDC, never the L1 (R96). -/
def State.engRead (s : State) (core ctx : Nat) (a : W64) (n : Nat) : Res (List Byte × Bool) :=
  if s.walkHeld (dieOfCore core) (some core) ctx a n then .wait s
  else (s.access (some core) ctx a n .read s.fresh).andThen fun ps s =>
    if !s.homesFree (dieOfCore core) ps then .wait s
    else
      let (x, s) := s.dieReadParts (dieOfCore core) ctx ps
      .ok x s

/-- A write of global memory by the courier of a core: at the home, with a present RDC copy of the die updated (R256). A
frame that is moving bounces it (R338). -/
def State.engWrite (s : State) (core ctx : Nat) (a : W64) (bs : List Byte) (tag : Bool) : Res Unit :=
  if s.walkHeld (dieOfCore core) (some core) ctx a bs.length then .wait s
  else (s.access (some core) ctx a bs.length .write s.fresh).andThen fun ps s =>
    if !s.homesFree (dieOfCore core) ps || ps.any fun p => s.mem.bounces p.pa then .wait s
    else .ok () (ps.foldl (fun s p =>
      let part := whole ((bs.drop p.off).take p.len)
      (s.homeWrite ctx p.pa part tag).updateCopies none (dieOfCore core) p.pa part tag) s)

/-- An access of an engine that waits does so for its home, not for a free frame: no route carries it now, postmarked parts are
due before it, or a moving frame bounces it (R61, R333, R338). -/
def State.engHeld (s : State) (core ctx : Nat) (a : W64) (n : Nat) (k : Need) : Bool :=
  s.walkHeld (dieOfCore core) (some core) ctx a n || match s.access (some core) ctx a n k false with
  | .ok ps _ => !s.homesFree (dieOfCore core) ps || (k = .write && ps.any fun p => s.mem.bounces p.pa)
  | _ => false

/-- An uncorrectable error in a control structure that the access of a command at an address reads raises MEM_CONTROL_ERROR
(R113). -/
def State.engTurn (s : State) (core q : Nat) (x : Cmd) (a : W64) (k : State) : State :=
  if (s.coreAt core).ctlErrors.contains q then
    (s.modCore core fun c => { c with ctlErrors := c.ctlErrors.filter (· ≠ q) }).failCmd core q x .memControlError (Rec.addr a)
  else k

/-- A command waits: for a free frame, which it gives up with COMMIT_FAIL once the wait has lasted its time, or until its home
can be reached (R87). -/
def State.cmdWaits (s : State) (core q : Nat) (x : Cmd) (a : W64) (held : Bool) : State :=
  if held then s
  else s.frameWait (.engine core x.id) (dieOfCore core) (fun s => s.failCmd core q x .commitFail (Rec.addr a)) id

/-! Copies. -/

/-- The address of a segment on one side. -/
def Move.at_ (m : Move) (a : W64) (stride : Int) (k : Nat) : W64 :=
  a + wrap64 ((k * 64 / m.rowBytes : Nat) * stride) + BitVec.ofNat 64 (k * 64 % m.rowBytes)

/-- The bytes of a segment as they are read, with their tag. -/
def State.segRead (s : State) (core ctx : Nat) (m : Move) (k : Nat) : Res (List Byte × Bool) :=
  if m.fill then .ok ((List.replicate 8 (leBytes 8 m.src.toNat)).flatten, false) s
  else
    let a := m.at_ m.src m.sstride k
    if m.skind then .ok ((s.coreAt core).spmRead (a.toNat % 2 ^ 21) 64) s else s.engRead core ctx a 64

/-- The bytes of a segment as they are written. -/
def State.segWrite (s : State) (core ctx : Nat) (m : Move) (k : Nat) (bs : List Byte) (tag : Bool) : Res Unit :=
  let a := m.at_ m.dst m.dstride k
  if m.dkind then .ok () (s.modCore core fun c => c.spmWrite ctx (a.toNat % 2 ^ 21) (whole bs) tag)
  else s.engWrite core ctx a bs tag

/-- What a run of segments ended with: all moved, a fault, or a wait; and the number of the next segment. -/
structure Moved where
  s : State
  next : Nat
  fault : Option (Cause × Rec)
  waits : Bool

/-- A segment of a copy that waits does so for a home rather than for a free frame. -/
def State.segHeld (s : State) (core ctx : Nat) (m : Move) (k : Nat) : Bool :=
  (!m.fill && !m.skind && s.engHeld core ctx (m.at_ m.src m.sstride k) 64 .read) ||
  (!m.dkind && s.engHeld core ctx (m.at_ m.dst m.dstride k) 64 .write)

/-- A copy reads or writes global memory. -/
def Move.global (m : Move) : Bool := (!m.fill && !m.skind) || !m.dkind

/-- Segments moved one after another, `n` of them from number `k` (R256). -/
def State.moveSegs (s : State) (core ctx : Nat) (m : Move) : Nat → Nat → Moved
  | 0, k => ⟨s, k, none, false⟩
  | n + 1, k =>
    match (s.segRead core ctx m k).andThen fun x s => s.segWrite core ctx m k x.1 x.2 with
    | .ok _ s => s.moveSegs core ctx m n (k + 1)
    | .trap c r s => ⟨s, k, some (c, r), false⟩
    | .wait s => ⟨s, k, none, true⟩

/-- The number under which a command's poisoned results take their free values: its own and its strand's. -/
def Cmd.poisonKey (x : Cmd) : Nat := x.id * 2048 + x.strand

/-- A free byte of a poisoned result (R52). -/
def poisonBytes (id at_ n : Nat) : List Byte := (upto n).map fun i => BitVec.ofNat 8 (Config.poisoned id (at_ + i))

/-- Segments that a failed copy did not move are written poisoned where they can be (R52). -/
def State.poisonSegs (s : State) (core : Nat) (x : Cmd) (m : Move) : Nat → Nat → State
  | 0, _ => s
  | n + 1, k =>
    match s.segWrite core x.ctx m k (poisonBytes x.poisonKey (64 * k) 64) true with
    | .ok _ s' => s'.poisonSegs core x m n (k + 1)
    | _ => s.poisonSegs core x m n (k + 1)

/-- The copy that a courier command performs. -/
def Cmd.move (x : Cmd) : Option Move :=
  match x.word, x.regs with
  | .cpy _ a, [d, s, z, w] => some (moveOf a false d s z w)
  | .cpyt _ a, [d, s, z, w] => some (moveOf a false d s z w)
  | .cpyf _ a, [d, s, z, w] => some (moveOf a true d s z w)
  | _, _ => none

/-- The end of the 4 KiB segment that progress stands in (R256). -/
def segmentEnd (progress total : Nat) : Nat := min total ((progress / 4096 + 1) * 4096)

/-- The command stands inside a 4 KiB segment of its progress (R256). -/
def Cmd.midSegment (x : Cmd) : Bool := x.progress % 4096 ≠ 0

/-- The publish step of CPYT (R106, R258): nothing more when the iteration has published the declaration; it waits for the module to
the control die (R333). -/
def State.cpytPublish (s : State) (core q : Nat) (x : Cmd) (n : Nat) : State :=
  match s.ttAt x.tt with
  | none => s.completeCmd core q x
  | some t =>
    if s.hasPublished t.block t.idx n then s.completeCmd core q x
    else if !s.reaches (dieOfCore core) cd then s
    else match (s.blockAt t.block).bind fun b => b.lb.decls[n]? with
      | none => s.completeCmd core q x
      | some d => s.engTurn core q x d.desc (
        match s.engRead core x.ctx d.desc 32 with
        | .trap c r s => s.failCmd core q x c r
        | .wait s => s.cmdWaits core q x d.desc (s.engHeld core x.ctx d.desc 32 .read)
        | .ok _ s =>
          let g : BitVec 8 := BitVec.ofNat 8 d.gen
          if s.stalePublish t.ctx d.buffer g then s.failCmd core q x .staleTag Rec.zero
          else ((s.notePublished t.block t.idx n).publish t.ctx d.buffer (d.key t.g1 t.g2 t.g3) g).completeCmd core q x)

/-- A copy whose every segment has been moved. -/
def State.copyDone (s : State) (core q : Nat) (x : Cmd) : State :=
  match x.word, x.move with
  | .cpyt _ a, some m =>
    if x.discard then s.completeCmd core q x
    else
      -- one segment past the end marks that the publish step has been reached
      let s := s.modCore core (·.modCmd q x.id fun y => { y with progress := m.total + 64 })
      s.cpytPublish core q { x with progress := m.total + 64 } a.decl.toNat
  | _, _ => s.completeCmd core q x

/-- One 4 KiB segment of a copy moved; true when the command can go on (R256). -/
def State.copySegment (s : State) (core q : Nat) (x : Cmd) (m : Move) : State × Bool :=
  if m.global && (s.coreAt core).ctlErrors.contains q then
    (s.engTurn core q x (m.at_ m.dst m.dstride (x.progress / 64)) s, false)
  else
  let stop := segmentEnd x.progress m.total
  let r := s.moveSegs core x.ctx m ((stop - x.progress) / 64) (x.progress / 64)
  let s := r.s.modCore core (·.modCmd q x.id fun y => { y with progress := r.next * 64 })
  let s := if r.next * 64 = x.progress then s else s.endFrameWait (.engine core x.id)
  let x := { x with progress := r.next * 64 }
  match r.fault with
  | some (c, e) => (s.failCmd core q x c e, false)
  | none =>
    if r.waits then
      (s.cmdWaits core q x (m.at_ m.dst m.dstride r.next) (s.segHeld core x.ctx m r.next), false)
    else (s, true)

/-- A command of a queue by its number. -/
def Core.cmd (c : Core) (q id : Nat) : Option Cmd := (c.queue q).find? fun x => x.id = id

/-- Up to n segments of a copy moved, and the command completed once all are. A command of an ended tile task stops at the
end of its segment (R251). -/
def State.copySegments (s : State) (core q id : Nat) (m : Move) : Nat → State
  | 0 => s
  | n + 1 =>
    match (s.coreAt core).cmd q id with
    | none => s
    | some x =>
      if m.total ≤ x.progress then s.copyDone core q x
      else if x.discard && x.progress % 4096 = 0 && x.progress ≠ 0 then s.completeCmd core q x
      else
        let (s, on) := s.copySegment core q x m
        if !on then s
        else match (s.coreAt core).cmd q id with
          | none => s
          | some x => if m.total ≤ x.progress then s.copyDone core q x else s.copySegments core q id m n

/-! Chains. -/

/-- A record as the courier reads it. -/
inductive ChainRec where
  | done
  | copy (m : Move)
  | loop (count : Nat) (sadv dadv : W64) (target : Int)
  | cond (op value addr : Nat) (target : Int)
  | signal (wsem wthr ssem sinc : Nat)
  deriving DecidableEq, Repr

/-- A field of a record. -/
def recF (b : List Byte) (off n : Nat) : Nat := leNat ((b.drop off).take n)

/-- Bytes of a record outside the given ranges are 0. -/
def recClean (b : List Byte) (used : List (Nat × Nat)) : Bool :=
  (b.mapIdx fun i x => x = 0 || i = 0 || used.any fun u => u.1 ≤ i && i < u.1 + u.2).all id

/-- A record decoded; none when it is malformed (R238, R259). -/
def chainRec (b : List Byte) : Option ChainRec :=
  match recF b 0 1 with
  | 0 => if recClean b [] then some .done else none
  | 1 =>
    let fl := recF b 1 1
    let m : Move :=
      { skind := bits fl 0 1 = 1, dkind := bits fl 1 1 = 1, fill := bits fl 2 1 = 1
        src := BitVec.ofNat 64 (recF b 8 8), dst := BitVec.ofNat 64 (recF b 0x10 8)
        rows := recF b 4 4, rowBytes := recF b 0x18 4
        sstride := signed 32 (recF b 0x20 4), dstride := signed 32 (recF b 0x24 4) }
    if recClean b [(1, 1), (4, 4), (8, 16), (0x18, 4), (0x20, 8)] && fl < 8 && m.misaligned.isNone then some (.copy m)
    else none
  | 2 =>
    let t := signed 32 (recF b 0x18 4)
    if recClean b [(4, 4), (8, 16), (0x18, 4)] && recF b 4 4 ≠ 0 && t % 64 = 0 then
      some (.loop (recF b 4 4) (BitVec.ofNat 64 (recF b 8 8)) (BitVec.ofNat 64 (recF b 0x10 8)) t)
    else none
  | 3 =>
    let t := signed 32 (recF b 0xC 4)
    if recClean b [(1, 1), (4, 12)] && recF b 1 1 < 4 && recF b 8 4 % 4 = 0 && t % 64 = 0 then
      some (.cond (recF b 1 1) (recF b 4 4) (recF b 8 4) t)
    else none
  | 4 =>
    if recClean b [(1, 4)] && recF b 2 1 < 128 && recF b 4 1 < 128 then
      some (.signal (recF b 1 1) (recF b 2 1) (recF b 3 1) (recF b 4 1))
    else none
  | _ => none

/-- A chain at its start (R259). -/
def Chain.start (a : W64) : Chain := ⟨a, 0, 0, 0, 0, none, 0⟩

/-- The chain goes on at a record. -/
def Chain.goto (c : Chain) (target : Int) : Chain :=
  { c with at_ := c.at_ + wrap64 target, count := c.count + 1, copying := none, moved := 0 }

/-- A command's chain changed. -/
def State.setChain (s : State) (core q : Nat) (x : Cmd) (c : Chain) : State :=
  s.modCore core (·.modCmd q x.id fun y => { y with chain := some c })

/-- A fault of a chain, with the record's address (R259). -/
def State.failChain (s : State) (core q : Nat) (x : Cmd) (c : Chain) (cause : Cause) : State :=
  s.failCmd core q x cause (Rec.addr c.at_)

/-- The chain that a courier queue of a core walks: its command, with its state. -/
def Core.walking (c : Core) (q : Nat) : Option (Cmd × Chain) :=
  match (c.queue (1 + q)).find? fun x => x.started && !x.failed with
  | some x => x.chain.map fun y => (x, y)
  | none => none

/-- A chain's walk has come to a SIGNAL record at which it can go no further: its wait is not satisfied, or its tile task has ended
abnormally (R251, R259). -/
def Core.chainPaused (c : Core) (q : Nat) (x : Cmd) : Bool :=
  match x.chain with
  | none => false
  | some y => match chainRec (y.copying.getD (c.spmRead y.at_.toNat 64).1) with
    | some (.signal ws wt _ _) =>
      let i := semNum x.semBase ws
      x.discard || (wt ≠ 0 && ws < x.semLen && !(c.sem i).poisoned && !c.sync.ready i wt (.engine q))
    | _ => false

/-- The record that the walk of a courier queue has reached is performed: the checks of the walk, then `k` for the record
(R259). A chain of an ended or stopped tile task goes no further than the end of its current 4 KiB segment (R250, R251). -/
def State.chainStep (s : State) (core q : Nat) (k : Cmd → Chain → ChainRec → State) : State :=
  match (s.coreAt core).walking q with
  | none => s
  | some (x, c) =>
    if (x.discard || s.frozen x.tt) && (!x.midSegment || (s.coreAt core).chainPaused (1 + q) x) then s
    else
      let a := c.at_.toNat
      if c.count = Config.chainLimit then s.failChain core (1 + q) x c .chainLimit
      else if !inWindow x.spmBase x.spmLen a 64 then s.failChain core (1 + q) x c .translation
      else match chainRec (c.copying.getD ((s.coreAt core).spmRead a 64).1) with
        | none => s.failChain core (1 + q) x c .chainFormat
        | some r => k x c r

/-- CHAIN_END: the chain ends, and the CHAIN completes and signals (R259). -/
def execChainEnd (core q : Nat) (s : State) : Out :=
  .next (s.chainStep core q fun x _ r =>
    match r with
    | .done => s.completeCmd core (1 + q) x
    | _ => s)

/-- The copy of a COPY record at the chain's offsets (R259). -/
def Move.shifted (m : Move) (c : Chain) : Move :=
  { m with src := if m.fill then m.src else m.src + c.os, dst := m.dst + c.od }

/-- CHAIN_COPY: one 4 KiB segment of the command's progress within the COPY record it has reached (R256, R259). DESIGN CHOICE (log
entry 132): an address that the chain's offsets misalign raises ALIGNMENT, as that of a CPY does. -/
def execChainCopy (core q : Nat) (s : State) : Out :=
  .next (s.chainStep core q fun x c r =>
    match r with
    | .copy m0 =>
      let m := m0.shifted c
      let q := 1 + q
      match if c.copying.isSome then none
        else match m.misaligned with
          | some _ => some Cause.alignment
          | none => (m.outside x.spmBase x.spmLen).map fun _ => Cause.translation with
      | some cause => s.failChain core q x c cause
      | none => if m.global && (s.coreAt core).ctlErrors.contains q then
          s.engTurn core q x (m.at_ m.dst m.dstride (c.moved / 64)) s
        else
        let left := segmentEnd x.progress (x.progress + (m.total - c.moved)) - x.progress
        let r := s.moveSegs core x.ctx m (left / 64) (c.moved / 64)
        let n := r.next * 64 - c.moved
        let c' := { c with
          moved := r.next * 64, copying := some (c.copying.getD ((s.coreAt core).spmRead c.at_.toNat 64).1) }
        let x' := { x with progress := x.progress + n, chain := some c' }
        let s := r.s.modCore core (·.modCmd q x.id fun _ => x')
        let s := if n = 0 then s else s.endFrameWait (.engine core x.id)
        match r.fault with
        | some (e, rec) => s.failCmd core q x' e rec
        | none =>
          if r.waits then
            s.cmdWaits core q x' (m.at_ m.dst m.dstride r.next) (s.segHeld core x.ctx m r.next)
          else if m.total ≤ c'.moved then s.setChain core q x' (c'.goto 64)
          else s
    | _ => s)

/-- CHAIN_LOOP (R259). -/
def execChainLoop (core q : Nat) (s : State) : Out :=
  .next (s.chainStep core q fun x c r =>
    match r with
    | .loop n sa da t => s.setChain core (1 + q) x
        (if c.i + 1 < n then { c.goto t with i := c.i + 1, os := c.os + sa, od := c.od + da }
         else { c.goto 64 with i := 0, os := 0, od := 0 })
    | _ => s)

/-- The comparison of a COND record: 0 EQ, 1 NE, 2 LTN, 3 GEN (R259). -/
def condHolds (op a b : Nat) : Bool :=
  match op with
  | 0 => a = b
  | 1 => a ≠ b
  | 2 => a < b
  | _ => b ≤ a

/-- CHAIN_COND (R259). -/
def execChainCond (core q : Nat) (s : State) : Out :=
  .next (s.chainStep core q fun x c r =>
    match r with
    | .cond op v a t =>
      if !inWindow x.spmBase x.spmLen a 4 then s.failChain core (1 + q) x c .translation
      else
        let w := leNat ((s.coreAt core).spmRead a 4).1
        s.setChain core (1 + q) x (c.goto (if condHolds op w v then t else 64))
    | _ => s)

/-- CHAIN_SIGNAL: the wait of R151; the copies before it are complete; then the signal (R259). DESIGN CHOICE (log entry 131): a
semaphore's number is checked for SEM_RANGE only where its clause is present. -/
def execChainSignal (core q : Nat) (s : State) : Out :=
  .next (s.chainStep core q fun x c r =>
    match r with
    | .signal ws wt ss si =>
      let q := 1 + q
      if (wt ≠ 0 && x.semLen ≤ ws) || (si ≠ 0 && x.semLen ≤ ss) then s.failChain core q x c .semRange
      else
        let i := semNum x.semBase ws
        let sync := (s.coreAt core).sync
        if wt ≠ 0 && (sync.sem i).poisoned then s.failChain core q x c .awaitPoisoned
        else if wt ≠ 0 && !sync.ready i wt (.engine q) then s.modCore core (·.modSync (·.join i wt (.engine q)))
        else
          let s := if wt = 0 then s else s.modCore core (·.modSync (·.take i wt (.engine q)))
          let s := s.setChain core q x (c.goto 64)
          if si = 0 then s else s.signal core (s.faultOfCmd core q x) (some (semNum x.semBase ss, si))
    | _ => s)

end Sys2Proof.Machine
end

