-- ==== Sys2Proof/Machine/Weights.lean ====
section
/-! DEFINITION. Machine/Weights.lean: the weight stream: its three formats, and WSTRM and WSEL performed (R252-R254). -/
namespace Sys2Proof.Machine

/-- A decoded row of 128 bytes with its tag. -/
abbrev WRow := List Byte × Bool

/-- What decoding a stream ends with: the rows in order, and a fault or a wait that ended it early. -/
structure Decoded where
  s : State
  rows : List WRow
  fault : Option (Cause × Rec)
  /-- a wait: for a home rather than for a free frame -/
  waits : Option Bool

/-- Where a stream is read: core, context, pointer. -/
structure Source where
  core : Nat
  ctx : Nat
  ptr : W64

/-- Bytes of a stream at an offset (R253). -/
def State.stream (s : State) (src : Source) (off n : Nat) : Res (List Byte × Bool) :=
  s.engRead src.core src.ctx (src.ptr + BitVec.ofNat 64 off) n

/-- A malformed stream, with the address of the record at fault (R253). -/
def badRecord (src : Source) (off : Nat) : Option (Cause × Rec) :=
  some (.weightFormat, Rec.addr (src.ptr + BitVec.ofNat 64 off))

/-- A read of a stream that waits does so for a home rather than for a free frame. -/
def State.streamHeld (s : State) (src : Source) (off n : Nat) : Bool :=
  s.engHeld src.core src.ctx (src.ptr + BitVec.ofNat 64 off) n .read

/-- Dense rows, from row k on. -/
def State.denseRows (s : State) (src : Source) : Nat → Nat → List WRow → Decoded
  | 0, _, rs => ⟨s, rs, none, none⟩
  | n + 1, k, rs =>
    match s.stream src (128 * k) 128 with
    | .ok x s => s.denseRows src n (k + 1) (rs ++ [x])
    | .trap c r s => ⟨s, rs, some (c, r), none⟩
    | .wait s => ⟨s, rs, none, some (s.streamHeld src (128 * k) 128)⟩

/-- The metadata nibble of a group. -/
def nibble (meta_ : List Byte) (g : Nat) : Nat := bits (leNat meta_) (4 * g) 4

/-- A 2:4 record as a row of 128 bytes, for elements of width w; none when a nibble is malformed (R254). -/
def sparseRow (w : Nat) (bs : List Byte) : Option (List Byte) :=
  let vals := elemsOf w (512 / w) (bs.take 64)
  let md := bs.drop 64
  let groups := upto (256 / w)
  if groups.all fun g => nibble md g % 4 < nibble md g / 4 then
    let els := (groups.map fun g => (upto 4).map fun p =>
      if p = nibble md g % 4 then (vals[2 * g]?).getD 0
      else if p = nibble md g / 4 then (vals[2 * g + 1]?).getD 0 else 0).flatten
    some (leBytes 128 (packNat w els))
  else none

/-- 2:4 rows, from row k on. -/
def State.sparseRows (s : State) (src : Source) (w : Nat) : Nat → Nat → List WRow → Decoded
  | 0, _, rs => ⟨s, rs, none, none⟩
  | n + 1, k, rs =>
    let size := 64 + 128 / w
    match s.stream src (size * k) size with
    | .ok x s =>
      match sparseRow w x.1 with
      | some row => s.sparseRows src w n (k + 1) (rs ++ [(row, x.2)])
      | none => ⟨s, rs, badRecord src (size * k), none⟩
    | .trap c r s => ⟨s, rs, some (c, r), none⟩
    | .wait s => ⟨s, rs, none, some (s.streamHeld src (size * k) size)⟩

/-- 64-byte blocks of a zero-block run put together as rows. -/
def pairRows : List (List Byte × Bool) → List WRow
  | a :: b :: rest => (a.1 ++ b.1, a.2 || b.2) :: pairRows rest
  | _ => []

/-- Zero-block runs: `n` blocks are still to come; `run` blocks of the record that began at `rec` are, copied or zero, with
the tag of its header; the stream stands at `off` (R254). -/
def State.zrunBlocks (s : State) (src : Source) : Nat → Nat → Bool → Bool → Nat → List (List Byte × Bool) → Decoded
  | 0, _, _, _, _, bs => ⟨s, pairRows bs, none, none⟩
  | n + 1, run, zero, tag, off, bs =>
    let header := if run = 0 then s.stream src off 2 else .ok ([], tag) s
    match header with
    | .trap c r s => ⟨s, pairRows bs, some (c, r), none⟩
    | .wait s => ⟨s, pairRows bs, none, some (s.streamHeld src off 2)⟩
    | .ok h s =>
      let v := leNat h.1
      let left := if run = 0 then v % 32768 + 1 else run
      let z := if run = 0 then decide (32768 ≤ v) else zero
      let at_ := if run = 0 then off + 2 else off
      if n + 1 < left then ⟨s, pairRows bs, badRecord src off, none⟩
      else if z then s.zrunBlocks src n (left - 1) z h.2 at_ (bs ++ [(List.replicate 64 0, h.2)])
      else match s.stream src at_ 64 with
        | .trap c r s => ⟨s, pairRows bs, some (c, r), none⟩
        | .wait s => ⟨s, pairRows bs, none, some (s.streamHeld src at_ 64)⟩
        | .ok x s => s.zrunBlocks src n (left - 1) z h.2 (at_ + 64) (bs ++ [(x.1, x.2 || h.2)])

/-- The element width of a 2:4 stream (R253). -/
def sparseWidth (x : WstArgs) : Nat := 4 * 2 ^ x.width.toNat

/-- The stream of a WSTRM decoded (R254). -/
def State.decodeStream (s : State) (src : Source) (x : WstArgs) : Decoded :=
  let tiles := x.count1.toNat + 1
  match x.fmt.toNat with
  | 0 => s.denseRows src (64 * tiles) 0 []
  | 1 => s.sparseRows src (sparseWidth x) (64 * tiles) 0 []
  | _ => s.zrunBlocks src (128 * tiles) 0 false false 0 []

/-- Rows of whole tiles written to the stream-side buffer from a tile on (R252, R253). -/
def Core.putTiles (c : Core) (t0 : Nat) (rows : List WRow) : Core :=
  let rows := rows.take (rows.length / 64 * 64)
  let t := 16 * (1 - c.side) + t0
  { c with
    wb := tsets 0 c.wb (8192 * t) (rows.map (·.1)).flatten
    wbTag := tsets false c.wbTag (64 * t) (rows.map (·.2)) }

/-- Tags of the rows of tiles set. -/
def Core.poisonTiles (c : Core) (t0 n : Nat) : Core :=
  { c with wbTag := tsets false c.wbTag (64 * (16 * (1 - c.side) + t0)) (List.replicate (64 * n) true) }

/-- WSTRM performed: whole tiles decoded before a fault keep their bytes, the others keep their old values (R253). -/
def State.performWstrm (s : State) (core : Nat) (x : Cmd) (a : WstArgs) : State :=
  match x.regs with
  | [ptr] => s.engTurn core 5 x ptr (
    let r := s.decodeStream ⟨core, x.ctx, ptr⟩ a
    match r.waits with
    | some held => r.s.cmdWaits core 5 x ptr held
    | none =>
      let s := r.s.modCore core (·.putTiles a.t0.toNat r.rows)
      match r.fault with
      | none => s.completeCmd core 5 x
      | some (c, e) =>
        let done := r.rows.length / 64
        (s.modCore core (·.modCmd 5 x.id fun y => { y with progress := 8192 * done })).failCmd core 5
          { x with progress := 8192 * done } c e)
  | _ => s

end Sys2Proof.Machine
end

