-- ==== Sys2Proof/Machine/SpecialFn.lean ====
section
/-! DEFINITION. Machine/SpecialFn.lean: special-function jobs: the descriptor (R261), what each sub-operation computes (R263),
and a job performed on the special-function die (R262). -/
namespace Sys2Proof.Machine

/-- The sub-operation of a special-function word (R260). -/
def sfjOp : Instr → Nat
  | .sfjExp .. => 0 | .sfjLog .. => 1 | .sfjSoftmax .. => 2 | .sfjTopk .. => 3 | .sfjSort .. => 4 | _ => 5

/-- A job descriptor (R261). -/
structure Job where
  op : Nat
  src : W64
  dst : W64
  aux : W64
  rows : Nat
  len : Nat
  sstride : Nat
  dstride : Nat
  astride : Nat
  inTy : Nat
  outTy : Nat
  desc : Bool
  indices : Bool
  k : Nat
  key : Nat
  ctr : Nat
  deriving DecidableEq, Repr

/-- A descriptor decoded for a sub-operation; none when a field is outside its limits (R261). -/
def jobOf (op : Nat) (b : List Byte) : Option Job :=
  let f := recF b
  let c := f 0x2C 4
  let j : Job :=
    { op := op, src := BitVec.ofNat 64 (f 0 8), dst := BitVec.ofNat 64 (f 8 8), aux := BitVec.ofNat 64 (f 0x10 8)
      rows := f 0x18 4, len := f 0x1C 4, sstride := f 0x20 4, dstride := f 0x24 4, astride := f 0x28 4
      inTy := bits c 0 4, outTy := bits c 4 4, desc := bits c 8 1 = 1, indices := bits c 9 1 = 1
      k := bits c 16 16, key := f 0x30 4, ctr := f 0x34 4 }
  let float (t : Nat) : Bool := 8 ≤ t && t ≤ 10
  let ranked (t : Nat) : Bool := float t || t = 4 || t = 5
  let types := if op < 3 then float j.inTy && float j.outTy
    else if op = 5 then float j.inTy && j.outTy = 0
    else ranked j.inTy && j.outTy = j.inTy
  if types && 1 ≤ j.rows && j.rows ≤ 2 ^ 24 && 1 ≤ j.len && j.len ≤ (if op < 2 then 2 ^ 31 else 65536) &&
      bits c 10 6 = 0 && f 0x38 8 = 0 && (op ≠ 3 || (1 ≤ j.k && j.k ≤ min j.len 1024)) then some j
  else none

/-! What each sub-operation computes (R263). -/

/-- The place of an element in the ranking of TOPK and SORT. -/
def rankOf (ty x : Nat) : Int :=
  if !isFloat ty then intOf ty x
  else match unpack ty false x with
    | .nan .. => 2 ^ 32
    | _ =>
      let h := 2 ^ (typeWidth ty - 1)
      if h ≤ x then -((x % h : Nat) : Int) - 1 else (x : Int)

/-- An element put in its place after those that go before it or rank with it. -/
def rankPut (before : Int → Int → Bool) (x : Int × Nat × Nat) : List (Int × Nat × Nat) → List (Int × Nat × Nat)
  | [] => [x]
  | y :: ys => if before x.1 y.1 then x :: y :: ys else y :: rankPut before x ys

/-- Elements with their indices, stably ranked. -/
def ranked (ty : Nat) (descending : Bool) (xs : List Nat) : List (Nat × Nat) :=
  let before (a b : Int) : Bool := if descending then b < a else a < b
  ((xs.mapIdx fun i x => (rankOf ty x, x, i)).foldl (fun l x => rankPut before x l) []).map (·.2)

/-- The softmax of a row. -/
def softmaxRow (outTy : Nat) (xs : List FVal) : List Nat :=
  let env := engineEnv
  if xs.any (·.isNan) then xs.map fun _ => canonNan outTy
  else
    let m := xs.foldl (fun m x => if m.lt x then x else m) (.inf true)
    if m.isInf true then xs.map fun _ => 0
    else if m.isInf false then
      let c := (xs.filter (·.isInf false)).length
      xs.map fun x => if x.isInf false then fdiv outTy env (.fin false 1 0) (.fin false c 0) else 0
    else
      let es := xs.map fun x => fexp 8 env (unpack 8 false (fadd 8 env [] x m.flip))
      let sum := es.foldl (fun t e => unpack 8 false (fadd 8 env [] t (unpack 8 false e))) (.fin false 0 0)
      es.map fun e => fdiv outTy env (unpack 8 false e) sum

/-- A value times a power of two. -/
def FVal.scale2 (x : FVal) (k : Int) : FVal :=
  match x with
  | .fin s m e => .fin s m (e + k)
  | v => v

/-- The running sums of a row of weights, in f32. -/
def cumSums : FVal → List FVal → List FVal
  | _, [] => []
  | c, w :: ws =>
    let c := unpack 8 false (fadd 8 engineEnv [] c w)
    c :: cumSums c ws

/-- The sample of row j. -/
def sampleRow (ctr key j : Nat) (ws : List FVal) : Nat :=
  let bad (w : FVal) : Bool := match w with
    | .nan .. => true
    | .inf _ => true
    | .fin s m _ => s && m ≠ 0
  let cum := cumSums (.fin false 0 0) ws
  let last := cum.getLast?.getD (.fin false 0 0)
  let none_ := 0xFFFFFFFF
  if ws.any bad then none_
  else match last with
    | .fin _ m _ =>
      if m = 0 then none_
      else
        let t := (fmulX (.fin false (hashH ((ctr + j) % 2 ^ 32) key) 0) last).scale2 (-32)
        ((upto cum.length).find? fun i => t.lt ((cum[i]?).getD last)).getD none_
    | _ => none_

/-- What a job writes for a row: each output range with its values' bytes and the tag of every byte. -/
structure JobOut where
  at_ : W64
  bytes : List Byte
  tags : List Bool
  deriving DecidableEq, Repr

/-- Elements as bytes. -/
def elemBytes (ty : Nat) (xs : List Nat) : List Byte := (xs.map fun x => leBytes (typeWidth ty / 8) x).flatten

/-- The outputs of row j, from its elements and the tag of each (R262, R263). -/
def Job.row (x : Job) (j : Nat) (xs : List Nat) (tags : List Bool) : List JobOut :=
  let dst := x.dst + BitVec.ofNat 64 (j * x.dstride)
  let aux := x.aux + BitVec.ofNat 64 (j * x.astride)
  let vals := xs.map (unpack x.inTy false)
  let any := tags.any id
  let out (a : W64) (bs : List Byte) : JobOut := ⟨a, bs, bs.map fun _ => any⟩
  let n := typeWidth x.outTy / 8
  match x.op with
  | 0 => [⟨dst, elemBytes x.outTy (vals.map (fexp x.outTy engineEnv)), (tags.map (List.replicate n)).flatten⟩]
  | 1 => [⟨dst, elemBytes x.outTy (vals.map (fln x.outTy engineEnv)), (tags.map (List.replicate n)).flatten⟩]
  | 2 => [out dst (elemBytes x.outTy (softmaxRow x.outTy vals))]
  | 3 =>
    let r := (ranked x.inTy true xs).take x.k
    [out dst (elemBytes x.inTy (r.map (·.1))), out aux (elemBytes 5 (r.map (·.2)))]
  | 4 =>
    let r := ranked x.inTy x.desc xs
    out dst (elemBytes x.inTy (r.map (·.1))) ::
      (if x.indices then [out aux (elemBytes 5 (r.map (·.2)))] else [])
  | _ => [out dst (leBytes 4 (sampleRow x.ctr x.key j vals))]

/-! A job performed. -/

/-- Bytes read at their homes by the special-function die, with the tag of each byte (R262). -/
def State.sfdReadParts (s : State) (ctx : Nat) : List Part → (List Byte × List Bool) × State
  | [] => (([], []), s)
  | p :: ps =>
    let tags := (upto p.len).map fun i => s.mem.poisonAt (p.pa + i)
    let (x, s) := s.dieRead sfd ctx 2 p.pa p.len false
    let (y, s) := s.sfdReadParts ctx ps
    ((x.1 ++ y.1, tags ++ y.2), s)

/-- A range read for a job. -/
def State.sfdRead (s : State) (ctx : Nat) (a : W64) (n : Nat) : Res (List Byte × List Bool) :=
  if s.walkHeld sfd none ctx a n then .wait s
  else (s.access none ctx a n .read true).andThen fun ps s =>
    if !s.homesFree sfd ps then .wait s
    else
      let (x, s) := s.sfdReadParts ctx ps
      .ok x s

/-- A read for a job that waits does so for a home that cannot be reached now, not for a free frame (R61, R333). -/
def State.sfdHeld (s : State) (ctx : Nat) (a : W64) (n : Nat) : Bool :=
  s.walkHeld sfd none ctx a n || match s.access none ctx a n .read false with
  | .ok ps _ => !s.homesFree sfd ps
  | _ => false

/-- The elements of every row from j on, with their tags. -/
def State.jobRows (s : State) (ctx : Nat) (x : Job) : Nat → Nat → Res (List (List Nat × List Bool))
  | 0, _ => .ok [] s
  | n + 1, j =>
    let w := typeWidth x.inTy
    (s.sfdRead ctx (x.src + BitVec.ofNat 64 (j * x.sstride)) (x.len * (w / 8))).andThen fun b s =>
      (s.jobRows ctx x n (j + 1)).andThen fun rest s =>
        .ok ((elemsOf w x.len b.1, (upto x.len).map fun i => ((b.2.drop (i * (w / 8))).take (w / 8)).any id) :: rest) s

/-- Every output range of a job translated and checked before any is written. -/
def State.jobPlaces (s : State) (ctx : Nat) : List JobOut → Res (List (JobOut × List Part))
  | [] => .ok [] s
  | o :: os =>
    if s.walkHeld sfd none ctx o.at_ o.bytes.length then .wait s
    else (s.access none ctx o.at_ o.bytes.length .write true).andThen fun ps s =>
      (s.jobPlaces ctx os).andThen fun rest s => .ok ((o, ps) :: rest) s

/-- The pieces of a part that lie in one sector: offset in the output, physical address and length. -/
def sectorPieces (p : Part) : List (Nat × Nat × Nat) :=
  (sectorsOf p.pa p.len).map fun x =>
    let lo := max p.pa (64 * x)
    let hi := min (p.pa + p.len) (64 * x + 64)
    (p.off + (lo - p.pa), lo, hi - lo)

/-- An output written at its home, each sector poisoned when an element it receives is (R262). -/
def State.writeOut (s : State) (ctx : Nat) (o : JobOut) (ps : List Part) : State :=
  ((ps.map sectorPieces).flatten).foldl (fun s x =>
    s.homeWrite ctx x.2.1 (whole ((o.bytes.drop x.1).take x.2.2)) (((o.tags.drop x.1).take x.2.2).any id)) s

/-- What a job ended with: `waits` for a free frame, `held` for a home. -/
inductive JobEnd where
  | done | waits | held | fault (c : Cause) (r : Rec)
  deriving DecidableEq, Repr

/-- A job performed for a context: the descriptor and the inputs are read, the results computed and written (R262). A
fault before the first write leaves nothing written. -/
def State.runJob (s : State) (ctx op : Nat) (desc : W64) : State × JobEnd :=
  match s.sfdRead ctx desc 64 with
  | .trap c r s => (s, .fault c r)
  | .wait s => (s, if s.sfdHeld ctx desc 64 then .held else .waits)
  | .ok b s =>
    match jobOf op b.1 with
    | none => (s, .fault .sfJob (Rec.addr desc))
    | some x =>
      match (s.jobRows ctx x x.rows 0).andThen fun rows s =>
          s.jobPlaces ctx ((rows.mapIdx fun j r => x.row j r.1 r.2).flatten) with
      | .trap c r s => (s, .fault c r)
      | .wait s => (s, if (upto x.rows).any fun j =>
          let out (a : W64) (st : Nat) : Bool := s.walkHeld sfd none ctx (a + BitVec.ofNat 64 (j * st)) (8 * x.len)
          s.sfdHeld ctx (x.src + BitVec.ofNat 64 (j * x.sstride)) (x.len * (typeWidth x.inTy / 8)) ||
          out x.dst x.dstride || out x.aux x.astride then .held else .waits)
      | .ok os s =>
        if os.any fun o => !s.homesFree sfd o.2 || o.2.any fun p => s.mem.bounces p.pa then (s, .held)
        else (os.foldl (fun s o => s.writeOut ctx o.1 o.2) s, .done)

/-- The sizes of a job's outputs for each row, poisoned and of free values, where its descriptor is well formed (R52). -/
def Job.poisoned (x : Job) (id : Nat) : List JobOut :=
  let blank (a : W64) (n : Nat) : JobOut := ⟨a, poisonBytes id a.toNat n, List.replicate n true⟩
  ((upto x.rows).map fun j =>
    let dst := x.dst + BitVec.ofNat 64 (j * x.dstride)
    let aux := x.aux + BitVec.ofNat 64 (j * x.astride)
    let n := typeWidth x.outTy / 8
    if x.op < 3 then [blank dst (x.len * n)]
    else if x.op = 3 then [blank dst (x.k * n), blank aux (4 * x.k)]
    else if x.op = 4 then blank dst (x.len * n) :: (if x.indices then [blank aux (4 * x.len)] else [])
    else [blank dst 4]).flatten

/-- The outputs of a failed job written poisoned, where they can be (R52). -/
def State.poisonJob (s : State) (ctx id op : Nat) (desc : W64) : State :=
  match s.sfdRead ctx desc 64 with
  | .ok b s =>
    match jobOf op b.1 with
    | none => s
    | some x => (x.poisoned id).foldl (fun s o =>
        match s.access none ctx o.at_ o.bytes.length .write true with
        | .ok ps s => s.writeOut ctx o ps
        | _ => s) s
  | _ => s

end Sys2Proof.Machine
end

