-- ==== Sys2Proof/Machine/EngineEvents.lean ====
section
/-! DEFINITION. Machine/EngineEvents.lean: commands that start, issue on their tick and complete (R71, R72, R236, R245-R263). -/
namespace Sys2Proof.Machine

/-! The engines of the SFD (R260, R262, R275). -/

/-- The special-function engine of a sub-op (R260). -/
def engineOfSub (sub : Nat) : Nat := if sub < 2 then 0 else sub - 1

/-- The jobs that stand at an engine of the SFD, by their order of arrival: the cores' and the control die's (R262, R275). -/
def State.jobsAt (s : State) (e : Nat) : List Nat :=
  (s.cores.map fun x => (x.2.queue 6).filterMap fun y =>
    if engineOfSub (sfjOp y.word) = e then y.order else none).flatten ++
  (s.work.streams.map fun x => (x.2.items.filter fun y => y.started && engineOfSub y.subop = e).map (·.order)).flatten

/-- A job is the one that its engine performs: the first of those that stand there (R262). -/
def State.jobFirst (s : State) (e n : Nat) : Bool := (s.jobsAt e).all (n ≤ ·)

/-- The job at the head of a core's special-function queue comes to its engine, when it has not done so (R262). -/
def State.arriveJob (s : State) (core : Nat) (x : Cmd) : State × Nat :=
  match x.order with
  | some n => (s, n)
  | none =>
    let n := s.work.jobNext
    ((s.modCore core (·.modCmd 6 x.id fun y => { y with order := some n })).modWork fun w => { w with jobNext := n + 1 }, n)

/-! Starting. -/

/-- What a started command does at once: a job reads its descriptor and its inputs (R262), a chain is at its first record
(R259). -/
def State.begin (s : State) (core q : Nat) (x : Cmd) : State :=
  match x.word with
  | .chain .. =>
    match x.chain, x.regs with
    | none, [a] => s.setChain core q x (Chain.start a)
    | _, _ => s
  | _ => s

/-- A head that may start has its clause served and starts; the next command is then at the head (R236). -/
def State.startCmd (s : State) (core q : Nat) (x : Cmd) : State :=
  let s := s.modCore core (·.serve q x)
  let s := s.modCore core fun c => { c.modCmd q x.id fun x => { x with started := true } with
    starts := tmod 0 c.starts (8 + q) (· + 1) }
  (s.begin core q x).noteHead core

/-- A job is performed as it starts (R262): it starts when its frames are there, and a fault is its command's. -/
def State.startJob (s : State) (core : Nat) (x : Cmd) : State :=
  match x.regs with
  | [d] => s.engTurn core 6 x d (
    let s := s.modCore core (·.serve 6 x)
    let x := { x with waited := true }
    let (s', e) := s.runJob x.ctx (sfjOp x.word) d
    match e with
    | .done => s'.startCmd core 6 x
    | .waits => s'.frameWait (.engine core x.id) sfd (fun s => s.failCmd core 6 x .commitFail (Rec.addr d)) id
    | .held => s'
    | .fault c r => s'.failCmd core 6 x c r)
  | _ => s

/-- ENGINE_COMMAND_START: the command at the head of an engine queue is served its wait clause and starts (R151, R236,
R249-R252, R294). A stamped word issues at its tick instead (R72). A job starts when its engine has come to it (R262). -/
def execEngineCommandStart (core q : Nat) (s : State) : Out :=
  .next (
    match (s.coreAt core).head q with
    | none => s
    | some x =>
      if 6 < q || (q ≠ 0 && ((s.coreAt core).queue q).any (·.started)) || s.frozen x.tt then s
      else match (s.coreAt core).clause q x with
        | .poisoned => s.failCmd core q x .awaitPoisoned Rec.zero
        | .no =>
          if ((engineHead x.word).map (·.stamped)).getD false then s else s.modCore core (·.queueUp q x)
        | .yes =>
          if ((engineHead x.word).map (·.stamped)).getD false then s
          else if !s.mayStart core q x || (q = 6 && tget false s.energy.gated sfd) then s.modCore core (·.serve q x)
          else if q = 6 then
            let (s, n) := s.arriveJob core x
            if s.jobFirst (engineOfSub (sfjOp x.word)) n then s.startJob core { x with order := some n }
            else s.modCore core (·.serve 6 x)
          else s.startCmd core q x)

/-- T of a stamped word that reached the head at H (R71). -/
def stampTarget (h stamp : Nat) : Int :=
  let d := (stamp + 2 ^ 32 - h % 2 ^ 32) % 2 ^ 32
  if d < 2 ^ 31 then (h + d : Nat) else ((h + d : Nat) : Int) - 2 ^ 32

/-- The record of SCHEDULE_MISS: T, H and the resumed bit (R72, R284). -/
def missRec (t : Int) (h : W64) (resumed : Bool) : Rec :=
  let r := Rec.pair (wrap64 t) h
  if resumed then r.withBit 2 else r

/-- The stamped word at the head of the MXE queue of a core could issue now: its wait clause is satisfied and the MXE takes it
(R72). -/
def State.stampReady (s : State) (core : Nat) (x : Cmd) : Bool :=
  (match (s.coreAt core).clause 0 x with
   | .yes => true
   | _ => false) && s.mayStart core 0 x

/-- As time passes, a stamped word whose clock E this has been has had its test on that clock: it issues on it if it can, and is
otherwise marked as having missed it (R72). -/
def State.closeStamp (s : State) (core : Nat) : State :=
  match (s.coreAt core).head 0 with
  | none => s
  | some x => match x.arrived, engineHead x.word with
    | some h, some e =>
      if e.stamped && x.atE.isNone && decide (stampTarget h.toNat e.stamp.toNat ≤ ((s.pt (dieOfCore core) : Nat) : Int)) then
        if s.stampReady core x && !s.frozen x.tt then s.startCmd core 0 x
        else s.modCore core (·.modCmd 0 x.id fun y => { y with atE := some false })
      else s
    | _, _ => s

/-- STAMPED_COMMAND_ISSUE: the stamped word at the head of a core's MXE queue is tested on its tick, and issues or misses
(R71-R73). -/
def execStampedCommandIssue (core : Nat) (s : State) : Out :=
  .next (
    match (s.coreAt core).head 0 with
    | none => s
    | some x => match x.arrived, engineHead x.word with
      | some h, some e =>
        let t := stampTarget h.toNat e.stamp.toNat
        let miss (s : State) : State := s.failCmd core 0 x .scheduleMiss (missRec t h x.resumed)
        if !e.stamped || s.frozen x.tt then s
        else if t < (h.toNat : Int) then miss s
        else if ((s.pt (dieOfCore core) : Nat) : Int) < t then s
        else match (s.coreAt core).clause 0 x with
          | .poisoned => s.failCmd core 0 x .awaitPoisoned Rec.zero
          | .no => miss s
          | .yes => if x.atE ≠ some false && s.mayStart core 0 x then s.startCmd core 0 x else miss s
      | _, _ => s)

/-! Performing and completing. -/

/-- An MXE command performed (R245-R248). -/
def Core.performMxe (c : Core) (x : Cmd) : Core :=
  let base := (x.regs.head?).getD 0
  match x.word with
  | .mma _ a => c.mmaStep a false (spmAddr base 128 a.offA.toNat) (spmAddr base 128 a.offB.toNat)
  | .mmaz _ a => c.mmaStep a true (spmAddr base 128 a.offA.toNat) (spmAddr base 128 a.offB.toNat)
  | .accrd _ a => c.accRead x.ctx a (spmAddr base 64 a.off.toNat)
  | .accwr _ a => c.accWrite a (spmAddr base 64 a.off.toNat)
  | .accz _ mask => c.accZero mask
  | .scld _ a => c.scaleLoad a (spmAddr base 64 a.off.toNat)
  | _ => c

/-- Words of an accumulator tile given free values and the tile tagged (R52). -/
def Core.poisonAcc (c : Core) (id tile m n : Nat) : Core :=
  { c with
    acc := (upto m).foldl (fun t i => tsets 0 t (accKey tile i 0) ((upto n).map fun j =>
      BitVec.ofNat 32 (Config.poisoned id (2 ^ 20 + accKey tile i j)))) c.acc
    accTag := tset false c.accTag tile true }

/-- The results of an MXE command poisoned (R52); bits 9 to 15 of a scale slot stay 0 (R130). -/
def Core.poisonMxe (c : Core) (x : Cmd) : Core :=
  let base := (x.regs.head?).getD 0
  match x.word with
  | .mma _ a => c.poisonAcc x.poisonKey a.acc.toNat (a.m1.toNat + 1) (a.n1.toNat + 1)
  | .mmaz _ a => c.poisonAcc x.poisonKey a.acc.toNat (a.m1.toNat + 1) (a.n1.toNat + 1)
  | .accrd _ a =>
    let c := c.spmWrite x.ctx (spmAddr base 64 a.off.toNat) (whole (poisonBytes x.poisonKey 0 (accBytes a.ty.toNat))) true
    if a.clr then c.poisonAcc x.poisonKey a.acc.toNat 64 64 else c
  | .accwr _ a => c.poisonAcc x.poisonKey a.acc.toNat 64 64
  | .accz _ mask => (upto 16).foldl (fun c i => if mask.getLsbD i then c.poisonAcc x.poisonKey i 64 64 else c) c
  | .scld _ a =>
    let n := a.nc1.toNat + 1
    (upto 64).foldl (fun c l => { c with
      scale := tsets 0 c.scale (128 * l + a.c0.toNat) ((upto n).map fun j =>
        BitVec.ofNat 16 (Config.poisoned x.poisonKey (128 * l + j) % 512))
      scaleTag := tsets false c.scaleTag (128 * l + a.c0.toNat) (List.replicate n true) }) c
  | _ => c

/-- The results of a failed command poisoned (R52). -/
def State.poisonCmd (s : State) (core : Nat) (x : Cmd) : State :=
  match x.word with
  | .wstrm _ a =>
    let done := x.progress / 8192
    s.modCore core (·.poisonTiles (a.t0.toNat + done) (a.count1.toNat + 1 - done))
  | .cpy .. | .cpyt .. | .cpyf .. =>
    match x.move with
    | some m => s.poisonSegs core x m ((m.total - x.progress) / 64) (x.progress / 64)
    | none => s
  | .chain .. =>
    match x.chain.bind fun c => (c.copying.bind chainRec).map fun r => (c, r) with
    | some (c, .copy m0) =>
      let m := m0.shifted c
      s.poisonSegs core x m ((m.total - c.moved) / 64) (c.moved / 64)
    | _ => s
  | .wsel .. => s
  | .sfjExp .. | .sfjLog .. | .sfjSoftmax .. | .sfjTopk .. | .sfjSort .. | .sfjSample .. =>
    s.poisonJob x.ctx x.poisonKey (sfjOp x.word) ((x.regs.head?).getD 0)
  | _ => s.modCore core (·.poisonMxe x)

/-- A failed command completes: its results are poisoned, and a CPYT that did not fail in its publish publishes (R52). -/
def State.completeFailed (s : State) (core q : Nat) (x : Cmd) : State :=
  let s := s.poisonCmd core x
  match x.word, x.move with
  | .cpyt _ a, some m =>
    if m.total < x.progress then s.completeCmd core q x
    else
      let s := s.modCore core (·.modCmd q x.id fun y => { y with progress := m.total + 64 })
      s.cpytPublish core q { x with progress := m.total + 64 } a.decl.toNat
  | _, _ => s.completeCmd core q x

/-- ENGINE_COMMAND_COMPLETE: the oldest started command of an engine queue is performed and completes; the courier moves
up to the given number of 4 KiB segments of a copy, and completes it once all are moved (R236, R245-R258). A courier command of a
stopped tile task goes no further than the end of its current 4 KiB segment (R250), and a chain of a tile task that has ended
abnormally is gone there (R251). -/
def execEngineCommandComplete (core q segments : Nat) (s : State) : Out :=
  .next (
    match ((s.coreAt core).queue q).find? (·.started) with
    | none => s
    | some x =>
      if 6 < q then s
      else if x.failed then
        if x.discard then s.completeCmd core q x else s.completeFailed core q x
      else if q = 0 then (s.modCore core (·.performMxe x)).completeCmd core 0 x
      else if q = 5 then match x.word with
        | .wstrm _ a => s.performWstrm core x a
        | .wsel _ b => (s.modCore core fun c => { c with side := b.toNat }).completeCmd core 5 x
        | _ => s
      else if q = 6 then
        (s.modCore core fun c => { c.dropCmd 6 x.id with arriving := c.arriving ++ [x] }).settleRels x.strand
      else if s.frozen x.tt && !x.midSegment then s
      else match x.word, x.move with
        | .chain .., _ => if x.discard && (!x.midSegment || (s.coreAt core).chainPaused q x) then s.completeCmd core q x else s
        | _, some m => s.copySegments core q x.id m (if s.frozen x.tt then min 1 segments else segments)
        | _, none => s)

/-- A saved command: its 24-byte word and 8 bytes of progress (R300). -/
def Cmd.image (x : Cmd) : List Byte :=
  ((encode x.word).map fun u => leBytes 4 u.toNat).flatten ++ leBytes 8 x.progress

/-- The commands of a save record, then the signals recorded since (R300). -/
def Saved.queuePiece (v : Saved) : Nat × List Byte × Bool :=
  (0x12500, ((v.cmds.map fun x => x.2.image).flatten ++
    (v.signals.map fun x => leBytes 4 x.1 ++ leBytes 4 x.2).flatten).take 8192, false)

/-- The physical base of a context's save heap (R299). -/
def State.heapBase (s : State) (ctx : Nat) : Nat :=
  (tget 0 s.mem.areas ctx).toNat + ((s.ctxAt ctx).map (·.heapOff)).getD 0

/-- A piece of a save record written to its place in the save heap. -/
def State.writePiece (s : State) (v : Saved) (p : Nat × List Byte × Bool) : State :=
  s.homeWriteAll v.tt.ctx (s.heapBase v.tt.ctx + v.heapAt + p.1) (whole p.2.1) p.2.2

/-- The record of a job's signal in the save of a tile task that has been saved meanwhile (R250). -/
def State.recordSignal (s : State) (tt : Nat) (sig : Option (Nat × Nat)) : State :=
  match sig with
  | none => s
  | some x => match tget none s.work.saved tt with
    | none => s
    | some v =>
      let v := { v with signals := v.signals ++ [x] }
      let s := s.modWork fun w => { w with saved := tset none w.saved tt (some v) }
      if (s.ttAt tt).isSome then s else s.writePiece v v.queuePiece

/-- A signal for a saved tile task waits: no traffic crosses to the homes of its save record (R333). -/
def State.recordHeld (s : State) (tt : Nat) : Bool :=
  match s.ttAt tt, tget none s.work.saved tt with
  | none, some v => !s.reachesAll cd (s.heapBase v.tt.ctx + v.heapAt) v.size
  | _, _ => false

/-- SFJ_COMPLETION: the completion of a job arrives at its core, where traffic crosses from the SFD, and its signal clause is
performed (R250, R262, R333). -/
def execSfjCompletion (core : Nat) (s : State) : Out :=
  .next (
    match (s.coreAt core).arriving with
    | [] => s
    | x :: rest =>
      if !s.reaches sfd (dieOfCore core) || s.recordHeld x.tt then s
      else
      let f := s.faultOfCmd core 6 x
      let s := s.modCore core fun c => { c with arriving := rest }
      if x.discard then s
      else match s.ttAt x.tt with
        | some t => if t.saving then s.recordSignal x.tt x.sig else s.signal t.core f x.sig
        | none => s.recordSignal x.tt x.sig)

end Sys2Proof.Machine
end

