-- ==== Sys2Proof/Machine/Records.lean ====
section
/-! DEFINITION. Machine/Records.lean: the records that describe work: launch blocks (R34-R37), task records and graph
headers (R31-R33, R312), overlay trailers and control blocks (R264, R265), and the acceptance of a graph (R33, R269). -/
namespace Sys2Proof.Machine

/-- A range of a record is zero. -/
def recZero (b : List Byte) (off n : Nat) : Bool := recF b off n = 0

/-! Launch blocks. -/

/-- A loop-table entry (R36). -/
def loopEnt (b : List Byte) (i : Nat) : Option LoopEnt :=
  let o := 0x40 + 16 * i
  let kind := recF b o 1
  let fl := recF b (o + 1) 1
  let e : LoopEnt := ⟨kind, fl % 4, bits fl 2 1 = 1, recF b (o + 4) 4, recF b (o + 8) 2, recF b (o + 10) 2⟩
  if kind ≤ 2 && bits fl 3 5 = 0 && recZero b (o + 2) 2 && recZero b (o + 12) 4 && 1 ≤ e.step &&
      (if kind = 0 then e.slot = 0
       else e.slot ≠ 0 && e.start + (e.count - 1) * e.step ≤ 65535) then some e
  else none

/-- The limits of a loop table (R36); a PUSHed block has no level over dies. -/
def loopsOk (ls : List LoopEnt) (pushed : Bool) : Bool :=
  let sp := ls.filter fun l => l.kind ≠ 0
  sp.length ≤ 3 && ((sp.map (·.slot)).eraseDups.length = sp.length) &&
  ((sp.drop 1).all fun l => l.kind ≠ 2) && (!pushed || sp.all fun l => l.kind ≠ 2)

/-- A tile declaration (R37). -/
def declOf (b : List Byte) (i : Nat) : Option Decl :=
  let o := 0xA0 + 16 * i
  let fl := recF b (o + 2) 1
  if fl < 2 && recZero b (o + 7) 1 then
    some ⟨recF b o 2, fl = 1, recF b (o + 3) 1, BitVec.ofNat 8 (recF b (o + 4) 1), BitVec.ofNat 8 (recF b (o + 5) 1),
      BitVec.ofNat 8 (recF b (o + 6) 1), BitVec.ofNat 64 (recF b (o + 8) 8)⟩
  else none

/-- Every element of a list, if each is there. -/
def allSome {α : Type} : List (Option α) → Option (List α)
  | [] => some []
  | none :: _ => none
  | some x :: xs => (allSome xs).map (x :: ·)

/-- Vector entries that a strand takes in each cluster (R38). -/
def LbRec.entries (l : LbRec) : Nat := l.vnames / 2 * if l.modeK then 1 else 2

/-- Strands of a tile task. -/
def LbRec.strands (l : LbRec) : Nat := popcount 3 l.roles.toNat

/-- A launch block decoded; none when it is malformed for its context and its way of placement (R33-R38, R75). -/
def lbOf (b : List Byte) (privileged debuggable pushed : Bool) : Option LbRec :=
  let c := recF b 0 4
  let r := recF b 4 4
  let nloop := bits c 12 3
  let ndecl := bits c 15 3
  match allSome ((upto nloop).map (loopEnt b)), allSome ((upto ndecl).map (declOf b)) with
  | some ls, some ds =>
    let l : LbRec :=
      { ttPolicy := policyOf (bits c 20 2), lbPolicy := policyOf (bits c 18 2), timetabled := bits c 11 1 = 1
        poison := bits c 10 1 = 1, modeK := bits c 9 1 = 1, roles := BitVec.ofNat 3 (bits c 6 3)
        semWin := bits r 0 9, spmUnits := bits r 9 10, deadline := BitVec.ofNat 64 (recF b 8 8)
        arg := BitVec.ofNat 64 (recF b 0x10 8), codeBase := BitVec.ofNat 64 (recF b 0x18 8)
        entryLd := recF b 0x20 4, entryCp := recF b 0x24 4, entrySt := recF b 0x28 4, release := recF b 0x2C 4
        vnames := recF b 0x30 2, dieMask := BitVec.ofNat 8 (recF b 0x32 1), loops := ls, decls := ds }
    if bits c 0 4 = 1 && bits c 4 2 = 0 && bits c 22 10 = 0 && l.roles ≠ 0 && 1 ≤ nloop && nloop ≤ 6 && ndecl ≤ 6 &&
        bits r 19 13 = 0 && 1 ≤ l.semWin && l.semWin ≤ 256 && 1 ≤ l.spmUnits && l.spmUnits ≤ 512 &&
        l.entryLd % 4 = 0 && l.entryCp % 4 = 0 && l.entrySt % 4 = 0 &&
        l.vnames % 2 = 0 && 2 ≤ l.vnames && l.vnames ≤ 1536 && l.strands * l.entries ≤ 1536 &&
        recZero b 0x33 13 && (!l.timetabled || privileged) && (!l.poison || (l.modeK && debuggable)) &&
        loopsOk ls pushed then some l
    else none
  | _, _ => none

/-- A block of a context as it is placed from a record (R34). The deadline of the control block that names it, if any, counts until it
is opened (R273). -/
def State.newBlock (s : State) (ctx g t : Nat) (via : Via) (addr : W64) (l : LbRec) : Block where
  ctx := ctx
  graph := g
  task := t
  via := via
  addr := addr
  lb := l
  deadline := if l.deadline ≠ 0 then l.deadline.toNat else (s.rankKey (g, t)).1
  seq := none
  total := l.total
  ranges := []
  untaken := []
  waiting := via = .pool
  ready := []
  held := []
  done := 0
  frame := none
  released := !l.timetabled
  published := []
  excused := []
  retriedIts := []
  restarted := []
  retried := false
  parent := 0

/-- A block entered under a number of its own. -/
def State.addBlock (s : State) (b : Block) : State × Nat :=
  let n := s.work.nextBlock
  ((s.setBlock n (some b)).modWork fun w => { w with nextBlock := n + 1 }, n)

/-- The bits of a context that decide what its records may ask. -/
def State.ctxRights (s : State) (ctx : Nat) : Bool × Bool :=
  match s.ctxAt ctx with
  | some c => (c.privileged, c.debuggable)
  | none => (false, false)

/-! Operating points (R312). -/

/-- Clock of an fcode in MHz. -/
def mhzOf (fcode : Nat) : Nat := 800 + 25 * fcode
/-- The least voltage code at a clock. -/
def vmin (fcode : Nat) : Nat := ((mhzOf fcode - 800) * 31 + 2499) / 2500
/-- Fields of an operating-point entry. -/
def opTiles (e : W32) : Nat := fieldOf e 16 9
/-- Its format. -/
def opFormat (e : W32) : Nat := fieldOf e 12 4
/-- Its fcode. -/
def opF (e : W32) : Nat := fieldOf e 5 7
/-- Its vcode. -/
def opV (e : W32) : Nat := fieldOf e 0 5
/-- An entry within its limits. -/
def opOk (e : W32) : Bool :=
  fieldOf e 25 7 = 0 && opF e ≤ 100 && 1 ≤ opTiles e && opTiles e ≤ 256 && opFormat e < 14 && vmin (opF e) ≤ opV e

/-! Task records. -/

/-- A task record with its successor list read (R32). -/
def taskRecOf (b : List Byte) (succs : List Nat) : TaskRec :=
  let c := recF b 0 4
  let n := bits c 8 3 + 1
  let ops := (upto n).map fun i => BitVec.ofNat 32 (recF b (0x20 + 4 * i) 4)
  let off := recF b 0x10 4
  let len := recF b 0x14 4
  { cls := bits c 4 2, policy := policyOf (bits c 6 2), floor := bits c 11 3, preds := recF b 4 2, succs := succs
    deadline := BitVec.ofNat 64 (recF b 8 8), ovOff := off, ovLen := len, ops := ops
    bad := bits c 14 18 ≠ 0 || n ≤ bits c 11 3 || off % 64 ≠ 0 || len % 64 ≠ 0 || len < 64 || 2 ^ 23 < off + len ||
      !recZero b 0x40 64 || !ops.all opOk }

/-- What reading a graph's records gives: a fault of a read, a malformed shape, or its tasks. -/
inductive GraphRead where
  | fault (c : Cause) (r : Rec)
  /-- a page waits for a free frame (R87), or, where `held`, a home cannot be reached now -/
  | waits (held : Bool)
  | malformed
  | tasks (ts : List TaskRec)

/-- A range of a context's memory as the control die reads it. -/
def State.cdRead (s : State) (ctx : Nat) (a : W64) (n : Nat) : Res (List Byte) :=
  if s.cdHeld ctx a n .read then .wait s
  else (s.access none ctx a n .read true).andThen fun ps s =>
    let x := s.readParts ps
    -- a poisoned record is the uncorrectable error of R269
    if x.2 then .trap .memControlError (Rec.addr a) s else .ok x.1 (s.touchParts ctx ps)

/-- Task records from index i on, with their successor lists (R32, R33). -/
def State.readTasks (s : State) (ctx : Nat) (table : W64) : Nat → Nat → State × GraphRead
  | 0, _ => (s, .tasks [])
  | n + 1, i =>
    match s.cdRead ctx (table + BitVec.ofNat 64 (128 * i)) 128 with
    | .trap c r s => (s, .fault c r)
    | .wait s => (s, .waits (s.cdHeld ctx (table + BitVec.ofNat 64 (128 * i)) 128 .read))
    | .ok b s =>
      let k := recF b 6 2
      if bits (recF b 0 4) 0 4 ≠ 1 || 32 < k then (s, .malformed)
      else match (if k = 0 then .ok [] s else s.cdRead ctx (BitVec.ofNat 64 (recF b 0x18 8)) (4 * k)) with
        | .trap c r s => (s, .fault c r)
        | .wait s => (s, .waits (s.cdHeld ctx (BitVec.ofNat 64 (recF b 0x18 8)) (4 * k) .read))
        | .ok l s =>
          let t := taskRecOf b ((upto k).map fun j => recF l (4 * j) 4)
          match s.readTasks ctx table n (i + 1) with
          | (s, .tasks ts) => (s, .tasks (t :: ts))
          | x => x

/-- Rounds that complete every task whose predecessors are complete: what is left is on a cycle. -/
def acyclicFrom (ts : List TaskRec) : Nat → List Nat → Bool
  | 0, done => done.length = ts.length
  | n + 1, done =>
    let next := (upto ts.length).filter fun i => done.contains i || (upto ts.length).all fun j =>
      done.contains j || !(((ts[j]?).map (·.succs)).getD []).contains i
    if next.length = done.length then done.length = ts.length else acyclicFrom ts n next

/-- The checks of a graph as a whole (R33). -/
def shapeOk (ts : List TaskRec) : Bool :=
  (ts.mapIdx fun i t => t.succs.eraseDups.length = t.succs.length && !t.succs.contains i &&
    (t.succs.all fun j => j < ts.length) && t.preds = predsOf ts i).all id && acyclicFrom ts (ts.length + 1) []

/-- A task at acceptance. -/
def Task.fresh (r : TaskRec) : Task where
  info := r
  left := r.preds
  st := .waiting
  entry := 0
  begun := false
  overlayDone := false
  retried := false
  parked := false
  shed := false

/-- A fault of a graph's own records, offered to its context (R33, R269). -/
def State.headerFault (s : State) (ctx : Nat) (header : W64) (c : Cause) : State :=
  s.containCtx (noUnit ctx) c (Rec.addr header)

/-- A graph whose records are malformed as a whole ends abnormally, unless its context went with it (R33). -/
def State.malformedGraph (s : State) (g ctx : Nat) (header : W64) (c : Cause) : State :=
  let s := s.headerFault ctx header c
  if (s.graphAt g).isSome then s.killGraph g else s

/-- Task records that are malformed with their shape known raise RECORD_FORMAT to the graph level (R33); one absorbed under
RETRY is met again. -/
def State.badRecords (s : State) (g ctx : Nat) (table : W64) (retry : Bool) (bads : List Nat) : State :=
  let is := if retry then bads.take 1 ++ bads.take 1 else bads
  is.foldl (fun s i =>
    if ((s.graphAt g).map (·.ended)) = some none then
      s.containGraph { noUnit ctx with task := some (g, i) } .recordFormat
        (Rec.addr (table + BitVec.ofNat 64 (128 * i)))
    else s) s

/-- Every task without predecessors becomes ready, in order of index (R269, R282). -/
def State.readyFirst (s : State) (g : Nat) (ts : List TaskRec) : State :=
  (upto ts.length).foldl (fun s i =>
    if ((ts[i]?).map (·.preds)) = some 0 && ((s.taskAt g i).map (·.st)) = some .waiting then s.makeReady g i else s) s

/-- The control die accepts a graph: header, task records and successor lists are read and checked (R31, R33, R269). While a
page of them waits for a free frame nothing is accepted, and `waits` says what is left (R87). -/
def State.acceptGraph (s : State) (ctx : Nat) (header : W64) (waits : State → State) : State :=
  if header.toNat % 64 ≠ 0 then s.headerFault ctx header .alignment
  else match s.cdRead ctx header 64 with
  | .trap c _ s => s.headerFault ctx header c
  | .wait s =>
    if s.cdHeld ctx header 64 .read then waits s
    else s.frameWait .accept cd (fun s => s.headerFault ctx header .commitFail) waits
  | .ok b s =>
    let c := recF b 0 4
    let n := recF b 4 4
    let table : W64 := BitVec.ofNat 64 (recF b 8 8)
    let doneAddr : W64 := BitVec.ofNat 64 (recF b 0x10 8)
    let g := s.work.graphSeq + 1
    let pt : W64 := BitVec.ofNat 64 (s.pt cd)
    let pol := policyOf (bits c 4 2)
    let enter (s : State) : State := ((s.endFrameWait .accept).modWork fun w => { w with graphSeq := g }).setGraph g
      (some ⟨ctx, g, header, pt, pol, doneAddr, [], false, none⟩)
    if bits c 0 4 ≠ 1 || bits c 6 26 ≠ 0 || n = 0 || 65536 < n || table.toNat % 128 ≠ 0 || !recZero b 0x18 40 then
      -- the record takes no effect: nothing is written at done_addr
      let s := (enter s).headerFault ctx header .recordFormat
      if (s.graphAt g).isSome then s.removeGraph g else s
    else match s.readTasks ctx table n 0 with
      | (s, .fault cause _) => (enter s).malformedGraph g ctx header cause
      | (s, .waits true) => waits s
      | (s, .waits false) => s.frameWait .accept cd (fun s => (enter s).malformedGraph g ctx header .commitFail) waits
      | (s, .malformed) => (enter s).malformedGraph g ctx header .recordFormat
      | (s, .tasks ts) =>
        if !shapeOk ts then (enter s).malformedGraph g ctx header .recordFormat
        else
          let s := (enter s).modGraph g fun x => { x with tasks := ts.map Task.fresh }
          let bads := (upto ts.length).filter fun i => ((ts[i]?).map (·.bad)).getD false
          let s := s.badRecords g ctx table (decide (pol = .retry)) bads
          if ((s.graphAt g).map (·.ended)) = some none then s.readyFirst g ts else s

/-- Graphs in flight: accepted, and neither completed nor ended abnormally (R269). -/
def State.inFlight (s : State) : Nat := (s.work.graphs.filter fun x => x.2.any fun g => g.ended.isNone).length

/-! Overlay trailers and control blocks. -/

/-- The mask of an overlay trailer; none when it is malformed (R264). -/
def trailerOf (b : List Byte) : Option W64 :=
  let m := recF b 8 8
  if recF b 0 4 = 1 && recZero b 4 4 && m < 2 ^ 36 && recZero b 0x10 48 then some (BitVec.ofNat 64 m) else none

/-- A control block of a slot, for an overlay's run; none when it is malformed or of the wrong kind (R265, R266). -/
def ctlOf (b : List Byte) (g t ctx run : Nat) (sfdSlot : Bool) : Option Ctl :=
  let c := recF b 0 4
  let w := recF b 4 2
  let sg := recF b 6 2
  let target := recF b 0x10 8
  let sub := recF b 0x18 1
  let kind := bits c 4 4
  if bits c 0 4 = 1 && bits c 8 24 = 0 && kind = (if sfdSlot then 2 else 1) && w < 32768 && sg < 32768 &&
      (if sfdSlot then sub < 6 && target % 64 = 0 else sub = 0 && target % 256 = 0 && target + 256 ≤ 2 ^ 22) &&
      recZero b 0x19 39 then
    some ⟨g, t, ctx, run, kind, w % 256, w / 256, sg % 256, sg / 256, BitVec.ofNat 64 (recF b 8 8),
      BitVec.ofNat 64 target, sub, false, none, false, 0⟩
  else none

end Sys2Proof.Machine
end

