-- ==== Sys2Proof/Machine/Conductor.lean ====
section
/-! DEFINITION. Machine/Conductor.lean: micro-ops (R157, R267), control blocks in streams (R265, R266, R273) and the end of
an overlay (R268). -/
namespace Sys2Proof.Machine

/-- The number of the stream of queue q of conductor core k at target d (R266, R274). -/
def streamNum (d k q : Nat) : Nat := 64 * d + 4 * k + q

/-- A stream holds blocks that the overlay run of its core pushed and that have not completed (R157, R268). -/
def State.owes (s : State) (k i : Nat) : Bool := (s.streamAt i).items.any fun c => c.run = (s.condAt k).run

/-! The words. -/

/-- PUSH: the control block is copied as its word issues (R157, R265, R266). DESIGN CHOICE (log entry 110): the copy sees a ST of
its own word. -/
def execPush (d : BitVec 4) (q : BitVec 2) (cb : BitVec 16) (s : State) : Out :=
  .next (
    let k := s.myCondNum
    let i := streamNum d.toNat k q.toNat
    let off := 64 * cb.toNat
    let (g, t) := ((s.condAt k).task).getD (0, 0)
    if Config.streamDepth ≤ (s.streamAt i).items.length then s.waitsAt none
    else match ctlOf (s.recordBytes off 64) g t s.myCtx (s.condAt k).run (decide (d.toNat = sfd)) with
      | none => s.trap .recordFormat (Rec.addr (BitVec.ofNat 64 off))
      | some c => (s.modStream i fun x => { x with items := x.items ++ [c] }).issued)

/-- QFENCE: the blocks that this overlay pushed to the named queues of a die have completed (R157, R268). -/
def execQfence (d : BitVec 4) (mask : BitVec 4) (s : State) : Out :=
  .next (
    let k := s.myCondNum
    if (upto 4).any fun q => mask.getLsbD q && s.owes k (streamNum d.toNat k q) then s.waitsAt none else s.issued)

/-- Entries of the pool in use, but for those that serve only refills (R46, R278). -/
def WorkState.generalUsed (w : WorkState) : Nat := w.poolBlocks.length + w.poolHeld.length - w.refilled.length

/-- LAUNCH: a launch block in record memory goes to the pool, for the overlay's task (R267). A word that finds the pool
full waits (log entry 19). DESIGN CHOICE (log entry 110): the copy sees a ST of its own word. -/
def execLaunch (g : GReg) (s : State) : Out :=
  .next (
    let off := s.g g
    let (gr, t) := ((s.condAt s.myCondNum).task).getD (0, 0)
    let (priv, dbg) := s.ctxRights s.myCtx
    if off.toNat % 256 ≠ 0 then s.trap .alignment (Rec.addr off)
    else if 2 ^ 22 < off.toNat + 256 then s.trap .translation (Rec.addr off)
    else if Config.poolGeneral ≤ s.work.generalUsed then s.waitsAt none
    else match lbOf (s.recordBytes off.toNat 256) priv dbg false with
      | none => s.trap .recordFormat (Rec.addr off)
      | some l =>
        if l.timetabled && s.time.framelen ≤ l.release then s.trap .recordFormat (Rec.addr off)
        else
          let (s, n) := s.addBlock (s.newBlock s.myCtx gr t .pool off l)
          (s.modWork fun w => { w with poolBlocks := w.poolBlocks ++ [n] }).issued)

/-- The launch of a graph takes its turn after the submissions and launches that arrived before it (R269). -/
def State.graphTurn (s : State) (k : Nat) : Bool :=
  s.inFlight < Config.graphDepth &&
  match s.work.launched with
  | [] => s.host.submits = []
  | x :: _ => x.1 = k && x.2 = 0

/-- LAUNCH.graph: the header is read and the graph accepted as the word issues; while no place is free, or an earlier
submission waits, the word waits in order of arrival (R267, R269). -/
def execLaunchGraph (g : GReg) (s : State) : Out :=
  .next (
    let k := s.myCondNum
    if s.graphTurn k then
      let stays (s : State) : State := (s.modWork fun w => { w with launched := (k, 0) :: w.launched }).waitsAt none
      let read := s.modWork fun w => { w with launched := w.launched.filter fun x => x.1 ≠ k }
      read.issued.acceptGraph s.myCtx (s.g g) stays
    else if s.work.launched.any fun x => x.1 = k then s.waitsAt none
    else (s.modWork fun w => { w with launched := w.launched ++ [(k, s.host.submits.length)] }).waitsAt none)

/-- OVERLAY: the core issues nothing more (R268). -/
def execOverlay (s : State) : Out :=
  .next (s.modCond s.myCondNum fun c => { c with swapping := true }).issued

/-! Events. -/

/-- OVERLAY_SWAP: every block pushed to a queue that the trailer names has completed; the overlay has ended and the core
is free (R268). -/
def execOverlaySwap (k : Nat) (s : State) : Out :=
  .next (
    let c := s.condAt k
    match c.task with
    | none => s
    | some (g, t) =>
      if c.swapping && (upto 36).all fun b => !(c.trailer.getLsbD b && s.owes k (streamNum (b / 4) k (b % 4))) then
        (s.modTask g t fun x => { x with overlayDone := true }).freeCond k
      else s)

/-- The signal of a control block, unless the overlay that pushed it has been swapped (R266, R268). -/
def State.ctlSignal (s : State) (k : Nat) (c : Ctl) : State :=
  if (s.condAt k).run ≠ c.run || (s.condAt k).task ≠ some (c.graph, c.task) || c.sigInc = 0 then s
  else match (s.condAt k).sync.post c.sigSem c.sigInc with
    | some y => s.modCond k fun x => { x with sync := y }
    | none => (s.containTask { noUnit c.ctx with task := some (c.graph, c.task) } .semOverflow Rec.zero).1

/-- The control block at a place of a stream changed. -/
def State.modItem (s : State) (i n : Nat) (f : Ctl → Ctl) : State :=
  s.modStream i fun x => { x with items := x.items.mapIdx fun j c => if j = n then f c else c }

/-- The control block at a place of a stream completes: it leaves, and performs its signal (R266). -/
def State.ctlDone (s : State) (k i n : Nat) (c : Ctl) : State :=
  let s := (s.endFrameWait (.stream i)).modCond k fun x => { x with sync := x.sync.leave (.engine i) }
  (s.modStream i fun x => { x with items := x.items.eraseIdx n }).ctlSignal k c

/-- The frame that a timetabled block joins at PT t (R75). -/
def State.frameFor (s : State) (r t : Nat) : Nat :=
  let x := s.time
  if !x.frameOn then 0
  else if t < x.framestart + r && t < x.framestart + x.curLen then x.frameno else x.frameno + 1

/-- A unit of a parked context, or of a task of class 2 or 3 while the grade is park or shed (R315, R322). -/
def State.unitParked (s : State) (ctx g t : Nat) : Bool :=
  ((s.ctxAt ctx).map (·.parked)).getD false ||
  (decide (2 ≤ s.energy.grade) && match s.taskAt g t with
    | some x => decide (2 ≤ x.info.cls) && decide (x.st = .running)
    | none => false)

/-- A launch block joins its frame, when it is timetabled and its unit is not parked: a parked one joins when it is unparked
(R75). -/
def State.joinFrame (s : State) (b t : Nat) : State :=
  match s.blockAt b with
  | some x =>
    if x.lb.timetabled && !s.unitParked x.ctx x.graph x.task then s.setBlock b (some { x with frame := some (s.frameFor x.lb.release t), released := false })
    else s
  | none => s

/-- The launch block of a control block is read when the control block reaches the head of its stream at the die (R34, R266,
R273). A malformed one raises RECORD_FORMAT to the task level; absorbed, the control block completes at once. -/
def State.readCtl (s : State) (k d i n : Nat) (c : Ctl) : State :=
  let (priv, dbg) := s.ctxRights c.ctx
  let bad (s : State) : State :=
    let x := s.containTask { noUnit c.ctx with task := some (c.graph, c.task) } .recordFormat (Rec.addr c.target)
    if x.2 then x.1.ctlDone k i n c else x.1
  match lbOf (s.recordBytes c.target.toNat 256) priv dbg true with
  | none => bad s
  | some l =>
    if l.timetabled && s.time.framelen ≤ l.release then bad s
    else
      let (s, b) := s.addBlock (s.newBlock c.ctx c.graph c.task (.queue i) c.target l)
      (s.joinFrame b (s.pt d)).modItem i n fun c => { c with block := some b }

/-- The wait of a control block served on its conductor core's semaphores (R151, R266). -/
def State.serveCtl (s : State) (k i n : Nat) (c : Ctl) : State :=
  let y := (s.condAt k).sync
  if c.waitThr = 0 then s.modItem i n fun c => { c with queued := true }
  else if y.ready c.waitSem c.waitThr (.engine i) then
    (s.modCond k fun x => { x with sync := x.sync.take c.waitSem c.waitThr (.engine i) }).modItem i n
      fun c => { c with queued := true }
  else s.modCond k fun x => { x with sync := x.sync.join c.waitSem c.waitThr (.engine i) }

/-- A control block has been opened: its launch block has a number, or has completed since, or its job has started. -/
def State.ctlOpened (s : State) (c : Ctl) : Bool :=
  if c.kind = 1 then match c.block with
    | some b => match s.blockAt b with
      | some x => x.seq.isSome
      | none => true
    | none => false
  else c.started

/-- The control block at the head of its stream at the die, with its place: the first that is not opened (R273). -/
def State.dieHead (s : State) (i : Nat) : Option (Ctl × Nat) := ((s.streamAt i).items.zipIdx).find? fun x => !s.ctlOpened x.1

/-- CONTROL_BLOCK_HEAD: a step of the stream of queue q of core k at target d: the launch block of the control block at its
head at the die is read, and it joins its frame; else the wait of the first one on the control die is served, and it crosses
to the die queue (R15, R266, R273). -/
def execControlBlockHead (k d q : Nat) (s : State) : Out :=
  .next (
    let i := streamNum d k q
    if 15 < k || 8 < d || 3 < q || !s.condReaches k d then s
    else match s.dieHead i with
      | none => s
      | some (c, n) =>
        if c.queued && c.kind = 1 && c.block.isNone then s.readCtl k d i n c
        else match ((s.streamAt i).items.zipIdx).find? fun x => !x.1.queued with
          | none => s
          | some (c, n) => s.serveCtl k i n c)

/-- A job of the control die performed (R262, R266). -/
def State.runCtl (s : State) (k i n : Nat) (c : Ctl) : State :=
  let f : FaultAt := { noUnit c.ctx with task := some (c.graph, c.task) }
  let fail (s : State) (cause : Cause) (r : Rec) : State :=
    let x := s.containTask f cause r
    let key := ((2 ^ 64 + c.run) * 16 + k) * 2 ^ 64 + s.pt cd
    if x.2 then (x.1.poisonJob c.ctx key c.subop c.target).ctlDone k i n c else x.1
  let (s', e) := s.runJob c.ctx c.subop c.target
  match e with
  | .done => s'.ctlDone k i n c
  | .waits => s'.frameWait (.stream i) sfd (fun s => fail s .commitFail (Rec.addr c.target)) id
  | .held => s'
  | .fault cause r => fail s' cause r

/-- A job of the control die is the one that its engine performs: the first of those that came to it (R262, R275). -/
def State.jobRuns (s : State) (c : Ctl) : Bool := c.started && s.jobFirst (engineOfSub c.subop) c.order

/-- A control block has completed but for its signal: its launch block is gone, or its engine performs its job (R266). -/
def State.ctlReady (s : State) (c : Ctl) : Bool :=
  c.queued && if c.kind = 1 then match c.block with
    | some b => (s.blockAt b).isNone
    | none => false
  else s.jobRuns c

/-- CONTROL_BLOCK_COMPLETE: a control block of the stream of queue q of core k at target d completes (R266). -/
def execControlBlockComplete (k d q : Nat) (s : State) : Out :=
  .next (
    let i := streamNum d k q
    if 15 < k || 8 < d || 3 < q || !s.condReaches k d then s
    else match ((s.streamAt i).items.zipIdx).find? fun x => s.ctlReady x.1 with
      | none => s
      | some (c, n) => if c.kind = 1 then s.ctlDone k i n c else s.runCtl k i n c)

end Sys2Proof.Machine
end

