-- ==== Sys2Proof/Machine/Place.lean ====
section
/-! DEFINITION. Machine/Place.lean: the pending-launch pool (R42, R46, R278), placement of launch blocks on dies (R42), and
the slots of the die dispatchers (R273-R275). -/
namespace Sys2Proof.Machine

/-! Parked units and usable dies. -/

/-- A launch block of a parked unit. -/
def State.blockParked (s : State) (b : Nat) : Bool :=
  match s.blockAt b with
  | some x => s.unitParked x.ctx x.graph x.task
  | none => false

/-- Present cores of a die (R16, R19). -/
def State.coresOf (s : State) (die : Nat) : List Nat := ((upto 32).map fun i => 32 * die + i).filter s.present

/-- A die takes part in placement: it has a present core and is not gated (R42, R324). -/
def State.dieUp (s : State) (die : Nat) : Bool := s.coresOf die ≠ [] && !tget false s.energy.gated die

/-- The dies of a mask: 0 means all eight (R34). -/
def maskDies (m : BitVec 8) : List Nat := (upto 8).filter fun d => m = 0 || m.getLsbD d

/-- The absolute deadline of a task (R269). -/
def State.taskDeadline (s : State) (g t : Nat) : Nat := (s.rankKey (g, t)).1

/-! Placement (R42). -/

/-- Iterations of a die that have not been dispatched (R42). -/
def State.undispatched (s : State) (die : Nat) : Nat :=
  s.work.blocks.foldl (fun n x => match x.2 with
    | some b => let r := tget (0, 0) b.ranges die; n + (r.2 - r.1)
    | none => n) 0

/-- The die of a list with the fewest undispatched iterations, the lowest on a tie (R42). -/
def State.leastLoaded (s : State) : List Nat → Option Nat
  | [] => none
  | d :: ds => match s.leastLoaded ds with
    | none => some d
    | some e => if s.undispatched d ≤ s.undispatched e then some d else some e

/-- The ranges a launch block gives to the dies that take part (R42). -/
def State.spansOf (s : State) (l : LbRec) (dies : List Nat) : Tab (Nat × Nat) :=
  let rs : List (Nat × (Nat × Nat)) :=
    match l.spatial with
    | x :: inner =>
      if x.kind = 2 then
        let n := x.count
        let m := countOf inner
        let k := dies.length
        dies.mapIdx fun j d => (d, (j * n / k * m, (j + 1) * n / k * m))
      else match s.leastLoaded dies with
        | some d => [(d, (0, l.total))]
        | none => []
    | [] => match s.leastLoaded dies with
      | some d => [(d, (0, l.total))]
      | none => []
  rs.filter fun r => r.2.1 < r.2.2

/-- A launch block opened or placed: it takes the next launch sequence number, once (R269). -/
def State.numberBlock (s : State) (b : Nat) : State :=
  match s.blockAt b with
  | some x => if x.seq.isSome then s else
      let n := s.work.launchSeq + 1
      ((s.setBlock b (some { x with seq := some n })).modWork fun w => { w with launchSeq := n }).placeOutputs b
  | none => s

/-- A launch block without iterations completes as soon as it is placed (R36). -/
def State.emptyBlock (s : State) (b : Nat) : State :=
  match s.blockAt b with
  | some x => if x.lb.total = 0 then s.finishBlock b else s
  | none => s

/-- A launch block that is malformed at its placement: RECORD_FORMAT is offered to the task level (R40, R75). -/
def State.badBlock (s : State) (b : Nat) (x : Block) : State :=
  let s := (s.setBlock b none).modWork (·.forget b)
  (s.containTask { noUnit x.ctx with task := some (x.graph, x.task) } .recordFormat (Rec.addr x.addr)).1

/-- A request to gate or ungate a die, served in order of arrival (R324). -/
def State.askGate (s : State) (up : Bool) (die : Nat) : State :=
  s.modEnergy fun e => if e.gateQ.contains (up, die) then e else { e with gateQ := e.gateQ ++ [(up, die)] }

/-- A block in the pool placed on its dies (R42, R75); one that is walked again keeps its frame and its number
(R52). While every die of its mask is gated it waits, and the lowest of them is asked to ungate (log entry 22). -/
def State.placeBlock (s : State) (b : Nat) : State :=
  match s.blockAt b with
  | none => s
  | some x =>
    if x.seq.isNone && x.lb.timetabled && s.time.framelen ≤ x.lb.release then s.badBlock b x
    else match (maskDies x.lb.dieMask).filter s.dieUp with
      | [] => match (maskDies x.lb.dieMask).find? fun d => s.coresOf d ≠ [] with
        | some d => s.askGate true d
        | none => s
      | dies =>
        let rs := s.spansOf x.lb dies
        let s := s.setBlock b (some { x with ranges := rs, untaken := rs.map (·.1), waiting := false })
        ((if x.seq.isSome then s else s.joinFrame b (s.pt cd)).numberBlock b).emptyBlock b

/-! The pool (R46, R278). -/

/-- A launch block named by an EXIT is read from the context's memory and enters the pool, in a refill entry or another
(R40, R46). While its page waits for a free frame it enters nothing, and `waits` says what is left (R87). -/
def State.readSuccessor (s : State) (ctx : Nat) (va : W64) (g t parent : Nat) (refill : Bool) (waits : State → State) :
    State :=
  let (priv, dbg) := s.ctxRights ctx
  let bad (s : State) (c : Cause) : State :=
    (s.containTask { noUnit ctx with task := some (g, t) } c (Rec.addr va)).1
  match s.cdRead ctx va 256 with
  | .trap c _ s => bad s c
  | .wait s =>
    if s.cdHeld ctx va 256 .read then waits s else s.frameWait (.successor ctx) cd (fun s => bad s .commitFail) waits
  | .ok bs s =>
    let s := s.endFrameWait (.successor ctx)
    match lbOf bs priv dbg false with
    | none => bad s .recordFormat
    | some l =>
      let (s, n) := s.addBlock { s.newBlock ctx g t .pool va l with parent := parent }
      s.modWork fun w => { w with
        poolBlocks := w.poolBlocks ++ [n], refilled := if refill then w.refilled ++ [(n, none)] else w.refilled }

/-- A successor or a held iteration goes to the spill list when the entries of the pool that serve it are all in use, or when
the list is not empty (R46). -/
def State.spills (s : State) (ctx : Nat) : Bool :=
  decide (Config.poolGeneral ≤ s.work.generalUsed) || ((s.ctxAt ctx).map fun c => decide (c.spill ≠ [])).getD false

/-- A successor of a tile task that has ended: its reservation becomes a pool entry or a spill record (R46). -/
def State.enterSuccessor (s : State) (ctx : Nat) (va : W64) (g t parent : Nat) : State :=
  let full := s.spills ctx
  let s := s.unreserve ctx 1
  let toList (s : State) : State := s.addSpill ctx (.succ va g t parent)
  if full then toList s else s.readSuccessor ctx va g t parent false toList

/-- The context whose spill list is served next (R46); one whose list waits to be written is passed over (R333). -/
def State.nextSpill (s : State) : Option (Nat × SpillRec) :=
  (upto 64).findSome? fun i =>
    let c := (s.work.refillNext + i) % 64
    (s.ctxAt c).bind fun x => if x.spillWait then none else x.spill.head?.map fun r => (c, r)

/-- A refill: the head record of one spill list enters the pool, in an entry that serves only refills (R46, R278). -/
def State.refill (s : State) : State :=
  if Config.poolDepth - Config.poolGeneral ≤ s.work.refilled.length then s
  else match s.nextSpill with
    | none => s
    | some (c, r) =>
      let s := (s.modCtx c (·.takeSpill)).modWork fun w => { w with refillNext := (c + 1) % 64 }
      match r with
      | .succ va g t p => s.readSuccessor c va g t p true fun s => s.modCtx c (·.putBack r)
      | .held b i => s.modWork fun w => { w with
          poolHeld := w.poolHeld ++ [(b, i)], refilled := w.refilled ++ [(b, some i)] }

/-- The block of the pool that is placed next: the earliest deadline, then the order of arrival (R275, R278). -/
def State.nextPlace (s : State) : List Nat → Option Nat
  | [] => none
  | b :: bs =>
    let rest := s.nextPlace bs
    match s.blockAt b with
    | some x =>
      if !x.waiting then rest
      else match rest.bind fun c => s.blockAt c with
        | some y => if y.deadline < x.deadline then rest else some b
        | none => some b
    | none => rest

/-- POOL_SERVICE: one refill, then the placement of one waiting block (R46, R278). -/
def execPoolService (s : State) : Out :=
  .next (
    let s := s.refill
    match s.nextPlace s.work.poolBlocks with
    | some b => s.placeBlock b
    | none => s)

/-! Queues of a die (R273, R274). -/

/-- A queue may offer work: it is unregulated, or its usage was below its budget as the present tick began (R274, R282). -/
def Stream.eligible (x : Stream) : Bool := x.period = 0 || x.before < x.budget

/-- The queue that a block came by is eligible; a block of the pool has none. -/
def State.queueOpen (s : State) (x : Block) : Bool :=
  match x.via with
  | .queue i => (s.streamAt i).eligible
  | .pool => true

/-- The deadline of a control block (R273). -/
def State.ctlDeadline (s : State) (c : Ctl) : Nat :=
  if c.deadline ≠ 0 then c.deadline.toNat else s.taskDeadline c.graph c.task

/-- A control block that stands first among those of its stream that are not opened, when it may be opened: it has been
served, its context is not parked, and a timetabled block has been released (R273, R275). -/
def State.streamHead (s : State) (i : Nat) : Option (Ctl × Nat) :=
  match s.dieHead i with
  | none => none
  | some (c, n) =>
    if !c.queued || s.unitParked c.ctx c.graph c.task || !(s.streamAt i).eligible then none
    else match c.block.bind s.blockAt with
      | some b => if b.released then some (c, n) else none
      | none => if c.kind = 2 then some (c, n) else none

/-! Slots (R275). -/

/-- A block has something to dispatch on a die. -/
def Block.hasWork (x : Block) (die : Nat) : Bool :=
  let r := tget (0, 0) x.ranges die
  r.1 < r.2 || x.ready.any fun h => h.2 = die

/-- A tile task of a block runs on a die. -/
def State.runsOn (s : State) (b die : Nat) : Bool :=
  s.work.tts.any fun x => match x.2 with
    | some t => t.block = b && dieOfCore t.core = die
    | none => false

/-- Blocks that have nothing left to dispatch on a die give up their slots, and so do those of a parked unit once its tile
tasks have stopped (R275, R282). -/
def State.trimSlots (s : State) (die : Nat) : State :=
  let keep (b : Nat) : Bool := match s.blockAt b with
    | some x => x.hasWork die && !(s.blockParked b && !s.runsOn b die)
    | none => false
  let slots := (s.dispAt die).slots.filter keep
  let res := (s.dispAt die).reserved.filter fun r => !s.blockParked r.2
  s.modDisp die fun d => { d with slots := slots, reserved := res }

/-- Pool entries of blocks whose range every die has taken are freed (R278). -/
def State.freePool (s : State) : State :=
  let waits (b : Nat) : Bool := match s.blockAt b with
    | some x => x.waiting || x.untaken ≠ []
    | none => false
  let l := s.work.poolBlocks.filter waits
  s.modWork fun w => { w with poolBlocks := l, refilled := w.refilled.filter fun x => x.2.isSome || l.contains x.1 }

/-- A block takes a slot of a die; its returned iterations have one too. -/
def State.giveSlot (s : State) (die b : Nat) : State :=
  ((s.modDisp die fun d => { d with
    slots := d.slots ++ [b], returned := d.returned.filter fun x => x.1 ≠ b }).modBlock b fun x =>
      { x with untaken := x.untaken.filter (· ≠ die) }).freePool

/-- Something a die may open, with its rank: deadline, pool before queues, then sequence number or core and queue. -/
structure Offer where
  rank : Nat × Nat × Nat
  block : Nat
  stream : Option (Nat × Nat)
  deriving DecidableEq, Repr

/-- Blocks placed on a die, or opened there before, that hold no slot and may be opened (R275). One that the die has not taken yet
waits for the module to the control die (R333). -/
def State.placedOffers (s : State) (die : Nat) : List Offer :=
  s.work.blocks.filterMap fun x => match x.2 with
    | none => none
    | some b =>
      if b.waiting || b.seq.isNone || !b.released || !b.hasWork die || (s.dispAt die).slots.contains x.1 ||
          (b.untaken.contains die && !s.reaches cd die) ||
          s.blockParked x.1 || !s.queueOpen b then none
      else some ⟨(b.deadline, 0, b.seq.getD 0), x.1, none⟩

/-- The heads of a die's queues, while traffic crosses to the die (R275, R333). -/
def State.queueOffers (s : State) (die : Nat) : List Offer :=
  if !s.reaches cd die then []
  else (upto 64).filterMap fun i => (s.streamHead (64 * die + i)).map fun x =>
    ⟨(s.ctlDeadline x.1, 1, i), x.1.block.getD 0, some (64 * die + i, x.2)⟩

/-- The offer that comes first. -/
def firstOffer : List Offer → Option Offer
  | [] => none
  | x :: xs => match firstOffer xs with
    | some y => if keyLt y.rank x.rank then some y else some x
    | none => some x

/-- The released timetabled block of the pool that comes first (R275). -/
def State.timetabledOffer (s : State) (die : Nat) : Option Offer :=
  firstOffer ((s.placedOffers die).filterMap fun o => match s.blockAt o.block with
    | some b => if b.lb.timetabled && b.via = .pool then some { o with rank := (b.seq.getD 0, 0, 0) } else none
    | none => none)

/-- The block of a queue is opened on its die: it is placed there whole (R42, R266). -/
def State.openQueued (s : State) (die b : Nat) : State :=
  match s.blockAt b with
  | none => s
  | some x =>
    let s := s.setBlock b (some { x with ranges := if x.lb.total = 0 then [] else [(die, (0, x.lb.total))], waiting := false })
    ((s.numberBlock b).giveSlot die b).emptyBlock b

/-- What an offer becomes. -/
def State.takeOffer (s : State) (die : Nat) (o : Offer) : State :=
  match o.stream with
  | none => s.giveSlot die o.block
  | some (i, n) =>
    if die = sfd then
      let j := s.work.jobNext
      (s.modItem i n fun c => { c with started := true, order := j }).modWork fun w => { w with jobNext := j + 1 }
    else s.openQueued die o.block

/-- The slots of a die that may be filled: one is kept for the range that a steal request under way may bring (R277). -/
def Disp.room (d : Disp) : Nat := Config.dieSlots - if d.outstanding.isSome then 1 else 0

/-- DIE_SLOT_FILL: a free slot of a die is filled: by the block of a returned iteration, a released timetabled block, or
the earliest deadline among queue heads and pool blocks (R275); the SFD hands the job to its engine. -/
def execDieSlotFill (die : Nat) (s : State) : Out :=
  .next (
    if 8 < die then s
    else if die = sfd then
      if tget false s.energy.gated sfd then s
      else match firstOffer (s.queueOffers sfd) with
        | some o => s.takeOffer sfd o
        | none => s
    else
      let s := s.trimSlots die
      if (s.dispAt die).room ≤ (s.dispAt die).slots.length || s.coresOf die = [] then s
      else match (s.dispAt die).returned.find? fun x => !s.blockParked x.1 with
        | some x => s.giveSlot die x.1
        | none => match s.timetabledOffer die with
          | some o => s.takeOffer die o
          | none => match firstOffer (s.placedOffers die ++ s.queueOffers die) with
            | some o => s.takeOffer die o
            | none => s)

end Sys2Proof.Machine
end

