-- ==== Sys2Proof/Machine/Select.lean ====
section
/-! DEFINITION. Machine/Select.lean: the choice and dispatch of iterations (R38, R39, R43, R53, R99, R276, R298, R314), and
stealing between dies (R44, R277). -/
namespace Sys2Proof.Machine

/-! Fitting a tile task on a core (R38). -/

/-- Tile tasks that run on a core. -/
def State.ttsOn (s : State) (core : Nat) : List TileTask :=
  s.work.tts.filterMap fun x => x.2.filter fun t => t.core = core

/-- Free partitions of a core, in ascending order. -/
def State.freeParts (s : State) (core : Nat) : List Nat := (upto 8).filter fun p => (s.strandAt (8 * core + p)).isNone

/-- Vector entries that a tile task holds in each cluster. -/
def TileTask.entries (t : TileTask) : Nat := t.strands.length * (t.vnames / 2 * if t.modeK then 1 else 2)

/-- Two scratchpad windows, in 4 KiB units, do not meet. -/
def apart (a n b m : Nat) : Bool := a + n ≤ b || b + m ≤ a

/-- Two semaphore windows, modulo 256, do not meet. -/
def semApart (a n b m : Nat) : Bool := n ≤ (b + 256 - a) % 256 && m ≤ (a + 256 - b) % 256

/-- The scratchpad window of a number of units at a first unit is free. -/
def spmFree (ts : List TileTask) (units base : Nat) : Bool :=
  ts.all fun t => apart base units (t.spmBase / 4096) t.spmUnits

/-- The semaphore window at a first number is free. -/
def semFree (ts : List TileTask) (n base : Nat) : Bool := ts.all fun t => semApart base n t.semBase t.semLen

/-- The windows a tile task takes on a core: its partitions, the first unit of its scratchpad window and the first number of
its semaphore window; none where it does not fit (R38). -/
def State.fit (s : State) (core : Nat) (l : LbRec) : Option (List Nat × Nat × Nat) :=
  let ts := s.ttsOn core
  let parts := (s.freeParts core).take l.strands
  if parts.length < l.strands || 1536 < ts.foldl (fun n t => n + t.entries) 0 + l.strands * l.entries then none
  else match (upto (513 - l.spmUnits)).find? (spmFree ts l.spmUnits), (upto 256).find? (semFree ts l.semWin) with
    | some u, some b => some (parts, u, b)
    | _, _ => none

/-- The next present core of a die after the last one taken that a block's tile task fits; a core reserved for another
block is passed over (R43, R53). -/
def State.nextFit (s : State) (die b : Nat) (l : LbRec) : Option (Nat × (List Nat × Nat × Nat)) :=
  let d := s.dispAt die
  (upto 32).findSome? fun i =>
    let core := 32 * die + (d.lastCore + 1 + i) % 32
    if !s.present core || tget false s.energy.gated die ||
        d.reserved.any (fun r => r.1 = core && r.2 ≠ b) then none
    else (s.fit core l).map fun w => (core, w)

/-! Dispatch (R38, R39, R99, R298). -/

/-- Bytes of a save record without the MXE state (R300). -/
def LbRec.saveSize (l : LbRec) : Nat :=
  83200 + l.strands * (l.vnames * if l.modeK then 1 else 2) * 512 + 4096 * l.spmUnits

/-- The roles of a tile task, in the order in which they take partitions. -/
def rolesOf (roles : BitVec 3) : List Role :=
  (if roles.getLsbD 0 then [.loader] else []) ++ (if roles.getLsbD 1 then [.computer] else []) ++
  (if roles.getLsbD 2 then [.storer] else [])

/-- The entry offset of a role. -/
def LbRec.entry (l : LbRec) : Role → Nat
  | .loader => l.entryLd
  | .computer => l.entryCp
  | .storer => l.entrySt

/-- A strand at its start (R39). Its spill memory is that of its partition (log entry 2). -/
def LbRec.strandOf (l : LbRec) (tt idx spmBase semBase : Nat) (r : Role) : Strand :=
  let regs : List (Nat × W64) :=
    [(1, l.coord 1 idx), (2, l.coord 2 idx), (3, l.coord 3 idx), (4, BitVec.ofNat 64 idx), (5, l.arg),
     (6, BitVec.ofNat 64 spmBase), (7, BitVec.ofNat 64 semBase)]
  { Strand.init with
    tt := tt, role := r, pc := l.codeBase + BitVec.ofNat 64 (l.entry r)
    g := regs.foldl (fun t x => tset 0 t x.1 x.2) [] }

/-- A core's windows granted: the semaphores at 0, and the scratchpad window zeroed where another context wrote it last
(R38). -/
def Core.grant (c : Core) (ctx unit units semBase semLen : Nat) : Core :=
  let c := (upto semLen).foldl (fun c k => c.modSync fun y => y.setSem (semNum semBase k) Sem.zero) c
  let foreign := (upto units).any fun u =>
    let o := tget 0 c.spmOwner (unit + u)
    o ≠ 0 && o ≠ ctx + 1
  if foreign then
    let out (a : Nat) : Bool := !(4096 * unit ≤ a && a < 4096 * (unit + units))
    { c with
      spm := tfilter (fun a _ => out a) c.spm
      spmTag := tfilter (fun a _ => out (64 * a)) c.spmTag
      spmOwner := tfilter (fun u _ => !(unit ≤ u && u < unit + units)) c.spmOwner }
  else c

/-- The tile start acquires over the range of each input declaration (R37, R99), as far as it can: one whose descriptor lies
on a page that waits for a free frame is taken up again before a strand issues (R87). A fault of reading a descriptor is
offered to the tile-task level (log entry 23). -/
def State.startAcquires (s : State) (core ctx tt idx : Nat) (l : LbRec) : List Decl → State
  | [] => (s.endFrameWait (.tile tt)).modTt tt fun t => { t with acquiring := [] }
  | d :: ds =>
    if (s.ttAt tt).all (·.failing) then s
    else if s.descHeld core ctx d 32 then s.modTt tt fun t => { t with acquiring := d :: ds }
    else match s.access (some core) ctx d.desc 32 .read false with
      | .trap c r s => ((s.containTt (s.faultOfTt tt none) c r).1).startAcquires core ctx tt idx l ds
      | .wait s =>
        s.frameWait (.tile tt) (dieOfCore core)
          (fun s => ((s.containTt (s.faultOfTt tt none) .commitFail (Rec.addr d.desc)).1).modTt tt fun t =>
            { t with acquiring := ds })
          (fun s => s.modTt tt fun t => { t with acquiring := d :: ds })
      | .ok ps s =>
        let (base, n) := tileRange (s.readParts ps).1 (l.key d idx)
        ((s.touchParts ctx ps).acquire core ctx .pkg (some (base, n))).startAcquires core ctx tt idx l ds

/-- A tile task goes on with the acquires of its start (R99). -/
def State.goOnAcquiring (s : State) (tt : Nat) : State :=
  match s.ttAt tt with
  | none => s
  | some t => match s.blockAt t.block with
    | some b => s.startAcquires t.core t.ctx tt t.idx b.lb t.acquiring
    | none => s.modTt tt fun t => { t with acquiring := [] }

/-- An iteration has been dispatched: it leaves the pool, the spill list and the lists of its block (R46, R278). -/
def State.leavePool (s : State) (b idx : Nat) : State :=
  let s := s.modWork fun w => { w with
    poolHeld := w.poolHeld.filter (· ≠ (b, idx)), refilled := w.refilled.filter (· ≠ (b, some idx)) }
  match s.blockAt b with
  | none => s
  | some x =>
    (s.setBlock b (some { x with
      ready := x.ready.filter fun h => h.1 ≠ idx, held := x.held.filter fun h => h.1 ≠ idx })).dropSpill x.ctx fun r =>
        r = .held b idx

/-- A strand leaves its partition, whose spill memory keeps what it holds (R17, R20). -/
def State.leavePartition (s : State) (n : Nat) : State :=
  match s.strandAt n with
  | none => s
  | some st => (s.setStrand n none).modCore (coreOfStrand n) fun c => { c with
      spills := tset [] c.spills (n % 8) st.spill, spillTags := tset [] c.spillTags (n % 8) st.spillTag }

/-- A strand starts in a partition: its spill memory is the partition's, as the strand before it left it (R17, R20; log
entry 2). -/
def State.enterPartition (s : State) (n : Nat) (st : Strand) : State :=
  let c := s.coreAt (coreOfStrand n)
  s.setStrand n (some { st with spill := tget [] c.spills (n % 8), spillTag := tget [] c.spillTags (n % 8) })

/-- An iteration dispatched on a core (R38, R39). -/
def State.dispatch (s : State) (die core b idx : Nat) (x : Block) (w : List Nat × Nat × Nat) : State :=
  let l := x.lb
  let n := s.work.nextTt
  let (parts, unit, semBase) := w
  let ns := parts.map fun p => 8 * core + p
  let t : TileTask :=
    { block := b, graph := some x.graph, idx := idx, ctx := x.ctx, core := core, strands := ns
      g1 := l.coord 1 idx, g2 := l.coord 2 idx, g3 := l.coord 3 idx, vnames := l.vnames, modeK := l.modeK, dead := l.poison
      spmBase := 4096 * unit, spmUnits := l.spmUnits, semBase := semBase, semLen := l.semWin, reserved := l.saveSize
      heapAt := (s.heapPlace x.ctx l.saveSize n).getD 0, wantsMxe := false, request := none, parking := false, cutting := false, acquiring := [], saving := false, killAfter := false, failing := false, retry := false
      resumes := 0 }
  let s := (s.setTt n (some t)).modWork fun w => { w with nextTt := n + 1 }
  let s := s.modCtx x.ctx fun c => { c with heapUsed := c.heapUsed + l.saveSize }
  let s := s.modCore core (·.grant x.ctx unit l.spmUnits semBase l.semWin)
  let s := (ns.zip (rolesOf l.roles)).foldl (fun s y =>
    s.enterPartition y.1 (l.strandOf n idx (4096 * unit) semBase y.2)) s
  let s := (s.leavePool b idx).modDisp die fun d =>
    { d with lastCore := core % 32, reserved := d.reserved.filter fun r => r.2 ≠ b }
  ((s.acquire core x.ctx .core none).startAcquires core x.ctx n idx l (l.decls.filter (!·.output))).trimSlots die

/-! Selection (R276). -/

/-- A context has a saved tile task that is due and has not resumed (R302). -/
def State.hasDue (s : State) (ctx : Nat) : Bool :=
  s.work.saved.any fun x => match x.2 with
    | some v => v.tt.ctx = ctx && v.due
    | none => false

/-- Cores on which tile tasks of a task run (R314). -/
def State.coresTaken (s : State) (g t : Nat) : Nat :=
  (s.work.tts.filterMap fun x => match x.2 with
    | some y => match s.blockAt y.block with
      | some b => if b.graph = g && b.task = t then some y.core else none
      | none => none
    | none => none).eraseDups.length

/-- The entry of the operating-point table in force for a task (R314). -/
def State.entryOf (s : State) (g t : Nat) : W32 :=
  match s.taskAt g t with
  | some x => (x.info.ops[x.entry]?).getD 0
  | none => 0

/-- A block in a slot is looked at by the selection (R274-R276). -/
def State.selectable (s : State) (b : Nat) (x : Block) : Bool := s.queueOpen x && !s.blockParked b && x.released

/-- A new iteration of a block may be dispatched: its context has no tile task that is due, and its task occupies fewer cores
than its entry allows (R302, R314). -/
def State.mayDispatch (s : State) (x : Block) : Bool :=
  !s.hasDue x.ctx && decide (s.coresTaken x.graph x.task < opTiles (s.entryOf x.graph x.task))

/-- Open blocks of a die in the order of selection: deadline, then launch sequence number (R276). -/
def State.openOrder (s : State) (die : Nat) : List Nat :=
  let key (b : Nat) : Nat × Nat × Nat := match s.blockAt b with
    | some x => (x.deadline, x.seq.getD 0, b)
    | none => (0, 0, 0)
  (s.dispAt die).slots.foldl (fun l b =>
    (l.filter fun c => keyLt (key c) (key b)) ++ b :: (l.filter fun c => !keyLt (key c) (key b))) []

/-- The present core with the most free partitions, the lowest on a tie (R53). -/
def State.roomiest (s : State) : List Nat → Option Nat
  | [] => none
  | c :: cs => match s.roomiest cs with
    | none => some c
    | some d => if (s.freeParts d).length ≤ (s.freeParts c).length then some c else some d

/-- A core reserved for a block that fits none (R53). A reservation of a present core stands until its iteration fits, unless
a block before its own in the order takes it over. -/
def State.reserveCore (s : State) (die b : Nat) : State :=
  let first := b :: ((s.openOrder die).takeWhile (· ≠ b))
  if (s.dispAt die).reserved.any fun r => first.contains r.2 && s.present r.1 then s
  else match s.roomiest (s.coresOf die) with
    | some c => s.modDisp die fun d => { d with reserved := some (c, b) }
    | none => s

/-- What selecting one block does. -/
inductive Choice where
  /-- something was dispatched, held or faulted: the selection ends -/
  | done (s : State)
  /-- no core fits: a core is reserved and the selection ends, or goes on where the reservation stands -/
  | blocked (s : State)
  /-- the block has nothing to select now -/
  | skip

/-- An iteration of a block dispatched on the next fitting core (R43, R53, R298), where its context and its task may have one
dispatched. -/
def State.tryDispatch (s : State) (die b idx : Nat) (x : Block) (after : State → State) : Choice :=
  if !s.mayDispatch x || !s.heapGrants x.ctx x.lb.saveSize x.lb.saveSize s.work.nextTt then .skip
  else match s.nextFit die b x.lb with
    | some (core, w) => .done (after (s.dispatch die core b idx x w))
    | none => .blocked (s.reserveCore die b)

/-- The cursor of a block moved past an iteration. -/
def State.stepCursor (s : State) (die b : Nat) : State :=
  s.modBlock b fun x =>
    let r := tget (0, 0) x.ranges die
    { x with ranges := if r.1 + 1 < r.2 then tset (0, 0) x.ranges die (r.1 + 1, r.2) else tdel x.ranges die }

/-- The declarations of an iteration that fault as it is evaluated, one after another (R107, R323, R349). -/
def State.walkFaults (s : State) (b idx : Nat) : State :=
  ((s.declNums b).filter fun di => match s.declState b idx di with
    | .stale => true
    | .shed => true
    | _ => false).foldl (fun s di =>
      if s.pendingIt b idx then s.faultIteration b idx di (if s.declState b idx di = .shed then .shed else .staleTag) else s) s

/-- The iteration at the cursor of a block walked (R43, R46, R107): dispatched when its inputs are published, and held
otherwise. Where no pool entry and no spill record is free for it the walk of the block pauses. -/
def State.walkStep (s : State) (die b : Nat) (x : Block) : Choice :=
  let idx := (tget (0, 0) x.ranges die).1
  let s := s.openAll b idx
  let holds := (s.declNums b).any fun di => s.declState b idx di = .held
  let faults := (s.declFault b idx).isSome
  if !holds && !faults then s.tryDispatch die b idx x fun s => (s.stepCursor die b).trimSlots die
  else
    let spill := s.spills x.ctx
    let room := ((s.ctxAt x.ctx).map (·.spillFree)).getD 0
    if holds && spill && room = 0 then .skip
    else
      let s := (s.stepCursor die b).modBlock b (·.hold idx die)
      let s := if !holds then s
        else if spill then s.addSpill x.ctx (.held b idx)
        else s.modWork fun w => { w with poolHeld := w.poolHeld ++ [(b, idx)] }
      .done (((s.holdAll b idx).walkFaults b idx).trimSlots die)

/-- The lowest ready iteration of a block on a die. -/
def Block.firstReady (x : Block) (die : Nat) : Option Nat :=
  (x.ready.filter fun h => h.2 = die).foldl (fun m h => match m with
    | some i => some (min i h.1)
    | none => some h.1) none

/-- One block selected (R276). What the TRT returns or is asked for waits for the module to the control die (R333). -/
def State.selectBlock (s : State) (die b : Nat) : Choice :=
  match s.blockAt b with
  | none => .skip
  | some x =>
    if !s.selectable b x then .skip
    else match x.firstReady die with
      | some idx => if s.reaches die cd then s.tryDispatch die b idx x id else .skip
      | none =>
        let r := tget (0, 0) x.ranges die
        if r.1 < r.2 && (s.reaches die cd || x.lb.decls.all (·.output)) then s.walkStep die b x else .skip

/-- The selection over the open blocks in order (R276). A block that holds the die's reservation already may be passed, as
the turn picks: a later selection may dispatch another block. -/
def State.selectFrom (s : State) (die : Nat) : List Nat → State
  | [] => s
  | b :: bs => match s.selectBlock die b with
    | .done s => s
    | .skip => s.selectFrom die bs
    | .blocked s' =>
      if (s.dispAt die).reserved.any (fun r => r.2 = b) && s.pick % 2 = 1 then s.selectFrom die bs else s'

/-- ITERATION_SELECT: a die dispatcher dispatches, holds or walks one iteration (R43, R276). -/
def execIterationSelect (die : Nat) (s : State) : Out :=
  .next (if 7 < die then s else
    let s := s.trimSlots die
    s.selectFrom die (s.openOrder die))

/-! Stealing (R44, R277). -/

/-- A die may ask others for work (R44, R277, R324). DESIGN CHOICE (log entry 97): 'holds no ready iteration' is read as holding
none that the TRT has returned; a range not yet walked does not count, whatever its inputs. -/
def State.maySteal (s : State) (die : Nat) : Bool :=
  let d := s.dispAt die
  die < 8 && s.dieUp die && d.outstanding.isNone && d.waitUntil = 0 && d.slots.length < Config.dieSlots &&
  !(s.work.blocks.any fun x => match x.2 with
    | some b => b.ready.any fun h => h.2 = die
    | none => false) &&
  (s.coresOf die).any fun c => s.freeParts c ≠ []

/-- The dies a thief asks after the ones it has asked, in order. -/
def State.victims (s : State) (die asked : Nat) : List Nat :=
  ((upto 7).drop asked).filter fun i => s.coresOf ((die + 1 + i) % 8) ≠ []

/-- STEAL_REQUEST: a die with no ready iteration and a free partition asks the next die for part of a range (R44), once traffic
crosses to it (R333). -/
def execStealRequest (die : Nat) (s : State) : Out :=
  .next (
    if !s.maySteal die then s
    else match s.victims die (s.dispAt die).asked with
      | i :: _ =>
        let v := (die + 1 + i) % 8
        if !s.reaches die v then s
        else (s.modDisp die fun d => { d with asked := i + 1, outstanding := some v }).modDisp v fun d =>
          { d with requests := d.requests ++ [die] }
      | [] => s.modDisp die fun d => { d with asked := 0, waitUntil := s.pt die + 2048 })

/-- The block a victim shares with a thief (R44, R277): the first in its order that came through the pool, has two or more
undispatched iterations, and may run on the thief's die. A thief with a range of its own of a block takes no other. -/
def State.shareBlock (s : State) (victim thief : Nat) : Option (Nat × Block) :=
  (s.openOrder victim).findSome? fun b => (s.blockAt b).bind fun x =>
    let r := tget (0, 0) x.ranges victim
    let own := tget (0, 0) x.ranges thief
    if x.via = .pool && x.released && !s.blockParked b && r.1 + 2 ≤ r.2 && (maskDies x.lb.dieMask).contains thief &&
        !(own.1 < own.2) then some (b, x)
    else none

/-- A thief is refused: after the last die it waits 2,048 ns (R44). -/
def State.refuse (s : State) (thief : Nat) : State :=
  let s := s.modDisp thief fun d => { d with outstanding := none }
  if s.victims thief (s.dispAt thief).asked = [] then
    let t := s.pt thief + 2048
    s.modDisp thief fun d => { d with asked := 0, waitUntil := t }
  else s

/-- The victim keeps the first half of a range, rounded up, and the thief takes the rest (R44). -/
def State.splitRange (s : State) (victim thief b : Nat) (x : Block) : State :=
  let r := tget (0, 0) x.ranges victim
  let mid := r.1 + (r.2 - r.1 + 1) / 2
  let s := s.setBlock b (some { x with
    ranges := tset (0, 0) (tset (0, 0) x.ranges victim (r.1, mid)) thief (mid, r.2) })
  s.modDisp thief fun d => { d with
    outstanding := none, asked := 0, slots := if d.slots.contains b then d.slots else d.slots ++ [b] }

/-- STEAL_REPLY: a die answers the first steal request that it holds (R44, R277), once traffic crosses to the thief (R333). A thief
that has no core any more, as when it has been isolated, gets nothing (R334). -/
def execStealReply (die : Nat) (s : State) : Out :=
  .next (
    match (s.dispAt die).requests with
    | [] => s
    | thief :: rest =>
      if !s.reaches die thief then s
      else
      let s := s.modDisp die fun d => { d with requests := rest }
      if s.coresOf thief = [] then s.modDisp thief fun d => { d with outstanding := none, asked := 0 }
      else match s.shareBlock die thief with
      | some (b, x) => s.splitRange die thief b x
      | none => s.refuse thief)

/-- STEAL_BACKOFF_EXPIRY: the wait of a refused thief is over (R44). -/
def execStealBackoffExpiry (die : Nat) (s : State) : Out :=
  .next (
    let d := s.dispAt die
    if d.waitUntil ≠ 0 && d.waitUntil ≤ s.pt die then s.modDisp die fun d => { d with waitUntil := 0 } else s)

end Sys2Proof.Machine
end

