-- ==== Sys2Proof/Machine/Sched.lean ====
section
/-! DEFINITION. Machine/Sched.lean: submission and acceptance of graphs, admission (R269-R271), the ends of tile tasks, tasks
and graphs (R32, R45, R269, R272), and deadlocked tile tasks (R295). -/
namespace Sys2Proof.Machine

/-! Submission (R343). -/

/-- A count of 16 bits, saturating (R343). -/
def sat16 (n : Nat) : Nat := if n < 65535 then n + 1 else 65535

/-- The header pointer that a SUBMIT names (R343): the space bit stands at bit 56. -/
def submitHeader (v : W64) : W64 :=
  BitVec.ofNat 64 (fieldOf v 6 50 * 2 ^ 6 + fieldOf v 56 1 * 2 ^ 63)

/-- A SUBMIT is rejected (R343). -/
def State.submitBad (s : State) (v : W64) : Bool :=
  s.host.recovery || fieldOf v 57 7 ≠ 0 ||
  match s.ctxAt (fieldOf v 0 6) with
  | none => true
  | some c => c.killing || (fieldOf v 56 1 = 1 && !c.privileged)

/-- A write of SUBMIT (R343): rejected, dropped for want of a place, or entered in the submit queue. -/
def State.submitWrite (s : State) (v : W64) : State :=
  if s.submitBad v then s.modHost fun h => { h with rejected := sat16 h.rejected }
  else if 64 ≤ s.host.submits.length then s.modHost fun h => { h with dropped := sat16 h.dropped }
  else s.modHost fun h => { h with submits := h.submits ++ [v], submitReg := v }

/-- SUBMIT: the host writes the submit register (R31, R343). -/
def execSubmit (v : W64) (s : State) : Out := .next (s.submitWrite v)

/-- GRAPH_ACCEPT: the control die accepts the first submission, when fewer than 1,024 graphs are in flight and no LAUNCH
came before it; host writes that waited are performed first (R33, R269, R343). -/
def execGraphAccept (s : State) : Out :=
  .next (
    let s := if s.host.writes = [] then s else s.hostWrites
    match s.host.submits with
    | [] => s
    | v :: rest =>
      if Config.graphDepth ≤ s.inFlight || s.host.writes ≠ [] || s.work.launched.any fun x => x.2 = 0 then s
      else
        let s := (s.modHost fun h => { h with submits := rest }).modWork fun w =>
          { w with launched := w.launched.map fun x => (x.1, x.2 - 1) }
        let stays (s : State) : State := (s.modHost fun h => { h with submits := v :: h.submits }).modWork fun w =>
          { w with launched := w.launched.map fun x => (x.1, x.2 + 1) }
        match s.ctxAt (fieldOf v 0 6) with
        | some c => if c.killing then s else s.acceptGraph (fieldOf v 0 6) (submitHeader v) stays
        | none => s)

/-! Admission (R264, R270, R271). -/

/-- The entries that a task may be admitted at: one admitted before keeps its format for the rest of its life (R314). -/
def Task.mayEnter (x : Task) (i : Nat) : Bool :=
  !x.begun || opFormat ((x.info.ops[i]?).getD 0) = opFormat ((x.info.ops[x.entry]?).getD 0)

/-- An estimate lies within the headroom (R271). -/
def State.affords (s : State) (g t i : Nat) : Bool := decide ((s.est g t i : Int) ≤ s.energy.headroom)

/-- The last entry of a task that has the format of entry i and fits (R271). -/
def State.lastFitting (s : State) (g t : Nat) (x : Task) (i : Nat) : Nat :=
  (upto x.info.ops.length).foldl (fun m j =>
    if opFormat ((x.info.ops[j]?).getD 0) = opFormat ((x.info.ops[i]?).getD 0) && s.affords g t j then j else m) i

/-- The entry at which a task is admitted (R271). -/
def State.chooseEntry (s : State) (g t : Nat) (x : Task) : Option Nat :=
  let firm := decide (x.info.cls = 0)
  let range := if firm then x.info.floor + 1 else x.info.ops.length
  let may := (upto (min range x.info.ops.length)).filter x.mayEnter
  match may.find? (s.affords g t) with
  | some i => some (if !firm && 1 ≤ s.energy.grade then s.lastFitting g t x i else i)
  | none => if firm then some (if x.mayEnter x.info.floor then x.info.floor else may.getLastD x.info.floor) else none

/-- A task admitted at an entry on a conductor core: its overlay starts, unless its trailer is malformed (R264, R271). -/
def State.admitTo (s : State) (k g t e : Nat) : State :=
  let w := s.est g t e
  let s := (s.modTask g t fun x => { x with st := .running, entry := e, begun := true }).unlist g t
  let s := s.modEnergy fun y => { y with headroom := y.headroom - w }
  match s.taskAt g t with
  | none => s
  | some x =>
    let at_ := x.info.ovOff + x.info.ovLen - 64
    match trailerOf (s.overlayBytes at_ 64) with
    | some m => s.beginOverlay k g t ((s.condAt k).run + 1) m
    | none =>
      let ctx := ((s.graphAt g).map (·.ctx)).getD 64
      let y := s.containTask { noUnit ctx with task := some (g, t) } .recordFormat (Rec.addr (BitVec.ofNat 64 at_))
      if y.2 then y.1.modTask g t fun x => { x with overlayDone := true } else y.1

/-- The admission step over the ready list (R271): a task that does not fit holds back every later task that is not firm. -/
def State.admitFrom (s : State) (k : Nat) : List (Nat × Nat) → Bool → State
  | [], _ => s
  | (g, t) :: rest, blocked =>
    match s.graphAt g, s.taskAt g t with
    | some y, some x =>
      if ((s.ctxAt y.ctx).map (·.parked)).getD false then s.admitFrom k rest blocked
      else if 2 ≤ x.info.cls && 2 ≤ s.energy.grade then s.admitFrom k rest blocked
      else if x.info.cls ≠ 0 && blocked then s.admitFrom k rest blocked
      else match s.chooseEntry g t x with
        | none => s.admitFrom k rest true
        | some e => s.admitTo k g t e
    | _, _ => s.admitFrom k rest blocked

/-- ADMIT_STEP: with a conductor core free, one ready task is admitted (R271); none before the first re-plan (R318). -/
def execAdmitStep (s : State) : Out :=
  .next (
    if !s.energy.started then s
    else match (upto 16).find? fun k => (s.condAt k).task.isNone with
      | none => s
      | some k => s.admitFrom k s.work.readyList false)

/-! Ends of tasks and graphs (R32, R269, R272). -/

/-- Work of a task is still in the machine: a launch block, a control block, or a successor in a spill list (R32). -/
def State.taskBusy (s : State) (g t : Nat) : Bool :=
  (s.work.blocks.any fun x => match x.2 with
    | some b => b.graph = g && b.task = t
    | none => false) ||
  (s.work.streams.any fun x => x.2.items.any fun c => c.graph = g && c.task = t) ||
  s.ctxs.any fun x => match x.2 with
    | some c => c.spill.any fun
        | .succ _ g' t' _ => g' = g && t' = t
        | .held .. => false
    | none => false

/-- A task that completes after its deadline is recorded (R272). -/
def State.missTask (s : State) (g t : Nat) : State :=
  let dl := s.taskDeadline g t
  let pt := s.pt cd
  if dl < pt then
    (s.modTime fun x => { x with log := x.log ++ [.missTask g t (pt - dl)] }).modCtx
      (((s.graphAt g).map (·.ctx)).getD 64) fun c => { c with misses := c.misses + 1 }
  else s

/-- TASK_COMPLETE: a task whose overlay and launch blocks have ended completes, and its successors' counts fall (R32, R272,
R318). -/
def execTaskComplete (graph task : Nat) (s : State) : Out :=
  .next (
    match s.taskAt graph task with
    | none => s
    | some x =>
      if x.st = .running && x.overlayDone && !s.taskBusy graph task then (s.missTask graph task).taskDone graph task
      else s)

/-- GRAPH_COMPLETE: with every task complete the end word is written, and the graph is no longer in flight (R32, R269). -/
def execGraphComplete (graph : Nat) (s : State) : Out :=
  .next (
    match s.graphAt graph with
    | none => s
    | some x =>
      match x.ended with
      | some (abnormal, pt) => s.endGraph graph abnormal pt
      | none => if x.tasks ≠ [] && x.tasks.all fun t => t.st = .done then s.endGraph graph false (s.pt cd) else s)

/-! Ends of tile tasks (R45, R46). -/

/-- A strand owes nothing: it has ended, its stores are performed or delivered, and nothing that it issued is left (R45, R62). -/
def Strand.settled (st : Strand) : Bool :=
  st.ended && st.sq = [] && st.fly = [] && !st.lq.any LoadOp.runsOn

/-- Engine commands of a tile task that have not completed. -/
def Core.owesTt (c : Core) (tt : Nat) : Bool :=
  (c.queues.any fun x => x.2.any fun y => y.tt = tt) || c.arriving.any fun y => y.tt = tt && !y.discard

/-- A tile task may end (R45). -/
def State.ttOver (s : State) (tt : Nat) (t : TileTask) : Bool :=
  !t.saving && (t.strands.all fun n => match s.strandAt n with
    | some st => st.settled
    | none => true) && !(s.coreAt t.core).owesTt tt

/-- The windows and partitions of a tile task are freed, and its ownership of the MXE state (R38, R239). DEDUCED (log entry 56):
at the end of the tile task (R45), when the commands that run on after its last EXIT (R184) have completed. -/
def State.freeWindows (s : State) (tt : Nat) (t : TileTask) : State :=
  let s := t.strands.foldl (fun s n => s.leavePartition n) s
  (s.modCore t.core fun c =>
    let c := t.strands.foldl (fun c n => c.modSync (·.leave (.strand n))) c
    { c with mxeOwner := if c.mxeOwner = some tt then none else c.mxeOwner }).setTt tt none

/-- An iteration goes back to its die, ready (R43, R52). -/
def State.readyAgain (s : State) (b idx die : Nat) : State :=
  let s := s.modBlock b fun x => { x with restarted := x.restarted ++ [idx], ready := x.ready ++ [(idx, die)] }
  if (s.blockAt b).isSome then s.modDisp die fun d =>
    if d.slots.contains b then d else { d with returned := d.returned ++ [(b, idx)] }
  else s

/-- The end of a tile task: its reservation is released, its successors enter the pool in the order named, and its iteration
counts as ended, or starts again under RETRY (R45, R46, R52, R298). -/
def State.endTt (s : State) (tt : Nat) (t : TileTask) : State :=
  let succ := (t.strands.map fun n => ((s.strandAt n).map (·.successors)).getD []).flatten
  let s := (s.freeWindows tt t).modCtx t.ctx fun c => { c with heapUsed := c.heapUsed - t.reserved }
  let s := if t.failing && t.retry then s.readyAgain t.block t.idx (dieOfCore t.core)
    else match s.blockAt t.block with
      | some b => (succ.foldl (fun s va => s.enterSuccessor t.ctx va b.graph b.task t.block) s).iterationDone t.block
      | none => s
  s.reapCtx t.ctx

/-- TILE_TASK_END: every strand has ended and every engine command has completed; the tile task's stores are released
(R45, R99). -/
def execTileTaskEnd (tt : Nat) (s : State) : Out :=
  .next (
    match s.ttAt tt with
    | none => s
    | some t => if s.ttOver tt t then s.endTt tt t else s)

/-! Deadlock (R295). -/

/-- A strand waits on an unpoisoned semaphore, unserved. -/
def Core.strandWaits (c : Core) (n : Nat) : Bool :=
  c.sync.waiters.any fun x => x.2.any fun w =>
    w.1 = .strand n && !(c.sem x.1).poisoned && !c.sync.ready x.1 w.2 (.strand n)

/-- Every uncompleted command of a tile task in a queue waits in its wait clause at the head, or stands behind such a
one. -/
def Core.queueStuck (c : Core) (tt q : Nat) : Bool :=
  if (c.queue q).any fun y => y.tt = tt then
    !((c.queue q).any fun y => y.tt = tt && y.started) &&
    match c.head q with
    | some x => x.tt = tt && c.clause q x = .no
    | none => false
  else true

/-- A tile task is deadlocked (R295). -/
def State.deadlocked (s : State) (tt : Nat) (t : TileTask) : Bool :=
  let c := s.coreAt t.core
  let live := t.strands.filter fun n => ((s.strandAt n).map (·.ended)) = some false
  !t.failing && live.all c.strandWaits && (upto 7).all (c.queueStuck tt) && !(c.arriving.any fun y => y.tt = tt) &&
  (live ≠ [] || c.queues.any fun x => x.2.any fun y => y.tt = tt)

/-- DEADLOCK_AWAIT: every waiter of a deadlocked tile task raises the fault (R295): a strand at the word at which it waits,
an engine command outside the strand. -/
def execDeadlockAwait (tt : Nat) (s : State) : Out :=
  .next (
    match s.ttAt tt with
    | none => s
    | some t =>
      if !s.deadlocked tt t then s
      else
        let heads := (upto 7).filterMap fun q => match (s.coreAt t.core).head q with
          | some x => if x.tt = tt then some (q, x) else none
          | none => none
        let s := t.strands.foldl (fun s n =>
          s.modStrand n fun st => if st.ended then st else { st with deadlock := true }) s
        heads.foldl (fun s h =>
          if ((s.coreAt t.core).queue h.1).any fun y => y.id = h.2.id then
            s.failCmd t.core h.1 h.2 .deadlockAwait Rec.zero
          else s) s)

end Sys2Proof.Machine
end

