-- ==== Sys2Proof/Machine/Links.lean ====
section
/-! DEFINITION. Machine/Links.lean: the UCIe modules: flits, retries, pause, training and bypass (R15, R328-R334). -/
namespace Sys2Proof.Machine

/-! Flits (R329). -/

/-- One direction of a module. -/
def Link.dir (l : Link) (d : Nat) : Dir := if d = 0 then l.fwd else l.bwd

/-- One direction of a module changed. -/
def Link.modDir (l : Link) (d : Nat) (f : Dir → Dir) : Link :=
  if d = 0 then { l with fwd := f l.fwd } else { l with bwd := f l.bwd }

/-- The sequence number after another, in 12 bits. -/
def seqNext (n : Nat) : Nat := (n + 1) % 4096

/-- The flit that a sender sends with a number on a channel: the next one to resend, or a new one where the channel is not
stopped and the replay buffer has room. -/
def Dir.send (d : Dir) (seq vc : Nat) : Option Dir :=
  match d.resend with
  | some r =>
    if r = seq && d.replay.contains (seq, vc) then
      some { d with resend := if seqNext r = d.next then none else some (seqNext r) }
    else none
  | none =>
    if seq = d.next && !tget false d.stop vc && d.replay.length < 128 then
      some { d with next := seqNext d.next, replay := d.replay ++ [(seq, vc)], rerouted := d.rerouted.erase vc }
    else none

/-- The stop bits that a receiver sets: fewer than 32 free buffers of a channel. -/
def stopBits (free : List Nat) : Tab Bool :=
  (upto 5).foldl (fun t v => tset false t v ((free[v]?).any fun n => n < 32)) []

/-- A flit of a direction may cross a module: the module is up, or a pause has been asked for and this is the flit that was under
way (R330, R333). -/
def State.flitMay (s : State) (module dir : Nat) : Bool :=
  let l := s.linkAt module
  s.linkUp module || (l.state = 0 && l.pausing && (l.dir dir).current)

/-- FLIT_RECEIVE: the flit that one direction of a module sends next arrives, whole or with a CRC error. In sequence it is
delivered; otherwise it is discarded, and a NAK names the first one that is lacking. Where the number is that of no flit to come,
only the receiver's stop bits arrive: they are set while few buffers are free, and clear as the buffers drain (R329). DESIGN CHOICE
(log entry 106): the row of the table that brings the stop bits. -/
def execFlitReceive (module dir seq vc : Nat) (crcOk : Bool) (free : List Nat) (s : State) : Out :=
  .next (
    if 33 < module || 1 < dir || 4 < vc || !s.flitMay module dir then s
    else match ((s.linkAt module).dir dir).send seq vc with
      | none => s.modLink module fun l => l.modDir dir fun d => { d with stop := stopBits free }
      | some d =>
        let d := if crcOk && seq = d.expect then { d with expect := seqNext seq } else d
        let d := { d with stop := stopBits free, current := false }
        s.modLink module fun l => l.modDir dir fun _ => d)

/-- One retry counted, and the threshold event (R330, R331). -/
def State.countRetry (s : State) (module : Nat) : State :=
  let l := s.linkAt module
  let win := min (l.retryWin + 1) (2 ^ 32 - 1)
  let hit := l.thresh ≠ 0 && l.retryWin < win && win = l.thresh && !l.svc
  let s := s.modLink module fun l => { l with
    retryWin := win, retryTot := min (l.retryTot + 1) (2 ^ 32 - 1), svc := l.svc || hit }
  if hit then s.mEvent Cause.linkRetryThreshold.code module else s

/-- NAK_RECEIVE: the sender resends from the flit that the receiver lacks (R329, R331). -/
def execNakReceive (module dir seq : Nat) (s : State) : Out :=
  .next (
    let d := (s.linkAt module).dir dir
    if 33 < module || 1 < dir || !s.linkUp module || seq ≠ d.expect || !(d.replay.any fun x => x.1 = seq) then s
    else (s.modLink module fun l => l.modDir dir fun d => { d with resend := some seq }).countRetry module)

/-- The flits left in a replay buffer after those up to a number. -/
def afterSeq (seq : Nat) : List (Nat × Nat) → List (Nat × Nat)
  | [] => []
  | x :: xs => if x.1 = seq then xs else afterSeq seq xs

/-- ACK_RECEIVE: flits up to the one named, which has been delivered, leave the replay buffer (R329). -/
def execAckReceive (module dir seq : Nat) (s : State) : Out :=
  .next (
    let d := (s.linkAt module).dir dir
    let ahead := (d.expect + 4096 - seq) % 4096
    if 33 < module || 1 < dir || !s.linkUp module || !(d.replay.any fun x => x.1 = seq) || ahead = 0 || 128 < ahead then s
    else
      let left := afterSeq seq d.replay
      let r := d.resend.filter fun r => left.any fun x => x.1 = r
      let r := if d.resend.isSome && r.isNone then (left.head?).map (·.1) else r
      s.modLink module fun l => l.modDir dir fun d => { d with replay := left, resend := r })

/-! Registers (R330). -/

/-- LINK_WINDOW_START: a window of a module starts on a multiple of its length of PT, the first one after the write of the length
(R330). -/
def execLinkWindowStart (module : Nat) (s : State) : Out :=
  .next (
    let w := (s.linkAt module).window
    let now := s.pt cd
    if module ≤ 33 && w ≠ 0 && now % w = 0 && (s.linkAt module).winAt < now then
      s.modLink module fun l => { l with retryWin := 0, winAt := now }
    else s)

/-- The spare lanes that a module uses (R330, R332). -/
def Link.spares (l : Link) : Nat := l.uses.length

/-- Both senders of a module resend from their oldest unacknowledged flits (R333). -/
def Link.resume (l : Link) : Link :=
  let f (d : Dir) : Dir := { d with resend := (d.replay.head?).map (·.1) }
  { l with fwd := f l.fwd, bwd := f l.bwd }

/-- LNKCTL.pause written (R330, R333): a pause begins; or it is cleared, and a module that is then up resends. -/
def Link.setPause (l : Link) (pause : Bool) : Link :=
  if pause then
    if l.pause then l
    else
      let on := decide (l.state = 0)
      { l with pause := true, pausing := on, fwd := { l.fwd with current := on }, bwd := { l.bwd with current := on } }
  else
    let back := l.state = 1 || l.state = 0 && l.pause
    let l := { l with pause := false, pausing := false }
    if back then ({ l with state := 0 }).resume else l

/-- LNKCTL_PAUSE (R330, R333). -/
def execLnkctlPause (module : Nat) (pause : Bool) (s : State) : Out :=
  .next (if module ≤ 33 then s.modLink module (·.setPause pause) else s)

/-- LINK_PAUSE_COMPLETE: both senders have finished their current flits (R330). -/
def execLinkPauseComplete (module : Nat) (s : State) : Out :=
  .next (if module ≤ 33 && (s.linkAt module).pausing then
      s.modLink module fun l => { l with pausing := false, state := if l.state = 0 then 1 else l.state }
    else s)

/-- A retraining begins: the state is 2 while it lasts (R330, R332). -/
def Link.train (l : Link) : Link := { l with state := 2, pausing := false }

/-- LNKCTL_TRAIN (R330, R332). -/
def execLnkctlTrain (module : Nat) (s : State) : Out :=
  .next (if module ≤ 33 then s.modLink module Link.train else s)

/-- The window length written at a PT (R330). -/
def Link.setWindow (l : Link) (len now : Nat) : Link := { l with window := len % 2 ^ 32, winAt := max l.winAt now }

/-- LNKCTL_WINDOW: the window length is written; a window under way goes on to the next multiple (R330). -/
def execLnkctlWindow (module len : Nat) (s : State) : Out :=
  .next (if module ≤ 33 then s.modLink module (·.setWindow len (s.pt cd)) else s)

/-- LNKSTAT_SVC_CLEAR (R330). -/
def execLnkstatSvcClear (module : Nat) (s : State) : Out :=
  .next (if module ≤ 33 then s.modLink module fun l => { l with svc := false } else s)

/-- A write of LNKCTL whole, by number 0xE40 + 4 L (R330). -/
def Link.writeCtl (l : Link) (v : W64) (now : Nat) : Link :=
  let l := { (l.setPause (v.getLsbD 0)).setWindow (fieldOf v 16 32) now with thresh := fieldOf v 8 8 }
  if v.getLsbD 1 then l.train else l

/-- A management register of a module as it reads: LNKCTL, LNKSTAT, LNKRETRY, LNKLANE (R330). -/
def Link.reg (l : Link) (i : Nat) : W64 :=
  match i with
  | 0 => BitVec.ofNat 64 ((if l.pause then 1 else 0) + l.thresh * 2 ^ 8 + l.window * 2 ^ 16)
  | 1 => BitVec.ofNat 64 (l.state + (if l.x32 then 8 else 0) + (if l.svc then 16 else 0) + l.spares * 2 ^ 5 +
      max l.fwd.replay.length l.bwd.replay.length * 2 ^ 8)
  | 2 => BitVec.ofNat 64 (l.retryWin + l.retryTot * 2 ^ 32)
  | _ => l.failed

/-! Training (R332) and bypass (R334). -/

/-- The failed lanes of a range, in ascending order. -/
def failsIn (failed : W64) (lo n : Nat) : List Nat := ((upto n).map (lo + ·)).filter fun i => failed.getLsbD i

/-- The lane map that a training forms: at x64 when every failed lane has a working spare, else on the half with fewer failures,
lanes 0 to 31 on a tie; none where neither can be formed (R332). -/
def laneMap (failed : W64) (spareFailed : BitVec 4) : Option Config.LaneMap :=
  let spares := (upto 4).filter fun i => !spareFailed.getLsbD i
  let all := failsIn failed 0 64
  let high := decide ((failsIn failed 32 32).length < (failsIn failed 0 32).length)
  let half := failsIn failed (if high then 32 else 0) 32
  if all.length ≤ spares.length then some ⟨false, false, all.zip spares⟩
  else if half.length ≤ spares.length then some ⟨true, high, half.zip spares⟩ else none

/-- A module runs on a lane map. -/
def Link.withMap (l : Link) (x : Config.LaneMap) : Link := { l with x32 := x.x32, high := x.high, uses := x.uses }

/-- The modules and directions on which the flits of a direction of a module that is down may be resent: the first that is not
down carries them (R334). -/
def bypassesOf (module dir : Nat) : List (Nat × Nat) :=
  if module < 16 then [(if module % 2 = 0 then module + 1 else module - 1, dir)]
  else if module < 24 then
    let d := module - 16
    [if dir = 0 then (16 + (d + 7) % 8, 1) else (16 + (d + 1) % 8, 0)]
  else if module < 32 then
    let d := module - 24
    if dir = 0 then [(16 + d, 0), (16 + (d + 7) % 8, 1)] else (upto 7).map fun i => (24 + (d + 1 + i) % 8, 1)
  else [(if module = 32 then 33 else 32, dir)]

/-- The flits left in the replay buffers of a module that went down go to the new route, ahead of later traffic; where none is
up they wait (R334). -/
def State.bypass (s : State) (module : Nat) : State :=
  (upto 2).foldl (fun s dir =>
    let vcs := ((s.linkAt module).dir dir).replay.map (·.2) ++ ((s.linkAt module).dir dir).rerouted
    match (bypassesOf module dir).find? fun x => !s.linkDown x.1 with
    | none => s
    | some (m, d) =>
      let s := s.modLink module fun l => l.modDir dir fun x => { x with replay := [], resend := none, rerouted := [] }
      s.modLink m fun l => l.modDir d fun x => { x with rerouted := x.rerouted ++ vcs }) s

/-- A context has work on a die (R334). A block that was placed there and that the die has not taken is none; its range waits for the
die (log entry 125). -/
def State.worksOn (s : State) (ctx die : Nat) : Bool :=
  (s.work.tts.any fun x => match x.2 with
    | some t => t.ctx = ctx && dieOfCore t.core = die
    | none => false) ||
  (s.work.saved.any fun x => match x.2 with
    | some v => v.tt.ctx = ctx && dieOfCore v.tt.core = die
    | none => false) ||
  (s.work.blocks.any fun x => match x.2 with
    | some b => b.ctx = ctx && ((b.hasWork die && !b.untaken.contains die) || (s.dispAt die).slots.contains x.1 ||
        b.held.any fun h => h.2 = die)
    | none => false) ||
  s.work.streams.any fun x => x.1 / 64 = die && x.2.items.any fun c => c.ctx = ctx && c.queued

/-- The CPRES bits of a die clear (R19, R334). -/
def State.dropDie (s : State) (die : Nat) : State :=
  { s with cpres := tmod 0 s.cpres (die / 2) fun w =>
      w &&& ~~~(BitVec.ofNat 64 ((2 ^ 32 - 1) * 2 ^ (32 * (die % 2)))) }

/-- A context killed because a die it works on is isolated: the fault log and the event report it (R334). -/
def State.killIsolated (s : State) (ctx die : Nat) : State :=
  let pol := ((s.ctxAt ctx).map (·.policy)).getD .killSelf
  (s.logFault (noUnit ctx) .dieIsolated Rec.zero .context pol).killCtxWith ctx Cause.dieIsolated.code die

/-- A die has lost both modules to the control die (R334). -/
def State.isolate (s : State) (die : Nat) : State :=
  let ctxs := (upto 64).filter fun c => (s.ctxAt c).isSome && s.worksOn c die
  ctxs.foldl (fun s c => s.killIsolated c die) (s.dropDie die)

/-- LINK_TRAIN_COMPLETE: training ends with a lane map at x64 or x32, or with the module down (R332, R334). -/
def execLinkTrainComplete (module : Nat) (failed : W64) (spareFailed : BitVec 4) (s : State) : Out :=
  .next (
    if 33 < module || (s.linkAt module).state ≠ 2 then s
    else match laneMap failed spareFailed with
      | some x => s.modLink module fun l =>
          ({ l.withMap x with failed := failed, state := if l.pause then 1 else 0 }).resume
      | none =>
        let s := (s.modLink module fun l => { l with failed := failed, state := 3 }).bypass module
        if module < 16 && s.linkDown (2 * (module / 2)) && s.linkDown (2 * (module / 2) + 1) then s.isolate (module / 2)
        else s)

end Sys2Proof.Machine
end

