-- ==== Sys2Proof/Machine/Group.lean ====
section
/-! DEFINITION. Machine/Group.lean: which words of a strand form an issue group (R148, R154, R158), the word that stands at an
address (R142, R181), and the semaphore that keeps the next group from issuing (R280). -/
namespace Sys2Proof.Machine

/-- The instruction that a word's units stand for: one that the opcode map refuses raises its trap at issue (R137). -/
def wordOf (us : List W32) : Instr :=
  match decodeUnits us with
  | .ok i => i
  | .error .illegal => .illegalOp false us
  | .error .reserved => .illegalOp true us

/-- The word at an address as it issues in the strand's loops: one of a stage whose predicate is 0 issues as NOP and raises
nothing (R181), and another that straddles the end of a body is illegal (R142). -/
def Strand.inLoops (st : Strand) (a : W64) (us : List W32) : Instr :=
  if st.handler then wordOf us
  else if squashed st.loops a then .nop
  else if straddles st.loops a (4 * us.length) then .illegalOp false us
  else wordOf us

/-! Groups (R154, R158). -/

/-- Words barred from the companion slot, which no word joins either (R154, R158). -/
def barred : Instr → Bool
  | .b .. | .bccc .. | .bz .. | .bnz .. | .jl .. | .jr .. | .txb .. | .txe | .txa .. | .loop .. | .loopg .. | .loopp ..
  | .lexit .. | .exit .. | .safept .. | .trap .. | .brk .. | .eret => true
  | _ => false

/-- Issue classes (R158). -/
inductive IssueClass where
  | scalar | vectorA | vectorB | engine
  deriving DecidableEq, Repr

/-- The class of a vector word by its home cluster (R148). -/
def vectorClass (homeB : Bool) : IssueClass := if homeB then .vectorB else .vectorA

/-- The class of a word (R148, R158); a refused word keeps the class of its length. -/
def issueClass (vnames : Nat) (i : Instr) : IssueClass :=
  match i.vword with
  | some (opc, w) => vectorClass (vHome opc vnames w)
  | none => match i with
    | .illegalOp _ us =>
      if us.length = 6 then .engine else if us.length = 3 then vectorClass (rawHome vnames (unitsNat us)) else .scalar
    | _ => if (engineHead i).isSome then .engine else .scalar

/-- Names that a word writes, as a first name and a number of names. -/
def namesWritten (i : Instr) : Option (Nat × Nat) := i.vword.bind fun x => vTarget x.1 x.2

/-- A word reads a vector name of a range: as an operand, or as the prior value of a masked destination (R150). -/
def readsNames (i : Instr) (x : Nat × Nat) : Bool :=
  let meets (n g : Nat) : Bool := n < 1536 && n < x.1 + x.2 && x.1 < n + g
  match i.vword with
  | some (opc, w) =>
    ((vOperands opc w).any fun o => meets o.name o.group) ||
    (w.mask ≠ 0 && !w.zero && (vTarget opc w).any fun y => meets y.1 y.2)
  | none => false

/-- The address is the end word of an active level (R158). -/
def endsLoop (l : Tab Loop) (a : W64) : Bool := (activeLevels l).any fun i => (loopAt l i).last = a

/-- Word j joins the group that word i at an address begins (R158). -/
def joins (st : Strand) (vnames : Nat) (a : W64) (i j : Instr) : Bool :=
  let ci := issueClass vnames i
  let cj := issueClass vnames j
  ci ≠ .engine && cj ≠ .engine && ci ≠ cj && !((namesWritten i).any (readsNames j)) && !barred i &&
  !endsLoop st.loops a

/-! The next group of a strand (R280). -/

/-- The word that a strand would fetch at an address, with its bytes; none where the fetch fails or waits. -/
def State.wordAt (s : State) (n : Nat) (st : Strand) (a : W64) : Option (Instr × Nat) :=
  match s.fetchWord (coreOfStrand n) (((s.ttAt st.tt).map (·.ctx)).getD 64) a with
  | .ok us _ => some (st.inLoops a us, 4 * us.length)
  | _ => none

/-- The semaphore name and threshold that a word waits for at issue: its clause, or AWAIT's (R151). -/
def issueWait (i : Instr) : Option (Nat × Nat) :=
  match i.vword with
  | some (_, w) => if w.wthr = 0 then none else some (w.wsem.toNat, w.wthr.toNat)
  | none => match i with
    | .await k t => if t = 0 then none else some (k.toNat, t.toNat)
    | _ => none

/-- What a word adds to a semaphore at issue: POST's name and count (R159). -/
def issuePost : Instr → Option (Nat × Nat)
  | .post k n => some (k.toNat, n.toNat)
  | _ => none

/-- The semaphore on which a strand's word waits, if it is not satisfied (R280); `more` is what the group has posted before it. -/
def State.unsatisfied (s : State) (n : Nat) (t : TileTask) (more : Option (Nat × Nat)) (i : Instr) : Option Nat :=
  (issueWait i).bind fun (k, thr) =>
    let m := semNum t.semBase k
    let sync := (s.coreAt t.core).sync
    let sync := match more with
      | some (k', p) => (sync.post (semNum t.semBase k') p).getD sync
      | none => sync
    if sync.ready m thr (.strand n) then none else some m

/-- The semaphore that keeps a strand's next group from issuing (R280). -/
def State.nextFlag (s : State) (n : Nat) (st : Strand) : Option Nat :=
  match s.ttAt st.tt, s.wordAt n st st.pc with
  | some t, some (i, len) => match s.unsatisfied n t none i with
    | some m => some m
    | none => match engineHead i with
      | some h => match decodeScalar h.comp with
        | .ok c => s.unsatisfied n t none c
        | .error _ => none
      | none => match s.wordAt n st (st.pc + BitVec.ofNat 64 len) with
        | some (j, _) => if joins st t.vnames st.pc i j then s.unsatisfied n t (issuePost i) j else none
        | none => none
  | _, _ => none

end Sys2Proof.Machine
end

