-- ==== Sys2Proof/Machine/Clock.lean ====
section
/-! DEFINITION. Machine/Clock.lean: package time and its discipline (R54-R56), frontiers and slips (R64, R65, R68), frames and
releases (R74-R76, R279), queue budgets (R274), and the accounting of queue heads (R280, R281). -/
namespace Sys2Proof.Machine

/-! Accounting (R280, R281). -/

/-- The class of a head: ISSUING, WAIT_FLAG with its semaphore, WAIT_ENGINE, EMPTY. -/
inductive HeadClass where
  | issuing
  | waitFlag (n : Nat)
  | waitEngine
  | empty
  deriving DecidableEq, Repr

/-- The code by which triggers and trace records name a class (R308, R310). -/
def HeadClass.num : HeadClass → Nat
  | .issuing => 0 | .waitFlag _ => 1 | .waitEngine => 2 | .empty => 3

/-- The class of a strand head on a clock on which it issues nothing: the semaphore that its next group waits for, or any other
reason (R280). -/
def State.strandWaits (s : State) (core p : Nat) : HeadClass :=
  match s.strandAt (8 * core + p) with
  | none => .empty
  | some st =>
    if st.ended then .empty
    else match s.nextFlag (8 * core + p) st with
      | some n => .waitFlag n
      | none => .waitEngine

/-- The class of a strand head on the present clock (R280). -/
def State.strandClass (s : State) (core p : Nat) : HeadClass :=
  if (s.strandAt (8 * core + p)).any fun st => !st.idle then .issuing else s.strandWaits core p

/-- The class of an engine head (R280). -/
def State.engineClass (s : State) (core q : Nat) : HeadClass :=
  let c := s.coreAt core
  if (c.queue q).any (·.started) then .issuing
  else match c.head q with
    | none => .empty
    | some x => match c.clause q x, engineHead x.word with
      | .no, some h => .waitFlag (semNum x.semBase h.wsem.toNat)
      | _, _ => .waitEngine

/-- The class of a head of a core, 0 to 14. -/
def State.headClass (s : State) (core h : Nat) : HeadClass :=
  if h < 8 then s.strandClass core h else s.engineClass core (h - 8)

/-- A 48-bit count raised, saturating. -/
def sat48 (n k : Nat) : Nat := min (n + k) (2 ^ 48 - 1)

/-- Clocks of a head counted in its class (R281). -/
def countHead (t : Tab Nat) (h k : Nat) (c : HeadClass) : Tab Nat :=
  match c with
  | .issuing => tmod 0 t (32 * h) (sat48 · k)
  | .waitFlag n => tmod 0 (tmod 0 t (32 * h + 8) (sat48 · k)) (0x200 + 8 * n) (sat48 · k)
  | .waitEngine => tmod 0 t (32 * h + 16) (sat48 · k)
  | .empty => tmod 0 t (32 * h + 24) (sat48 · k)

/-- Arithmetic clocks of a core between two times in ns: none on a gated die or in a dark region (R281, R324). -/
def State.clocks (s : State) (core t0 t1 : Nat) : Nat :=
  let r := s.regionAt (core / 2)
  if tget false s.energy.gated (dieOfCore core) || r.dark then 0
  else
    let f := mhzOf r.fcode
    t1 * f / 1000 - t0 * f / 1000

/-- The classes of a head over some clocks: on the first it issues, if it has issued a group; on the others a strand head
waits for what holds it (R280). -/
def State.headClasses (s : State) (core h k : Nat) : List (HeadClass × Nat) :=
  if h < 8 then [(s.strandClass core h, 1), (s.strandWaits core h, k - 1)] else [(s.engineClass core (h - 8), k)]

/-- Every head of every core counted up to a time in ns (R280, R281). -/
def State.account (s : State) (t1 : Nat) : State :=
  if t1 ≤ s.time.base then s
  else (upto Config.cores).foldl (fun s core =>
    let k := s.clocks core s.time.base t1
    if k = 0 then s
    else
      let cs := ((upto 15).map fun h => (s.headClasses core h k).map fun x => (h, x)).flatten
      let s := s.modCore core fun c => { c with
        counters := cs.foldl (fun t x => countHead t x.1 x.2.2 x.2.1) c.counters }
      (upto 8).foldl (fun s p => s.modStrand (8 * core + p) fun st => { st with idle := true }) s) s

/-- COUNTER_CLEAR: a write of the management core to a counter sets it to 0 (R281). -/
def execCounterClear (core offset : Nat) (s : State) : Out :=
  .next (if core < Config.cores then s.modCore core fun c => { c with counters := tdel c.counters (offset / 8 * 8) } else s)

/-! Queue budgets (R274). -/

/-- Units that use a queue's budget: cores that hold a tile task of a block from it, or engines at a job of it (R274). -/
def State.usersOf (s : State) (i : Nat) : Nat :=
  if i / 64 = sfd then
    ((s.streamAt i).items.filter s.jobRuns).length
  else
    (s.work.tts.filterMap fun x => match x.2 with
      | some t => match s.blockAt t.block with
        | some b => if b.via = .queue i && s.present t.core then some t.core else none
        | none => none
      | none => none).eraseDups.length

/-- The usage of a queue has reached its budget in the present period (R274). -/
def Stream.spent (x : Stream) : Bool := x.period ≠ 0 && x.budget ≠ 0 && x.budget ≤ x.used

/-- A queue that is told that its usage has reached the budget, once in a period; and how often it was told (R274). -/
def Stream.tell (x : Stream) : Stream × Nat := if x.spent && !x.overrun then ({ x with overrun := true }, 1) else (x, 0)

/-- Usage after some nanoseconds of one period, with a number of units at work. -/
def Stream.grow (x : Stream) (users n : Nat) : Stream :=
  let sat (k : Nat) : Nat := min k (2 ^ 32 - 1)
  if n = 0 then x else { x with used := sat (x.used + n * users), before := sat (x.used + (n - 1) * users) }

/-- A queue after some nanoseconds of its die's PT, up to `pt`, with a number of units at work, and how often its usage reached
the budget meanwhile. A period starts exactly as the one before it ends (R274). What is reached on the last of these ticks is
left for that tick: a QSCHED write on it comes first (R282). -/
def Stream.after (x : Stream) (users dt pt : Nat) : Stream × Nat :=
  let (x, n) := x.tell
  if x.period = 0 || pt < x.start + x.period then
    let y := x.grow users dt
    if x.budget ≤ y.before && dt ≠ 0 then ((y.tell).1, n + (y.tell).2) else (y, n)
  else
    let full := ((x.grow users (dt - (pt - (x.start + x.period)))).tell).2
    let whole := (pt - x.start) / x.period - 1
    let each := if x.budget ≠ 0 && x.budget ≤ x.period * users then whole else 0
    let last := x.start + (whole + 1) * x.period
    let y := ({ x with start := last, used := 0, before := 0, overrun := false }).grow users (min dt (pt - last))
    if last < pt && x.budget ≤ y.before then ((y.tell).1, n + full + each + (y.tell).2) else (y, n + full + each)

/-- The context whose work a queue holds. -/
def State.queueCtx (s : State) (i : Nat) : Nat := (((s.streamAt i).items.head?).map (·.ctx)).getD 64

/-- Usage grows as the dies come to show `pt` (R274). -/
def State.useQueues (s : State) (pt : Nat → Nat) : State :=
  let xs := s.work.streams.map fun (i, x) =>
    (i, x.after (s.usersOf i) (pt (i / 64) - s.pt (i / 64)) (pt (i / 64)))
  let late := (xs.map fun x => List.replicate x.2.2 (s.queueCtx x.1)).flatten
  late.foldl (fun s ctx => s.mEvent Cause.queueOverrun.code ctx)
    (s.modWork fun w => { w with streams := xs.map fun x => (x.1, x.2.1) })

/-- QSCHED_WRITE: a new period starts with nothing used (R274). -/
def State.writeQsched (s : State) (i : Nat) (v : W64) : State :=
  let t := s.pt (i / 64)
  s.modStream i fun x => { x with
    period := fieldOf v 0 32, budget := fieldOf v 32 32, used := 0, before := 0, overrun := false, start := t }

/-- QSCHED_WRITE (R274, R282). -/
def execQschedWrite (die core q : Nat) (v : W64) (s : State) : Out :=
  .next (if 8 < die || 15 < core || 3 < q then s else s.writeQsched (streamNum die core q) v)

/-- QUEUE_PERIOD_START: the next period of a regulated queue (R274). -/
def execQueuePeriodStart (die core q : Nat) (s : State) : Out :=
  .next (
    let i := streamNum die core q
    let x := s.streamAt i
    if 8 < die || 15 < core || 3 < q || x.period = 0 || s.pt die < x.start + x.period then s
    else s.modStream i fun x => { x with start := x.start + x.period, used := 0, before := 0, overrun := false })

/-- QUEUE_OVERRUN: a queue's usage has reached its budget, once in a period (R274). -/
def execQueueOverrun (die core q : Nat) (s : State) : Out :=
  .next (
    let i := streamNum die core q
    let x := s.streamAt i
    if 8 < die || 15 < core || 3 < q || x.period = 0 || x.budget = 0 || x.overrun || x.used < x.budget then s
    else (s.modStream i fun x => { x with overrun := true }).mEvent Cause.queueOverrun.code (s.queueCtx i))

/-! Package time (R54-R56). -/

/-- A die's timestamp exchange with the master has a module to use (R55). -/
def State.exchanges (s : State) (die : Nat) : Bool :=
  let l := if die = sfd then 32 else 2 * die
  s.linkUp l || s.linkUp (l + 1)

/-- The rate at which a die counts in a turn, in ppm. A die keeps its last rate in holdover and while it has no module for its
exchange; otherwise its last exchange lets it adjust within 200 ppm, and two bits of the turn say how (R54, R55). The master
slews toward facility time within 100 ppm from the step of PT on, as seven bits of the turn say; before that, and in holdover,
it runs on at its last rate (R56). -/
def State.rateIn (s : State) (skew die : Nat) : Int :=
  let t := s.time
  let last := tget 0 t.rate die
  if die = cd then
    if !t.stepped || tget false t.hold cd then last
    else
      let r : Int := (min 100 (bits skew 18 7) : Nat)
      if t.offset < 0 then r else if 0 < t.offset then -r else 0
  else if tget false t.hold die || !s.exchanges die then last
  else match bits skew (2 * die) 2 with
    | 0 => last
    | 1 => -200
    | 2 => 200
    | _ => 0

/-- Millionths of a nanosecond that a clock shows after some nanoseconds at a rate in ppm. -/
def counted (pt frac dt : Nat) (rate : Int) : Nat := ((pt * 1000000 + frac : Nat) + (dt : Int) * (1000000 + rate)).toNat

/-- The least PT of the package after some nanoseconds, in millionths: it goes on at the master's rate (R55, R56). -/
def State.baseAfter (s : State) (dt skew : Nat) : Nat := counted s.time.base s.time.baseFrac dt (s.rateIn skew cd)

/-- A die's PT with the part of a nanosecond beyond it, after some nanoseconds: kept within 3 ns of the least, and never lower
than before; in holdover nothing bounds it (R54, R55). -/
def State.ptAfter (s : State) (dt skew die : Nat) : Nat × Nat :=
  let t := s.time
  let c := counted (tget 0 t.pt die) (tget 0 t.frac die) dt (s.rateIn skew die)
  if die < cd && tget false t.hold die then (c / 1000000, c % 1000000)
  else
    let lo := s.baseAfter dt skew / 1000000
    let c := max (lo * 1000000) (min c ((lo + 3) * 1000000))
    if c / 1000000 < tget 0 t.pt die then (tget 0 t.pt die, 0) else (c / 1000000, c % 1000000)

/-- Time that has passed leaves what the triggers compare the present clock with (R308, R309). -/
def State.noteClock (s : State) (dt : Nat) : State :=
  if dt = 0 then s else s.modDebug fun d => { d with traps := [], before := s.time.pt }

/-- The stamped words whose clock ends as time passes (R72). -/
def State.closeStamps (s : State) (dt : Nat) : State :=
  if dt = 0 then s else (upto Config.cores).foldl (fun s core => s.closeStamp core) s

/-- Nanoseconds pass. -/
def State.elapse (s : State) (dt skew : Nat) : State :=
  if dt = 0 then s.settleSlips.settleAll.settleAreas
  else
    let b := s.baseAfter dt skew
    let after (d : Nat) : Nat × Nat := s.ptAfter dt skew d
    let rates := (upto 10).map fun d => (d, s.rateIn skew d)
    let s := (((s.account (b / 1000000)).noteClock dt).closeStamps dt).useQueues fun d => (after d).1
    (s.modTime fun t => { t with
      pt := (upto 10).foldl (fun p d => tset 0 p d (after d).1) t.pt
      frac := (upto 10).foldl (fun p d => tset 0 p d (after d).2) t.frac
      rate := rates.foldl (fun p x => tset 0 p x.1 x.2) t.rate
      base := b / 1000000
      baseFrac := b % 1000000 }).settleSlips.settleAll.settleAreas

/-- PT_EXCHANGE: the master exchanges timestamps with a die over one of its modules, and the die adjusts its rate within
200 ppm; back within 3 ns it leaves holdover (R54, R55). -/
def execPtExchange (die : Nat) (ppm offset : Int) (s : State) : Out :=
  .next (
    if 8 < die || s.time.base % 16384 ≠ 0 || !s.exchanges die then s
    else
      let near := offset.natAbs ≤ 3 && decide (s.time.base ≤ s.pt die) && decide (s.pt die ≤ s.time.base + 3)
      let now := s.pt cd
      s.modTime fun t => { t with
        rate := tset 0 t.rate die (max (-200) (min 200 ppm))
        exchanged := tset 0 t.exchanged die now
        hold := if near then tset false t.hold die false else t.hold })

/-- PT_HOLDOVER: a die that has had no exchange for more than 100 ms enters holdover (R55). -/
def execPtHoldover (die : Nat) (s : State) : Out :=
  .next (
    if die < cd && tget 0 s.time.exchanged die + 100000000 < s.pt cd then
      s.modTime fun t => { t with hold := tset false t.hold die true }
    else s)

/-- The master's measured offset from facility time, with what PTSTAT reports of it (R56). -/
def State.noteOffset (s : State) (off : Int) : State :=
  s.modTime fun t => { t with
    offset := off
    locked := decide (off.natAbs ≤ 1000)
    hold := tset false t.hold cd (decide (1000000 < off.natAbs) || (t.waitOver && !t.stepped)) }

/-- PTP_MESSAGE: a message of the facility grandmaster arrives, and the master measures its offset; a message of another domain
than the configured one is not the clock's (R56, R345).
DESIGN CHOICE (log entry 108): the first message of its domain is the first lock, whatever its offset. -/
def execPtpMessage (message : PtpMsg) (s : State) : Out :=
  .next (
    if message.domain ≠ s.host.cfg.domain then s
    else (s.modTime fun t => { t with sawLock := true }).noteOffset ((s.pt cd : Int) - message.facility))

/-- No context is resident. -/
def State.noCtx (s : State) : Bool := s.ctxs.all fun x => x.2.isNone

/-- PT_STEP: once locked, with no context resident, PT is set forward to facility time, once; the timetable restarts (R54,
R56, R74). -/
def execPtStep (facility : Nat) (s : State) : Out :=
  .next (
    if s.time.stepped || !s.time.sawLock || !s.noCtx then s
    else
      let base := max s.time.base facility
      let s := s.modTime fun t => { t with
        stepped := true
        base := base
        pt := (upto 10).foldl (fun p d => tset 0 p d (max (tget 0 t.pt d) base)) t.pt
        origin := some base, frameOn := false, frameno := 0, framestart := 0, lastMember := 0, overran := false }
      s.noteOffset ((s.pt cd : Int) - facility))

/-- LOCK_WAIT_EXPIRY: 10 s after power-on without a lock the package runs free, and frames begin (R56, R74). -/
def execLockWaitExpiry (s : State) : Out :=
  .next (
    if s.time.stepped || s.time.sawLock || s.time.waitOver || s.pt cd < Config.lockWait then s
    else s.modTime fun t => { t with
      waitOver := true, hold := tset false t.hold cd true, origin := some Config.lockWait })

/-! Frontiers (R64, R65, R68). -/

/-- FRONTIER_SAMPLE: every 64 ns of its PT a die sends its frontier to every other die; a message that a module which is
paused, training or down would carry is dropped (R65, R333). -/
def execFrontierSample (die : Nat) (s : State) : Out :=
  .next (
    if cd < die || s.pt die % 64 ≠ 0 then s
    else
      let v := s.frontier die
      let dies := (upto 10).filter fun d => d ≠ die && (s.route die d).all s.linkUp
      s.modTime fun t => { t with msgs := t.msgs ++ dies.map fun d => (die, d, v) })

/-- A message taken out of those on their way. -/
def takeMsg (src dst : Nat) : List (Nat × Nat × Nat) → Option (Nat × List (Nat × Nat × Nat))
  | [] => none
  | m :: ms => if m.1 = src && m.2.1 = dst then some (m.2.2, ms) else (takeMsg src dst ms).map fun x => (x.1, m :: x.2)

/-- FRONTIER_MESSAGE: a die's oldest message to another arrives, or is lost to a retry (R65), or dropped where a module on its way
carries no traffic (R333). -/
def execFrontierMessage (src dst : Nat) (lost : Bool) (s : State) : Out :=
  .next (
    match takeMsg src dst s.time.msgs with
    | none => s
    | some (v, rest) =>
      (s.modTime fun t => { t with
        msgs := rest, held := if lost || !s.reaches src dst then t.held else tset 0 t.held (16 * dst + src) v }).settleSlips)

/-- A not-before load waits at a slice of a die, past its time and ahead of the global frontier (R68). -/
def State.nbWaits (s : State) (die : Nat) : Bool :=
  s.mem.nbq.any fun x => x.1 / 128 = die && x.2.any fun e =>
    ((s.nbLoad e).bind (·.notBefore)).any fun t => t.toNat ≤ s.pt die && s.gf die < t.toNat

/-- FRONTIER_SLIP: the lag is found above SLIPTH while a not-before load waits: an event is recorded, and no further one
until the lag has fallen (R68). -/
def execFrontierSlip (die : Nat) (s : State) : Out :=
  .next (
    if 8 < die || !s.nbWaits die || s.lag die ≤ s.time.slipth || tget false s.time.slipped die then s
    else
      let lag := s.lag die
      let pt := s.pt die
      s.modTime fun t => { t with
        fslip := tmod 0 t.fslip die fun n => min (n + 1) (2 ^ 32 - 1)
        slipped := tset false t.slipped die true
        log := t.log ++ [.slip die pt lag] })

/-! Frames (R74-R76, R279). -/

/-- Members of a frame that have not completed (R75). -/
def State.members (s : State) (n : Nat) : List Nat :=
  s.work.blocks.filterMap fun x => match x.2 with
    | some b => if b.frame = some n then some x.1 else none
    | none => none

/-- FRAME_OVERRUN: the current frame has members incomplete at its end, and the next frame is held (R76). -/
def execFrameOverrun (s : State) : Out :=
  .next (
    let t := s.time
    if t.frameOn && t.framestart + t.curLen ≤ s.pt cd && s.members t.frameno ≠ [] then
      s.modTime fun t => { t with overran := true }
    else s)

/-- A frame begins at a start. -/
def TimeState.enter (t : TimeState) (n start : Nat) : TimeState :=
  { t with frameOn := true, frameno := n, framestart := start, curLen := t.framelen, origin := none, lastMember := 0,
           overran := false }

/-- FRAME_START: frame 0 at the first multiple of FRAMELEN from its origin, or the frame after the current one once its
length has passed and its last member has completed; a slip is recorded (R74, R76). DESIGN CHOICE (log entry 100): where the
last member has left by parking, the next frame starts when the length has passed, with no slip. -/
def execFrameStart (s : State) : Out :=
  .next (
    let t := s.time
    if !t.frameOn then match t.origin with
      | none => s
      | some o =>
        let f0 := roundUp o t.framelen
        if f0 ≤ s.pt cd then s.modTime (·.enter 0 f0) else s
    else
      let due := t.framestart + t.curLen
      let start := max due t.lastMember
      if s.pt cd < start || s.members t.frameno ≠ [] then s
      else
        let slip := start - due
        let s := s.modTime (·.enter (t.frameno + 1) start)
        if slip = 0 then s
        else s.modTime fun x => { x with
          tslipCount := min (x.tslipCount + 1) (2 ^ 32 - 1)
          tslipLast := min slip (2 ^ 32 - 1)
          log := x.log ++ [.frameSlip t.frameno slip] })

/-- TIMETABLE_RELEASE: every member of the current frame whose release tick has come is released (R75, R279). -/
def execTimetableRelease (s : State) : Out :=
  .next (
    let t := s.time
    if !t.frameOn then s
    else (s.members t.frameno).foldl (fun s b => s.modBlock b fun x =>
      if t.framestart + x.lb.release ≤ s.pt cd then { x with released := true } else x) s)

end Sys2Proof.Machine
end

