-- ==== Sys2Proof/Machine/Save.lean ====
section
/-! DEFINITION. Machine/Save.lean: the save record of a tile task as it stands in memory (R300, R301). -/
namespace Sys2Proof.Machine

/-- Zero bytes. -/
def zeros (n : Nat) : List Byte := List.replicate n 0

/-- A doubleword as bytes. -/
def dw (v : W64) : List Byte := leBytes 8 v.toNat

/-- One bit for each test below n. -/
def bitsOf (n : Nat) (p : Nat → Bool) : Nat := (upto n).foldl (fun m i => m + if p i then 2 ^ i else 0) 0

/-- A loop level as a strand record holds it: active, lc, body start, end address, stages, stage map, exec_index (R301). -/
def Loop.image (x : Loop) : List Byte :=
  dw (if x.active then 1 else 0) ++ dw x.lc ++ dw x.start ++ dw x.last ++ leBytes 8 x.stages ++ dw x.map ++ dw x.index ++
  zeros 8

/-- A port as a strand record holds it (R301). -/
def Port.image (p : Port) : List Byte :=
  dw p.base ++ leBytes 4 p.stride1.toNat ++ leBytes 4 p.count1.toNat ++ leBytes 4 p.stride2.toNat ++
  leBytes 4 p.count2.toNat ++ leBytes 8 p.cursor

/-- The byte of a name: entries present, live, tags (R301). -/
def nameByte (l : List Entry) : Byte :=
  BitVec.ofNat 8 (l.length % 4 + (if l ≠ [] then 4 else 0) + (if (l[0]?).any (·.tag) then 8 else 0) +
    if (l[1]?).any (·.tag) then 16 else 0)

/-- A strand record (R301). -/
def Strand.image (st : Strand) : List Byte :=
  dw st.pc ++ leBytes 8 (1 + (if st.handler then 2 else 0) + if st.ended then 4 else 0) ++
  dw st.epc ++ leBytes 8 (st.cause.toNat + if st.handler then 256 else 0) ++
  dw st.trec.ei0 ++ dw st.trec.ei1 ++ dw st.trec.ei2 ++ dw st.trec.ei3 ++
  dw st.tvec ++ dw st.fpm ++ dw st.srkey ++ dw st.srctr ++
  leBytes 8 (st.txsCode.toNat + st.txsTxa.toNat * 256) ++
  leBytes 4 (bitsOf 32 fun i => tget false st.gtag i) ++ zeros 20 ++
  ((upto 32).map fun i => dw (tget 0 st.g i)).flatten ++
  ((upto 4).map fun i => (loopAt st.loops i).image).flatten ++
  ((upto 16).map fun i => leBytes 128 (tget 0 st.m i).toNat).flatten ++
  leBytes 2 (bitsOf 16 fun i => tget false st.mtag i) ++ zeros 126 ++
  ((upto 64).map fun i => (tget Port.none st.ports i).image).flatten ++
  (upto 1536).map fun n => nameByte (tget [] st.vn n)

/-- The index of a role's section. -/
def Role.num : Role → Nat
  | .loader => 0 | .computer => 1 | .storer => 2

/-- The vector entries of a strand, by place (R300): entry e of name n. -/
def Strand.entryPieces (st : Strand) (base depth : Nat) : List (Nat × List Byte × Bool) :=
  (st.vn.map fun (n, l) => (l.zipIdx).map fun x =>
    (base + 512 * (n * depth + x.2), leBytes 512 x.1.v.toNat, x.1.tag)).flatten

/-- The MXE state as the record holds it: accumulator, scale memory, weight buffers, then tags and the side (R300). -/
def Core.mxeImage (c : Core) : List Byte :=
  ((upto 65536).map fun i => leBytes 4 (tget 0 c.acc i).toNat).flatten ++
  ((upto 8192).map fun i => leBytes 2 (tget 0 c.scale i).toNat).flatten ++ tgets 0 c.wb 0 262144 ++
  (upto 4096).map
    (Config.mxeTagByte (tgets false c.accTag 0 16) (tgets false c.scaleTag 0 8192) (tgets false c.wbTag 0 2048) c.side)

/-- The code of a stop kind in a save record (R300). -/
def StopKind.num : StopKind → Nat
  | .point => 0 | .safept => 1 | .wait => 2 | .forced => 3

/-- What the header of a save record says, for a save at a PT of a block at an address with a deadline (R300). -/
def Saved.header (v : Saved) (block : W64) (deadline pt : Nat) : Config.SaveHeader where
  size := v.size
  block := block.toNat
  index := v.tt.idx
  g1 := v.tt.g1.toNat
  g2 := v.tt.g2.toNat
  g3 := v.tt.g3.toNat
  roles := v.strands.map fun x => x.2.role.num
  modeK := v.tt.modeK
  vnames := v.tt.vnames
  spmBase := v.tt.spmBase
  spmUnits := v.tt.spmUnits
  semBase := v.tt.semBase
  semLen := v.tt.semLen
  deadline := deadline
  savePt := pt
  stops := v.strands.map fun x => (x.2.stop.map (·.num)).getD 0
  mxe := v.mxe.isSome
  resumes := v.tt.resumes

/-- The pieces of a save record: offset, bytes, poison (R300). Entries that are absent or not saved are not written. -/
def Saved.pieces (v : Saved) (h : Config.SaveHeader) : List (Nat × List Byte × Bool) :=
  let depth := if v.tt.modeK then 1 else 2
  let each := v.tt.vnames * depth * 512
  let vecs := v.tt.strands.length * each
  let role (r : Role) := v.strands.find? fun x => x.2.role = r
  let records := [Role.loader, .computer, .storer].map fun r =>
    (0x100 + 0x2000 * r.num, (match role r with
      | some x => x.2.image
      | none => zeros 0x1900) ++ zeros 0x700, false)
  let spills := [Role.loader, .computer, .storer].map fun r =>
    (0x6100 + 0x4000 * r.num, (match role r with
      | some x => tgets 0 x.2.spill 0 16384
      | none => zeros 16384), false)
  let count (i : Nat) : Nat := ((v.sems[i]?).map (·.count)).getD 0
  let sems := (upto 256).map (fun i => leBytes 2 (count i))
  let poison := leBytes 32 (bitsOf 256 fun i => (v.sems[i]?).any (·.poisoned))
  let entries := ((v.strands.zipIdx).map fun x => x.1.2.entryPieces (0x14500 + x.2 * each) depth).flatten
  let rows := (upto (64 * v.tt.spmUnits)).map fun r =>
    (0x14500 + vecs + 64 * r, (v.spm.drop (64 * r)).take 64, (v.spmTag[r]?).getD false)
  [(0, (upto 256).map (Config.headerByte h), false)] ++ records ++ spills ++
  [(0x12100, sems.flatten ++ poison, false), v.queuePiece] ++ entries ++ rows ++
  match v.mxe with
  | some c => [(0x14500 + vecs + 4096 * v.tt.spmUnits, c.mxeImage, false)]
  | none => []

/-- A range of physical memory in which a frame is unbacked or retired: a save there meets an error (R297). -/
def State.rangeBad (s : State) (pa n : Nat) : Bool :=
  (upto ((pa + n - 1) / 65536 - pa / 65536 + 1)).any fun i =>
    let a := (pa / 65536 + i) * 65536
    (s.mem.homeDie a).isNone || tget .normal s.mem.frames (frameOf a) = .retired

/-- A row in which an uncorrectable error has been found, and which no spare has replaced yet, holds a byte of a range (R113, R336). -/
def MemState.rowsBad (m : MemState) (pa n : Nat) : Bool :=
  m.rowBad ≠ [] && (upto ((pa + n - 1) / 64 - pa / 64 + 1)).any fun i => tget false m.rowBad (Config.rowOf (64 * (pa / 64 + i)))

/-- A save of a range meets an error (R297; log entry 124): a frame of the range is unbacked or retired, a row of it has an
uncorrectable error, or the header of the context area, which gives the heap's place, reads as poisoned or lies in such a row.
A sector of the range that is only marked poisoned is none: the save writes it whole, which clears it (R114). -/
def State.saveMeets (s : State) (ctx pa n : Nat) : Bool :=
  let a := (tget 0 s.mem.areas ctx).toNat
  s.rangeBad pa n || s.mem.rowsBad pa n || s.mem.rowsBad a 64 || tget false s.mem.poison (a / 64)

/-- A save record written to its place in the save heap (R297, R300). -/
def State.writeRecord (s : State) (v : Saved) : State :=
  let b := s.blockAt v.tt.block
  let h := v.header ((b.map (·.addr)).getD 0) ((b.map (·.deadline)).getD 0) (s.pt (dieOfCore v.tt.core))
  (v.pieces h).foldl (fun s p => s.writePiece v p) s

end Sys2Proof.Machine
end

