-- ==== Sys2Proof/Machine/Preempt.lean ====
section
/-! DEFINITION. Machine/Preempt.lean: pre-emption, saves and resumption (R250, R296-R298, R302, R303) and the creation of
contexts (R299). -/
namespace Sys2Proof.Machine

/-! Requests (R296, R297, R303). -/

/-- A request names a tile task (R296). -/
def State.names (s : State) (t : Target) (n : Nat) (y : TileTask) : Bool :=
  match t with
  | .context c => y.ctx = c
  | .tileTask k => n = k
  | .energyClass c => match s.blockAt y.block with
    | some b => ((s.taskAt b.graph b.task).map (·.info.cls)) = some c
    | none => false

/-- The running tile tasks that a request names. -/
def State.targets (s : State) (t : Target) : List Nat :=
  s.work.tts.filterMap fun x => match x.2 with
    | some y => if s.names t x.1 y && !y.failing then some x.1 else none
    | none => none

/-- A request of a rank with a grace period reaches a tile task (R297, R303): a kill stops it at once, a debug stop has no
effect where the context is not debuggable (R304). -/
def State.askTt (s : State) (r : Rank) (grace n : Nat) : State :=
  match s.ttAt n with
  | none => s
  | some t => if t.failing then s else match r with
    | .kill => if t.saving then s.modTt n (·.ask .kill 0) else s.killTt n false
    | .debug => if ((s.ctxAt t.ctx).map (·.debuggable)).getD false then (s.modTt n (·.ask .debug 0)).haltConds t.ctx else s
    | _ => s.modTt n (·.ask r (s.pt (dieOfCore t.core) + grace))

/-- The park of an energy class or of a context reaches a tile task, with its grace of 10 ms (R322). -/
def State.parkTt (s : State) (n : Nat) : State :=
  (s.askTt .park 10000000 n).modTt n fun t => if t.saving || t.failing then t else { t with parking := true }

/-- A debug stop has an effect on what it names: a tile task of a debuggable context, or such a context itself (R304). -/
def State.mayCut (s : State) (t : Target) : Bool :=
  let ok (c : Nat) : Bool := ((s.ctxAt c).map (·.debuggable)).getD false
  (match t with
    | .context c => ok c
    | _ => false) ||
  (s.targets t).any fun n => (s.ttAt n).any fun y => ok y.ctx

/-- A kill discards saved tile tasks and releases their reservations; their iterations count as ended (R303). -/
def State.killSaved (s : State) (p : Saved → Bool) : State :=
  let bs := s.work.saved.filterMap fun x => x.2.bind fun v =>
    if p v && (s.ttAt x.1).isNone then some (x.1, v.tt.block) else none
  bs.foldl (fun s x => (match tget none s.work.saved x.1 with
    | some v => s.discardSaved x.1 v
    | none => s).iterationDone x.2) s

/-- PREEMPT_REQUEST: the management core issues a request with a grace period (R296, R303). -/
def execPreemptRequest (t : Target) (r : Rank) (grace : Nat) (s : State) : Out :=
  .next (
    let g := grace % 2 ^ 32
    let s := if r = .debug && s.mayCut t then
        let s := s.modDebug fun d => { d with cut := [] }
        match t with
        | .context c => s.haltConds c
        | _ => s
      else s
    let s' := (s.targets t).foldl (fun s n => s.askTt r g n) s
    if r = .kill then s'.killSaved fun v => (s.work.saved.any fun x => x.2 = some v && s.names t x.1 v.tt) else s')

/-! Stops (R102, R209, R297). -/

/-- A strand stops for a request. Inside a transaction it aborts with code 0x05 and moves to its abort target first; where it
names none, TXN_ABORT_FORCED is taken (R102, R297). -/
def State.stopStrand (s : State) (n : Nat) (k : StopKind) : State :=
  match s.strandAt n with
  | none => s
  | some st =>
    let s := match st.txn with
      | none => s
      | some x =>
        if x.phase = 2 then s
        else
        let s := s.modStrand n fun st => st.abortTxn 5
        match x.target with
        | some t => s.modStrand n fun st => { st with pc := t }
        | none => s.takeTrap n .txnAbortForced { Rec.zero with ei0 := 5 * 2 ^ 16 } st.pc s
    let cmds := s.cmdsOf n
    let s := s.modStrand n fun st => if st.ended then st else st.halt cmds k
    s.modCore (coreOfStrand n) (·.modSync (·.leave (.strand n)))

/-- GRACE_EXPIRY: the grace period has elapsed, and every strand of the tile task that has neither stopped nor ended takes a
forced stop at its group boundary (R297). -/
def execGraceExpiry (tt : Nat) (s : State) : Out :=
  .next (
    match s.ttAt tt with
    | none => s
    | some t => match t.request with
      | none => s
      | some (_, g) =>
        if t.saving || s.pt (dieOfCore t.core) < g then s
        else t.strands.foldl (fun s n => match s.strandAt n with
          | some st => if st.ended || st.stop.isSome then s else s.stopStrand n .forced
          | none => s) s)

/-! The save (R250, R297, R300). -/

/-- A stopped strand owes nothing: its loads have bound but for the cancelled ones and those behind them, its stores and
releases are done, its vector words have completed (R297 step 2). -/
def Strand.quiet (st : Strand) : Bool :=
  (st.ended || st.stop.isSome) && st.sq = [] && st.rels = [] && st.fly = [] && (st.lq = [] || st.cancelled)

/-- The engines of a tile task have come to rest: no MXE or weight-stream command of it is started, and no courier command is
inside a 4 KiB segment, unless it is a chain that waits in a SIGNAL record, or completes with poisoned results (R250). -/
def Core.atRest (c : Core) (tt : Nat) : Bool :=
  ([0, 5].all fun q => !((c.queue q).any fun x => x.tt = tt && x.started)) &&
  [1, 2, 3, 4].all fun q => !((c.queue q).any fun x =>
    x.tt = tt && (x.failed || (x.started && x.midSegment && !c.chainPaused q x)))

/-- The commands of a tile task to save, in queue order: every one but the jobs that run on the SFD (R250, R300). -/
def Core.toSave (c : Core) (tt : Nat) : List (Nat × Cmd) :=
  ((upto 7).map fun q => ((c.queue q).filter fun x => x.tt = tt && !(q = 6 && x.started)).map fun x =>
    (q, { x with started := false })).flatten

/-- What a save record holds of a tile task (R300). Where the park of its class or context has reached it, it waits for the
unpark, and is due at once if that has come already; any other request leaves it to a resume (R302). -/
def State.savedOf (s : State) (t : TileTask) (tt : Nat) : Saved :=
  let c := s.coreAt t.core
  let parked := match s.blockAt t.block with
    | some b => s.unitParked t.ctx b.graph b.task
    | none => false
  { tt := { t with
      request := none, parking := false, cutting := false, saving := false, killAfter := false, wantsMxe := false }
    due := t.parking && !parked
    park := t.parking
    strands := t.strands.filterMap fun n => (s.strandAt n).map fun st => (n, st)
    sems := (upto 256).map fun i => if (i + 256 - t.semBase) % 256 < t.semLen then c.sem i else Sem.zero
    cmds := c.toSave tt
    signals := []
    spm := tgets 0 c.spm t.spmBase (4096 * t.spmUnits)
    spmTag := tgets false c.spmTag (t.spmBase / 64) (64 * t.spmUnits)
    mxe := if c.mxeOwner = some tt then some { Core.init with
        acc := c.acc, accTag := c.accTag, scale := c.scale, scaleTag := c.scaleTag, wb := c.wb, wbTag := c.wbTag
        side := c.side }
      else none
    heapAt := t.heapAt
    size := t.reserved }

/-- A fault of the management core that kills a context: the log and the event report it (R297, R311, R345). -/
def State.ctxFault (s : State) (ctx tt : Nat) (c : Cause) : State :=
  let pol := ((s.ctxAt ctx).map (·.policy)).getD .killSelf
  (s.logFault { s.faultOfTt tt none with ctx := ctx } c Rec.zero .context pol).killCtx ctx c.code

/-- A head with its position enters the cut of the debug stop, in the place of what the cut held for it (R305). -/
def DebugState.cutAt (d : DebugState) (h pos : Nat) (pc : W64) : DebugState :=
  { d with cut := (d.cut.filter fun x => x.1 ≠ h) ++ [(h, pos, pc)] }

/-- The heads of a tile task that has stopped enter the cut: its strands by groups issued and pc, and the engines of its core by
commands started (R305). -/
def State.cutHeads (s : State) (t : TileTask) : State :=
  let c := s.coreAt t.core
  let s := t.strands.foldl (fun s n => match s.strandAt n with
    | some st => s.modDebug (·.cutAt (n / 8 * 16 + n % 8) st.groups st.pc)
    | none => s) s
  (upto 7).foldl (fun s q => s.modDebug (·.cutAt (t.core * 16 + 8 + q) (tget 0 c.starts (8 + q)) 0)) s

/-- PREEMPT_SAVE: every strand of a requested tile task has stopped or ended, its queues have drained and its engines are at
rest: the save starts (R297), and the heads that a debug stop among its requests has stopped enter the cut (R303, R305). A save
that meets an error raises SAVE_FAULT. -/
def execPreemptSave (tt : Nat) (s : State) : Out :=
  .next (
    match s.ttAt tt with
    | none => s
    | some t => match t.request with
      | none => s
      | some _ =>
        let still := t.strands.all fun n => match s.strandAt n with
          | some st => st.quiet
          | none => true
        if t.saving || t.failing || s.ttOver tt t || !still || !(s.coreAt t.core).atRest tt then s
        else
          let v := s.savedOf t tt
          let s := if t.cutting then s.cutHeads t else s
          if s.saveMeets t.ctx (s.heapBase t.ctx + v.heapAt) v.size then s.ctxFault t.ctx tt .saveFault
          else
            let s := (s.coreAt t.core).toSave tt |>.foldl (fun s x =>
              (s.endFrameWait (.engine t.core x.2.id)).modCore t.core (·.dropCmd x.1 x.2.id)) (s.modCore t.core (·.leaveLines tt))
            (s.modWork fun w => { w with saved := tset none w.saved tt (some v) }).modTt tt fun t =>
              { t with saving := true, request := none, parking := false, cutting := false })

/-- The last tile task of a parked task has been saved: the task's estimate leaves q (R318). -/
def State.parkTask (s : State) (b : Nat) : State :=
  match s.blockAt b with
  | none => s
  | some x =>
    let runs := s.work.tts.any fun y => match y.2 with
      | some t => match s.blockAt t.block with
        | some z => z.graph = x.graph && z.task = x.task
        | none => false
      | none => false
    if runs || !s.unitParked x.ctx x.graph x.task then s
    else (s.leaveQ x.graph x.task).modTask x.graph x.task fun t => { t with parked := true }

/-- A matrix die that holds no tile task is asked to gate, while the grade is park or shed (R322, R324). -/
def State.gateIdle (s : State) (die : Nat) : State :=
  if s.energy.grade < 2 || tget false s.energy.gated die || s.work.tts.any (fun x => match x.2 with
      | some t => dieOfCore t.core = die
      | none => false) then s
  else s.askGate false die

/-- The end of an iteration whose tile task has been discarded: it starts again under RETRY, and otherwise counts as ended
(R52, R303). -/
def State.discarded (s : State) (t : TileTask) : State :=
  if t.failing && t.retry then s.readyAgain t.block t.idx (dieOfCore t.core) else s.iterationDone t.block

/-- SAVE_COMPLETE: the record stands in the save heap, to whose homes traffic crosses (R333), and the windows, the partitions and the MXE state are freed; where a
kill arrived meanwhile the record is discarded (R297, R303). -/
def execSaveComplete (tt : Nat) (s : State) : Out :=
  .next (
    match s.ttAt tt with
    | none => s
    | some t =>
      let held := match tget none s.work.saved tt with
        | some v => !s.reachesAll (dieOfCore t.core) (s.heapBase t.ctx + v.heapAt) v.size
        | none => false
      if !t.saving || held then s
      else
        let s := s.freeWindows tt t
        match tget none s.work.saved tt with
        | none => s.reapCtx t.ctx
        | some v =>
          if s.saveMeets t.ctx (s.heapBase t.ctx + v.heapAt) v.size then s.ctxFault t.ctx tt .saveFault
          else
          let s := s.writeRecord v
          if t.killAfter || t.failing then
            ((s.dropSaved fun x => x = v).discarded t).reapCtx t.ctx
          else if v.park then (s.parkTask t.block).gateIdle (dieOfCore t.core) else s)

/-! Resumption (R250, R302). -/

/-- RESUME_REQUEST: the saved tile tasks that the request names become due, but for those saved by park (R302). -/
def execResumeRequest (t : Target) (s : State) : Out :=
  .next (
    let due (n : Nat) (v : Saved) : Saved := if s.names t n v.tt && !v.park then { v with due := true } else v
    let s := s.modWork fun w => { w with saved := w.saved.map fun (n, v) => (n, v.map (due n)) }
    match t with
    | .context c => (upto 16).foldl (fun s k => match (s.condAt k).task with
        | some (g, _) => if ((s.graphAt g).map (·.ctx)) = some c then s.modCond k fun x => { x with stopped := false } else s
        | none => s) s
    | _ => s)

/-- The parts of a store that a stop held back translated again; a part whose translation fails keeps its place. -/
def State.reparts (s : State) (core ctx : Nat) (va : W64) (ps : List Part) : List Part :=
  (ps.map fun p =>
    match s.accessNoKey (some core) ctx (va + BitVec.ofNat 64 p.off) p.len .look false with
    | .ok ps _ => ps.map fun x => { x with off := x.off + p.off }
    | _ => [p]).flatten

/-- The parts of a cancelled load translated again: a fault is found after issue (R69, R290). -/
def State.again (s : State) (core ctx : Nat) (va : W64) : List Part → Res (List Part)
  | [] => .ok [] s
  | p :: ps => match s.access (some core) ctx (va + BitVec.ofNat 64 p.off) p.len .read false with
    | .trap c r s => .trap c r s
    | .wait s => .trap .commitFail (Rec.addr (va + BitVec.ofNat 64 p.off)) s
    | .ok xs s => match s.again core ctx va ps with
      | .ok ys s => .ok ((xs.map fun x => { x with off := x.off + p.off }) ++ ys) s
      | .trap c r s => .trap c r s
      | .wait s => .wait s

/-- The destination of a load, still reserved by a mark, is free again (R291). -/
def Strand.unreserve (st : Strand) (o : LoadOp) : Strand :=
  { st with
    busy := tfilter (fun _ m => m ≠ o.tok) st.busy
    vn := (st.vn.map fun (k, l) => (k, l.filter fun e => e.ready || e.tok ≠ o.tok)).filter fun x => x.2 ≠ [] }

/-- The loads that a stop cancelled replay on resumption, from the oldest on: each is translated again. A fault found then traps in
class I with EPC at the load's group, and the load and those behind it, which bind nothing, are left to the handler's return
(R69, R290, R291; log entry 122); one absorbed under IGNORE leaves the load's destination 0 and tagged (R52). -/
def State.replayLoads (s : State) (n core ctx : Nat) : List LoadOp → List LoadOp → State
  | done, [] => s.modStrand n fun st => { st with lq := done }
  | done, o :: os =>
    match s.again core ctx o.va o.full with
    | .trap c r s =>
      let o' : LoadOp := { o with parts := [], got := 0, tag := true }
      let ign := s.modStrand n fun st => { st with lq := done ++ o' :: os }
      let t := (s.modStrand n fun st => (o :: os).foldl (fun st o => st.unreserve o) { st with lq := done }).takeTrap n c r o.at_ ign
      if (t.strandAt n).any fun st => st.lq ≠ done then t.replayLoads n core ctx (done ++ [o']) os else t
    | .ok ps s => s.replayLoads n core ctx (done ++ [{ o with full := ps, parts := ps }]) os
    | .wait s => s

/-- A core takes a saved tile task (R302): its partitions and entries, the same windows, the MXE state. A core reserved for another
block takes none (R53, R276). -/
def State.takesSaved (s : State) (core : Nat) (v : Saved) : Bool :=
  let ts := s.ttsOn core
  let t := v.tt
  let dieOk := match s.blockAt t.block with
    | some b => match b.via with
      | .queue i => i / 64 = dieOfCore core
      | .pool => (maskDies b.lb.dieMask).contains (dieOfCore core)
    | none => false
  core < Config.cores && s.present core && !tget false s.energy.gated (dieOfCore core) && dieOk &&
  !s.blockParked t.block && !((s.dispAt (dieOfCore core)).reserved.any fun r => r.1 = core && r.2 ≠ t.block) &&
  v.strands.length ≤ (s.freeParts core).length &&
  ts.foldl (fun n x => n + x.entries) 0 + t.entries ≤ 1536 &&
  spmFree ts t.spmUnits (t.spmBase / 4096) && semFree ts t.semLen t.semBase &&
  (v.mxe.isNone || (s.coreAt core).mxeOwner.isNone)

/-- The windows of a saved tile task restored on a core (R302). -/
def Core.restore (c : Core) (v : Saved) (tt : Nat) : Core :=
  let t := v.tt
  let c := (upto t.semLen).foldl (fun c k =>
    let i := semNum t.semBase k
    c.modSync fun y => y.setSem i ((v.sems[i]?).getD Sem.zero)) c
  let c := { c with
    spm := tsets 0 c.spm t.spmBase v.spm
    spmTag := tsets false c.spmTag (t.spmBase / 64) v.spmTag
    spmOwner := tsets 0 c.spmOwner (t.spmBase / 4096) (List.replicate t.spmUnits (t.ctx + 1)) }
  match v.mxe with
  | none => c
  | some m => { c with
      acc := m.acc, accTag := m.accTag, scale := m.scale, scaleTag := m.scaleTag, wb := m.wb, wbTag := m.wbTag
      side := m.side, mxeOwner := some tt, mxeCtx := some t.ctx }

/-- A saved command entered again on its queue (R73, R250). -/
def State.reenterCmd (s : State) (core : Nat) (strandOf : Nat → Nat) (q : Nat) (x : Cmd) : State :=
  (s.modCore core fun c =>
    let y := { x with id := c.nextCmd, strand := strandOf x.strand, arrived := none, atE := none, order := none, resumed := true }
    { c.setQueue q (c.queue q ++ [y]) with nextCmd := c.nextCmd + 1 }).noteHead core

/-- A command put among others in the order in which they entered their queues. -/
def enterById (x : Nat × Cmd) : List (Nat × Cmd) → List (Nat × Cmd)
  | [] => [x]
  | y :: l => if x.2.id ≤ y.2.id then x :: y :: l else y :: enterById x l

/-- Saved commands in the order in which they entered their queues: they keep it as they enter again, so that what is ordered
across queues stays so (R250, R252). -/
def byId : List (Nat × Cmd) → List (Nat × Cmd)
  | [] => []
  | x :: l => enterById x (byId l)

/-- What a stop left to be replayed entered again: RELs, and the stores behind them with parts translated again (R98, R209). `first` is the number that the
first of the tile task's saved commands has taken on the core, and `ids` are the numbers that those had: each REL waits for the
commands that it waited for. -/
def Strand.replay (st : Strand) (ps : StoreOp → List Part) (first : Nat) (ids : List Nat) : Strand :=
  { st with
    sq := st.sq ++ st.sqAgain.map fun o => { o with parts := ps o }
    sqAgain := []
    rels := st.rels ++ st.relAgain.map fun r => { r with cmd := first + (ids.filter (· < r.cmd)).length }
    relAgain := [] }

/-- A saved tile task restored on a core: its state in full, its commands, the signals recorded since; it then acquires
(R250, R302). -/
def State.resumeTt (s : State) (tt core : Nat) (v : Saved) : State :=
  let t := v.tt
  let ns := ((s.freeParts core).map fun p => 8 * core + p).take v.strands.length
  let pairs := v.strands.zip ns
  let strandOf (n : Nat) : Nat := ((pairs.find? fun x => x.1.1 = n).map (·.2)).getD n
  let s := s.modWork fun w => { w with saved := tset none w.saved tt none }
  let s := s.setTt tt (some { t with core := core, strands := ns, resumes := t.resumes + 1 })
  let s := s.modCore core (·.restore v tt)
  let s := pairs.foldl (fun s x => s.setStrand x.2 (some { x.1.2.resumed with idle := true })) s
  let first := (s.coreAt core).nextCmd
  let s := (byId v.cmds).foldl (fun s x => s.reenterCmd core strandOf x.1 x.2) s
  let s := v.signals.foldl (fun s x => s.signal core (s.faultOfTt tt (some (core * 16 + 14))) (some x)) s
  let s := s.acquire core t.ctx .core none
  let s := if dieOfCore core = dieOfCore t.core then s else s.acquire core t.ctx .pkg none
  let s := ns.foldl (fun s n => s.modStrand n fun st =>
    st.replay (fun o => s.reparts core t.ctx o.va o.parts) first (v.cmds.map (·.2.id))) s
  let s := ns.foldl (fun s n => match s.strandAt n with
    | some st => s.replayLoads n core t.ctx [] st.lq
    | none => s) s
  s.modTt tt fun t => { t with killAfter := false }

/-- The rank of a saved tile task: that of its task (R270, R321). -/
def State.savedKey (s : State) (v : Saved) : Nat × Nat × Nat :=
  match s.blockAt v.tt.block with
  | some b => s.rankKey (b.graph, b.task)
  | none => (0, 0, 0)

/-- A die is being ungated, or its request waits (R324). -/
def State.ungating (s : State) : Bool := s.energy.gateQ.any (·.1) || s.energy.gateBusy.any (·.1)

/-- A tile task saved by park waits for others: the dies ungate first, and another that is due and that some core takes ranks
before it (R321; log entry 104). -/
def State.yields (s : State) (v : Saved) : Bool :=
  v.park && (s.ungating || s.work.saved.any fun x => match x.2 with
    | some y => y.park && y.due && (s.ttAt x.1).isNone && keyLt (s.savedKey y) (s.savedKey v) &&
      (upto Config.cores).any fun core => s.takesSaved core y
    | none => false)

/-- TILE_TASK_RESUME: a due tile task is restored on a core that takes it (R302, R321). -/
def execTileTaskResume (tt core : Nat) (s : State) : Out :=
  .next (
    match tget none s.work.saved tt with
    | none => s
    | some v =>
      if v.due && (s.ttAt tt).isNone && s.takesSaved core v && !s.yields v then
        let s := s.resumeTt tt core v
        s.trimSlots (dieOfCore core)
      else s)

/-! Contexts (R56, R299). -/

/-- The header of a context area (R299). -/
def areaHeader (x : CtxInit) : List Byte :=
  leBytes 4 (1 + (if x.debuggable then 16 else 0) + (if x.privileged then 32 else 0) + x.policy.toNat * 64) ++ zeros 4 ++
  leBytes 8 x.flogOff ++ leBytes 4 x.flogCap ++ zeros 4 ++ leBytes 8 x.spillOff ++ leBytes 4 x.spillCap ++ zeros 4 ++
  leBytes 8 x.heapOff ++ leBytes 8 x.heapSize ++ zeros (4096 - 0x38)

/-- The management core may create a context: PT has been set or runs free, the number is free, and the area is laid out as
R299 asks (R56). -/
def State.mayCreate (s : State) (ctx : Nat) (x : CtxInit) : Bool :=
  (s.time.stepped || (s.time.waitOver && !s.time.sawLock)) && ctx < 64 && (s.ctxAt ctx).isNone && !s.host.recovery &&
  x.area % 4096 = 0 && x.flogOff % 64 = 0 && x.heapOff % 4096 = 0 && x.root0.toNat % 4096 = 0 && x.root1.toNat % 4096 = 0

/-- CONTEXT_CREATE: a context with its area, its policies and its registers, once traffic crosses to the homes of the area (R88, R299,
R304, R333). -/
def execContextCreate (ctx : Nat) (x : CtxInit) (s : State) : Out :=
  .next (
    if !s.mayCreate ctx x || !s.reachesAll cd x.area 4096 then s
    else
      let c : Ctx :=
        { privileged := x.privileged, debuggable := x.debuggable, policy := policyOf x.policy.toNat
          limit := 0, ceiling := x.ceiling, commit := 0, root0 := x.root0, root1 := if x.privileged then x.root1 else 0
          mbBase := 0, mbCount := 0, trtfb := 0, flogOff := x.flogOff, flogCap := x.flogCap, spillOff := x.spillOff
          spillCap := x.spillCap, heapOff := x.heapOff, heapSize := x.heapSize, spill := [], spillHead := 0, spillResv := 0
          heapUsed := 0
          flogWait := [], spillWait := false
          parked := false, killing := false, armed := false, misses := 0, escrow := none }
      let s := (s.modMem fun m => { m with
        areas := tset 0 m.areas ctx (BitVec.ofNat 64 x.area)
        masks := tfilter (fun k _ => k % 64 ≠ ctx) m.masks }).setCtx ctx (some c)
      s.homeWriteAll ctx x.area (whole (areaHeader x)) false)

/-- FAULT_LOG_DRAIN: the management core has read the log and lowers flog_count, at the home of the header (R311, R333). -/
def execFaultLogDrain (ctx count : Nat) (s : State) : Out :=
  .next (
    match s.ctxAt ctx with
    | none => s
    | some _ =>
      let a := (tget 0 s.mem.areas ctx).toNat + 0x14
      let n := s.mem.readNat a 4
      if !s.reachesAll cd a 4 then s
      else s.homeWrite ctx a (whole (leBytes 4 (min count n))) false)

end Sys2Proof.Machine
end

