-- ==== Sys2Proof/Machine/Debug.lean ====
section
/-! DEFINITION. Machine/Debug.lean: debug stops (R305), dumps (R307) and triggers (R308-R310). -/
namespace Sys2Proof.Machine

/-- The context is debuggable (R304). -/
def State.debuggable (s : State) (ctx : Nat) : Bool := ((s.ctxAt ctx).map (·.debuggable)).getD false

/-- DEBUG_STOP: a debuggable context stops at a consistent cut, or, for a number from 64 on, the stop is armed to the next BRK of
the context 64 below (R304, R305, R306; log entry 101). -/
def execDebugStop (ctx : Nat) (s : State) : Out :=
  .next (
    if !s.debuggable (ctx % 64) || 128 ≤ ctx then s
    else if 64 ≤ ctx then s.modCtx (ctx % 64) fun c => { c with armed := true }
    else s.debugStop ctx)

/-- DUMP: the management core reads the header, the fault log, the spill list and the save records of a stopped context, at their
homes, once traffic crosses to them (R304, R307, R333). -/
def execDump (ctx : Nat) (s : State) : Out :=
  .next (
    match s.ctxAt ctx with
    | none => s
    | some c =>
      let runs := s.work.tts.any fun x => (x.2.map (·.ctx)) = some ctx
      let a := (tget 0 s.mem.areas ctx).toNat
      let ranges := [(a, 4096), (a + c.flogOff, 64 * c.flogCap), (a + c.spillOff, 16 * c.spillCap)] ++
        s.work.saved.filterMap fun x => x.2.bind fun v =>
          if v.tt.ctx = ctx then some (s.heapBase ctx + v.heapAt, v.size) else none
      if !c.debuggable || runs || ranges.any (fun r => s.rangeHeld false r.1 r.2) then s
      else
        (ranges.foldl (fun s r => s.touchLines r.1 r.2) s).modDebug fun d =>
          { d with dumped := (ranges.map fun r => (s.mem.read r.1 r.2).1).flatten })

/-! Triggers. -/

/-- The context of a head of a core; of a strand that has left its partition in this clock, that of its trap (R308). -/
def State.headCtx (s : State) (core h : Nat) : Option Nat :=
  if h < 8 then
    ((s.strandAt (8 * core + h)).bind fun st => (s.ttAt st.tt).map (·.ctx)).orElse fun _ =>
      (s.dbg.traps.find? fun x => x.1 = 8 * core + h).map fun x => x.2.2
  else (((s.coreAt core).queue (h - 8)).head?).map (·.ctx)

/-- The position of a head (R305). -/
def State.headPos (s : State) (core h : Nat) : Nat :=
  if h < 8 then ((s.strandAt (8 * core + h)).map (·.groups)).getD 0 else tget 0 (s.coreAt core).starts h

/-- An event of TRIGSTART or TRIGSTOP holds at a head now (R308). A trap counts on the clock on which it is taken, to a handler
or to containment. -/
def State.eventHolds (s : State) (core h : Nat) (v : W64) : Bool :=
  let x := fieldOf v 8 56
  let st := if h < 8 then s.strandAt (8 * core + h) else none
  match fieldOf v 0 8 with
  | 1 => true
  | 2 => st.any fun st => st.pc.toNat = 4 * x
  | 3 => decide (h < 8) && s.dbg.traps.any fun t => t.1 = 8 * core + h && t.2.1.toNat = x % 256
  | 4 => (s.headClass core h).num = x % 4
  | 5 => s.headClass core h = .waitFlag (x % 256)
  | 6 => decide (256 * x ≤ s.pt (dieOfCore core))
  | _ => false

/-- A trace or sample record of a head (R310). -/
def State.traceRec (s : State) (t core h : Nat) (ctx : Nat) : TraceRec where
  pt := s.pt (dieOfCore core)
  num := if h < 8 then 8 * core + h else ctx
  queue := core * 16 + h
  position := s.headPos core h
  pc := if h < 8 then ((s.strandAt (8 * core + h)).map (·.pc)).getD 0 else 0
  cls := (s.headClass core h).num
  flag := match s.headClass core h with
    | .waitFlag n => n
    | _ => 0
  trigger := t

/-- A record enters the trace buffer of its die, or is counted as dropped (R310). -/
def State.trace (s : State) (die : Nat) (r : TraceRec) : State :=
  s.modDebug fun d =>
    let l := tget [] d.trace die
    if l.length < 2048 then { d with trace := tset [] d.trace die (l ++ [r]) }
    else { d with drop := tmod 0 d.drop die fun n => min (n + 1) (2 ^ 32 - 1) }

/-- A trigger. -/
def State.triggerAt (s : State) (t : Nat) : Trigger := tget Trigger.init s.dbg.triggers t

/-- A trigger changed. -/
def State.modTrigger (s : State) (t : Nat) (f : Trigger → Trigger) : State :=
  s.modDebug fun d => { d with triggers := tmod Trigger.init d.triggers t f }

/-- PT of the watched core has crossed a multiple of the sample period on this clock, which has given no sample yet (R308,
R309). -/
def Trigger.crosses (x : Trigger) (before pt : Nat) : Bool :=
  let p := fieldOf x.sel 32 32
  p ≠ 0 && decide (before / p < pt / p) && x.lastSample ≠ pt

/-- TRIGGER_MATCH: a trigger is evaluated on a clock of its core (R304, R309, R310). A head with no work is of no context, and
any trigger may watch it (log entry 102). -/
def execTriggerMatch (t : Nat) (s : State) : Out :=
  .next (
    let x := s.triggerAt t
    let core := fieldOf x.sel 0 8
    let h := fieldOf x.sel 8 4
    let ctx := fieldOf x.ctl 3 6
    let action := fieldOf x.ctl 1 2
    let die := dieOfCore core
    let pt := s.pt die
    if 7 < t || fieldOf x.ctl 0 1 = 0 || action = 3 || 14 < h || !s.debuggable ctx ||
        (s.headCtx core h).any (· ≠ ctx) then s
    else
      let on := x.active || s.eventHolds core h x.start
      let rec_ := on && (action ≠ 2 || x.crosses (tget 0 s.dbg.before die) pt)
      let s := s.modTrigger t fun y => { y with
        active := on && !s.eventHolds core h x.stop && action ≠ 1, lastSample := if rec_ then pt else y.lastSample }
      if !rec_ then s
      else if action = 1 then s.debugStop ctx
      else s.trace die (s.traceRec t core h ctx))

/-- A trigger with the stop action and the event "pc equals" stops the context before the group at that pc issues (R306): the
context that it stops. -/
def State.pcStop (s : State) (n : Nat) (st : Strand) : Option Nat :=
  ((upto 8).find? fun t =>
    let x := s.triggerAt t
    fieldOf x.ctl 0 1 = 1 && fieldOf x.ctl 1 2 = 1 && fieldOf x.sel 0 8 = coreOfStrand n && fieldOf x.sel 8 4 = n % 8 &&
    fieldOf x.start 0 8 = 2 && st.pc.toNat = 4 * fieldOf x.start 8 56 && s.debuggable (fieldOf x.ctl 3 6) &&
    (s.ttAt st.tt).any fun y => y.ctx = fieldOf x.ctl 3 6).map fun t => fieldOf (s.triggerAt t).ctl 3 6

end Sys2Proof.Machine
end

