-- ==== Sys2Proof/Machine/Crypto.lean ====
section
/-! DEFINITION. Machine/Crypto.lean: SHA-384, and the verification of ECDSA signatures on the curve brainpoolP384r1 of
RFC 5639 (R316, R317, R325, R326). The figures of both are those of the standards that the manual names. -/
namespace Sys2Proof.Machine

/-! SHA-384. Its constants are computed from what defines them, roots of the first primes. -/

/-- A prime below 441: no number up to 20 other than 1 and itself divides it. -/
def isSmallPrime (n : Nat) : Bool := 2 ≤ n && (upto 21).all fun d => d < 2 || n ≤ d || n % d ≠ 0

/-- The first eighty primes, in order. -/
def firstPrimes : List Nat := (upto 410).filter isSmallPrime

/-- The largest number whose `k`-th power is at most `y`: `x` and what its low n bits may still add. -/
def rootFrom (k y : Nat) : Nat → Nat → Nat
  | 0, x => x
  | n + 1, x => rootFrom k y n (if (x + 2 ^ n) ^ k ≤ y then x + 2 ^ n else x)

/-- The first 64 bits of the fractional part of the k-th root of a small number. -/
def rootFraction (k x : Nat) : W64 := BitVec.ofNat 64 (rootFrom k (x * 2 ^ (64 * k)) 72 0)

/-- The eighty round constants: from cube roots. -/
def roundConstants : List W64 := firstPrimes.map (rootFraction 3)

/-- The initial hash value: from the square roots of the ninth to the sixteenth prime. -/
def initialHash : List W64 := ((firstPrimes.drop 8).take 8).map (rootFraction 2)

/-- A word rotated to the right by each of two distances and changed once more, the three joined by exclusive or. -/
def mixWith (i j : Nat) (last : W64 → W64) (x : W64) : W64 := last x ^^^ x.rotateRight j ^^^ x.rotateRight i

/-- What a round makes of the two halves of the working variables, newest value first, and the sum of its constant and its
word of the schedule. -/
def hashRound (halves : List W64 × List W64) (kw : W64) : List W64 × List W64 :=
  match halves with
  | ([p0, p1, p2, p3], [q0, q1, q2, q3]) =>
    let choose := q2 ^^^ (q0 &&& (q1 ^^^ q2))
    let majority := (p0 &&& p1) ||| (p2 &&& (p0 ||| p1))
    let step := kw + q3 + choose + mixWith 14 18 (·.rotateRight 41) q0
    ([step + majority + mixWith 28 34 (·.rotateRight 39) p0, p0, p1, p2], [p3 + step, q0, q1, q2])
  | x => x

/-- The word of the schedule that follows sixteen words, newest first. -/
def nextScheduled (recent : List W64) : W64 :=
  match recent[15]?, recent[14]?, recent[6]?, recent[1]? with
  | some w16, some w15, some w7, some w2 => w16 + w7 + mixWith 1 8 (· >>> 7) w15 + mixWith 19 61 (· >>> 6) w2
  | _, _, _, _ => 0

/-- A big-endian number. -/
def beNat (bs : List Byte) : Nat := leNat bs.reverse

/-- A number as n bytes, big-endian. -/
def beBytes (n x : Nat) : List Byte := (leBytes n x).reverse

/-- The compression of a block of 128 bytes: each round takes the oldest of the sixteen words in view and puts the next word
of the schedule after the newest. -/
def compress (hash : List W64) (block : List Byte) : List W64 :=
  let first := (upto 16).map fun i => BitVec.ofNat 64 (beNat ((block.drop (8 * (15 - i))).take 8))
  let start := (hash.take 4, hash.drop 4)
  let halves := (roundConstants.foldl (fun (x : (List W64 × List W64) × List W64) k =>
    (hashRound x.1 (k + (x.2[15]?).getD 0), nextScheduled x.2 :: x.2.take 15)) (start, first)).1
  List.zipWith (· + ·) hash (halves.1 ++ halves.2)

/-- A message padded to whole blocks. -/
def shaPad (m : List Byte) : List Byte :=
  m ++ 0x80 :: zeros ((239 - m.length % 128) % 128) ++ beBytes 16 (8 * m.length)

/-- The SHA-384 digest of a message, as 48 bytes. -/
def sha384 (m : List Byte) : List Byte :=
  let p := shaPad m
  let hash := (upto (p.length / 128)).foldl (fun h i => compress h (p.drop (128 * i))) initialHash
  ((hash.take 6).map fun x => beBytes 8 x.toNat).flatten

/-! ECDSA on brainpoolP384r1. -/

/-- The field prime. -/
def curveP : Nat := 0x8CB91E82A3386D280F5D6F7E50E641DF152F7109ED5456B412B1DA197FB71123ACD3A729901D1A71874700133107EC53
/-- The coefficient of x. -/
def curveA : Nat := 0x7BC382C63D8C150C3C72080ACE05AFA0C2BEA28E4FB22787139165EFBA91F90F8AA5814A503AD4EB04A8C7DD22CE2826
/-- The constant coefficient. -/
def curveB : Nat := 0x04A8C7DD22CE28268B39B55416F0447C2FB77DE107DCD2A62E880EA53EEB62D57CB4390295DBC9943AB78696FA504C11
/-- The order of the base point. -/
def curveQ : Nat := 0x8CB91E82A3386D280F5D6F7E50E641DF152F7109ED5456B31F166E6CAC0425A7CF3AB6AF6B7FC3103B883202E9046565
/-- The base point. -/
def curveG : Nat × Nat :=
  (0x1D1C64F068CF45FFA2A63A81B7C13F6B8847A3E77EF14FE3DB7FCAFE0CBD10E8E826E03436D646AAEF87B2E247D4AF1E,
   0x8ABE1D7520F9C2A45CB1EB8E95CFD55262B70B29FEEC5864E19C054FF99129280E4646217791811142820341263C5315)

/-- A power modulo m, over the low n bits of the exponent. -/
def powMod (m : Nat) : Nat → Nat → Nat → Nat
  | 0, _, _ => 1
  | n + 1, x, e => (if e % 2 = 1 then x else 1) * powMod m n (x * x % m) (e / 2) % m

/-- The inverse modulo a prime of 384 bits. -/
def invMod (m x : Nat) : Nat := powMod m 384 (x % m) (m - 2)

/-- A difference modulo the field prime. -/
def subP (x y : Nat) : Nat := (x + curveP - y % curveP) % curveP

/-- The sum of two points; none is the point at infinity. -/
def pointAdd : Option (Nat × Nat) → Option (Nat × Nat) → Option (Nat × Nat)
  | none, y => y
  | x, none => x
  | some (x1, y1), some (x2, y2) =>
    if x1 = x2 && (y1 + y2) % curveP = 0 then none
    else
      let l := if x1 = x2 then (3 * x1 * x1 + curveA) * invMod curveP (2 * y1) % curveP
        else subP y2 y1 * invMod curveP (subP x2 x1) % curveP
      let x3 := subP (l * l) (x1 + x2)
      some (x3, subP (l * subP x1 x3) y1)

/-- A multiple of a point, over the low n bits of the factor. -/
def pointMul : Nat → Nat → Option (Nat × Nat) → Option (Nat × Nat)
  | 0, _, _ => none
  | n + 1, k, x =>
    let r := pointMul n (k / 2) (pointAdd x x)
    if k % 2 = 1 then pointAdd x r else r

/-- A point other than that at infinity lies on the curve. -/
def onCurve (x : Nat × Nat) : Bool :=
  x.1 < curveP && x.2 < curveP && x.2 * x.2 % curveP = (x.1 * x.1 * x.1 + curveA * x.1 + curveB) % curveP

/-- The digest of a message as the number that is signed. -/
def digestNat (m : List Byte) : Nat := beNat (sha384 m)

/-- A scalar of the curve: 1 to the order less 1. -/
def scalarOf (x : Nat) : Nat := 1 + x % (curveQ - 1)

/-- The public key of the device: the multiple of the base point by its private key (R325). -/
def deviceKey : Nat × Nat := (pointMul 384 (scalarOf Config.devicePrivate) (some curveG)).getD (0, 0)

/-- The signature of the device on a message: r and s (R327). The nonce is the device's; one that gives r or s 0 is left for
the next, of which `tries` are at hand. -/
def signFrom (n : Nat) (m : List Byte) : Nat → Nat × Nat
  | 0 => (0, 0)
  | tries + 1 =>
    let k := scalarOf (Config.nonce n tries)
    let r := ((pointMul 384 k (some curveG)).getD (0, 0)).1 % curveQ
    let s := invMod curveQ k * (digestNat m + r * scalarOf Config.devicePrivate) % curveQ
    if r = 0 || s = 0 then signFrom n m tries else (r, s)

/-- The signature that the device makes when it has made n before: it verifies under the device's key (R327). -/
def deviceSign (n : Nat) (m : List Byte) : Nat × Nat := signFrom n m 16

/-- A signature over a message verifies under a public key. -/
def verifies (key : Nat × Nat) (m : List Byte) (r s : Nat) : Bool :=
  if !onCurve key || r = 0 || s = 0 || curveQ ≤ r || curveQ ≤ s then false
  else
    let w := invMod curveQ s
    let e := digestNat m
    match pointAdd (pointMul 384 (e * w % curveQ) (some curveG)) (pointMul 384 (r * w % curveQ) (some key)) with
    | some x => x.1 % curveQ = r
    | none => false

/-- The device id: the first 16 bytes of the digest of the device's public key in uncompressed form, as the record holds
it (R325). -/
def deviceId : List Byte :=
  (sha384 (0x04 :: beBytes 48 deviceKey.1 ++ beBytes 48 deviceKey.2)).take 16

end Sys2Proof.Machine
end

