-- ==== Sys2Proof/Machine/Energy.lean ====
section
/-! DEFINITION. Machine/Energy.lean: the budget curve (R316, R317), the re-plan and the meters (R318-R320), the grades and
their actions (R321-R323), parked contexts (R322). -/
namespace Sys2Proof.Machine

/-! The curve (R317). -/

/-- Interpolation between two points, rounded toward zero. -/
def between (a b : Nat × Nat) (t : Nat) : Nat :=
  (((a.2 : Int) * ((b.1 : Int) - a.1) + ((b.2 : Int) - a.2) * ((t : Int) - a.1)).tdiv ((b.1 : Int) - a.1)).toNat

/-- The value of points at a time: that of the first point before it, of the last after it. -/
def pointsAt (t : Nat) : List (Nat × Nat) → Nat
  | [] => 3000
  | [a] => a.2
  | a :: b :: l => if t ≤ a.1 then a.2 else if t < b.1 then between a b t else pointsAt t (b :: l)

/-- The value of a record at a time: after valid_to it is the last value, while no newer record has been accepted (R317; log entry 76). -/
def Curve.at_ (c : Curve) (newer : Bool) (t : Nat) : Nat :=
  if c.validTo < t && !newer then ((c.points.getLast?).map (·.2)).getD 3000 else pointsAt t c.points

/-- The record in force at a time: the accepted record of highest sequence whose time of effect has come. -/
def State.curveIn (s : State) (t : Nat) : Option Curve :=
  (s.energy.pending.filter fun c => c.effect ≤ t).foldl (fun m c => match m with
    | some x => if x.seq < c.seq then some c else m
    | none => some c) s.energy.curve

/-- c(t): 3,000 W until a record has been accepted since power-on (R317). -/
def State.curveAt (s : State) (t : Nat) : Nat :=
  match s.curveIn t with
  | some c => c.at_ (s.energy.pending.any fun x => c.seq < x.seq) t
  | none => 3000

/-- The threshold of a grade at a time: 0 without a record (R317, R321). -/
def State.threshold (s : State) (g t : Nat) : Nat :=
  match s.curveIn t with
  | some c => if g = 1 then c.tslow else if g = 2 then c.tpark else c.tshed
  | none => 0

/-! Tasks in the plan (R318). -/

/-- Every task of every graph in flight that a test accepts, in rank order (R270, R318). -/
def State.ranked (s : State) (p : Task → Bool) : List (Nat × Nat) :=
  let all := (s.work.graphs.map fun x => match x.2 with
    | some g => (g.tasks.zipIdx.filter fun t => p t.1).map fun t => (x.1, t.2)
    | none => []).flatten
  all.foldl (fun l x => s.rankInsert x l) []

/-- The format of an entry of a task. -/
def Task.formatOf (x : Task) (i : Nat) : Nat := opFormat ((x.info.ops[i]?).getD 0)

/-- The next entry of the task's format, which a task of class 0 takes up to its floor (R314, R315, R318). -/
def Task.lower (x : Task) : Option Nat :=
  ((upto x.info.ops.length).find? fun j => x.entry < j && x.formatOf j = x.formatOf x.entry).filter
    fun j => x.info.cls ≠ 0 || j ≤ x.info.floor

/-- The entry before the present one of the task's format. -/
def Task.raise_ (x : Task) : Option Nat :=
  (upto x.entry).reverse.find? fun j => x.formatOf j = x.formatOf x.entry

/-- A task given another entry, with q as it is then. -/
def State.setEntry (s : State) (g t i : Nat) (q : Int) : State × Int :=
  match s.taskAt g t with
  | some x => (s.modTask g t fun x => { x with entry := i }, q - s.est g t x.entry + s.est g t i)
  | none => (s, q)

/-- The lowering loop: while q is above the target the lowerable task that ranks last is lowered (R318). -/
def State.lowerAll (s : State) (ts : List (Nat × Nat)) (target : Int) : Nat → Int → State × Int
  | 0, q => (s, q)
  | n + 1, q =>
    if q ≤ target then (s, q)
    else match ts.reverse.findSome? fun x => ((s.taskAt x.1 x.2).bind Task.lower).map fun i => (x, i) with
      | some (x, i) =>
        let y := s.setEntry x.1 x.2 i q
        y.1.lowerAll ts target n y.2
      | none => (s, q)

/-- The raising pass, in rank order (R318). -/
def State.raiseAll (s : State) (target : Int) : List (Nat × Nat) → Int → State × Int
  | [], q => (s, q)
  | (g, t) :: ts, q =>
    match (s.taskAt g t).bind fun x => x.raise_.map fun i => (x, i) with
    | some (x, i) =>
      if q - s.est g t x.entry + s.est g t i ≤ target then
        let y := s.setEntry g t i q
        y.1.raiseAll target ts y.2
      else s.raiseAll target ts q
    | none => s.raiseAll target ts q

/-- Watts of tasks at entries, by the firmware's estimates (R318). -/
def State.estOver (s : State) (ts : List (Nat × Nat)) (entry : Task → Nat) : Nat :=
  ts.foldl (fun n x => n + match s.taskAt x.1 x.2 with
    | some y => s.est x.1 x.2 (entry y)
    | none => 0) 0

/-- trim after a step: rounded toward zero, within a twentieth of c either way; without a sample it is not corrected (R318,
log entry 26). -/
def nextTrim (trim : Int) (c : Nat) (samples : List Nat) : Int :=
  let n := samples.length
  let x := if n = 0 then trim else
    (trim * (8 * n) + (c : Int) * n - (samples.foldl (· + ·) 0 : Nat)).tdiv (8 * n)
  max (-(c / 20 : Nat)) (min (c / 20 : Nat) x)

/-- The re-plan, once the firmware has started the BSU (R318). -/
def State.replan (s : State) : State :=
  if !s.energy.started then s
  else
    let now := s.pt cd
    let trim := nextTrim s.energy.trim (s.curveAt now) (s.energy.hist.map (·.1))
    let target : Int := s.curveAt (now + 100000) + trim
    let ts := s.ranked Task.counts
    let q : Int := s.energy.idle + (s.estOver ts (·.entry) : Nat)
    let a := s.lowerAll ts target (8 * ts.length) q
    let b := a.1.raiseAll target ts a.2
    b.1.modEnergy fun e => { e with trim := trim, headroom := target - b.2 }

/-- REPLAN: the firmware starts the BSU while no task is admitted, and the BSU re-plans on every multiple of 100,000 ns from
then on (R318). -/
def execReplan (s : State) : Out :=
  .next (
    if !s.energy.started then
      if s.host.recovery then s else (s.modEnergy fun e => { e with started := true }).replan
    else if s.time.base % 100000 = 0 then s.replan
    else s)

/-! The meters and the band (R318, R319). -/

/-- The window is exempt at this sample: c lies below the firm floor power, or above what the admitted and ready work would
draw at its first-choice entries (R319). -/
def State.outOfReach (s : State) (c : Nat) : Bool :=
  let firm := s.energy.idle + s.estOver (s.ranked fun x => x.counts && x.info.cls = 0) (·.info.floor)
  let full := s.energy.idle + s.estOver (s.ranked fun x => x.counts || x.st = .ready) fun _ => 0
  decide (c < firm) || decide (full < c)

/-- c has changed by more than 2 % against a sample of the last 100 µs (R319). -/
def stepped (c : Nat) (h : List Nat) : Bool :=
  h.any fun x => decide (2 * x < 100 * (c - x)) || decide (2 * x < 100 * (x - c))

/-- c lies below 102 % of the threshold of a grade at an instant, both of the record in force then (R321). -/
def State.isLow (s : State) (g t : Nat) : Bool := decide (100 * s.curveAt t < 102 * s.threshold g t)

/-- A number put in its place in an ascending list. -/
def insertNat (x : Nat) : List Nat → List Nat
  | [] => [x]
  | y :: l => if x ≤ y then x :: y :: l else y :: insertNat x l

/-- The instants of an interval between two of which c is of one record and does not turn: the points, the valid_to and the time
of effect of the records accepted, with the instants beside them (R317). -/
def State.turnsIn (s : State) (a b : Nat) : List Nat :=
  ((s.energy.curve.toList ++ s.energy.pending).map fun c =>
    c.validTo :: (c.validTo + 1) :: (c.effect - 1) :: c.effect :: c.points.map (·.1)).flatten.filter (fun t => a < t && t < b)

/-- Between two instants, low at the first and not low at the second, the last that is low; `n` halvings suffice for a
distance below 2^n. -/
def State.lastLowBetween (s : State) (g : Nat) : Nat → Nat → Nat → Nat
  | 0, a, _ => a
  | n + 1, a, b =>
    let m := (a + b) / 2
    if s.isLow g m then s.lastLowBetween g n m b else s.lastLowBetween g n a m

/-- The last low instant from one on to the last of the list, whose members ascend. -/
def State.lastLow (s : State) (g : Nat) : Nat → List Nat → Option Nat
  | a, [] => if s.isLow g a then some a else none
  | a, b :: l => match s.lastLow g b l with
    | some t => some t
    | none => if s.isLow g a then some (s.lastLowBetween g 64 a b) else none

/-- Since when c has stood at or above 102 % of each threshold without a break, up to this moment: every instant since the last
note counts (R321). -/
def State.noteAbove (s : State) : State :=
  let now := s.pt cd
  let from_ := min s.energy.noted now
  let path := (s.turnsIn from_ now).foldl (fun l t => insertNat t l) (if from_ < now then [now] else [])
  s.modEnergy fun e => { e with
    noted := now
    above := [1, 2, 3].foldl (fun t g => tset none t g (match s.lastLow g from_ path with
      | some x => if x = now then none else some (x + 1)
      | none => some ((tget none e.above g).getD from_))) e.above }

/-- METER_SAMPLE: the meters' sum, with the firmware's model as it stands then (R318, R319, R321). -/
def execMeterSample (power idle : Nat) (est : List (Nat × Nat × Nat × Nat)) (s : State) : Out :=
  .next (
    if s.time.base % 1000 ≠ 0 then s
    else
      let now := s.pt cd
      let c := s.curveAt now
      let s := s.modEnergy fun e => { e with idle := idle, est := est }
      let out := s.outOfReach c
      (s.modEnergy fun e => { e with
        winP := e.winP + power, winC := e.winC + c, winN := e.winN + 1
        winExempt := e.winExempt || out
        hist := ((power, c) :: e.hist).take 100
        lastStep := if stepped c (e.hist.map (·.2)) then some now else e.lastStep }).noteAbove)

/-- The mean of p lies within a band about the mean of c: a share of it in 0.1 %, or some watts, the larger (R319). -/
def inBand (p c n share watts : Nat) : Bool :=
  let d := ((p : Int) - c).natAbs
  decide (1000 * d ≤ share * c) || decide (d ≤ watts * n)

/-- POWER_WINDOW_END: the window that ends on a multiple of 1,000,000 ns is checked, and the next begins (R319, R320). -/
def execPowerWindowEnd (s : State) : Out :=
  .next (
    if s.time.base % 1000000 ≠ 0 then s
    else
      let now := s.pt cd
      let e := s.energy
      let count := decide (0 < e.winN) && !e.winExempt
      let dev := count && !inBand e.winP e.winC e.winN 20 20
      let fac := count && match s.curveIn now with
        | some c => !inBand e.winP e.winC e.winN c.band c.bandFloor
        | none => false
      let sat (n : Nat) (up : Bool) : Nat := if up then min (n + 1) (2 ^ 32 - 1) else n
      s.modEnergy fun e => { e with
        powerMean := if e.winN = 0 then e.powerMean else e.winP / e.winN
        curveMean := if e.winN = 0 then e.curveMean else e.winC / e.winN
        bandDev := sat e.bandDev dev, bandFac := sat e.bandFac fac
        winP := 0, winC := 0, winN := 0
        winExempt := match e.lastStep with
          | some t => decide (now < t + 2000000)
          | none => false })

/-- PWRBAND_CLEAR: a write clears both counts (R320). -/
def execPwrbandClear (s : State) : Out := .next (s.modEnergy fun e => { e with bandDev := 0, bandFac := 0 })

/-! Curve records (R316, R317, R345). -/

/-- The points of a record. -/
def curvePoints (d : List Byte) (n : Nat) : List (Nat × Nat × Nat) :=
  (upto n).map fun k => (recF d (0x80 + 16 * k) 8, recF d (0x88 + 16 * k) 4, recF d (0x8C + 16 * k) 4)

/-- PT ascends strictly over points. -/
def ascending : List (Nat × Nat × Nat) → Bool
  | a :: b :: l => a.1 < b.1 && ascending (b :: l)
  | _ => true

/-- The first check of R317 that a record fails, or the record. -/
def State.checkCurve (s : State) (d : List Byte) : Nat ⊕ Curve :=
  let ctl := recF d 4 4
  let n := bits ctl 8 8 + 1
  let slot := bits ctl 4 2
  let pts := curvePoints d n
  let seq := recF d 0x28 8
  let validFrom := recF d 0x30 8
  let validTo := recF d 0x38 8
  let slow := recF d 0x44 4
  let park := recF d 0x48 4
  let shed := recF d 0x4C 4
  let key := s.host.cfg.facilities.find? fun f => f.slot = slot
  let body := d.take (0x80 + 16 * n)
  if d.length ≠ 224 + 16 * n || recF d 0 4 ≠ 0x4B435256 || bits ctl 0 4 ≠ 1 then .inl 1
  else if bits ctl 6 2 ≠ 0 || bits ctl 16 16 ≠ 0 || !recZero d 0x50 48 || pts.any (fun p => p.2.2 ≠ 0) || slow < park ||
      park < shed || validTo ≤ validFrom || !ascending pts then .inl 2
  else match key with
    | none => .inl 3
    | some f =>
      if f.id ≠ recF d 8 16 then .inl 3
      else if (d.drop 0x18).take 16 ≠ deviceId then .inl 4
      else if !verifies (f.keyX, f.keyY) body (beNat ((d.drop (0x80 + 16 * n)).take 48))
          (beNat ((d.drop (0xB0 + 16 * n)).take 48)) then .inl 5
      else if seq ≤ s.energy.accepted then .inl 6
      else if validTo ≤ s.pt cd then .inl 7
      else .inr ⟨slot, seq, validFrom, validTo, recF d 0x40 2, recF d 0x42 2, slow, park, shed,
        pts.map fun p => (p.1, p.2.1), max validFrom (s.pt cd)⟩

/-- A message leaves the management port. -/
def State.reply (s : State) (m : Message) : State := s.modHost fun h => { h with sent := h.sent ++ [m] }

/-- A management message: the sequence and the payload of a datagram of a type. A datagram with a malformed header, with a length
that disagrees, of another type or of more than 8 KiB is discarded (R345; log entry 85). -/
def messageOf (type : Nat) (d : List Byte) : Option (Nat × List Byte) :=
  if d.length < 16 || 8192 < d.length || recF d 0 4 ≠ 0x4B4D4731 || recF d 4 2 ≠ type || recF d 6 2 ≠ 0 ||
      recF d 12 4 ≠ d.length - 16 then none
  else some (recF d 8 4, d.drop 16)

/-- CURVE_RECORD: a message of type 1 is checked, and answered with a curve reply (R317, R345). -/
def execCurveRecord (header record : List Byte) (sender : Nat) (s : State) : Out :=
  .next (
    match messageOf 1 (header ++ record) with
    | none => s
    | some (seq, data) =>
      if s.host.recovery then s
      else match s.checkCurve data with
        | .inl n => s.reply (.curveReply sender seq n 0)
        | .inr c =>
          (s.noteAbove.modEnergy fun e => { e with
            pending := e.pending ++ [c], accepted := c.seq, anyAccepted := true, sender := some sender }).reply
              (.curveReply sender seq 0 c.seq))

/-- CURVE_TAKE_EFFECT: accepted records whose time has come: the highest takes effect unless a higher one is in force, and
the BSU re-plans (R317, R318). -/
def execCurveTakeEffect (s : State) : Out :=
  .next (
    let now := s.pt cd
    let due (c : Curve) : Bool := decide (c.effect ≤ now)
    if !(s.energy.pending.any due) then s
    else
      let c := s.curveIn now
      let changed := (c.map (·.seq)) ≠ s.energy.curve.map (·.seq)
      let s := (s.noteAbove.modEnergy fun e => { e with curve := c, pending := e.pending.filter fun c => !due c }).noteAbove
      if changed then s.replan else s)

/-! The pages of a parked context (R322). -/

/-- A page of 64 KiB moved to a frame, with what stands beside its bytes. -/
def State.movePage (s : State) (frame target : Nat) : State :=
  (((s.moveQueues frame target).zeroFrame target 65536).touchChannel frame).modMem fun m => { m.moveFrame frame target with frames := m.frames }

/-- A page moved to the first free frame of its size of a die, in the park tier where that die is the SFD (R322): where that frame
lies, or none when there is none. -/
def State.relocate (s : State) (die lvl pa : Nat) : Option (Nat × State) :=
  let k := 4 * die + lvl
  let l := tget [] s.mem.pool k
  match l.find? fun f => die ≠ sfd || f < cxlBase with
  | none => none
  | some f =>
    let s := s.modMem fun m => { m with pool := tset [] m.pool k (l.filter (· ≠ f)) }
    some (f, (upto (2 ^ pageLog lvl / 65536)).foldl (fun s i => s.movePage (pa + 65536 * i) (f + 65536 * i)) s)

/-- A leaf entry with another frame and home. -/
def pteMoved (e : W64) (frame home : Nat) : W64 :=
  BitVec.ofNat 64 (e.toNat - pteF e 16 36 * 65536 + frame - pteF e 12 4 * 2 ^ 12 + home * 2 ^ 12)

/-- Committed leaves of a context's tables with park = 1 (R80, R322). -/
def State.parkLeaves (s : State) (c : Ctx) : List (Nat × Nat × W64) :=
  ((([c.root0.toNat, c.root1.toNat]).filter (· ≠ 0)).map (tableEntries s.mem 4)).flatten.filter fun x =>
    mapsMemory x.2.2 && pteF x.2.2 52 2 = 1

/-- Pages moved to other homes, each entry rewritten; none when a pool has no frame for one of them. -/
def State.relocateAll (s : State) (die : Nat × W64 → Nat) : List (Nat × Nat × W64) → Option State
  | [] => some s
  | (lvl, at_, e) :: l =>
    let d := die (at_, e)
    match s.relocate d lvl (entryTarget e) with
    | some (f, s) => (s.homeWrite8 64 at_ (pteMoved e f d)).relocateAll die l
    | none => none

/-- Tile tasks of a context run, or are being saved. -/
def State.ctxRuns (s : State) (ctx : Nat) : Bool := s.work.tts.any fun x => (x.2.map (·.ctx)) = some ctx

/-- A fully parked context's pages with park = 1 go to frames of the park tier (R322). -/
def State.escrow (s : State) (ctx : Nat) (c : Ctx) : State :=
  let ls := s.parkLeaves c
  match s.relocateAll (fun _ => sfd) ls with
  | none => s
  | some s => (s.modCtx ctx fun c => { c with escrow := some (ls.map fun x => (x.2.1, pteF x.2.2 12 4)) }).dropTlb
      fun t => t.ctx = ctx

/-- The pages of a context return from escrow to free frames of their homes (R322). -/
def State.bringBack (s : State) (ctx : Nat) (l : List (Nat × Nat)) : Option State :=
  match s.ctxAt ctx with
  | none => none
  | some c =>
    let homeOf (at_ : Nat) : Nat := ((l.find? fun x => x.1 = at_).map (·.2)).getD sfd
    let ls := (s.parkLeaves c).filter fun x => l.any fun y => y.1 = x.2.1
    (s.relocateAll (fun x => homeOf x.1) ls).map fun s =>
      (s.modCtx ctx fun c => { c with escrow := none }).dropTlb fun t => t.ctx = ctx

/-- The pages of a context that stand in escrow return; none while they cannot. -/
def State.fetchBack (s : State) (ctx : Nat) : Option State :=
  match (s.ctxAt ctx).bind (·.escrow) with
  | some l => s.bringBack ctx l
  | none => some s

/-- Pages of a context stand in escrow. -/
def State.escrowed (s : State) (ctx : Nat) : Bool := ((s.ctxAt ctx).bind (·.escrow)).isSome

/-- A context that the grade parks: it has an unfinished task, and every one of them is an admitted task of class 2 or 3 while
the grade is park or shed (R322). -/
def State.gradeParks (s : State) (ctx : Nat) : Bool :=
  let ts := (s.work.graphs.map fun x => match x.2 with
    | some g => if g.ctx = ctx then g.tasks.filter fun t => t.st ≠ .done else []
    | none => []).flatten
  decide (2 ≤ s.energy.grade) && !ts.isEmpty && ts.all fun t => t.st = .running && decide (2 ≤ t.info.cls)

/-! Grades (R321, R322). -/

/-- Members of a frame leave it: launch blocks that a test names (R75). -/
def State.leaveFrames (s : State) (p : Block → Bool) : State :=
  s.modWork fun w => { w with
    blocks := w.blocks.map fun (n, b) => (n, b.map fun b =>
      if b.lb.timetabled && p b then { b with frame := none, released := false } else b) }

/-- Timetabled blocks that a test names and that are in no frame join one at a PT, but for those of the pool that have not been placed
yet (R75). -/
def State.rejoinFrames (s : State) (t : Nat) (p : Block → Bool) : State :=
  s.work.blocks.foldl (fun s x => match x.2 with
    | some b => if b.lb.timetabled && b.frame.isNone && !(b.waiting && b.seq.isNone) && p b then s.joinFrame x.1 t else s
    | none => s) s

/-- The class of a launch block's task. -/
def State.clsOf (s : State) (b : Block) : Nat := ((s.taskAt b.graph b.task).map (·.info.cls)).getD 0

/-- Tile tasks of tasks of class 2 and 3 receive a park request (R322). -/
def State.parkTasks (s : State) : State :=
  let ns := s.targets (.energyClass 2) ++ s.targets (.energyClass 3)
  let s := ns.foldl (fun s n => s.parkTt n) s
  (upto 8).foldl (fun s d => s.gateIdle d) (s.leaveFrames fun b => decide (2 ≤ s.clsOf b))

/-- The tasks of class 3 that are admitted are shed: the unpublished tiles of every one of them first, and then the tile tasks of
each, with SHED to its graph level, which may end the graph of others (R322, R323). -/
def State.shedTasks (s : State) : State :=
  let ts := s.ranked fun x => x.info.cls = 3 && x.st = .running
  let s := ts.foldl (fun s x => (s.shedTiles x.1 x.2).modTask x.1 x.2 fun y => { y with shed := true }) s
  ts.foldl (fun s x => match s.graphAt x.1 with
    | none => s
    | some y => (s.killTask x.1 x.2).containGraph { noUnit y.ctx with task := some x } .shed Rec.zero) s

/-- The strongest grade whose condition holds (R321). -/
def State.gradeDue (s : State) : Nat :=
  let now := s.pt cd
  let c := s.curveAt now
  if c < s.threshold 3 now then 3 else if c < s.threshold 2 now then 2 else if c < s.threshold 1 now then 1 else 0

/-- The grade changes: an immediate re-plan (R318, R319). -/
def State.setGrade (s : State) (g : Nat) : State :=
  let now := s.pt cd
  (s.modEnergy fun e => { e with grade := g, lastStep := some now }).replan

/-- GRADE_ENTER: c(t) lies below a threshold of a stronger grade, and its actions begin (R321, R322). -/
def execGradeEnter (s : State) : Out :=
  .next (
    let old := s.energy.grade
    let g := s.gradeDue
    if g ≤ old then s
    else
      let s := s.noteAbove.setGrade g
      let s := if g = 3 then s.shedTasks else s
      if 2 ≤ g && old < 2 then s.parkTasks else s)

/-- The grade after those that may be left have been left, from a grade down (R321). -/
def State.leftTo (s : State) : Nat → Nat
  | 0 => 0
  | g + 1 =>
    match tget none s.energy.above (g + 1) with
    | some t => if t + 10000000 ≤ s.pt cd then s.leftTo g else g + 1
    | none => g + 1

/-- Saved tile tasks of a unit become due, unless it is still parked or its pages have not returned (R302, R321, R322). -/
def State.makeDue (s : State) (p : Saved → Bool) : State :=
  let free (v : Saved) : Bool := v.park && p v && match s.blockAt v.tt.block with
    | some b => !s.unitParked b.ctx b.graph b.task && !s.escrowed b.ctx
    | none => false
  s.modWork fun w => { w with
    saved := w.saved.map fun (n, v) => (n, v.map fun v => if free v then { v with due := true } else v) }

/-- Parked tasks that are parked no longer: their estimates return to q (R318). -/
def State.unparkTasks (s : State) : State :=
  (s.ranked (·.parked)).foldl (fun s x =>
    match s.graphAt x.1, s.taskAt x.1 x.2 with
    | some g, some t =>
      if s.unitParked g.ctx x.1 x.2 || s.escrowed g.ctx then s
      else
        let w := s.est x.1 x.2 t.entry
        (s.modTask x.1 x.2 fun t => { t with parked := false }).modEnergy fun e => { e with headroom := e.headroom - w }
    | _, _ => s) s

/-- Pages in escrow of contexts that are not parked as a whole return (R322). -/
def State.fetchAll (s : State) : State :=
  s.ctxs.foldl (fun s x => match x.2 with
    | some c => if c.parked then s else (s.fetchBack x.1).getD s
    | none => s) s

/-- GRADE_LEAVE: c has stood at or above 102 % of the threshold for 10 ms, up to this instant, and the grade falls; on leaving park the dies ungate, the pages
return and the parked tasks resume (R321, R322). -/
def execGradeLeave (s : State) : Out :=
  .next (
    let old := s.energy.grade
    let g := s.noteAbove.leftTo old
    if old ≤ g then s
    else
      let s := s.noteAbove.setGrade g
      if 2 ≤ g || old < 2 then s
      else
        let now := s.pt cd
        let s := (upto 8).foldl (fun s d => if tget false s.energy.gated d then s.askGate true d else s) s
        let s := s.fetchAll.unparkTasks.makeDue fun _ => true
        s.rejoinFrames now fun b => decide (2 ≤ s.clsOf b) && !((s.ctxAt b.ctx).map (·.parked)).getD false)

/-! Parked contexts (R322). -/

/-- CONTEXT_PARK: a context parks: its pages go to escrow where the grade has parked every unfinished task of it and none of its
tile tasks runs or is being saved; otherwise the management core parks it as a whole: its tile tasks receive park requests, and
once none of them runs or is being saved its pages go to escrow (R315, R322). -/
def execContextPark (ctx : Nat) (s : State) : Out :=
  .next (
    match s.ctxAt ctx with
    | none => s
    | some c =>
      if !c.parked && s.gradeParks ctx && !s.ctxRuns ctx && c.escrow.isNone then s.escrow ctx c
      else
        let s := if c.parked then s
          else
            let s := s.modCtx ctx fun c => { c with parked := true }
            ((s.targets (.context ctx)).foldl (fun s n => s.parkTt n) s).leaveFrames fun b => b.ctx = ctx
        if s.ctxRuns ctx || c.escrow.isSome then s else s.escrow ctx c)

/-- CONTEXT_UNPARK: the pages return, unless the grade keeps the context parked, and then the parked tile tasks become due
(R302, R322). -/
def execContextUnpark (ctx : Nat) (s : State) : Out :=
  .next (
    match s.ctxAt ctx with
    | none => s
    | some c =>
      if !c.parked && c.escrow.isNone then s
      else if s.gradeParks ctx then s.modCtx ctx fun c => { c with parked := false }
      else match s.fetchBack ctx with
        | none => s
        | some s =>
          let s := s.modCtx ctx fun c => { c with parked := false }
          let now := s.pt cd
          let s := (s.unparkTasks).makeDue fun v => v.tt.ctx = ctx
          s.rejoinFrames now fun b => b.ctx = ctx && !s.unitParked b.ctx b.graph b.task)

end Sys2Proof.Machine
end

