-- ==== Sys2Proof/Machine/Power.lean ====
section
/-! DEFINITION. Machine/Power.lean: operating points of regions (R313), gating of dies, regulators and feeds (R324), and the end of
a context at the management core's word (R315). -/
namespace Sys2Proof.Machine

/-! Operating points (R313). -/

/-- The tasks whose tile tasks run on the cores of a region. -/
def State.regionTasks (s : State) (r : Nat) : List (Nat × Nat) :=
  s.work.tts.filterMap fun x => match x.2 with
    | some t => if t.core / 2 = r then (s.blockAt t.block).map fun b => (b.graph, b.task) else none
    | none => none

/-- The tasks whose jobs the special-function engines perform. -/
def State.sfdTasks (s : State) : List (Nat × Nat) :=
  (s.work.streams.map fun x => if x.1 / 64 = sfd then (x.2.items.filter (·.started)).map fun c => (c.graph, c.task)
    else []).flatten ++
  (s.cores.map fun x => ((x.2.queue 6).filter (·.started)).filterMap fun y => match s.ttAt y.tt with
    | some t => (s.blockAt t.block).map fun b => (b.graph, b.task)
    | none => none).flatten

/-- The operating point of the entries in force for tasks, under a ceiling (R313). -/
def State.pointOf (s : State) (ts : List (Nat × Nat)) (ceiling : Nat) : Nat × Nat :=
  let es := ts.map fun x => s.entryOf x.1 x.2
  if es = [] then (0, 0)
  else
    let f := min ceiling (es.foldl (fun m e => max m (opF e)) 0)
    (f, max (vmin f) (es.foldl (fun m e => max m (opV e)) 0))

/-- A region changed; number 128 is the SFD. -/
def State.modRegion (s : State) (r : Nat) (f : Region → Region) : State :=
  if r = 128 then s.modEnergy fun e => { e with sfd := f e.sfd }
  else s.modEnergy fun e => { e with regions := tmod Region.init e.regions r f }

/-- REGION_FREQUENCY_CHANGE: a region takes the operating point of what runs on it; number 128 is the SFD (R313). -/
def execRegionFrequencyChange (region : Nat) (s : State) : Out :=
  .next (
    if 128 < region then s
    else
      let ts := if region = 128 then s.sfdTasks else s.regionTasks region
      let p := s.pointOf ts (if region = 128 then 100 else (s.regionAt region).ceiling)
      s.modRegion region fun x => { x with fcode := p.1, vcode := p.2 })

/-! Gating (R324). -/

/-- Work runs on a die: tile tasks, or jobs on the SFD. -/
def State.dieBusy (s : State) (die : Nat) : Bool :=
  if die = sfd then s.sfdTasks ≠ []
  else s.work.tts.any fun x => match x.2 with
    | some t => dieOfCore t.core = die
    | none => false

/-- A die gated or ungated in the state. -/
def State.setGated (s : State) (die : Nat) (v : Bool) : State :=
  s.modEnergy fun e => { e with gated := tset false e.gated die v }

/-- The next request served: ungating before gating, each in order of arrival; an ungating lasts until its end, and a die on
which work runs is not gated (R324). -/
def State.serveGate (s : State) : State :=
  if s.energy.gateBusy.isSome then s
  else
    let drop (x : Bool × Nat) (s : State) : State := s.modEnergy fun e => { e with gateQ := e.gateQ.filter (· ≠ x) }
    match s.energy.gateQ.find? (·.1) with
    | some x => (drop x s).modEnergy fun e => { e with gateBusy := some x }
    | none => s.energy.gateQ.foldl (fun s x =>
        let s := drop x s
        if s.dieBusy x.2 then s else s.setGated x.2 true) s

/-- DIE_GATE: a request to gate a die is served in its turn (R324). -/
def execDieGate (die : Nat) (s : State) : Out :=
  .next (if sfd < die || tget false s.energy.gated die then s else (s.askGate false die).serveGate)

/-- DIE_UNGATE: a request to ungate a die is served in its turn (R324). -/
def execDieUngate (die : Nat) (s : State) : Out :=
  .next (if sfd < die || !(tget false s.energy.gated die) then s else (s.askGate true die).serveGate)

/-- DIE_UNGATE_COMPLETE: the regions of the die have powered up, and the next request is served (R324). -/
def execDieUngateComplete (die : Nat) (s : State) : Out :=
  .next (
    if s.energy.gateBusy = some (true, die) then
      ((s.setGated die false).modEnergy fun e => { e with gateBusy := none }).serveGate
    else s)

/-! Regulators (R324). -/

/-- The tile tasks on a region receive a request with g = 0 (R324). -/
def State.evacuate (s : State) (r : Nat) : State :=
  s.work.tts.foldl (fun s x => match x.2 with
    | some t => if t.core / 2 = r then s.askTt .switch 0 x.1 else s
    | none => s) s

/-- REGULATOR_FAULT: a regulator block of a region fails; with the first the region's ceiling falls to fcode 60, with the second
its tile tasks are saved (R324). -/
def execRegulatorFault (region : Nat) (s : State) : Out :=
  .next (
    if 127 < region || 4 ≤ (s.regionAt region).fails then s
    else
      let n := Config.eventNum Cause.regulatorFault.code.toNat s.time.log.length
      let s := (s.modRegion region fun x => { x with fails := x.fails + 1, ceiling := min x.ceiling 60 }).mEvent
        Cause.regulatorFault.code n
      if (s.regionAt region).fails = 2 then s.evacuate region else s)

/-- The CPRES bits of a region's cores clear. A block for which one of them was reserved reserves again at once, among the cores
still present (R19, R53, R282, R324). -/
def State.darken (s : State) (r : Nat) : State :=
  let s : State := { s with cpres := tmod 0 s.cpres (r / 32) fun w => w &&& ~~~(BitVec.ofNat 64 (3 * 2 ^ (2 * (r % 32)))) }
  let s := s.modRegion r fun x => { x with dark := true }
  match (s.dispAt (r / 16)).reserved with
  | some (c, b) => if c / 2 = r then (s.modDisp (r / 16) fun d => { d with reserved := none }).reserveCore (r / 16) b else s
  | none => s

/-- REGION_DARK: a region with two failed blocks goes dark once no tile task runs on it; those dispatched meanwhile are asked as
well (R324). -/
def execRegionDark (region : Nat) (s : State) : Out :=
  .next (
    let x := s.regionAt region
    if 127 < region || x.fails < 2 || x.dark then s
    else if s.regionTasks region ≠ [] then s.evacuate region
    else s.darken region)

/-! Feeds (R4, R324, R345). -/

/-- The feeds that carry power, as a feed status shows them. -/
def EnergyState.feedBits (e : EnergyState) : Nat :=
  (if tget false e.feedLost 0 then 0 else 1) + if tget false e.feedLost 1 then 0 else 2

/-- FEED_LOSS: a feed of a module loses or regains power: every change is reported, and the loss of both removes power (R4,
R324, R345). -/
def execFeedLoss (feed : Nat) (carries : Bool) (s : State) : Out :=
  .next (
    if 1 < feed || tget false s.energy.feedLost feed = !carries then s
    else
      let s := s.modEnergy fun e => { e with feedLost := tset false e.feedLost feed (!carries) }
      let n := s.energy.feedBits
      (s.send fun a => .feed a n).modEnergy fun e => { e with powered := e.powered && n ≠ 0 })

/-! A context killed as a whole. -/

/-- MANAGEMENT_CORE_KILL: the management core kills a context, and every unit of it ends (R315, R345). -/
def execManagementCoreKill (ctx : Nat) (s : State) : Out :=
  .next (s.killCtx ctx (BitVec.ofNat 8 Config.killCause))

end Sys2Proof.Machine
end

