-- ==== Sys2Proof/Machine/Ports.lean ====
section
/-! DEFINITION. Machine/Ports.lean: power-on, configuration, firmware and attestation (R325-R327, R344), the host port (R342,
R343) and the management port (R345). -/
namespace Sys2Proof.Machine

/-! The configuration record and the boot (R325, R326). -/

/-- A record with a factory section. -/
def CfgRec.withFactory (c : CfgRec) (bs : List Byte) (f : Config.Factory) : CfgRec :=
  { c with factory := bs, cores := f.cores, lanes := f.lanes, repair := f.repair }

/-- A record with an owner section. -/
def CfgRec.withOwner (c : CfgRec) (bs : List Byte) (o : Config.Owner) : CfgRec :=
  { c with
    owner := bs, ownerKey := o.key, ip := o.ip, domain := o.domain
    facilities := o.facilities.map fun f => ⟨f.1, f.2.1, f.2.2.1, f.2.2.2⟩ }

/-- The factory section verifies under Kelmin's manufacturing key (R325). -/
def factoryOk (f : Config.Factory) : Bool := verifies Config.kelminKey f.signed f.r f.s

/-- The image's digest and Kelmin's signature verify (R326). -/
def imageOk (i : Config.Image) : Bool :=
  beNat (sha384 i.signed) = i.digest && verifies Config.kelminKey i.signed i.r i.s

/-- The configuration record in flash verifies (R325). -/
def CfgRec.ok (c : CfgRec) : Bool :=
  (match Config.factoryOf c.factory with
   | .some f => factoryOk f && f.device = leNat deviceId
   | .none => false) &&
  (c.owner = [] || match Config.ownerOf c.owner with
    | .some o => o.device = leNat deviceId
    | .none => false)

/-- The package after power-on from what flash holds: the image runs when it verifies, and unless the record verifies as well the
package stays in recovery (R19, R325, R326, R330). -/
def boot (c : CfgRec) (image : List Byte) (accepted : Nat) : State :=
  let imgGood := (Config.imageOf image).any imageOk
  let good := c.ok && imgGood
  { State.reset with
    cpres := (c.cores.zipIdx).foldl (fun t x => tset 0 t x.2 x.1) State.reset.cpres
    links := c.lanes.foldl (fun t x => tmod Link.init t x.1 (·.withMap x.2)) []
    mem := { State.reset.mem with spares := c.repair.foldl (fun t x => tset 0 t x.1 x.2) State.reset.mem.spares }
    energy := { EnergyState.init with accepted := accepted }
    host := { HostState.init with
      recovery := !good, cfg := c, image := image, running := if imgGood then image else [], address := c.ip } }

/-- POWER_ON: power returns over a feed; nothing but flash has survived (R324-R326). -/
def execPowerOn (s : State) : Out :=
  .next (
    if s.energy.powered || s.energy.feedBits = 0 then s
    else
      let b := boot (s.host.nextFactory.getD s.host.cfg) s.host.image s.energy.accepted
      b.modEnergy fun e => { e with feedLost := s.energy.feedLost })

/-! Attestation (R327). -/

/-- The report over a context without its signature: bytes 0x00 to 0x9F. -/
def State.reportBody (s : State) (ctx : Nat) (c : Ctx) (nonce : List Byte) : List Byte :=
  leBytes 4 1 ++ leBytes 4 (ctx + (if c.debuggable then 256 else 0) + if c.privileged then 512 else 0) ++ deviceId ++
  leBytes 8 (s.pt cd) ++ nonce ++ sha384 s.host.running ++ sha384 (s.host.cfg.factory ++ s.host.cfg.owner)

/-- The signed report; the signature is the device's own (log entry 9). -/
def State.report (s : State) (ctx : Nat) (c : Ctx) (nonce : List Byte) : List Byte × State :=
  let b := s.reportBody ctx c nonce
  let (r, t) := deviceSign s.host.signatures b
  (b ++ beBytes 48 r ++ beBytes 48 t, s.modHost fun h => { h with signatures := h.signatures + 1 })

/-! CFGCMD (R344). -/

/-- The command of a value of CFGCMD, when the value is well formed. -/
def cfgCmd (v : W64) : Option Nat :=
  if fieldOf v 4 2 ≠ 0 || fieldOf v 52 12 ≠ 0 || fieldOf v 0 4 = 0 || 3 < fieldOf v 0 4 then none else some (fieldOf v 0 4)

/-- A write of CFGCMD that is meant to start a command: ignored while one is busy, rejected when malformed or not accepted
in recovery (with step 0: log entry 81); a value with another command is another event's. -/
def State.cfgStart (s : State) (cmd : Nat) (v : W64) : State :=
  if s.host.cfgstate = 1 then s
  else match cfgCmd v with
    | none => s.modHost fun h => { h with cfgstate := 3, cfgstep := 0 }
    | some c =>
      if c ≠ cmd then s
      else if c = 3 && s.host.recovery then s.modHost fun h => { h with cfgcmd := v, cfgstate := 3, cfgstep := 0 }
      else s.modHost fun h => { h with cfgcmd := v, cfgstate := 1, cfgstep := 0 }

/-- CFG_INSTALL_SECTION: a write of CFGCMD with command 1 (R344). -/
def execCfgInstallSection (v : W64) (s : State) : Out := .next (s.cfgStart 1 v)
/-- CFG_INSTALL_FIRMWARE: a write of CFGCMD with command 2 (R344). -/
def execCfgInstallFirmware (v : W64) (s : State) : Out := .next (s.cfgStart 2 v)
/-- CFG_ATTESTATION: a write of CFGCMD with command 3 (R344). -/
def execCfgAttestation (v : W64) (s : State) : Out := .next (s.cfgStart 3 v)

/-- Bytes of the staging area: of physical memory, or of management memory in recovery. -/
def State.staged (s : State) (a n : Nat) : List Byte :=
  if s.host.recovery then tgets 0 s.mem.mgmt a n else (s.mem.read a n).1

/-- The staged object: its length stands in the first four bytes, and it follows after 64. -/
def State.stagedObject (s : State) (a : Nat) : List Byte := s.staged (a + 64) (leNat (s.staged a 4))

/-- The length of a staged object is padded with zeros to 64 bytes: part of the first check of a section and of an image (R344). -/
def State.stagedPadded (s : State) (a : Nat) : Bool := (s.staged (a + 4) 60).all (· = 0)

/-- The reads of a staging area, at its homes: the length block, and the object of a section, of an image, or of an attestation
request (R89, R337, R344). -/
def State.readStaging (s : State) (a : Nat) : State :=
  if s.host.recovery then s
  else s.touchLines a (64 + if fieldOf s.host.cfgcmd 0 4 = 3 then 64 else leNat (s.staged a 4))

/-- The command has ended: done, or rejected at a check. -/
def State.cfgEnd (s : State) (step : Option Nat) : State :=
  s.modHost fun h => { h with cfgstate := if step.isSome then 3 else 2, cfgstep := step.getD 0 }

/-- The boot is started again from flash (R325, R344). -/
def State.reboot (s : State) (c : CfgRec) (image : List Byte) : State :=
  let b := boot c image s.energy.accepted
  (b.modEnergy fun e => { e with feedLost := s.energy.feedLost }).modHost fun h => { h with cfgcmd := s.host.cfgcmd }

/-- The owner section's signature: by the owner key in force, or none while no section is present (R325, R344). -/
def State.ownerSigned (s : State) (o : Config.Owner) : Bool :=
  match o.sig with
  | none => s.host.cfg.owner = []
  | some (r, t) => match s.host.cfg.ownerKey with
    | some k => verifies k o.signed r t
    | none => false

/-- Command 1: the first check that fails, or the section installed (R344). -/
def State.installSection (s : State) (bs : List Byte) : State :=
  let put (c : CfgRec) (k : State → State) : State :=
    if s.host.recovery then (s.reboot c s.host.image).cfgEnd none else (k s).cfgEnd none
  match Config.factoryOf bs, Config.ownerOf bs with
  | some f, _ =>
    if !factoryOk f then s.cfgEnd (some 2)
    else if f.device ≠ leNat deviceId then s.cfgEnd (some 3)
    else
      let c := s.host.cfg.withFactory bs f
      put c fun s => s.modHost fun h => { h with nextFactory := some c }
  | none, some o =>
    if !s.ownerSigned o then s.cfgEnd (some 2)
    else if o.device ≠ leNat deviceId then s.cfgEnd (some 3)
    else
      let c := s.host.cfg.withOwner bs o
      put c fun s => s.modHost fun h => { h with
        cfg := c, nextFactory := h.nextFactory.map fun x => x.withOwner bs o
        address := if o.ip.isSome then o.ip else h.address }
  | none, none => s.cfgEnd (some 1)

/-- Command 2: the first check that fails, or the image installed. In recovery mask ROM runs it, and the package is in recovery no
longer if the record verifies as well (R325, R326, R344). -/
def State.installImage (s : State) (bs : List Byte) : State :=
  match Config.imageOf bs with
  | none => s.cfgEnd (some 1)
  | some i =>
    if !imageOk i then s.cfgEnd (some 2)
    else if s.host.recovery then (s.reboot s.host.cfg bs).cfgEnd none
    else (s.modHost fun h => { h with image := bs }).cfgEnd none

/-- Command 3: the context is resident, and the report is written at the staging address + 128 (R327, R344). -/
def State.attest (s : State) (a : Nat) : State :=
  let bs := s.staged (a + 64) 64
  let n := recF bs 0 1
  match s.ctxAt n with
  | none => s.cfgEnd (some 1)
  | some c =>
    let x := s.report n c ((bs.drop 32).take 32)
    (x.2.homeWriteAll 64 (a + 128) (whole x.1) false).cfgEnd none

/-- The command waits for the homes of its staging area: those of the length, of the object and of the report (R333, R344). In
recovery the area is management memory. -/
def State.stagingHeld (s : State) (a : Nat) : Bool :=
  !s.host.recovery && (s.rangeHeld false a 64 ||
    if fieldOf s.host.cfgcmd 0 4 = 3 then s.rangeHeld true (a + 64) 320 else s.rangeHeld false (a + 64) (leNat (s.staged a 4)))

/-- CFG_COMMAND_DONE: the command under way is checked and ends (R344). -/
def execCfgCommandDone (s : State) : Out :=
  .next (
    let a := fieldOf s.host.cfgcmd 6 46 * 64
    if s.host.cfgstate ≠ 1 || s.stagingHeld a then s
    else
      let t := s.readStaging a
      match fieldOf s.host.cfgcmd 0 4 with
      | 3 => t.attest a
      | c =>
        if !s.stagedPadded a then t.cfgEnd (some 1)
        else if c = 1 then t.installSection (s.stagedObject a)
        else t.installImage (s.stagedObject a))

/-! The host port (R342, R343). -/

/-- SUBSTAT_CLEAR: a write of SUBSTAT clears both counts (R343). -/
def execSubstatClear (s : State) : Out := .next (s.modHost fun h => { h with dropped := 0, rejected := 0 })

/-- A write of APERTURE. -/
def State.writeAperture (s : State) (v : W64) : State :=
  if fieldOf v 0 34 ≠ 0 then s else s.modHost fun h => { h with aperture := BitVec.ofNat 64 (fieldOf v 0 52) }

/-- APERTURE_WRITE: bits [33:0] must be 0, and a write that breaks this is ignored (R9, R343). -/
def execApertureWrite (v : W64) (s : State) : Out := .next (s.writeAperture v)

/-- KILLED_CLEAR: a write of 1 to a bit clears it (R343). -/
def execKilledClear (v : W64) (s : State) : Out := .next (s.modHost fun h => { h with killed := h.killed &&& ~~~v })

/-- The answer of a read. -/
def State.answer (s : State) (bs : List Byte) (poisoned : Bool) : State :=
  s.modHost fun h => { h with lastRead := (bs, poisoned) }

/-- First byte and end of overlay memory and of record memory in BAR 1 (R342). -/
def bar1Record : Nat := 0x800000
/-- The end of record memory in BAR 1. -/
def bar1End : Nat := 0xC00000

/-- A byte of BAR 1 (R342). -/
def MemState.bar1 (m : MemState) (a : Nat) : Byte :=
  if a < bar1Record then tget 0 m.overlay a else if a < bar1End then tget 0 m.record (a - bar1Record) else 0

/-- A byte of BAR 1 written. -/
def MemState.setBar1 (m : MemState) (a : Nat) (b : Byte) : MemState :=
  if a < bar1Record then { m with overlay := tset 0 m.overlay a b }
  else if a < bar1End then { m with record := tset 0 m.record (a - bar1Record) b }
  else m

/-- A doubleword register of BAR 0 as it reads (R342-R344): SUBMIT reads the last write that entered the queue (log entry
103). -/
def State.bar0Reg (s : State) (off : Nat) : W64 :=
  let h := s.host
  match off with
  | 0x000 => h.submitReg
  | 0x008 => BitVec.ofNat 64 (64 - h.submits.length + h.dropped * 2 ^ 32 + h.rejected * 2 ^ 48)
  | 0x010 => h.aperture
  | 0x018 => h.cfgcmd
  | 0x020 => BitVec.ofNat 64 (h.cfgstate + h.cfgstep * 2 ^ 8)
  | 0x028 => h.killed
  | _ => 0

/-- A write to BAR 0 (R342): one of eight bytes, naturally aligned, writes its register; any other is ignored, and counted as a
rejected submission when it falls on SUBMIT. -/
def State.writeBar0 (s : State) (off : Nat) (data : List Byte) : State :=
  let v := BitVec.ofNat 64 (leNat data)
  if data.length ≠ 8 || off % 8 ≠ 0 then
    if off < 8 && data ≠ [] then s.modHost fun h => { h with rejected := sat16 h.rejected } else s
  else match off with
    | 0x000 => s.submitWrite v
    | 0x008 => s.modHost fun h => { h with dropped := 0, rejected := 0 }
    | 0x010 => s.writeAperture v
    | 0x018 => s.cfgStart (fieldOf v 0 4) v
    | 0x028 => s.modHost fun h => { h with killed := h.killed &&& ~~~v }
    | _ => s

/-- First offset by which HOST_BAR1_ACCESS names BAR 0, and its size (R342). -/
def bar0Offset : Nat := 2 ^ 24

/-- HOST_BAR1_ACCESS: a write of bytes, or a read of as many, of BAR 1; or of the registers of BAR 0, at offsets beyond it (R342).
DESIGN CHOICE (log entry 107): the row of the table that reads and writes BAR 0. -/
def execHostBar1Access (write : Bool) (off : Nat) (data : List Byte) (s : State) : Out :=
  .next (
    if bar0Offset ≤ off then
      let off := off - bar0Offset
      if 4096 < off + data.length then s
      else if write then s.writeBar0 off data
      else s.answer (data.zipIdx.map fun x =>
        ((leBytes 8 (s.bar0Reg ((off + x.2) / 8 * 8)).toNat)[(off + x.2) % 8]?).getD 0) false
    else if 2 ^ 24 < off + data.length then s
    else if write then s.modMem fun m => (data.zipIdx).foldl (fun m x => m.setBar1 (off + x.2) x.1) m
    else s.answer (data.zipIdx.map fun x => s.mem.bar1 (off + x.2)) false)

/-- Bytes of management memory (R14). -/
def mgmtBytes : Nat := 2 ^ 20

/-- HOST_BAR2_ACCESS: a write of bytes, or a read of as many, at their homes; of management memory in recovery (R342, R343). An
unbacked address reads as all ones, and a write to one is discarded. Writes are performed in order of arrival; one that waits for
its home, or that a moving frame bounces, holds those behind it, and a read waits for its home (R333, R338). -/
def execHostBar2Access (write : Bool) (off : Nat) (data : List Byte) (s : State) : Out :=
  .next (
    let a := s.host.aperture.toNat + off
    if 2 ^ 34 < off + data.length then s
    else if s.host.recovery then
      if write then s.modMem fun m => { m with
        mgmt := tsets 0 m.mgmt off (data.take (mgmtBytes - off)) }
      else s.answer (data.zipIdx.map fun x => if off + x.2 < mgmtBytes then tget 0 s.mem.mgmt (off + x.2) else 0xFF) false
    else
      let backed (i : Nat) : Bool := (s.mem.homeDie (a + i)).isSome
      if write then (s.modHost fun h => { h with writes := h.writes ++ [(a, data)] }).hostWrites
      else if s.rangeHeld false a data.length then s
      else (s.touchLines a data.length).answer
        (data.zipIdx.map fun x => if backed x.2 then s.mem.readByte (a + x.2) else 0xFF)
        (data.zipIdx.any fun x => backed x.2 && s.mem.poisonAt (a + x.2)))

/-! The management port (R345). -/

/-- ATTESTATION_MESSAGE: a message of type 3, a context number, a reserved word and a nonce, is answered with the report, or with
status 1 where the context is not resident (R327, R345). A payload of another length is discarded. -/
def execAttestationMessage (header ctx reserved nonce : List Byte) (sender : Nat) (s : State) : Out :=
  .next (
    match messageOf 3 (header ++ ctx ++ reserved ++ nonce) with
    | none => s
    | some (seq, data) =>
      if s.host.recovery || data.length ≠ 40 then s
      else match s.ctxAt (recF data 0 4) with
        | none => s.reply (.refusal sender seq)
        | some c =>
          let x := s.report (recF data 0 4) c (data.drop 8)
          x.2.reply (.report sender seq x.1))

/-- The port's own address. -/
def State.isMe (s : State) (ip : Nat) : Bool := s.host.address.any fun a => a.1 = ip

/-- ARP_REQUEST: the port answers for its own address (R345). -/
def execArpRequest (ip sender : Nat) (s : State) : Out := .next (if s.isMe ip then s.reply (.arp sender ip) else s)

/-- ICMP_ECHO: the port answers an echo to its own address with the same data (R345). -/
def execIcmpEcho (ip sender : Nat) (data : List Byte) (s : State) : Out :=
  .next (if s.isMe ip then s.reply (.echo sender data) else s)

/-- DHCP: without an address in the owner section, the port takes the one that DHCP gives (R345). -/
def execDhcp (ip mask gateway : Nat) (s : State) : Out :=
  .next (if s.host.cfg.ip.isSome then s else s.modHost fun h => { h with address := some (ip, mask, gateway) })

/-! Management registers (R9, R143). -/

/-- The writable fields of a trigger's register, by its number in the trigger (R308). -/
def Trigger.write (x : Trigger) (i : Nat) (v : W64) : Trigger :=
  match i with
  | 0 => { x with ctl := BitVec.ofNat 64 (fieldOf v 0 9) }
  | 1 => { x with start := v }
  | 2 => { x with stop := v }
  | _ => { x with sel := BitVec.ofNat 64 (fieldOf v 0 12 + fieldOf v 32 32 * 2 ^ 32) }

/-- MGMT_REGISTER_WRITE: CTXAREA (R299), the triggers (R308), LNKCTL and LNKSTAT (R330) and the way masks (R109, log entry 24); a write to any
other number, or to a reserved field, is ignored (R9). -/
def execMgmtRegisterWrite (num : BitVec 12) (v : W64) (s : State) : Out :=
  .next (
    let n := num.toNat
    if 0xC80 ≤ n && n < 0xCC0 then s.modMem fun m => { m with areas := tset 0 m.areas (n - 0xC80) v }
    else if 0xD00 ≤ n && n < 0xD20 then s.modTrigger ((n - 0xD00) / 4) (·.write (n % 4) v)
    else if 0xE40 ≤ n && n < 0xEC8 && n % 4 = 0 then s.modLink ((n - 0xE40) / 4) (·.writeCtl v (s.pt cd))
    else if 0xE40 ≤ n && n < 0xEC8 && n % 4 = 1 then
      if v.getLsbD 4 then s.modLink ((n - 0xE40) / 4) fun l => { l with svc := false } else s
    else match Config.maskReg n with
      | some (u, c) => s.modMem fun m => { m with
          masks := tset (BitVec.allOnes 16) m.masks (64 * u + c % 64) (v.setWidth 16) }
      | none => s)

/-- The register of a trigger by its number in the trigger (R308). -/
def Trigger.reg (x : Trigger) (i : Nat) : W64 :=
  match i with
  | 0 => x.ctl
  | 1 => x.start
  | 2 => x.stop
  | _ => x.sel

/-- A register of the management core as it reads, by its number: QSCHED and QUSE (R274), CTXAREA (R299), the triggers and TRDROP
(R308, R310), PWRGRADE, PWRMEAN, CURVESEQ and PWRBAND (R320), the registers of the modules (R330), and the way masks (R109). A
read changes nothing; a number that is not listed reads as none. -/
def State.mgmtReg (s : State) (n : Nat) : Option W64 :=
  let e := s.energy
  if 0x800 ≤ n ∧ n < 0xA40 then
    let x := s.streamAt (n - 0x800)
    some (BitVec.ofNat 64 (x.period + x.budget * 2 ^ 32))
  else if 0xA40 ≤ n ∧ n < 0xC80 then
    let x := s.streamAt (n - 0xA40)
    some (BitVec.ofNat 64 (x.used + if x.overrun || x.spent then 2 ^ 32 else 0))
  else if 0xC80 ≤ n ∧ n < 0xCC0 then some (tget 0 s.mem.areas (n - 0xC80))
  else if 0xD00 ≤ n ∧ n < 0xD20 then some ((s.triggerAt ((n - 0xD00) / 4)).reg (n % 4))
  else if 0xD20 ≤ n ∧ n < 0xD28 then some (BitVec.ofNat 64 (tget 0 s.dbg.drop (n - 0xD20)))
  else if n = 0xE00 then some (BitVec.ofNat 64 e.grade)
  else if n = 0xE01 then some (BitVec.ofNat 64 (e.powerMean + e.curveMean * 2 ^ 32))
  else if n = 0xE02 then some (BitVec.ofNat 64 ((e.curve.map (·.seq)).getD 0))
  else if n = 0xE03 then some (BitVec.ofNat 64 (e.bandDev + e.bandFac * 2 ^ 32))
  else if 0xE40 ≤ n ∧ n < 0xEC8 then some ((s.linkAt ((n - 0xE40) / 4)).reg (n % 4))
  else (Config.maskReg n).map fun x => (s.mem.wayMask x.1 (x.2 % 64)).setWidth 64

/-- A counter of a core as the management core reads it in its window (R281). -/
def State.counterReg (s : State) (core off : Nat) : W64 := BitVec.ofNat 64 (tget 0 (s.coreAt core).counters off)

/-- The aggregate counters of a context: its occupancy summed over the L2 slices and over the RDCs (R110), and the clocks of each
class summed over all cores and heads, which is all that a context that is not debuggable receives (R281, R304). -/
def State.aggregate (s : State) (ctx : Nat) : List Nat :=
  let cls (k : Nat) : Nat := (upto Config.cores).foldl (fun n core =>
    (upto 15).foldl (fun n h => n + tget 0 (s.coreAt core).counters (32 * h + 8 * k)) n) 0
  [occupancy s.mem.l2Sets 0 (64 * 2048) ctx, occupancy s.mem.rdcSets 0 (8192 * 8) ctx] ++ (upto 4).map cls

end Sys2Proof.Machine
end

