-- ==== Sys2Proof/Machine/Dispatch.lean ====
section
/-! DEFINITION. Machine/Dispatch.lean: one arm for each constructor of Instr, each the one call of its meaning. -/
namespace Sys2Proof.Machine

/-- The meaning of an instruction or event. -/
def exec (i : Instr) (s : State) : Host.Outcome State Fault Refusal :=
  match i with
  | .nop => Sys2Proof.Machine.execNop s
  | .add d a b => Sys2Proof.Machine.execAdd d a b s
  | .sub d a b => Sys2Proof.Machine.execSub d a b s
  | .mul d a b => Sys2Proof.Machine.execMul d a b s
  | .mulh d a b => Sys2Proof.Machine.execMulh d a b s
  | .mulhn d a b => Sys2Proof.Machine.execMulhn d a b s
  | .div d a b => Sys2Proof.Machine.execDiv d a b s
  | .divn d a b => Sys2Proof.Machine.execDivn d a b s
  | .rem d a b => Sys2Proof.Machine.execRem d a b s
  | .remn d a b => Sys2Proof.Machine.execRemn d a b s
  | .and d a b => Sys2Proof.Machine.execAnd d a b s
  | .or d a b => Sys2Proof.Machine.execOr d a b s
  | .xor d a b => Sys2Proof.Machine.execXor d a b s
  | .shl d a b => Sys2Proof.Machine.execShl d a b s
  | .shr d a b => Sys2Proof.Machine.execShr d a b s
  | .sha d a b => Sys2Proof.Machine.execSha d a b s
  | .min d a b => Sys2Proof.Machine.execMin d a b s
  | .max d a b => Sys2Proof.Machine.execMax d a b s
  | .minn d a b => Sys2Proof.Machine.execMinn d a b s
  | .maxn d a b => Sys2Proof.Machine.execMaxn d a b s
  | .clz d a => Sys2Proof.Machine.execClz d a s
  | .popc d a => Sys2Proof.Machine.execPopc d a s
  | .sel d a b => Sys2Proof.Machine.execSel d a b s
  | .setcc c d a b => Sys2Proof.Machine.execSetcc c d a b s
  | .shli d a sh => Sys2Proof.Machine.execShli d a sh s
  | .shri d a sh => Sys2Proof.Machine.execShri d a sh s
  | .shai d a sh => Sys2Proof.Machine.execShai d a sh s
  | .addi d a imm => Sys2Proof.Machine.execAddi d a imm s
  | .andi d a imm => Sys2Proof.Machine.execAndi d a imm s
  | .ori d a imm => Sys2Proof.Machine.execOri d a imm s
  | .xori d a imm => Sys2Proof.Machine.execXori d a imm s
  | .ldi d imm => Sys2Proof.Machine.execLdi d imm s
  | .ldih d imm => Sys2Proof.Machine.execLdih d imm s
  | .adda d a imm => Sys2Proof.Machine.execAdda d a imm s
  | .b off => Sys2Proof.Machine.execB off s
  | .jl off => Sys2Proof.Machine.execJl off s
  | .bz a off => Sys2Proof.Machine.execBz a off s
  | .bnz a off => Sys2Proof.Machine.execBnz a off s
  | .bccc c a b off => Sys2Proof.Machine.execBccc c a b off s
  | .jr a => Sys2Proof.Machine.execJr a s
  | .txb off => Sys2Proof.Machine.execTxb off s
  | .txe => Sys2Proof.Machine.execTxe s
  | .txa code => Sys2Proof.Machine.execTxa code s
  | .txs d => Sys2Proof.Machine.execTxs d s
  | .loop lv count last => Sys2Proof.Machine.execLoop lv count last s
  | .loopg lv a last => Sys2Proof.Machine.execLoopg lv a last s
  | .loopp lv a stages1 last => Sys2Proof.Machine.execLoopp lv a stages1 last s
  | .lexit lv => Sys2Proof.Machine.execLexit lv s
  | .safept a => Sys2Proof.Machine.execSafept a s
  | .exit n e1 e2 e3 e4 => Sys2Proof.Machine.execExit n e1 e2 e3 e4 s
  | .trap n => Sys2Proof.Machine.execTrap n s
  | .brk n => Sys2Proof.Machine.execBrk n s
  | .eret => Sys2Proof.Machine.execEret s
  | .ld sz d a off => Sys2Proof.Machine.execLd sz d a off s
  | .ldn sz d a off => Sys2Proof.Machine.execLdn sz d a off s
  | .st sz d a off => Sys2Proof.Machine.execSt sz d a off s
  | .ldS sz d a off => Sys2Proof.Machine.execLdS sz d a off s
  | .chk a => Sys2Proof.Machine.execChk a s
  | .ldSp sz d a off => Sys2Proof.Machine.execLdSp sz d a off s
  | .stSp sz d a off => Sys2Proof.Machine.execStSp sz d a off s
  | .spld sz d off => Sys2Proof.Machine.execSpld sz d off s
  | .spst sz d off => Sys2Proof.Machine.execSpst sz d off s
  | .ldNb sz d a b => Sys2Proof.Machine.execLdNb sz d a b s
  | .stPm sz d a b => Sys2Proof.Machine.execStPm sz d a b s
  | .mark => Sys2Proof.Machine.execMark s
  | .acq sc a b => Sys2Proof.Machine.execAcq sc a b s
  | .rel sc => Sys2Proof.Machine.execRel sc s
  | .fenceq mask => Sys2Proof.Machine.execFenceq mask s
  | .amo op dbl d a b => Sys2Proof.Machine.execAmo op dbl d a b s
  | .amof fz cn sv op fmt d a b => Sys2Proof.Machine.execAmof fz cn sv op fmt d a b s
  | .post s1 k => Sys2Proof.Machine.execPost s1 k s
  | .await s1 t => Sys2Proof.Machine.execAwait s1 t s
  | .semrd d s1 => Sys2Proof.Machine.execSemrd d s1 s
  | .semwr s1 a => Sys2Proof.Machine.execSemwr s1 a s
  | .waitv d a b => Sys2Proof.Machine.execWaitv d a b s
  | .tagpub n => Sys2Proof.Machine.execTagpub n s
  | .tagq d n => Sys2Proof.Machine.execTagq d n s
  | .ptrd d => Sys2Proof.Machine.execPtrd d s
  | .frrd d a => Sys2Proof.Machine.execFrrd d a s
  | .waitpt a => Sys2Proof.Machine.execWaitpt a s
  | .mbsend d a b => Sys2Proof.Machine.execMbsend d a b s
  | .mbrecv d a b => Sys2Proof.Machine.execMbrecv d a b s
  | .mbpoll d a => Sys2Proof.Machine.execMbpoll d a s
  | .mfs d r => Sys2Proof.Machine.execMfs d r s
  | .mts r a => Sys2Proof.Machine.execMts r a s
  | .kill blk mask => Sys2Proof.Machine.execKill blk mask s
  | .lockwr a b => Sys2Proof.Machine.execLockwr a b s
  | .lockrd d a => Sys2Proof.Machine.execLockrd d a s
  | .l1inv a b => Sys2Proof.Machine.execL1inv a b s
  | .rdcinv a b => Sys2Proof.Machine.execRdcinv a b s
  | .cacheWb a b => Sys2Proof.Machine.execCacheWb a b s
  | .tlbinv a b => Sys2Proof.Machine.execTlbinv a b s
  | .qcfg n d a b => Sys2Proof.Machine.execQcfg n d a b s
  | .qrst n => Sys2Proof.Machine.execQrst n s
  | .vadd w => Sys2Proof.Machine.execVadd w s
  | .vsub w => Sys2Proof.Machine.execVsub w s
  | .vmul w => Sys2Proof.Machine.execVmul w s
  | .vmulh w => Sys2Proof.Machine.execVmulh w s
  | .vmad w => Sys2Proof.Machine.execVmad w s
  | .vmin w => Sys2Proof.Machine.execVmin w s
  | .vmax w => Sys2Proof.Machine.execVmax w s
  | .vabs w => Sys2Proof.Machine.execVabs w s
  | .vneg w => Sys2Proof.Machine.execVneg w s
  | .vand w => Sys2Proof.Machine.execVand w s
  | .vor w => Sys2Proof.Machine.execVor w s
  | .vxor w => Sys2Proof.Machine.execVxor w s
  | .vnot w => Sys2Proof.Machine.execVnot w s
  | .vshl w => Sys2Proof.Machine.execVshl w s
  | .vshr w => Sys2Proof.Machine.execVshr w s
  | .vsha w => Sys2Proof.Machine.execVsha w s
  | .vpopc w => Sys2Proof.Machine.execVpopc w s
  | .vfadd w => Sys2Proof.Machine.execVfadd w s
  | .vfsub w => Sys2Proof.Machine.execVfsub w s
  | .vfmul w => Sys2Proof.Machine.execVfmul w s
  | .vfma w => Sys2Proof.Machine.execVfma w s
  | .vfdiv w => Sys2Proof.Machine.execVfdiv w s
  | .vfsqrt w => Sys2Proof.Machine.execVfsqrt w s
  | .vfrcp w => Sys2Proof.Machine.execVfrcp w s
  | .vfrsq w => Sys2Proof.Machine.execVfrsq w s
  | .vfexp2 w => Sys2Proof.Machine.execVfexp2 w s
  | .vflog2 w => Sys2Proof.Machine.execVflog2 w s
  | .vfmin w => Sys2Proof.Machine.execVfmin w s
  | .vfmax w => Sys2Proof.Machine.execVfmax w s
  | .vfabs w => Sys2Proof.Machine.execVfabs w s
  | .vfneg w => Sys2Proof.Machine.execVfneg w s
  | .vcmp c w => Sys2Proof.Machine.execVcmp c w s
  | .vsel w => Sys2Proof.Machine.execVsel w s
  | .mand w => Sys2Proof.Machine.execMand w s
  | .mor w => Sys2Proof.Machine.execMor w s
  | .mxor w => Sys2Proof.Machine.execMxor w s
  | .mnot w => Sys2Proof.Machine.execMnot w s
  | .mpopc w => Sys2Proof.Machine.execMpopc w s
  | .mfirst w => Sys2Proof.Machine.execMfirst w s
  | .vcvt w => Sys2Proof.Machine.execVcvt w s
  | .vwiden w => Sys2Proof.Machine.execVwiden w s
  | .vnarrow w => Sys2Proof.Machine.execVnarrow w s
  | .vquantScale w => Sys2Proof.Machine.execVquantScale w s
  | .vquant w => Sys2Proof.Machine.execVquant w s
  | .vdeq w => Sys2Proof.Machine.execVdeq w s
  | .vred op w => Sys2Proof.Machine.execVred op w s
  | .vperm w => Sys2Proof.Machine.execVperm w s
  | .vshuf w => Sys2Proof.Machine.execVshuf w s
  | .vbcast w => Sys2Proof.Machine.execVbcast w s
  | .vslide w => Sys2Proof.Machine.execVslide w s
  | .vins w => Sys2Proof.Machine.execVins w s
  | .vext w => Sys2Proof.Machine.execVext w s
  | .viota w => Sys2Proof.Machine.execViota w s
  | .vld w => Sys2Proof.Machine.execVld w s
  | .vst w => Sys2Proof.Machine.execVst w s
  | .vldg w => Sys2Proof.Machine.execVldg w s
  | .vsts w => Sys2Proof.Machine.execVsts w s
  | .vldm w => Sys2Proof.Machine.execVldm w s
  | .vstm w => Sys2Proof.Machine.execVstm w s
  | .vldmNb w => Sys2Proof.Machine.execVldmNb w s
  | .vstmPm w => Sys2Proof.Machine.execVstmPm w s
  | .vmov w => Sys2Proof.Machine.execVmov w s
  | .vrng w => Sys2Proof.Machine.execVrng w s
  | .mma h x => Sys2Proof.Machine.execMma h x s
  | .mmaz h x => Sys2Proof.Machine.execMmaz h x s
  | .accrd h x => Sys2Proof.Machine.execAccrd h x s
  | .accwr h x => Sys2Proof.Machine.execAccwr h x s
  | .accz h mask => Sys2Proof.Machine.execAccz h mask s
  | .scld h x => Sys2Proof.Machine.execScld h x s
  | .wstrm h x => Sys2Proof.Machine.execWstrm h x s
  | .wsel h buf => Sys2Proof.Machine.execWsel h buf s
  | .cpy h x => Sys2Proof.Machine.execCpy h x s
  | .cpyt h x => Sys2Proof.Machine.execCpyt h x s
  | .cpyf h x => Sys2Proof.Machine.execCpyf h x s
  | .chain h x => Sys2Proof.Machine.execChain h x s
  | .chainEnd core q => Sys2Proof.Machine.execChainEnd core q s
  | .chainCopy core q => Sys2Proof.Machine.execChainCopy core q s
  | .chainLoop core q => Sys2Proof.Machine.execChainLoop core q s
  | .chainCond core q => Sys2Proof.Machine.execChainCond core q s
  | .chainSignal core q => Sys2Proof.Machine.execChainSignal core q s
  | .sfjExp h desc => Sys2Proof.Machine.execSfjExp h desc s
  | .sfjLog h desc => Sys2Proof.Machine.execSfjLog h desc s
  | .sfjSoftmax h desc => Sys2Proof.Machine.execSfjSoftmax h desc s
  | .sfjTopk h desc => Sys2Proof.Machine.execSfjTopk h desc s
  | .sfjSort h desc => Sys2Proof.Machine.execSfjSort h desc s
  | .sfjSample h desc => Sys2Proof.Machine.execSfjSample h desc s
  | .sfjCompletion core => Sys2Proof.Machine.execSfjCompletion core s
  | .engineCommandStart core q => Sys2Proof.Machine.execEngineCommandStart core q s
  | .engineCommandComplete core q segments => Sys2Proof.Machine.execEngineCommandComplete core q segments s
  | .stampedCommandIssue core => Sys2Proof.Machine.execStampedCommandIssue core s
  | .mxeOwnershipTake core tt => Sys2Proof.Machine.execMxeOwnershipTake core tt s
  | .push d q cb => Sys2Proof.Machine.execPush d q cb s
  | .qfence d mask => Sys2Proof.Machine.execQfence d mask s
  | .launch g => Sys2Proof.Machine.execLaunch g s
  | .launchGraph g => Sys2Proof.Machine.execLaunchGraph g s
  | .overlay => Sys2Proof.Machine.execOverlay s
  | .overlaySwap k => Sys2Proof.Machine.execOverlaySwap k s
  | .controlBlockHead k d q => Sys2Proof.Machine.execControlBlockHead k d q s
  | .controlBlockComplete k d q => Sys2Proof.Machine.execControlBlockComplete k d q s
  | .submit v => Sys2Proof.Machine.execSubmit v s
  | .graphAccept => Sys2Proof.Machine.execGraphAccept s
  | .admitStep => Sys2Proof.Machine.execAdmitStep s
  | .taskComplete graph task => Sys2Proof.Machine.execTaskComplete graph task s
  | .graphComplete graph => Sys2Proof.Machine.execGraphComplete graph s
  | .dieSlotFill die => Sys2Proof.Machine.execDieSlotFill die s
  | .iterationSelect die => Sys2Proof.Machine.execIterationSelect die s
  | .stealRequest die => Sys2Proof.Machine.execStealRequest die s
  | .stealReply die => Sys2Proof.Machine.execStealReply die s
  | .stealBackoffExpiry die => Sys2Proof.Machine.execStealBackoffExpiry die s
  | .tileTaskEnd tt => Sys2Proof.Machine.execTileTaskEnd tt s
  | .poolService => Sys2Proof.Machine.execPoolService s
  | .deadlockAwait tt => Sys2Proof.Machine.execDeadlockAwait tt s
  | .postmarkDeliver strand => Sys2Proof.Machine.execPostmarkDeliver strand s
  | .postmarkPerform die slice => Sys2Proof.Machine.execPostmarkPerform die slice s
  | .nbLoadPerform strand => Sys2Proof.Machine.execNbLoadPerform strand s
  | .frontierSample die => Sys2Proof.Machine.execFrontierSample die s
  | .frontierMessage src dst lost => Sys2Proof.Machine.execFrontierMessage src dst lost s
  | .frontierSlip die => Sys2Proof.Machine.execFrontierSlip die s
  | .ptExchange die ppm offset => Sys2Proof.Machine.execPtExchange die ppm offset s
  | .ptHoldover die => Sys2Proof.Machine.execPtHoldover die s
  | .ptpMessage message => Sys2Proof.Machine.execPtpMessage message s
  | .ptStep facility => Sys2Proof.Machine.execPtStep facility s
  | .lockWaitExpiry => Sys2Proof.Machine.execLockWaitExpiry s
  | .frameOverrun => Sys2Proof.Machine.execFrameOverrun s
  | .frameStart => Sys2Proof.Machine.execFrameStart s
  | .timetableRelease => Sys2Proof.Machine.execTimetableRelease s
  | .globalLoadBind strand => Sys2Proof.Machine.execGlobalLoadBind strand s
  | .globalStorePerform strand => Sys2Proof.Machine.execGlobalStorePerform strand s
  | .waitvTimeout strand => Sys2Proof.Machine.execWaitvTimeout strand s
  | .atomicPerform strand => Sys2Proof.Machine.execAtomicPerform strand s
  | .txnCommit strand => Sys2Proof.Machine.execTxnCommit strand s
  | .txnAbort strand => Sys2Proof.Machine.execTxnAbort strand s
  | .lazyCommit strand => Sys2Proof.Machine.execLazyCommit strand s
  | .commitWaitTimeout strand => Sys2Proof.Machine.execCommitWaitTimeout strand s
  | .uncorrectableError e => Sys2Proof.Machine.execUncorrectableError e s
  | .correctableError pa => Sys2Proof.Machine.execCorrectableError pa s
  | .rowSpareReplace pa => Sys2Proof.Machine.execRowSpareReplace pa s
  | .parkSelfRefresh channel => Sys2Proof.Machine.execParkSelfRefresh channel s
  | .channelRetire die channel => Sys2Proof.Machine.execChannelRetire die channel s
  | .frameMove frame target => Sys2Proof.Machine.execFrameMove frame target s
  | .cxlLinkUp port capacity => Sys2Proof.Machine.execCxlLinkUp port capacity s
  | .cxlLinkDown port => Sys2Proof.Machine.execCxlLinkDown port s
  | .flitReceive module dir seq vc crcOk free => Sys2Proof.Machine.execFlitReceive module dir seq vc crcOk free s
  | .nakReceive module dir seq => Sys2Proof.Machine.execNakReceive module dir seq s
  | .ackReceive module dir seq => Sys2Proof.Machine.execAckReceive module dir seq s
  | .linkWindowStart module => Sys2Proof.Machine.execLinkWindowStart module s
  | .lnkctlPause module pause => Sys2Proof.Machine.execLnkctlPause module pause s
  | .linkPauseComplete module => Sys2Proof.Machine.execLinkPauseComplete module s
  | .lnkctlTrain module => Sys2Proof.Machine.execLnkctlTrain module s
  | .lnkctlWindow module len => Sys2Proof.Machine.execLnkctlWindow module len s
  | .linkTrainComplete module failed spareFailed => Sys2Proof.Machine.execLinkTrainComplete module failed spareFailed s
  | .lnkstatSvcClear module => Sys2Proof.Machine.execLnkstatSvcClear module s
  | .qschedWrite die core q v => Sys2Proof.Machine.execQschedWrite die core q v s
  | .queuePeriodStart die core q => Sys2Proof.Machine.execQueuePeriodStart die core q s
  | .queueOverrun die core q => Sys2Proof.Machine.execQueueOverrun die core q s
  | .counterClear core offset => Sys2Proof.Machine.execCounterClear core offset s
  | .preemptRequest t rank grace => Sys2Proof.Machine.execPreemptRequest t rank grace s
  | .graceExpiry tt => Sys2Proof.Machine.execGraceExpiry tt s
  | .preemptSave tt => Sys2Proof.Machine.execPreemptSave tt s
  | .saveComplete tt => Sys2Proof.Machine.execSaveComplete tt s
  | .resumeRequest t => Sys2Proof.Machine.execResumeRequest t s
  | .tileTaskResume tt core => Sys2Proof.Machine.execTileTaskResume tt core s
  | .debugStop ctx => Sys2Proof.Machine.execDebugStop ctx s
  | .dump ctx => Sys2Proof.Machine.execDump ctx s
  | .triggerMatch trigger => Sys2Proof.Machine.execTriggerMatch trigger s
  | .faultLogDrain ctx count => Sys2Proof.Machine.execFaultLogDrain ctx count s
  | .contextCreate ctx x => Sys2Proof.Machine.execContextCreate ctx x s
  | .meterSample power idle est => Sys2Proof.Machine.execMeterSample power idle est s
  | .replan => Sys2Proof.Machine.execReplan s
  | .powerWindowEnd => Sys2Proof.Machine.execPowerWindowEnd s
  | .pwrbandClear => Sys2Proof.Machine.execPwrbandClear s
  | .curveRecord header record sender => Sys2Proof.Machine.execCurveRecord header record sender s
  | .curveTakeEffect => Sys2Proof.Machine.execCurveTakeEffect s
  | .gradeEnter => Sys2Proof.Machine.execGradeEnter s
  | .gradeLeave => Sys2Proof.Machine.execGradeLeave s
  | .contextPark ctx => Sys2Proof.Machine.execContextPark ctx s
  | .contextUnpark ctx => Sys2Proof.Machine.execContextUnpark ctx s
  | .regionFrequencyChange region => Sys2Proof.Machine.execRegionFrequencyChange region s
  | .dieGate die => Sys2Proof.Machine.execDieGate die s
  | .dieUngate die => Sys2Proof.Machine.execDieUngate die s
  | .regulatorFault region => Sys2Proof.Machine.execRegulatorFault region s
  | .regionDark region => Sys2Proof.Machine.execRegionDark region s
  | .feedLoss feed carries => Sys2Proof.Machine.execFeedLoss feed carries s
  | .powerOn => Sys2Proof.Machine.execPowerOn s
  | .substatClear => Sys2Proof.Machine.execSubstatClear s
  | .apertureWrite v => Sys2Proof.Machine.execApertureWrite v s
  | .killedClear v => Sys2Proof.Machine.execKilledClear v s
  | .cfgInstallSection v => Sys2Proof.Machine.execCfgInstallSection v s
  | .cfgInstallFirmware v => Sys2Proof.Machine.execCfgInstallFirmware v s
  | .cfgAttestation v => Sys2Proof.Machine.execCfgAttestation v s
  | .cfgCommandDone => Sys2Proof.Machine.execCfgCommandDone s
  | .hostBar1Access write off data => Sys2Proof.Machine.execHostBar1Access write off data s
  | .hostBar2Access write off data => Sys2Proof.Machine.execHostBar2Access write off data s
  | .attestationMessage header ctx reserved nonce sender => Sys2Proof.Machine.execAttestationMessage header ctx reserved nonce sender s
  | .arpRequest ip sender => Sys2Proof.Machine.execArpRequest ip sender s
  | .icmpEcho ip sender data => Sys2Proof.Machine.execIcmpEcho ip sender data s
  | .mgmtRegisterWrite num v => Sys2Proof.Machine.execMgmtRegisterWrite num v s
  | .illegalOp reserved word => Sys2Proof.Machine.execIllegalOp reserved word s
  | .vectorWordCompletion strand index => Sys2Proof.Machine.execVectorWordCompletion strand index s
  | .waitptComplete strand => Sys2Proof.Machine.execWaitptComplete strand s
  | .freePoolRefill die size frame => Sys2Proof.Machine.execFreePoolRefill die size frame s
  | .dhcp ip mask gateway => Sys2Proof.Machine.execDhcp ip mask gateway s
  | .dieUngateComplete die => Sys2Proof.Machine.execDieUngateComplete die s
  | .managementCoreKill ctx => Sys2Proof.Machine.execManagementCoreKill ctx s

end Sys2Proof.Machine
end

