-- ==== Sys2Proof/Machine/Issue.lean ====
section
/-! DEFINITION. Machine/Issue.lean: how a strand issues a group of words (R137, R154, R158, R159), the end tests and the
pre-emption points after it (R178, R182, R297), and how a conductor core issues a word (R155-R157, R346). -/
namespace Sys2Proof.Machine

/-- The state after an instruction. -/
def State.after (s : State) (i : Instr) : State :=
  match exec i s with
  | .next s => s
  | .fault _ => s
  | .refused _ => s

/-! Fetch and decode of a strand's words. -/

/-- What a strand finds at an address. -/
inductive Found where
  | word (i : Instr) (len : Nat) (s : State)
  | fault (c : Cause) (r : Rec) (s : State)
  /-- `frame` says that it waits for a free frame (R87) -/
  | wait (frame : Bool) (s : State)

/-- The word of a strand at an address. Its fetch meets an error in a control structure that it reads (R113). -/
def State.find (s : State) (n : Nat) (a : W64) : Found :=
  let core := coreOfStrand n
  let held (len : Nat) : Bool := s.walkHeld (dieOfCore core) (some core) (s.ctxOfStrand n) a len
  if held 4 then .wait false s
  else if (s.strandAt n).any (·.ctlFetch) then
    .fault .memControlError (Rec.addr a) (s.modStrand n fun st => { st with ctlFetch := false })
  else match s.fetchWord (coreOfStrand n) (s.ctxOfStrand n) a with
  | .trap c r s => .fault c r s
  | .wait s => .wait true s
  | .ok us s' =>
    if held (4 * us.length) || s.fetchHeld (coreOfStrand n) (s.ctxOfStrand n) a us.length then .wait false s
    else match s'.strandAt n with
    | some st => .word (st.inLoops a us) (4 * us.length) s'
    | none => .wait false s'

/-! After a group. -/

/-- Temporal levels of the strand's launch block that are marked preemptible, by nesting depth, 1 outermost (R36). -/
def State.preemptibleAt (s : State) (st : Strand) (depth : Nat) : Bool :=
  match (s.ttAt st.tt).bind fun t => s.blockAt t.block with
  | some b => (((b.lb.loops.filter fun l => l.kind = 0)[depth - 1]?).map (·.preempt)).getD false
  | none => false

/-- A LOOPP level found with a request at an end test: it starts no further iteration, and drains (R182). One of a single stage
has nothing to drain, and ends at once. -/
def Loop.drain (x : Loop) : Loop :=
  if x.draining then x
  else if x.index.toNat < x.total.toNat then
    { x with draining := true, left := x.total - x.index, total := x.index, lc := BitVec.ofNat 64 (x.stages - 1)
             active := 1 < x.stages }
  else { x with draining := true, left := 0 }

/-- The pre-emption points of the levels that a word tested: the levels after them, and whether the strand stops (R182).
`mark` says which levels are preemptible. -/
def pointStop (mark : Nat → Bool) (l : Tab Loop) : List Nat → Tab Loop × Bool
  | [] => (l, false)
  | i :: is =>
    let x := loopAt l i
    let (l', stop) := pointStop mark l is
    if !mark i then (l', stop)
    else if x.pipelined && x.active then (tset Loop.none l' i x.drain, stop || !x.drain.active)
    else (l', true)

/-- A strand after a group whose last word stood at an address with a length: a transfer, or the end tests and pre-emption
points (R178, R179, R182). `handler` says that the group issued in handler mode. -/
def State.finishGroup (s : State) (n : Nat) (handler : Bool) (last : W64) (len : Nat) (t : Option W64) : State :=
  match s.strandAt n with
  | none => s
  | some st =>
    if st.ended then s
    else
      let st := { st with groups := st.groups + 1, waiting := false, idle := false, commitWait := none }
      let next := last + BitVec.ofNat 64 len
      match t with
      | some t => s.setStrand n (some { st with pc := t })
      | none =>
        if handler then s.setStrand n (some { st with pc := next })
        else
          let e := endTests last (activeLevels st.loops) st.loops
          let mark (i : Nat) : Bool := s.preemptibleAt st (nesting st.loops i)
          let st := { st with pc := e.2.1.getD next, loops := e.1 }
          let asked := ((s.ttAt st.tt).bind (·.request)).isSome
          let p := if asked then pointStop mark st.loops e.2.2 else (st.loops, false)
          let st := { st with loops := p.1 }
          if st.stop.isSome then s.setStrand n (some st)
          else if p.2 then (s.setStrand n (some st)).stopStrand n .point
          else s.setStrand n (some st.resumed)

/-- The state as a group begins: who acts, and what the group reads (R159). -/
def State.enterGroup (s : State) (n : Nat) : State :=
  let s := { s with cur := .strand n, view := none }
  { s with view := some ⟨s.me, s.coreAt s.myCore, Conductor.init, 0, []⟩ }

/-- The state outside a group. -/
def State.leaveGroup (s : State) : State := { s with view := none }

/-- A word of the group performed, its traps left for the group. -/
def State.runAt (s : State) (a : W64) (len : Nat) (i : Instr) : State :=
  { s with slot := ⟨a, len, true⟩ }.after i

/-- A group waits at issue: the strand stands in the line of the semaphore it waits for. -/
def State.blocked (s : State) (n : Nat) (sem : Option (Nat × Nat)) : State :=
  let s := s.leaveGroup
  match sem with
  | some (i, t) => s.modCore (coreOfStrand n) (·.modSync (·.join i t (.strand n)))
  | none => s

/-- The entries whose accessed bit the walks of a group have set. -/
def State.walked (s : State) : List (Nat × Nat) := (s.view.map (·.walked)).getD []

/-- The accessed bits of entries set by walks whose accesses have no other effect (R292). -/
def State.setAccessed (s : State) (ws : List (Nat × Nat)) : State :=
  ws.foldl (fun s w =>
    let e := s.mem.readNat w.2 8
    if bits e 0 1 = 1 && bits e 8 1 = 0 then s.homeWrite8 w.1 w.2 (BitVec.ofNat 64 e ||| 0x400) else s) s

/-- The accessed bits that walks of a group have set stay, though the group has no other effect (R292). -/
def State.keepWalks (s0 s1 : State) : State := s0.setAccessed s1.walked

/-- The transaction of a strand as an abort in a group has left it: its code and that of a TXA stay, though the group has no
other effect (R102, R195). -/
def Strand.abortedAs (st : Strand) (after : Option Strand) : Strand :=
  match after with
  | some a => { st with txn := a.txn, txsCode := a.txsCode, txsTxa := a.txsTxa }
  | none => st

/-- A trap of a group (R159, R289): one of class I leaves the group unperformed, with EPC at its first word; one of class A
finds it performed. `s0` is the state before the group, `s1` that after it, under IGNORE for the trapping word. -/
def State.groupTrap (s0 s1 : State) (n : Nat) (c : Cause) (r : Rec) (handler : Bool) (pc last : W64) (len : Nat) : State :=
  let done := s1.leaveGroup.finishGroup n handler last len none
  if Cause.isAfter c then done.takeTrap n c r (last + BitVec.ofNat 64 len) done
  else
    let s := (s0.keepWalks s1).leaveGroup.modCore (coreOfStrand n) (·.modSync (·.leave (.strand n)))
    let s := if c = .txnAbortForced then s.modStrand n (·.abortedAs (s1.strandAt n)) else s
    s.takeTrap n c r pc done

/-- What a member of a group did. -/
inductive Did where
  | issued (s : State) (t : Option W64)
  | waits (sem : Option (Nat × Nat)) (s : State)
  | trapped (c : Cause) (r : Rec) (s : State)
  | ended (s : State)

/-- A member performed. -/
def State.try_ (s : State) (a : W64) (len : Nat) (i : Instr) : Did :=
  let s := s.runAt a len i
  match s.verdict with
  | .issued t => .issued s t
  | .waits sem => .waits sem s
  | .trapped c r => .trapped c r s
  | .ended => .ended s

/-- The lines of the semaphores as they stood before the group: a group that waits for several conditions keeps its place in
each line until it issues (R53, R159). -/
def State.keepLines (s s0 : State) (n : Nat) : State :=
  let lines := (s0.coreAt (coreOfStrand n)).sync.waiters
  s.modCore (coreOfStrand n) (·.modSync fun y => { y with waiters := lines })

/-- The second member of a group after the first has issued: `s0` before the group, `s1` after the first member; `bit` marks
its traps. Where one of them is not ready, both wait (R158, R159): for a semaphore that does not suffice for both, in its
line. `split` is the state where the second waits only behind the first. -/
def State.second (s0 s1 : State) (n : Nat) (handler : Bool) (pc a : W64) (len : Nat) (j : Instr) (bit : Nat) (split : State) :
    State :=
  match (s1.keepLines s0 n).try_ a len j with
  | .trapped c r s => s0.groupTrap s n c (r.withBit bit) handler pc a len
  | .ended s => s.leaveGroup
  | .issued s t =>
    (s.leaveGroup.modCore (coreOfStrand n) (·.modSync (·.leave (.strand n)))).finishGroup n handler a len t
  | .waits sem _ => match s0.try_ a len j with
    | .waits sem' s => s.blocked n sem'
    | _ => if sem.isSome then s0.blocked n sem else split

/-- A strand whose accesses have all been made. -/
def Strand.owesNothing (st : Strand) : Strand := { st with lq := [], sq := [], rels := [], fly := [] }

/-- With nothing else outstanding, the second member of a group would wait for the accesses that the first makes: together the
two could never issue. DESIGN CHOICE (log entry 96): the first then issues alone. -/
def State.selfHeld (s0 : State) (n : Nat) (pc : W64) (len : Nat) (i : Instr) (a : W64) (len' : Nat) (j : Instr) : Bool :=
  match ((s0.modStrand n (·.owesNothing)).enterGroup n).try_ pc len i with
  | .issued s _ => (match s.try_ a len' j with
      | .waits .. => true
      | _ => false) && (match (s.modMe (·.owesNothing)).try_ a len' j with
      | .waits .. => false
      | _ => true)
  | _ => false

/-- The second member of the group that a waiting word would begin: its address, its bytes and its instruction (R154, R158). -/
def State.otherMember (s : State) (n : Nat) (st : Strand) (i : Instr) (len : Nat) : Option (W64 × Nat × Instr) :=
  match engineHead i with
  | some h => match decodeScalar h.comp with
    | .ok c => some (st.pc, 24, c)
    | .error _ => none
  | none =>
    let next := st.pc + BitVec.ofNat 64 len
    match s.find n next with
    | .word j len' _ =>
      if joins st ((s.ttAt st.tt).map (·.vnames) |>.getD 0) st.pc i j then some (next, len', j) else none
    | _ => none

/-- The semaphore that keeps the second member of a waiting group from issuing: the group waits on it (R280). -/
def State.otherSem (s : State) (n : Nat) (st : Strand) (i : Instr) (len : Nat) : Option (Nat × Nat) :=
  (s.otherMember n st i len).bind fun (a, len', j) => match s.try_ a len' j with
    | .waits sem _ => sem
    | _ => none

/-- The companion of an engine word (R154). The wait of a companion is judged without its own engine word. -/
def State.companion (s0 s1 : State) (n : Nat) (handler : Bool) (pc : W64) (i : Instr) (u : W32) : State :=
  let bad (c : Cause) : State := s0.groupTrap s1 n c (Rec.zero.withBit 0) handler pc pc 24
  if u.getLsbD 0 then bad .illegalOp
  else if (scalarForm u).any fun x => barred x.2 then bad .illegalOp
  else match decodeScalar u with
    | .error .illegal => bad .illegalOp
    | .error .reserved => bad .reservedField
    | .ok c =>
        let split := match s0.try_ pc 24 c with
          | .issued s _ => (s.runAt pc 24 i).leaveGroup.finishGroup n handler pc 24 none
          | _ => s0.blocked n none
        s0.second s1 n handler pc pc 24 c 0 split

/-- A strand issues the group that begins with a word (R154, R158, R159). Words that issue past a branch and are squashed have a
turn of their own (R49, `State.stray`). -/
def State.issueGroup (s : State) (n : Nat) (st : Strand) (i : Instr) (len : Nat) : State :=
  let s0 := s.enterGroup n
  let pc := st.pc
  match s0.try_ pc len i with
  | .trapped c r s1 => { s0 with mem := s1.mem, ctxs := s1.ctxs }.groupTrap s1 n c r st.handler pc pc len
  | .waits sem s1 => s1.blocked n (sem.orElse fun _ => s0.otherSem n st i len)
  | .ended s1 => s1.leaveGroup
  | .issued s1 t =>
    let alone := s1.leaveGroup.finishGroup n st.handler pc len t
    match engineHead i with
    | some h => s0.companion s1 n st.handler pc i h.comp
    | none =>
      if t.isSome || barred i then alone
      else
        let next := pc + BitVec.ofNat 64 len
        match s1.find n next with
        | .word j len' s2 =>
          if joins st ((s.ttAt st.tt).map (·.vnames) |>.getD 0) pc i j then
            let split := if s0.selfHeld n pc len i next len' j then alone else s0.blocked n none
            s0.second { s2 with view := s1.view } n st.handler pc next len' j 1 split
          else alone
        | _ => alone

/-- A fault of the fetch of a strand's word (R52, R136): under IGNORE no instruction is left to retire, and the strand ends
abnormally. At a handler's first word it is a double fault (R287). -/
def State.fetchFault (s : State) (n : Nat) (st : Strand) (c : Cause) (r : Rec) : State :=
  if st.handler && st.pc = st.tvec then s.doubleFault n c st.tvec
  else if st.handler || st.tvec = 0 then
    let x := ((s.modStrand n (·.trapped)).noteTrap n c).containTt (s.faultOfStrand n) c r
    if x.2 then x.1.endStrand n else x.1
  else s.takeTrap n c r st.pc s

/-- The fetch of a strand's word waits for a free frame: the wait begins, goes on, or has ended (R87). -/
def State.fetchWait (s : State) (n : Nat) (st : Strand) : State :=
  let pt := s.pt (dieOfCore (coreOfStrand n))
  match st.commitWait with
  | some (t, _) => if t ≤ pt then s.fetchFault n st .commitFail (Rec.addr st.pc) else s
  | none => s.modStrand n fun st => { st with commitWait := some (pt + Config.commitWait, st.pc), waiting := true }

/-- Where a pending request stops a strand before it issues: in a transaction, at a wait, a REL's among them (R209), or once the grace period has elapsed
(R297). -/
def State.stopDue (s : State) (n : Nat) (st : Strand) : Option StopKind :=
  match (s.ttAt st.tt).bind (·.request) with
  | none => none
  | some (_, g) =>
    let waitv := st.lq.any fun o => match o.what with
      | .waitv .. => true
      | _ => false
    if st.txn.any (·.phase = 2) then none
    else if st.txn.isSome then some .forced
    else if st.waiting || waitv || st.rels ≠ [] then some .wait
    else if g ≤ s.pt (dieOfCore (coreOfStrand n)) then some .forced
    else none

/-- A strand takes its turn: it stops for a request, or issues one group. -/
def State.stepStrand (s : State) (n : Nat) : State :=
  match s.strandAt n with
  | none => s
  | some st =>
    if st.ended || st.stop.isSome then s
    else if ((s.ttAt st.tt).map (·.acquiring)).any (· ≠ []) then s.goOnAcquiring st.tt
    else match s.stopDue n st with
      | some k => s.stopStrand n k
      | none => match s.pcStop n st with
      | some ctx => (s.debugStop ctx).stopStrand n .forced
      | none => match s.find n st.pc with
        | .fault c r s => s.fetchFault n st c r
        | .wait frame s => if frame then s.fetchWait n st else s
        | .word i len s => s.issueGroup n st i len

/-- The register that a scalar slot writes (R156). -/
def slotDest : Instr → Option GReg
  | .add d _ _ | .sub d _ _ | .mul d _ _ | .mulh d _ _ | .mulhn d _ _ | .div d _ _ | .divn d _ _ | .rem d _ _ | .remn d _ _
  | .and d _ _ | .or d _ _ | .xor d _ _ | .shl d _ _ | .shr d _ _ | .sha d _ _ | .min d _ _ | .max d _ _ | .minn d _ _
  | .maxn d _ _ | .sel d _ _ => some d
  | .setcc _ d _ _ => some d
  | .clz d _ | .popc d _ => some d
  | .shli d _ _ | .shri d _ _ | .shai d _ _ => some d
  | .addi d _ _ | .andi d _ _ | .ori d _ _ | .xori d _ _ | .adda d _ _ => some d
  | .ldi d _ | .ldih d _ => some d
  | .ld _ d _ _ | .ldn _ d _ _ => some d
  | .semrd d _ => some d
  | .ptrd d => some d
  | .mfs d _ => some d
  | .jl _ => some 31
  | _ => none

/-! Words on a path that is squashed (R49). -/

/-- A word that may issue past a branch that has not resolved: a load, or a word with no effect on memory or synchronisation
(R49). -/
def strays (i : Instr) : Bool :=
  match i with
  | .nop | .b .. | .bz .. | .bnz .. | .bccc .. | .jl .. | .jr .. | .ld .. | .ldn .. | .ldS .. | .ldNb .. | .ldSp .. | .spld .. => true
  | .semrd .. | .ptrd .. | .mfs .. | .vst .. | .vsts .. | .vstm .. | .vstmPm .. => false
  | _ => match i.vword with
    | some (_, w) => w.wthr = 0 && w.sinc = 0
    | none => (slotDest i).isSome

/-- Where a strand may be predicted to go on after a branch at an address: past it or at its target, and for a target in a register
anywhere (R49). -/
def predicted (pc next a : W64) : Instr → Bool
  | .bz _ off => a = next || a = pc + (off.signExtend 64 <<< 2)
  | .bnz _ off => a = next || a = pc + (off.signExtend 64 <<< 2)
  | .bccc _ _ _ off => a = next || a = pc + (off.signExtend 64 <<< 2)
  | .jr _ => fieldOf a 0 2 = 0
  | _ => false

/-- The state as the next word of a path begins, with what the walks of the words before it have set. -/
def State.nextGroup (s : State) (n : Nat) : State :=
  let t := s.enterGroup n
  { t with view := t.view.map fun v => { v with walked := s.walked } }

/-- One word of a path that will be squashed, with its loads: the state it leads to; none where the front end stops. A walk that
would commit a lazy page waits (R292). -/
def State.strayWord (s : State) (n : Nat) : Option State :=
  match s.strandAt n with
  | none => none
  | some st => match (s.nextGroup n).find n st.pc with
    | .word i len s' =>
      if !strays i then none
      else match s'.try_ st.pc len i with
        | .issued t to_ =>
          let u := t.finishGroup n st.handler st.pc len to_
          if u.ctxs = s.ctxs then some ((upto 6).foldl (fun x _ => x.after (.globalLoadBind n)) u) else none
        | _ => none
    | _ => none

/-- Some words of a path that will be squashed. -/
def State.strayWords (n : Nat) : Nat → State → State
  | 0, s => s
  | k + 1, s => match s.strayWord n with
    | some t => State.strayWords n k t
    | none => s

/-- What a squashed path leaves: what its core's L1, instruction cache and TLB, its die's RDC and the L2 slices hold, the accessed
bits of its walks, and nothing else (R49, R292). -/
def State.keepFills (s t : State) (core : Nat) : State :=
  let x := t.coreAt core
  ((s.modCore core fun c => { c with l1 := x.l1, icache := x.icache, tlb := x.tlb }).modMem fun m => { m with
    rdc := t.mem.rdc, rdcSets := t.mem.rdcSets, l2Sets := t.mem.l2Sets, chanAccess := t.mem.chanAccess, refresh := t.mem.refresh
    }).setAccessed t.walked

/-- A strand at a branch runs some words from an address on that it is predicted to go to, and they are squashed (R49). How it
predicts, and how far it runs, the turn says. DESIGN CHOICE (log entry 114): a strand in a transaction does not. -/
def State.stray (s : State) (n : Nat) (a : W64) (k : Nat) : State :=
  match s.strandAt n with
  | none => s
  | some st =>
    if st.ended || st.stop.isSome || st.txn.isSome then s
    else match s.find n st.pc with
      | .word i len s' =>
        if predicted st.pc (st.pc + BitVec.ofNat 64 len) a i then
          s'.keepFills (State.strayWords n k (s'.setStrand n (some { st with pc := a }))) (coreOfStrand n)
        else s
      | _ => s

/-! The order within a clock (R198). -/

/-- The core whose semaphores an act may change, and its place in the order of one clock: partitions first, then the engine
queues (R198). -/
def Act.semRank : Act → Option (Nat × Nat)
  | .strand n => some (coreOfStrand n, n % 8)
  | .event (.engineCommandComplete core q _) => some (core, 8 + q)
  | .event (.sfjCompletion core) => some (core, 14)
  | .event (.chainSignal core q) => some (core, 9 + q)
  | .event (.chainEnd core q) => some (core, 9 + q)
  | _ => none

/-- The turns that share the clock of the one before them, up to the first turn of an agent that has had one: an agent acts once
in a clock. -/
def sameClock (seen : List Act) : List Turn → List Turn
  | [] => []
  | t :: ts => if t.dt ≠ 0 || seen.contains t.act then [] else t :: sameClock (t.act :: seen) ts

/-- The agenda with the turn first that R198 serves first in the clock of the first listed: of the turns of that clock at its
core, the one of lowest place. -/
def orderClock : List Turn → List Turn
  | [] => []
  | t :: ts => match t.act.semRank with
    | none => t :: ts
    | some (core, r) =>
      let run := sameClock [t.act] ts
      let place (x : Turn) : Nat := match x.act.semRank with
        | some (c, k) => if c = core then k else 15
        | none => 15
      let best := run.foldl (fun m x => min m (place x)) r
      match if best < r then run.findIdx? (fun x => place x = best) else none with
      | none => t :: ts
      | some i => match ts[i]? with
        | none => t :: ts
        | some x => { t with act := x.act, choice := x.choice } :: { t with dt := 0, skew := 0 } :: ts.eraseIdx i

/-! Conductor words (R155-R157). -/

/-- A scalar slot that counts as a transfer of control (R156). -/
def transfers : Instr → Bool
  | .b .. | .bccc .. | .bz .. | .bnz .. | .jl .. | .jr .. | .loop .. | .loopg .. => true
  | _ => false

/-- The end of a conductor loop: a multiple of 12, from 12 (R346). -/
def loopEndOk : Instr → Bool
  | .loop _ _ last | .loopg _ _ last => last ≠ 0 && last.toNat % 12 = 0
  | _ => true

/-- The instruction of a scalar slot: a word of another kind is illegal whatever its unused bits hold (R156, R346). -/
def scalarSlot (u : W32) : Except Bad (Option Instr) :=
  match scalarForm u with
  | none => .error .illegal
  | some (unusedZero, i) =>
    if conductorScalar i && loopEndOk i then (acceptIf unusedZero i).map some else .error .illegal

/-- The instruction of a slot by its number (R155). -/
def slotOf (k : Nat) (u : W32) : Except Bad (Option Instr) :=
  if k < 2 then scalarSlot u else if k < 11 then decodeDieOp (BitVec.ofNat 4 (k - 2)) u else decodeCdOp u

/-- The instructions of a conductor word in slot order, or why it is refused (R156, R157). DESIGN CHOICE (log entry 109): g0 is no
register that two slots write. -/
def slotsOf (us : List W32) : Except Bad (List Instr) :=
  let rec go : Nat → List W32 → Except Bad (List Instr)
    | _, [] => .ok []
    | k, u :: us => match slotOf k u, go (k + 1) us with
      | .error b, _ => .error b
      | .ok _, .error b => .error b
      | .ok (some i), .ok l => .ok (i :: l)
      | .ok none, .ok l => .ok l
  match go 0 us with
  | .error b => .error b
  | .ok l =>
    let both := (l.take 2).filter fun i => transfers i
    let dests := ((l.take 2).filterMap slotDest).filter (· ≠ 0)
    if both.length = 2 || (dests.length = 2 && dests.eraseDups.length = 1) then .error .illegal else .ok l

/-- What a conductor word did. -/
inductive WordDid where
  | done (s : State) (t : Option W64)
  | waits (i : Instr) (sem : Option (Nat × Nat))
  | trapped (c : Cause) (r : Rec)

/-- The slots of a conductor word performed in order (R159). -/
def State.runSlots (s : State) (t : Option W64) : List Instr → WordDid
  | [] => .done s t
  | i :: l =>
    let s := s.after i
    match s.verdict with
    | .issued t' => s.runSlots (t'.orElse fun _ => t) l
    | .waits sem => .waits i sem
    | .trapped c r => .trapped c r
    | .ended => .done s t

/-- The state as a conductor word issues (R159). -/
def State.enterWord (s : State) (k : Nat) (pc : W64) : State :=
  { s with
    cur := .conductor k, slot := ⟨pc, 48, true⟩
    view := some ⟨Strand.init, Core.init, s.condAt k, 0, []⟩ }

/-- A conductor core after a word: a transfer, or the end tests (R178, R346). The overlay may have been stopped or run again by
the word itself. -/
def State.finishWord (s : State) (k run : Nat) (pc : W64) (t : Option W64) : State :=
  if (s.condAt k).run ≠ run then s
  else s.modCond k fun c =>
    let c := { c with waitPt := none }
    match t with
    | some t => { c with pc := t }
    | none =>
      let e := endTests pc (activeLevels c.loops) c.loops
      { c with pc := e.2.1.getD (pc + 48), loops := e.1 }

/-- A word of a conductor core that waits performs nothing (R157): it keeps its place in the lines it stands in. -/
def State.condBlocked (s0 : State) (k : Nat) (i : Instr) (sem : Option (Nat × Nat)) : State :=
  let sa := { s0 with view := none }.after i
  let s := match sa.verdict with
    | .waits _ => sa
    | _ => s0
  let s := { s with view := none }
  match sem with
  | some (m, t) => s.modCond k fun c => { c with sync := c.sync.join m t (.strand 0) }
  | none => s

/-- A fault of a conductor word, offered to the task level (R157): absorbed under IGNORE the core goes on with the next word,
or, for a fault of the fetch, the overlay ends there. -/
def State.condFault (s : State) (k run : Nat) (pc : W64) (c : Cause) (r : Rec) (fetch : Bool) : State :=
  let x := s.containTask (s.faultOfCond k) c r
  if x.2 && (x.1.condAt k).run = run then
    x.1.modCond k fun y => if fetch then { y with swapping := true } else { y with pc := pc + 48, waitPt := none }
  else x.1

/-- A conductor core's word lies in its overlay, before the trailer (R264). -/
def State.inOverlay (s : State) (g t : Nat) (pc : W64) : Bool :=
  match s.taskAt g t with
  | some x => x.info.ovOff ≤ pc.toNat && pc.toNat + 48 ≤ x.info.ovOff + x.info.ovLen - 64
  | none => false

/-- A conductor core takes its turn: it issues one word (R155). -/
def State.stepConductor (s : State) (k : Nat) : State :=
  let c := s.condAt k
  match c.task with
  | none => s
  | some (g, t) =>
    if c.swapping || c.stopped then s
    else if !s.inOverlay g t c.pc then s.condFault k c.run c.pc .translation (Rec.addr c.pc) true
    else match slotsOf (s.fetchSlots c.pc.toNat) with
      | .error .illegal => s.condFault k c.run c.pc .illegalOp Rec.zero false
      | .error .reserved => s.condFault k c.run c.pc .reservedField Rec.zero false
      | .ok l =>
        let s0 := s.enterWord k c.pc
        match s0.runSlots none l with
        | .done s1 t => ({ s1 with view := none }).finishWord k c.run c.pc t
        | .waits i sem => s0.condBlocked k i sem
        | .trapped cause r => s.condFault k c.run c.pc cause r false

end Sys2Proof.Machine
end

