-- ==== Sys2Proof/Machine/Step.lean ====
section
/-! DEFINITION. Machine/Step.lean: one step of the package. A step takes one turn: time passes, and a strand issues a group, a
conductor core issues a word, an event happens, or words run on a path that is squashed. Which turn comes next is data of the state (log entry 1). -/
namespace Sys2Proof.Machine

/-- The turn of the agent that acted last, one ns later: what is taken when the agenda lists none (log entry 1). -/
def State.idleTurn (s : State) : Turn :=
  match s.cur with
  | .strand n => ⟨1, 0, .strand n, 0⟩
  | .conductor k => ⟨1, 0, .conductor k, 0⟩

/-- The turn that comes next: turns that share a clock come in the order of R198. -/
def State.turn (s : State) : Turn :=
  match orderClock s.agenda with
  | t :: _ => t
  | [] => s.idleTurn

/-- The turns after it. -/
def State.popTurn (s : State) : State := { s with agenda := (orderClock s.agenda).tail }

/-- What may happen without power (R324). -/
def Act.offPower : Act → Bool
  | .event (.powerOn) => true
  | .event (.feedLoss _ _) => true
  | _ => false

/-- A turn taken, its time having passed. -/
def State.take (s : State) : Act → Host.Outcome State Fault Refusal
  | .strand n => .next (s.stepStrand n)
  | .conductor k => .next (s.stepConductor k)
  | .event i => exec i s
  | .stray n a k => .next (s.stray n a k)

/-- The state as a turn finds it: time has passed, and the turn's choice stands. -/
def State.beginTurn (s : State) : State := { s.popTurn.elapse s.turn.dt s.turn.skew with choice := s.turn.choice }

/-- One step. Without power nothing but the return of power happens (R324). -/
def step (s : State) : Host.Outcome State Fault Refusal :=
  if !s.energy.powered && !s.turn.act.offPower then .fault .powerOff else s.beginTurn.take s.turn.act

/-! A state whose next step fetches and runs a given instruction: a context, a tile task and a strand of it, put in place as
the management core and the dispatchers put them (log entry 6). -/

/-- Where the instruction is put, and the first bytes of three page tables. -/
def homeTable (lvl : Nat) : Nat := 0x1000 * (5 - lvl)

/-- The virtual and physical address of the instruction. -/
def homePc : Nat := 0x8000

/-- A valid pointer entry to a table, and a leaf of 1 GiB at address 0 with every right, accessed and dirty (R80). -/
def homeEntries : List (Nat × Nat) :=
  [(homeTable 4, homeTable 3 + 1), (homeTable 3, homeTable 2 + 1), (homeTable 2, 0xC1F)]

/-- Frame 0 ordinary and readable, with the tables and the bytes of an instruction. -/
def MemState.withBytes (m : MemState) (bs : List Byte) : MemState :=
  let m := { m with
    frames := tset .normal m.frames 0 .normal
    dead := tset false m.dead 0 false
    poison := tfilter (fun k _ => 1023 < k) m.poison
    locks := tfilter (fun k _ => 2047 < k) m.locks }
  { m with bytes := tsets 0 (homeEntries.foldl (fun (t : Tab Byte) (x : Nat × Nat) => tsets 0 t x.1 (natBytes 8 x.2)) m.bytes) homePc bs }

/-- A privileged context with those tables. -/
def homeCtx : Ctx where
  privileged := true
  debuggable := false
  policy := .killSelf
  limit := 0
  ceiling := 0
  commit := 0
  root0 := BitVec.ofNat 64 (homeTable 4)
  root1 := 0
  mbBase := 0
  mbCount := 0
  trtfb := 0
  flogOff := 0
  flogCap := 0
  flogWait := []
  spillOff := 0
  spillCap := 0
  heapOff := 0
  heapSize := 0
  spill := []
  spillHead := 0
  spillWait := false
  spillResv := 0
  heapUsed := 0
  parked := false
  killing := false
  armed := false
  misses := 0
  escrow := none

/-- A launch block of one iteration. -/
def homeBlock : Block where
  ctx := 0
  graph := 0
  task := 0
  via := .pool
  addr := 0
  lb := { LbRec.empty with semWin := 128, spmUnits := 8, codeBase := BitVec.ofNat 64 homePc, vnames := 256, dieMask := 1 }
  deadline := 0
  seq := some 0
  total := 1
  ranges := []
  untaken := []
  waiting := false
  ready := []
  held := []
  done := 0
  frame := none
  released := true
  published := []
  excused := []
  retriedIts := []
  restarted := []
  retried := false
  parent := 0

/-- Its tile task, of one computer strand, on core 0. -/
def homeTask : TileTask where
  block := 0
  graph := none
  idx := 0
  ctx := 0
  core := 0
  strands := [0]
  g1 := 0
  g2 := 0
  g3 := 0
  vnames := 256
  modeK := false
  dead := false
  spmBase := 0
  spmUnits := 8
  semBase := 0
  semLen := 128
  reserved := 0
  heapAt := 0
  wantsMxe := false
  request := none
  parking := false
  cutting := false
  acquiring := []
  saving := false
  killAfter := false
  failing := false
  retry := false
  resumes := 0

/-- The state with an instruction stored where the next step fetches it: the low `nbits` bits of `w`, every bit above them 0, up
to the longest instruction. -/
def State.withFetchWord (s : State) (nbits w : Nat) : State :=
  let s := s.modMem (·.withBytes (natBytes longest (w % 2 ^ nbits)))
  let s := (s.setCtx 0 (some homeCtx)).setBlock 0 (some homeBlock)
  let s := (s.setTt 0 (some homeTask)).setStrand 0 (some { Strand.init with
    role := .computer, pc := BitVec.ofNat 64 homePc })
  let s := (s.modCore 0 fun c => { c with tlb := [], icache := [] }).modEnergy fun e => { e with powered := true }
  { s with agenda := ⟨0, 0, .strand 0, 0⟩ :: s.agenda, cur := .strand 0 }

end Sys2Proof.Machine
end

