-- ==== Sys2Proof/Safety.lean ====
section
/-! DEFINITION. Safety.lean: what counts as a safe run, in the terms that claims use. -/
namespace Sys2Proof.Machine

/-- The invariant of the package: its memory is in canonical form. -/
abbrev State.Inv (s : State) : Prop := Memory.wf s.mem = true

/-- The next turn may be taken: the package has power, or the turn is about power (R324). -/
abbrev State.canStep (s : State) : Prop := s.energy.powered = true ∨ s.turn.act.offPower = true

/-- Every register of a list has been produced (R166). -/
abbrev State.produced (s : State) (rs : List GReg) : Prop := ∀ r ∈ rs, s.gBusy r = false

/-- No register of a list carries a poison tag (R166). -/
abbrev State.clear (s : State) (rs : List GReg) : Prop := ∀ r ∈ rs, s.gt r = false

/-- Strand n acts and stands as given: outside a group, or as the first word of a group finds it, which reads what stands
there (R159). -/
abbrev State.acts (s : State) (n : Nat) (st : Strand) : Prop :=
  s.cur = .strand n ∧ s.strandAt n = some st ∧
  (s.view = none ∨ s.view = some ⟨st, s.coreAt (coreOfStrand n), Conductor.init, 0, []⟩)

/-- Conductor core k acts: outside a word, or as the first slot of a word finds it (R159). -/
abbrev State.conducts (s : State) (k : Nat) : Prop :=
  s.cur = .conductor k ∧ (s.view = none ∨ s.view = some ⟨Strand.init, Core.init, s.condAt k, 0, []⟩)

/-- What a strand word leaves as it was when it changes its strand only: every other strand, every core, all of memory, and
every other part of the package. -/
def State.onlyStrand (s t : State) (n : Nat) : Prop :=
  { t with strands := s.strands, verdict := s.verdict } = s ∧ (∀ m, m ≠ n → t.strandAt m = s.strandAt m) ∧
  ∀ pa, t.mem.readByte pa = s.mem.readByte pa

/-- A vector word may issue (R137, R151, R166, R216): its names, clusters and clauses are in order, its scalar registers produced and
those that form an address untagged, its wait clause served, and its prior values, operands and reservations answered. `s0` is
the state once memory has been asked, `x` what the elements work on, `places` where a port's pushes go, and `u` the state from
which the result is written. -/
structure VReady (s s0 u : State) (opc : Nat) (w : VWord) (addr vals : List GReg) (x : VIn) (places : List Nat) : Prop where
  placed : vPlaced opc s.vnames ((s.myTt.map (·.semLen)).getD 0) w = none
  produced : s.produced (addr ++ vals)
  clear : s.clear addr
  rels : w.sinc = 0 ∨ (s.settleRels s.myNum).me.rels = []
  served : w.wthr = 0 ∨
    (let sem := semNum ((s.myTt.map (·.semBase)).getD 0) w.wsem.toNat
     ((s.coreAt s.myCore).sem sem).poisoned = false ∧ s.me.deadlock = false ∧
     (s.coreAt s.myCore).sync.ready sem w.wthr.toNat (.strand s.myNum) = true)
  answered : ∃ p s1 q s2 s3, s0.priorOf w opc = .ok p s1 ∧ s1.readOperands (vOperands opc w) = .ok q s2 ∧
    (match vTarget opc w with
     | some (n, g) => (s2.freeLast (vOperands opc w)).reserve n s0.nextTok g 0
     | none => .ok [] (s2.freeLast (vOperands opc w))) = .ok places s3 ∧
    x = ⟨q.1, q.2 || p.2 || s3.govTag w || vals.any s3.gt, p.1, s3.enabled w⟩ ∧
    u = (if w.wthr = 0 then s3 else s3.modCore s3.myCore (·.modSync (·.take
           (semNum ((s.myTt.map (·.semBase)).getD 0) w.wsem.toNat) w.wthr.toNat (.strand s.myNum))))

/-- The signal clause of a command, if it is performed, keeps its semaphore within 65,535 (R151). -/
def State.signalFits (s : State) (core : Nat) (x : Cmd) : Prop :=
  x.discard = true ∨ ∀ i k, x.sig = some (i, k) →
    ((s.coreAt core).sem i).poisoned = true ∨ ((s.coreAt core).sem i).count + k ≤ 65535

/-- A graph's header and task records, read from `s'` on, are well formed (R31-R33, R269): `s3` is the state once they have been
read and the graph has been entered, `ts` the tasks and `y` the graph as it is entered, before its tasks stand in it. -/
structure Accepts (s' s3 : State) (ctx : Nat) (header : W64) (ts : List TaskRec) (y : Graph) : Prop where
  aligned : header.toNat % 64 = 0
  good : ∃ (b : List Byte) (s1 s2 : State), s'.cdRead ctx header 64 = .ok b s1 ∧ s1.work.graphSeq = s'.work.graphSeq ∧
    recF b 0 4 % 16 = 1 ∧ recF b 0 4 / 64 = 0 ∧ 1 ≤ recF b 4 4 ∧ recF b 4 4 ≤ 65536 ∧ recF b 8 8 % 128 = 0 ∧ recF b 0x18 40 = 0 ∧
    y = ⟨ctx, s'.work.graphSeq + 1, header, BitVec.ofNat 64 (s1.pt cd), policyOf (recF b 0 4 / 16 % 4),
      BitVec.ofNat 64 (recF b 0x10 8), [], false, none⟩ ∧
    s1.readTasks ctx (BitVec.ofNat 64 (recF b 8 8)) (recF b 4 4) 0 = (s2, .tasks ts) ∧
    s3 = ((s2.endFrameWait .accept).modWork fun w => { w with graphSeq := s'.work.graphSeq + 1 }).setGraph
      (s'.work.graphSeq + 1) (some y)
  entered : s3.graphAt (s'.work.graphSeq + 1) = some y
  shape : shapeOk ts = true
  sound : ∀ t ∈ ts, t.bad = false

/-- A run of some steps that meets no stop. -/
def Runs : Nat → State → State → Prop
  | 0, s, t => t = s
  | k + 1, s, t => ∃ u, step s = .next u ∧ Runs k u t

/-- A run is safe when it meets no stop and every state on it keeps the invariant. -/
def SafeRun : Nat → State → Prop
  | 0, s => s.Inv
  | k + 1, s => s.Inv ∧ ∃ u, step s = .next u ∧ SafeRun k u

end Sys2Proof.Machine
end

