-- ==== Sys2Proof/Certificates/Slice0/Obligations.lean ====
section
/-! DEFINITION. Certificates/Slice0/Obligations.lean: the statements for the provers. Each says which rules of spec/ it
formalises. -/
open Sys2Proof Sys2Proof.Machine

/-! Scalar words that write a register (R166, R170-R172). A result is tagged when a register read is tagged. -/

/-- R170, R171, R172: integer arithmetic. Logic, shifts, counts, minima and maxima, comparison and selection, bit by bit or as integers. SEL
is tagged as d and the source it selects. Immediates. LDI is untagged; ADDA adds to bits [55:0] and keeps bits [63:56]. -/
def Obligations.ScalarResults : Prop :=
  (∀ (s : State) (d a b : GReg), s.produced [a, b] →
     let A := s.g a
     let B := s.g b
     let put (v : W64) : State := (s.setG d v (s.gt a || s.gt b)).issued
     exec (.add d a b) s = .next (put (BitVec.ofInt 64 (A.toInt + B.toInt))) ∧
     exec (.sub d a b) s = .next (put (BitVec.ofInt 64 (A.toInt - B.toInt))) ∧
     exec (.mul d a b) s = .next (put (BitVec.ofNat 64 (A.toNat * B.toNat))) ∧
     exec (.mulh d a b) s = .next (put (BitVec.ofInt 64 (A.toInt * B.toInt / 2 ^ 64))) ∧
     exec (.mulhn d a b) s = .next (put (BitVec.ofNat 64 (A.toNat * B.toNat / 2 ^ 64))) ∧
     exec (.div d a b) s = .next (put (if B = 0 then -1
       else if A.toInt = -2 ^ 63 ∧ B.toInt = -1 then A else BitVec.ofInt 64 (A.toInt.tdiv B.toInt))) ∧
     exec (.divn d a b) s = .next (put (if B = 0 then -1 else BitVec.ofNat 64 (A.toNat / B.toNat))) ∧
     exec (.rem d a b) s = .next (put (if B = 0 then A
       else if A.toInt = -2 ^ 63 ∧ B.toInt = -1 then 0 else BitVec.ofInt 64 (A.toInt.tmod B.toInt))) ∧
     exec (.remn d a b) s = .next (put (if B = 0 then A else BitVec.ofNat 64 (A.toNat % B.toNat)))) ∧
  (∀ (s : State) (c : Cmp) (d a b : GReg), s.produced [a, b] →
     let A := s.g a
     let B := s.g b
     let n := B.toNat % 64
     let put (v : W64) : State := (s.setG d v (s.gt a || s.gt b)).issued
     let put1 (v : W64) : State := (s.setG d v (s.gt a)).issued
     (∃ v : W64, exec (.and d a b) s = .next (put v) ∧ ∀ k < 64, v.getLsbD k = (A.getLsbD k && B.getLsbD k)) ∧
     (∃ v : W64, exec (.or d a b) s = .next (put v) ∧ ∀ k < 64, v.getLsbD k = (A.getLsbD k || B.getLsbD k)) ∧
     (∃ v : W64, exec (.xor d a b) s = .next (put v) ∧ ∀ k < 64, v.getLsbD k = (A.getLsbD k ^^ B.getLsbD k)) ∧
     (∃ v : W64, exec (.shl d a b) s = .next (put v) ∧ ∀ k < 64, v.getLsbD k = (decide (n ≤ k) && A.getLsbD (k - n))) ∧
     (∃ v : W64, exec (.shr d a b) s = .next (put v) ∧ ∀ k < 64, v.getLsbD k = A.getLsbD (k + n)) ∧
     (∃ v : W64, exec (.sha d a b) s = .next (put v) ∧
       ∀ k < 64, v.getLsbD k = if k + n < 64 then A.getLsbD (k + n) else A.getLsbD 63) ∧
     exec (.min d a b) s = .next (put (BitVec.ofInt 64 (min A.toInt B.toInt))) ∧
     exec (.max d a b) s = .next (put (BitVec.ofInt 64 (max A.toInt B.toInt))) ∧
     exec (.minn d a b) s = .next (put (BitVec.ofNat 64 (min A.toNat B.toNat))) ∧
     exec (.maxn d a b) s = .next (put (BitVec.ofNat 64 (max A.toNat B.toNat))) ∧
     (∃ z : Nat, exec (.clz d a) s = .next (put1 (BitVec.ofNat 64 z)) ∧ (A = 0 → z = 64) ∧
       (A ≠ 0 → z ≤ 63 ∧ A.toNat / 2 ^ (63 - z) = 1)) ∧
     exec (.popc d a) s = .next (put1 (BitVec.ofNat 64 ((List.range 64).countP fun k => A.getLsbD k))) ∧
     (s.gBusy d = false → exec (.sel d a b) s = .next (
       if s.g d = 0 then (s.setG d B (s.gt d || s.gt b)).issued else (s.setG d A (s.gt d || s.gt a)).issued)) ∧
     exec (.setcc c d a b) s = .next (put (if (match c with
       | .eq => decide (A = B) | .ne => decide (A ≠ B)
       | .lt => decide (A.toInt < B.toInt) | .ge => decide (B.toInt ≤ A.toInt)
       | .ltn => decide (A.toNat < B.toNat) | .gen => decide (B.toNat ≤ A.toNat)) then 1 else 0))) ∧
  (∀ (s : State) (d a : GReg) (sh : BitVec 6) (im : BitVec 15), s.produced [a] →
     let A := s.g a
     let put (v : W64) : State := (s.setG d v (s.gt a)).issued
     exec (.shli d a sh) s = .next (put (BitVec.ofNat 64 (A.toNat * 2 ^ sh.toNat))) ∧
     exec (.shri d a sh) s = .next (put (BitVec.ofNat 64 (A.toNat / 2 ^ sh.toNat))) ∧
     exec (.shai d a sh) s = .next (put (BitVec.ofInt 64 (A.toInt / 2 ^ sh.toNat))) ∧
     exec (.addi d a im) s = .next (put (BitVec.ofInt 64 (A.toInt + im.toInt))) ∧
     exec (.andi d a im) s = .next (put (A &&& BitVec.ofInt 64 im.toInt)) ∧
     exec (.ori d a im) s = .next (put (A ||| BitVec.ofNat 64 im.toNat)) ∧
     exec (.xori d a im) s = .next (put (A ^^^ BitVec.ofNat 64 im.toNat)) ∧
     exec (.ldi d im) s = .next ((s.setG d (BitVec.ofInt 64 im.toInt) false).issued) ∧
     (s.gBusy d = false → exec (.ldih d im) s =
       .next ((s.setG d (BitVec.ofNat 64 ((s.g d).toNat * 2 ^ 15 + im.toNat)) (s.gt d)).issued)) ∧
     exec (.adda d a im) s = .next (put (BitVec.ofNat 64 (A.toNat / 2 ^ 56 * 2 ^ 56 +
       (((A.toNat : Int) + im.toInt) % 2 ^ 56).toNat))))

/-- R171: division never traps, and has the results of the table at the edges of the range. -/
def Obligations.DivisionEdges : Prop :=
  ∀ (s : State) (d a b : GReg), s.produced [a, b] →
    let A := s.g a
    let gives (i : Instr) (v : W64) : Prop := exec i s = .next ((s.setG d v (s.gt a || s.gt b)).issued)
    (∀ i ∈ [Instr.div d a b, .divn d a b, .rem d a b, .remn d a b], ∃ t, exec i s = .next t ∧ t.verdict = .issued none) ∧
    (s.g b = 0 → gives (.div d a b) (-1) ∧ gives (.divn d a b) (BitVec.ofNat 64 (2 ^ 64 - 1)) ∧ gives (.rem d a b) A ∧
      gives (.remn d a b) A) ∧
    (A.toInt = -2 ^ 63 → (s.g b).toInt = -1 → gives (.div d a b) (BitVec.ofInt 64 (-2 ^ 63)) ∧
      gives (.divn d a b) (BitVec.ofNat 64 (A.toNat / (s.g b).toNat)) ∧ gives (.rem d a b) 0 ∧
      gives (.remn d a b) (BitVec.ofNat 64 (A.toNat % (s.g b).toNat)))

/-! Registers as words read and write them (R20, R166). -/

/-- R20, R166: what a write to a scalar register leaves. g0 reads 0, untagged, and a write to it is discarded; in a strand a write sets the
value and the tag of its register, ends the wait for an earlier producer, and leaves every other register; nothing else of the package
changes. -/
def Obligations.RegisterWrites : Prop :=
  (∀ s : State, s.g 0 = 0 ∧ s.gt 0 = false ∧ s.gBusy 0 = false) ∧
  (∀ (s : State) (n : Nat) (st : Strand) (d : GReg) (v : W64) (tag : Bool), s.acts n st →
    let t : State := { s.setG d v tag with view := none }
    (d ≠ 0 → t.g d = v ∧ t.gt d = tag ∧ t.gBusy d = false) ∧
    (∀ r, r ≠ d → t.g r = s.g r ∧ t.gt r = s.gt r ∧ t.gBusy r = s.gBusy r) ∧
    s.onlyStrand (s.setG d v tag) n ∧
    (∃ st', t.strandAt n = some st' ∧ { st' with g := st.g, gtag := st.gtag, busy := st.busy } = st)) ∧
  (∀ (s : State) (k : Nat) (d : GReg) (v : W64) (tag : Bool), s.conducts k →
    let t : State := { s.setG d v tag with view := none }
    (d ≠ 0 → t.g d = v) ∧ (∀ r, r ≠ d → t.g r = s.g r) ∧ (∀ r, t.gt r = false) ∧ t.mem = s.mem ∧ t.strands = s.strands)

/-! Control flow (R173-R180, R184, R185). -/

/-- R173, R174, R179: branches. A taken branch goes to the word's address plus 4 times its offset; one not taken falls through. A conductor
core's target is a multiple of 16 (R346). Memory and registers keep their values, but for g31, which receives the next word's address in JL.
A taken branch of a strand outside a handler that leaves the body of an active level makes it and the levels inner to it inactive, their
counters as they are; every other level stays as it is.
-/
def Obligations.Branches : Prop :=
  ∀ (s : State) (a b : GReg) (c : Cmp) (o24 : BitVec 24) (o19 : BitVec 19) (o14 : BitVec 14),
    let to_ (off : Int) : W64 := BitVec.ofInt 64 (s.slot.addr.toNat + 4 * off)
    let fits (x : W64) : Prop := s.conducting = false ∨ x.toNat % 16 = 0
    let taken (i : Instr) (x : W64) : Prop := ∃ t, exec i s = .next t ∧ t.verdict = .issued (some x) ∧ t.mem = s.mem ∧
      (∀ r, t.g r = s.g r ∧ t.gt r = s.gt r) ∧ (s.handling = true → t = { s with verdict := .issued (some x) })
    (fits (to_ o24.toInt) → taken (.b o24) (to_ o24.toInt)) ∧
    (fits (to_ o24.toInt) → exec (.jl o24) s = .next
      ({ s.setG 31 (s.slot.addr + BitVec.ofNat 64 s.slot.len) false with verdict := .issued (some (to_ o24.toInt)) })) ∧
    (s.produced [a] → s.clear [a] →
      (s.g a = 0 → fits (to_ o19.toInt) → taken (.bz a o19) (to_ o19.toInt)) ∧
      (s.g a ≠ 0 → exec (.bz a o19) s = .next { s with verdict := .issued none }) ∧
      (s.g a ≠ 0 → fits (to_ o19.toInt) → taken (.bnz a o19) (to_ o19.toInt)) ∧
      (s.g a = 0 → exec (.bnz a o19) s = .next { s with verdict := .issued none }) ∧
      ((s.g a).toNat % 4 = 0 → fits (s.g a) → taken (.jr a) (s.g a))) ∧
    (s.produced [a, b] → s.clear [a, b] →
      (holds c (s.g a) (s.g b) = true → fits (to_ o14.toInt) → taken (.bccc c a b o14) (to_ o14.toInt)) ∧
      (holds c (s.g a) (s.g b) = false → exec (.bccc c a b o14) s = .next { s with verdict := .issued none })) ∧
    (∀ n st i t x, s.acts n st → st.handler = false → i ∈ [Instr.b o24, .bz a o19, .bnz a o19, .bccc c a b o14, .jr a] →
      exec i s = .next t → t.verdict = .issued (some x) →
      let leaves (j : Nat) : Prop := j < 4 ∧ (loopAt st.loops j).active = true ∧
        (loopAt st.loops j).inBody s.slot.addr = true ∧ (loopAt st.loops j).inBody x = false
      ∃ st', t.strandAt n = some st' ∧ { st' with loops := st.loops } = st ∧ s.onlyStrand t n ∧ ∀ j,
        (j < 4 → (loopAt st.loops j).active = true → (∃ k, leaves k ∧ (loopAt st.loops k).depth ≤ (loopAt st.loops j).depth) →
          loopAt st'.loops j = { loopAt st.loops j with active := false, left := 0 }) ∧
        ((∀ k, leaves k → (loopAt st.loops j).active = true → (loopAt st.loops j).depth < (loopAt st.loops k).depth) →
          loopAt st'.loops j = loopAt st.loops j))

/-- R175-R177, R181, R178: entry to a hardware loop in a strand. With every check met and the end word read, a count of 0 goes to the
after-body address, and another activates the level with its counter, body start and end word, innermost; LOOPP with one stage does the
same, as a pipelined level. LOOPP with two or more stages
activates its level with N + S - 1 executions of the body, execution 0 first, and only the words of stage 0 enabled; with a count of 0 it
goes to the after-body address. A conductor core has LOOP and LOOPG, on words of 48 bytes (R346). The end test of a level whose counter is
above 1 counts down and goes back to the body start, and one whose counter is 1 ends the level; a pipelined level goes to its next execution
with either. Where two levels share an end word, the inner is tested first, and the outer once the inner has ended. -/
def Obligations.Loops : Prop :=
  (∀ (s u : State) (n : Nat) (st : Strand) (lv : BitVec 2) (cnt : BitVec 8) (a : GReg) (last : BitVec 12) (e z : W64),
     s.acts n st → s.loopChecks lv last = none → s.endWord last = .ok (e, z) u → u.cur = .strand n → u.slot = s.slot →
     (u.strandAt n).isSome → s.produced [a] → s.clear [a] →
     let enters (i : Instr) (c : W64) (pipe : Bool) : Prop :=
       (c = 0 → exec i s = .next { u with verdict := .issued (some z) }) ∧
       (c ≠ 0 → ∃ t, exec i s = .next t ∧ t.verdict = .issued (some (s.slot.addr + BitVec.ofNat 64 s.slot.len)) ∧
         let x := loopAt t.loops lv.toNat
         x.active = true ∧ x.lc = c ∧ x.start = s.slot.addr + BitVec.ofNat 64 s.slot.len ∧ x.last = e ∧ x.after = z ∧
         x.pipelined = pipe ∧ x.stages = 1 ∧ x.total = c ∧ x.index = 0 ∧ (∀ j, j < 4 → (loopAt u.loops j).active = true → (loopAt u.loops j).depth < x.depth) ∧
         (∀ j, j ≠ lv.toNat → loopAt t.loops j = loopAt u.loops j) ∧ t.mem = u.mem)
     enters (.loop lv cnt last) (BitVec.ofNat 64 cnt.toNat) false ∧ enters (.loopg lv a last) (s.g a) false ∧
     enters (.loopp lv a 0 last) (s.g a) true) ∧
  (∀ (s : State) (k : Nat) (lv : BitVec 2) (cnt : BitVec 8) (a : GReg) (last : BitVec 12), s.conducts k → s.slot.len = 48 →
     last.toNat % 12 = 0 → s.loopChecks lv last = none →
     let l := (s.condAt k).loops
     let e := s.slot.addr + BitVec.ofNat 64 (4 * last.toNat)
     let enters (i : Instr) (c : W64) : Prop :=
       (c = 0 → exec i s = .next { s with verdict := .issued (some (e + 48)) }) ∧
       (c ≠ 0 → ∃ t, exec i s = .next t ∧ t.verdict = .issued (some (s.slot.addr + 48)) ∧
         let l' := (t.condAt k).loops
         let x := loopAt l' lv.toNat
         x.active = true ∧ x.lc = c ∧ x.start = s.slot.addr + 48 ∧ x.last = e ∧ x.after = e + 48 ∧ x.pipelined = false ∧
         (∀ j, j < 4 → (loopAt l j).active = true → (loopAt l j).depth < x.depth) ∧
         (∀ j, j ≠ lv.toNat → loopAt l' j = loopAt l j) ∧ { t.condAt k with loops := l } = s.condAt k ∧
         t.mem = s.mem ∧ t.strands = s.strands)
     enters (.loop lv cnt last) (BitVec.ofNat 64 cnt.toNat) ∧ enters (.loopg lv a last) (s.g a)) ∧
  (∀ (s u v : State) (n : Nat) (st : Strand) (lv : BitVec 2) (a : GReg) (sg : BitVec 3) (last : BitVec 12) (e z : W64)
     (us : List W32),
     s.acts n st → s.loopChecks lv last = none → sg ≠ 0 → s.produced [a, a + 1] → s.clear [a, a + 1] →
     s.fetchUnits s.myCore s.myCtx (s.slot.addr + BitVec.ofNat 64 s.slot.len) last.toNat = .ok us u →
     (∀ r, u.g r = s.g r) → mapOk (s.g (a + 1)) (sg.toNat + 1) last.toNat (wordStarts last.toNat 0 us) = true →
     u.loopChecks lv last = none → u.endWord last = .ok (e, z) v → u.cur = .strand n → u.slot = s.slot → v.cur = .strand n →
     v.slot = s.slot → (v.strandAt n).isSome →
     (s.g a = 0 → exec (.loopp lv a sg last) s = .next { v with verdict := .issued (some z) }) ∧
     (s.g a ≠ 0 → ∃ t, exec (.loopp lv a sg last) s = .next t ∧
       let x := loopAt t.loops lv.toNat
       x.active = true ∧ x.pipelined = true ∧ x.stages = sg.toNat + 1 ∧ x.total = s.g a ∧ x.index = 0 ∧
       x.lc = s.g a + BitVec.ofNat 64 sg.toNat ∧ x.map = s.g (a + 1) ∧ x.pred 0 = true ∧ ∀ k, k ≠ 0 → x.pred k = false)) ∧
  (∀ (l : Tab Loop) (i : Nat) (a : W64), (loopAt l i).active = true → (loopAt l i).last = a → (loopAt l i).pipelined = false →
     (1 < (loopAt l i).lc.toNat → ∃ l', endTests a [i] l = (l', some (loopAt l i).start, [i]) ∧
       loopAt l' i = { loopAt l i with lc := (loopAt l i).lc - 1 }) ∧
     ((loopAt l i).lc.toNat ≤ 1 → ∃ l', endTests a [i] l = (l', none, [i]) ∧
       loopAt l' i = { loopAt l i with active := false, lc := 0 })) ∧
  (∀ (l : Tab Loop) (i : Nat) (a : W64),
     let x := loopAt l i
     x.active = true → x.last = a → x.pipelined = true →
     (1 < x.lc.toNat → ∃ l', endTests a [i] l = (l', some x.start, [i]) ∧
       loopAt l' i = { x with lc := x.lc - 1, index := x.index + 1 } ∧ ∀ j, j ≠ i → loopAt l' j = loopAt l j) ∧
     (x.lc.toNat ≤ 1 → ∃ l', endTests a [i] l = (l', none, [i]) ∧
       loopAt l' i = { x with active := false, lc := 0, index := x.index + 1 } ∧ ∀ j, j ≠ i → loopAt l' j = loopAt l j)) ∧
  (∀ (l : Tab Loop) (i k : Nat) (a : W64),
     let x := loopAt l i
     let y := loopAt l k
     i ≠ k → x.active = true → x.last = a → y.active = true → y.last = a → x.pipelined = false → y.pipelined = false →
     (1 < x.lc.toNat → ∃ l', endTests a [i, k] l = (l', some x.start, [i]) ∧ loopAt l' i = { x with lc := x.lc - 1 } ∧
       ∀ j, j ≠ i → loopAt l' j = loopAt l j) ∧
     (x.lc.toNat ≤ 1 → (x.draining = false ∨ x.left = 0) → 1 < y.lc.toNat →
       ∃ l', endTests a [i, k] l = (l', some y.start, [i, k]) ∧ loopAt l' i = { x with active := false, lc := 0 } ∧
         loopAt l' k = { y with lc := y.lc - 1 } ∧ ∀ j, j ≠ i → j ≠ k → loopAt l' j = loopAt l j) ∧
     (x.lc.toNat ≤ 1 → (x.draining = false ∨ x.left = 0) → y.lc.toNat ≤ 1 →
       ∃ l', endTests a [i, k] l = (l', none, [i, k]) ∧ loopAt l' i = { x with active := false, lc := 0 } ∧
         loopAt l' k = { y with active := false, lc := 0 } ∧ ∀ j, j ≠ i → j ≠ k → loopAt l' j = loopAt l j))

/-- R180: LEXIT of an active level goes to its after-body address, with that level and those inner to it inactive and their counters 0; of
another level it raises LOOP_STATE. In a trap handler no level is deactivated (R179). -/
def Obligations.LevelExit : Prop :=
  ∀ (s : State) (n : Nat) (st : Strand) (lv : BitVec 2), s.acts n st →
    let x := loopAt st.loops lv.toNat
    (x.active = true → st.handler = true → exec (.lexit lv) s = .next { s with verdict := .issued (some x.after) }) ∧
    (x.active = true → st.handler = false → ∃ t, exec (.lexit lv) s = .next t ∧ t.verdict = .issued (some x.after) ∧
      (∀ j, j < 4 → (loopAt st.loops j).active = true → x.depth ≤ (loopAt st.loops j).depth →
        (loopAt t.loops j).active = false ∧ (loopAt t.loops j).lc = 0) ∧
      (∀ j, (loopAt st.loops j).active = true → (loopAt st.loops j).depth < x.depth →
        loopAt t.loops j = loopAt st.loops j) ∧ s.onlyStrand t n) ∧
    (x.active = false → s.slot.defer = true →
      exec (.lexit lv) s = .next { s with verdict := .trapped .loopState Rec.zero })

/-! Transactions (R101, R102, R194-R196). -/

/-- R101, R102, R194-R196: TXB opens a transaction with its abort target; TXE completes once the commit has succeeded; TXA ends the
transaction with code 4 and its own code recorded, at the abort target, and without one raises TXN_ABORT_FORCED with code 4 in bits 23 to 16
of its record; a TXE before the commit begins it, and waits; TXS reads both codes and whether a transaction is open. Nothing
outside the strand changes. (The trap is delivered with the group, `defer`.) -/
def Obligations.Transactions : Prop :=
  ∀ (s : State) (n : Nat) (st : Strand) (off : BitVec 24) (code : BitVec 8) (d : GReg), s.acts n st →
    (st.txn = none → ∃ t st', exec (.txb off) s = .next t ∧ t.verdict = .issued none ∧ s.onlyStrand t n ∧
      t.strandAt n = some st' ∧ { st' with txn := none } = st ∧
      st'.txn = some ⟨if off = 0 then none else some (BitVec.ofInt 64 (s.slot.addr.toNat + 4 * off.toInt)), 0, [], [], [], []⟩) ∧
    (∀ x, st.txn = some x → x.phase = 2 → ∃ t, exec .txe s = .next t ∧ t.verdict = .issued none ∧ s.onlyStrand t n ∧
      t.strandAt n = some { st with txn := none, txsCode := 0 }) ∧
    (∀ x a, st.txn = some x → x.target = some a → x.phase ≠ 2 → ∃ t, exec (.txa code) s = .next t ∧ t.verdict = .issued (some a) ∧
      s.onlyStrand t n ∧ t.strandAt n = some { st with txn := none, txsCode := 4, txsTxa := code }) ∧
    (∀ x, st.txn = some x → x.phase = 0 → ∃ t, exec .txe s = .next t ∧ t.verdict = .waits none ∧ s.onlyStrand t n ∧
      t.strandAt n = some { st with txn := some { x with phase := 1 } }) ∧
    (∀ x, st.txn = some x → x.target = none → x.phase ≠ 2 → s.slot.defer = true → ∃ t, exec (.txa code) s = .next t ∧
      t.verdict = .trapped .txnAbortForced { Rec.zero with ei0 := BitVec.ofNat 64 (4 * 2 ^ 16) } ∧ s.onlyStrand t n ∧
      t.strandAt n = some { st with txn := none, txsCode := 4, txsTxa := code }) ∧
    exec (.txs d) s = .next ((s.setG d (BitVec.ofNat 64 (st.txsCode.toNat + 256 * st.txsTxa.toNat +
      if st.txn.isSome then 65536 else 0)) false).issued)

/-! Exceptions (R283-R289). -/

/-- R185, R285, R286, R288, R289, R186: taking a precise trap in a strand that has a handler and is not in it. The pc of the handler is
TVEC; EPC is the word's own address for class I and the next word for TRAP and BRK; CAUSE, EINFO and the record in spill memory are written;
handler mode is entered, with the loop levels kept for ERET; a transaction aborts with code 7, unless its commit has succeeded; triggers that
watch the strand see the trap. ERET leaves handler mode for EPC with the levels as kept, and outside a handler it is illegal, as any illegal
word is. An address that is not a multiple of the access size raises ALIGNMENT at the address, and nothing is loaded or stored. The
trap is delivered with the group (`defer`), so that the word leaves memory and the queues as they were. -/
def Obligations.Traps : Prop :=
  (∀ (s u : State) (n : Nat) (st : Strand) (c : Cause) (r : Rec) (epc : W64) (ps : List Part),
     s.acts n st → s.slot.defer = false → st.handler = false → st.tvec ≠ 0 →
     let st' : Strand := ({ st.trapped with
       epc := epc, cause := c.code, handler := true, kept := st.loops, einfo := r.ei0, trec := r, pc := st.tvec
       waiting := false }).spillRec r
     (((s.modStrand n (·.trapped)).noteTrap n c).setStrand n (some st')).access (some (coreOfStrand n))
       (((s.ttAt st.tt).map (·.ctx)).getD 64) st.tvec 4 .exec false = .ok ps u →
     let entered : Host.Outcome State Fault Refusal := .next { u with verdict := .trapped c r }
     (∀ k, c = .software k → r = Rec.soft k → epc = s.slot.addr + BitVec.ofNat 64 s.slot.len → exec (.trap k) s = entered) ∧
     (∀ k, c = .breakpoint → r = Rec.soft k → epc = s.slot.addr + BitVec.ofNat 64 s.slot.len →
       (∀ x, s.ctxAt s.myCtx = some x → (x.debuggable && x.armed) = false) → exec (.brk k) s = entered) ∧
     (∀ k, sfjUnallocated k = none → c = .illegalOp → r = Rec.zero → epc = st.pc → exec (.illegalOp false k) s = entered) ∧
     (∀ k, c = .reservedField → r = Rec.zero → epc = st.pc → exec (.illegalOp true k) s = entered) ∧
     st'.savedRec = r ∧ ((∀ x, st.txn = some x → x.phase ≠ 2) → st'.txn = none ∧ (st.txn.isSome → st'.txsCode = 7)) ∧
     st'.causeReg = BitVec.ofNat 64 (c.code.toNat + 256)) ∧
  (∀ (s : State) (n : Nat) (st : Strand), s.acts n st →
     (st.handler = true → st.epc.toNat % 4 = 0 → ∃ t, exec .eret s = .next t ∧ t.verdict = .issued (some st.epc) ∧
       t.strandAt n = some { st with handler := false, loops := st.kept, kept := [] } ∧ s.onlyStrand t n) ∧
     (st.handler = false → ∀ k, sfjUnallocated k = none → exec .eret s = exec (.illegalOp false k) s)) ∧
  (∀ (s : State) (n : Nat) (st : Strand) (sz : Size) (d a : GReg) (off : BitVec 13), s.acts n st → s.slot.defer = true →
     s.produced [a, d] → s.clear [a] →
     let ea := s.g a + BitVec.ofInt 64 off.toInt
     ea.toNat % (Size.bytes sz) ≠ 0 →
     (∃ t, exec (.ld sz d a off) s = .next t ∧ t.verdict = .trapped .alignment (Rec.addr ea) ∧ s.onlyStrand t n ∧
       (t.strandAt n).map (·.lq) = some st.lq) ∧
     exec (.st sz d a off) s = .next { s with verdict := .trapped .alignment (Rec.addr ea) })

/-! Other words that change their strand only. -/

/-- R93, R97, R98, R137, R166, R183, R185, R187, R202, R296, R45, R184: NOP, MARK, CHK of an untagged register, FENCEQ with no named queue
busy, SAFEPT with no request pending, and WAITPT at or after its time issue and fall through; MARK opens a new epoch. REL enters the
strand's sequence and is complete at once when nothing stands before it and, with system scope, dirty CXL lines can be written back (that it
issues without holding the strand is the model's, log entry 49). SAFEPT with a request pending stops the strand after the word, and
keeps the live names only. EXIT of a strand with no REL outstanding, outside a handler and a transaction, ends it: it issues nothing more,
its vector names are discarded, and the successors it names are kept with their spill-list reservation. Memory is unchanged. Once package
time has reached its target a WAITPT waits no longer (that WAITPT_COMPLETE only ends the wait, and the word then issues, is the model's, log
entry 45). -/
def Obligations.StrandWords : Prop :=
  (∀ (s : State) (n : Nat) (st : Strand) (a : GReg) (m : BitVec 7) (sc : Scope), s.acts n st →
     exec .nop s = .next { s with verdict := .issued none } ∧
     (st.txn = none → exec .mark s = .next ((s.setStrand n (some { st with epoch := st.epoch + 1 })).issued)) ∧
     (s.produced [a] → s.clear [a] → exec (.chk a) s = .next { s with verdict := .issued none }) ∧
     ((∀ q, q < 7 → m.getLsbD q = true → s.busyQueue n q = false) →
       exec (.fenceq m) s = .next { s with verdict := .issued none }) ∧
     (s.produced [a] → st.txn = none → s.requested = false → exec (.safept a) s = .next { s with verdict := .issued none }) ∧
     (s.produced [a] → s.clear [a] → (s.g a).toNat ≤ s.pt s.myDie →
       exec (.waitpt a) s = .next ((s.setStrand n (some { st with waitPt := none })).issued)) ∧
     (∃ t, exec (.rel sc) s = .next t ∧ t.verdict = .issued none ∧ (∀ pa, t.mem.readByte pa = s.mem.readByte pa) ∧
       ∃ st', t.strandAt n = some st' ∧ { st' with rels := st.rels } = st ∧
         ((∃ o ∈ st.sq, o.sn < st.sn) → ∃ r ∈ st'.rels, r.sn = st.sn) ∧
         (st.rels = [] → st.sq = [] → (s.coreAt (coreOfStrand n)).queues = [] →
           (sc = .sys → s.backHeld (dieOfCore (coreOfStrand n)) isCxlLine = false) → st'.rels = []))) ∧
  (∀ (s : State) (n : Nat) (st : Strand) (t : TileTask) (a : GReg), s.acts n st → s.produced [a] → st.txn = none →
     st.handler = false → s.ttAt st.tt = some t → t.request.isSome →
     ∃ u st', exec (.safept a) s = .next u ∧ u.verdict = .issued none ∧ s.onlyStrand u n ∧ u.strandAt n = some st' ∧
       st'.stop = some .safept ∧ { st' with vn := st.vn } = st.halt (s.cmdsOf n) .safept ∧
       ∀ k, tget [] st'.vn k =
         if (s.g a).getLsbD (k / ((t.vnames + 63) / 64)) then tget [] st.vn k else []) ∧
  (∀ (s : State) (n : Nat) (st : Strand) (k : BitVec 3) (e1 e2 e3 e4 : GReg),
     let rs := [e1, e2, e3, e4].take k.toNat
     s.acts n st → st.handler = false → st.txn = none → st.rels = [] → s.produced rs → s.clear rs →
     (∀ r ∈ rs, (s.g r).toNat % 256 = 0) →
     (k = 0 ∨ (st.role = spawnRole s.myRoles ∧ ∃ c, s.ctxAt s.myCtx = some c ∧
       k.toNat + c.spill.length + c.spillResv ≤ c.spillCap)) →
     ∃ t st', exec (.exit k e1 e2 e3 e4) s = .next t ∧ t.verdict = .ended ∧ t.strandAt n = some st' ∧ st'.ended = true ∧
       st'.vn = [] ∧ st'.successors = rs.map s.g ∧ st'.exitReserve = k.toNat ∧ st'.sq = st.sq ++ st.sqAgain ∧ t.mem = s.mem ∧
       (∀ c, s.ctxAt s.myCtx = some c → k ≠ 0 →
         t.ctxAt s.myCtx = some { c with spillResv := c.spillResv + k.toNat })) ∧
  (∀ (s : State) (n : Nat) (st : Strand) (t : W64), s.strandAt n = some st → st.waitPt = some t →
     t.toNat ≤ s.pt (dieOfCore (coreOfStrand n)) →
     exec (.waitptComplete n) s = .next (s.setStrand n (some { st with waitPt := none, waiting := false })))

/-! Memory words (R92, R93, R186-R193, R199, R206). -/

/-- R92, R166, R186, R187, R190, R199, R206, R114, R100, R192, R193: a load of a strand outside a transaction, its address aligned and its
access granted, enters the load queue behind the others with its parts; its destination waits for it, and nothing is read yet. A store of a
strand outside a transaction enters the store queue behind the others, with its data, its bytes and its tag; no byte of memory changes until
it is performed. A tagged register stores poison. An atomic of a strand outside a transaction enters the store queue with its operand, and
its destination waits for the old value; CAS reads its compare value from d. -/
def Obligations.MemoryWordsEnter : Prop :=
  (∀ (s u : State) (n : Nat) (st us : Strand) (sz : Size) (d a b : GReg) (off : BitVec 13) (ea : W64) (ps : List Part),
     s.acts n st → st.txn = none → u.cur = .strand n → u.strandAt n = some us → us.txn = none →
     let enters (i : Instr) (what : LoadWhat) : Prop := ∃ t st', exec i s = .next t ∧ t.verdict = .issued none ∧
       t.strandAt n = some st' ∧ st'.lq = us.lq ++ [⟨what, ea, ps, ps, 0, false, us.epoch, us.mark + 1, none, us.pc⟩] ∧
       (∀ r, tget 0 st'.busy r = if d ≠ 0 ∧ r = d.toNat then us.mark + 1 else tget 0 us.busy r) ∧
       { st' with lq := us.lq, busy := us.busy, mark := us.mark, commitWait := us.commitWait } = us ∧ u.onlyStrand t n
     let walks (k : Nat) : Prop := s.walkHeld s.myDie (some s.myCore) s.myCtx ea k = false
     (ea = s.g a + BitVec.ofInt 64 off.toInt → s.produced [a] → s.clear [a] → walks (Size.bytes sz) →
       s.myAccess ea (Size.bytes sz) .read = .ok ps u → ea.toNat % (Size.bytes sz) = 0 →
       enters (.ld sz d a off) (.scalar d (Size.bytes sz) true) ∧ enters (.ldn sz d a off) (.scalar d (Size.bytes sz) false) ∧
       enters (.ldS sz d a off) (.scalar d (Size.bytes sz) true)) ∧
     (ea = s.g a → s.produced [a, b] → s.clear [a, b] → walks (Size.bytes sz) → s.myAccess ea (Size.bytes sz) .read = .ok ps u → ea.toNat % (Size.bytes sz) = 0 →
       (s.g b).toNat ≤ s.pt s.myDie + 2 ^ 32 → enters (.ldNb sz d a b) (.nb d (Size.bytes sz) (u.g b))) ∧
     (ea = s.g a → s.produced [a] → s.clear [a] → walks 1 → s.myAccess ea 1 .read = .ok ps u → enters (.lockrd d a) (.lock d)) ∧
     (ea = s.g a → s.produced [d, a, b] → s.clear [d, a, b] → walks 8 → s.myAccess ea 8 .read = .ok ps u → ea.toNat % 8 = 0 →
       enters (.waitv d a b) (.waitv d (s.g b) (s.g d) false))) ∧
  (∀ (s u : State) (n : Nat) (st us : Strand) (sz : Size) (d a b : GReg) (off : BitVec 13) (ea : W64) (ps : List Part),
     s.acts n st → st.txn = none → u.cur = .strand n → u.strandAt n = some us → us.txn = none →
     let enters (i : Instr) (what : StoreWhat) (v : Vec) (en : BitVec 512) (tag : Bool) : Prop :=
       ∃ t st', exec i s = .next t ∧ t.verdict = .issued none ∧ t.strandAt n = some st' ∧
       st'.sq = us.sq ++ [⟨what, ea, ps, v, en, tag, us.epoch, us.mark + 1, us.sn, none⟩] ∧ st'.sn = us.sn + 1 ∧
       { st' with sq := us.sq, sn := us.sn, mark := us.mark, commitWait := us.commitWait } = us ∧ u.onlyStrand t n
     let data (x : W64) : Vec := BitVec.ofNat 4096 (x.toNat % 2 ^ (8 * (Size.bytes sz)))
     let bytes : BitVec 512 := BitVec.ofNat 512 (2 ^ (Size.bytes sz) - 1)
     let walks (k : Nat) : Prop := s.walkHeld s.myDie (some s.myCore) s.myCtx ea k = false
     (ea = s.g a + BitVec.ofInt 64 off.toInt → s.produced [a, d] → s.clear [a] → walks (Size.bytes sz) → s.myAccess ea (Size.bytes sz) .write = .ok ps u →
       ea.toNat % (Size.bytes sz) = 0 → enters (.st sz d a off) .plain (data (u.g d)) bytes (u.gt d)) ∧
     (ea = s.g a → s.produced [a, d, b] → s.clear [a, b] → walks (Size.bytes sz) → s.myAccess ea (Size.bytes sz) .write = .ok ps u → ea.toNat % (Size.bytes sz) = 0 →
       (s.g b).toNat ≤ s.pt s.myDie + 2 ^ 32 → s.pt s.myDie + s.lead ≤ (s.g b).toNat →
       enters (.stPm sz d a b) (.pm (u.g b)) (data (u.g d)) bytes (u.gt d)) ∧
     (ea = s.g a → s.produced [a, b] → s.clear [a, b] → ea.toNat % 32 = 0 → walks (32 * ((s.g b).toNat / 256 % 65536 + 1)) →
       s.atIssue ea (s.accessNoKey (some s.myCore) s.myCtx ea (32 * ((s.g b).toNat / 256 % 65536 + 1)) .write s.fresh) =
         .ok ps u →
       enters (.lockwr a b) (.lock ((s.g b).setWidth 4)) 0 0 false)) ∧
  (∀ (s u : State) (n : Nat) (st us : Strand) (op : AmoOp) (dbl fz cn sv : Bool) (fop : AmofOp) (fmt : AmofFmt) (d a b : GReg)
     (ps : List Part),
     s.acts n st → st.txn = none → u.cur = .strand n → u.strandAt n = some us → us.txn = none →
     let enters (i : Instr) (what : StoreWhat) (w : Nat) (tag : Bool) : Prop :=
       ∃ t st', exec i s = .next t ∧ t.verdict = .issued none ∧ t.strandAt n = some st' ∧
       st'.sq = us.sq ++ [⟨what, s.g a, ps, 0, BitVec.ofNat 512 (2 ^ w - 1), tag, us.epoch, us.mark + 1, us.sn, none⟩] ∧
       (∀ r, tget 0 st'.busy r = if d ≠ 0 ∧ r = d.toNat then us.mark + 1 else tget 0 us.busy r) ∧ u.onlyStrand t n
     let walks (k : Nat) : Prop := s.walkHeld s.myDie (some s.myCore) s.myCtx (s.g a) k = false
     let w := if dbl then 8 else 4
     (s.produced [a, b, d] → s.clear [a] → walks w → s.myAccess (s.g a) w .both = .ok ps u → (s.g a).toNat % w = 0 →
       enters (.amo op dbl d a b)
         (.amo op d w (BitVec.ofNat 64 ((s.g b).toNat % 2 ^ (8 * w))) (BitVec.ofNat 64 ((s.g d).toNat % 2 ^ (8 * w)))) w
         (if op = .cas then s.gt b || s.gt d else s.gt b)) ∧
     (s.produced [a, b] → s.clear [a] → walks (amofBytes fmt) → s.myAccess (s.g a) (amofBytes fmt) .both = .ok ps u →
       (s.g a).toNat % amofBytes fmt = 0 →
       enters (.amof fz cn sv fop fmt d a b)
         (.amof fz cn sv fop fmt d (BitVec.ofNat 64 ((s.g b).toNat % 2 ^ (8 * amofBytes fmt)))) (amofBytes fmt) (s.gt b)))

/-- R156, R346, R22, R188, R214, R189: loads and stores of a conductor core act on conductor record memory at once: the bytes at the
address, little- endian, sign-extended by LD and zero-extended by LDN; a store changes those bytes only. Scratchpad loads and stores inside
the window. A load gives the bytes at the address, sign-extended, and the tag of its row; a store changes those bytes of the core's
scratchpad, poisons their row when the stored register is tagged, notes the context at their window, and changes nothing else; behind a push of the strand that is still in flight it stands in line. Spill slots. A slot is its number times its size into the partition's 16 KiB
of spill memory, tagged byte by byte. -/
def Obligations.OnChipMemory : Prop :=
  (∀ (s : State) (k : Nat) (sz : Size) (d a : GReg) (off : BitVec 13), s.conducts k →
     let ea := (s.g a + BitVec.ofInt 64 off.toInt).toNat
     let v := leNat (tgets 0 s.mem.record ea (Size.bytes sz))
     ea % (Size.bytes sz) = 0 → ea < 2 ^ 22 →
     exec (.ld sz d a off) s = .next ((s.setG d (BitVec.ofInt 64 (signed (8 * (Size.bytes sz)) v)) false).issued) ∧
     exec (.ldn sz d a off) s = .next ((s.setG d (BitVec.ofNat 64 v) false).issued) ∧
     ∃ t, exec (.st sz d a off) s = .next t ∧ t.verdict = .issued none ∧
       { t with mem := s.mem, verdict := s.verdict } = s ∧ { t.mem with record := s.mem.record } = s.mem ∧
       ∀ x, tget 0 t.mem.record x = if ea ≤ x ∧ x < ea + (Size.bytes sz) then BitVec.ofNat 8 ((s.g d).toNat / 256 ^ (x - ea))
         else tget 0 s.mem.record x) ∧
  (∀ (s : State) (n : Nat) (st : Strand) (tt : TileTask) (sz : Size) (d a : GReg) (off : BitVec 13), s.acts n st →
     s.ttAt st.tt = some tt → s.produced [a, d] → s.clear [a] →
     let e := (s.g a + BitVec.ofInt 64 off.toInt).toNat
     let core := s.coreAt (coreOfStrand n)
     e % (Size.bytes sz) = 0 → e + (Size.bytes sz) ≤ 2 ^ 21 → tt.spmBase ≤ e → e + (Size.bytes sz) ≤ tt.spmBase + 4096 * tt.spmUnits →
     st.spmPending e (Size.bytes sz) = false →
     exec (.ldSp sz d a off) s = .next ((s.setG d
       (BitVec.ofInt 64 (signed (8 * (Size.bytes sz)) (leNat (tgets 0 core.spm e (Size.bytes sz))))) (tget false core.spmTag (e / 64))).issued) ∧
     (st.owesBefore (st.mark + 1) = true → exec (.stSp sz d a off) s = .next ((s.setStrand n (some { st with
       mark := st.mark + 1
       fly := st.fly ++ [⟨st.mark + 1, [], [pushBytes e (Size.bytes sz) (s.g d).toNat], s.gt d, none⟩] })).issued)) ∧
     (st.owesBefore (st.mark + 1) = false → ∃ t, exec (.stSp sz d a off) s = .next t ∧ t.verdict = .issued none ∧
       (∀ m, m ≠ coreOfStrand n → t.coreAt m = s.coreAt m) ∧ { t with cores := s.cores, verdict := s.verdict } = s ∧
       let core' := t.coreAt (coreOfStrand n)
       { core' with spm := core.spm, spmTag := core.spmTag, spmOwner := core.spmOwner } = core ∧
       (∀ x, tget 0 core'.spm x =
         if e ≤ x ∧ x < e + (Size.bytes sz) then BitVec.ofNat 8 ((s.g d).toNat / 256 ^ (x - e)) else tget 0 core.spm x) ∧
       (∀ r, tget false core'.spmTag r = if r = e / 64 then (s.gt d || tget false core.spmTag r) else tget false core.spmTag r) ∧
       ∀ k, tget 0 core'.spmOwner k = if k = e / 4096 then s.myCtx + 1 else tget 0 core.spmOwner k)) ∧
  (∀ (s : State) (n : Nat) (st : Strand) (sz : Size) (d : GReg) (off : BitVec 13), s.acts n st →
     let o := off.toNat * (Size.bytes sz)
     o + (Size.bytes sz) ≤ 16384 →
     exec (.spld sz d off) s = .next ((s.setG d (BitVec.ofInt 64 (signed (8 * (Size.bytes sz)) (leNat (tgets 0 st.spill o (Size.bytes sz)))))
       ((tgets false st.spillTag o (Size.bytes sz)).any id)).issued) ∧
     (s.produced [d] → ∃ t st', exec (.spst sz d off) s = .next t ∧ t.verdict = .issued none ∧ s.onlyStrand t n ∧
       t.strandAt n = some st' ∧ { st' with spill := st.spill, spillTag := st.spillTag } = st ∧
       ∀ x, (tget 0 st'.spill x = if o ≤ x ∧ x < o + (Size.bytes sz) then BitVec.ofNat 8 ((s.g d).toNat / 256 ^ (x - o))
           else tget 0 st.spill x) ∧
         (tget false st'.spillTag x = if o ≤ x ∧ x < o + (Size.bytes sz) then s.gt d else tget false st.spillTag x)))

/-! Caches, translations and ports (R98, R206-R208). -/

/-- R98, R206, R207, R47, R48, R205, R208: with no load outstanding, ACQ drops the instruction cache and the core's L1 copies of its range,
all of them without a range, and at pkg and sys scope the die's RDC copies of the range too, and keeps the others; CACHEOP.l1inv and rdcinv drop the copies of their range and
keep the others; TLBINV of a privileged context leaves no entry of the context that meets its range. Registers keep their values and no byte
of memory changes. CACHEOP.wb stands in the store queue behind the stores before it, and the words that wait for RELs wait for it. KILL
empties the names it selects and no other; QCFG sets a port with its cursor at the first address, and QRST returns the cursor there. -/
def Obligations.CachesAndPorts : Prop :=
  (∀ (s : State) (n : Nat) (st : Strand) (sc : Scope) (a b : GReg), s.acts n st → n < 2048 → st.lq = [] →
     s.produced [a, b] → s.clear [a, b] →
     let core := coreOfStrand n
     let die := dieOfCore core
     let same (t : State) : Prop := t.verdict = .issued none ∧ t.strands = s.strands ∧ ∀ pa, t.mem.readByte pa = s.mem.readByte pa
     (∃ t, exec (.acq sc 0 0) s = .next t ∧ same t ∧ (t.coreAt core).icache = [] ∧ (t.coreAt core).l1 = [] ∧
       (sc = .pkg ∨ sc = .sys → ∀ line, tget none t.mem.rdc (rdcKey die line) = none)) ∧
     (let hit (line : Nat) : Bool := match s.range a b with
        | none => true
        | some (base, len) => (s.linesOf core s.myCtx base len).any fun x => x.1 ≤ line && line ≤ x.2
      ∃ t, exec (.acq sc a b) s = .next t ∧ same t ∧ (t.coreAt core).icache = [] ∧
        (∀ line, tget none (t.coreAt core).l1 line = if hit line = true then none else tget none (s.coreAt core).l1 line) ∧
        (∀ m, m ≠ core → t.coreAt m = s.coreAt m) ∧
        ∀ line d, d < 16 → tget none t.mem.rdc (rdcKey d line) =
          if d = die ∧ (sc = .pkg ∨ sc = .sys) ∧ hit line = true then none else tget none s.mem.rdc (rdcKey d line)) ∧
     (∃ t, exec (.l1inv a b) s = .next t ∧ same t ∧ ∀ line, tget none (t.coreAt core).l1 line =
       if s.cacheRange a b line then none else tget none (s.coreAt core).l1 line) ∧
     (∃ t, exec (.rdcinv a b) s = .next t ∧ same t ∧ ∀ line d, d < 16 → tget none t.mem.rdc (rdcKey d line) =
       if d = die ∧ s.cacheRange a b line = true then none else tget none s.mem.rdc (rdcKey d line)) ∧
     (∀ c, s.ctxAt s.myCtx = some c → c.privileged = true → ∃ t, exec (.tlbinv a b) s = .next t ∧ same t ∧
       ∀ k, ∀ e ∈ (t.coreAt k).tlb, e.ctx = s.myCtx → ¬ (a = 0 ∧ b = 0) ∧
         (vaOf (s.g a) + (s.g b).toNat ≤ e.va ∨ e.va + 2 ^ e.log ≤ vaOf (s.g a)))) ∧
  (∀ (s : State) (n : Nat) (st : Strand) (a b : GReg), s.acts n st → s.produced [a, b] → s.clear [a, b] →
     ∃ t st' o, exec (.cacheWb a b) s = .next t ∧ t.verdict = .issued none ∧ t.strandAt n = some st' ∧ st'.sq = st.sq ++ [o] ∧
       o.what = .wb (decide (2 ^ 32 < (s.g b).toNat)) ∧ o.sn = st.sn ∧ (∃ r ∈ st'.rels, r.sn = st.sn + 1) ∧
       (∀ r, tget 0 st'.g r = tget 0 st.g r) ∧ ∀ pa, t.mem.readByte pa = s.mem.readByte pa) ∧
  (∀ (s : State) (n : Nat) (st : Strand) (blk : BitVec 6) (mask : BitVec 24) (q : BitVec 6) (d a b : GReg), s.acts n st →
     let p : Port := ⟨s.g d, BitVec.ofNat 32 (s.g a).toNat, BitVec.ofNat 32 ((s.g a).toNat / 2 ^ 32),
       BitVec.ofNat 32 (s.g b).toNat, BitVec.ofNat 32 ((s.g b).toNat / 2 ^ 32), 0⟩
     let picked (k : Nat) : Prop := 24 * blk.toNat ≤ k ∧ k < 24 * blk.toNat + 24 ∧ mask.getLsbD (k - 24 * blk.toNat) = true
     ((∀ k, picked k → k < s.vnames ∧ (s.modeK = true ∨ ∀ e ∈ tget [] st.vn k, e.ready = true)) →
       ∃ t st', exec (.kill blk mask) s = .next t ∧ t.verdict = .issued none ∧ s.onlyStrand t n ∧ t.strandAt n = some st' ∧
         { st' with vn := st.vn } = st ∧ ∀ k, (picked k → tget [] st'.vn k = []) ∧
           (¬ picked k → tget [] st'.vn k = tget [] st.vn k)) ∧
     (s.produced [d, a, b] → s.clear [d, a, b] → (s.g d).toNat % 64 = 0 → (s.g a).toNat % 2 ^ 32 % 64 = 0 →
       (s.g b).toNat % 2 ^ 32 % 64 = 0 →
       exec (.qcfg q d a b) s = .next ((s.setStrand n (some { st with ports := (tset Port.none st.ports q.toNat p) })).issued)) ∧
     (∃ t st', exec (.qrst q) s = .next t ∧ t.verdict = .issued none ∧ s.onlyStrand t n ∧ t.strandAt n = some st' ∧
       { st' with ports := st.ports } = st ∧ ∀ k, tget Port.none st'.ports k =
         if k = q.toNat then { tget Port.none st.ports k with cursor := 0 } else tget Port.none st.ports k))

/-! Semaphores and time (R151, R197, R202). -/

/-- R151, R197, R156, R295: a POST of a strand with no REL and no push outstanding adds to its semaphore; an AWAIT that the count serves,
with no one waiting before it, subtracts; SEMRD reads count and poison; SEMWR of a privileged context sets the count and clears the poison.
Each leaves every other semaphore, the registers and memory. The 256 semaphores of a conductor core are its own, named by number. Where
every waiter of a tile task waits in vain and none of them is an engine command, each of its strands that has not ended meets DEADLOCK_AWAIT
at the word at which it waits. -/
def Obligations.Semaphores : Prop :=
  (∀ (s : State) (n : Nat) (st : Strand) (k : BitVec 8) (x : BitVec 7) (d a : GReg) (i : Nat), s.acts n st →
     s.mySem k.toNat = some i →
     let core := coreOfStrand n
     let c := s.coreAt core
     let sets (j : Instr) (v : Sem) : Prop := ∃ t, exec j s = .next t ∧ t.verdict = .issued none ∧
       (t.coreAt core).sem i = v ∧ (∀ m, m ≠ i → (t.coreAt core).sem m = c.sem m) ∧
       (∀ m, m ≠ core → t.coreAt m = s.coreAt m) ∧ t.mem = s.mem ∧ ∀ r, t.g r = s.g r
     (st.txn = none → st.rels = [] → (∀ f ∈ st.fly, f.pushes = []) → st.owesPush = false → (c.sem i).poisoned = false →
       (c.sem i).count + x.toNat ≤ 65535 → sets (.post k x) ⟨(c.sem i).count + x.toNat, false⟩) ∧
     (st.txn = none → st.rels = [] → st.deadlock = false → (c.sem i).poisoned = false → x.toNat ≤ (c.sem i).count →
       tget [] c.sync.waiters i = [] → sets (.await k x) ⟨(c.sem i).count - x.toNat, false⟩) ∧
     exec (.semrd d k) s = .next ((s.setG d (BitVec.ofNat 64 ((c.sem i).count +
       if (c.sem i).poisoned then 65536 else 0)) false).issued) ∧
     (∀ y, s.ctxAt s.myCtx = some y → y.privileged = true → s.produced [a] → s.clear [a] → (s.g a).toNat ≤ 65535 →
       sets (.semwr k a) ⟨(s.g a).toNat, false⟩)) ∧
  (∀ (s : State) (k : Nat) (m : BitVec 8) (x : BitVec 7) (d : GReg), s.conducts k →
     let c := (s.condAt k).sync
     let sem := c.sem m.toNat
     let sets (j : Instr) (v : Nat) : Prop := ∃ t, exec j s = .next t ∧ t.verdict = .issued none ∧
       (t.condAt k).sync.sem m.toNat = ⟨v, sem.poisoned⟩ ∧
       (∀ i, i ≠ m.toNat → (t.condAt k).sync.sem i = c.sem i) ∧ t.mem = s.mem ∧ t.strands = s.strands ∧ ∀ r, t.g r = s.g r
     (sem.poisoned = false → sem.count + x.toNat ≤ 65535 → sets (.post m x) (sem.count + x.toNat)) ∧
     (x.toNat ≤ sem.count → tget [] c.waiters m.toNat = [] → sets (.await m x) (sem.count - x.toNat)) ∧
     exec (.semrd d m) s = .next ((s.setG d (BitVec.ofNat 64 (sem.count + if sem.poisoned then 65536 else 0)) false).issued)) ∧
  (∀ (s : State) (tt n : Nat) (t : TileTask) (st : Strand), s.ttAt tt = some t → s.deadlocked tt t = true →
     (∀ q x, q < 7 → (s.coreAt t.core).head q = some x → x.tt ≠ tt) → n ∈ t.strands → s.strandAt n = some st → st.ended = false →
     ∃ u, exec (.deadlockAwait tt) s = .next u ∧ u.strandAt n = some { st with deadlock := true } ∧
       (∀ m, m ∉ t.strands → u.strandAt m = s.strandAt m) ∧ u.cores = s.cores ∧ u.mem = s.mem ∧
       (∀ i k x, u.cur = .strand n → u.view = none → u.slot.defer = false → st.txn = none → st.rels = [] →
         u.mySem i.toNat = some x → ((u.coreAt (coreOfStrand n)).sem x).poisoned = false → k ≠ 0 →
         exec (.await i k) u = .next (u.leaveLines.trap .deadlockAwait Rec.zero)))

/-- R143, R204, R74, R88, R121, R175, R283, R137, R202: MFS reads the special registers by number, untagged. MTS writes the writable fields
of a special register: FPMODE keeps its rounding mode for a reserved one, SRKEY and SRCTR take 32 bits, QUOTA's limit goes no higher than
its ceiling, and a frame length out of range is ignored; SLIPTH, FRAMELEN and the mailbox registers are privileged. A special register of
the management core raises PRIVILEGE, a number that is not listed BAD_NAME, a write to a read-only one READ_ONLY, and a privileged one from
a context that is not privileged PRIVILEGE; nothing is written. PTRD reads the PT of the die, and FRRD the frame number and start, sampled
together; all untagged. -/
def Obligations.SpecialRegisters : Prop :=
  (∀ (s : State) (n : Nat) (st : Strand) (d : GReg), s.acts n st →
     let reads (r : BitVec 12) (v : W64) : Prop := exec (.mfs d r) s = .next ((s.setG d v false).issued)
     reads 0x000 (BitVec.ofNat 64 (s.pt s.myDie)) ∧ reads 0x001 (BitVec.ofNat 64 s.lead) ∧ reads 0x003 (BitVec.ofNat 64 (s.gf s.myDie)) ∧
     reads 0x004 (BitVec.ofNat 64 s.time.slipth) ∧ reads 0x006 (BitVec.ofNat 64 s.time.framelen) ∧
     reads 0x007 (BitVec.ofNat 64 s.time.frameno) ∧ reads 0x008 (BitVec.ofNat 64 s.time.framestart) ∧
     reads 0x010 st.fpm ∧ reads 0x011 st.srkey ∧ reads 0x012 st.srctr ∧
     (∀ c, s.ctxAt s.myCtx = some c → reads 0x020 (BitVec.ofNat 64 (c.ceiling.toNat * 2 ^ 32 + c.limit.toNat)) ∧
       reads 0x021 (BitVec.ofNat 64 c.commit.toNat) ∧ reads 0x022 c.root0 ∧ reads 0x023 c.root1 ∧ reads 0x024 c.mbBase ∧
       reads 0x025 (BitVec.ofNat 64 c.mbCount.toNat) ∧ reads 0x026 (BitVec.ofNat 64 c.trtfb.toNat)) ∧
     (∀ i : Fin 4, reads (BitVec.ofNat 12 (0x030 + i)) (tget 0 s.cpres i) ∧
       reads (BitVec.ofNat 12 (0x050 + i)) (loopAt st.loops i).lc) ∧
     reads 0x040 st.epc ∧ reads 0x041 (BitVec.ofNat 64 (st.cause.toNat + if st.handler then 256 else 0)) ∧
     reads 0x042 st.einfo ∧ reads 0x043 st.tvec ∧ reads 0x060 (BitVec.ofNat 64 n) ∧ reads 0x061 (BitVec.ofNat 64 s.myCtx)) ∧
  (∀ (s : State) (n : Nat) (st : Strand) (a : GReg) (c : Ctx), s.acts n st → s.ctxAt s.myCtx = some c → s.produced [a] →
     s.clear [a] →
     let v := s.g a
     let writes (r : BitVec 12) (t : State) : Prop := exec (.mts r a) s = .next t.issued
     let strand (st' : Strand) : State := s.setStrand n (some st')
     let ctx (c' : Ctx) : State := s.setCtx s.myCtx (some c')
     writes 0x010 (strand { st with fpm := BitVec.ofNat 64 ((if v.toNat % 8 < 5 then v.toNat % 8 else st.fpm.toNat % 8) +
       8 * (v.toNat / 8 % 4)) }) ∧
     writes 0x011 (strand { st with srkey := BitVec.ofNat 64 (v.toNat % 2 ^ 32) }) ∧
     writes 0x012 (strand { st with srctr := BitVec.ofNat 64 (v.toNat % 2 ^ 32) }) ∧
     writes 0x020 (ctx { c with limit := BitVec.ofNat 32 (min (v.toNat % 2 ^ 32) c.ceiling.toNat) }) ∧
     writes 0x040 (strand { st with epc := v }) ∧
     (v.toNat % 4 = 0 → writes 0x043 (strand { st with tvec := v })) ∧
     (∀ i : Fin 4, ((loopAt st.loops i).active && (loopAt st.loops i).pipelined) = false →
       writes (BitVec.ofNat 12 (0x050 + i))
         (strand { st with loops := tset Loop.none st.loops i { loopAt st.loops i with lc := v } })) ∧
     (c.privileged = true →
       writes 0x004 (s.modTime fun t => { t with slipth := v.toNat % 2 ^ 32 }) ∧
       writes 0x006 (s.modTime fun t => { t with framelen :=
         (if frameLenOk (v.toNat % 2 ^ 32) = true then v.toNat % 2 ^ 32 else t.framelen) }) ∧
       writes 0x024 (ctx { c with mbBase := v }) ∧
       writes 0x025 (ctx { c with mbCount := BitVec.ofNat 17 v.toNat }))) ∧
  (∀ (s : State) (n : Nat) (st : Strand) (a d : GReg) (c : Ctx) (r : BitVec 12), s.acts n st → s.slot.defer = true →
     s.ctxAt s.myCtx = some c →
     let refuses (cause : Cause) : Prop := exec (.mts r a) s = .next { s with verdict := .trapped cause Rec.zero }
     (0x800 ≤ r.toNat → refuses .privilege ∧ ∃ t, exec (.mfs d r) s = .next t ∧ t.verdict = .trapped .privilege Rec.zero) ∧
     (0x062 ≤ r.toNat → r.toNat < 0x800 → refuses .badName ∧
       ∃ t, exec (.mfs d r) s = .next t ∧ t.verdict = .trapped .badName Rec.zero) ∧
     (r ∈ [0x000, 0x001, 0x002, 0x003, 0x005, 0x007, 0x008, 0x009, 0x021, 0x022, 0x023, 0x026, 0x030, 0x041, 0x042, 0x060,
       0x061] → refuses .readOnly) ∧
     (c.privileged = false → r ∈ [0x004, 0x006, 0x024, 0x025] → refuses .privilege)) ∧
  (∀ (s : State) (d a : GReg),
     exec (.ptrd d) s = .next ((s.setG d (BitVec.ofNat 64 (s.pt s.myDie)) false).issued) ∧
     exec (.frrd d a) s = .next (((s.setG d (BitVec.ofNat 64 s.time.frameno) false).setG a
       (BitVec.ofNat 64 s.time.framestart) false).issued))

/-! Tiles and postboxes (R106, R111, R112, R200, R201, R203). -/

/-- R106, R200, R201: TAGPUB publishes an output declaration once: with its tile absent from the table, its buffer in fine mode at its
generation, room in the table, its descriptor within reach, and every store to the tile done, the tile becomes published and the count grows. TAGQ answers count, held
iterations, live generation and state; the published bit is the entry's, whatever the declaration's generation (the model's choice, log entry
112). Both wait while no traffic crosses to the control die. -/
def Obligations.TileWords : Prop :=
  ∀ (s u : State) (n : Nat) (st us : Strand) (tt : TileTask) (dn : BitVec 3) (x : Decl) (k : Key) (d : GReg) (bs : List Byte)
    (b : Block),
    s.acts n st → s.ttAt st.tt = some tt → s.myDecl dn.toNat = some (x, k) →
    (st.txn = none → x.output = true → st.rels = [] →
      (s.hasPublished tt.block tt.idx dn.toNat = true → exec (.tagpub dn) s = .next { s with verdict := .issued none }) ∧
      (s.hasPublished tt.block tt.idx dn.toNat = false → s.descHeld s.myCore s.myCtx x 32 = false →
        s.descriptor x 32 = .ok bs u → u.cur = .strand n →
        u.strandAt n = some us → u.readStrand.sq = [] → u.blockAt tt.block = some b →
        (u.work.buf tt.ctx x.buffer).fresh = false → (u.work.buf tt.ctx x.buffer).live = BitVec.ofNat 8 x.gen →
        (u.work.buf tt.ctx x.buffer).coarse = false → u.work.entry tt.ctx x.buffer k = none → u.work.trtFree ≠ 0 →
        u.reaches u.myDie cd = true →
        ∃ t e, exec (.tagpub dn) s = .next t ∧ t.verdict = .issued none ∧ t.work.entry tt.ctx x.buffer k = some e ∧
          e.published = true ∧
          (t.work.buf tt.ctx x.buffer).count = satSucc (u.work.buf tt.ctx x.buffer).count ∧
          t.hasPublished tt.block tt.idx dn.toNat = true ∧ t.strands = u.strands ∧ t.mem = u.mem) ∧
      (s.hasPublished tt.block tt.idx dn.toNat = false → s.descHeld s.myCore s.myCtx x 32 = false →
        s.descriptor x 32 = .ok bs u → u.reaches u.myDie cd = false →
        exec (.tagpub dn) s = .next { u with verdict := .waits none })) ∧
    (s.reaches s.myDie cd = false → exec (.tagq d dn) s = .next { s with verdict := .waits none }) ∧
    (∀ e, s.reaches s.myDie cd = true → st.ctlError = false → (s.work.buf tt.ctx x.buffer).coarse = false → s.work.entry tt.ctx x.buffer k = some e → e.held.length < 65536 →
      exec (.tagq d dn) s = .next ((s.setG d (BitVec.ofNat 64 (
        (s.work.buf tt.ctx x.buffer).count.toNat * 2 ^ 32 + e.held.length * 2 ^ 16 +
        (s.work.buf tt.ctx x.buffer).live.toNat * 2 ^ 8 + (if (s.work.buf tt.ctx x.buffer).fresh then 4 else 0) +
        if e.published then 1 else 0)) false).issued))

/-- R111, R112, R203: with the control block read and the ring's slot granted, both at homes within reach, MBSEND into a ring that is not
full writes the message and moves the tail, answering 0; MBRECV from one that is not empty puts the message in the scratchpad and moves the
head, answering 0; MBPOLL answers the messages in the ring. A full ring, or an empty one, answers 1 with the ring unchanged. MBSEND comes
after every earlier store, MBRECV after every earlier load. -/
def Obligations.Postboxes : Prop :=
  ∀ (s u v : State) (n : Nat) (st : Strand) (d a b : GReg) (c : Ctx) (cb ps : List Part) (bs : List Byte) (p : Postbox),
    s.acts n st → st.txn = none → s.produced [a, b] → s.clear [a, b] → s.ctxAt s.myCtx = some c →
    (s.g a).toNat < c.mbCount.toNat → (s.window).1 ≤ (s.g b).toNat → (s.g b).toNat + 64 ≤ (s.window).1 + (s.window).2 →
    (s.g b).toNat % 64 = 0 → (s.g b).toNat < 2 ^ 21 → st.spmPending (s.g b).toNat 64 = false → d ≠ 0 →
    ((∃ o ∈ st.sq, o.sn < st.sn) → exec (.mbsend d a b) s = .next { s with verdict := .waits none }) ∧
    (st.lq ≠ [] → exec (.mbrecv d a b) s = .next { s with verdict := .waits none }) ∧
    (let answers (t : State) (x : W64) : Prop := ∃ st', t.strandAt n = some st' ∧ tget 0 st'.g d.toNat = x
    let box := c.mbBase + BitVec.ofNat 64 (16 * (s.g a).toNat)
    let u' := u.touchParts u.myCtx cb
    let v' := v.touchParts v.myCtx ps
    s.walkHeld s.myDie (some s.myCore) s.myCtx box 16 = false → u.homesFree u.myDie cb = true → u'.readParts cb = (bs, false) →
    postboxOf bs = some p → u.cur = .strand n → v.cur = .strand n → (u.strandAt n).isSome → (v.strandAt n).isSome →
    let slot (x : W64) : Prop := u'.walkHeld u'.myDie (some u'.myCore) u'.myCtx x 64 = false ∧ u'.myAccess x 64 .write = .ok ps v ∧
      v.homesFree v.myDie ps = true
    (s.myAccess box 16 .write = .ok cb u → (∀ q ∈ cb, u.mem.bounces q.pa = false) → s.released = true →
      let msg := v'.readCore.spmRead (s.g b).toNat 64
      let w := (v'.writeParts v'.myCtx msg.1 msg.2 ps).writeCounts cb p.head (p.tail + 1)
      (p.used ≠ p.cap → slot (p.slot p.tail) → (∀ q ∈ ps, v.mem.bounces q.pa = false) →
        ∃ t, exec (.mbsend d a b) s = .next t ∧ t.verdict = .issued none ∧ answers t 0 ∧ t.mem.bytes = w.mem.bytes) ∧
      (p.used = p.cap → ∃ t, exec (.mbsend d a b) s = .next t ∧ t.verdict = .issued none ∧ answers t 1 ∧
        t.mem.bytes = u.mem.bytes)) ∧
    (s.myAccess box 16 .write = .ok cb u → (∀ q ∈ cb, u.mem.bounces q.pa = false) → st.lq = [] →
      (p.used = 0 → ∃ t, exec (.mbrecv d a b) s = .next t ∧ t.verdict = .issued none ∧ answers t 1 ∧
        t.mem.bytes = u.mem.bytes) ∧
      (p.used ≠ 0 → slot (p.slot p.head) → ∃ t, exec (.mbrecv d a b) s = .next t ∧ t.verdict = .issued none ∧ answers t 0 ∧
        t.mem.bytes = (v'.writeCounts cb (p.head + 1) p.tail).mem.bytes ∧
        (v'.me.owesBefore (v'.me.mark + 1) = false → (t.coreAt (coreOfStrand n)).spm =
          ((v'.coreAt (coreOfStrand n)).push v'.myCtx (s.g b).toNat (BitVec.ofNat 4096 (leNat (v'.readParts ps).1))
            (BitVec.ofNat 4096 (2 ^ 512 - 1)) (v'.readParts ps).2).spm))) ∧
    (s.myAccess box 16 .read = .ok cb u → ∃ t, exec (.mbpoll d a) s = .next t ∧ t.verdict = .issued none ∧
      answers t (BitVec.ofNat 64 (p.tail - p.head).toNat) ∧ t.mem.bytes = u.mem.bytes))

/-! Vector words (R210-R235). A word that may issue writes, at its completion, the elements below: through `writeVec`, whose effect
VectorResults states. -/

/-- R212, R217, R122, R218, R219: integer vector words, element by element: the exact result modulo 2^w, or with sat clamped to the type's
range; shifts by w or more leave nothing of the value. Floating-point vector words, element by element, on the values of their operands in
the word's environment. -/
def Obligations.VectorArithmetic : Prop :=
  (∀ (s u : State) (w : VWord) (x : VIn) (places : List Nat),
     let ty := w.ty.toNat
     let wd := typeWidth ty
     let int (a : Nat) : Int := intOf ty a
     let fit (v : Int) : Nat := ((if w.mode.toNat % 2 = 1 then max (intMin (isSigned ty) wd) (min (intMax (isSigned ty) wd) v)
       else v) % 2 ^ wd).toNat
     let writes (i : Instr) (opc : Nat) (p : List Nat → Prop) : Prop := VReady s s u opc w [] [] x places →
       ∃ r, exec i s = .next ((u.writeVec w opc s.nextTok places x r x.tag).issued) ∧ p r
     let lanes1 (f : Nat → Nat) (r : List Nat) : Prop := ∀ (k a : Nat), (x.elems wd 0)[k]? = some a → r[k]? = some (f a)
     let lanes2 (f : Nat → Nat → Nat) (r : List Nat) : Prop := ∀ (k a b : Nat), (x.elems wd 0)[k]? = some a →
       (x.elems wd 1)[k]? = some b → r[k]? = some (f a b)
     writes (.vadd w) 0x01 (lanes2 fun a b => fit (int a + int b)) ∧
     writes (.vsub w) 0x02 (lanes2 fun a b => fit (int a - int b)) ∧
     writes (.vmul w) 0x03 (lanes2 fun a b => fit (int a * int b)) ∧
     writes (.vmulh w) 0x04 (lanes2 fun a b => fit (int a * int b / 2 ^ wd)) ∧
     writes (.vmad w) 0x05 (fun r => ∀ (k a b c : Nat), (x.elems wd 0)[k]? = some a → (x.elems wd 1)[k]? = some b →
       (x.elems wd 2)[k]? = some c → r[k]? = some (fit (int a * int b + int c))) ∧
     writes (.vmin w) 0x06 (lanes2 fun a b => fit (min (int a) (int b))) ∧
     writes (.vmax w) 0x07 (lanes2 fun a b => fit (max (int a) (int b))) ∧
     writes (.vabs w) 0x08 (lanes1 fun a => fit (if int a < 0 then - int a else int a)) ∧
     writes (.vneg w) 0x09 (lanes1 fun a => fit (- int a)) ∧
     writes (.vand w) 0x0A (lanes2 fun a b => a &&& b) ∧
     writes (.vor w) 0x0B (lanes2 fun a b => a ||| b) ∧
     writes (.vxor w) 0x0C (lanes2 fun a b => a ^^^ b) ∧
     writes (.vnot w) 0x0D (lanes1 fun a => 2 ^ wd - 1 - a) ∧
     writes (.vshl w) 0x0E (lanes2 fun a b => fit (int a * 2 ^ min b wd)) ∧
     writes (.vshr w) 0x0F (lanes2 fun a b => if wd ≤ b then 0 else a / 2 ^ b) ∧
     writes (.vsha w) 0x10 (lanes2 fun a b => (signed wd a / 2 ^ min b wd % 2 ^ wd).toNat) ∧
     writes (.vpopc w) 0x11 (lanes1 fun a => (List.range wd).countP fun i => a / 2 ^ i % 2 = 1)) ∧
  (∀ (s u : State) (w : VWord) (x : VIn) (places : List Nat),
     let ty := w.ty.toNat
     let wd := typeWidth ty
     let env := s.fenv w
     let val (a : Nat) : FVal := unpack ty (decide (4 ≤ w.mode.toNat)) a
     let writes (i : Instr) (opc : Nat) (p : List Nat → Prop) : Prop := VReady s s u opc w [] [] x places →
       ∃ r, exec i s = .next ((u.writeVec w opc s.nextTok places x r x.tag).issued) ∧ p r
     let lanes1 (f : Nat → Nat) (r : List Nat) : Prop := ∀ (k a : Nat), (x.elems wd 0)[k]? = some a → r[k]? = some (f a)
     let lanes2 (f : Nat → Nat → Nat) (r : List Nat) : Prop := ∀ (k a b : Nat), (x.elems wd 0)[k]? = some a →
       (x.elems wd 1)[k]? = some b → r[k]? = some (f a b)
     writes (.vfadd w) 0x20 (lanes2 fun a b => fadd ty env [val a, val b] (val a) (val b)) ∧
     writes (.vfsub w) 0x21 (lanes2 fun a b => fadd ty env [val a, val b] (val a) (val b).flip) ∧
     writes (.vfmul w) 0x22 (lanes2 fun a b => fmul ty env (val a) (val b)) ∧
     writes (.vfma w) 0x23 (fun r => ∀ (k a b c : Nat), (x.elems wd 0)[k]? = some a → (x.elems wd 1)[k]? = some b →
       (x.elems wd 2)[k]? = some c → r[k]? = some (ffma ty env (val a) (val b) (val c))) ∧
     writes (.vfmin w) 0x24 (lanes2 fun a b => minmaxElem ty env false a b) ∧
     writes (.vfmax w) 0x25 (lanes2 fun a b => minmaxElem ty env true a b) ∧
     writes (.vfabs w) 0x26 (lanes1 fun a => flushOut ty (decide (4 ≤ w.mode.toNat)) a % 2 ^ (wd - 1)) ∧
     writes (.vfneg w) 0x27 (lanes1 fun a => flushOut ty (decide (4 ≤ w.mode.toNat)) a ^^^ 2 ^ (wd - 1)) ∧
     writes (.vfdiv w) 0x28 (lanes2 fun a b => fdiv ty env (val a) (val b)) ∧
     writes (.vfsqrt w) 0x29 (lanes1 fun a => fsqrt ty env (val a)) ∧
     writes (.vfrcp w) 0x2A (lanes1 fun a => frcp ty env (val a)) ∧
     writes (.vfrsq w) 0x2B (lanes1 fun a => frsq ty env (val a)) ∧
     writes (.vfexp2 w) 0x2C (lanes1 fun a => fexp2 ty env (val a)) ∧
     writes (.vflog2 w) 0x2D (lanes1 fun a => flog2 ty env (val a)))

/-- R220-R222: compares write a whole mask, untouched by the governing mask, with 0 above the last element; mask words combine and count masks, with the tags of the masks
read; VSEL takes element i of its first operand where the selecting mask is 1. -/
def Obligations.VectorMasks : Prop :=
  ∀ (s u : State) (w : VWord) (x : VIn) (places : List Nat) (c : VCmp),
    let ty := w.ty.toNat
    let wd := typeWidth ty
    let m1 := s.mask (srcMask w.s1)
    let m2 := s.mask (srcMask w.s2)
    let t1 := s.maskTag (srcMask w.s1)
    let t2 := s.maskTag (srcMask w.s2)
    let d := w.dst.toNat % 16
    let ends (i : Instr) (opc : Nat) (r : State) : Prop := VReady s s u opc w [] [] x places →
      exec i s = .next ((r.writeVec w opc s.nextTok places x [] x.tag).issued)
    (VReady s s u (cmpOpc c) w [] [] x places → ∃ m : MaskBits,
      exec (.vcmp c w) s = .next (((u.setMask d m x.tag).writeVec w (cmpOpc c) s.nextTok places x [] x.tag).issued) ∧
      (∀ k a b, k < 1024 → (x.elems wd 0)[k]? = some a → (x.elems wd 1)[k]? = some b →
        m.getLsbD k = cmpElem c ty (decide (4 ≤ w.mode.toNat)) a b) ∧
      ∀ k, (x.elems wd 0).length ≤ k → m.getLsbD k = false) ∧
    (VReady s s u 0x48 w [] [] x places → ∃ r, exec (.vsel w) s = .next
        ((u.writeVec w 0x48 s.nextTok places x r (x.tag || s.maskTag w.mode.toNat)).issued) ∧
      ∀ k a b, (x.elems wd 0)[k]? = some a → (x.elems wd 1)[k]? = some b →
        r[k]? = some (if (s.mask w.mode.toNat).getLsbD k then a else b)) ∧
    ends (.mand w) 0x49 (u.setMask d (m1 &&& m2) (t1 || t2)) ∧
    ends (.mor w) 0x4A (u.setMask d (m1 ||| m2) (t1 || t2)) ∧
    ends (.mxor w) 0x4B (u.setMask d (m1 ^^^ m2) (t1 || t2)) ∧
    ends (.mnot w) 0x4C (u.setMask d (~~~m1) t1) ∧
    ends (.mpopc w) 0x4D (u.setG (w.dst.setWidth 5)
      (BitVec.ofNat 64 ((List.range 1024).countP fun k => m1.getLsbD k)) t1) ∧
    (VReady s s u 0x4E w [] [] x places → ∃ k : Nat, exec (.mfirst w) s = .next
        (((u.setG (w.dst.setWidth 5) (BitVec.ofNat 64 k) t1).writeVec w 0x4E s.nextTok places x [] x.tag).issued) ∧
      k ≤ 1024 ∧ (∀ j < k, m1.getLsbD j = false) ∧ (k < 1024 → m1.getLsbD k = true))

/-- R129, R223-R226: conversions and quantisation, element by element. VWIDEN and VNARROW keep the value where it fits; stochastic rounding
to bf16 uses SRKEY and SRCTR, and advances SRCTR by the elements; a scale covers 32 elements. Rounding (R119-R121, R124): the codes of a
format stand for 0 and the multiples of its least subnormal that it holds, in order; within the range a result is the value nearest to the
exact one, the even code on a tie, or the nearest below or above it, as the rounding mode says, and rounding toward zero never passes the
largest finite value; a product, and a sum of terms of one exponent, are rounded from the exact value. -/
def Obligations.VectorConversions : Prop :=
  (∀ (ty : Nat) (env : FEnv) (neg : Bool) (m : Nat) (e : Int), 8 ≤ ty → ty ≤ 12 → env.ftz = false → m ≠ 0 →
    let f := fmtOf ty
    let U (b : Nat) : Nat := if b / 2 ^ f.fw = 0 then b else (2 ^ f.fw + b % 2 ^ f.fw) * 2 ^ (b / 2 ^ f.fw - 1)
    let W (b : Nat) : Nat := U b * 2 ^ (f.qmin - e).toNat
    let X := m * 2 ^ (e - f.qmin).toNat
    let off (b : Nat) : Nat := ((W b : Int) - X).natAbs
    let gives (b : Nat) : Prop := b ≤ f.top ∧ roundTo ty env neg m e false = signBit ty neg + b
    let up : Prop := (env.rm = .ru ∧ neg = false) ∨ (env.rm = .rd ∧ neg = true)
    (∀ b, b ≤ f.top → ∃ M E, unpack ty false (signBit ty neg + b) = .fin neg M E ∧ f.qmin ≤ E ∧ M * 2 ^ (E - f.qmin).toNat = U b) ∧
    (X ≤ W f.top → env.rm = .rne → ∃ b, gives b ∧ ∀ c, c ≤ f.top → off b ≤ off c ∧ (off b = off c → c = b ∨ b % 2 = 0)) ∧
    (X ≤ W f.top → env.rm ≠ .rne → ¬ up → ∃ b, gives b ∧ W b ≤ X ∧ ∀ c, c ≤ f.top → W c ≤ X → c ≤ b) ∧
    (X ≤ W f.top → up → ∃ b, gives b ∧ X ≤ W b ∧ ∀ c, c ≤ f.top → X ≤ W c → b ≤ c) ∧
    (W f.top < X → env.rm ≠ .rne → ¬ up → gives f.top) ∧
    (∀ t n g, fmul ty env (.fin neg m e) (.fin t n g) = roundTo ty env (neg ≠ t) (m * n) (e + g) false) ∧
    (∀ xs t n, let v : Int := (if neg then -(m : Int) else m) + if t then -(n : Int) else n
      v ≠ 0 → fadd ty env xs (.fin neg m e) (.fin t n e) = roundTo ty env (decide (v < 0)) v.natAbs e false)) ∧
  ∀ (s u : State) (n : Nat) (st : Strand) (w : VWord) (x : VIn) (places : List Nat), s.acts n st →
    let ty := w.ty.toNat
    let src := w.s3.toNat % 16
    let env := s.fenv w
    let fit (v : Int) : Nat := ((if w.mode.toNat % 2 = 1
      then max (intMin (isSigned ty) (typeWidth ty)) (min (intMax (isSigned ty) (typeWidth ty)) v) else v) %
        2 ^ typeWidth ty).toNat
    let writes (i : Instr) (opc : Nat) (p : List Nat → Prop) : Prop := VReady s s u opc w [] [] x places →
      ∃ r, exec i s = .next ((u.writeVec w opc s.nextTok places x r x.tag).issued) ∧ p r
    let lanes (f : Nat → Nat) (r : List Nat) : Prop := ∀ (k a : Nat), (x.elems (typeWidth src) 0)[k]? = some a → r[k]? = some (f a)
    let scaledBy (f : Nat → Nat → Nat) (r : List Nat) : Prop := ∀ (k a c : Nat), (x.elems (typeWidth src) 0)[k]? = some a →
      (x.elems 16 1)[k / 32]? = some c → r[k]? = some (f a c)
    (∀ k us, u.cur = .strand n → u.strandAt n = some us → (u.advanceSr k).strandAt n =
      some { us with srctr := BitVec.ofNat 64 ((us.srctr.toNat + k) % 2 ^ 32) }) ∧
    (s.usesSr w = false → writes (.vcvt w) 0x60 (lanes fun a => convElem ty src env a)) ∧
    (s.usesSr w = true → VReady s s u 0x60 w [] [] x places → ∃ r, exec (.vcvt w) s = .next
        (((u.advanceSr r.length).writeVec w 0x60 s.nextTok places x r x.tag).issued) ∧
      ∀ k a, (x.elems 32 0)[k]? = some a → r[k]? = some (srBf16 st.srctr.toNat st.srkey.toNat a k env.ftz env.sat)) ∧
    writes (.vwiden w) 0x61 (lanes fun a => (intOf src a % 2 ^ typeWidth ty).toNat) ∧
    writes (.vnarrow w) 0x62 (lanes fun a => fit (intOf src a)) ∧
    writes (.vquantScale w) 0x63 (fun r => ∃ cs, r = elems (typeWidth ty) (packVec 16 cs) ∧
      ∀ b, b < (x.elems (typeWidth src) 0).length / 32 → cs[b]? = some (blockScale ty
        (((x.elems (typeWidth src) 0).drop (32 * b)).take 32 |>.map (unpack src (decide (4 ≤ w.mode.toNat)))))) ∧
    writes (.vquant w) 0x63 (scaledBy fun a c => quantElem ty src env c a) ∧
    writes (.vdeq w) 0x64 (scaledBy fun a c => toFloat ty env (scaled (scaleOf c) (unpack src false a)))

/-- R127, R133, R227-R229, R234, R235: reductions, permutations and moves. A reduction folds the enabled elements as a pairwise tree into
element 0 and writes 0 to the others. -/
def Obligations.VectorMoves : Prop :=
  ∀ (s u : State) (w : VWord) (x : VIn) (places : List Nat) (op : RedOp),
    let ty := w.ty.toNat
    let wd := typeWidth ty
    let n := countAt wd
    let g (f : BitVec 12) : W64 := s.g (srcReg f)
    let A (k : Nat) : Option Nat := (x.elems wd 0)[k]?
    let B (k : Nat) : Option Nat := (x.elems wd 1)[k]?
    let writes (i : Instr) (opc : Nat) (addr vals : List GReg) (p : List Nat → Prop) : Prop :=
      VReady s s u opc w addr vals x places →
      ∃ r, exec i s = .next ((u.writeVec w opc s.nextTok places x r x.tag).issued) ∧ p r
    writes (.vred op w) (redOpc op) [] [] (fun r => r = redTree (redElem op ty (s.fenv w) (decide (w.mode.toNat % 2 = 1))) n.log2
      ((x.elems wd 0).mapIdx fun i e => if x.en i then e else redIdentity op ty) :: List.replicate (n - 1) 0) ∧
    writes (.vperm w) 0x74 [] [] (fun r => ∀ k a b, B k = some b → A (b % n) = some a → r[k]? = some a) ∧
    writes (.vshuf w) 0x75 [] [] (fun r => ∀ k a b, A k = some a → B k = some b →
      ((x.elems wd 0).length = n → (x.elems wd 1).length = n →
      (w.mode.toNat = 0 → k < n / 2 → r[2 * k]? = some a ∧ r[2 * k + 1]? = some b) ∧
      (w.mode.toNat = 1 → n / 2 ≤ k → r[2 * (k - n / 2)]? = some a ∧ r[2 * (k - n / 2) + 1]? = some b) ∧
      (w.mode.toNat = 2 → k % 2 = 0 → n % 2 = 0 → r[k / 2]? = some a ∧ r[n / 2 + k / 2]? = some b) ∧
      (w.mode.toNat = 3 → k % 2 = 1 → n % 2 = 0 → r[k / 2]? = some a ∧ r[n / 2 + k / 2]? = some b))) ∧
    writes (.vbcast w) 0x76 [] [srcReg w.s1] (fun r => r = List.replicate n ((g w.s1).toNat % 2 ^ wd)) ∧
    writes (.vslide w) 0x77 [srcReg w.s3] [] (fun r => (x.elems wd 0).length = n → (x.elems wd 1).length = n →
      ∀ k, k < n → r[k]? = some (((x.elems wd 0 ++ x.elems wd 1)[k + (g w.s3).toNat]?).getD 0)) ∧
    writes (.vins w) 0x78 [srcReg w.s3] [srcReg w.s2] (fun r => ∀ k a, A k = some a →
      r[k]? = some (if k = (g w.s3).toNat then (g w.s2).toNat % 2 ^ wd else a)) ∧
    (VReady s s u 0x79 w [srcReg w.s2] [] x places → exec (.vext w) s = .next
      (((u.setG (w.dst.setWidth 5) (let e := if (g w.s2).toNat < n then (A (g w.s2).toNat).getD 0 else 0
        BitVec.ofInt 64 (if 8 ≤ ty then (e : Int) else intOf ty e)) x.tag).writeVec w 0x79 s.nextTok places x [] x.tag).issued)) ∧
    (VReady s s u 0x7A w [] [] x places → ∃ r, exec (.viota w) s = .next
        ((u.writeVec w 0x7A s.nextTok places x r (x.tag || s.maskTag (srcMask w.s1))).issued) ∧
      ∀ k, k < n → r[k]? = some ((List.range k).countP (fun j => (s.mask (srcMask w.s1)).getLsbD j) % 2 ^ wd)) ∧
    writes (.vmov w) 0x90 [] [] (fun r => r = x.elems wd 0) ∧
    writes (.vrng w) 0x91 [] [srcReg w.s1, srcReg w.s2] (fun r => ∀ k, k < 128 →
      r[k]? = some (hashH (((g w.s1).toNat + k) % 2 ^ 32) ((g w.s2).toNat % 2 ^ 32)))

/-- R94, R213, R230, R231, R92, R216, R232, R233: scratchpad vector words. A load takes 512 bytes at its address; a gather takes element by
element at index times width; a store writes the bits of the enabled elements and no other; a scatter writes each enabled element where no
later one overlaps it; behind a push of the strand that is still in flight a store stands in line. Global vector words outside a transaction enter the strand's queues with the touched segments' parts: a load with the
name or the address that receives it, a store with its bytes; a postmarked one with its time. -/
def Obligations.VectorMemory : Prop :=
  (∀ (s u : State) (n : Nat) (st us : Strand) (w : VWord) (x : VIn) (places : List Nat), s.acts n st → u.cur = .strand n →
     u.strandAt n = some us →
     let wd := typeWidth w.ty.toNat
     let a := ((s.g (srcReg w.s1)).toNat + 64 * w.s2.toNat) % 2 ^ 21
     let core := coreOfStrand n
     let mem (t : State) (k : Nat) : Byte := tget 0 (t.coreAt core).spm k
     (VReady s s u 0x80 w [srcReg w.s1] [] x places → s.spCheck w true = .ok a s →
       exec (.vld w) s = .next ((u.writeVec w 0x80 s.nextTok places x
         (elems wd (BitVec.ofNat 4096 (leNat (tgets 0 u.readCore.spm a 512))))
         (x.tag || (u.readCore.spmRead a 512).2)).issued)) ∧
     (VReady s s u 0x81 w [srcReg w.s1] [] x places → s.spCheck w false = .ok a s →
       us.owesBefore (us.mark + 1) = true → ∃ t st', exec (.vst w) s = .next t ∧ t.verdict = .issued none ∧ t.mem = u.mem ∧
         t.cores = u.cores ∧ t.strandAt n = some st' ∧
         ⟨us.mark + 1, [], [(a, packVec wd (x.elems wd 0), enBits wd 0 x.en)], x.tag, none⟩ ∈ st'.fly) ∧
     (VReady s s u 0x81 w [srcReg w.s1] [] x places → s.spCheck w false = .ok a s → w.mask = 0 →
       us.owesBefore (us.mark + 1) = false → ∃ t, exec (.vst w) s = .next t ∧ t.verdict = .issued none ∧ t.mem = u.mem ∧
         (∀ k, ¬ (a ≤ k ∧ k < a + 512) → mem t k = mem u k) ∧
         (wd ≠ 0 → 4096 % wd = 0 → ∀ k, k < 512 →
           mem t (a + k) = BitVec.ofNat 8 ((packVec wd (x.elems wd 0)).toNat / 256 ^ k))) ∧
     (VReady s s u 0x81 w [srcReg w.s1] [] x places → s.spCheck w false = .ok a s → wd ∈ [4, 8, 16, 32] →
       us.owesBefore (us.mark + 1) = false → ∃ t, exec (.vst w) s = .next t ∧ t.verdict = .issued none ∧ t.mem = u.mem ∧
         (∀ k, ¬ (a ≤ k ∧ k < a + 512) → mem t k = mem u k) ∧
         (let held (v : State) (k : Nat) : Option Nat :=
            (elems wd (BitVec.ofNat 4096 (leNat (tgets 0 (v.coreAt core).spm a 512))))[k]?
          ∀ k v, k < countAt wd → (x.elems wd 0)[k]? = some v →
            held t k = if x.en k then some (v % 2 ^ wd) else held u k)) ∧
     (VReady s s u 0x82 w [srcReg w.s1] [] x places → s.gatherCheck 0x82 w = .ok () s → u.g (srcReg w.s1) = s.g (srcReg w.s1) →
       ∃ r tag, exec (.vldg w) s = .next ((u.writeVec w 0x82 s.nextTok places x r (x.tag || tag)).issued) ∧
         ∀ k i, (x.elems wd 0)[k]? = some i → x.en k = true →
           r[k]? = some (leNat (tgets 0 u.readCore.spm (a + i * (wd / 8)) (wd / 8)))) ∧
     (VReady s s u 0x83 w [srcReg w.s1] [] x places → s.gatherCheck 0x83 w = .ok () s → u.g (srcReg w.s1) = s.g (srcReg w.s1) →
       us.owesBefore (us.mark + 1) = false → ∃ t, exec (.vsts w) s = .next t ∧ t.verdict = .issued none ∧ t.mem = u.mem ∧
         ∀ k i v j, k < countAt wd → (x.elems wd 0)[k]? = some i → (x.elems wd 1)[k]? = some v → x.en k = true → j < wd / 8 →
           (∀ k' i', k < k' → k' < countAt wd → x.en k' = true → (x.elems wd 0)[k']? = some i' → i' ≠ i) →
           mem t (a + i * (wd / 8) + j) = BitVec.ofNat 8 (v / 256 ^ j))) ∧
  (∀ (s s0 u : State) (n : Nat) (st us : Strand) (w : VWord) (x : VIn) (places : List Nat) (ps : List Part), s.acts n st →
     u.cur = .strand n → u.strandAt n = some us → us.txn = none →
     let ra := srcReg w.s1
     let rt := srcReg w.s3
     let rp := w.dst.setWidth 5
     let loads (i : Instr) (what : LoadWhat) : Prop := ∃ t st', exec i s = .next t ∧ t.verdict = .issued none ∧
       t.strandAt n = some st' ∧ u.onlyStrand t n ∧
       st'.lq = us.lq ++ [⟨what, u.vPtr w, ps, ps, 0, false, us.epoch, us.mark + 1, u.sigOf w, us.pc⟩]
     let stores (i : Instr) (what : StoreWhat) : Prop := ∃ t st', exec i s = .next t ∧ t.verdict = .issued none ∧
       t.strandAt n = some st' ∧ u.onlyStrand t n ∧
       st'.sq = us.sq ++ [⟨what, u.vPtr w, ps, packVec (typeWidth w.ty.toNat) (x.elems (typeWidth w.ty.toNat) 0),
         byteMask (enBits (typeWidth w.ty.toNat) 0 x.en), x.tag, us.epoch, us.mark + 1, us.sn, u.sigOf w⟩]
     (VReady s s0 u 0x84 w [ra] [] x places → s.vGlobal w false none = .ok ps s0 →
       loads (.vldm w) (.vec (vDest w s0.nextTok places x))) ∧
     (VReady s s0 u 0x86 w [ra, rt] [] x places → s.vGlobal w false (some (s.g rt)) = .ok ps s0 →
       loads (.vldmNb w) (.vecNb (vDest w s0.nextTok places x) (s.g rt))) ∧
     (VReady s s0 u 0x85 w [ra] [] x places → s.vGlobal w true none = .ok ps s0 → stores (.vstm w) .plain) ∧
     (VReady s s0 u 0x87 w [ra, rp] [] x places → s.vGlobal w true (some (s.g rp)) = .ok ps s0 →
       stores (.vstmPm w) (.pm (s.g rp))))

/-- R47, R150, R213, R216: what a vector result leaves. A word that writes one name is in flight with its value: enabled elements new, the
others 0 or as they were; nothing else of the package changes. At its completion the entry that the word reserved holds that value and is
ready, and the word is in flight no more. -/
def Obligations.VectorResults : Prop :=
  (∀ (s : State) (n : Nat) (st : Strand) (w : VWord) (opc tok d : Nat) (places : List Nat) (x : VIn) (r : List Nat) (tag : Bool),
    s.cur = .strand n → s.strandAt n = some st → vTarget opc w = some (d, 1) → d < 1536 → ¬ (0x70 ≤ opc ∧ opc ≤ 0x72) →
    let wd := typeWidth w.ty.toNat
    wd ∈ [4, 8, 16, 32] → r.length = countAt wd → x.prior.length = 1 → (∀ v ∈ r, v < 2 ^ wd) →
    ∃ v st', (s.writeVec w opc tok places x r tag).strandAt n = some st' ∧ s.onlyStrand (s.writeVec w opc tok places x r tag) n ∧
      st'.fly = st.fly ++ [⟨tok, [(d, v, tag)], [], tag, s.sigOf w⟩] ∧ { st' with fly := st.fly, mark := st.mark } = st ∧
      ∀ k, k < countAt wd → (elems wd v)[k]? = some (if x.en k then (r[k]?).getD 0 else if w.zero then 0
        else ((groupElems wd x.prior)[k]?).getD 0)) ∧
  (∀ (s : State) (n i d tok : Nat) (st : Strand) (v : Vec) (tag b : Bool) (v0 : Vec), s.strandAt n = some st →
    st.fly[i]? = some ⟨tok, [(d, v, tag)], [], b, none⟩ → tget [] st.vn d = [⟨false, v0, tag, tok⟩] →
    ∃ t st', exec (.vectorWordCompletion n i) s = .next t ∧ t.strandAt n = some st' ∧ st'.fly = st.fly.eraseIdx i ∧
      tget [] st'.vn d = [⟨true, v, tag, tok⟩] ∧ (∀ k, k ≠ d → tget [] st'.vn k = tget [] st.vn k) ∧ t.mem = s.mem)

/-! Engine words and their commands (R137, R151, R236-R263). -/

/-- R236, R237, R239, R298: an engine word whose checks all pass enters its queue as the last command, with the values of the registers that
it reads, and the strand goes on. An MXE or weight-stream word does so for the tile task that owns the MXE state. Registers, memory and the
other cores are unchanged. (The note of a stamped word that reaches the head is left out of the comparison.) With no owner, a tile task
whose context's save heap can hold M bytes more, in one piece, takes the MXE state: the reservation grows by M, weight buffer 0 is on the MXE side, and a
state that another context left is cleared, with its tags. -/
def Obligations.EngineIssue : Prop :=
  (∀ (s : State) (n : Nat) (st : Strand) (t : TileTask) (h : EHead), s.acts n st → s.ttAt st.tt = some t → st.txn = none →
     st.rels = [] → (h.wthr ≠ 0 → h.wsem.toNat < t.semLen) → (h.sinc ≠ 0 → h.ssem.toNat < t.semLen) →
     let core := coreOfStrand n
     let c := s.coreAt core
     let bare (l : List Cmd) : List Cmd := l.map fun y => { y with arrived := none }
     let enters (i : Instr) (q : Nat) (regs : List GReg) : Prop :=
       s.produced regs → s.clear regs → c.full q = false → (q = 0 → st.role = .computer) →
       (q = 0 ∨ q = 5 → c.mxeOwner = some st.tt) →
       ∃ u x, exec i s = .next u ∧ u.verdict = .issued none ∧ x.id = c.nextCmd ∧ x.word = i ∧ x.regs = regs.map s.g ∧
         x.strand = n ∧ x.tt = st.tt ∧ x.ctx = t.ctx ∧ x.started = false ∧ x.waited = false ∧
         (∀ p, bare ((u.coreAt core).queue p) = if p = q then bare (c.queue p) ++ [x] else bare (c.queue p)) ∧
         (∀ m, m ≠ core → u.coreAt m = s.coreAt m) ∧ u.strands = s.strands ∧ u.mem = s.mem
     let inside (a len : Nat) : Prop := t.spmBase ≤ a ∧ a + len ≤ t.spmBase + 4096 * t.spmUnits
     (∀ x k may must, mmaPair x.fa.toNat x.fb.toNat = some (k, may, must) → (must = true → x.scaled = true) →
       (x.scaled = true → may = true ∧ x.ca.toNat + k / 32 ≤ 128 ∧ x.cb.toNat + k / 32 ≤ 128) →
       let a := ((s.g x.base).toNat + 128 * x.offA.toNat) % 2 ^ 21
       let b := ((s.g x.base).toNat + 128 * x.offB.toNat) % 2 ^ 21
       a % 128 = 0 → a / 2 ^ 19 = (a + 8191) / 2 ^ 19 → inside a 8192 →
       (x.bsrc = false → b % 128 = 0 ∧ b / 2 ^ 19 = (b + 8191) / 2 ^ 19 ∧ inside b 8192 ∧ a / 2 ^ 19 ≠ b / 2 ^ 19) →
       enters (.mma h x) 0 [x.base] ∧ enters (.mmaz h x) 0 [x.base]) ∧
     (∀ x : AccArgs, accType x.ty.toNat = true →
       let a := (s.g x.base + BitVec.ofNat 64 (64 * x.off.toNat)).toNat
       a % 64 = 0 → inside a (4096 * typeWidth x.ty.toNat / 8) →
       enters (.accrd h x) 0 [x.base] ∧ enters (.accwr h x) 0 [x.base]) ∧
     (∀ mask, enters (.accz h mask) 0 []) ∧
     (∀ x : SclArgs, x.c0.toNat + (x.nc1.toNat + 1) ≤ 128 →
       let a := (s.g x.base + BitVec.ofNat 64 (64 * x.off.toNat)).toNat
       a % 64 = 0 → inside a (128 * (x.nc1.toNat + 1)) → enters (.scld h x) 0 [x.base]) ∧
     (∀ x : WstArgs, x.fmt ≠ 3 → (x.fmt = 1 → x.width ≠ 3) → x.t0.toNat + x.count1.toNat + 1 ≤ 16 → (s.g x.src).toNat % 64 = 0 →
       enters (.wstrm h x) 5 [x.src]) ∧
     (∀ buf, enters (.wsel h buf) 5 []) ∧
     (∀ x : CpyArgs, let regs := [x.gd, x.gs, x.gz, x.gw]
       let fits (m : Move) : Prop := m.misaligned = none ∧ m.outside t.spmBase (t.spmUnits * 4096) = none
       (fits (s.myMove x false) → enters (.cpy h x) (1 + x.cq.toNat) regs) ∧
       (x.decl.toNat ≤ 5 → fits (s.myMove x false) → (∃ d k, s.myDecl x.decl.toNat = some (d, k) ∧ d.output = true) →
         enters (.cpyt h x) (1 + x.cq.toNat) regs) ∧
       (fits (s.myMove x true) → enters (.cpyf h x) (1 + x.cq.toNat) regs) ∧
       ((s.g x.gs).toNat % 64 = 0 → (s.g x.gs).toNat < 2 ^ 21 → inside (s.g x.gs).toNat 64 →
         enters (.chain h x) (1 + x.cq.toNat) [x.gs])) ∧
     (∀ d, (s.g d).toNat % 64 = 0 → enters (.sfjExp h d) 6 [d] ∧ enters (.sfjLog h d) 6 [d] ∧ enters (.sfjSoftmax h d) 6 [d] ∧
       enters (.sfjTopk h d) 6 [d] ∧ enters (.sfjSort h d) 6 [d] ∧ enters (.sfjSample h d) 6 [d])) ∧
  (∀ (s : State) (core tt : Nat) (t : TileTask) (x : Ctx), s.ttAt tt = some t → s.ctxAt t.ctx = some x → t.core = core →
     t.wantsMxe = true → (s.coreAt core).mxeOwner = none → x.heapUsed + Config.mxeSave ≤ x.heapSize →
     (s.heapPlace t.ctx (t.reserved + Config.mxeSave) tt).isSome →
     ∃ u t', exec (.mxeOwnershipTake core tt) s = .next u ∧ (u.coreAt core).mxeOwner = some tt ∧ (u.coreAt core).side = 0 ∧
       u.ttAt tt = some t' ∧ t'.reserved = t.reserved + Config.mxeSave ∧ t'.wantsMxe = false ∧
       u.ctxAt t.ctx = some { x with heapUsed := x.heapUsed + Config.mxeSave } ∧
       (∀ k, (s.coreAt core).mxeCtx ≠ some t.ctx → tget 0 (u.coreAt core).acc k = 0 ∧ tget 0 (u.coreAt core).wb k = 0 ∧
         tget 0 (u.coreAt core).scale k = 0 ∧ tget false (u.coreAt core).accTag k = false ∧
         tget false (u.coreAt core).scaleTag k = false ∧ tget false (u.coreAt core).wbTag k = false) ∧
       (∀ k, (s.coreAt core).mxeCtx = some t.ctx → tget 0 (u.coreAt core).acc k = tget 0 (s.coreAt core).acc k) ∧
       (∀ m, m ≠ core → u.coreAt m = s.coreAt m) ∧ u.strands = s.strands ∧ u.mem = s.mem)

/-- R151, R236, R71, R72, R260-R263: the command at the head of a queue, its clause served and nothing before it in progress, starts: the
clause's count is subtracted, and memory is unchanged. A command of a queue other than the special-function one. The target time of a stamped
word is the nearest PT to H whose low 32 bits are the stamp. Before it the word does nothing; on it, with its clause served and the engine
able to take it, it starts and its count is subtracted, unless its clock has passed on which it could not (`atE`). A target before H, a
clause that is not served on the tick, and a clock that has passed raise SCHEDULE_MISS: the word is dropped and its tile task fails under
KILL_SELF, and under IGNORE it counts as failed. A special-function job that is the first at its engine is performed as it starts: it reads
its descriptor and its rows, and writes the outputs of each row; a descriptor outside its limits raises SF_JOB. The outputs of a row are those
of R263's table for EXP, LOG, SOFTMAX, TOPK, SORT and SAMPLE, with the tags of what they are computed from. -/
def Obligations.EngineStarts : Prop :=
  (∀ (s : State) (core q : Nat) (x : Cmd) (h : EHead), q < 6 → (s.coreAt core).head q = some x → engineHead x.word = some h →
     h.stamped = false → s.frozen x.tt = false → (q ≠ 0 → ∀ y ∈ (s.coreAt core).queue q, y.started = false) →
     s.mayStart core q x = true →
     let c := s.coreAt core
     let i := semNum x.semBase h.wsem.toNat
     let waits : Bool := decide (h.wthr ≠ 0) && !x.waited
     (waits = true → (c.sem i).poisoned = false ∧ h.wthr.toNat ≤ (c.sem i).count ∧
       (tget [] c.sync.waiters i = [] ∨ ∃ k r, tget [] c.sync.waiters i = (.engine q, k) :: r)) →
     let bare (l : List Cmd) : List Cmd := l.map fun y => { y with arrived := none, chain := none }
     ∃ u, exec (.engineCommandStart core q) s = .next u ∧
       (∀ p, bare ((u.coreAt core).queue p) = (bare (c.queue p)).map fun y =>
         if p = q ∧ y.id = x.id then { y with waited := true, started := true } else y) ∧
       (∀ k, (u.coreAt core).sem k = if k = i ∧ waits = true then { c.sem k with count := (c.sem k).count - h.wthr.toNat }
         else c.sem k) ∧
       (∀ m, m ≠ core → u.coreAt m = s.coreAt m) ∧ u.strands = s.strands ∧ u.mem = s.mem) ∧
  (∀ (s : State) (core : Nat) (x : Cmd) (h : EHead) (H : W64), (s.coreAt core).head 0 = some x → engineHead x.word = some h →
     h.stamped = true → x.arrived = some H → s.frozen x.tt = false →
     let T := stampTarget H.toNat h.stamp.toNat
     let pt : Int := (s.pt (dieOfCore core) : Nat)
     T % 2 ^ 32 = (h.stamp.toNat : Int) ∧ -(2 ^ 31) ≤ T - H.toNat ∧ T - (H.toNat : Int) < 2 ^ 31 ∧
     ((H.toNat : Int) ≤ T → pt < T → exec (.stampedCommandIssue core) s = .next s) ∧
     (let c := s.coreAt core
      let i := semNum x.semBase h.wsem.toNat
      let waits : Bool := decide (h.wthr ≠ 0) && !x.waited
      let served : Prop := waits = true → (c.sem i).poisoned = false ∧ h.wthr.toNat ≤ (c.sem i).count ∧
        (tget [] c.sync.waiters i = [] ∨ ∃ k r, tget [] c.sync.waiters i = (.engine 0, k) :: r)
      let misses : Prop := exec (.stampedCommandIssue core) s =
        .next (s.failCmd core 0 x .scheduleMiss (missRec T H x.resumed))
      ((H.toNat : Int) ≤ T → T ≤ pt → served → x.atE ≠ some false → s.mayStart core 0 x = true →
        ∃ u y, exec (.stampedCommandIssue core) s = .next u ∧ y ∈ (u.coreAt core).queue 0 ∧ y.id = x.id ∧ y.word = x.word ∧
          y.started = true ∧
          (∀ k, (u.coreAt core).sem k = if k = i ∧ waits = true then { c.sem k with count := (c.sem k).count - h.wthr.toNat }
            else c.sem k) ∧ u.strands = s.strands ∧ u.mem = s.mem) ∧
      (T < H.toNat → misses) ∧
      ((H.toNat : Int) ≤ T → T ≤ pt → waits = true → (c.sem i).poisoned = false → (c.sem i).count < h.wthr.toNat → misses) ∧
      ((H.toNat : Int) ≤ T → T ≤ pt → served → x.atE = some false → misses) ∧
      (∀ t b, s.ttAt x.tt = some t → s.blockAt t.block = some b →
        let u := s.failCmd core 0 x .scheduleMiss (missRec T H x.resumed)
        (b.lb.ttPolicy = .killSelf → (∀ y ∈ (u.coreAt core).queue 0, y.id ≠ x.id) ∧
          ∃ t', u.ttAt x.tt = some t' ∧ t'.failing = true) ∧
        (b.lb.ttPolicy = .ignore → (∃ y ∈ (u.coreAt core).queue 0, y.id = x.id) ∧
          ∀ y ∈ (u.coreAt core).queue 0, y.id = x.id → y.started = true ∧ y.failed = true)))) ∧
  (∀ (s s1 s2 s3 : State) (core n : Nat) (x : Cmd) (h : EHead) (d : W64) (b : List Byte × List Bool),
     (s.coreAt core).head 6 = some x → engineHead x.word = some h → h.stamped = false → x.regs = [d] → x.order = some n →
     s.frozen x.tt = false → (∀ y ∈ (s.coreAt core).queue 6, y.started = false) → (s.coreAt core).clause 6 x = .yes →
     s.mayStart core 6 x = true → tget false s.energy.gated sfd = false → s.jobFirst (engineOfSub (sfjOp x.word)) n = true →
     6 ∉ (s.coreAt core).ctlErrors → (s.modCore core (·.serve 6 x)).sfdRead x.ctx d 64 = .ok b s1 →
     (∀ y rows os, jobOf (sfjOp x.word) b.1 = some y → s1.jobRows x.ctx y y.rows 0 = .ok rows s2 →
       s2.jobPlaces x.ctx ((rows.mapIdx fun j r => y.row j r.1 r.2).flatten) = .ok os s3 →
       (∀ o ∈ os, s3.homesFree sfd o.2 = true ∧ ∀ p ∈ o.2, s3.mem.bounces p.pa = false) →
       ∃ u z, exec (.engineCommandStart core 6) s = .next u ∧ z ∈ (u.coreAt core).queue 6 ∧ z.id = x.id ∧ z.started = true ∧
         u.mem.bytes = (os.foldl (fun s o => s.writeOut x.ctx o.1 o.2) s3).mem.bytes) ∧
     (jobOf (sfjOp x.word) b.1 = none →
       exec (.engineCommandStart core 6) s = .next (s1.failCmd core 6 { x with waited := true } .sfJob (Rec.addr d)))) ∧
  (∀ (s : State) (ctx : Nat) (o : JobOut) (p : Part), p.off = 0 → p.len = o.bytes.length →
     (∀ k, k < p.len → s.mem.discards (p.pa + k) = false) →
     ∀ a, (s.writeOut ctx o [p]).mem.byteAt a =
       if p.pa ≤ a ∧ a < p.pa + p.len then (o.bytes[a - p.pa]?).getD 0 else s.mem.byteAt a) ∧
  (∀ (op : Nat) (b : List Byte) (y : Job), jobOf op b = some y →
     y.op = op ∧ y.src = BitVec.ofNat 64 (recF b 0 8) ∧ y.dst = BitVec.ofNat 64 (recF b 8 8) ∧
     y.aux = BitVec.ofNat 64 (recF b 0x10 8) ∧ y.rows = recF b 0x18 4 ∧ y.len = recF b 0x1C 4 ∧ y.sstride = recF b 0x20 4 ∧
     y.dstride = recF b 0x24 4 ∧ y.astride = recF b 0x28 4 ∧ y.inTy = recF b 0x2C 4 % 16 ∧ y.outTy = recF b 0x2C 4 / 16 % 16 ∧
     y.k = recF b 0x2C 4 / 65536 % 65536 ∧ y.key = recF b 0x30 4 ∧ y.ctr = recF b 0x34 4 ∧ 1 ≤ y.rows ∧ y.rows ≤ 2 ^ 24 ∧
     1 ≤ y.len ∧ recF b 0x38 8 = 0 ∧ recF b 0x2C 4 / 1024 % 64 = 0) ∧
  (∀ (y : Job) (j : Nat) (xs : List Nat) (tags : List Bool), tags.length = xs.length →
     let outAt (base : W64) (stride : Nat) : W64 := base + BitVec.ofNat 64 (j * stride)
     let elem (o : JobOut) (w i : Nat) : Nat := leNat ((o.bytes.drop (w * i)).take w)
     let tagged (o : JobOut) : Prop := ∀ t ∈ o.tags, t = tags.any id
     let n := typeWidth y.outTy / 8
     let m := typeWidth y.inTy / 8
     let vals := xs.map (unpack y.inTy false)
     let maps (f : FVal → Nat) : Prop := ∃ o, y.row j xs tags = [o] ∧ o.at_ = outAt y.dst y.dstride ∧
       o.bytes.length = n * xs.length ∧ ∀ i e t, xs[i]? = some e → tags[i]? = some t →
         elem o n i = f (unpack y.inTy false e) % 256 ^ n ∧ ∀ k, k < n → o.tags[n * i + k]? = some t
     let ranks (desc : Bool) (r : List (Nat × Nat)) : Prop := r.length = xs.length ∧ (r.map (·.2)).Nodup ∧
       (∀ e ∈ r, xs[e.2]? = some e.1) ∧ r.Pairwise fun a b =>
         (if desc then rankOf y.inTy b.1 ≤ rankOf y.inTy a.1 else rankOf y.inTy a.1 ≤ rankOf y.inTy b.1) ∧
         (rankOf y.inTy a.1 = rankOf y.inTy b.1 → a.2 < b.2)
     (y.op = 0 → maps (fexp y.outTy engineEnv)) ∧
     (y.op = 1 → maps (fln y.outTy engineEnv)) ∧
     (y.op = 2 → ∃ o, y.row j xs tags = [o] ∧ o.at_ = outAt y.dst y.dstride ∧ tagged o ∧
       ∀ i v, vals[i]? = some v →
         ((∃ z ∈ vals, z.isNan = true) → elem o n i = canonNan y.outTy % 256 ^ n) ∧
         ((∀ z ∈ vals, z = .inf true) → elem o n i = 0) ∧
         ((∀ z ∈ vals, z.isNan = false) → (∃ z ∈ vals, z = .inf false) → elem o n i = (if v = .inf false then
           fdiv y.outTy engineEnv (.fin false 1 0) (.fin false (vals.countP fun z => decide (z = .inf false)) 0)
           else 0) % 256 ^ n) ∧
         (let top := vals.foldl (fun a z => if a.lt z then z else a) (.inf true)
          let e (z : FVal) : FVal := unpack 8 false (fexp 8 engineEnv (unpack 8 false (fadd 8 engineEnv [] z top.flip)))
          (∀ z ∈ vals, z.isNan = false ∧ z ≠ .inf false) → (∃ z ∈ vals, z ≠ .inf true) → elem o n i = fdiv y.outTy engineEnv (e v)
            (vals.foldl (fun a z => unpack 8 false (fadd 8 engineEnv [] a (e z))) (.fin false 0 0)) % 256 ^ n)) ∧
     (y.op = 3 → ∃ o p r, y.row j xs tags = [o, p] ∧ o.at_ = outAt y.dst y.dstride ∧ p.at_ = outAt y.aux y.astride ∧
       tagged o ∧ tagged p ∧ ranks true r ∧ ∀ i e, (r.take y.k)[i]? = some e → elem o m i = e.1 % 256 ^ m ∧
         elem p 4 i = e.2 % 2 ^ 32) ∧
     (y.op = 4 → ∃ o rest r, y.row j xs tags = o :: rest ∧ o.at_ = outAt y.dst y.dstride ∧ tagged o ∧ ranks y.desc r ∧
       (∀ i e, r[i]? = some e → elem o m i = e.1 % 256 ^ m) ∧ (y.indices = false → rest = []) ∧
       (y.indices = true → ∃ p, rest = [p] ∧ p.at_ = outAt y.aux y.astride ∧ tagged p ∧
         ∀ i e, r[i]? = some e → elem p 4 i = e.2 % 2 ^ 32)) ∧
     (y.op = 5 → ∃ o, y.row j xs tags = [o] ∧ o.at_ = outAt y.dst y.dstride ∧ tagged o ∧ o.bytes.length = 4 ∧
       ((∃ z ∈ vals, z.isNan = true ∨ z = .inf false ∨ z = .inf true ∨ ∃ k q, z = .fin true (k + 1) q) →
         elem o 4 0 = 0xFFFFFFFF) ∧
       (let cum := cumSums (.fin false 0 0) vals
        (∀ z ∈ vals, z.isNan = false ∧ z ≠ .inf false ∧ z ≠ .inf true ∧ ∀ k q, z ≠ .fin true (k + 1) q) →
        (∀ s, cum.getLast? = some (.inf s) → elem o 4 0 = 0xFFFFFFFF) ∧
        (∀ s q, cum.getLast? = some (.fin s 0 q) → elem o 4 0 = 0xFFFFFFFF) ∧
        ∀ s k q i v, cum.getLast? = some (.fin s (k + 1) q) → i < 2 ^ 32 →
          let t : FVal := .fin s (hashH ((y.ctr + j) % 2 ^ 32) y.key * (k + 1)) (q - 32)
          cum[i]? = some v → t.lt v = true → (∀ l w, l < i → cum[l]? = some w → t.lt w = false) → elem o 4 0 = i)))

/-- R131, R132, R240, R245-R248: what the oldest started MXE command does as it completes. Integer steps add the exact products to the word,
wrapped or saturated; floating steps follow `mxeFloatStep`, with each element scaled by its block's scale in a scaled step. ACCRD and ACCWR
convert between a word and an element of their type. Rows and columns outside m and n, and every other tile, keep their words. The
command leaves its queue. -/
def Obligations.MatrixSteps : Prop :=
  ∀ (s : State) (core seg : Nat) (x : Cmd) (h : EHead) (base : W64), x.regs = [base] → x.failed = false →
    ((s.coreAt core).queue 0).find? (·.started) = some x → s.signalFits core x →
    let c := s.coreAt core
    let at_ (unit off : Nat) : Nat := (base.toNat + unit * off) % 2 ^ 21
    let doneBy (f : Core → Prop) : Prop := ∃ u, exec (.engineCommandComplete core 0 seg) s = .next u ∧ f (u.coreAt core) ∧
      (∀ y ∈ (u.coreAt core).queue 0, y.id ≠ x.id) ∧ ∀ m, m ≠ core → u.coreAt m = s.coreAt m
    let word (c : Core) (t i j : Nat) : W32 := tget 0 c.acc (4096 * t + 64 * i + j)
    (∀ (a : MmaArgs) (zero : Bool) (k : Nat) (b1 b2 : Bool), x.word = (if zero then .mmaz h a else .mma h a) →
      mmaPair a.fa.toNat a.fb.toNat = some (k, b1, b2) →
      let A (i l : Nat) : Nat := (((elemsOf (typeWidth a.fa.toNat) k (c.spmRead (at_ 128 a.offA.toNat + 128 * i) 128).1))[l]?).getD 0
      let B (j l : Nat) : Nat := (((elemsOf (typeWidth a.fb.toNat) k
        (c.mmaVector a.bsrc (if a.bsrc then a.offB.toNat % 16 else at_ 128 a.offB.toNat) j).1))[l]?).getD 0
      let t := a.acc.toNat
      doneBy fun c' =>
        (∀ i j, i ≤ a.m1.toNat → j ≤ a.n1.toNat → a.fa.toNat < 8 → a.fb.toNat < 8 →
          let v : Int := (List.range k).foldl (fun v l => v + intOf a.fa.toNat (A i l) * intOf a.fb.toNat (B j l))
            (if zero then 0 else (word c t i j).toInt)
          word c' t i j = BitVec.ofInt 32 (if a.sat then max (-2 ^ 31) (min (2 ^ 31 - 1) v) else v)) ∧
        (∀ i j, i ≤ a.m1.toNat → j ≤ a.n1.toNat → 8 ≤ a.fa.toNat → a.scaled = false →
          word c' t i j = BitVec.ofNat 32 (mxeFloatStep (
            (if zero then .fin false 0 0 else unpack 8 false (word c t i j).toNat) :: (List.range k).map fun l =>
              fmulX (unpack a.fa.toNat (decide (a.fa = 10)) (A i l)) (unpack a.fb.toNat (decide (a.fb = 10)) (B j l))))) ∧
        (let scale (lane col l : Nat) := scaleOf (tget 0 c.scale (128 * lane + col + l / 32)).toNat
         ∀ i j, i ≤ a.m1.toNat → j ≤ a.n1.toNat → 8 ≤ a.fa.toNat → a.scaled = true →
          word c' t i j = BitVec.ofNat 32 (mxeFloatStep (
            (if zero then .fin false 0 0 else unpack 8 false (word c t i j).toNat) :: (List.range k).map fun l =>
              fmulX (scaled (scale i a.ca.toNat l) (unpack a.fa.toNat (decide (a.fa = 10)) (A i l)))
                (scaled (scale j a.cb.toNat l) (unpack a.fb.toNat (decide (a.fb = 10)) (B j l)))))) ∧
        (∀ t' i j, i < 64 → j < 64 → (t' ≠ t ∨ a.m1.toNat < i ∨ a.n1.toNat < j) → word c' t' i j = word c t' i j)) ∧
    (∀ a, x.word = .accrd h a → a.ty.toNat = 4 ∨ a.ty.toNat = 8 → doneBy fun c' =>
      (∀ i j b, i < 64 → j < 64 → b < 4 →
        tget 0 c'.spm (at_ 64 a.off.toNat + 4 * (64 * i + j) + b) =
          BitVec.ofNat 8 ((word c a.acc.toNat i j).toNat / 256 ^ b)) ∧
      ∀ t i j, i < 64 → j < 64 → word c' t i j = if a.clr = true ∧ t = a.acc.toNat then 0 else word c t i j) ∧
    (∀ a, x.word = .accwr h a → a.ty.toNat = 4 ∨ a.ty.toNat = 8 → doneBy fun c' =>
      ∀ t i j, i < 64 → j < 64 → word c' t i j =
        if t = a.acc.toNat then BitVec.ofNat 32 (leNat (c.spmRead (at_ 64 a.off.toNat + 4 * (64 * i + j)) 4).1)
        else word c t i j) ∧
    (∀ a, x.word = .accrd h a → accType a.ty.toNat = true →
      let wd := typeWidth a.ty.toNat
      let e := wd / 8
      doneBy fun c' => ∀ i j b, i < 64 → j < 64 → b < e →
        let v : Int := (word c a.acc.toNat i j).toInt
        let out : Byte := if a.ty = 0 ∨ a.ty = 2 then
            BitVec.ofInt 8 ((if a.sat then max (-2 ^ (wd - 1)) (min (2 ^ (wd - 1) - 1) v) else v) / 256 ^ b)
          else BitVec.ofNat 8 (accOut a.ty.toNat a.rz a.sat (word c a.acc.toNat i j) / 256 ^ b)
        tget 0 c'.spm (at_ 64 a.off.toNat + e * (64 * i + j) + b) = out) ∧
    (∀ a, x.word = .accwr h a → accType a.ty.toNat = true →
      let wd := typeWidth a.ty.toNat
      let e := wd / 8
      doneBy fun c' => ∀ i j, i < 64 → j < 64 →
        let v := leNat (c.spmRead (at_ 64 a.off.toNat + e * (64 * i + j)) e).1
        word c' a.acc.toNat i j = if a.ty = 0 ∨ a.ty = 2 then BitVec.ofInt 32 (if v < 2 ^ (wd - 1) then v else (v : Int) - 2 ^ wd)
          else accIn a.ty.toNat v) ∧
    (∀ a, x.word = .scld h a → a.c0.toNat + a.nc1.toNat < 128 → doneBy fun c' => ∀ l col, l < 64 → col < 128 →
      tget 0 c'.scale (128 * l + col) =
        if a.c0.toNat ≤ col ∧ col ≤ a.c0.toNat + a.nc1.toNat then BitVec.ofNat 16 (leNat (c.spmRead
          (at_ 64 a.off.toNat + 2 * (l * (a.nc1.toNat + 1) + (col - a.c0.toNat))) 2).1 % 512)
        else tget 0 c.scale (128 * l + col))

/-- R247: ACCZ has opcode 5 and its mask in bits [55:40], and leaves bits [127:56] zero. As it completes, the tiles that its mask names are
0 in every word and untagged, and no other tile changes. -/
def Obligations.AccumulatorZero : Prop :=
  (∀ (h : EHead) (mask : BitVec 16), let w := unitsNat (encode (.accz h mask))
    bits w 2 8 = 5 ∧ bits w 40 16 = mask.toNat ∧ bits w 56 72 = 0) ∧
  ∀ (s : State) (core seg : Nat) (x : Cmd) (h : EHead) (mask : BitVec 16), x.failed = false → x.word = .accz h mask →
    ((s.coreAt core).queue 0).find? (·.started) = some x → s.signalFits core x →
    ∃ u, exec (.engineCommandComplete core 0 seg) s = .next u ∧ (∀ y ∈ (u.coreAt core).queue 0, y.id ≠ x.id) ∧
      ∀ t i j, i < 64 → j < 64 →
        let named : Bool := decide (t < 16) && mask.getLsbD t
        tget 0 (u.coreAt core).acc (4096 * t + 64 * i + j) =
          (if named then 0 else tget 0 (s.coreAt core).acc (4096 * t + 64 * i + j)) ∧
        tget false (u.coreAt core).accTag t = if named then false else tget false (s.coreAt core).accTag t

/-- R41: an MXE word on a loader or storer strand raises ENGINE_PLACEMENT, cause 3, at issue; on a computer strand none of them does, and no
courier, weight-stream or special-function word does on any role. -/
def Obligations.EnginePlacement : Prop :=
  Cause.enginePlacement.code = 0x03 ∧
  ∀ (s : State) (n : Nat) (st : Strand) (h : EHead) (x : MmaArgs) (y : AccArgs) (mask : BitVec 16) (z : SclArgs) (w : WstArgs)
    (b : BitVec 1) (c : CpyArgs) (d : GReg), s.acts n st → s.slot.defer = true →
    let mxe : List Instr := [.mma h x, .mmaz h x, .accrd h y, .accwr h y, .accz h mask, .scld h z]
    let others : List Instr := [.wstrm h w, .wsel h b, .cpy h c, .cpyt h c, .cpyf h c, .chain h c, .sfjExp h d, .sfjLog h d,
      .sfjSoftmax h d, .sfjTopk h d, .sfjSort h d, .sfjSample h d]
    (st.role ≠ .computer → ∀ i ∈ mxe, exec i s = .next { s with verdict := .trapped .enginePlacement Rec.zero }) ∧
    (st.role = .computer → ∀ i ∈ mxe, ∃ t, exec i s = .next t ∧ ∀ r, t.verdict ≠ .trapped .enginePlacement r) ∧
    (∀ i ∈ others, ∃ t, exec i s = .next t ∧ ∀ r, t.verdict ≠ .trapped .enginePlacement r)

/-- R252-R258, R262, R151: WSEL puts its buffer on the MXE side as it completes. A fill of a scratchpad range, given turns for all its
4 KiB segments, writes its source value in every eight bytes of each row and nothing else, and completes. A copy between scratchpad ranges
that do not overlap leaves every byte it read at its place in the destination and no other byte changed. A 64-byte copy from global memory
leaves the bytes that the read gave, with their tag, one to global memory leaves the scratchpad's bytes at their home, and a fill there its
value; longer moves are made of such segments. A CPYT whose bytes have all been moved publishes its declaration and completes; a second
publish completes with no effect. A WSTRM whose stream decodes to the tiles named puts their rows in the stream-side buffer, with their tags:
dense rows are the stream's bytes; a 2:4 row has the two values of a record at the places of each group's nibble, and 0 elsewhere; a
zero-block run copies blocks or gives zero ones. A started special-function command
leaves its core, and its completion is then on its way. A completion that arrives, where traffic crosses from the die, performs its command's
signal; other semaphores keep their counts. -/
def Obligations.EngineCompletes : Prop :=
  (∀ (s : State) (core q seg : Nat) (x : Cmd) (h : EHead), q < 7 → x.failed = false → x.discard = false →
     ((s.coreAt core).queue q).find? (·.started) = some x → (s.coreAt core).cmd q x.id = some x → s.signalFits core x →
     s.frozen x.tt = false →
     let c := s.coreAt core
     (∀ buf, q = 5 → x.word = .wsel h buf → ∃ u, exec (.engineCommandComplete core q seg) s = .next u ∧
       (u.coreAt core).side = buf.toNat ∧ (∀ y ∈ (u.coreAt core).queue q, y.id ≠ x.id) ∧ u.mem.bytes = s.mem.bytes) ∧
     (∀ a d src z w, let m := moveOf a true d src z w
       1 ≤ q → q ≤ 4 → x.word = .cpyf h a → x.regs = [d, src, z, w] → x.progress = 0 → a.dkind = true → m.misaligned = none →
       m.outside 0 (2 ^ 21) = none → 0 < seg → m.total ≤ 4096 * seg →
       ∃ u, exec (.engineCommandComplete core q seg) s = .next u ∧ (∀ y ∈ (u.coreAt core).queue q, y.id ≠ x.id) ∧
         u.mem.bytes = s.mem.bytes ∧
         (∀ r b, r < m.rows → b < m.rowBytes → tget 0 (u.coreAt core).spm
           (((((d.toNat % 2 ^ 21 : Nat) : Int) + r * m.dstride).toNat) + b) = BitVec.ofNat 8 (src.toNat / 256 ^ (b % 8))) ∧
         ∀ k, (∀ r b : Nat, r < m.rows → b < m.rowBytes → ((((d.toNat % 2 ^ 21 : Nat) : Int) + r * m.dstride).toNat + b ≠ k)) →
           tget 0 (u.coreAt core).spm k = tget 0 c.spm k) ∧
     (∀ a d src z w, let m := moveOf a false d src z w
        let place (base : W64) (stride : Int) (r b : Nat) : Nat := (((base.toNat % 2 ^ 21 : Nat) : Int) + r * stride).toNat + b
        let reads := place src m.sstride
        let writes := place d m.dstride
        let moved (r b : Nat) : Prop := r < m.rows ∧ b < m.rowBytes
        1 ≤ q → q ≤ 4 → x.word = .cpy h a → x.regs = [d, src, z, w] → x.progress = 0 → a.skind = true → a.dkind = true →
        m.misaligned = none → m.outside 0 (2 ^ 21) = none → 0 < seg → m.total ≤ 4096 * seg →
        (∀ r b r' b', moved r b → moved r' b' → writes r b = writes r' b' → r = r' ∧ b = b') →
        (∀ r b r' b', moved r b → moved r' b' → reads r b ≠ writes r' b') →
        ∃ u, exec (.engineCommandComplete core q seg) s = .next u ∧ (∀ y ∈ (u.coreAt core).queue q, y.id ≠ x.id) ∧
          u.mem.bytes = s.mem.bytes ∧
          (∀ r b, moved r b → tget 0 (u.coreAt core).spm (writes r b) = tget 0 c.spm (reads r b)) ∧
          ∀ k, (∀ r b, moved r b → writes r b ≠ k) → tget 0 (u.coreAt core).spm k = tget 0 c.spm k) ∧
     (∀ a d src z w, let m := moveOf a false d src z w
        1 ≤ q → q ≤ 4 → x.word = .cpy h a → x.regs = [d, src, z, w] → x.progress = 0 → m.misaligned = none →
        m.outside 0 (2 ^ 21) = none → 0 < seg → m.rows = 1 → m.rowBytes = 64 → q ∉ c.ctlErrors →
        (∀ bs tag s1, a.skind = false → a.dkind = true → s.engRead core x.ctx src 64 = .ok (bs, tag) s1 → bs.length = 64 →
          ∃ u, exec (.engineCommandComplete core q seg) s = .next u ∧ (∀ y ∈ (u.coreAt core).queue q, y.id ≠ x.id) ∧
            u.mem.bytes = s1.mem.bytes ∧ (∀ k, tget 0 (u.coreAt core).spm k =
              if d.toNat % 2 ^ 21 ≤ k ∧ k < d.toNat % 2 ^ 21 + 64 then (bs[k - d.toNat % 2 ^ 21]?).getD 0
              else tget 0 c.spm k) ∧ tget false (u.coreAt core).spmTag (d.toNat % 2 ^ 21 / 64) = tag) ∧
        (∀ p s1, a.skind = true → a.dkind = false → s.walkHeld (dieOfCore core) (some core) x.ctx d 64 = false →
          s.access (some core) x.ctx d 64 .write s.fresh = .ok [p] s1 → p.off = 0 → p.len = 64 →
          s1.homesFree (dieOfCore core) [p] = true → s1.mem.bounces p.pa = false → s1.mem.discards p.pa = false →
          ∃ u, exec (.engineCommandComplete core q seg) s = .next u ∧ (∀ y ∈ (u.coreAt core).queue q, y.id ≠ x.id) ∧
            ∀ b, u.mem.byteAt b = if p.pa ≤ b ∧ b < p.pa + 64 then tget 0 c.spm (src.toNat % 2 ^ 21 + (b - p.pa))
              else s1.mem.byteAt b)) ∧
     (∀ a d src z w p s1, let m := moveOf a true d src z w
        1 ≤ q → q ≤ 4 → x.word = .cpyf h a → x.regs = [d, src, z, w] → x.progress = 0 → m.misaligned = none → 0 < seg →
        m.rows = 1 → m.rowBytes = 64 → q ∉ c.ctlErrors → a.dkind = false →
        s.walkHeld (dieOfCore core) (some core) x.ctx d 64 = false →
        s.access (some core) x.ctx d 64 .write s.fresh = .ok [p] s1 → p.off = 0 → p.len = 64 →
        s1.homesFree (dieOfCore core) [p] = true → s1.mem.bounces p.pa = false → s1.mem.discards p.pa = false →
        ∃ u, exec (.engineCommandComplete core q seg) s = .next u ∧ (∀ y ∈ (u.coreAt core).queue q, y.id ≠ x.id) ∧
          ∀ b, u.mem.byteAt b = if p.pa ≤ b ∧ b < p.pa + 64 then BitVec.ofNat 8 (src.toNat / 256 ^ ((b - p.pa) % 8))
            else s1.mem.byteAt b) ∧
     (∀ a d src z w t b y r s1, let m := moveOf a false d src z w
        let n := a.decl.toNat
        let key := y.key t.g1 t.g2 t.g3
        let s' := s.modCore core (·.modCmd q x.id fun z => { z with progress := m.total + 64 })
        let done (u : State) : Prop := exec (.engineCommandComplete core q seg) s = .next u ∧
          ∀ z ∈ (u.coreAt core).queue q, z.id ≠ x.id
        1 ≤ q → q ≤ 4 → x.word = .cpyt h a → x.regs = [d, src, z, w] → m.total ≤ x.progress → 0 < seg →
        s.ttAt x.tt = some t → s.blockAt t.block = some b → b.lb.decls[n]? = some y →
        (s.hasPublished t.block t.idx n = true → ∃ u, done u ∧ u.work = s.work ∧ u.mem.bytes = s.mem.bytes) ∧
        (s.hasPublished t.block t.idx n = false → s.reaches (dieOfCore core) cd = true → q ∉ c.ctlErrors →
          s'.engRead core x.ctx y.desc 32 = .ok r s1 → (s1.work.buf t.ctx y.buffer).fresh = false →
          (s1.work.buf t.ctx y.buffer).live = BitVec.ofNat 8 y.gen → (s1.work.buf t.ctx y.buffer).coarse = false →
          s1.work.entry t.ctx y.buffer key = none → s1.work.trtFree ≠ 0 → s1.blockAt t.block = some b →
          ∃ u e, done u ∧ u.work.entry t.ctx y.buffer key = some e ∧ e.published = true ∧
            (u.work.buf t.ctx y.buffer).count = satSucc (s1.work.buf t.ctx y.buffer).count ∧
            u.hasPublished t.block t.idx n = true ∧ u.mem.bytes = s1.mem.bytes)) ∧
     (∀ a ptr s1 rows, q = 5 → x.word = .wstrm h a → x.regs = [ptr] → 5 ∉ c.ctlErrors → c.side ≤ 1 →
        s.decodeStream ⟨core, x.ctx, ptr⟩ a = ⟨s1, rows, none, none⟩ → rows.length = 64 * (a.count1.toNat + 1) →
        (∀ r ∈ rows, r.1.length = 128) →
        let base := 16 * (1 - c.side) + a.t0.toNat
        ∃ u, exec (.engineCommandComplete core q seg) s = .next u ∧ (∀ y ∈ (u.coreAt core).queue q, y.id ≠ x.id) ∧
          u.mem.bytes = s1.mem.bytes ∧
          (∀ k i r, rows[k]? = some r → i < 128 →
            tget 0 (u.coreAt core).wb (8192 * base + 128 * k + i) = (r.1[i]?).getD 0 ∧
            tget false (u.coreAt core).wbTag (64 * base + k) = r.2) ∧
          (∀ k, k < 8192 * base ∨ 8192 * base + 128 * rows.length ≤ k → tget 0 (u.coreAt core).wb k = tget 0 c.wb k) ∧
          ∀ k, k < 64 * base ∨ 64 * base + rows.length ≤ k → tget false (u.coreAt core).wbTag k = tget false c.wbTag k) ∧
     (q = 6 → ∃ u, exec (.engineCommandComplete core q seg) s = .next u ∧ (u.coreAt core).arriving = c.arriving ++ [x] ∧
       ∀ y ∈ (u.coreAt core).queue 6, y.id ≠ x.id)) ∧
  (∀ (s : State) (core : Nat) (x : Cmd) (rest : List Cmd) (t : TileTask) (i k : Nat), (s.coreAt core).arriving = x :: rest →
     x.discard = false → s.ttAt x.tt = some t → t.saving = false → t.core = core → x.sig = some (i, k) →
     ((s.coreAt core).sem i).poisoned = false → ((s.coreAt core).sem i).count + k ≤ 65535 →
     (s.reaches sfd (dieOfCore core) = false → exec (.sfjCompletion core) s = .next s) ∧
     (s.reaches sfd (dieOfCore core) = true → ∃ u, exec (.sfjCompletion core) s = .next u ∧ (u.coreAt core).arriving = rest ∧
       (∀ j, ((u.coreAt core).sem j).count = ((s.coreAt core).sem j).count + if j = i then k else 0) ∧
       u.mem = s.mem ∧ u.strands = s.strands)) ∧
  (∀ (s s1 s2 : State) (core ctx n k : Nat) (m : Move) (bs : List Byte) (tag : Bool), s.segRead core ctx m k = .ok (bs, tag) s1 →
     s1.segWrite core ctx m k bs tag = .ok () s2 → s.moveSegs core ctx m (n + 1) k = s2.moveSegs core ctx m n (k + 1)) ∧
  (∀ (s s1 s2 : State) (src : Source) (n k w off : Nat) (rs : List WRow) (bl : List (List Byte × Bool)) (x y : List Byte × Bool)
     (z t : Bool),
     s.denseRows src 0 k rs = ⟨s, rs, none, none⟩ ∧
     (s.stream src (128 * k) 128 = .ok x s1 → s.denseRows src (n + 1) k rs = s1.denseRows src n (k + 1) (rs ++ [x])) ∧
     s.sparseRows src w 0 k rs = ⟨s, rs, none, none⟩ ∧
     (s.stream src ((64 + 128 / w) * k) (64 + 128 / w) = .ok x s1 →
       (∀ row, sparseRow w x.1 = some row → s.sparseRows src w (n + 1) k rs = s1.sparseRows src w n (k + 1) (rs ++ [(row, x.2)])) ∧
       (sparseRow w x.1 = none → s.sparseRows src w (n + 1) k rs =
         ⟨s1, rs, some (.weightFormat, Rec.addr (src.ptr + BitVec.ofNat 64 ((64 + 128 / w) * k))), none⟩)) ∧
     s.zrunBlocks src 0 k z t off bl = ⟨s, pairRows bl, none, none⟩ ∧
     (s.stream src off 2 = .ok x s1 →
       let v := leNat x.1
       let blocks := v % 32768 + 1
       (n + 1 < blocks → s.zrunBlocks src (n + 1) 0 z t off bl =
         ⟨s1, pairRows bl, some (.weightFormat, Rec.addr (src.ptr + BitVec.ofNat 64 off)), none⟩) ∧
       (blocks ≤ n + 1 → 32768 ≤ v → s.zrunBlocks src (n + 1) 0 z t off bl =
         s1.zrunBlocks src n (blocks - 1) true x.2 (off + 2) (bl ++ [(List.replicate 64 0, x.2)])) ∧
       (blocks ≤ n + 1 → v < 32768 → s1.stream src (off + 2) 64 = .ok y s2 → s.zrunBlocks src (n + 1) 0 z t off bl =
         s2.zrunBlocks src n (blocks - 1) false x.2 (off + 66) (bl ++ [(y.1, y.2 || x.2)]))) ∧
     (k ≤ n → s.zrunBlocks src (n + 1) (k + 1) true t off bl =
       s.zrunBlocks src n k true t off (bl ++ [(List.replicate 64 0, t)])) ∧
     (k ≤ n → s.stream src off 64 = .ok y s1 → s.zrunBlocks src (n + 1) (k + 1) false t off bl =
       s1.zrunBlocks src n k false t (off + 64) (bl ++ [(y.1, y.2 || t)]))) ∧
  (∀ (a b : List Byte × Bool) (rest : List (List Byte × Bool)),
     pairRows (a :: b :: rest) = (a.1 ++ b.1, a.2 || b.2) :: pairRows rest) ∧
  (∀ (w : Nat) (bs row : List Byte), w = 4 ∨ w = 8 ∨ w = 16 → bs.length = 64 + 128 / w → sparseRow w bs = some row →
     row.length = 128 ∧
     let val (i : Nat) : Nat := leNat (bs.take 64) / 2 ^ (w * i) % 2 ^ w
     let out (i : Nat) : Nat := leNat row / 2 ^ (w * i) % 2 ^ w
     ∀ g, g < 256 / w →
       let nib := leNat (bs.drop 64) / 16 ^ g % 16
       nib % 4 < nib / 4 ∧ out (4 * g + nib % 4) = val (2 * g) ∧ out (4 * g + nib / 4) = val (2 * g + 1) ∧
         ∀ p, p < 4 → p ≠ nib % 4 → p ≠ nib / 4 → out (4 * g + p) = 0) ∧
  (∀ (s : State) (src : Source) (x : WstArgs), let tiles := x.count1.toNat + 1
     s.decodeStream src x = if x.fmt.toNat = 0 then s.denseRows src (64 * tiles) 0 []
       else if x.fmt.toNat = 1 then s.sparseRows src (4 * 2 ^ x.width.toNat) (64 * tiles) 0 []
       else s.zrunBlocks src (128 * tiles) 0 false false 0 [])

/-- R259: a CHAIN that has walked to a record in its window performs it: LOOP goes back with the offsets advanced until its count is
reached, COND compares a word of the scratchpad and branches, SIGNAL waits for its count, which it subtracts, and signals, and END completes
the command; no byte of memory
changes. A SIGNAL is performed only once the walk has reached it, and so once the bytes of every COPY before it have been moved. COPY moves the bytes up to the end of the command's 4 KiB segment, and passes on once the record's bytes have all been moved; one
between scratchpad places, or a fill of one, never faults or waits, and a fill leaves its value in every eight bytes. -/
def Obligations.Chains : Prop :=
  ∀ (s : State) (core q : Nat) (x : Cmd) (y : Chain), q < 4 →
    ((s.coreAt core).queue (1 + q)).find? (fun z => z.started && !z.failed) = some x → x.chain = some y → x.discard = false →
    s.frozen x.tt = false → y.count < Config.chainLimit → x.spmBase ≤ y.at_.toNat →
    y.at_.toNat + 64 ≤ x.spmBase + x.spmLen →
    let c := s.coreAt core
    let rec_ := y.copying.getD (c.spmRead y.at_.toNat 64).1
    let goesTo (i : Instr) (y' : Chain) : Prop := ∃ u, exec i s = .next u ∧
      (∃ x', ((u.coreAt core).queue (1 + q)).find? (fun z => z.started && !z.failed) = some x' ∧ x'.chain = some y') ∧
      u.mem.bytes = s.mem.bytes ∧ (∀ m, m ≠ core → u.coreAt m = s.coreAt m)
    let next (y : Chain) (off : Int) : Chain := { y with at_ := y.at_ + BitVec.ofInt 64 off, count := y.count + 1, copying := none, moved := 0 }
    (∀ n sa da off, chainRec rec_ = some (.loop n sa da off) →
      (y.i + 1 < n → goesTo (.chainLoop core q) { next y off with i := y.i + 1, os := y.os + sa, od := y.od + da }) ∧
      (n ≤ y.i + 1 → goesTo (.chainLoop core q) { next y 64 with i := 0, os := 0, od := 0 })) ∧
    (∀ op v a off, chainRec rec_ = some (.cond op v a off) → x.spmBase ≤ a → a + 4 ≤ x.spmBase + x.spmLen →
      let w := leNat (c.spmRead a 4).1
      goesTo (.chainCond core q) (next y (if (op = 0 ∧ w = v) ∨ (op = 1 ∧ w ≠ v) ∨ (op = 2 ∧ w < v) ∨ (2 < op ∧ v ≤ w) then off else 64))) ∧
    (∀ ws wt ss si, chainRec rec_ = some (.signal ws wt ss si) → (wt = 0 ∨ ws < x.semLen) → (si = 0 ∨ ss < x.semLen) →
      let i := semNum x.semBase ws
      let j := semNum x.semBase ss
      let left (k : Nat) : Nat := (c.sem k).count - if k = i then wt else 0
      let line := tget [] c.sync.waiters i
      ((wt = 0 ∨ (c.sem i).poisoned = false ∧ wt ≤ (c.sem i).count ∧ (line = [] ∨ ∃ k r, line = (.engine (1 + q), k) :: r)) →
        (si = 0 ∨ (c.sem j).poisoned = false ∧ left j + si ≤ 65535) →
        goesTo (.chainSignal core q) (next y 64) ∧ ∃ u, exec (.chainSignal core q) s = .next u ∧
          ∀ k, ((u.coreAt core).sem k).count = left k + if k = j then si else 0) ∧
      (0 < wt → (c.sem i).poisoned = false →
        ((c.sem i).count < wt ∨ ∃ e r, line = e :: r ∧ e.1 ≠ .engine (1 + q)) →
        ∃ u, exec (.chainSignal core q) s = .next u ∧ u.mem = s.mem ∧ u.strands = s.strands ∧
          (∀ m, m ≠ core → u.coreAt m = s.coreAt m) ∧ (∀ k, (u.coreAt core).queue k = c.queue k) ∧
          (∀ k, (u.coreAt core).sem k = c.sem k) ∧ ∃ e ∈ tget [] (u.coreAt core).sync.waiters i, e.1 = .engine (1 + q))) ∧
    (∀ m0, chainRec rec_ = some (.copy m0) → exec (.chainSignal core q) s = .next s) ∧
    (∀ m0, chainRec rec_ = some (.copy m0) →
      let m := m0.shifted y
      let left := min (m.total - y.moved) (4096 - x.progress % 4096)
      let r := s.moveSegs core x.ctx m (left / 64) (y.moved / 64)
      let x' : Cmd := { x with
        progress := x.progress + (r.next * 64 - y.moved)
        chain := some (if m.total ≤ r.next * 64 then next y 64 else { y with moved := r.next * 64, copying := some rec_ }) }
      (y.copying = none → m.misaligned = none ∧ m.outside x.spmBase x.spmLen = none) →
      (m.global = false ∨ (1 + q) ∉ c.ctlErrors) → r.fault = none → r.waits = false →
      ∃ u, exec (.chainCopy core q) s = .next u ∧ u.mem.bytes = r.s.mem.bytes ∧ u.strands = r.s.strands ∧
        (u.coreAt core).spm = (r.s.coreAt core).spm ∧
        (u.coreAt core).queue (1 + q) = ((r.s.coreAt core).queue (1 + q)).map fun z => if z.id = x.id then x' else z) ∧
    (∀ (m : Move) (n k : Nat), m.global = false →
      let r := s.moveSegs core x.ctx m n k
      r.fault = none ∧ r.waits = false ∧ r.next = k + n ∧ r.s.mem = s.mem ∧ r.s.strands = s.strands ∧
        (r.s.coreAt core).queue (1 + q) = c.queue (1 + q) ∧
        (m.fill = true → m.misaligned = none → ∀ i j, k ≤ i → i < k + n → j < 64 →
          tget 0 (r.s.coreAt core).spm ((m.at_ m.dst m.dstride i).toNat % 2 ^ 21 + j) =
            BitVec.ofNat 8 (m.src.toNat / 256 ^ (j % 8)))) ∧
    (chainRec rec_ = some .done → s.signalFits core x → ∃ u, exec (.chainEnd core q) s = .next u ∧
      (∀ z ∈ (u.coreAt core).queue (1 + q), z.id ≠ x.id) ∧ u.mem.bytes = s.mem.bytes)

/-! Conductor words and control blocks (R157, R264-R268). -/

/-- R157, R265-R268, R34, R267: a PUSH into a stream with room appends its control block; QFENCE issues once nothing that this overlay
pushed to the named queues is left; OVERLAY stops its core; a swapping core is free, and its task's overlay has ended, once every queue that
the trailer names has drained. LAUNCH of a well-formed launch block puts it in the pool, for the overlay's task, under the next number.
(That it waits while the pool is full is log entry 19.) A misaligned address traps. -/
def Obligations.ConductorWords : Prop :=
  (∀ (s : State) (k : Nat), s.conducts k →
     (∀ (d : BitVec 4) (q : BitVec 2) (cb : BitVec 16) (g t : Nat) (c : Ctl), (s.condAt k).task = some (g, t) →
       let i := streamNum d.toNat k q.toNat
       let b := s.recordBytes (64 * cb.toNat) 64
       (Config.streamDepth ≤ (s.streamAt i).items.length → exec (.push d q cb) s = .next { s with verdict := .waits none }) ∧
       ((s.streamAt i).items.length < Config.streamDepth →
         ctlOf b g t s.myCtx (s.condAt k).run (decide (d.toNat = 8)) = some c →
         c.waitSem = recF b 4 1 ∧ c.waitThr = recF b 5 1 ∧ c.sigSem = recF b 6 1 ∧ c.sigInc = recF b 7 1 ∧
         c.queued = false ∧ c.kind = (if d.toNat = 8 then 2 else 1) ∧
         ∃ u, exec (.push d q cb) s = .next u ∧ u.verdict = .issued none ∧
           (u.streamAt i).items = (s.streamAt i).items ++ [c] ∧ (∀ j, j ≠ i → u.streamAt j = s.streamAt j) ∧
           u.work.cond = s.work.cond ∧ u.cores = s.cores ∧ u.mem = s.mem)) ∧
     (∀ (d : BitVec 4) (m : BitVec 4),
       ((∀ q, q < 4 → m.getLsbD q = true → ∀ c ∈ (s.streamAt (streamNum d.toNat k q)).items, c.run ≠ (s.condAt k).run) →
         exec (.qfence d m) s = .next s.issued) ∧
       (∀ q, q < 4 → m.getLsbD q = true → (∃ c ∈ (s.streamAt (streamNum d.toNat k q)).items, c.run = (s.condAt k).run) →
         exec (.qfence d m) s = .next { s with verdict := .waits none })) ∧
     exec .overlay s = .next ((s.setCond k { s.condAt k with swapping := true }).issued) ∧
     (∀ j g t x, (s.condAt j).task = some (g, t) → (s.condAt j).swapping = true → s.taskAt g t = some x →
       (∀ b, b < 36 → (s.condAt j).trailer.getLsbD b = true → ∀ c ∈ (s.streamAt (streamNum (b / 4) j (b % 4))).items,
         c.run ≠ (s.condAt j).run) →
       ∃ u, exec (.overlaySwap j) s = .next u ∧ u.taskAt g t = some { x with overlayDone := true } ∧
         u.condAt j = { Conductor.init with run := (s.condAt j).run + 1 } ∧ (∀ m, m ≠ j → u.condAt m = s.condAt m) ∧
         (∀ g' t', (g', t') ≠ (g, t) → u.taskAt g' t' = s.taskAt g' t') ∧ u.cores = s.cores ∧ u.mem = s.mem)) ∧
  (∀ (s : State) (k : Nat) (a : GReg) (g t : Nat) (l : LbRec), s.conducts k → (s.condAt k).task = some (g, t) →
     let off := s.g a
     (off.toNat % 256 ≠ 0 → exec (.launch a) s = .next { s with verdict := .trapped .alignment (Rec.addr off) }) ∧
     (off.toNat % 256 = 0 → off.toNat + 256 ≤ 2 ^ 22 →
       s.work.generalUsed < Config.poolGeneral →
       lbOf (s.recordBytes off.toNat 256) (s.ctxRights s.myCtx).1 (s.ctxRights s.myCtx).2 false = some l →
       (l.timetabled = true → l.release < s.time.framelen) →
       ∃ u b, exec (.launch a) s = .next u ∧ u.verdict = .issued none ∧ u.blockAt s.work.nextBlock = some b ∧
         u.work.poolBlocks = s.work.poolBlocks ++ [s.work.nextBlock] ∧ u.work.nextBlock = s.work.nextBlock + 1 ∧
         b.lb = l ∧ b.ctx = s.myCtx ∧ b.graph = g ∧ b.task = t ∧ b.addr = off ∧ b.waiting = true ∧
         (l.deadline ≠ 0 → b.deadline = l.deadline.toNat) ∧ (∀ m, m ≠ s.work.nextBlock → u.blockAt m = s.blockAt m) ∧
         u.cores = s.cores ∧ u.mem = s.mem))

/-- R151, R266, R273: the first control block of a stream that is not yet in the die queue goes there once its wait clause is served, and the
count is subtracted; one that stands at the head of its stream at the die and names a launch block has it read first, and a timetabled
block then joins its frame, unless its unit is parked (R75). A control block whose launch block has ended leaves the stream and, for the
overlay run that pushed it, performs its signal; a job of the special-function die is performed first, when its engine comes to it: that it
reads its inputs and writes its outputs in that one step, at CONTROL_BLOCK_COMPLETE, where R262 has it read them when it starts, is the
model's choice (log entry 60, DEDUCED). Traffic of the conductor core crosses to the die. -/
def Obligations.ControlBlocks : Prop :=
  ∀ (s : State) (k d q n : Nat) (c : Ctl), k < 16 → d < 9 → q < 4 → s.condReaches k d = true →
    let i := streamNum d k q
    let items := (s.streamAt i).items
    let same (m m' : MemState) : Prop := { m' with frameWaits := m.frameWaits } = m
    items[n]? = some c →
    (c.queued = false → (∀ j y, j < n → items[j]? = some y → y.queued = true) →
      ∀ y m, s.dieHead i = some (y, m) → (y.queued = true → y.kind = 1 → y.block.isSome = true) →
        (c.waitThr = 0 ∨ (s.condAt k).sync.ready c.waitSem c.waitThr (.engine i) = true) →
        ∃ u, exec (.controlBlockHead k d q) s = .next u ∧ (u.streamAt i).items = items.set n { c with queued := true } ∧
          (∀ m, ((u.condAt k).sync.sem m).count = ((s.condAt k).sync.sem m).count - if m = c.waitSem then c.waitThr else 0) ∧
          u.work.blocks = s.work.blocks ∧ u.mem = s.mem) ∧
    (∀ l, s.dieHead i = some (c, n) → c.queued = true → c.kind = 1 → c.block = none →
        lbOf (s.recordBytes c.target.toNat 256) (s.ctxRights c.ctx).1 (s.ctxRights c.ctx).2 true = some l →
        (l.timetabled = true → l.release < s.time.framelen) → ∃ u b, exec (.controlBlockHead k d q) s = .next u ∧
          u.blockAt s.work.nextBlock = some b ∧ b.lb = l ∧ b.via = .queue i ∧ b.ctx = c.ctx ∧ b.graph = c.graph ∧
          b.task = c.task ∧ b.frame = (if l.timetabled = true ∧ s.unitParked c.ctx c.graph c.task = false
            then some (s.frameFor l.release (s.pt d)) else none) ∧
          (u.streamAt i).items = items.set n { c with block := some s.work.nextBlock } ∧
          (∀ j, j ≠ i → u.streamAt j = s.streamAt j) ∧ u.mem = s.mem) ∧
    (c.queued = true → (∀ j y, j < n → items[j]? = some y → s.ctlReady y = false) →
      (s.condAt k).run = c.run → (s.condAt k).task = some (c.graph, c.task) →
      ((s.condAt k).sync.sem c.sigSem).poisoned = false → ((s.condAt k).sync.sem c.sigSem).count + c.sigInc ≤ 65535 →
      let signals (u : State) : Prop := ∀ m, ((u.condAt k).sync.sem m).count =
        ((s.condAt k).sync.sem m).count + if m = c.sigSem then c.sigInc else 0
      (∀ b, c.kind = 1 → c.block = some b → s.blockAt b = none → ∃ u, exec (.controlBlockComplete k d q) s = .next u ∧
        (u.streamAt i).items = items.eraseIdx n ∧ signals u ∧ same s.mem u.mem) ∧
      (∀ s', c.kind = 2 → s.jobRuns c = true → s.runJob c.ctx c.subop c.target = (s', .done) → s'.work = s.work →
        ∃ u, exec (.controlBlockComplete k d q) s = .next u ∧ (u.streamAt i).items = items.eraseIdx n ∧ signals u ∧
          same s'.mem u.mem))

/-! Scheduling (R31-R46, R53, R269-R278, R295, R343). -/

/-- R343, R31, R33, R267, R269: a SUBMIT of a resident context that its fields allow enters the queue of 64 or is counted dropped; any other
is counted rejected. The counts saturate. A graph whose header and task records are well formed is in flight from its acceptance, by a
submission or by LAUNCH.graph: it takes the next sequence number, its tasks await their predecessors, and those without one are ready. That
`submitReg`, which reads of SUBMIT give, holds the value of the last SUBMIT that entered the queue is the model's choice (log entry 103,
DESIGN CHOICE). -/
def Obligations.GraphsEnter : Prop :=
  (∀ (s : State) (v : W64),
     let ctx := s.ctxAt (v.toNat % 64)
     let good : Prop := s.host.recovery = false ∧ v.toNat / 2 ^ 57 = 0 ∧
       ∃ c, ctx = some c ∧ c.killing = false ∧ (v.getLsbD 56 = true → c.privileged = true)
     (good → s.host.submits.length < 64 →
       exec (.submit v) s = .next { s with host := { s.host with submits := s.host.submits ++ [v], submitReg := v } }) ∧
     (good → 64 ≤ s.host.submits.length →
       exec (.submit v) s = .next { s with host := { s.host with dropped := min 65535 (s.host.dropped + 1) } }) ∧
     (¬ good →
       exec (.submit v) s = .next { s with host := { s.host with rejected := min 65535 (s.host.rejected + 1) } })) ∧
  (∀ (s s' s3 : State) (ctx : Nat) (header : W64) (ts : List TaskRec) (y : Graph), Accepts s' s3 ctx header ts y →
     let accepted (u : State) : Prop := u.work.graphSeq = s3.work.graphSeq ∧ u.mem = s3.mem ∧
       (∃ z, u.graphAt (s'.work.graphSeq + 1) = some z ∧ z.ctx = y.ctx ∧ z.header = y.header ∧ z.submitted = y.submitted ∧
         z.policy = y.policy ∧ z.doneAddr = y.doneAddr ∧ z.tasks.length = ts.length) ∧
       ∀ i r, ts[i]? = some r → ∃ x, u.taskAt (s'.work.graphSeq + 1) i = some x ∧ x.info = r ∧ x.left = r.preds ∧
         x.st = (if r.preds = 0 then .ready else .waiting)
     (∀ v rest c, s.host.submits = v :: rest → s.host.writes = [] → s.inFlight < 1024 → (∀ x ∈ s.work.launched, x.2 ≠ 0) →
       ctx = v.toNat % 64 → header = BitVec.ofNat 64 (v.toNat / 64 % 2 ^ 50 * 64 + v.toNat / 2 ^ 56 % 2 * 2 ^ 63) →
       s.ctxAt ctx = some c → c.killing = false →
       s' = (let w := s.work.launched.map fun x => (x.1, x.2 - 1)
             { s with host := { s.host with submits := rest }, work := { s.work with launched := w } }) →
       ∃ u, exec .graphAccept s = .next u ∧ accepted u) ∧
     (∀ k a, s.conducts k → s.inFlight < 1024 → s.work.launched = [] → s.host.submits = [] → ctx = s.myCtx → header = s.g a →
       s' = s.issued → ∃ u, exec (.launchGraph a) s = .next u ∧ u.verdict = .issued none ∧ accepted u))

/-- R264, R271: with no grade in force, the earliest task of the ready list that may be admitted starts on the free conductor core of the
lowest number, at the first entry of its table that the headroom covers: its overlay begins with its registers preloaded, and the headroom
falls by its estimate. A task admitted before keeps its format; the one shown has not been. -/
def Obligations.Admission : Prop :=
  ∀ (s : State) (k g t e : Nat) (rest : List (Nat × Nat)) (y : Graph) (x : Task) (m : W64), s.energy.started = true →
    k < 16 → (s.condAt k).task = none → (∀ j, j < k → (s.condAt j).task ≠ none) → s.work.readyList = (g, t) :: rest →
    s.graphAt g = some y → s.taskAt g t = some x → x.begun = false → (∀ c, s.ctxAt y.ctx = some c → c.parked = false) → s.energy.grade = 0 →
    e < x.info.ops.length → (x.info.cls = 0 → e ≤ x.info.floor) → (s.est g t e : Int) ≤ s.energy.headroom →
    (∀ j, j < e → s.energy.headroom < (s.est g t j : Int)) →
    trailerOf (s.overlayBytes (x.info.ovOff + x.info.ovLen - 64) 64) = some m →
    ∃ u, exec .admitStep s = .next u ∧ u.taskAt g t = some { x with st := .running, entry := e, begun := true } ∧
      u.energy = { s.energy with headroom := s.energy.headroom - s.est g t e } ∧ (g, t) ∉ u.work.readyList ∧
      (u.condAt k).task = some (g, t) ∧ (u.condAt k).pc = BitVec.ofNat 64 x.info.ovOff ∧ (u.condAt k).trailer = m ∧
      (∀ r, tget 0 (u.condAt k).g r = if r = 1 then BitVec.ofNat 64 t else if r = 2 then y.header
        else if r = 3 then BitVec.ofNat 64 e else if r = 4 then y.submitted + x.info.deadline else 0) ∧
      (∀ j, j ≠ k → u.condAt j = s.condAt j) ∧ u.cores = s.cores ∧ u.mem = s.mem

/-- R32, R272, R269, R45, R298: a running task whose overlay and launch blocks have ended is done; each successor's count falls by one, and
a successor whose count reaches 0 is ready; no other task changes. A completion after the deadline is logged. A graph whose tasks are all
done, or that ended before and could not write, leaves; its end word, the PT of its end with bit 63 set if it ended abnormally, goes to
done_addr unless that is 0, and waits until its tile tasks have drained and the homes can be written. A tile task whose strands have ended and owe nothing,
and whose engine commands have completed, ends: its strands and its ownership of the MXE state go, its reservation is released, and, where
it did not fail and names no successor, its iteration counts as ended; while others of its block are left, the block stays. -/
def Obligations.Completion : Prop :=
  (∀ (s : State) (g t : Nat) (x : Task), s.taskAt g t = some x → x.st = .running → x.overlayDone = true →
     s.taskBusy g t = false →
     ∃ u, exec (.taskComplete g t) s = .next u ∧ u.taskAt g t = some { x with st := .done, parked := false } ∧
       (∀ j y, j ≠ t → s.taskAt g j = some y → x.info.succs.Nodup →
         (j ∉ x.info.succs → u.taskAt g j = some y) ∧
         (j ∈ x.info.succs → y.st = .waiting → 2 ≤ y.left → u.taskAt g j = some { y with left := y.left - 1 }) ∧
         (j ∈ x.info.succs → y.st = .waiting → y.left = 1 → y.info.bad = false →
           u.taskAt g j = some { y with left := 0, st := .ready })) ∧
       u.time.log = s.time.log ++ (if s.taskDeadline g t < s.pt 9 then [.missTask g t (s.pt 9 - s.taskDeadline g t)] else []) ∧
       u.cores = s.cores ∧ u.mem = s.mem) ∧
  (∀ (s : State) (g : Nat) (y : Graph) (abnormal : Bool) (pt : Nat), s.graphAt g = some y →
     (y.ended = some (abnormal, pt) ∨ abnormal = false ∧ pt = s.pt 9 ∧ y.ended = none ∧ y.tasks ≠ [] ∧ ∀ t ∈ y.tasks, t.st = .done) →
     (y.doneAddr = 0 → ∃ u, exec (.graphComplete g) s = .next u ∧ u.graphAt g = none ∧
       (∀ h, h ≠ g → u.graphAt h = s.graphAt h) ∧ u.mem = s.mem) ∧
     (y.doneAddr ≠ 0 → (s.graphDrains g = true ∨ s.cdHeld y.ctx y.doneAddr 8 .write = true) →
       ∃ u, exec (.graphComplete g) s = .next u ∧ u.graphAt g = some { y with ended := some (abnormal, pt) } ∧
         (∀ h, h ≠ g → u.graphAt h = s.graphAt h) ∧ u.mem = s.mem) ∧
     (∀ ps s1, y.doneAddr ≠ 0 → s.graphDrains g = false → s.cdHeld y.ctx y.doneAddr 8 .write = false →
       s.access none y.ctx y.doneAddr 8 .write false = .ok ps s1 →
       (∀ p ∈ ps, s1.mem.bounces p.pa = false) → ∃ u, exec (.graphComplete g) s = .next u ∧ u.graphAt g = none ∧
         u.mem.bytes = (s1.writeParts y.ctx (leBytes 8 (pt + if abnormal then 2 ^ 63 else 0)) false ps).mem.bytes)) ∧
  (∀ (s : State) (tt : Nat) (t : TileTask) (c : Ctx) (b : Block), s.ttAt tt = some t → s.ttOver tt t = true →
     t.failing = false → s.ctxAt t.ctx = some c → c.killing = false → s.blockAt t.block = some b → b.done + 1 < b.lb.total →
     (∀ n ∈ t.strands, ∀ st, s.strandAt n = some st → st.successors = []) →
     ∃ u, exec (.tileTaskEnd tt) s = .next u ∧ u.ttAt tt = none ∧ (∀ n ∈ t.strands, u.strandAt n = none) ∧
       (u.coreAt t.core).mxeOwner ≠ some tt ∧ u.ctxAt t.ctx = some { c with heapUsed := c.heapUsed - t.reserved } ∧
       u.blockAt t.block = some { b with done := b.done + 1 } ∧ (∀ n, n ∉ t.strands → u.strandAt n = s.strandAt n) ∧
       u.mem = s.mem)

/-- R275, R38, R39, R43, R276, R298: a die with a free slot and nothing returned or timetabled opens, of all that may be opened there, what
ranks first; a launch block of the pool takes the slot. On the special-function die the job that ranks first is handed to the engine. The
block that stands first in a die's order, with no iteration returned, no input declaration and the save heap granting its reservation, has
the iteration at its cursor dispatched on the next core that fits: a new tile task, a strand of each role at its entry with g1 to g7
preloaded and the spill memory of its partition, and the cursor moved on. -/
def Obligations.Dispatch : Prop :=
  (∀ (s : State) (die : Nat) (o : Offer),
     let s1 := s.trimSlots die
     (die < 8 → s1.coresOf die ≠ [] → (s1.dispAt die).slots.length < (s1.dispAt die).room → (s1.dispAt die).returned = [] →
       s1.timetabledOffer die = none → o ∈ s1.placedOffers die ++ s1.queueOffers die → o.stream = none →
       (∀ p ∈ s1.placedOffers die ++ s1.queueOffers die, p = o ∨ keyLt o.rank p.rank = true) →
       ∃ u, exec (.dieSlotFill die) s = .next u ∧ (u.dispAt die).slots = (s1.dispAt die).slots ++ [o.block] ∧
         (∀ d, d ≠ die → u.dispAt d = s1.dispAt d) ∧
         (∀ b, u.blockAt b = (s1.blockAt b).map fun x =>
           if b = o.block then { x with untaken := x.untaken.filter (· ≠ die) } else x) ∧ u.cores = s.cores ∧ u.mem = s.mem) ∧
     (∀ i n c, tget false s.energy.gated 8 = false → o ∈ s.queueOffers 8 → o.stream = some (i, n) →
       (∀ p ∈ s.queueOffers 8, p = o ∨ keyLt o.rank p.rank = true) → (s.streamAt i).items[n]? = some c →
       ∃ u, exec (.dieSlotFill 8) s = .next u ∧ u.work.jobNext = s.work.jobNext + 1 ∧
         (u.streamAt i).items[n]? = some { c with started := true, order := s.work.jobNext } ∧ (∀ j, j ≠ i → u.streamAt j = s.streamAt j) ∧ u.cores = s.cores ∧ u.mem = s.mem)) ∧
  (∀ (s : State) (die b core unit semBase : Nat) (bs parts : List Nat) (x : Block) (c : Ctx) (r : Nat × Nat), die < 8 →
     let s1 := s.trimSlots die
     let l := x.lb
     s1.openOrder die = b :: bs → s1.blockAt b = some x → s1.selectable b x = true → s1.ctxAt x.ctx = some c →
     c.heapUsed + l.saveSize ≤ c.heapSize → (s1.heapPlace x.ctx l.saveSize s1.work.nextTt).isSome → s1.mayDispatch x = true →
     (∀ h ∈ x.ready, h.2 ≠ die) → tget (0, 0) x.ranges die = r → r.1 < r.2 →
     (∀ d ∈ l.decls, d.output = true) → s1.nextFit die b l = some (core, parts, unit, semBase) →
     let n := s1.work.nextTt
     ∃ u t y, exec (.iterationSelect die) s = .next u ∧ u.ttAt n = some t ∧ t.block = b ∧ t.idx = r.1 ∧ t.ctx = x.ctx ∧
       t.core = core ∧ t.strands = parts.map (8 * core + ·) ∧ t.semBase = semBase ∧ t.semLen = l.semWin ∧
       t.spmBase = 4096 * unit ∧ t.spmUnits = l.spmUnits ∧
       (∀ p role, (p, role) ∈ parts.zip (rolesOf l.roles) → ∃ st, u.strandAt (8 * core + p) = some st ∧ st.role = role ∧
         st.tt = n ∧ st.ended = false ∧ st.spill = tget [] (s1.coreAt core).spills p ∧ st.pc = l.codeBase + BitVec.ofNat 64 (l.entry role) ∧
         (∀ k, tget 0 st.g k = if k = 1 then l.coord 1 r.1 else if k = 2 then l.coord 2 r.1 else if k = 3 then l.coord 3 r.1
           else if k = 4 then BitVec.ofNat 64 r.1 else if k = 5 then l.arg else if k = 6 then BitVec.ofNat 64 (4096 * unit)
           else if k = 7 then BitVec.ofNat 64 semBase else 0)) ∧
       u.blockAt b = some y ∧ tget (0, 0) y.ranges die = (if r.1 + 1 < r.2 then (r.1 + 1, r.2) else (0, 0)) ∧
       (∃ c', u.ctxAt x.ctx = some c' ∧ c'.heapUsed = c.heapUsed + l.saveSize) ∧
       ∀ k, k < l.semWin → l.semWin ≤ 256 → (u.coreAt core).sem (semNum semBase k) = Sem.zero)

/-- R44, R277, R333, R334: a die that may steal asks the next die after those it has asked, and waits 2,048 ns when none is left; a victim
with a block to share keeps the first half of its range, rounded up, and the thief gets the rest; a refused thief goes on to the next die or
waits; and its wait ends at its time. No iteration is lost. A message waits while nothing crosses between the two dies, and a thief with no
core left gets nothing. That a die waits 2,048 ns also when fewer than seven dies could be asked is the model's choice (log entry 58, DEDUCED),
and so is what `maySteal` counts as a ready iteration (log entry 97, DESIGN CHOICE). -/
def Obligations.Stealing : Prop :=
  ∀ (s : State) (die : Nat),
    (∀ i is, s.maySteal die = true → s.victims die (s.dispAt die).asked = i :: is → i < 7 →
      let v := (die + 1 + i) % 8
      (s.reaches die v = true →
        ∃ u, exec (.stealRequest die) s = .next u ∧ u.dispAt die = { s.dispAt die with asked := i + 1, outstanding := some v } ∧
          (u.dispAt v).requests = (s.dispAt v).requests ++ [die] ∧ u.work.blocks = s.work.blocks ∧ u.mem = s.mem) ∧
      (s.reaches die v = false → exec (.stealRequest die) s = .next s)) ∧
    (s.maySteal die = true → s.victims die (s.dispAt die).asked = [] → ∃ u, exec (.stealRequest die) s = .next u ∧
      u.dispAt die = { s.dispAt die with asked := 0, waitUntil := s.pt die + 2048 } ∧ u.work.blocks = s.work.blocks ∧
      u.mem = s.mem) ∧
    (∀ thief rest, (s.dispAt die).requests = thief :: rest → s.reaches die thief = false → exec (.stealReply die) s = .next s) ∧
    (∀ thief rest, (s.dispAt die).requests = thief :: rest → s.reaches die thief = true → s.coresOf thief = [] →
      ∃ u, exec (.stealReply die) s = .next u ∧ (u.dispAt thief).outstanding = none ∧ (u.dispAt thief).asked = 0 ∧
        (u.dispAt thief).slots = (s.dispAt thief).slots ∧ u.work.blocks = s.work.blocks ∧ u.mem = s.mem) ∧
    (∀ thief rest, (s.dispAt die).requests = thief :: rest → thief ≠ die → s.reaches die thief = true → s.coresOf thief ≠ [] →
      let s1 := s.modDisp die fun d => { d with requests := rest }
      (∀ b x, s1.shareBlock die thief = some (b, x) →
        let r := tget (0, 0) x.ranges die
        ∃ u y, exec (.stealReply die) s = .next u ∧ u.blockAt b = some y ∧ { y with ranges := x.ranges } = x ∧
          tget (0, 0) y.ranges die = (r.1, r.1 + (r.2 - r.1 + 1) / 2) ∧
          tget (0, 0) y.ranges thief = (r.1 + (r.2 - r.1 + 1) / 2, r.2) ∧
          (∀ d, d ≠ die → d ≠ thief → tget (0, 0) y.ranges d = tget (0, 0) x.ranges d) ∧ b ∈ (u.dispAt thief).slots ∧
          (u.dispAt thief).outstanding = none ∧ (∀ m, m ≠ b → u.blockAt m = s.blockAt m) ∧ u.mem = s.mem) ∧
      (s1.shareBlock die thief = none → ∃ u, exec (.stealReply die) s = .next u ∧ (u.dispAt thief).outstanding = none ∧
        u.work.blocks = s.work.blocks ∧ u.mem = s.mem)) ∧
    ((s.dispAt die).waitUntil ≠ 0 → (s.dispAt die).waitUntil ≤ s.pt die →
      ∃ u, exec (.stealBackoffExpiry die) s = .next u ∧ u.dispAt die = { s.dispAt die with waitUntil := 0 } ∧
        (∀ d, d ≠ die → u.dispAt d = s.dispAt d) ∧ u.mem = s.mem) ∧
    (s.pt die < (s.dispAt die).waitUntil → exec (.stealBackoffExpiry die) s = .next s)

/-- R42, R269: with no spill record to refill, the waiting block of the pool takes a launch sequence number; a level over dies divides its
outermost spatial count among the usable dies of its mask, die j of k taking iterations from j n / k on. The block shown has no output
declaration and is not timetabled. -/
def Obligations.Placement : Prop :=
  ∀ (s : State) (b n : Nat) (x : Block) (e : LoopEnt) (inner : List LoopEnt), s.nextSpill = none → s.work.poolBlocks = [b] →
    s.blockAt b = some x → x.waiting = true → x.lb.timetabled = false → x.seq = none → (∀ d ∈ x.lb.decls, d.output = false) →
    x.lb.spatial = e :: inner → e.kind = 2 → x.lb.total ≠ 0 → e.count = n →
    let m := inner.foldl (fun p l => p * l.count) 1
    let dies := (maskDies x.lb.dieMask).filter s.dieUp
    dies ≠ [] →
    ∃ u y, exec .poolService s = .next u ∧ u.blockAt b = some y ∧ y.waiting = false ∧ y.seq = some (s.work.launchSeq + 1) ∧
      u.work.launchSeq = s.work.launchSeq + 1 ∧
      (∀ j d, dies[j]? = some d → (tget (0, 0) y.ranges d).2 - (tget (0, 0) y.ranges d).1 =
        ((j + 1) * n / dies.length - j * n / dies.length) * m ∧
        (j * n / dies.length * m < (j + 1) * n / dies.length * m →
          tget (0, 0) y.ranges d = (j * n / dies.length * m, (j + 1) * n / dies.length * m))) ∧
      (∀ d, d ∉ dies → tget (0, 0) y.ranges d = (0, 0)) ∧ u.cores = s.cores ∧ u.mem = s.mem

/-! Package time, frontiers and frames (R54-R56, R60-R68, R74-R76, R279). -/

/-- R54-R56, R345: an exchange sets a die's rate within 200 ppm and may end its holdover; a die without one for more than 100 ms enters
holdover; a message of the grandmaster sets the offset, and the lock within 1,000 ns, and one of another 1588 domain than the configured one
does nothing; PT is set forward once, with no context resident, to facility time, and FRAMENO and FRAMESTART then read 0 (R74); and 10 s
without a lock end the wait. PT never falls. That any first message is the first lock, whatever its offset, is the model's choice (log entry
108, DESIGN CHOICE). -/
def Obligations.PackageClock : Prop :=
  ∀ (s : State) (die domain facility : Nat) (ppm off : Int),
    (die ≤ 8 → s.time.base % 16384 = 0 → (let l := if die = 8 then 32 else 2 * die
        s.linkUp l = true ∨ s.linkUp (l + 1) = true) →
      let near : Prop := off.natAbs ≤ 3 ∧ s.time.base ≤ s.pt die ∧ s.pt die ≤ s.time.base + 3
      ∃ u, exec (.ptExchange die ppm off) s = .next u ∧ tget 0 u.time.rate die = max (-200) (min 200 ppm) ∧
        tget 0 u.time.exchanged die = s.pt 9 ∧ (near → tget false u.time.hold die = false) ∧
        (¬ near → u.time.hold = s.time.hold) ∧ (∀ d, d ≠ die → tget 0 u.time.rate d = tget 0 s.time.rate d) ∧
        u.time.pt = s.time.pt ∧ u.mem = s.mem ∧ u.work = s.work) ∧
    (die < 9 → tget 0 s.time.exchanged die + 100000000 < s.pt 9 → ∃ u, exec (.ptHoldover die) s = .next u ∧
      (∀ d, tget false u.time.hold d = if d = die then true else tget false s.time.hold d) ∧ u.time.pt = s.time.pt ∧ u.mem = s.mem) ∧
    (s.pt 9 ≤ tget 0 s.time.exchanged die + 100000000 → exec (.ptHoldover die) s = .next s) ∧
    (domain ≠ s.host.cfg.domain → exec (.ptpMessage ⟨domain, facility⟩) s = .next s) ∧
    (domain = s.host.cfg.domain → ∃ u, exec (.ptpMessage ⟨domain, facility⟩) s = .next u ∧
      u.time.offset = (s.pt 9 : Int) - facility ∧ u.time.sawLock = true ∧
      (u.time.locked = true ↔ u.time.offset.natAbs ≤ 1000) ∧ u.time.pt = s.time.pt ∧ u.mem = s.mem) ∧
    (s.time.stepped = false → s.time.sawLock = true → (∀ x ∈ s.ctxs, x.2 = none) →
      ∃ u, exec (.ptStep facility) s = .next u ∧ u.time.stepped = true ∧ u.time.base = max s.time.base facility ∧
        (∀ d, d < 10 → u.pt d = max (s.pt d) (max s.time.base facility)) ∧ u.time.frameOn = false ∧ u.time.frameno = 0 ∧
        u.time.framestart = 0 ∧ u.mem = s.mem) ∧
    (s.time.stepped = true → exec (.ptStep facility) s = .next s) ∧
    (s.time.stepped = false → s.time.sawLock = false → s.time.waitOver = false → Config.lockWait ≤ s.pt 9 →
      ∃ u, exec .lockWaitExpiry s = .next u ∧ u.time.waitOver = true ∧ tget false u.time.hold 9 = true ∧ u.time.pt = s.time.pt)

/-- R64, R65, R68, R74-R76, R279: each 64 ns of its PT a die's frontier goes to every other die that its modules reach; a message that
arrives is the value its receiver holds, one that is lost, or that a module without traffic would carry (R333), changes no value held; and a lag above SLIPTH, while a not-before load waits, is
counted and logged once until it has fallen. Frame 0 starts at the first multiple of FRAMELEN from its origin; the next frame when the
length of the current one has passed and its members have completed, a later start being a slip that is counted and logged; an overrun is
noted; and the members whose tick has come are released, and no other block. -/
def Obligations.FrontiersAndFrames : Prop :=
  (∀ (s : State) (die src dst v : Nat) (rest : List (Nat × Nat × Nat)),
     (die ≤ 9 → s.pt die % 64 = 0 → ∃ u new, exec (.frontierSample die) s = .next u ∧ u.time.msgs = s.time.msgs ++ new ∧
       (∀ m, m ∈ new ↔ m.1 = die ∧ m.2.1 < 10 ∧ m.2.1 ≠ die ∧ (∀ l ∈ s.route die m.2.1, s.linkUp l = true) ∧
         m.2.2 = s.frontier die) ∧ u.time.held = s.time.held ∧ u.mem = s.mem) ∧
     (takeMsg src dst s.time.msgs = some (v, rest) →
       (s.reaches src dst = true → ∃ u, exec (.frontierMessage src dst false) s = .next u ∧ u.time.msgs = rest ∧
         (∀ k, tget 0 u.time.held k = if k = 16 * dst + src then v else tget 0 s.time.held k) ∧ u.time.pt = s.time.pt) ∧
       (s.reaches src dst = false → ∃ u, exec (.frontierMessage src dst false) s = .next u ∧ u.time.msgs = rest ∧
         u.time.held = s.time.held) ∧
       (∃ u, exec (.frontierMessage src dst true) s = .next u ∧ u.time.msgs = rest ∧ u.time.held = s.time.held)) ∧
     (die ≤ 8 → s.nbWaits die = true → s.time.slipth < s.pt die - s.gf die → tget false s.time.slipped die = false →
       ∃ u, exec (.frontierSlip die) s = .next u ∧ tget 0 u.time.fslip die = min (tget 0 s.time.fslip die + 1) (2 ^ 32 - 1) ∧
         tget false u.time.slipped die = true ∧ u.time.log = s.time.log ++ [.slip die (s.pt die) (s.pt die - s.gf die)] ∧
         u.mem = s.mem) ∧
     (tget false s.time.slipped die = true → exec (.frontierSlip die) s = .next s)) ∧
  (∀ (s : State),
     let t := s.time
     let members : Prop := ∀ x ∈ s.work.blocks, ∀ b, x.2 = some b → b.frame ≠ some t.frameno
     let enters (n f : Nat) : Prop := ∃ u, exec .frameStart s = .next u ∧ u.time.frameOn = true ∧ u.time.frameno = n ∧
       u.time.framestart = f ∧ u.time.curLen = t.framelen ∧ u.time.pt = t.pt ∧ u.mem = s.mem ∧ u.work = s.work
     (∀ o, t.frameOn = false → t.origin = some o → 0 < t.framelen →
       let f := (o + t.framelen - 1) / t.framelen * t.framelen
       (f ≤ s.pt 9 → enters 0 f) ∧ (s.pt 9 < f → exec .frameStart s = .next s)) ∧
     (t.frameOn = true → members → t.lastMember ≤ t.framestart + t.curLen →
       (t.framestart + t.curLen ≤ s.pt 9 → enters (t.frameno + 1) (t.framestart + t.curLen)) ∧
       (s.pt 9 < t.framestart + t.curLen → exec .frameStart s = .next s)) ∧
     (t.frameOn = true → members → t.framestart + t.curLen < t.lastMember → t.lastMember ≤ s.pt 9 →
       enters (t.frameno + 1) t.lastMember ∧ ∃ u, exec .frameStart s = .next u ∧
         u.time.tslipCount = min (t.tslipCount + 1) (2 ^ 32 - 1) ∧
         u.time.log = t.log ++ [.frameSlip t.frameno (t.lastMember - (t.framestart + t.curLen))]) ∧
     (t.frameOn = true → ¬ members → exec .frameStart s = .next s ∧
       (t.framestart + t.curLen ≤ s.pt 9 → ∃ u, exec .frameOverrun s = .next u ∧ u.time.overran = true ∧ u.mem = s.mem)) ∧
     (t.frameOn = true → ∃ u, exec .timetableRelease s = .next u ∧ u.mem = s.mem ∧ u.cores = s.cores ∧ ∀ k b, s.blockAt k = some b →
       (b.frame = some t.frameno → t.framestart + b.lb.release ≤ s.pt 9 → u.blockAt k = some { b with released := true }) ∧
       ((∀ x ∈ s.work.blocks, ∀ y, x.1 = k → x.2 = some y → y.frame ≠ some t.frameno) → u.blockAt k = some b) ∧
       (s.pt 9 < t.framestart + b.lb.release → u.blockAt k = some b)))

/-! Memory performed (R60-R62, R66, R67, R86-R92, R100-R104). -/

/-- R62, R66, R67, R89-R92, R104: the load at the head of a strand's queue binds its register. An uncached one takes its bytes at the home,
which traffic reaches and which owes no part whose time has come and no not-before load that can be performed; one on a cached page takes the copy of the L1, and needs no home; bytes of a
poisoned sector read 0 and tag the register. A not-before load binds once PT and the global frontier of its home have reached its time, with
the bytes and the poison as of that time, and before the ordinary accesses of its slice; not before, and not where 128 others wait there. -/
def Obligations.LoadsBind : Prop :=
  ∀ (s : State) (n : Nat) (st : Strand) (o : LoadOp) (rest : List LoadOp) (p : Part) (d : GReg) (k : Nat),
    s.strandAt n = some st → st.lq = o :: rest → st.loadMay o = true → o.parts = [p] → p.off = 0 → p.len = k → k ≤ 8 → o.got = 0 →
    o.tag = false → o.sig = none → d ≠ 0 → tget 0 st.busy d.toNat = o.tok →
    let bound (i : Instr) (v : Nat → Nat) (bs : List Byte) (tag : Bool) : Prop := ∃ u st', exec i s = .next u ∧
      u.strandAt n = some st' ∧ st'.lq = rest ∧ tget 0 st'.g d.toNat = BitVec.ofInt 64 (v (leNat bs)) ∧
      tget false st'.gtag d.toNat = tag ∧ (∀ r, r ≠ d.toNat → tget 0 st'.g r = tget 0 st.g r) ∧ st'.sq = st.sq ∧
      u.mem.bytes = s.mem.bytes
    let home := (s.mem.read p.pa k).1
    let bad := (s.mem.read p.pa k).2
    let sl := sliceOf p.pa
    let free : Prop := s.homeFree (dieOfCore (coreOfStrand n)) p.pa = true
    (o.what = .scalar d k false → 2 ≤ p.cache → free → bound (.globalLoadBind n) id home bad) ∧
    (o.what = .scalar d k false → 2 ≤ p.cache → ¬ free → exec (.globalLoadBind n) s = .next s) ∧
    (o.what = .scalar d k true → 2 ≤ p.cache → free → ∃ u st', exec (.globalLoadBind n) s = .next u ∧ u.strandAt n = some st' ∧
      tget 0 st'.g d.toNat = BitVec.ofInt 64 (signed (8 * k) (leNat home)) ∧ tget false st'.gtag d.toNat = bad) ∧
    (∀ c, o.what = .scalar d k false → p.cache = 0 → s.dropsL1 = false →
      tget none (s.coreAt (coreOfStrand n)).l1 (p.pa / 128) = some c →
      bound (.globalLoadBind n) id (c.read (p.pa % 128) k).1 (c.read (p.pa % 128) k).2) ∧
    (∀ t : W64, o.what = .nb d k t → st.stop = none → t.toNat ≤ s.pt sl.1 → t.toNat ≤ s.gf sl.1 →
      s.reaches (dieOfCore (coreOfStrand n)) sl.1 = true → s.dueParts sl = false →
      ((s.nbAt sl).length < Config.nbDepth ∨ (n, o.tok, p.pa) ∈ s.nbAt sl) →
      bound (.nbLoadPerform n) id ((List.range k).map fun i => s.mem.nbByte t.toNat (p.pa + i))
        ((List.range k).any fun i => s.mem.nbPoison t.toNat (p.pa + i))) ∧
    (∀ t : W64, o.what = .nb d k t → s.pt sl.1 < t.toNat ∨ s.gf sl.1 < t.toNat →
      ∃ u, exec (.nbLoadPerform n) s = .next u ∧ u.strands = s.strands ∧ u.mem.bytes = s.mem.bytes ∧ u.time = s.time) ∧
    (∀ t : W64, o.what = .nb d k t → Config.nbDepth ≤ (s.nbAt sl).length → (n, o.tok, p.pa) ∉ s.nbAt sl →
      exec (.nbLoadPerform n) s = .next s)

/-- R85, R89, R92, R104, R90, R100, R192, R193, R60, R61: the home performs the store at the head of a strand's queue, once traffic reaches it
and it owes no part whose time has come: its enabled bytes change and no other byte of memory does. A WAITV whose word differs, and one whose time has come, returns the word. An atomic is performed
at its home in one step: the register receives the old value, and memory the new one; the bytes beside it are unchanged. On a poisoned
sector nothing is written, and the register is 0 and tagged. A postmarked store that reaches its home before its time is queued and changes
no byte; on its time, or later, its enabled bytes are written. Of the parts that a slice has queued the one of the least time is performed,
the first accepted among equals, and the others stay. -/
def Obligations.StoresPerform : Prop :=
  (∀ (s : State) (n : Nat) (st : Strand), s.strandAt n = some st →
     (∀ o rest p, st.sq = o :: rest → st.storeMay o = true → o.what = .plain → o.parts = [p] → o.sig = none →
       s.mem.bounces p.pa = false → s.mem.discards p.pa = false → s.homeFree (dieOfCore (coreOfStrand n)) p.pa = true →
       ∃ u st', exec (.globalStorePerform n) s = .next u ∧ u.strandAt n = some st' ∧ st'.sq = rest ∧
         ∀ a, u.mem.byteAt a = if p.pa ≤ a then (((o.partBytes p)[a - p.pa]?).getD none).getD (s.mem.byteAt a) else s.mem.byteAt a) ∧
     (∀ o d e t p ps, st.monitor = some (o, d, e, t) → o.parts = p :: ps → d ≠ 0 → tget 0 st.busy d.toNat = o.tok →
       (t.toNat ≤ s.pt (sliceOf p.pa).1 → ∃ u st', exec (.waitvTimeout n) s = .next u ∧ u.strandAt n = some st' ∧
         st'.lq = st.lq.tail ∧ tget 0 st'.g d.toNat = (s.mem.word8 p.pa).1 ∧ tget false st'.gtag d.toNat = (s.mem.word8 p.pa).2 ∧
         u.mem.bytes = s.mem.bytes) ∧
       (s.pt (sliceOf p.pa).1 < t.toNat → exec (.waitvTimeout n) s = .next s)) ∧
     (∀ o d e t p rest, st.lq = o :: rest → o.what = .waitv d e t false → o.parts = [p] → st.loadMay o = true → st.stop = none →
       d ≠ 0 → tget 0 st.busy d.toNat = o.tok → s.homeFree (dieOfCore (coreOfStrand n)) p.pa = true →
       ((s.mem.word8 p.pa).1 ≠ e ∨ t.toNat ≤ s.pt (sliceOf p.pa).1) →
       ∃ u st', exec (.globalLoadBind n) s = .next u ∧ u.strandAt n = some st' ∧ st'.lq = rest ∧
         tget 0 st'.g d.toNat = (s.mem.word8 p.pa).1 ∧ u.mem.bytes = s.mem.bytes)) ∧
  (∀ (s : State) (n : Nat) (st : Strand) (o : StoreOp) (rest : List StoreOp) (p : Part) (d : GReg) (b cmp : W64),
     s.strandAt n = some st → st.sq = o :: rest → st.storeMay o = true → st.lq = [] → o.parts = [p] → o.sig = none →
     s.mem.bounces p.pa = false → s.mem.discards p.pa = false → s.homeFree (dieOfCore (coreOfStrand n)) p.pa = true → d ≠ 0 →
     tget 0 st.busy d.toNat = o.tok →
     let old := leNat (s.mem.read p.pa p.len).1
     let does (new : Nat) (back : W64) : Prop := ∃ u st', exec (.atomicPerform n) s = .next u ∧ u.strandAt n = some st' ∧
       st'.sq = rest ∧
       ((s.mem.read p.pa p.len).2 = false → tget 0 st'.g d.toNat = back ∧ tget false st'.gtag d.toNat = false ∧
         ∀ a, u.mem.byteAt a = if p.pa ≤ a ∧ a < p.pa + p.len then BitVec.ofNat 8 (new / 256 ^ (a - p.pa)) else s.mem.byteAt a) ∧
       ((s.mem.read p.pa p.len).2 = true → tget 0 st'.g d.toNat = 0 ∧ tget false st'.gtag d.toNat = true ∧
         u.mem.bytes = s.mem.bytes)
     (∀ op, p.len = 4 ∨ p.len = 8 → o.what = .amo op d p.len b cmp →
       let w := 8 * p.len
       does (match op with
           | .add => (old + b.toNat) % 2 ^ w
           | .and => old &&& b.toNat
           | .or => old ||| b.toNat
           | .xor => old ^^^ b.toNat
           | .min => if signed w old ≤ signed w b.toNat then old else b.toNat
           | .max => if signed w old ≤ signed w b.toNat then b.toNat else old
           | .minn => min old b.toNat
           | .maxn => max old b.toNat
           | .swp => b.toNat
           | .cas => if old = cmp.toNat then b.toNat else old) (BitVec.ofInt 64 (signed w old))) ∧
     (∀ fz cn sv op f, o.what = .amof fz cn sv op f d b → does (amofNew fz cn sv op f old b.toNat) (BitVec.ofNat 64 old))) ∧
  (∀ (s : State) (n : Nat) (st : Strand) (o : StoreOp) (rest : List StoreOp) (p : Part) (t : W64), s.strandAt n = some st →
     st.sq = o :: rest → st.storeMay o = true → o.what = .pm t → o.parts = [p] → o.sig = none → s.mem.bounces p.pa = false →
     s.mem.discards p.pa = false → s.reaches (dieOfCore (coreOfStrand n)) (sliceOf p.pa).1 = true →
     let sl := sliceOf p.pa
     let q := tget [] s.mem.pmq (sliceKey sl)
     let written (u : State) : Prop := ∀ a, u.mem.byteAt a =
       if p.pa ≤ a then (((o.partBytes p)[a - p.pa]?).getD none).getD (s.mem.byteAt a) else s.mem.byteAt a
     (q.length < Config.pmDepth → s.pt sl.1 < t.toNat → ∃ u st' x, exec (.postmarkDeliver n) s = .next u ∧
       u.strandAt n = some st' ∧ st'.sq = rest ∧ tget [] u.mem.pmq (sliceKey sl) = q ++ [x] ∧ x.p = t ∧ x.pa = p.pa ∧
       u.mem.bytes = s.mem.bytes) ∧
     (q.length < Config.pmDepth → t.toNat ≤ s.pt sl.1 → (∀ y ∈ q, t.toNat < y.p.toNat) → ∃ u st', exec (.postmarkDeliver n) s = .next u ∧
       u.strandAt n = some st' ∧ st'.sq = rest ∧ written u) ∧
     (Config.pmDepth ≤ q.length → exec (.postmarkDeliver n) s = .next s) ∧
     (∀ die slice x before after, tget [] s.mem.pmq (sliceKey (die, slice)) = before ++ x :: after →
       (∀ y ∈ before, x.p.toNat < y.p.toNat) → (∀ y ∈ after, x.p.toNat ≤ y.p.toNat) → s.mem.discards x.pa = false →
       x.en.length = x.data.length →
       (s.pt die < x.p.toNat → exec (.postmarkPerform die slice) s = .next s) ∧
       (x.p.toNat ≤ s.pt die → ∃ u, exec (.postmarkPerform die slice) s = .next u ∧
         tget [] u.mem.pmq (sliceKey (die, slice)) = before ++ after ∧
         ∀ a, u.mem.byteAt a = if x.pa ≤ a ∧ x.en[a - x.pa]? = some true then (x.data[a - x.pa]?).getD 0 else s.mem.byteAt a)))

/-- R101, R102, R195, R86, R87: a commit that stands in its turn, and whose sectors are as they were read, performs every buffered byte and no other; a conflict found
before the commit aborts with code 1, and poison found at TXE with code 6, at the abort target, with memory and registers as they are. The
page that a strand waits for is committed with the first frame of its size in the pool, which becomes zero; the context's count rises by the
page's units. A wait of 1,000,000 ns is given up: that its end is the mark (0, ea), on which the access raises COMMIT_FAIL when it is
performed again, is the model's choice (log entry 46, DEDUCED). -/
def Obligations.CommitsEnd : Prop :=
  (∀ (s : State) (n : Nat) (st : Strand) (x : Txn), s.strandAt n = some st → st.txn = some x →
     let stale : Prop := ∃ r ∈ x.reads, tget 0 s.mem.ver r.1 ≠ r.2
     (x.phase = 1 → st.commitMay = true → ¬ stale →
       (∀ c ∈ x.sectors, s.mem.poisonAt (c * 64) = false ∧ s.mem.bounces (c * 64) = false ∧
         s.homeFree (dieOfCore (coreOfStrand n)) (c * 64) = true) →
       x.pages = [] → (∀ c ∈ x.stored, s.mem.discards (c.1 * 64) = false) →
       ∃ u st' y, exec (.txnCommit n) s = .next u ∧ u.strandAt n = some st' ∧ st'.txn = some y ∧ y.phase = 2 ∧
         ∀ a, u.mem.byteAt a = if a / 64 ∈ x.stored.map (·.1) then (tget none x.writes a).getD (s.mem.byteAt a)
           else s.mem.byteAt a) ∧
     (∀ t, x.phase < 2 → stale → x.target = some t → ∃ u st', exec (.txnAbort n) s = .next u ∧ u.strandAt n = some st' ∧
       st'.txn = none ∧ st'.txsCode = 1 ∧ st'.pc = t ∧ st'.g = st.g ∧ u.mem = s.mem) ∧
     (∀ t, x.phase = 1 → ¬ stale → (∃ c ∈ x.sectors, s.mem.poisonAt (c * 64) = true) → x.target = some t →
       ∃ u st', exec (.txnAbort n) s = .next u ∧ u.strandAt n = some st' ∧ st'.txn = none ∧ st'.txsCode = 6 ∧ st'.pc = t ∧
         st'.g = st.g ∧ u.mem = s.mem)) ∧
  (∀ (s : State) (n : Nat) (st : Strand) (ea : W64) (t : Nat), s.strandAt n = some st → st.commitWait = some (t, ea) →
     (∀ c lvl at_ e f fs, s.ctxAt (s.ctxOfStrand n) = some c → t ≠ 0 →
       walkFrom s.mem (vaOf ea) 4 (if ea.getLsbD 63 then c.root1 else c.root0).toNat = .leaf lvl at_ e → pteF e 8 1 = 1 →
       c.commit.toNat + pageUnits lvl ≤ c.limit.toNat → tget [] s.mem.pool (4 * pteF e 12 4 + lvl) = f :: fs →
       s.mem.discards at_ = false → s.mem.discards f = false → (at_ + 8 ≤ f ∨ f + 2 ^ pageLog lvl ≤ at_) →
       ∃ u c', exec (.lazyCommit n) s = .next u ∧ tget [] u.mem.pool (4 * pteF e 12 4 + lvl) = fs ∧
         u.ctxAt (s.ctxOfStrand n) = some c' ∧ c'.commit = c.commit + BitVec.ofNat 32 (pageUnits lvl) ∧
         (∀ a, f ≤ a → a < f + 2 ^ pageLog lvl → u.mem.byteAt a = 0) ∧
         (∀ a, (a < f ∨ f + 2 ^ pageLog lvl ≤ a) → (a < at_ ∨ at_ + 8 ≤ a) → u.mem.byteAt a = s.mem.byteAt a)) ∧
     (t ≤ s.pt (dieOfCore (coreOfStrand n)) → ∃ u, exec (.commitWaitTimeout n) s = .next u ∧
       u.strandAt n = some { st with commitWait := some (0, ea) } ∧ u.mem = s.mem) ∧
     (s.pt (dieOfCore (coreOfStrand n)) < t → exec (.commitWaitTimeout n) s = .next s))

/-! Memory that fails (R87, R113, R336-R340). -/

/-- R113, R336, R337-R340: an error struck in a copy drops the copy, which is counted as corrected; in memory it poisons the sector, which
then reads 0; in a control structure it is met by the next access of its strand or engine queue. A row that fails takes a spare while its bank has one, and then its frame
is retired. No byte of memory changes. A park-tier channel idle for 1 ms goes to self-refresh; a channel that is retired gives no further
frame, though nothing happens while the pool lacks the frames to split a large leaf; a frame that moves keeps its bytes at its new place; a CXL port's
range reads as poison while it is down; a frame that fits is added to a pool. The mark that an error in a control structure leaves is the
model's choice (log entry 44, DEDUCED), and so is the split of large leaves, with nothing done while the pool has too few frames for it (log
entry 43, DEDUCED). -/
def Obligations.MemoryFailures : Prop :=
  (∀ (s : State) (core die line pa n ctx : Nat),
     let bytes (u : State) : Prop := u.mem.bytes = s.mem.bytes
     (∃ u, exec (.uncorrectableError (.l1 core line)) s = .next u ∧ tget none (u.coreAt core).l1 line = none ∧
       (∀ l, l ≠ line → tget none (u.coreAt core).l1 l = tget none (s.coreAt core).l1 l) ∧
       u.mem.corrected = s.mem.corrected + 1 ∧ bytes u) ∧
     (∃ u, exec (.uncorrectableError (.rdc die line)) s = .next u ∧ tget none u.mem.rdc (rdcKey die line) = none ∧
       u.mem.corrected = s.mem.corrected + 1 ∧ bytes u) ∧
     (∃ u, exec (.uncorrectableError (.l2Clean line)) s = .next u ∧
       (∀ w ∈ tget [] u.mem.l2Sets (l2Key (line * 128)), w.line = line → w.dirty = true) ∧
       u.mem.corrected = s.mem.corrected + 1 ∧ bytes u) ∧
     (∃ u, exec (.uncorrectableError (.memory pa)) s = .next u ∧ u.mem.readByte pa = 0 ∧ u.mem.poisonAt pa = true ∧
       (∀ a, a / 64 ≠ pa / 64 → u.mem.readByte a = s.mem.readByte a) ∧ bytes u) ∧
     (∀ st, s.strandAt n = some st → ∃ u, exec (.uncorrectableError (.controlOf n)) s = .next u ∧
       u.strandAt n = some { st with ctlError := true } ∧ u.mem = s.mem) ∧
     (core < 256 → n < 7 → ∃ u, exec (.uncorrectableError (.controlOfEngine core n)) s = .next u ∧ u.mem = s.mem ∧
       u.coreAt core = { s.coreAt core with ctlErrors := (s.coreAt core).ctlErrors ++ [n] } ∧
       (∀ c, c ≠ core → u.coreAt c = s.coreAt c) ∧ u.strands = s.strands) ∧
     (s.ctxAt ctx = none → exec (.uncorrectableError (.controlIdle ctx)) s = .next s) ∧
     (∃ u, exec (.correctableError pa) s = .next u ∧ u.mem.corrected = s.mem.corrected + 1 ∧ bytes u ∧
       (tget [] u.mem.rowErr (Config.rowOf pa)).length = (tget [] s.mem.rowErr (Config.rowOf pa)).length + 1) ∧
     (let row := Config.rowOf pa
      let bank := Config.bankOf pa
      let spares := if 2 ^ 39 ≤ pa then 4 else 8
      (tget false s.mem.rowBad row = true ∨ 64 < ((tget [] s.mem.rowErr row).filter fun t =>
         decide (s.pt (sliceOf pa).1 < t + 3600000000000)).length) →
       ∃ u, exec (.rowSpareReplace pa) s = .next u ∧ tget false u.mem.rowBad row = false ∧ tget [] u.mem.rowErr row = [] ∧ bytes u ∧
         (tget 0 s.mem.spares bank < spares → tget 0 u.mem.spares bank = tget 0 s.mem.spares bank + 1 ∧
           u.mem.frames = s.mem.frames) ∧
         (spares ≤ tget 0 s.mem.spares bank → tget .normal u.mem.frames (pa / 65536) = .retired ∧ u.mem.poisonAt pa = true))) ∧
  (∀ (s : State) (die channel port cap size frame target : Nat),
     (channel < 16 → tget 0 s.mem.chanAccess channel + 1000000 ≤ s.pt 8 → ∃ u, exec (.parkSelfRefresh channel) s = .next u ∧
       tget false u.mem.refresh channel = true ∧ u.mem.bytes = s.mem.bytes) ∧
     ((die < 8 ∧ channel < 32) ∨ (die = 8 ∧ channel < 16) → s.mem.retiring = none →
       tget false s.mem.dead (32 * die + channel) = false →
       let retires (u : State) : Prop :=
         (u.mem.retiring = some (die, channel) ∨ tget false u.mem.dead (32 * die + channel) = true) ∧
         ∀ k f, f ∈ tget [] u.mem.pool k → k / 4 = die → channelOf f ≠ some (die, channel)
       ∃ u, exec (.channelRetire die channel) s = .next u ∧ (u = s ∨ retires u) ∧
         ((∀ x ∈ s.allEntries, 1 ≤ x.1 → mapsMemory x.2.2 = true → (channelOf (entryTarget x.2.2)).map (·.1) ≠ some die) →
           retires u)) ∧
     (let key := 4 * (sliceOf target).1
      let rest := (tget [] s.mem.pool key).filter (· ≠ target)
      let s1 := (s.zeroFrame target 65536).modMem fun m => { m with pool := tset [] m.pool key rest }
      Memory.wf s.mem = true → s.mem.retiring.isSome → s.mem.retiring = channelOf frame → frame % 65536 = 0 → target % 65536 = 0 →
       frame ≠ target → target ∈ tget [] s.mem.pool key → (channelOf target).isSome → s.mem.discards target = false →
       s.host.writes = [] →
       (∀ x ∈ s1.allEntries, entryTarget x.2.2 < frame ∨ frame + 65536 ≤ entryTarget x.2.2) →
       ∃ u, exec (.frameMove frame target) s = .next u ∧ tget .normal u.mem.frames (frame / 65536) = .unbacked ∧
         (∀ k, k < 65536 → u.mem.byteAt (target + k) = s.mem.byteAt (frame + k)) ∧
         (∀ a, (a < frame ∨ frame + 65536 ≤ a) → (a < target ∨ target + 65536 ≤ a) → u.mem.byteAt a = s.mem.byteAt a)) ∧
     (port < 4 → ∃ u, exec (.cxlLinkUp port cap) s = .next u ∧ tget false u.mem.cxlUp port = true ∧
       tget 0 u.mem.cxlCap port = min cap (2 ^ 40) ∧ (∀ p, p ≠ port → tget false u.mem.cxlUp p = tget false s.mem.cxlUp p) ∧
       u.mem.bytes = s.mem.bytes) ∧
     (port < 4 → tget false s.mem.cxlUp port = true → ∃ u, exec (.cxlLinkDown port) s = .next u ∧
       tget false u.mem.cxlUp port = false ∧ u.time.log = s.time.log ++ [.port port (s.pt 9)] ∧ u.mem.bytes = s.mem.bytes ∧
       ∀ a, (port + 1) * 2 ^ 40 ≤ a → a < (port + 2) * 2 ^ 40 → u.mem.poisonAt a = true ∧ u.mem.readByte a = 0) ∧
     (size ≤ 2 → frame % 2 ^ pageLog size = 0 → s.mem.retiring = none →
       (∀ x ∈ s.mem.pool, ∀ f ∈ x.2, f + 2 ^ pageLog (x.1 % 4) ≤ frame ∨ frame + 2 ^ pageLog size ≤ f) →
       (∀ i, i < 2 ^ pageLog size / 65536 → s.mem.homeDie (frame + 65536 * i) = some die ∧
         tget .normal s.mem.frames (frame / 65536 + i) = .normal) →
       ∃ u, exec (.freePoolRefill die size frame) s = .next u ∧
         (∀ k, tget [] u.mem.pool k = if k = 4 * die + size then tget [] s.mem.pool k ++ [frame] else tget [] s.mem.pool k) ∧
         u.mem.bytes = s.mem.bytes))

/-! Links, queues and counters (R274, R281, R328-R334). -/

/-- R329, R330-R334: the next flit of a direction is delivered when it arrives whole and in sequence; a NAK has its sender resend from the
flit it names, which is counted; an ACK frees the flits up to the one it names. The other modules are unchanged. What the writes of a
module's registers and the ends of its pauses and trainings do: a training ends at x64 where the spare lanes cover the failed ones, else at
x32 where they cover the half with fewer failures, each failed lane with the next working spare; else with the module down, whose flits go to
the first module of the new route that is not down. A number of no flit to come brings the receiver's stop bits only (log entry 106). -/
def Obligations.Links : Prop :=
  (∀ (s : State) (l dir seq vc : Nat) (ok : Bool) (free : List Nat), l < 34 → dir < 2 → s.linkUp l = true →
     let d := (s.linkAt l).dir dir
     let others (u : State) : Prop := (∀ m, m ≠ l → u.linkAt m = s.linkAt m) ∧ u.mem = s.mem ∧
       (u.linkAt l).dir (1 - dir) = (s.linkAt l).dir (1 - dir)
     let stops (e : Dir) : Prop := ∀ v, tget false e.stop v = (decide (v < 5) && ((free[v]?).any fun n => decide (n < 32)))
     (vc < 5 → d.resend = none → seq = d.next → tget false d.stop vc = false → d.replay.length < 128 →
       ∃ u, exec (.flitReceive l dir seq vc ok free) s = .next u ∧ others u ∧
         let e := (u.linkAt l).dir dir
         e.next = (seq + 1) % 4096 ∧ e.replay = d.replay ++ [(seq, vc)] ∧
         e.expect = (if ok = true ∧ seq = d.expect then (seq + 1) % 4096 else d.expect) ∧ stops e) ∧
     (vc < 5 → d.resend = none → seq ≠ d.next → ∃ u, exec (.flitReceive l dir seq vc ok free) s = .next u ∧ others u ∧
       let e := (u.linkAt l).dir dir
       e.next = d.next ∧ e.replay = d.replay ∧ e.expect = d.expect ∧ e.resend = none ∧ stops e) ∧
     (vc < 5 → d.resend = some seq → (seq, vc) ∈ d.replay → ∃ u, exec (.flitReceive l dir seq vc ok free) s = .next u ∧ others u ∧
       let e := (u.linkAt l).dir dir
       e.replay = d.replay ∧ e.next = d.next ∧ e.expect = (if ok = true ∧ seq = d.expect then (seq + 1) % 4096 else d.expect) ∧
       e.resend = if (seq + 1) % 4096 = d.next then none else some ((seq + 1) % 4096)) ∧
     (seq = d.expect → (∃ v, (seq, v) ∈ d.replay) → ∃ u, exec (.nakReceive l dir seq) s = .next u ∧ others u ∧
       ((u.linkAt l).dir dir).resend = some seq ∧ ((u.linkAt l).dir dir).replay = d.replay ∧
       (u.linkAt l).retryWin = min ((s.linkAt l).retryWin + 1) (2 ^ 32 - 1) ∧
       (u.linkAt l).retryTot = min ((s.linkAt l).retryTot + 1) (2 ^ 32 - 1)) ∧
     (∀ v before after, d.replay = before ++ (seq, v) :: after → (∀ x ∈ before, x.1 ≠ seq) →
       0 < (d.expect + 4096 - seq) % 4096 → (d.expect + 4096 - seq) % 4096 ≤ 128 →
       ∃ u, exec (.ackReceive l dir seq) s = .next u ∧ others u ∧ ((u.linkAt l).dir dir).replay = after)) ∧
  (∀ (s : State) (l len : Nat) (failed : W64) (sp : BitVec 4), l < 34 →
     let x := s.linkAt l
     let puts (i : Instr) (y : Link) : Prop := ∃ u, exec i s = .next u ∧ u.linkAt l = y ∧
       (∀ m, m ≠ l → u.linkAt m = s.linkAt m) ∧ u.mem = s.mem
     (x.pause = true → puts (.lnkctlPause l true) x) ∧
     (x.pause = false → puts (.lnkctlPause l true) (
       let on := decide (x.state = 0)
       { x with pause := true, pausing := on, fwd := { x.fwd with current := on }, bwd := { x.bwd with current := on } })) ∧
     (x.state ≠ 1 → (x.state = 0 → x.pause = false) → puts (.lnkctlPause l false) { x with pause := false, pausing := false }) ∧
     (x.state < 2 → x.pause = true → puts (.lnkctlPause l false) { x with
       pause := false, pausing := false, state := 0
       fwd := { x.fwd with resend := (x.fwd.replay.head?).map (·.1) }, bwd := { x.bwd with resend := (x.bwd.replay.head?).map (·.1) } }) ∧
     (x.pausing = true → x.state = 0 → puts (.linkPauseComplete l) { x with pausing := false, state := 1 }) ∧
     puts (.lnkctlTrain l) { x with state := 2, pausing := false } ∧
     puts (.lnkctlWindow l len) { x with window := len % 2 ^ 32, winAt := max x.winAt (s.pt 9) } ∧
     puts (.lnkstatSvcClear l) { x with svc := false } ∧
     (x.window ≠ 0 → s.pt 9 % x.window = 0 → x.winAt < s.pt 9 →
       puts (.linkWindowStart l) { x with retryWin := 0, winAt := s.pt 9 }) ∧
     (x.window = 0 ∨ s.pt 9 % x.window ≠ 0 ∨ s.pt 9 ≤ x.winAt → exec (.linkWindowStart l) s = .next s) ∧
     (x.state = 2 →
       let bad (lo n : Nat) : Nat := (List.range n).countP fun i => failed.getLsbD (lo + i)
       let spares := 4 - (List.range 4).countP fun i => sp.getLsbD i
       let half := min (bad 0 32) (bad 32 32)
       let high := decide (bad 32 32 < bad 0 32)
       let ends (wide : Bool) (used : Nat) : Prop := ∃ u, exec (.linkTrainComplete l failed sp) s = .next u ∧
         (u.linkAt l).x32 = !wide ∧ (u.linkAt l).high = (!wide && high) ∧ (u.linkAt l).spares = used ∧
         (u.linkAt l).uses = ((List.range 64).filter fun i => failed.getLsbD i && (wide || decide (32 ≤ i) == high)).zip
           ((List.range 4).filter fun i => !sp.getLsbD i) ∧ (u.linkAt l).state = (if x.pause then 1 else 0) ∧
         (u.linkAt l).fwd.replay = x.fwd.replay ∧ (u.linkAt l).bwd.replay = x.bwd.replay ∧ u.mem = s.mem
       (bad 0 64 ≤ spares → ends true (bad 0 64)) ∧ (spares < bad 0 64 → half ≤ spares → ends false half) ∧
       (spares < half → 16 ≤ l → ∃ u, exec (.linkTrainComplete l failed sp) s = .next u ∧ (u.linkAt l).state = 3 ∧
         (∀ dir, dir < 2 → ((u.linkAt l).dir dir).replay =
           if (bypassesOf l dir).any fun y => !s.linkDown y.1 then [] else (x.dir dir).replay) ∧ u.mem = s.mem)) ∧
     (x.state ≠ 2 → exec (.linkTrainComplete l failed sp) s = .next s))

/-- R274, R281: a write of QSCHED starts a period with nothing used; the next period starts once the length has passed; a queue whose usage
reaches its budget overruns once in a period; a counter that is written is 0. -/
def Obligations.QueueBudgets : Prop :=
  ∀ (s : State) (die core q : Nat) (v : W64), die < 9 → core < 16 → q < 4 →
    let i := streamNum die core q
    let x := s.streamAt i
    let puts (j : Instr) (y : Stream) : Prop := ∃ u, exec j s = .next u ∧ u.streamAt i = y ∧
      (∀ m, m ≠ i → u.streamAt m = s.streamAt m) ∧ u.mem = s.mem ∧ u.cores = s.cores
    puts (.qschedWrite die core q v)
      { x with period := v.toNat % 2 ^ 32, budget := v.toNat / 2 ^ 32, used := 0, before := 0, overrun := false, start := s.pt die } ∧
    (x.period ≠ 0 → x.start + x.period ≤ s.pt die →
      puts (.queuePeriodStart die core q) { x with start := x.start + x.period, used := 0, before := 0, overrun := false }) ∧
    (x.period = 0 ∨ s.pt die < x.start + x.period → exec (.queuePeriodStart die core q) s = .next s) ∧
    (x.period ≠ 0 → x.budget ≠ 0 → x.overrun = false → x.budget ≤ x.used →
      puts (.queueOverrun die core q) { x with overrun := true }) ∧
    (x.overrun = true ∨ x.used < x.budget → exec (.queueOverrun die core q) s = .next s) ∧
    (∀ c off, c < 256 → ∃ u, exec (.counterClear c off) s = .next u ∧
      (∀ k, tget 0 (u.coreAt c).counters k = if k = off / 8 * 8 then 0 else tget 0 (s.coreAt c).counters k) ∧
      (∀ m, m ≠ c → u.coreAt m = s.coreAt m) ∧ u.mem = s.mem)

/-! Pre-emption, contexts and debug (R296-R310). -/

/-- R296, R297, R302-R304: a request reaches every running tile task that it names, and no other: requests merge into the stronger rank and
the lesser grace, and one that is being saved takes none but a kill; a debug request has no grace and reaches debuggable contexts only. A kill ends every
strand at once. Past its grace a strand outside a transaction stops with its registers as they are (R206, R209). That a REL that waits for an
engine command is left without effect, with the stores behind it, and noted for replay, while every other REL and a write-back complete as the
store queue drains, is the model's choice (log entries 49 and 93, both DEDUCED). A resume request makes due what it names, but for what was
saved by park. -/
def Obligations.PreemptRequests : Prop :=
  ∀ (s : State) (tg : Target) (r : Rank) (grace : Nat),
    (r ≠ .kill → ∃ u, exec (.preemptRequest tg r grace) s = .next u ∧ u.mem = s.mem ∧ u.strands = s.strands ∧ u.cores = s.cores ∧
      ∀ n t, s.ttAt n = some t → u.ttAt n = some (
        if n ∈ s.targets tg ∧ t.saving = false ∧ t.failing = false ∧ (r = .debug → ∃ c, s.ctxAt t.ctx = some c ∧ c.debuggable = true) then
          let e := if r = .debug then 0 else s.pt (dieOfCore t.core) + grace % 2 ^ 32
          { t with
            cutting := t.cutting || decide (r = .debug)
            request := some (match t.request with
              | none => (r, e)
              | some (r', e') => (if rankNum r' < rankNum r then r else r', min e e')) }
        else t)) ∧
    (∀ n t, tg = .tileTask n → s.ttAt n = some t → t.failing = false → s.work.saved = [] →
      ∃ u t', exec (.preemptRequest tg .kill grace) s = .next u ∧ u.ttAt n = some t' ∧ u.mem = s.mem ∧
        (t.saving = true → t' = { t with killAfter := true } ∧ u.strands = s.strands) ∧
        (t.saving = false → t'.failing = true ∧ t'.request = none ∧
          ∀ m ∈ t.strands, ∀ st, s.strandAt m = some st → ∃ st', u.strandAt m = some st' ∧ st'.ended = true)) ∧
    (∀ n t q e, s.ttAt n = some t → t.request = some (q, e) → t.saving = false →
      (s.pt (dieOfCore t.core) < e → exec (.graceExpiry n) s = .next s) ∧
      (e ≤ s.pt (dieOfCore t.core) → (∀ m ∈ t.strands, ∀ st, s.strandAt m = some st → st.txn = none) →
        ∃ u, exec (.graceExpiry n) s = .next u ∧ u.mem = s.mem ∧ (∀ m, m ∉ t.strands → u.strandAt m = s.strandAt m) ∧
          ∀ m ∈ t.strands, ∀ st, s.strandAt m = some st → ∃ st', u.strandAt m = some st' ∧
            (st.ended = true ∨ st.stop.isSome = true → st' = st) ∧
            (st.ended = false → st.stop = none → let cmds := s.cmdsOf m
              st'.stop = some .forced ∧ st'.sq = st.sq.filter (fun o => !st.behindRel cmds o) ∧
              st'.sqAgain = st.sqAgain ++ st.sq.filter (st.behindRel cmds) ∧
              st'.rels = st.rels.filter (fun r => !r.stuck cmds) ∧ st'.relAgain = st.relAgain ++ st.rels.filter (fun r => r.stuck cmds) ∧
              { st' with stop := st.stop, waiting := st.waiting, commitWait := st.commitWait, waitPt := st.waitPt
                         deadlock := st.deadlock, lq := st.lq, sq := st.sq, sqAgain := st.sqAgain, rels := st.rels
                         relAgain := st.relAgain } = st))) ∧
    (∃ u, exec (.resumeRequest tg) s = .next u ∧ u.mem = s.mem ∧ u.strands = s.strands ∧ u.cores = s.cores ∧
      ∀ n v, tget none s.work.saved n = some v → tget none u.work.saved n =
        some (if s.names tg n v.tt = true ∧ v.park = false then { v with due := true } else v))

/-- R297, R300, R302: once every strand of a requested tile task has stopped and owes nothing and its engines are at rest, its save starts,
and holds its strands, its scratchpad bytes and its queued commands; one whose class or context is not parking waits for a resume. When the
save ends, its homes being reached and no error met there, its partitions are free and what it holds stays; a core that takes it, with no
load to replay, gets its strands, its semaphores and its scratchpad bytes back. -/
def Obligations.Saves : Prop :=
  ∀ (s : State) (n : Nat),
    (∀ t r e, s.ttAt n = some t → t.request = some (r, e) → t.saving = false → t.failing = false → s.ttOver n t = false →
      (∀ m ∈ t.strands, ∀ st, s.strandAt m = some st → st.quiet = true) → (s.coreAt t.core).atRest n = true →
      s.saveMeets t.ctx (s.heapBase t.ctx + t.heapAt) t.reserved = false →
      ∃ u v, exec (.preemptSave n) s = .next u ∧
        u.ttAt n = some { t with saving := true, request := none, parking := false, cutting := false } ∧
        tget none u.work.saved n = some v ∧ v.park = t.parking ∧ (t.parking = false → v.due = false) ∧ v.heapAt = t.heapAt ∧ v.size = t.reserved ∧ v.tt.idx = t.idx ∧ v.tt.strands = t.strands ∧
        (∀ m ∈ t.strands, ∀ st, s.strandAt m = some st → (m, st) ∈ v.strands) ∧
        v.spm = tgets 0 (s.coreAt t.core).spm t.spmBase (4096 * t.spmUnits) ∧
        (∀ q x, q < 7 → x ∈ (s.coreAt t.core).queue q → x.tt = n → (q = 6 → x.started = false) →
          ∃ y, (q, y) ∈ v.cmds ∧ y.word = x.word ∧ y.regs = x.regs ∧ y.progress = x.progress) ∧
        u.strands = s.strands ∧ u.mem.bytes = s.mem.bytes) ∧
    (∀ t v, s.ttAt n = some t → t.saving = true → t.killAfter = false → t.failing = false → tget none s.work.saved n = some v →
      v.park = false → s.saveMeets t.ctx (s.heapBase t.ctx + v.heapAt) v.size = false →
      s.reachesAll (dieOfCore t.core) (s.heapBase t.ctx + v.heapAt) v.size = true → ∃ u, exec (.saveComplete n) s = .next u ∧ u.ttAt n = none ∧ (∀ m ∈ t.strands, u.strandAt m = none) ∧
        tget none u.work.saved n = some v ∧ (∀ m, m ≠ n → u.ttAt m = s.ttAt m) ∧
        (let base := s.heapBase v.tt.ctx + v.heapAt
         let b := s.blockAt v.tt.block
         let h := v.header ((b.map (·.addr)).getD 0) ((b.map (·.deadline)).getD 0) (s.pt (dieOfCore v.tt.core))
         ∀ a, (∀ p ∈ v.pieces h, a < base + p.1 ∨ base + p.1 + p.2.1.length ≤ a) → u.mem.byteAt a = s.mem.byteAt a)) ∧
    (∀ t, s.ttAt n = some t → t.saving = false → exec (.saveComplete n) s = .next s) ∧
    (∀ core v, tget none s.work.saved n = some v → v.due = true → s.ttAt n = none → s.takesSaved core v = true →
      s.yields v = false → v.cmds = [] → v.signals = [] → (∀ x ∈ v.strands, x.2.lq = []) →
      ∃ u t, exec (.tileTaskResume n core) s = .next u ∧ u.ttAt n = some t ∧ t.core = core ∧ t.idx = v.tt.idx ∧
        t.block = v.tt.block ∧ t.resumes = v.tt.resumes + 1 ∧ t.strands.length = v.strands.length ∧
        tget none u.work.saved n = none ∧ u.mem.bytes = s.mem.bytes ∧
        (∀ (i m k : Nat) (st : Strand), v.strands[i]? = some (m, st) → t.strands[i]? = some k →
          k / 8 = core ∧ s.strandAt k = none ∧ ∃ st', u.strandAt k = some st' ∧ st'.stop = none ∧ st'.role = st.role ∧
            st'.g = st.g ∧ st'.gtag = st.gtag ∧ st'.vn = st.vn ∧ st'.m = st.m ∧ st'.ports = st.ports ∧ st'.handler = st.handler ∧
            (st.loops = [] → st'.pc = st.pc ∧ st'.loops = [])) ∧
        (∀ k b, v.spm[k]? = some b → tget 0 (u.coreAt core).spm (v.tt.spmBase + k) = b) ∧
        (∀ k, k < v.tt.semLen → let i := semNum v.tt.semBase k
          (u.coreAt core).sem i = (v.sems[i]?).getD Sem.zero)) ∧
    (∀ core v, tget none s.work.saved n = some v → v.due = false → exec (.tileTaskResume n core) s = .next s)

/-- R56, R299, R311, R315, R322, R345: no context is created before PT has been set or the wait has ended, nor twice; one that is created
has what its header says. A drain lowers flog_count. A context that the management core kills has its KILLED bit set, an event sent, and is
gone once none of its tile tasks is left and its fault log has been written. Both accesses wait while a home is not reached (R333). A context
is parked and unparked as a whole; that one whose every unfinished task the grade has parked sends its pages to escrow and is not itself
marked parked, where R322 says that such a context parks, is the model's choice (log entry 79, DEDUCED). -/
def Obligations.Contexts : Prop :=
  ∀ (s : State) (ctx : Nat) (x : CtxInit) (count : Nat),
    (s.mayCreate ctx x = true → s.reachesAll 9 x.area 4096 = false → exec (.contextCreate ctx x) s = .next s) ∧
    (s.mayCreate ctx x = true → s.reachesAll 9 x.area 4096 = true → s.mem.discards x.area = false → ∃ u c, exec (.contextCreate ctx x) s = .next u ∧
      u.ctxAt ctx = some c ∧ c.privileged = x.privileged ∧ c.debuggable = x.debuggable ∧ c.root0 = x.root0 ∧
      c.ceiling = x.ceiling ∧ c.limit = 0 ∧ c.commit = 0 ∧ c.heapSize = x.heapSize ∧ c.flogCap = x.flogCap ∧
      tget 0 u.mem.areas ctx = BitVec.ofNat 64 x.area ∧ (∀ k, k ≠ ctx → u.ctxAt k = s.ctxAt k) ∧
      (let field (off n : Nat) : Nat := leNat ((List.range n).map fun k => u.mem.byteAt (x.area + off + k))
       field 0 4 = 1 + (if x.debuggable then 16 else 0) + (if x.privileged then 32 else 0) + 64 * x.policy.toNat ∧
       field 8 8 = x.flogOff % 2 ^ 64 ∧ field 0x10 4 = x.flogCap % 2 ^ 32 ∧ field 0x14 4 = 0 ∧
       field 0x18 8 = x.spillOff % 2 ^ 64 ∧ field 0x20 4 = x.spillCap % 2 ^ 32 ∧ field 0x24 4 = 0 ∧
       field 0x28 8 = x.heapOff % 2 ^ 64 ∧ field 0x30 8 = x.heapSize % 2 ^ 64)) ∧
    (s.time.stepped = false → s.time.waitOver = false → exec (.contextCreate ctx x) s = .next s) ∧
    (s.ctxAt ctx ≠ none → exec (.contextCreate ctx x) s = .next s) ∧
    (let a := (tget 0 s.mem.areas ctx).toNat + 0x14
     let held (m : MemState) : Nat := leNat ((List.range 4).map fun k => m.readByte (a + k))
     (s.ctxAt ctx).isSome → s.reachesAll 9 a 4 = true → a % 4096 = 0x14 → s.mem.discards a = false → ∃ u, exec (.faultLogDrain ctx count) s = .next u ∧
       leNat ((List.range 4).map fun k => u.mem.byteAt (a + k)) = min count (held s.mem) ∧
       ∀ b, (b < a ∨ a + 4 ≤ b) → u.mem.byteAt b = s.mem.byteAt b) ∧
    (∀ c, ctx < 64 → s.ctxAt ctx = some c → c.killing = false → ∃ u d, exec (.managementCoreKill ctx) s = .next u ∧
      u.host.killed.getLsbD ctx = true ∧ .event (BitVec.ofNat 8 Config.killCause) ctx (s.pt 9) d ∈ u.time.log ∧
      (∀ c', u.ctxAt ctx = some c' → c'.killing = true) ∧
      ((∀ y ∈ s.work.tts, ∀ t, y.2 = some t → t.ctx ≠ ctx) → c.flogWait = [] → u.ctxAt ctx = none)) ∧
    (∀ c, s.ctxAt ctx = some c →
      (c.killing = true → exec (.managementCoreKill ctx) s = .next s) ∧
      (c.parked = false → (∀ y ∈ s.work.tts, ∀ t, y.2 = some t → t.ctx ≠ ctx) → c.escrow = none → s.parkLeaves c = [] →
        ∃ u, exec (.contextPark ctx) s = .next u ∧ u.mem.bytes = s.mem.bytes ∧
          u.ctxAt ctx = some { c with parked := !s.gradeParks ctx, escrow := some [] }) ∧
      (c.parked = false → ∀ n t, s.ttAt n = some t → t.ctx = ctx → t.failing = false → t.saving = false → t.request = none →
        ∃ u, exec (.contextPark ctx) s = .next u ∧ u.ctxAt ctx = some { c with parked := true } ∧
          u.ttAt n = some { t with request := some (.park, s.pt (dieOfCore t.core) + 10000000), parking := true } ∧ u.mem = s.mem) ∧
      (c.parked = false → c.escrow = none → exec (.contextUnpark ctx) s = .next s) ∧
      (c.parked = true → c.escrow = none → ∃ u, exec (.contextUnpark ctx) s = .next u ∧
        u.ctxAt ctx = some { c with parked := false } ∧ u.mem = s.mem ∧
        ∀ n v b, tget none s.work.saved n = some v → v.tt.ctx = ctx → v.park = true → s.energy.grade < 2 →
          s.blockAt v.tt.block = some b → b.ctx = ctx → tget none u.work.saved n = some { v with due := true }))

/-- R304-R310: a debug stop, a dump and a trigger have an effect on debuggable contexts only. A debug stop asks every tile task
of the context to stop with no grace, and stops its conductor cores; armed, it waits for a BRK of the context (that a number from 64 on arms
it is the model's, log entry 101); a dump reads the header, the fault log and the spill list of the context area, and the save records, once their homes are free, and
changes nothing else but what its reads leave in the L2 slices and the park-tier channels; a trigger that is on records its head, with its position and pc, in the trace buffer of its die, or counts a record
that finds it full. -/
def Obligations.DebugRequests : Prop :=
  ∀ (s : State) (ctx t : Nat),
    (s.debuggable ctx = false → exec (.dump ctx) s = .next s ∧
      (ctx < 64 → exec (.debugStop ctx) s = .next s ∧ exec (.debugStop (64 + ctx)) s = .next s)) ∧
    (∀ c, s.ctxAt ctx = some c → ctx < 64 → c.debuggable = true → ∃ u, exec (.debugStop (64 + ctx)) s = .next u ∧
      u.ctxAt ctx = some { c with armed := true } ∧ (∀ k, k ≠ ctx → u.ctxAt k = s.ctxAt k) ∧ u.work = s.work ∧
      u.strands = s.strands ∧ u.mem = s.mem) ∧
    (s.debuggable ctx = true → ctx < 64 → ∃ u, exec (.debugStop ctx) s = .next u ∧ u.strands = s.strands ∧ u.mem = s.mem ∧
      u.cores = s.cores ∧
      (∀ n y, s.ttAt n = some y → y.request = none → y.saving = false →
        u.ttAt n = some (if y.ctx = ctx ∧ y.failing = false then { y with request := some (.debug, 0), cutting := true } else y)) ∧
      (∀ k g i y, k < 16 → (s.condAt k).task = some (g, i) → s.graphAt g = some y → y.ctx = ctx → (u.condAt k).stopped = true)) ∧
    (∀ c, s.ctxAt ctx = some c → c.debuggable = true → (∀ y ∈ s.work.tts, ∀ z, y.2 = some z → z.ctx ≠ ctx) →
      let a := (tget 0 s.mem.areas ctx).toNat
      let part (off n : Nat) : List Byte := (List.range n).map fun k => s.mem.readByte (a + off + k)
      (s.rangeHeld false a 4096 = true → exec (.dump ctx) s = .next s) ∧
      (s.rangeHeld false a 4096 = false → s.rangeHeld false (a + c.flogOff) (64 * c.flogCap) = false →
      s.rangeHeld false (a + c.spillOff) (16 * c.spillCap) = false →
      (∀ x ∈ s.work.saved, ∀ v, x.2 = some v → v.tt.ctx = ctx → s.rangeHeld false (s.heapBase ctx + v.heapAt) v.size = false) →
      ∃ u recs, exec (.dump ctx) s = .next u ∧
        (let m := { u.mem with l2Sets := s.mem.l2Sets, chanAccess := s.mem.chanAccess, refresh := s.mem.refresh }
         { u with dbg := s.dbg, mem := m } = s) ∧
        u.dbg.dumped = part 0 4096 ++ part c.flogOff (64 * c.flogCap) ++ part c.spillOff (16 * c.spillCap) ++ recs ∧
        (s.work.saved = [] → recs = []))) ∧
    (let x := s.triggerAt t
     let core := x.sel.toNat % 256
     let h := x.sel.toNat / 256 % 16
     let die := core / 32
     (x.ctl.getLsbD 0 = false ∨ s.debuggable (x.ctl.toNat / 8 % 64) = false → exec (.triggerMatch t) s = .next s) ∧
     (t < 8 → x.ctl.getLsbD 0 = true → x.ctl.toNat / 2 % 4 = 0 → h ≤ 14 → s.debuggable (x.ctl.toNat / 8 % 64) = true →
       s.headCtx core h = some (x.ctl.toNat / 8 % 64) → (x.active = true ∨ x.start.toNat % 256 = 1) →
       let l := tget [] s.dbg.trace die
       ∃ u, exec (.triggerMatch t) s = .next u ∧ { u with dbg := s.dbg } = s ∧
         (l.length < 2048 → ∃ r, tget [] u.dbg.trace die = l ++ [r] ∧ r.pt = s.pt die ∧ r.queue = 16 * core + h ∧
           r.position = s.headPos core h ∧ (h < 8 → ∀ st, s.strandAt (8 * core + h) = some st → r.pc = st.pc) ∧ r.trigger = t ∧ r.cls = (s.headClass core h).num ∧ u.dbg.drop = s.dbg.drop) ∧
         (2048 ≤ l.length → u.dbg.trace = s.dbg.trace ∧
           tget 0 u.dbg.drop die = min (tget 0 s.dbg.drop die + 1) (2 ^ 32 - 1))))

/-! Energy (R313-R324). -/

/-- R318-R320, R4, R313, R324: a sample adds the meters' sum and c to the window; a window that ends is counted as a deviation where the
mean of p lies outside both 2 % and 20 W of the mean of c, and outside the facility's band of the record in force, unless it is exempt; the
counts are cleared by a write. A region takes the frequency and voltage of what runs on it; a die on which nothing runs is gated, and
ungated once its regions have powered up; a region's first failed block lowers its ceiling to code 60 and is reported, its second asks its
tile tasks to move, after which its cores are no longer present; every change of a feed is noted, and the loss of both takes the power,
which alone returns it with nothing but the accepted sequence and what flash holds. The model's choices here are: what memory, PT and the
work of the machine are at power-on (log entries 2, 4 and 27), that samples are taken and windows end at multiples of their periods only (77),
and that a die gates without the 2 us of its sequence and a region goes dark once no task runs on it (80). -/
def Obligations.Power : Prop :=
  (∀ (s : State) (power idle : Nat) (est : List (Nat × Nat × Nat × Nat)),
     let e := s.energy
     let c := s.curveAt (s.pt 9)
     (s.time.base % 1000 ≠ 0 → exec (.meterSample power idle est) s = .next s) ∧
     (s.time.base % 1000 = 0 → ∃ u, exec (.meterSample power idle est) s = .next u ∧ { u with energy := e } = s ∧
       u.energy.winP = e.winP + power ∧ u.energy.winC = e.winC + c ∧ u.energy.winN = e.winN + 1 ∧
       u.energy.hist = ((power, c) :: e.hist).take 100 ∧ u.energy.idle = idle ∧ u.energy.est = est ∧
       (e.winExempt = true → u.energy.winExempt = true) ∧ u.energy.headroom = e.headroom ∧ u.energy.grade = e.grade) ∧
     (s.time.base % 1000000 ≠ 0 → exec .powerWindowEnd s = .next s) ∧
     (s.time.base % 1000000 = 0 → 0 < e.winN → ∃ u, exec .powerWindowEnd s = .next u ∧ { u with energy := e } = s ∧
       let d := ((e.winP : Int) - e.winC).natAbs
       let out (share watts : Nat) : Prop := e.winExempt = false ∧ share * e.winC < 1000 * d ∧ watts * e.winN < d
       u.energy.powerMean = e.winP / e.winN ∧ u.energy.curveMean = e.winC / e.winN ∧ u.energy.winP = 0 ∧ u.energy.winC = 0 ∧
       u.energy.winN = 0 ∧ (out 20 20 → u.energy.bandDev = min (e.bandDev + 1) (2 ^ 32 - 1)) ∧
       (¬ out 20 20 → u.energy.bandDev = e.bandDev) ∧
       (s.curveIn (s.pt 9) = none → u.energy.bandFac = e.bandFac) ∧
       ∀ x, s.curveIn (s.pt 9) = some x → (out x.band x.bandFloor → u.energy.bandFac = min (e.bandFac + 1) (2 ^ 32 - 1)) ∧
         (¬ out x.band x.bandFloor → u.energy.bandFac = e.bandFac)) ∧
     exec .pwrbandClear s = .next { s with energy := { e with bandDev := 0, bandFac := 0 } }) ∧
  (∀ (s : State) (region die feed : Nat) (carries : Bool),
     let e := s.energy
     let put (x : Region) (u : State) : Prop := u.regionAt region = x ∧ (∀ r, r ≠ region → u.regionAt r = s.regionAt r) ∧
       u.mem = s.mem ∧ u.strands = s.strands
     let x := s.regionAt region
     (region < 128 → s.regionTasks region = [] →
       ∃ u, exec (.regionFrequencyChange region) s = .next u ∧ put { x with fcode := 0, vcode := 0 } u) ∧
     (∀ g t, region < 128 → s.regionTasks region = [(g, t)] →
       let f := min x.ceiling (opF (s.entryOf g t))
       ∃ u, exec (.regionFrequencyChange region) s = .next u ∧
         put { x with fcode := f, vcode := max (vmin f) (opV (s.entryOf g t)) } u) ∧
     (die ≤ 8 → e.gateQ = [] → e.gateBusy = none →
       (tget false e.gated die = false → s.dieBusy die = false → exec (.dieGate die) s =
         .next { s with energy := { e with gated := tset false e.gated die true } }) ∧
       (s.dieBusy die = true → exec (.dieGate die) s = .next s) ∧
       (tget false e.gated die = true → exec (.dieUngate die) s =
         .next { s with energy := { e with gateBusy := some (true, die) } }) ∧
       (tget false e.gated die = false → exec (.dieUngate die) s = .next s)) ∧
     (e.gateQ = [] → e.gateBusy = some (true, die) → exec (.dieUngateComplete die) s =
       .next { s with energy := { e with gated := tset false e.gated die false, gateBusy := none } }) ∧
     (e.gateBusy ≠ some (true, die) → exec (.dieUngateComplete die) s = .next s) ∧
     (region < 128 → x.fails = 0 → ∃ u n d, exec (.regulatorFault region) s = .next u ∧
       put { x with fails := 1, ceiling := min x.ceiling 60 } u ∧
       u.time.log = s.time.log ++ [.event Cause.regulatorFault.code n (s.pt 9) d]) ∧
     (region < 128 → x.fails = 1 → ∃ u, exec (.regulatorFault region) s = .next u ∧
       put { x with fails := 2, ceiling := min x.ceiling 60 } u ∧ ∀ n t, s.ttAt n = some t → t.saving = false → t.request = none →
         t.failing = false → t.core / 2 = region → u.ttAt n = some { t with request := some (.switch, s.pt (dieOfCore t.core)) }) ∧
     (region < 128 → 2 ≤ x.fails → x.dark = false → s.regionTasks region = [] → ∃ u, exec (.regionDark region) s = .next u ∧
       put { x with dark := true } u ∧ ∀ c, u.present c = if c / 2 = region then false else s.present c) ∧
     (x.fails < 2 → exec (.regionDark region) s = .next s) ∧
     (feed < 2 → tget false e.feedLost feed = carries → ∃ u, exec (.feedLoss feed carries) s = .next u ∧
       (∀ f, tget false u.energy.feedLost f = if f = feed then !carries else tget false e.feedLost f) ∧
       u.energy.powered = (e.powered && (carries || !tget false e.feedLost (1 - feed))) ∧ u.mem = s.mem ∧ u.work = s.work) ∧
     (tget false e.feedLost feed = !carries → exec (.feedLoss feed carries) s = .next s) ∧
     (e.powered = true → exec .powerOn s = .next s) ∧
     (e.powered = false → (tget false e.feedLost 0 = false ∨ tget false e.feedLost 1 = false) →
       ∃ u, exec .powerOn s = .next u ∧ u.energy.powered = true ∧ u.energy.accepted = e.accepted ∧
         u.mem = { MemState.init with
           spares := (s.host.nextFactory.getD s.host.cfg).repair.foldl (fun t x => tset 0 t x.1 x.2) MemState.init.spares } ∧
         u.strands = [] ∧ u.cores = [] ∧ u.ctxs = [] ∧ u.work = WorkState.init ∧ u.time = TimeState.init ∧
         u.host.image = s.host.image ∧ u.host.cfg = s.host.nextFactory.getD s.host.cfg))

/-- R314, R318, R321, R322: the BSU starts once, out of recovery; a re-plan leaves a headroom of the target less q, with q the idle power
and the estimates of the admitted tasks at their entries, and unless q is within the target no admitted task can be lowered any more. The
strongest grade whose threshold c(t) lies below is entered, and stays until c has stood at 102 % of its threshold for 10 ms without a break
up to that instant. On entry to
park every running tile task of a task of class 2 or 3 is asked to park; the first grade stops nothing. -/
def Obligations.Plan : Prop :=
  (∀ s : State,
     (s.energy.started = true → s.time.base % 100000 ≠ 0 → exec .replan s = .next s) ∧
     (s.energy.started = false → s.host.recovery = true → exec .replan s = .next s) ∧
     ((if s.energy.started then s.time.base % 100000 = 0 else s.host.recovery = false) →
       (s.ranked Task.counts).Nodup → (∀ x ∈ s.ranked Task.counts, ∀ y, s.taskAt x.1 x.2 = some y → y.info.ops.length ≤ 8) →
       let c := s.curveAt (s.pt 9)
       ∃ u, exec .replan s = .next u ∧ u.energy.started = true ∧
         let q : Int := s.energy.idle + (u.estOver (s.ranked Task.counts) (·.entry) : Nat)
         u.energy.trim ≤ (c / 20 : Nat) ∧ -(c / 20 : Nat) ≤ u.energy.trim ∧
         u.energy.headroom = s.curveAt (s.pt 9 + 100000) + u.energy.trim - q ∧
         (0 ≤ u.energy.headroom ∨ ∀ x ∈ s.ranked Task.counts, ∀ y, u.taskAt x.1 x.2 = some y → y.lower = none) ∧
         (∀ g t y, s.taskAt g t = some y → ∃ i, u.taskAt g t = some { y with entry := i } ∧
           ((g, t) ∉ s.ranked Task.counts → i = y.entry)) ∧
         u.mem = s.mem ∧ u.strands = s.strands ∧ u.cores = s.cores ∧ u.work.tts = s.work.tts)) ∧
  (∀ s : State,
     let c := s.curveAt (s.pt 9)
     let e := s.energy
     let below (g : Nat) : Prop := c < s.threshold g (s.pt 9)
     (¬ below 1 → ¬ below 2 → ¬ below 3 → exec .gradeEnter s = .next s) ∧
     (below 1 → ¬ below 2 → ¬ below 3 → e.grade = 0 → ∃ u, exec .gradeEnter s = .next u ∧ u.energy.grade = 1 ∧
       u.energy.lastStep = some (s.pt 9) ∧ u.work.tts = s.work.tts ∧ u.strands = s.strands ∧ u.mem = s.mem) ∧
     (below 2 → ¬ below 3 → e.grade < 2 → ∃ u, exec .gradeEnter s = .next u ∧ u.energy.grade = 2 ∧
       (∀ n t, s.ttAt n = some t → t.failing = false → t.saving = false → t.request = none →
         ∀ b x, s.blockAt t.block = some b → s.taskAt b.graph b.task = some x → x.info.cls = 2 ∨ x.info.cls = 3 →
           u.ttAt n = some { t with request := some (.park, s.pt (dieOfCore t.core) + 10000000), parking := true }) ∧
       u.strands = s.strands ∧ u.mem = s.mem) ∧
     (∀ g, e.grade = g + 1 →
       let above := tget none s.noteAbove.energy.above (g + 1)
       let leaves : Prop := ∃ u, exec .gradeLeave s = .next u ∧ u.energy.grade ≤ g ∧
         ((∀ x ∈ s.ctxs, ∀ y, x.2 = some y → y.escrow = none) → u.mem = s.mem ∧ u.strands = s.strands)
       (100 * c < 102 * s.threshold (g + 1) (s.pt 9) → exec .gradeLeave s = .next s) ∧
       (above = none → exec .gradeLeave s = .next s) ∧
       (∀ t, above = some t → s.pt 9 < t + 10000000 → exec .gradeLeave s = .next s) ∧
       (∀ t, above = some t → t + 10000000 ≤ s.pt 9 → leaves) ∧
       (∀ t, tget none e.above (g + 1) = some t → e.noted ≤ s.pt 9 →
         (∀ i, e.noted ≤ i → i ≤ s.pt 9 → 102 * s.threshold (g + 1) i ≤ 100 * s.curveAt i) → t + 10000000 ≤ s.pt 9 → leaves)) ∧
     (e.grade = 0 → exec .gradeLeave s = .next s))

/-- R317, R345: a datagram of type 1 holds a record after its header of 16 bytes, and one whose header is malformed, whose length disagrees
or whose type is another is discarded. A record that passes every check is accepted and answered with status 0; one that fails is answered
with the first check it fails and changes nothing else; an accepted record is later than every record accepted before and has not run out.
Before any record c is 3,000 W; between two points it is interpolated, rounded toward zero; after valid_to it is the last value, while no
newer record has been accepted. The latest record whose time has come takes effect. That a record is ignored in recovery is the model's choice
(log entry 81, DEDUCED). -/
def Obligations.CurveRecords : Prop :=
  (∀ (s : State) (header record data : List Byte) (sender seq : Nat),
    let run := exec (.curveRecord header record sender) s
    let datagram := header ++ record
    let reply (n a : Nat) : HostState := { s.host with sent := s.host.sent ++ [.curveReply sender seq n a] }
    (datagram.length < 16 ∨ 8192 < datagram.length ∨ leNat (datagram.take 4) ≠ 0x4B4D4731 ∨ leNat ((datagram.drop 4).take 2) ≠ 1 ∨
       leNat ((datagram.drop 6).take 2) ≠ 0 ∨ leNat ((datagram.drop 12).take 4) ≠ datagram.length - 16 → run = .next s) ∧
    (data.length ≤ 8176 → seq < 2 ^ 32 →
      datagram = leBytes 4 0x4B4D4731 ++ leBytes 2 1 ++ leBytes 2 0 ++ leBytes 4 seq ++ leBytes 4 data.length ++ data →
      (s.host.recovery = true → run = .next s) ∧
      (s.host.recovery = false → ∀ n, s.checkCurve data = .inl n → run = .next { s with host := reply n 0 }) ∧
      (s.host.recovery = false → ∀ c, s.checkCurve data = .inr c → ∃ noted above,
        run = .next { s with
          host := reply 0 c.seq
          energy := { s.energy with
            pending := s.energy.pending ++ [c], accepted := c.seq, anyAccepted := true, sender := some sender
            noted := noted, above := above } }))) ∧
  (∀ (s : State) (data : List Byte),
    (∀ c, s.checkCurve data = .inr c →
      s.energy.accepted < c.seq ∧ s.pt 9 < c.validTo ∧ c.validFrom < c.validTo ∧ c.tpark ≤ c.tslow ∧ c.tshed ≤ c.tpark ∧
      c.effect = max c.validFrom (s.pt 9)) ∧
    (data.length < 240 → s.checkCurve data = .inl 1) ∧
    (s.energy.curve = none → s.energy.pending = [] → ∀ t, s.curveAt t = 3000) ∧
    (∀ c t, s.curveIn t = some c →
      ((∃ x ∈ s.energy.pending, c.seq < x.seq) → s.curveAt t = c.at_ true t) ∧
      ((∀ x ∈ s.energy.pending, x.seq ≤ c.seq) → s.curveAt t = c.at_ false t)) ∧
    (∀ (c : Curve) (newer : Bool) (a b : Nat × Nat) (t : Nat), c.points = [a, b] → a.1 < b.1 →
      (newer = true ∨ t ≤ c.validTo →
        (t ≤ a.1 → c.at_ newer t = a.2) ∧ (b.1 ≤ t → c.at_ newer t = b.2) ∧
        (a.1 < t → t < b.1 → c.at_ newer t = (a.2 * (b.1 - t) + b.2 * (t - a.1)) / (b.1 - a.1))) ∧
      (newer = false → c.validTo < t → c.at_ newer t = b.2)) ∧
    ((∀ c ∈ s.energy.pending, s.pt 9 < c.effect) → exec .curveTakeEffect s = .next s) ∧
    ((∃ c ∈ s.energy.pending, c.effect ≤ s.pt 9) → ∃ u c, exec .curveTakeEffect s = .next u ∧ u.energy.curve = some c ∧
      (c ∈ s.energy.pending ∨ s.energy.curve = some c) ∧
      (∀ x ∈ s.energy.pending, x.effect ≤ s.pt 9 → x.seq ≤ c.seq) ∧ (∀ x, s.energy.curve = some x → x.seq ≤ c.seq) ∧
      (∀ x, x ∈ u.energy.pending ↔ x ∈ s.energy.pending ∧ s.pt 9 < x.effect) ∧ u.mem = s.mem ∧ u.strands = s.strands))

/-! The ports (R9, R325-R327, R342-R345). -/

/-- R9, R342, R343, R299, R308, R330, R338, R345: writes of the host's registers, and its accesses to overlay and record memory and, through
the aperture, to physical memory. A write to BAR 0 of another size than eight bytes, or misaligned, is ignored, and counted as rejected on
SUBMIT; a register reads byte by byte, and other offsets read 0 (that BAR 0 stands at offset 2^24 of the access to BAR 1 is the model's, log
entry 107). An unbacked byte reads 0xFF and a write to one is discarded; a read waits for its home, and so does a write, or for a frame that
moves. What comes to the management port: ARP, ICMP and DHCP for the port's own address, requests for a report, in datagrams of type 3 with a
payload of 40 bytes, all others being discarded, and writes of management registers. That a request in recovery is ignored is the model's
choice (log entry 81, DEDUCED), and so is that MGMT_REGISTER_WRITE covers CTXAREA, LNKCTL, LNKSTAT and the triggers (log entry 82, DEDUCED). -/
def Obligations.Ports : Prop :=
  (∀ (s : State) (v : W64) (off : Nat) (data : List Byte),
     exec .substatClear s = .next { s with host := { s.host with dropped := 0, rejected := 0 } } ∧
     (v.toNat % 2 ^ 34 = 0 → exec (.apertureWrite v) s =
       .next { s with host := { s.host with aperture := BitVec.ofNat 64 (v.toNat % 2 ^ 52) } }) ∧
     (v.toNat % 2 ^ 34 ≠ 0 → exec (.apertureWrite v) s = .next s) ∧
     (∃ w : W64, exec (.killedClear v) s = .next { s with host := { s.host with killed := w } } ∧
       ∀ k < 64, w.getLsbD k = (s.host.killed.getLsbD k && !(v.getLsbD k))) ∧
     (off + data.length ≤ 2 ^ 23 →
       (∃ u, exec (.hostBar1Access true off data) s = .next u ∧ u.mem.bytes = s.mem.bytes ∧ u.mem.record = s.mem.record ∧
         ∀ a, tget 0 u.mem.overlay a = if off ≤ a ∧ a < off + data.length then (data[a - off]?).getD 0 else tget 0 s.mem.overlay a) ∧
       (∃ u, exec (.hostBar1Access false off data) s = .next u ∧ u.mem = s.mem ∧
         u.host.lastRead = ((List.range data.length).map fun k => tget 0 s.mem.overlay (off + k), false))) ∧
     (2 ^ 23 ≤ off → off + data.length ≤ 2 ^ 23 + 2 ^ 22 →
       (∃ u, exec (.hostBar1Access true off data) s = .next u ∧ u.mem.bytes = s.mem.bytes ∧ u.mem.overlay = s.mem.overlay ∧
         ∀ a, tget 0 u.mem.record a = if off ≤ a + 2 ^ 23 ∧ a + 2 ^ 23 < off + data.length then (data[a + 2 ^ 23 - off]?).getD 0
           else tget 0 s.mem.record a) ∧
       (∃ u, exec (.hostBar1Access false off data) s = .next u ∧ u.mem = s.mem ∧
         u.host.lastRead = ((List.range data.length).map fun k => tget 0 s.mem.record (off + k - 2 ^ 23), false))) ∧
     (let at_ (k : Nat) : Nat := 2 ^ 24 + k
      let put (k : Nat) (bs : List Byte) : Instr := .hostBar1Access true (at_ k) bs
      exec (put 8 (leBytes 8 v.toNat)) s = exec .substatClear s ∧
      exec (put 0x10 (leBytes 8 v.toNat)) s = exec (.apertureWrite v) s ∧
      exec (put 0x28 (leBytes 8 v.toNat)) s = exec (.killedClear v) s ∧
      (8 ≤ off → off + data.length ≤ 4096 → data.length ≠ 8 ∨ off % 8 ≠ 0 → exec (put off data) s = .next s) ∧
      (off < 8 → data.length ≠ 8 ∨ off ≠ 0 → 0 < data.length → data.length < 4000 → exec (put off data) s =
        .next { s with host := { s.host with rejected := min (s.host.rejected + 1) 65535 } }) ∧
      (off + data.length ≤ 4096 → ∃ u, exec (.hostBar1Access false (at_ off) data) s = .next u ∧
        { u with host := { u.host with lastRead := s.host.lastRead } } = s ∧ u.host.lastRead.1.length = data.length ∧
        ∀ k, k < data.length → ((0x10 ≤ off + k → off + k < 0x18 →
            u.host.lastRead.1[k]? = (leBytes 8 s.host.aperture.toNat)[off + k - 0x10]?) ∧
          (0x28 ≤ off + k → off + k < 0x30 → u.host.lastRead.1[k]? = (leBytes 8 s.host.killed.toNat)[off + k - 0x28]?) ∧
          (0x30 ≤ off + k → u.host.lastRead.1[k]? = some 0)))) ∧
     (off + data.length ≤ 2 ^ 34 → s.host.recovery = false →
       let a := s.host.aperture.toNat + off
       let backed (k : Nat) : Bool := (s.mem.homeDie (a + k)).isSome
       (s.rangeHeld false a data.length = false → ∃ u, exec (.hostBar2Access false off data) s = .next u ∧ u.mem.bytes = s.mem.bytes ∧
         u.host.lastRead.1 = (List.range data.length).map fun k => if backed k then s.mem.readByte (a + k) else 0xFF) ∧
       (s.rangeHeld false a data.length = true → exec (.hostBar2Access false off data) s = .next s) ∧
       (s.host.writes = [] → (∃ k, k < data.length ∧ backed k = true ∧ s.mem.bounces (a + k) = true) →
         exec (.hostBar2Access true off data) s = .next { s with host := { s.host with writes := [(a, data)] } }) ∧
       (s.host.writes = [] → s.rangeHeld true a data.length = false →
         ∃ u, exec (.hostBar2Access true off data) s = .next u ∧ u.host.writes = [] ∧ ∀ b, u.mem.byteAt b =
         if a ≤ b ∧ b < a + data.length ∧ backed (b - a) = true ∧ s.mem.discards b = false then (data[b - a]?).getD 0
         else s.mem.byteAt b)) ∧
     (off + data.length ≤ 2 ^ 20 → s.host.recovery = true →
       (∃ u, exec (.hostBar2Access false off data) s = .next u ∧ u.mem = s.mem ∧
         u.host.lastRead.1 = (List.range data.length).map fun k => tget 0 s.mem.mgmt (off + k)) ∧
       (∃ u, exec (.hostBar2Access true off data) s = .next u ∧ u.mem.bytes = s.mem.bytes ∧ ∀ b, tget 0 u.mem.mgmt b =
         if off ≤ b ∧ b < off + data.length then (data[b - off]?).getD 0 else tget 0 s.mem.mgmt b))) ∧
  (∀ (s : State) (ip mask gateway sender seq : Nat) (data header p q r : List Byte) (v : W64),
     let h := s.host
     let datagram := header ++ p ++ q ++ r
     let mine : Prop := ∃ m g, h.address = some (ip, m, g)
     let sends (m : Message) : State := { s with host := { h with sent := h.sent ++ [m] } }
     (mine → exec (.arpRequest ip sender) s = .next (sends (.arp sender ip)) ∧
       exec (.icmpEcho ip sender data) s = .next (sends (.echo sender data))) ∧
     (¬ mine → exec (.arpRequest ip sender) s = .next s ∧ exec (.icmpEcho ip sender data) s = .next s) ∧
     (h.cfg.ip = none → exec (.dhcp ip mask gateway) s = .next { s with host := { h with address := some (ip, mask, gateway) } }) ∧
     (h.cfg.ip ≠ none → exec (.dhcp ip mask gateway) s = .next s) ∧
     (h.recovery = true → exec (.attestationMessage header p q r sender) s = .next s) ∧
     (datagram.length ≠ 56 ∨ leNat (datagram.take 4) ≠ 0x4B4D4731 ∨ leNat ((datagram.drop 4).take 2) ≠ 3 ∨
       leNat ((datagram.drop 6).take 2) ≠ 0 ∨ leNat ((datagram.drop 12).take 4) ≠ 40 →
       exec (.attestationMessage header p q r sender) s = .next s) ∧
     (∀ ctx res nonce, seq < 2 ^ 32 → ctx < 2 ^ 32 → res < 2 ^ 32 → nonce.length = 32 → h.recovery = false →
       datagram = leBytes 4 0x4B4D4731 ++ leBytes 2 3 ++ leBytes 2 0 ++ leBytes 4 seq ++ leBytes 4 40 ++ leBytes 4 ctx ++
         leBytes 4 res ++ nonce →
       (s.ctxAt ctx = none → exec (.attestationMessage header p q r sender) s = .next (sends (.refusal sender seq))) ∧
       (∀ c, s.ctxAt ctx = some c → ∃ u bs,
         exec (.attestationMessage header p q r sender) s = .next u ∧ u.host.sent = h.sent ++ [.report sender seq bs] ∧
           u.host.signatures = h.signatures + 1 ∧ u.mem = s.mem ∧ (bs.drop 32).take 32 = nonce ∧ bs.length = 256)) ∧
     (∀ n, n < 64 → ∃ u, exec (.mgmtRegisterWrite (BitVec.ofNat 12 (0xC80 + n)) v) s = .next u ∧
       (∀ k, tget 0 u.mem.areas k = if k = n then v else tget 0 s.mem.areas k) ∧ u.mem.bytes = s.mem.bytes) ∧
     (∀ l, l < 34 → v.getLsbD 4 = true → ∃ u, exec (.mgmtRegisterWrite (BitVec.ofNat 12 (0xE41 + 4 * l)) v) s = .next u ∧
       u.linkAt l = { s.linkAt l with svc := false } ∧ (∀ m, m ≠ l → u.linkAt m = s.linkAt m) ∧ u.mem = s.mem) ∧
     (∀ t, t < 8 →
       (∃ u, exec (.mgmtRegisterWrite (BitVec.ofNat 12 (0xD00 + 4 * t)) v) s = .next u ∧
         u.triggerAt t = { s.triggerAt t with ctl := BitVec.ofNat 64 (v.toNat % 512) } ∧
         ∀ k, k ≠ t → u.triggerAt k = s.triggerAt k) ∧
       (∃ u, exec (.mgmtRegisterWrite (BitVec.ofNat 12 (0xD01 + 4 * t)) v) s = .next u ∧
         u.triggerAt t = { s.triggerAt t with start := v }) ∧
       (∃ u, exec (.mgmtRegisterWrite (BitVec.ofNat 12 (0xD02 + 4 * t)) v) s = .next u ∧
         u.triggerAt t = { s.triggerAt t with stop := v }) ∧
       (∃ u, exec (.mgmtRegisterWrite (BitVec.ofNat 12 (0xD03 + 4 * t)) v) s = .next u ∧
         u.triggerAt t = { s.triggerAt t with
           sel := BitVec.ofNat 64 (v.toNat % 4096 + v.toNat / 2 ^ 32 * 2 ^ 32) })))

/-- R325-R327, R344: a write of CFGCMD starts its command, is ignored while one is busy, and is rejected where it is malformed; the command
then ends, once the homes of its staging area are reached, as done, or rejected with the number of the first check that failed, which leaves
flash as it was: the padding of the length is part of the first check. In recovery an image that passes is run and in flash. An attestation
report begins with its version, its context and the device, and stands 128 bytes after the staging address. Beside this the command leaves
what its reads leave in the L2 slices and the park-tier channels. That an attestation command in recovery is rejected with step 0 is the
model's choice (log entry 81, DEDUCED). -/
def Obligations.Configuration : Prop :=
  ∀ (s : State) (v : W64),
    let h := s.host
    let cmd := v.toNat % 16
    let good : Prop := 1 ≤ cmd ∧ cmd ≤ 3 ∧ v.toNat / 16 % 4 = 0 ∧ v.toNat / 2 ^ 52 = 0
    let all (t : State) : Prop := exec (.cfgInstallSection v) s = .next t ∧ exec (.cfgInstallFirmware v) s = .next t ∧
      exec (.cfgAttestation v) s = .next t
    (h.cfgstate = 1 → all s) ∧
    (h.cfgstate ≠ 1 → ¬ good → all { s with host := { h with cfgstate := 3, cfgstep := 0 } }) ∧
    (h.cfgstate ≠ 1 → good →
      let busy : State := { s with host := { h with cfgcmd := v, cfgstate := 1, cfgstep := 0 } }
      (cmd = 1 → exec (.cfgInstallSection v) s = .next busy) ∧ (cmd = 2 → exec (.cfgInstallFirmware v) s = .next busy) ∧
      (cmd = 3 → h.recovery = false → exec (.cfgAttestation v) s = .next busy) ∧
      (cmd = 3 → h.recovery = true →
        exec (.cfgAttestation v) s = .next { s with host := { h with cfgcmd := v, cfgstate := 3, cfgstep := 0 } })) ∧
    (h.cfgstate ≠ 1 → exec .cfgCommandDone s = .next s) ∧
    (let a := h.cfgcmd.toNat / 64 % 2 ^ 46 * 64
     let bs := s.stagedObject a
     let untouched (u : State) : State :=
       let m := { u.mem with l2Sets := s.mem.l2Sets, chanAccess := s.mem.chanAccess, refresh := s.mem.refresh }
       { u with mem := m }
     let ends (st step : Nat) (u : State) : Prop := u.host.cfgstate = st ∧ u.host.cfgstep = step
     let rejects (step : Nat) : Prop := ∃ u, exec .cfgCommandDone s = .next u ∧
       untouched u = { s with host := { h with cfgstate := 3, cfgstep := step } }
     h.cfgstate = 1 → (s.stagingHeld a = true → exec .cfgCommandDone s = .next s) ∧ (s.stagingHeld a = false →
     (h.cfgcmd.toNat % 16 = 1 ∨ h.cfgcmd.toNat % 16 = 2 → (∃ k, k < 60 ∧ (s.staged (a + 4) 60)[k]? ≠ some 0) → rejects 1) ∧
     (h.cfgcmd.toNat % 16 = 1 → (∀ k, k < 60 → (s.staged (a + 4) 60)[k]? = some 0) →
       (Config.factoryOf bs = none → Config.ownerOf bs = none → rejects 1) ∧
       (∀ f, Config.factoryOf bs = some f → factoryOk f = false → rejects 2) ∧
       (∀ f, Config.factoryOf bs = some f → factoryOk f = true → f.device ≠ leNat deviceId → rejects 3) ∧
       (∀ f, Config.factoryOf bs = some f → factoryOk f = true → f.device = leNat deviceId → h.recovery = false →
         ∃ u c, exec .cfgCommandDone s = .next u ∧ ends 2 0 u ∧ u.host.nextFactory = some c ∧ c.factory = bs ∧
           u.host.cfg = h.cfg ∧ (untouched u).mem = s.mem)) ∧
     (h.cfgcmd.toNat % 16 = 2 → (∀ k, k < 60 → (s.staged (a + 4) 60)[k]? = some 0) →
       (Config.imageOf bs = none → rejects 1) ∧
       (∀ i, Config.imageOf bs = some i → imageOk i = false → rejects 2) ∧
       (∀ i, Config.imageOf bs = some i → imageOk i = true →
         (h.recovery = false → ∃ u, exec .cfgCommandDone s = .next u ∧
           untouched u = { s with host := { h with image := bs, cfgstate := 2, cfgstep := 0 } }) ∧
         (h.recovery = true → ∃ u, exec .cfgCommandDone s = .next u ∧ ends 2 0 u ∧ u.host.image = bs ∧ u.host.running = bs ∧
           u.host.cfg = h.cfg ∧ u.host.recovery = !h.cfg.ok))) ∧
     (h.cfgcmd.toNat % 16 = 3 →
       let n := leNat ((s.staged (a + 64) 64).take 1)
       (s.ctxAt n = none → rejects 1) ∧
       (∀ c, s.ctxAt n = some c → (∀ k, k < 256 → s.mem.discards (a + 128 + k) = false) →
         ∃ u, exec .cfgCommandDone s = .next u ∧ ends 2 0 u ∧ u.host.signatures = h.signatures + 1 ∧
           leNat ((List.range 4).map fun k => u.mem.byteAt (a + 128 + k)) = 1 ∧
           leNat ((List.range 4).map fun k => u.mem.byteAt (a + 132 + k)) =
             n + (if c.debuggable then 256 else 0) + (if c.privileged then 512 else 0) ∧
           ((List.range 16).map fun k => u.mem.byteAt (a + 136 + k)) = deviceId ∧
           leNat ((List.range 8).map fun k => u.mem.byteAt (a + 152 + k)) = s.pt 9 % 2 ^ 64))))

/-! The machine as a whole (R135-R137, R154-R159, R324). -/

/-- R135, R136, R158, R159, R155-R157, R324: a step whose turn is a strand's runs the word that the bytes at its pc decode to: the word acts
on the state that time and the fetch leave, with the strand as it stands there. What it answers decides the step: a transfer goes to its
target, a word that falls through or joins no other word leaves the strand at the next word, a wait or an end leaves the strand there, and a
trap is the group's. A step whose turn is an event's is exec of that event once time has passed; one whose turn is a conductor core's runs
the slots of its word in order, where each of them issues, and a transfer is taken after the last; and without power a step is a fault,
unless its turn is that of the power itself. A turn of words on a path that is squashed (R49) changes no strand's work, no time and nothing
that the package schedules. Which agent has a turn is data of the state, by the model's choice (log entry 1, DESIGN CHOICE), and so are the
order in which the slots of a word act on record memory (log entries 54, DEDUCED, and 110, DESIGN CHOICE) and how a strand predicts (log entry
114, DESIGN CHOICE). -/
def Obligations.StepRuns : Prop :=
  (∀ (s s1 : State) (n : Nat) (st : Strand) (us : List W32) (i : Instr), s.energy.powered = true → s.turn.act = .strand n →
     let b := s.beginTurn
     let core := coreOfStrand n
     let held (k : Nat) : Bool := b.walkHeld (dieOfCore core) (some core) (b.ctxOfStrand n) st.pc k
     b.strandAt n = some st → st.ended = false → st.stop = none → st.ctlFetch = false → (∀ y, b.ttAt st.tt = some y → y.acquiring = []) →
     b.stopDue n st = none → b.pcStop n st = none → held 4 = false → held (4 * us.length) = false →
     b.fetchHeld core (b.ctxOfStrand n) st.pc us.length = false →
     b.fetchWord core (b.ctxOfStrand n) st.pc = .ok us s1 → s1.strandAt n = some st → decodeUnits us = .ok i →
     st.inLoops st.pc us = i →
     let len := 4 * us.length
     let e : State := { s1.enterGroup n with slot := ⟨st.pc, len, true⟩ }
     e.acts n st ∧ e.mem = s1.mem ∧ ∀ t, exec i e = .next t →
       (t.verdict = .ended → step s = .next t.leaveGroup) ∧
       (∀ w, t.verdict = .waits w →
         step s = .next (t.blocked n (w.orElse fun _ => (s1.enterGroup n).otherSem n st i len))) ∧
       (∀ c r, t.verdict = .trapped c r →
         step s = .next ({ s1.enterGroup n with mem := t.mem, ctxs := t.ctxs }.groupTrap t n c r st.handler st.pc st.pc len)) ∧
       (engineHead i = none → ∀ x, t.verdict = .issued x →
         (x ≠ none ∨ barred i = true ∨ ∀ j l t2, t.find n (st.pc + BitVec.ofNat 64 len) = .word j l t2 →
           joins st (((s1.ttAt st.tt).map (·.vnames)).getD 0) st.pc i j = false) →
         let u := t.leaveGroup.finishGroup n st.handler st.pc len x
         step s = .next u ∧ ∀ st1, t.strandAt n = some st1 → st1.ended = false →
           ((s1.ttAt st.tt).bind (·.request)).isNone = true → t.work.tts = s1.work.tts → st1.tt = st.tt →
           u.mem = t.mem ∧ ∃ st2, u.strandAt n = some st2 ∧ st2.g = st1.g ∧ st2.vn = st1.vn ∧ st2.groups = st1.groups + 1 ∧
             (∀ a, x = some a → st2.pc = a) ∧
             (x = none → st.handler = true ∨ (activeLevels st1.loops = [] ∧ ∀ y ∈ st1.loops, y.2.left = 0) → st2.pc = st.pc + BitVec.ofNat 64 len))) ∧
  (∀ s : State,
     (∀ i, s.energy.powered = true → s.turn.act = .event i → step s = exec i s.beginTurn) ∧
     (∀ n a k, s.energy.powered = true → s.turn.act = .stray n a k → let b := s.beginTurn
       ∃ u, step s = .next u ∧ u.work = b.work ∧ u.time = b.time ∧ u.energy = b.energy ∧ u.host = b.host ∧ u.links = b.links ∧
         (∀ m, (u.coreAt m).spm = (b.coreAt m).spm ∧ (u.coreAt m).queues = (b.coreAt m).queues ∧ (u.coreAt m).sync = (b.coreAt m).sync)) ∧
     (s.energy.powered = false → (∀ f c, s.turn.act ≠ .event (.feedLoss f c)) → s.turn.act ≠ .event .powerOn →
       step s = .fault .powerOff) ∧
     (∀ f c, s.turn.act = .event (.feedLoss f c) → step s = exec (.feedLoss f c) s.beginTurn) ∧
     (s.turn.act = .event .powerOn → step s = exec .powerOn s.beginTurn) ∧
     (∀ k g t l, s.energy.powered = true → s.turn.act = .conductor k →
       let b := s.beginTurn
       let c := b.condAt k
       c.task = some (g, t) → c.swapping = false → c.stopped = false → b.inOverlay g t c.pc = true →
       slotsOf (b.fetchSlots c.pc.toNat) = .ok l →
       let e := b.enterWord k c.pc
       let issues (a : Option (State × Option W64)) (i : Instr) : Option (State × Option W64) := a.bind fun y =>
         match exec i y.1 with
         | .next u => match u.verdict with
           | .issued x => some (u, x.orElse fun _ => y.2)
           | _ => none
         | _ => none
       e.conducts k ∧ e.slot.addr = c.pc ∧ ∀ u x, l.foldl issues (some (e, none)) = some (u, x) →
         step s = .next ({ u with view := none }.finishWord k c.run c.pc x)))

/-- R135-R153, R157: words written out from the manual's encodings, and what they decode to. -/
def Obligations.WordsDecode : Prop :=
  decodeUnits [0x04010804] = .ok (.addi 8 8 512) ∧
  decodeUnits [0x80204920] = .ok (.ld .w 9 2 16) ∧
  decodeUnits [0x14210802] = .ok (.shli 8 8 40) ∧
  decodeUnits [0x0050416C] = .ok (.loop 1 16 5) ∧
  decodeUnits [0xFFFF8966] = .ok (.bnz 9 (-4)) ∧
  decodeUnits [0x0021007A] = .ok (.mts 0x011 8) ∧
  decodeUnits [0x4BDAB46A] = .ok (.exit 4 20 21 22 23) ∧
  decodeUnits [0x1FDAF400] = .ok (.stPm .w 20 23 22) ∧
  decodeUnits [0x0000A081, 0x00010020, 0x10508060] = .ok (.vfadd ⟨8, 2, 0, 0x801, 0, 0, false, 0, 3, 4, 5, 1⟩) ∧
  decodeUnits [0x0C020201, 0x00000200, 0] = .ok (.vld ⟨0, 8, 6, 16, 0, 0, false, 0, 0, 0, 0, 0⟩) ∧
  decodeUnits [0x04000083, 0x58C2A800, 0, 0, 0, 0] =
    .ok (.cpy ⟨0, 0, 0, 2, false, 0, 0⟩ ⟨0, false, true, 12, 12, 5, 10, 0⟩) ∧
  decodeUnits [0x0004000B, 0x02800000, 0xA1000202, 0xFFF0000A, 0, 0] =
    .ok (.mmaz ⟨0, 1, 0, 0, false, 0, 0⟩ ⟨63, 63, false, 0, 0, false, 10, 10, 1, 0, true, 64, 10⟩) ∧
  decodeDieOp 1 0x00012C05 = .ok (some (.push 1 1 0x12C0)) ∧ decodeCdOp 0x00000049 = .ok (some (.launch 9)) ∧
  decodeUnits [0x00000003] = .error .illegal ∧ decodeUnits [0x00000100] = .error .reserved

/-- R135-R153, R157: every well-formed word decodes, from its encoding, to the instruction it was made from, whatever follows it; the
micro-ops of a conductor word likewise. -/
def Obligations.EncodingRoundTrip : Prop :=
  (∀ (i : Instr) (rest : List W32), i.wf = true → encode i ≠ [] → decodeUnits (encode i ++ rest) = .ok i) ∧
  (∀ i u, i.wf = true → encodeMicro i = some u →
    (∃ d, decodeDieOp d u = .ok (some i)) ∨ decodeCdOp u = .ok (some i))

/-- R135, R137: a word has one encoding: what a strand's units decode to is well formed, and its encoding is those units. -/
def Obligations.EncodingUnique : Prop :=
  ∀ (us : List W32) (i : Instr), decodeUnits us = .ok i → i.wf = true ∧ encode i = us.take (encode i).length ∧ encode i ≠ []

/-- R7, R114: every step keeps memory in its canonical form: addresses rising, and no byte listed that an unlisted address reads as. -/
def Obligations.StepKeepsMemory : Prop :=
  ∀ s t : State, s.Inv → step s = .next t → t.Inv

/-- R54, R57, R308, R317, R325, R330, R343: what the manual gives for power-on. The form of memory that every step keeps holds there. (That
every core is present, and that memory reads 0, are the model's: log entries 2 and 3.) -/
def Obligations.ResetState : Prop :=
  let s := State.reset
  s.Inv ∧ s.strands = [] ∧ s.ctxs = [] ∧ s.work.graphs = [] ∧ s.time.base = 0 ∧ (∀ d, s.pt d = 0) ∧ s.time.locked = false ∧
  s.time.offset = 0 ∧ s.time.slipth = 4096 ∧ (∀ d, tget 0 s.time.fslip d = 0) ∧ s.time.framelen = 1048576 ∧ s.time.frameno = 0 ∧
  s.time.framestart = 0 ∧ s.time.tslipCount = 0 ∧ s.time.tslipLast = 0 ∧ (∀ t, s.curveAt t = 3000) ∧ s.energy.grade = 0 ∧
  s.energy.accepted = 0 ∧ s.energy.bandDev = 0 ∧ s.energy.bandFac = 0 ∧ s.host.submits = [] ∧ s.host.dropped = 0 ∧
  s.host.rejected = 0 ∧ s.host.aperture = 0 ∧ s.host.killed = 0 ∧ s.host.cfgcmd = 0 ∧ s.host.cfgstate = 0 ∧
  (∀ t, (s.triggerAt t).ctl = 0 ∧ (s.triggerAt t).start = 0 ∧ (s.triggerAt t).stop = 0 ∧ (s.triggerAt t).sel = 0) ∧
  (∀ l, (s.linkAt l).thresh = 16 ∧ (s.linkAt l).window = 1000000 ∧ (s.linkAt l).state = 0 ∧ (s.linkAt l).retryTot = 0) ∧
  (∀ r, (s.regionAt r).ceiling = 100)
end

