-- ==== Sys2Proof/Laws/Bytes.lean ====
section
/-! SUPPORT. Laws/Bytes.lean: numbers as bytes, and the messages of the management port that they make up. -/
namespace Sys2Proof.Machine

@[simp] theorem leBytes_length (n x : Nat) : (leBytes n x).length = n := by
  unfold leBytes
  induction n generalizing x with
  | zero => rfl
  | succ n ih => simp [natBytes, ih]

/-- A number read back from its bytes. -/
theorem leNat_leBytes (n x : Nat) : leNat (leBytes n x) = x % 256 ^ n := by
  unfold leBytes
  induction n generalizing x with
  | zero => simp [natBytes, leNat, Nat.mod_one]
  | succ n ih =>
    simp only [natBytes, leNat, ih, BitVec.toNat_ofNat]
    rw [show (256 : Nat) ^ (n + 1) = 256 * 256 ^ n by rw [pow_succ, Nat.mul_comm], Nat.mod_mul, show (2 : Nat) ^ 8 = 256 from rfl]

/-- A field of a record that begins with other bytes. -/
theorem recF_append (a b : List Byte) (k n : Nat) : recF (a ++ b) (a.length + k) n = recF b k n := by
  simp [recF]

/-- A field of a record that its bytes begin with. -/
theorem recF_leBytes (b : List Byte) (n x : Nat) : recF (leBytes n x ++ b) 0 n = x % 256 ^ n := by
  simp [recF, leNat_leBytes]

/-- The fields of a datagram, and with them its message (R345). -/
theorem messageOf_fields (u0 u4 u6 u8 u12 data : List Byte) (l0 : u0.length = 4) (l4 : u4.length = 2) (l6 : u6.length = 2)
    (l8 : u8.length = 4) (l12 : u12.length = 4) (e0 : leNat u0 = 0x4B4D4731) (e6 : leNat u6 = 0) (e12 : leNat u12 = data.length)
    (hd : data.length ≤ 8176) :
    messageOf (leNat u4) (u0 ++ u4 ++ u6 ++ u8 ++ u12 ++ data) = some (leNat u8, data) := by
  have field : ∀ (a b c : List Byte) (off n : Nat), a.length = off → b.length = n → recF (a ++ (b ++ c)) off n = leNat b := by
    intro a b c off n h h'
    simp only [recF, List.drop_left' h, List.take_left' h']
  have hl : (u0 ++ u4 ++ u6 ++ u8 ++ u12 ++ data).length = 16 + data.length := by
    simp only [List.length_append, l0, l4, l6, l8, l12]
  have hdrop : (u0 ++ u4 ++ u6 ++ u8 ++ u12 ++ data).drop 16 = data :=
    List.drop_left' (by simp only [List.length_append, l0, l4, l6, l8, l12])
  have h0 := field [] u0 (u4 ++ u6 ++ u8 ++ u12 ++ data) 0 4 rfl l0
  have h4 := field u0 u4 (u6 ++ u8 ++ u12 ++ data) 4 2 l0 l4
  have h6 := field (u0 ++ u4) u6 (u8 ++ u12 ++ data) 6 2 (by simp only [List.length_append, l0, l4]) l6
  have h8 := field (u0 ++ u4 ++ u6) u8 (u12 ++ data) 8 4 (by simp only [List.length_append, l0, l4, l6]) l8
  have h12 := field (u0 ++ u4 ++ u6 ++ u8) u12 data 12 4 (by simp only [List.length_append, l0, l4, l6, l8]) l12
  simp only [List.append_assoc, List.nil_append] at h0 h4 h6 h8 h12 hl hdrop ⊢
  unfold messageOf
  rw [hl, h0, h4, h6, h8, h12, hdrop, e0, e6, e12, if_neg]
  simp only [ne_eq, not_true_eq_false, decide_false, Bool.or_false, Bool.or_eq_true, decide_eq_true_eq]
  omega

/-- A datagram with the header of its type and payload is a message of that type (R345). -/
theorem messageOf_datagram (ty seq : Nat) (data : List Byte) (ht : ty < 65536) (hs : seq < 2 ^ 32) (hd : data.length ≤ 8176) :
    messageOf ty (leBytes 4 0x4B4D4731 ++ leBytes 2 ty ++ leBytes 2 0 ++ leBytes 4 seq ++ leBytes 4 data.length ++ data) =
      some (seq, data) := by
  have back : ∀ n x, x < 256 ^ n → leNat (leBytes n x) = x := fun n x h => (leNat_leBytes n x).trans (Nat.mod_eq_of_lt h)
  have h := messageOf_fields (leBytes 4 0x4B4D4731) (leBytes 2 ty) (leBytes 2 0) (leBytes 4 seq) (leBytes 4 data.length) data
    (leBytes_length 4 _) (leBytes_length 2 _) (leBytes_length 2 _) (leBytes_length 4 _) (leBytes_length 4 _) (back 4 _ (by norm_num))
    (back 2 _ (by norm_num)) (back 4 _ (by omega)) hd
  rwa [back 2 ty (by omega), back 4 seq (by omega)] at h

/-- Any other datagram is none (R345). -/
theorem messageOf_none (ty : Nat) (d : List Byte)
    (h : d.length < 16 ∨ 8192 < d.length ∨ leNat (d.take 4) ≠ 0x4B4D4731 ∨ leNat ((d.drop 4).take 2) ≠ ty ∨
      leNat ((d.drop 6).take 2) ≠ 0 ∨ leNat ((d.drop 12).take 4) ≠ d.length - 16) : messageOf ty d = none := by
  unfold messageOf
  rw [if_pos]
  rcases h with h | h | h | h | h | h <;> simp [recF, h]

end Sys2Proof.Machine
end

