-- ==== Sys2Proof/Laws/Tab.lean ====
section
/-! SUPPORT. Laws/Tab.lean: reading after writing in a table, and that every table operation keeps the canonical form. -/
namespace Sys2Proof.Machine

@[simp] theorem tget_nil {α : Type} (d : α) (n : Nat) : tget d [] n = d := rfl

theorem tget_cons {α : Type} (d v : α) (k n : Nat) (t : Tab α) :
    tget d ((k, v) :: t) n = if n = k then v else tget d t n := rfl

theorem tget_tdel {α : Type} (d : α) (t : Tab α) (n m : Nat) :
    tget d (tdel t n) m = if m = n then d else tget d t m := by
  induction t with
  | nil => simp [tdel]
  | cons x t ih =>
    obtain ⟨k, v⟩ := x
    simp only [tdel]
    split_ifs with h1 h2 h2 <;> simp_all [tget_cons]

theorem tget_tput {α : Type} (d : α) (t : Tab α) (n m : Nat) (x : α) :
    tget d (tput t n x) m = if m = n then x else tget d t m := by
  induction t with
  | nil => simp [tput, tget_cons]
  | cons y t ih =>
    obtain ⟨k, v⟩ := y
    simp only [tput]
    split_ifs with h1 h2 h3 h3 h3 <;> simp_all [tget_cons]

/-- Reading a table after a write: the value at the key, and every other key as before. -/
theorem tget_tset {α : Type} [DecidableEq α] (d : α) (t : Tab α) (n m : Nat) (x : α) :
    tget d (tset d t n x) m = if m = n then x else tget d t m := by
  unfold tset
  split_ifs with h1 h2 h2 <;> simp_all [tget_tdel, tget_tput]

@[simp] theorem tget_tset_same {α : Type} [DecidableEq α] (d : α) (t : Tab α) (n : Nat) (x : α) :
    tget d (tset d t n x) n = x := by simp [tget_tset]

theorem tget_tset_other {α : Type} [DecidableEq α] (d : α) (t : Tab α) {n m : Nat} (x : α) (h : m ≠ n) :
    tget d (tset d t n x) m = tget d t m := by simp [tget_tset, h]

theorem tget_tmod {α : Type} [DecidableEq α] (d : α) (t : Tab α) (n m : Nat) (f : α → α) :
    tget d (tmod d t n f) m = if m = n then f (tget d t n) else tget d t m := by simp [tmod, tget_tset]

theorem tokFrom_le {α : Type} [DecidableEq α] {d : α} {a b : Nat} {t : Tab α} (h : a ≤ b) (ht : tokFrom d b t = true) :
    tokFrom d a t = true := by
  cases t with
  | nil => rfl
  | cons x t =>
    obtain ⟨k, v⟩ := x
    simp only [tokFrom, Bool.and_eq_true, decide_eq_true_eq] at *
    exact ⟨⟨by omega, ht.1.2⟩, ht.2⟩

theorem tokFrom_tdel {α : Type} [DecidableEq α] {d : α} {t : Tab α} (n : Nat) :
    ∀ {lo : Nat}, tokFrom d lo t = true → tokFrom d lo (tdel t n) = true := by
  induction t with
  | nil => intro lo _; rfl
  | cons x t ih =>
    obtain ⟨k, v⟩ := x
    intro lo h
    simp only [tokFrom, Bool.and_eq_true, decide_eq_true_eq] at h
    simp only [tdel]
    split_ifs
    · exact tokFrom_le (by omega) (ih h.2)
    · simp [tokFrom, h.1.1, h.1.2, ih h.2]

theorem tokFrom_tput {α : Type} [DecidableEq α] {d x : α} (hx : x ≠ d) {n : Nat} {t : Tab α} :
    ∀ {lo : Nat}, lo ≤ n → tokFrom d lo t = true → tokFrom d lo (tput t n x) = true := by
  induction t with
  | nil => intro lo hn _; simp [tput, tokFrom, hn, hx]
  | cons y t ih =>
    obtain ⟨k, v⟩ := y
    intro lo hn h
    simp only [tokFrom, Bool.and_eq_true, decide_eq_true_eq] at h
    simp only [tput]
    split_ifs with h1 h2
    · subst h1; simp [tokFrom, h.1.1, hx, h.2]
    · have hk : n + 1 ≤ k := h2
      simp [tokFrom, hn, hx, hk, h.1.2, h.2]
    · have hk : k + 1 ≤ n := by omega
      simp [tokFrom, h.1.1, h.1.2, ih hk h.2]

/-- A write keeps the canonical form. -/
theorem tok_tset {α : Type} [DecidableEq α] {d : α} {t : Tab α} (n : Nat) (x : α) (h : tok d t = true) :
    tok d (tset d t n x) = true := by
  unfold tok tset at *
  split_ifs with hx
  · exact tokFrom_tdel n h
  · exact tokFrom_tput hx (Nat.zero_le n) h

theorem tok_tsets {α : Type} [DecidableEq α] {d : α} (xs : List α) :
    ∀ {t : Tab α} (n : Nat), tok d t = true → tok d (tsets d t n xs) = true := by
  induction xs with
  | nil => intro t n h; exact h
  | cons x xs ih => intro t n h; exact ih (n + 1) (tok_tset n x h)

theorem tokFrom_tfilter {α : Type} [DecidableEq α] {d : α} (p : Nat → α → Bool) {t : Tab α} :
    ∀ {lo : Nat}, tokFrom d lo t = true → tokFrom d lo (tfilter p t) = true := by
  induction t with
  | nil => intro lo _; rfl
  | cons x t ih =>
    obtain ⟨k, v⟩ := x
    intro lo h
    simp only [tokFrom, Bool.and_eq_true, decide_eq_true_eq] at h
    simp only [tfilter]
    split_ifs
    · simp [tokFrom, h.1.1, h.1.2, ih h.2]
    · exact tokFrom_le (by omega) (ih h.2)

theorem tok_tfilter {α : Type} [DecidableEq α] {d : α} (p : Nat → α → Bool) {t : Tab α} (h : tok d t = true) :
    tok d (tfilter p t) = true := tokFrom_tfilter p h

theorem tokFrom_filter {α : Type} [DecidableEq α] {d : α} (p : Nat × α → Bool) {t : Tab α} :
    ∀ {lo : Nat}, tokFrom d lo t = true → tokFrom d lo (t.filter p) = true := by
  induction t with
  | nil => intro lo _; rfl
  | cons x t ih =>
    obtain ⟨k, v⟩ := x
    intro lo h
    simp only [tokFrom, Bool.and_eq_true, decide_eq_true_eq] at h
    simp only [List.filter]
    split
    · simp [tokFrom, h.1.1, h.1.2, ih h.2]
    · exact tokFrom_le (by omega) (ih h.2)

/-- Two canonical tables that read alike are the same data. -/
theorem tokFrom_ext {α : Type} [DecidableEq α] {d : α} {t : Tab α} :
    ∀ {u : Tab α} {lo : Nat}, tokFrom d lo t = true → tokFrom d lo u = true → (∀ n, tget d t n = tget d u n) → t = u := by
  have low : ∀ {u : Tab α} {lo n : Nat}, tokFrom d lo u = true → n < lo → tget d u n = d := by
    intro u
    induction u with
    | nil => intros; rfl
    | cons x u ih =>
      obtain ⟨k, v⟩ := x
      intro lo n h hn
      simp only [tokFrom, Bool.and_eq_true, decide_eq_true_eq] at h
      rw [tget_cons, if_neg (by omega), ih h.2 (by omega)]
  induction t with
  | nil =>
    intro u lo _ hu e
    cases u with
    | nil => rfl
    | cons x u =>
      obtain ⟨k, v⟩ := x
      simp only [tokFrom, Bool.and_eq_true, decide_eq_true_eq] at hu
      have := e k
      simp only [tget_nil, tget_cons, if_pos] at this
      exact absurd this.symm hu.1.2
  | cons x t ih =>
    obtain ⟨k, v⟩ := x
    intro u lo ht hu e
    simp only [tokFrom, Bool.and_eq_true, decide_eq_true_eq] at ht
    cases u with
    | nil =>
      have := e k
      simp only [tget_nil, tget_cons, if_pos] at this
      exact absurd this ht.1.2
    | cons y u =>
      obtain ⟨k', v'⟩ := y
      simp only [tokFrom, Bool.and_eq_true, decide_eq_true_eq] at hu
      have hk : k = k' := by
        rcases Nat.lt_trichotomy k k' with h | h | h
        · have := e k
          simp only [tget_cons, if_pos] at this
          rw [if_neg (by omega), low hu.2 (by omega)] at this
          exact absurd this ht.1.2
        · exact h
        · have := e k'
          simp only [tget_cons, if_pos] at this
          rw [if_neg (by omega), low ht.2 (by omega)] at this
          exact absurd this.symm hu.1.2
      subst hk
      have hv : v = v' := by simpa [tget_cons] using e k
      subst hv
      have : t = u := ih ht.2 hu.2 fun n => by
        by_cases hn : n = k
        · subst hn; rw [low ht.2 (by omega), low hu.2 (by omega)]
        · simpa [tget_cons, hn] using e n
      rw [this]

end Sys2Proof.Machine
end

