-- ==== Sys2Proof/Laws/State.lean ====
section
/-! SUPPORT. Laws/State.lean: each field of the state after each named update, and the parts of the state read back through
their accessors. -/
namespace Sys2Proof.Machine

@[simp] theorem State.setStrand_mem (s : State) (n : Nat) (x : Option Strand) : (s.setStrand n x).mem = s.mem := rfl
@[simp] theorem State.setStrand_cores (s : State) (n : Nat) (x : Option Strand) : (s.setStrand n x).cores = s.cores := rfl
@[simp] theorem State.setStrand_strands (s : State) (n : Nat) (x : Option Strand) : (s.setStrand n x).strands = tset none s.strands n x := rfl
@[simp] theorem State.setStrand_ctxs (s : State) (n : Nat) (x : Option Strand) : (s.setStrand n x).ctxs = s.ctxs := rfl
@[simp] theorem State.setStrand_work (s : State) (n : Nat) (x : Option Strand) : (s.setStrand n x).work = s.work := rfl
@[simp] theorem State.setStrand_time (s : State) (n : Nat) (x : Option Strand) : (s.setStrand n x).time = s.time := rfl
@[simp] theorem State.setStrand_energy (s : State) (n : Nat) (x : Option Strand) : (s.setStrand n x).energy = s.energy := rfl
@[simp] theorem State.setStrand_cpres (s : State) (n : Nat) (x : Option Strand) : (s.setStrand n x).cpres = s.cpres := rfl
@[simp] theorem State.setStrand_links (s : State) (n : Nat) (x : Option Strand) : (s.setStrand n x).links = s.links := rfl
@[simp] theorem State.setStrand_host (s : State) (n : Nat) (x : Option Strand) : (s.setStrand n x).host = s.host := rfl
@[simp] theorem State.setStrand_dbg (s : State) (n : Nat) (x : Option Strand) : (s.setStrand n x).dbg = s.dbg := rfl
@[simp] theorem State.setStrand_agenda (s : State) (n : Nat) (x : Option Strand) : (s.setStrand n x).agenda = s.agenda := rfl
@[simp] theorem State.setStrand_cur (s : State) (n : Nat) (x : Option Strand) : (s.setStrand n x).cur = s.cur := rfl
@[simp] theorem State.setStrand_slot (s : State) (n : Nat) (x : Option Strand) : (s.setStrand n x).slot = s.slot := rfl
@[simp] theorem State.setStrand_view (s : State) (n : Nat) (x : Option Strand) : (s.setStrand n x).view = s.view := rfl
@[simp] theorem State.setStrand_verdict (s : State) (n : Nat) (x : Option Strand) : (s.setStrand n x).verdict = s.verdict := rfl
@[simp] theorem State.setStrand_choice (s : State) (n : Nat) (x : Option Strand) : (s.setStrand n x).choice = s.choice := rfl

@[simp] theorem State.setCore_mem (s : State) (n : Nat) (x : Core) : (s.setCore n x).mem = s.mem := rfl
@[simp] theorem State.setCore_cores (s : State) (n : Nat) (x : Core) : (s.setCore n x).cores = tset Core.init s.cores n x := rfl
@[simp] theorem State.setCore_strands (s : State) (n : Nat) (x : Core) : (s.setCore n x).strands = s.strands := rfl
@[simp] theorem State.setCore_ctxs (s : State) (n : Nat) (x : Core) : (s.setCore n x).ctxs = s.ctxs := rfl
@[simp] theorem State.setCore_work (s : State) (n : Nat) (x : Core) : (s.setCore n x).work = s.work := rfl
@[simp] theorem State.setCore_time (s : State) (n : Nat) (x : Core) : (s.setCore n x).time = s.time := rfl
@[simp] theorem State.setCore_energy (s : State) (n : Nat) (x : Core) : (s.setCore n x).energy = s.energy := rfl
@[simp] theorem State.setCore_cpres (s : State) (n : Nat) (x : Core) : (s.setCore n x).cpres = s.cpres := rfl
@[simp] theorem State.setCore_links (s : State) (n : Nat) (x : Core) : (s.setCore n x).links = s.links := rfl
@[simp] theorem State.setCore_host (s : State) (n : Nat) (x : Core) : (s.setCore n x).host = s.host := rfl
@[simp] theorem State.setCore_dbg (s : State) (n : Nat) (x : Core) : (s.setCore n x).dbg = s.dbg := rfl
@[simp] theorem State.setCore_agenda (s : State) (n : Nat) (x : Core) : (s.setCore n x).agenda = s.agenda := rfl
@[simp] theorem State.setCore_cur (s : State) (n : Nat) (x : Core) : (s.setCore n x).cur = s.cur := rfl
@[simp] theorem State.setCore_slot (s : State) (n : Nat) (x : Core) : (s.setCore n x).slot = s.slot := rfl
@[simp] theorem State.setCore_view (s : State) (n : Nat) (x : Core) : (s.setCore n x).view = s.view := rfl
@[simp] theorem State.setCore_verdict (s : State) (n : Nat) (x : Core) : (s.setCore n x).verdict = s.verdict := rfl
@[simp] theorem State.setCore_choice (s : State) (n : Nat) (x : Core) : (s.setCore n x).choice = s.choice := rfl

@[simp] theorem State.modCore_mem (s : State) (n : Nat) (f : Core → Core) : (s.modCore n f).mem = s.mem := rfl
@[simp] theorem State.modCore_cores (s : State) (n : Nat) (f : Core → Core) : (s.modCore n f).cores = tset Core.init s.cores n (f (s.coreAt n)) := rfl
@[simp] theorem State.modCore_strands (s : State) (n : Nat) (f : Core → Core) : (s.modCore n f).strands = s.strands := rfl
@[simp] theorem State.modCore_ctxs (s : State) (n : Nat) (f : Core → Core) : (s.modCore n f).ctxs = s.ctxs := rfl
@[simp] theorem State.modCore_work (s : State) (n : Nat) (f : Core → Core) : (s.modCore n f).work = s.work := rfl
@[simp] theorem State.modCore_time (s : State) (n : Nat) (f : Core → Core) : (s.modCore n f).time = s.time := rfl
@[simp] theorem State.modCore_energy (s : State) (n : Nat) (f : Core → Core) : (s.modCore n f).energy = s.energy := rfl
@[simp] theorem State.modCore_cpres (s : State) (n : Nat) (f : Core → Core) : (s.modCore n f).cpres = s.cpres := rfl
@[simp] theorem State.modCore_links (s : State) (n : Nat) (f : Core → Core) : (s.modCore n f).links = s.links := rfl
@[simp] theorem State.modCore_host (s : State) (n : Nat) (f : Core → Core) : (s.modCore n f).host = s.host := rfl
@[simp] theorem State.modCore_dbg (s : State) (n : Nat) (f : Core → Core) : (s.modCore n f).dbg = s.dbg := rfl
@[simp] theorem State.modCore_agenda (s : State) (n : Nat) (f : Core → Core) : (s.modCore n f).agenda = s.agenda := rfl
@[simp] theorem State.modCore_cur (s : State) (n : Nat) (f : Core → Core) : (s.modCore n f).cur = s.cur := rfl
@[simp] theorem State.modCore_slot (s : State) (n : Nat) (f : Core → Core) : (s.modCore n f).slot = s.slot := rfl
@[simp] theorem State.modCore_view (s : State) (n : Nat) (f : Core → Core) : (s.modCore n f).view = s.view := rfl
@[simp] theorem State.modCore_verdict (s : State) (n : Nat) (f : Core → Core) : (s.modCore n f).verdict = s.verdict := rfl
@[simp] theorem State.modCore_choice (s : State) (n : Nat) (f : Core → Core) : (s.modCore n f).choice = s.choice := rfl

@[simp] theorem State.setCtx_mem (s : State) (n : Nat) (x : Option Ctx) : (s.setCtx n x).mem = s.mem := rfl
@[simp] theorem State.setCtx_cores (s : State) (n : Nat) (x : Option Ctx) : (s.setCtx n x).cores = s.cores := rfl
@[simp] theorem State.setCtx_strands (s : State) (n : Nat) (x : Option Ctx) : (s.setCtx n x).strands = s.strands := rfl
@[simp] theorem State.setCtx_ctxs (s : State) (n : Nat) (x : Option Ctx) : (s.setCtx n x).ctxs = tset none s.ctxs n x := rfl
@[simp] theorem State.setCtx_work (s : State) (n : Nat) (x : Option Ctx) : (s.setCtx n x).work = s.work := rfl
@[simp] theorem State.setCtx_time (s : State) (n : Nat) (x : Option Ctx) : (s.setCtx n x).time = s.time := rfl
@[simp] theorem State.setCtx_energy (s : State) (n : Nat) (x : Option Ctx) : (s.setCtx n x).energy = s.energy := rfl
@[simp] theorem State.setCtx_cpres (s : State) (n : Nat) (x : Option Ctx) : (s.setCtx n x).cpres = s.cpres := rfl
@[simp] theorem State.setCtx_links (s : State) (n : Nat) (x : Option Ctx) : (s.setCtx n x).links = s.links := rfl
@[simp] theorem State.setCtx_host (s : State) (n : Nat) (x : Option Ctx) : (s.setCtx n x).host = s.host := rfl
@[simp] theorem State.setCtx_dbg (s : State) (n : Nat) (x : Option Ctx) : (s.setCtx n x).dbg = s.dbg := rfl
@[simp] theorem State.setCtx_agenda (s : State) (n : Nat) (x : Option Ctx) : (s.setCtx n x).agenda = s.agenda := rfl
@[simp] theorem State.setCtx_cur (s : State) (n : Nat) (x : Option Ctx) : (s.setCtx n x).cur = s.cur := rfl
@[simp] theorem State.setCtx_slot (s : State) (n : Nat) (x : Option Ctx) : (s.setCtx n x).slot = s.slot := rfl
@[simp] theorem State.setCtx_view (s : State) (n : Nat) (x : Option Ctx) : (s.setCtx n x).view = s.view := rfl
@[simp] theorem State.setCtx_verdict (s : State) (n : Nat) (x : Option Ctx) : (s.setCtx n x).verdict = s.verdict := rfl
@[simp] theorem State.setCtx_choice (s : State) (n : Nat) (x : Option Ctx) : (s.setCtx n x).choice = s.choice := rfl

@[simp] theorem State.modMem_mem (s : State) (f : MemState → MemState) : (s.modMem f).mem = f s.mem := rfl
@[simp] theorem State.modMem_cores (s : State) (f : MemState → MemState) : (s.modMem f).cores = s.cores := rfl
@[simp] theorem State.modMem_strands (s : State) (f : MemState → MemState) : (s.modMem f).strands = s.strands := rfl
@[simp] theorem State.modMem_ctxs (s : State) (f : MemState → MemState) : (s.modMem f).ctxs = s.ctxs := rfl
@[simp] theorem State.modMem_work (s : State) (f : MemState → MemState) : (s.modMem f).work = s.work := rfl
@[simp] theorem State.modMem_time (s : State) (f : MemState → MemState) : (s.modMem f).time = s.time := rfl
@[simp] theorem State.modMem_energy (s : State) (f : MemState → MemState) : (s.modMem f).energy = s.energy := rfl
@[simp] theorem State.modMem_cpres (s : State) (f : MemState → MemState) : (s.modMem f).cpres = s.cpres := rfl
@[simp] theorem State.modMem_links (s : State) (f : MemState → MemState) : (s.modMem f).links = s.links := rfl
@[simp] theorem State.modMem_host (s : State) (f : MemState → MemState) : (s.modMem f).host = s.host := rfl
@[simp] theorem State.modMem_dbg (s : State) (f : MemState → MemState) : (s.modMem f).dbg = s.dbg := rfl
@[simp] theorem State.modMem_agenda (s : State) (f : MemState → MemState) : (s.modMem f).agenda = s.agenda := rfl
@[simp] theorem State.modMem_cur (s : State) (f : MemState → MemState) : (s.modMem f).cur = s.cur := rfl
@[simp] theorem State.modMem_slot (s : State) (f : MemState → MemState) : (s.modMem f).slot = s.slot := rfl
@[simp] theorem State.modMem_view (s : State) (f : MemState → MemState) : (s.modMem f).view = s.view := rfl
@[simp] theorem State.modMem_verdict (s : State) (f : MemState → MemState) : (s.modMem f).verdict = s.verdict := rfl
@[simp] theorem State.modMem_choice (s : State) (f : MemState → MemState) : (s.modMem f).choice = s.choice := rfl

@[simp] theorem State.modWork_mem (s : State) (f : WorkState → WorkState) : (s.modWork f).mem = s.mem := rfl
@[simp] theorem State.modWork_cores (s : State) (f : WorkState → WorkState) : (s.modWork f).cores = s.cores := rfl
@[simp] theorem State.modWork_strands (s : State) (f : WorkState → WorkState) : (s.modWork f).strands = s.strands := rfl
@[simp] theorem State.modWork_ctxs (s : State) (f : WorkState → WorkState) : (s.modWork f).ctxs = s.ctxs := rfl
@[simp] theorem State.modWork_work (s : State) (f : WorkState → WorkState) : (s.modWork f).work = f s.work := rfl
@[simp] theorem State.modWork_time (s : State) (f : WorkState → WorkState) : (s.modWork f).time = s.time := rfl
@[simp] theorem State.modWork_energy (s : State) (f : WorkState → WorkState) : (s.modWork f).energy = s.energy := rfl
@[simp] theorem State.modWork_cpres (s : State) (f : WorkState → WorkState) : (s.modWork f).cpres = s.cpres := rfl
@[simp] theorem State.modWork_links (s : State) (f : WorkState → WorkState) : (s.modWork f).links = s.links := rfl
@[simp] theorem State.modWork_host (s : State) (f : WorkState → WorkState) : (s.modWork f).host = s.host := rfl
@[simp] theorem State.modWork_dbg (s : State) (f : WorkState → WorkState) : (s.modWork f).dbg = s.dbg := rfl
@[simp] theorem State.modWork_agenda (s : State) (f : WorkState → WorkState) : (s.modWork f).agenda = s.agenda := rfl
@[simp] theorem State.modWork_cur (s : State) (f : WorkState → WorkState) : (s.modWork f).cur = s.cur := rfl
@[simp] theorem State.modWork_slot (s : State) (f : WorkState → WorkState) : (s.modWork f).slot = s.slot := rfl
@[simp] theorem State.modWork_view (s : State) (f : WorkState → WorkState) : (s.modWork f).view = s.view := rfl
@[simp] theorem State.modWork_verdict (s : State) (f : WorkState → WorkState) : (s.modWork f).verdict = s.verdict := rfl
@[simp] theorem State.modWork_choice (s : State) (f : WorkState → WorkState) : (s.modWork f).choice = s.choice := rfl

@[simp] theorem State.modTime_mem (s : State) (f : TimeState → TimeState) : (s.modTime f).mem = s.mem := rfl
@[simp] theorem State.modTime_cores (s : State) (f : TimeState → TimeState) : (s.modTime f).cores = s.cores := rfl
@[simp] theorem State.modTime_strands (s : State) (f : TimeState → TimeState) : (s.modTime f).strands = s.strands := rfl
@[simp] theorem State.modTime_ctxs (s : State) (f : TimeState → TimeState) : (s.modTime f).ctxs = s.ctxs := rfl
@[simp] theorem State.modTime_work (s : State) (f : TimeState → TimeState) : (s.modTime f).work = s.work := rfl
@[simp] theorem State.modTime_time (s : State) (f : TimeState → TimeState) : (s.modTime f).time = f s.time := rfl
@[simp] theorem State.modTime_energy (s : State) (f : TimeState → TimeState) : (s.modTime f).energy = s.energy := rfl
@[simp] theorem State.modTime_cpres (s : State) (f : TimeState → TimeState) : (s.modTime f).cpres = s.cpres := rfl
@[simp] theorem State.modTime_links (s : State) (f : TimeState → TimeState) : (s.modTime f).links = s.links := rfl
@[simp] theorem State.modTime_host (s : State) (f : TimeState → TimeState) : (s.modTime f).host = s.host := rfl
@[simp] theorem State.modTime_dbg (s : State) (f : TimeState → TimeState) : (s.modTime f).dbg = s.dbg := rfl
@[simp] theorem State.modTime_agenda (s : State) (f : TimeState → TimeState) : (s.modTime f).agenda = s.agenda := rfl
@[simp] theorem State.modTime_cur (s : State) (f : TimeState → TimeState) : (s.modTime f).cur = s.cur := rfl
@[simp] theorem State.modTime_slot (s : State) (f : TimeState → TimeState) : (s.modTime f).slot = s.slot := rfl
@[simp] theorem State.modTime_view (s : State) (f : TimeState → TimeState) : (s.modTime f).view = s.view := rfl
@[simp] theorem State.modTime_verdict (s : State) (f : TimeState → TimeState) : (s.modTime f).verdict = s.verdict := rfl
@[simp] theorem State.modTime_choice (s : State) (f : TimeState → TimeState) : (s.modTime f).choice = s.choice := rfl

@[simp] theorem State.modEnergy_mem (s : State) (f : EnergyState → EnergyState) : (s.modEnergy f).mem = s.mem := rfl
@[simp] theorem State.modEnergy_cores (s : State) (f : EnergyState → EnergyState) : (s.modEnergy f).cores = s.cores := rfl
@[simp] theorem State.modEnergy_strands (s : State) (f : EnergyState → EnergyState) : (s.modEnergy f).strands = s.strands := rfl
@[simp] theorem State.modEnergy_ctxs (s : State) (f : EnergyState → EnergyState) : (s.modEnergy f).ctxs = s.ctxs := rfl
@[simp] theorem State.modEnergy_work (s : State) (f : EnergyState → EnergyState) : (s.modEnergy f).work = s.work := rfl
@[simp] theorem State.modEnergy_time (s : State) (f : EnergyState → EnergyState) : (s.modEnergy f).time = s.time := rfl
@[simp] theorem State.modEnergy_energy (s : State) (f : EnergyState → EnergyState) : (s.modEnergy f).energy = f s.energy := rfl
@[simp] theorem State.modEnergy_cpres (s : State) (f : EnergyState → EnergyState) : (s.modEnergy f).cpres = s.cpres := rfl
@[simp] theorem State.modEnergy_links (s : State) (f : EnergyState → EnergyState) : (s.modEnergy f).links = s.links := rfl
@[simp] theorem State.modEnergy_host (s : State) (f : EnergyState → EnergyState) : (s.modEnergy f).host = s.host := rfl
@[simp] theorem State.modEnergy_dbg (s : State) (f : EnergyState → EnergyState) : (s.modEnergy f).dbg = s.dbg := rfl
@[simp] theorem State.modEnergy_agenda (s : State) (f : EnergyState → EnergyState) : (s.modEnergy f).agenda = s.agenda := rfl
@[simp] theorem State.modEnergy_cur (s : State) (f : EnergyState → EnergyState) : (s.modEnergy f).cur = s.cur := rfl
@[simp] theorem State.modEnergy_slot (s : State) (f : EnergyState → EnergyState) : (s.modEnergy f).slot = s.slot := rfl
@[simp] theorem State.modEnergy_view (s : State) (f : EnergyState → EnergyState) : (s.modEnergy f).view = s.view := rfl
@[simp] theorem State.modEnergy_verdict (s : State) (f : EnergyState → EnergyState) : (s.modEnergy f).verdict = s.verdict := rfl
@[simp] theorem State.modEnergy_choice (s : State) (f : EnergyState → EnergyState) : (s.modEnergy f).choice = s.choice := rfl

@[simp] theorem State.modHost_mem (s : State) (f : HostState → HostState) : (s.modHost f).mem = s.mem := rfl
@[simp] theorem State.modHost_cores (s : State) (f : HostState → HostState) : (s.modHost f).cores = s.cores := rfl
@[simp] theorem State.modHost_strands (s : State) (f : HostState → HostState) : (s.modHost f).strands = s.strands := rfl
@[simp] theorem State.modHost_ctxs (s : State) (f : HostState → HostState) : (s.modHost f).ctxs = s.ctxs := rfl
@[simp] theorem State.modHost_work (s : State) (f : HostState → HostState) : (s.modHost f).work = s.work := rfl
@[simp] theorem State.modHost_time (s : State) (f : HostState → HostState) : (s.modHost f).time = s.time := rfl
@[simp] theorem State.modHost_energy (s : State) (f : HostState → HostState) : (s.modHost f).energy = s.energy := rfl
@[simp] theorem State.modHost_cpres (s : State) (f : HostState → HostState) : (s.modHost f).cpres = s.cpres := rfl
@[simp] theorem State.modHost_links (s : State) (f : HostState → HostState) : (s.modHost f).links = s.links := rfl
@[simp] theorem State.modHost_host (s : State) (f : HostState → HostState) : (s.modHost f).host = f s.host := rfl
@[simp] theorem State.modHost_dbg (s : State) (f : HostState → HostState) : (s.modHost f).dbg = s.dbg := rfl
@[simp] theorem State.modHost_agenda (s : State) (f : HostState → HostState) : (s.modHost f).agenda = s.agenda := rfl
@[simp] theorem State.modHost_cur (s : State) (f : HostState → HostState) : (s.modHost f).cur = s.cur := rfl
@[simp] theorem State.modHost_slot (s : State) (f : HostState → HostState) : (s.modHost f).slot = s.slot := rfl
@[simp] theorem State.modHost_view (s : State) (f : HostState → HostState) : (s.modHost f).view = s.view := rfl
@[simp] theorem State.modHost_verdict (s : State) (f : HostState → HostState) : (s.modHost f).verdict = s.verdict := rfl
@[simp] theorem State.modHost_choice (s : State) (f : HostState → HostState) : (s.modHost f).choice = s.choice := rfl

@[simp] theorem State.modDebug_mem (s : State) (f : DebugState → DebugState) : (s.modDebug f).mem = s.mem := rfl
@[simp] theorem State.modDebug_cores (s : State) (f : DebugState → DebugState) : (s.modDebug f).cores = s.cores := rfl
@[simp] theorem State.modDebug_strands (s : State) (f : DebugState → DebugState) : (s.modDebug f).strands = s.strands := rfl
@[simp] theorem State.modDebug_ctxs (s : State) (f : DebugState → DebugState) : (s.modDebug f).ctxs = s.ctxs := rfl
@[simp] theorem State.modDebug_work (s : State) (f : DebugState → DebugState) : (s.modDebug f).work = s.work := rfl
@[simp] theorem State.modDebug_time (s : State) (f : DebugState → DebugState) : (s.modDebug f).time = s.time := rfl
@[simp] theorem State.modDebug_energy (s : State) (f : DebugState → DebugState) : (s.modDebug f).energy = s.energy := rfl
@[simp] theorem State.modDebug_cpres (s : State) (f : DebugState → DebugState) : (s.modDebug f).cpres = s.cpres := rfl
@[simp] theorem State.modDebug_links (s : State) (f : DebugState → DebugState) : (s.modDebug f).links = s.links := rfl
@[simp] theorem State.modDebug_host (s : State) (f : DebugState → DebugState) : (s.modDebug f).host = s.host := rfl
@[simp] theorem State.modDebug_dbg (s : State) (f : DebugState → DebugState) : (s.modDebug f).dbg = f s.dbg := rfl
@[simp] theorem State.modDebug_agenda (s : State) (f : DebugState → DebugState) : (s.modDebug f).agenda = s.agenda := rfl
@[simp] theorem State.modDebug_cur (s : State) (f : DebugState → DebugState) : (s.modDebug f).cur = s.cur := rfl
@[simp] theorem State.modDebug_slot (s : State) (f : DebugState → DebugState) : (s.modDebug f).slot = s.slot := rfl
@[simp] theorem State.modDebug_view (s : State) (f : DebugState → DebugState) : (s.modDebug f).view = s.view := rfl
@[simp] theorem State.modDebug_verdict (s : State) (f : DebugState → DebugState) : (s.modDebug f).verdict = s.verdict := rfl
@[simp] theorem State.modDebug_choice (s : State) (f : DebugState → DebugState) : (s.modDebug f).choice = s.choice := rfl

@[simp] theorem State.setTt_mem (s : State) (n : Nat) (x : Option TileTask) : (s.setTt n x).mem = s.mem := rfl
@[simp] theorem State.setTt_cores (s : State) (n : Nat) (x : Option TileTask) : (s.setTt n x).cores = s.cores := rfl
@[simp] theorem State.setTt_strands (s : State) (n : Nat) (x : Option TileTask) : (s.setTt n x).strands = s.strands := rfl
@[simp] theorem State.setTt_ctxs (s : State) (n : Nat) (x : Option TileTask) : (s.setTt n x).ctxs = s.ctxs := rfl
@[simp] theorem State.setTt_work (s : State) (n : Nat) (x : Option TileTask) : (s.setTt n x).work = { s.work with tts := tset none s.work.tts n x } := rfl
@[simp] theorem State.setTt_time (s : State) (n : Nat) (x : Option TileTask) : (s.setTt n x).time = s.time := rfl
@[simp] theorem State.setTt_energy (s : State) (n : Nat) (x : Option TileTask) : (s.setTt n x).energy = s.energy := rfl
@[simp] theorem State.setTt_cpres (s : State) (n : Nat) (x : Option TileTask) : (s.setTt n x).cpres = s.cpres := rfl
@[simp] theorem State.setTt_links (s : State) (n : Nat) (x : Option TileTask) : (s.setTt n x).links = s.links := rfl
@[simp] theorem State.setTt_host (s : State) (n : Nat) (x : Option TileTask) : (s.setTt n x).host = s.host := rfl
@[simp] theorem State.setTt_dbg (s : State) (n : Nat) (x : Option TileTask) : (s.setTt n x).dbg = s.dbg := rfl
@[simp] theorem State.setTt_agenda (s : State) (n : Nat) (x : Option TileTask) : (s.setTt n x).agenda = s.agenda := rfl
@[simp] theorem State.setTt_cur (s : State) (n : Nat) (x : Option TileTask) : (s.setTt n x).cur = s.cur := rfl
@[simp] theorem State.setTt_slot (s : State) (n : Nat) (x : Option TileTask) : (s.setTt n x).slot = s.slot := rfl
@[simp] theorem State.setTt_view (s : State) (n : Nat) (x : Option TileTask) : (s.setTt n x).view = s.view := rfl
@[simp] theorem State.setTt_verdict (s : State) (n : Nat) (x : Option TileTask) : (s.setTt n x).verdict = s.verdict := rfl
@[simp] theorem State.setTt_choice (s : State) (n : Nat) (x : Option TileTask) : (s.setTt n x).choice = s.choice := rfl

@[simp] theorem State.setBlock_mem (s : State) (n : Nat) (x : Option Block) : (s.setBlock n x).mem = s.mem := rfl
@[simp] theorem State.setBlock_cores (s : State) (n : Nat) (x : Option Block) : (s.setBlock n x).cores = s.cores := rfl
@[simp] theorem State.setBlock_strands (s : State) (n : Nat) (x : Option Block) : (s.setBlock n x).strands = s.strands := rfl
@[simp] theorem State.setBlock_ctxs (s : State) (n : Nat) (x : Option Block) : (s.setBlock n x).ctxs = s.ctxs := rfl
@[simp] theorem State.setBlock_work (s : State) (n : Nat) (x : Option Block) : (s.setBlock n x).work = { s.work with blocks := tset none s.work.blocks n x } := rfl
@[simp] theorem State.setBlock_time (s : State) (n : Nat) (x : Option Block) : (s.setBlock n x).time = s.time := rfl
@[simp] theorem State.setBlock_energy (s : State) (n : Nat) (x : Option Block) : (s.setBlock n x).energy = s.energy := rfl
@[simp] theorem State.setBlock_cpres (s : State) (n : Nat) (x : Option Block) : (s.setBlock n x).cpres = s.cpres := rfl
@[simp] theorem State.setBlock_links (s : State) (n : Nat) (x : Option Block) : (s.setBlock n x).links = s.links := rfl
@[simp] theorem State.setBlock_host (s : State) (n : Nat) (x : Option Block) : (s.setBlock n x).host = s.host := rfl
@[simp] theorem State.setBlock_dbg (s : State) (n : Nat) (x : Option Block) : (s.setBlock n x).dbg = s.dbg := rfl
@[simp] theorem State.setBlock_agenda (s : State) (n : Nat) (x : Option Block) : (s.setBlock n x).agenda = s.agenda := rfl
@[simp] theorem State.setBlock_cur (s : State) (n : Nat) (x : Option Block) : (s.setBlock n x).cur = s.cur := rfl
@[simp] theorem State.setBlock_slot (s : State) (n : Nat) (x : Option Block) : (s.setBlock n x).slot = s.slot := rfl
@[simp] theorem State.setBlock_view (s : State) (n : Nat) (x : Option Block) : (s.setBlock n x).view = s.view := rfl
@[simp] theorem State.setBlock_verdict (s : State) (n : Nat) (x : Option Block) : (s.setBlock n x).verdict = s.verdict := rfl
@[simp] theorem State.setBlock_choice (s : State) (n : Nat) (x : Option Block) : (s.setBlock n x).choice = s.choice := rfl

@[simp] theorem State.setGraph_mem (s : State) (n : Nat) (x : Option Graph) : (s.setGraph n x).mem = s.mem := rfl
@[simp] theorem State.setGraph_cores (s : State) (n : Nat) (x : Option Graph) : (s.setGraph n x).cores = s.cores := rfl
@[simp] theorem State.setGraph_strands (s : State) (n : Nat) (x : Option Graph) : (s.setGraph n x).strands = s.strands := rfl
@[simp] theorem State.setGraph_ctxs (s : State) (n : Nat) (x : Option Graph) : (s.setGraph n x).ctxs = s.ctxs := rfl
@[simp] theorem State.setGraph_work (s : State) (n : Nat) (x : Option Graph) : (s.setGraph n x).work = { s.work with graphs := tset none s.work.graphs n x } := rfl
@[simp] theorem State.setGraph_time (s : State) (n : Nat) (x : Option Graph) : (s.setGraph n x).time = s.time := rfl
@[simp] theorem State.setGraph_energy (s : State) (n : Nat) (x : Option Graph) : (s.setGraph n x).energy = s.energy := rfl
@[simp] theorem State.setGraph_cpres (s : State) (n : Nat) (x : Option Graph) : (s.setGraph n x).cpres = s.cpres := rfl
@[simp] theorem State.setGraph_links (s : State) (n : Nat) (x : Option Graph) : (s.setGraph n x).links = s.links := rfl
@[simp] theorem State.setGraph_host (s : State) (n : Nat) (x : Option Graph) : (s.setGraph n x).host = s.host := rfl
@[simp] theorem State.setGraph_dbg (s : State) (n : Nat) (x : Option Graph) : (s.setGraph n x).dbg = s.dbg := rfl
@[simp] theorem State.setGraph_agenda (s : State) (n : Nat) (x : Option Graph) : (s.setGraph n x).agenda = s.agenda := rfl
@[simp] theorem State.setGraph_cur (s : State) (n : Nat) (x : Option Graph) : (s.setGraph n x).cur = s.cur := rfl
@[simp] theorem State.setGraph_slot (s : State) (n : Nat) (x : Option Graph) : (s.setGraph n x).slot = s.slot := rfl
@[simp] theorem State.setGraph_view (s : State) (n : Nat) (x : Option Graph) : (s.setGraph n x).view = s.view := rfl
@[simp] theorem State.setGraph_verdict (s : State) (n : Nat) (x : Option Graph) : (s.setGraph n x).verdict = s.verdict := rfl
@[simp] theorem State.setGraph_choice (s : State) (n : Nat) (x : Option Graph) : (s.setGraph n x).choice = s.choice := rfl

@[simp] theorem State.setCond_mem (s : State) (n : Nat) (x : Conductor) : (s.setCond n x).mem = s.mem := rfl
@[simp] theorem State.setCond_cores (s : State) (n : Nat) (x : Conductor) : (s.setCond n x).cores = s.cores := rfl
@[simp] theorem State.setCond_strands (s : State) (n : Nat) (x : Conductor) : (s.setCond n x).strands = s.strands := rfl
@[simp] theorem State.setCond_ctxs (s : State) (n : Nat) (x : Conductor) : (s.setCond n x).ctxs = s.ctxs := rfl
@[simp] theorem State.setCond_work (s : State) (n : Nat) (x : Conductor) : (s.setCond n x).work = { s.work with cond := tset Conductor.init s.work.cond n x } := rfl
@[simp] theorem State.setCond_time (s : State) (n : Nat) (x : Conductor) : (s.setCond n x).time = s.time := rfl
@[simp] theorem State.setCond_energy (s : State) (n : Nat) (x : Conductor) : (s.setCond n x).energy = s.energy := rfl
@[simp] theorem State.setCond_cpres (s : State) (n : Nat) (x : Conductor) : (s.setCond n x).cpres = s.cpres := rfl
@[simp] theorem State.setCond_links (s : State) (n : Nat) (x : Conductor) : (s.setCond n x).links = s.links := rfl
@[simp] theorem State.setCond_host (s : State) (n : Nat) (x : Conductor) : (s.setCond n x).host = s.host := rfl
@[simp] theorem State.setCond_dbg (s : State) (n : Nat) (x : Conductor) : (s.setCond n x).dbg = s.dbg := rfl
@[simp] theorem State.setCond_agenda (s : State) (n : Nat) (x : Conductor) : (s.setCond n x).agenda = s.agenda := rfl
@[simp] theorem State.setCond_cur (s : State) (n : Nat) (x : Conductor) : (s.setCond n x).cur = s.cur := rfl
@[simp] theorem State.setCond_slot (s : State) (n : Nat) (x : Conductor) : (s.setCond n x).slot = s.slot := rfl
@[simp] theorem State.setCond_view (s : State) (n : Nat) (x : Conductor) : (s.setCond n x).view = s.view := rfl
@[simp] theorem State.setCond_verdict (s : State) (n : Nat) (x : Conductor) : (s.setCond n x).verdict = s.verdict := rfl
@[simp] theorem State.setCond_choice (s : State) (n : Nat) (x : Conductor) : (s.setCond n x).choice = s.choice := rfl

@[simp] theorem State.modCond_mem (s : State) (n : Nat) (f : Conductor → Conductor) : (s.modCond n f).mem = s.mem := rfl
@[simp] theorem State.modCond_cores (s : State) (n : Nat) (f : Conductor → Conductor) : (s.modCond n f).cores = s.cores := rfl
@[simp] theorem State.modCond_strands (s : State) (n : Nat) (f : Conductor → Conductor) : (s.modCond n f).strands = s.strands := rfl
@[simp] theorem State.modCond_ctxs (s : State) (n : Nat) (f : Conductor → Conductor) : (s.modCond n f).ctxs = s.ctxs := rfl
@[simp] theorem State.modCond_work (s : State) (n : Nat) (f : Conductor → Conductor) : (s.modCond n f).work = { s.work with cond := tset Conductor.init s.work.cond n (f (s.condAt n)) } := rfl
@[simp] theorem State.modCond_time (s : State) (n : Nat) (f : Conductor → Conductor) : (s.modCond n f).time = s.time := rfl
@[simp] theorem State.modCond_energy (s : State) (n : Nat) (f : Conductor → Conductor) : (s.modCond n f).energy = s.energy := rfl
@[simp] theorem State.modCond_cpres (s : State) (n : Nat) (f : Conductor → Conductor) : (s.modCond n f).cpres = s.cpres := rfl
@[simp] theorem State.modCond_links (s : State) (n : Nat) (f : Conductor → Conductor) : (s.modCond n f).links = s.links := rfl
@[simp] theorem State.modCond_host (s : State) (n : Nat) (f : Conductor → Conductor) : (s.modCond n f).host = s.host := rfl
@[simp] theorem State.modCond_dbg (s : State) (n : Nat) (f : Conductor → Conductor) : (s.modCond n f).dbg = s.dbg := rfl
@[simp] theorem State.modCond_agenda (s : State) (n : Nat) (f : Conductor → Conductor) : (s.modCond n f).agenda = s.agenda := rfl
@[simp] theorem State.modCond_cur (s : State) (n : Nat) (f : Conductor → Conductor) : (s.modCond n f).cur = s.cur := rfl
@[simp] theorem State.modCond_slot (s : State) (n : Nat) (f : Conductor → Conductor) : (s.modCond n f).slot = s.slot := rfl
@[simp] theorem State.modCond_view (s : State) (n : Nat) (f : Conductor → Conductor) : (s.modCond n f).view = s.view := rfl
@[simp] theorem State.modCond_verdict (s : State) (n : Nat) (f : Conductor → Conductor) : (s.modCond n f).verdict = s.verdict := rfl
@[simp] theorem State.modCond_choice (s : State) (n : Nat) (f : Conductor → Conductor) : (s.modCond n f).choice = s.choice := rfl

@[simp] theorem State.setStream_mem (s : State) (n : Nat) (x : Stream) : (s.setStream n x).mem = s.mem := rfl
@[simp] theorem State.setStream_cores (s : State) (n : Nat) (x : Stream) : (s.setStream n x).cores = s.cores := rfl
@[simp] theorem State.setStream_strands (s : State) (n : Nat) (x : Stream) : (s.setStream n x).strands = s.strands := rfl
@[simp] theorem State.setStream_ctxs (s : State) (n : Nat) (x : Stream) : (s.setStream n x).ctxs = s.ctxs := rfl
@[simp] theorem State.setStream_work (s : State) (n : Nat) (x : Stream) : (s.setStream n x).work = { s.work with streams := tset Stream.init s.work.streams n x } := rfl
@[simp] theorem State.setStream_time (s : State) (n : Nat) (x : Stream) : (s.setStream n x).time = s.time := rfl
@[simp] theorem State.setStream_energy (s : State) (n : Nat) (x : Stream) : (s.setStream n x).energy = s.energy := rfl
@[simp] theorem State.setStream_cpres (s : State) (n : Nat) (x : Stream) : (s.setStream n x).cpres = s.cpres := rfl
@[simp] theorem State.setStream_links (s : State) (n : Nat) (x : Stream) : (s.setStream n x).links = s.links := rfl
@[simp] theorem State.setStream_host (s : State) (n : Nat) (x : Stream) : (s.setStream n x).host = s.host := rfl
@[simp] theorem State.setStream_dbg (s : State) (n : Nat) (x : Stream) : (s.setStream n x).dbg = s.dbg := rfl
@[simp] theorem State.setStream_agenda (s : State) (n : Nat) (x : Stream) : (s.setStream n x).agenda = s.agenda := rfl
@[simp] theorem State.setStream_cur (s : State) (n : Nat) (x : Stream) : (s.setStream n x).cur = s.cur := rfl
@[simp] theorem State.setStream_slot (s : State) (n : Nat) (x : Stream) : (s.setStream n x).slot = s.slot := rfl
@[simp] theorem State.setStream_view (s : State) (n : Nat) (x : Stream) : (s.setStream n x).view = s.view := rfl
@[simp] theorem State.setStream_verdict (s : State) (n : Nat) (x : Stream) : (s.setStream n x).verdict = s.verdict := rfl
@[simp] theorem State.setStream_choice (s : State) (n : Nat) (x : Stream) : (s.setStream n x).choice = s.choice := rfl

@[simp] theorem State.modDisp_mem (s : State) (n : Nat) (f : Disp → Disp) : (s.modDisp n f).mem = s.mem := rfl
@[simp] theorem State.modDisp_cores (s : State) (n : Nat) (f : Disp → Disp) : (s.modDisp n f).cores = s.cores := rfl
@[simp] theorem State.modDisp_strands (s : State) (n : Nat) (f : Disp → Disp) : (s.modDisp n f).strands = s.strands := rfl
@[simp] theorem State.modDisp_ctxs (s : State) (n : Nat) (f : Disp → Disp) : (s.modDisp n f).ctxs = s.ctxs := rfl
@[simp] theorem State.modDisp_work (s : State) (n : Nat) (f : Disp → Disp) : (s.modDisp n f).work = { s.work with disp := tset Disp.init s.work.disp n (f (s.dispAt n)) } := rfl
@[simp] theorem State.modDisp_time (s : State) (n : Nat) (f : Disp → Disp) : (s.modDisp n f).time = s.time := rfl
@[simp] theorem State.modDisp_energy (s : State) (n : Nat) (f : Disp → Disp) : (s.modDisp n f).energy = s.energy := rfl
@[simp] theorem State.modDisp_cpres (s : State) (n : Nat) (f : Disp → Disp) : (s.modDisp n f).cpres = s.cpres := rfl
@[simp] theorem State.modDisp_links (s : State) (n : Nat) (f : Disp → Disp) : (s.modDisp n f).links = s.links := rfl
@[simp] theorem State.modDisp_host (s : State) (n : Nat) (f : Disp → Disp) : (s.modDisp n f).host = s.host := rfl
@[simp] theorem State.modDisp_dbg (s : State) (n : Nat) (f : Disp → Disp) : (s.modDisp n f).dbg = s.dbg := rfl
@[simp] theorem State.modDisp_agenda (s : State) (n : Nat) (f : Disp → Disp) : (s.modDisp n f).agenda = s.agenda := rfl
@[simp] theorem State.modDisp_cur (s : State) (n : Nat) (f : Disp → Disp) : (s.modDisp n f).cur = s.cur := rfl
@[simp] theorem State.modDisp_slot (s : State) (n : Nat) (f : Disp → Disp) : (s.modDisp n f).slot = s.slot := rfl
@[simp] theorem State.modDisp_view (s : State) (n : Nat) (f : Disp → Disp) : (s.modDisp n f).view = s.view := rfl
@[simp] theorem State.modDisp_verdict (s : State) (n : Nat) (f : Disp → Disp) : (s.modDisp n f).verdict = s.verdict := rfl
@[simp] theorem State.modDisp_choice (s : State) (n : Nat) (f : Disp → Disp) : (s.modDisp n f).choice = s.choice := rfl

@[simp] theorem State.modLink_mem (s : State) (n : Nat) (f : Link → Link) : (s.modLink n f).mem = s.mem := rfl
@[simp] theorem State.modLink_cores (s : State) (n : Nat) (f : Link → Link) : (s.modLink n f).cores = s.cores := rfl
@[simp] theorem State.modLink_strands (s : State) (n : Nat) (f : Link → Link) : (s.modLink n f).strands = s.strands := rfl
@[simp] theorem State.modLink_ctxs (s : State) (n : Nat) (f : Link → Link) : (s.modLink n f).ctxs = s.ctxs := rfl
@[simp] theorem State.modLink_work (s : State) (n : Nat) (f : Link → Link) : (s.modLink n f).work = s.work := rfl
@[simp] theorem State.modLink_time (s : State) (n : Nat) (f : Link → Link) : (s.modLink n f).time = s.time := rfl
@[simp] theorem State.modLink_energy (s : State) (n : Nat) (f : Link → Link) : (s.modLink n f).energy = s.energy := rfl
@[simp] theorem State.modLink_cpres (s : State) (n : Nat) (f : Link → Link) : (s.modLink n f).cpres = s.cpres := rfl
@[simp] theorem State.modLink_links (s : State) (n : Nat) (f : Link → Link) : (s.modLink n f).links = tset Link.init s.links n (f (s.linkAt n)) := rfl
@[simp] theorem State.modLink_host (s : State) (n : Nat) (f : Link → Link) : (s.modLink n f).host = s.host := rfl
@[simp] theorem State.modLink_dbg (s : State) (n : Nat) (f : Link → Link) : (s.modLink n f).dbg = s.dbg := rfl
@[simp] theorem State.modLink_agenda (s : State) (n : Nat) (f : Link → Link) : (s.modLink n f).agenda = s.agenda := rfl
@[simp] theorem State.modLink_cur (s : State) (n : Nat) (f : Link → Link) : (s.modLink n f).cur = s.cur := rfl
@[simp] theorem State.modLink_slot (s : State) (n : Nat) (f : Link → Link) : (s.modLink n f).slot = s.slot := rfl
@[simp] theorem State.modLink_view (s : State) (n : Nat) (f : Link → Link) : (s.modLink n f).view = s.view := rfl
@[simp] theorem State.modLink_verdict (s : State) (n : Nat) (f : Link → Link) : (s.modLink n f).verdict = s.verdict := rfl
@[simp] theorem State.modLink_choice (s : State) (n : Nat) (f : Link → Link) : (s.modLink n f).choice = s.choice := rfl

@[simp] theorem State.issued_mem (s : State) : s.issued.mem = s.mem := rfl
@[simp] theorem State.issued_cores (s : State) : s.issued.cores = s.cores := rfl
@[simp] theorem State.issued_strands (s : State) : s.issued.strands = s.strands := rfl
@[simp] theorem State.issued_ctxs (s : State) : s.issued.ctxs = s.ctxs := rfl
@[simp] theorem State.issued_work (s : State) : s.issued.work = s.work := rfl
@[simp] theorem State.issued_time (s : State) : s.issued.time = s.time := rfl
@[simp] theorem State.issued_energy (s : State) : s.issued.energy = s.energy := rfl
@[simp] theorem State.issued_cpres (s : State) : s.issued.cpres = s.cpres := rfl
@[simp] theorem State.issued_links (s : State) : s.issued.links = s.links := rfl
@[simp] theorem State.issued_host (s : State) : s.issued.host = s.host := rfl
@[simp] theorem State.issued_dbg (s : State) : s.issued.dbg = s.dbg := rfl
@[simp] theorem State.issued_agenda (s : State) : s.issued.agenda = s.agenda := rfl
@[simp] theorem State.issued_cur (s : State) : s.issued.cur = s.cur := rfl
@[simp] theorem State.issued_slot (s : State) : s.issued.slot = s.slot := rfl
@[simp] theorem State.issued_view (s : State) : s.issued.view = s.view := rfl
@[simp] theorem State.issued_verdict (s : State) : s.issued.verdict = .issued none := rfl
@[simp] theorem State.issued_choice (s : State) : s.issued.choice = s.choice := rfl

@[simp] theorem State.goTo_mem (s : State) (a : W64) : (s.goTo a).mem = s.mem := rfl
@[simp] theorem State.goTo_cores (s : State) (a : W64) : (s.goTo a).cores = s.cores := rfl
@[simp] theorem State.goTo_strands (s : State) (a : W64) : (s.goTo a).strands = s.strands := rfl
@[simp] theorem State.goTo_ctxs (s : State) (a : W64) : (s.goTo a).ctxs = s.ctxs := rfl
@[simp] theorem State.goTo_work (s : State) (a : W64) : (s.goTo a).work = s.work := rfl
@[simp] theorem State.goTo_time (s : State) (a : W64) : (s.goTo a).time = s.time := rfl
@[simp] theorem State.goTo_energy (s : State) (a : W64) : (s.goTo a).energy = s.energy := rfl
@[simp] theorem State.goTo_cpres (s : State) (a : W64) : (s.goTo a).cpres = s.cpres := rfl
@[simp] theorem State.goTo_links (s : State) (a : W64) : (s.goTo a).links = s.links := rfl
@[simp] theorem State.goTo_host (s : State) (a : W64) : (s.goTo a).host = s.host := rfl
@[simp] theorem State.goTo_dbg (s : State) (a : W64) : (s.goTo a).dbg = s.dbg := rfl
@[simp] theorem State.goTo_agenda (s : State) (a : W64) : (s.goTo a).agenda = s.agenda := rfl
@[simp] theorem State.goTo_cur (s : State) (a : W64) : (s.goTo a).cur = s.cur := rfl
@[simp] theorem State.goTo_slot (s : State) (a : W64) : (s.goTo a).slot = s.slot := rfl
@[simp] theorem State.goTo_view (s : State) (a : W64) : (s.goTo a).view = s.view := rfl
@[simp] theorem State.goTo_verdict (s : State) (a : W64) : (s.goTo a).verdict = .issued (some a) := rfl
@[simp] theorem State.goTo_choice (s : State) (a : W64) : (s.goTo a).choice = s.choice := rfl

@[simp] theorem State.holds_mem (s : State) : s.holds.mem = s.mem := rfl
@[simp] theorem State.holds_cores (s : State) : s.holds.cores = s.cores := rfl
@[simp] theorem State.holds_strands (s : State) : s.holds.strands = s.strands := rfl
@[simp] theorem State.holds_ctxs (s : State) : s.holds.ctxs = s.ctxs := rfl
@[simp] theorem State.holds_work (s : State) : s.holds.work = s.work := rfl
@[simp] theorem State.holds_time (s : State) : s.holds.time = s.time := rfl
@[simp] theorem State.holds_energy (s : State) : s.holds.energy = s.energy := rfl
@[simp] theorem State.holds_cpres (s : State) : s.holds.cpres = s.cpres := rfl
@[simp] theorem State.holds_links (s : State) : s.holds.links = s.links := rfl
@[simp] theorem State.holds_host (s : State) : s.holds.host = s.host := rfl
@[simp] theorem State.holds_dbg (s : State) : s.holds.dbg = s.dbg := rfl
@[simp] theorem State.holds_agenda (s : State) : s.holds.agenda = s.agenda := rfl
@[simp] theorem State.holds_cur (s : State) : s.holds.cur = s.cur := rfl
@[simp] theorem State.holds_slot (s : State) : s.holds.slot = s.slot := rfl
@[simp] theorem State.holds_view (s : State) : s.holds.view = s.view := rfl
@[simp] theorem State.holds_verdict (s : State) : s.holds.verdict = .waits none := rfl
@[simp] theorem State.holds_choice (s : State) : s.holds.choice = s.choice := rfl

@[simp] theorem State.modStrand_mem (s : State) (n : Nat) (f : Strand → Strand) : (s.modStrand n f).mem = s.mem := by
  unfold State.modStrand; split <;> rfl
@[simp] theorem State.modStrand_cores (s : State) (n : Nat) (f : Strand → Strand) : (s.modStrand n f).cores = s.cores := by
  unfold State.modStrand; split <;> rfl
@[simp] theorem State.modStrand_ctxs (s : State) (n : Nat) (f : Strand → Strand) : (s.modStrand n f).ctxs = s.ctxs := by
  unfold State.modStrand; split <;> rfl
@[simp] theorem State.modStrand_work (s : State) (n : Nat) (f : Strand → Strand) : (s.modStrand n f).work = s.work := by
  unfold State.modStrand; split <;> rfl
@[simp] theorem State.modStrand_time (s : State) (n : Nat) (f : Strand → Strand) : (s.modStrand n f).time = s.time := by
  unfold State.modStrand; split <;> rfl
@[simp] theorem State.modStrand_energy (s : State) (n : Nat) (f : Strand → Strand) : (s.modStrand n f).energy = s.energy := by
  unfold State.modStrand; split <;> rfl
@[simp] theorem State.modStrand_cpres (s : State) (n : Nat) (f : Strand → Strand) : (s.modStrand n f).cpres = s.cpres := by
  unfold State.modStrand; split <;> rfl
@[simp] theorem State.modStrand_links (s : State) (n : Nat) (f : Strand → Strand) : (s.modStrand n f).links = s.links := by
  unfold State.modStrand; split <;> rfl
@[simp] theorem State.modStrand_host (s : State) (n : Nat) (f : Strand → Strand) : (s.modStrand n f).host = s.host := by
  unfold State.modStrand; split <;> rfl
@[simp] theorem State.modStrand_dbg (s : State) (n : Nat) (f : Strand → Strand) : (s.modStrand n f).dbg = s.dbg := by
  unfold State.modStrand; split <;> rfl
@[simp] theorem State.modStrand_agenda (s : State) (n : Nat) (f : Strand → Strand) : (s.modStrand n f).agenda = s.agenda := by
  unfold State.modStrand; split <;> rfl
@[simp] theorem State.modStrand_cur (s : State) (n : Nat) (f : Strand → Strand) : (s.modStrand n f).cur = s.cur := by
  unfold State.modStrand; split <;> rfl
@[simp] theorem State.modStrand_slot (s : State) (n : Nat) (f : Strand → Strand) : (s.modStrand n f).slot = s.slot := by
  unfold State.modStrand; split <;> rfl
@[simp] theorem State.modStrand_view (s : State) (n : Nat) (f : Strand → Strand) : (s.modStrand n f).view = s.view := by
  unfold State.modStrand; split <;> rfl
@[simp] theorem State.modStrand_verdict (s : State) (n : Nat) (f : Strand → Strand) : (s.modStrand n f).verdict = s.verdict := by
  unfold State.modStrand; split <;> rfl
@[simp] theorem State.modStrand_choice (s : State) (n : Nat) (f : Strand → Strand) : (s.modStrand n f).choice = s.choice := by
  unfold State.modStrand; split <;> rfl

@[simp] theorem State.modCtx_mem (s : State) (n : Nat) (f : Ctx → Ctx) : (s.modCtx n f).mem = s.mem := by
  unfold State.modCtx; split <;> rfl
@[simp] theorem State.modCtx_cores (s : State) (n : Nat) (f : Ctx → Ctx) : (s.modCtx n f).cores = s.cores := by
  unfold State.modCtx; split <;> rfl
@[simp] theorem State.modCtx_strands (s : State) (n : Nat) (f : Ctx → Ctx) : (s.modCtx n f).strands = s.strands := by
  unfold State.modCtx; split <;> rfl
@[simp] theorem State.modCtx_work (s : State) (n : Nat) (f : Ctx → Ctx) : (s.modCtx n f).work = s.work := by
  unfold State.modCtx; split <;> rfl
@[simp] theorem State.modCtx_time (s : State) (n : Nat) (f : Ctx → Ctx) : (s.modCtx n f).time = s.time := by
  unfold State.modCtx; split <;> rfl
@[simp] theorem State.modCtx_energy (s : State) (n : Nat) (f : Ctx → Ctx) : (s.modCtx n f).energy = s.energy := by
  unfold State.modCtx; split <;> rfl
@[simp] theorem State.modCtx_cpres (s : State) (n : Nat) (f : Ctx → Ctx) : (s.modCtx n f).cpres = s.cpres := by
  unfold State.modCtx; split <;> rfl
@[simp] theorem State.modCtx_links (s : State) (n : Nat) (f : Ctx → Ctx) : (s.modCtx n f).links = s.links := by
  unfold State.modCtx; split <;> rfl
@[simp] theorem State.modCtx_host (s : State) (n : Nat) (f : Ctx → Ctx) : (s.modCtx n f).host = s.host := by
  unfold State.modCtx; split <;> rfl
@[simp] theorem State.modCtx_dbg (s : State) (n : Nat) (f : Ctx → Ctx) : (s.modCtx n f).dbg = s.dbg := by
  unfold State.modCtx; split <;> rfl
@[simp] theorem State.modCtx_agenda (s : State) (n : Nat) (f : Ctx → Ctx) : (s.modCtx n f).agenda = s.agenda := by
  unfold State.modCtx; split <;> rfl
@[simp] theorem State.modCtx_cur (s : State) (n : Nat) (f : Ctx → Ctx) : (s.modCtx n f).cur = s.cur := by
  unfold State.modCtx; split <;> rfl
@[simp] theorem State.modCtx_slot (s : State) (n : Nat) (f : Ctx → Ctx) : (s.modCtx n f).slot = s.slot := by
  unfold State.modCtx; split <;> rfl
@[simp] theorem State.modCtx_view (s : State) (n : Nat) (f : Ctx → Ctx) : (s.modCtx n f).view = s.view := by
  unfold State.modCtx; split <;> rfl
@[simp] theorem State.modCtx_verdict (s : State) (n : Nat) (f : Ctx → Ctx) : (s.modCtx n f).verdict = s.verdict := by
  unfold State.modCtx; split <;> rfl
@[simp] theorem State.modCtx_choice (s : State) (n : Nat) (f : Ctx → Ctx) : (s.modCtx n f).choice = s.choice := by
  unfold State.modCtx; split <;> rfl

@[simp] theorem State.modTt_mem (s : State) (n : Nat) (f : TileTask → TileTask) : (s.modTt n f).mem = s.mem := by
  unfold State.modTt; split <;> rfl
@[simp] theorem State.modTt_cores (s : State) (n : Nat) (f : TileTask → TileTask) : (s.modTt n f).cores = s.cores := by
  unfold State.modTt; split <;> rfl
@[simp] theorem State.modTt_strands (s : State) (n : Nat) (f : TileTask → TileTask) : (s.modTt n f).strands = s.strands := by
  unfold State.modTt; split <;> rfl
@[simp] theorem State.modTt_ctxs (s : State) (n : Nat) (f : TileTask → TileTask) : (s.modTt n f).ctxs = s.ctxs := by
  unfold State.modTt; split <;> rfl
@[simp] theorem State.modTt_time (s : State) (n : Nat) (f : TileTask → TileTask) : (s.modTt n f).time = s.time := by
  unfold State.modTt; split <;> rfl
@[simp] theorem State.modTt_energy (s : State) (n : Nat) (f : TileTask → TileTask) : (s.modTt n f).energy = s.energy := by
  unfold State.modTt; split <;> rfl
@[simp] theorem State.modTt_cpres (s : State) (n : Nat) (f : TileTask → TileTask) : (s.modTt n f).cpres = s.cpres := by
  unfold State.modTt; split <;> rfl
@[simp] theorem State.modTt_links (s : State) (n : Nat) (f : TileTask → TileTask) : (s.modTt n f).links = s.links := by
  unfold State.modTt; split <;> rfl
@[simp] theorem State.modTt_host (s : State) (n : Nat) (f : TileTask → TileTask) : (s.modTt n f).host = s.host := by
  unfold State.modTt; split <;> rfl
@[simp] theorem State.modTt_dbg (s : State) (n : Nat) (f : TileTask → TileTask) : (s.modTt n f).dbg = s.dbg := by
  unfold State.modTt; split <;> rfl
@[simp] theorem State.modTt_agenda (s : State) (n : Nat) (f : TileTask → TileTask) : (s.modTt n f).agenda = s.agenda := by
  unfold State.modTt; split <;> rfl
@[simp] theorem State.modTt_cur (s : State) (n : Nat) (f : TileTask → TileTask) : (s.modTt n f).cur = s.cur := by
  unfold State.modTt; split <;> rfl
@[simp] theorem State.modTt_slot (s : State) (n : Nat) (f : TileTask → TileTask) : (s.modTt n f).slot = s.slot := by
  unfold State.modTt; split <;> rfl
@[simp] theorem State.modTt_view (s : State) (n : Nat) (f : TileTask → TileTask) : (s.modTt n f).view = s.view := by
  unfold State.modTt; split <;> rfl
@[simp] theorem State.modTt_verdict (s : State) (n : Nat) (f : TileTask → TileTask) : (s.modTt n f).verdict = s.verdict := by
  unfold State.modTt; split <;> rfl
@[simp] theorem State.modTt_choice (s : State) (n : Nat) (f : TileTask → TileTask) : (s.modTt n f).choice = s.choice := by
  unfold State.modTt; split <;> rfl

@[simp] theorem State.modBlock_mem (s : State) (n : Nat) (f : Block → Block) : (s.modBlock n f).mem = s.mem := by
  unfold State.modBlock; split <;> rfl
@[simp] theorem State.modBlock_cores (s : State) (n : Nat) (f : Block → Block) : (s.modBlock n f).cores = s.cores := by
  unfold State.modBlock; split <;> rfl
@[simp] theorem State.modBlock_strands (s : State) (n : Nat) (f : Block → Block) : (s.modBlock n f).strands = s.strands := by
  unfold State.modBlock; split <;> rfl
@[simp] theorem State.modBlock_ctxs (s : State) (n : Nat) (f : Block → Block) : (s.modBlock n f).ctxs = s.ctxs := by
  unfold State.modBlock; split <;> rfl
@[simp] theorem State.modBlock_time (s : State) (n : Nat) (f : Block → Block) : (s.modBlock n f).time = s.time := by
  unfold State.modBlock; split <;> rfl
@[simp] theorem State.modBlock_energy (s : State) (n : Nat) (f : Block → Block) : (s.modBlock n f).energy = s.energy := by
  unfold State.modBlock; split <;> rfl
@[simp] theorem State.modBlock_cpres (s : State) (n : Nat) (f : Block → Block) : (s.modBlock n f).cpres = s.cpres := by
  unfold State.modBlock; split <;> rfl
@[simp] theorem State.modBlock_links (s : State) (n : Nat) (f : Block → Block) : (s.modBlock n f).links = s.links := by
  unfold State.modBlock; split <;> rfl
@[simp] theorem State.modBlock_host (s : State) (n : Nat) (f : Block → Block) : (s.modBlock n f).host = s.host := by
  unfold State.modBlock; split <;> rfl
@[simp] theorem State.modBlock_dbg (s : State) (n : Nat) (f : Block → Block) : (s.modBlock n f).dbg = s.dbg := by
  unfold State.modBlock; split <;> rfl
@[simp] theorem State.modBlock_agenda (s : State) (n : Nat) (f : Block → Block) : (s.modBlock n f).agenda = s.agenda := by
  unfold State.modBlock; split <;> rfl
@[simp] theorem State.modBlock_cur (s : State) (n : Nat) (f : Block → Block) : (s.modBlock n f).cur = s.cur := by
  unfold State.modBlock; split <;> rfl
@[simp] theorem State.modBlock_slot (s : State) (n : Nat) (f : Block → Block) : (s.modBlock n f).slot = s.slot := by
  unfold State.modBlock; split <;> rfl
@[simp] theorem State.modBlock_view (s : State) (n : Nat) (f : Block → Block) : (s.modBlock n f).view = s.view := by
  unfold State.modBlock; split <;> rfl
@[simp] theorem State.modBlock_verdict (s : State) (n : Nat) (f : Block → Block) : (s.modBlock n f).verdict = s.verdict := by
  unfold State.modBlock; split <;> rfl
@[simp] theorem State.modBlock_choice (s : State) (n : Nat) (f : Block → Block) : (s.modBlock n f).choice = s.choice := by
  unfold State.modBlock; split <;> rfl

@[simp] theorem State.modGraph_mem (s : State) (n : Nat) (f : Graph → Graph) : (s.modGraph n f).mem = s.mem := by
  unfold State.modGraph; split <;> rfl
@[simp] theorem State.modGraph_cores (s : State) (n : Nat) (f : Graph → Graph) : (s.modGraph n f).cores = s.cores := by
  unfold State.modGraph; split <;> rfl
@[simp] theorem State.modGraph_strands (s : State) (n : Nat) (f : Graph → Graph) : (s.modGraph n f).strands = s.strands := by
  unfold State.modGraph; split <;> rfl
@[simp] theorem State.modGraph_ctxs (s : State) (n : Nat) (f : Graph → Graph) : (s.modGraph n f).ctxs = s.ctxs := by
  unfold State.modGraph; split <;> rfl
@[simp] theorem State.modGraph_time (s : State) (n : Nat) (f : Graph → Graph) : (s.modGraph n f).time = s.time := by
  unfold State.modGraph; split <;> rfl
@[simp] theorem State.modGraph_energy (s : State) (n : Nat) (f : Graph → Graph) : (s.modGraph n f).energy = s.energy := by
  unfold State.modGraph; split <;> rfl
@[simp] theorem State.modGraph_cpres (s : State) (n : Nat) (f : Graph → Graph) : (s.modGraph n f).cpres = s.cpres := by
  unfold State.modGraph; split <;> rfl
@[simp] theorem State.modGraph_links (s : State) (n : Nat) (f : Graph → Graph) : (s.modGraph n f).links = s.links := by
  unfold State.modGraph; split <;> rfl
@[simp] theorem State.modGraph_host (s : State) (n : Nat) (f : Graph → Graph) : (s.modGraph n f).host = s.host := by
  unfold State.modGraph; split <;> rfl
@[simp] theorem State.modGraph_dbg (s : State) (n : Nat) (f : Graph → Graph) : (s.modGraph n f).dbg = s.dbg := by
  unfold State.modGraph; split <;> rfl
@[simp] theorem State.modGraph_agenda (s : State) (n : Nat) (f : Graph → Graph) : (s.modGraph n f).agenda = s.agenda := by
  unfold State.modGraph; split <;> rfl
@[simp] theorem State.modGraph_cur (s : State) (n : Nat) (f : Graph → Graph) : (s.modGraph n f).cur = s.cur := by
  unfold State.modGraph; split <;> rfl
@[simp] theorem State.modGraph_slot (s : State) (n : Nat) (f : Graph → Graph) : (s.modGraph n f).slot = s.slot := by
  unfold State.modGraph; split <;> rfl
@[simp] theorem State.modGraph_view (s : State) (n : Nat) (f : Graph → Graph) : (s.modGraph n f).view = s.view := by
  unfold State.modGraph; split <;> rfl
@[simp] theorem State.modGraph_verdict (s : State) (n : Nat) (f : Graph → Graph) : (s.modGraph n f).verdict = s.verdict := by
  unfold State.modGraph; split <;> rfl
@[simp] theorem State.modGraph_choice (s : State) (n : Nat) (f : Graph → Graph) : (s.modGraph n f).choice = s.choice := by
  unfold State.modGraph; split <;> rfl
/-! Units read back. -/

theorem State.strandAt_setStrand (s : State) (n m : Nat) (x : Option Strand) :
    (s.setStrand n x).strandAt m = if m = n then x else s.strandAt m := tget_tset ..

theorem State.strandAt_modStrand (s : State) (n m : Nat) (f : Strand → Strand) :
    (s.modStrand n f).strandAt m = if m = n then (s.strandAt n).map f else s.strandAt m := by
  unfold State.modStrand
  split
  · rename_i st h; rw [State.strandAt_setStrand, h]; rfl
  · rename_i h; split_ifs with hm
    · rw [hm, h]; rfl
    · rfl

theorem State.coreAt_modCore (s : State) (n m : Nat) (f : Core → Core) :
    (s.modCore n f).coreAt m = if m = n then f (s.coreAt n) else s.coreAt m := tget_tset ..

theorem State.ctxAt_setCtx (s : State) (n m : Nat) (x : Option Ctx) :
    (s.setCtx n x).ctxAt m = if m = n then x else s.ctxAt m := tget_tset ..

theorem State.ttAt_setTt (s : State) (n m : Nat) (x : Option TileTask) :
    (s.setTt n x).ttAt m = if m = n then x else s.ttAt m := tget_tset ..

theorem State.blockAt_setBlock (s : State) (n m : Nat) (x : Option Block) :
    (s.setBlock n x).blockAt m = if m = n then x else s.blockAt m := tget_tset ..

theorem State.graphAt_setGraph (s : State) (n m : Nat) (x : Option Graph) :
    (s.setGraph n x).graphAt m = if m = n then x else s.graphAt m := tget_tset ..

theorem State.condAt_modCond (s : State) (n m : Nat) (f : Conductor → Conductor) :
    (s.modCond n f).condAt m = if m = n then f (s.condAt n) else s.condAt m := tget_tset ..

theorem State.streamAt_modStream (s : State) (n m : Nat) (f : Stream → Stream) :
    (s.modStream n f).streamAt m = if m = n then f (s.streamAt n) else s.streamAt m := tget_tset ..

theorem State.linkAt_modLink (s : State) (n m : Nat) (f : Link → Link) :
    (s.modLink n f).linkAt m = if m = n then f (s.linkAt n) else s.linkAt m := tget_tset ..

/-! Registers of a strand (R20). -/

/-- A scalar register written: its value, every other register as before; a write to g0 is discarded. -/
theorem Strand.setG_g (st : Strand) (d : GReg) (v : W64) (t : Bool) (r : Nat) :
    tget 0 (st.setG d v t).g r = if d ≠ 0 ∧ r = d.toNat then v else tget 0 st.g r := by
  unfold Strand.setG
  by_cases hd : d = 0
  · simp [hd]
  · rw [if_neg hd]; simp only [tget_tset, ne_eq, hd, not_false_eq_true, true_and]

/-- A scalar register's poison tag after a write. -/
theorem Strand.setG_gtag (st : Strand) (d : GReg) (v : W64) (t : Bool) (r : Nat) :
    tget false (st.setG d v t).gtag r = if d ≠ 0 ∧ r = d.toNat then t else tget false st.gtag r := by
  unfold Strand.setG
  by_cases hd : d = 0
  · simp [hd]
  · rw [if_neg hd]; simp only [tget_tset, ne_eq, hd, not_false_eq_true, true_and]

/-- A write to a register ends the wait for its earlier producer. -/
theorem Strand.setG_busy (st : Strand) (d : GReg) (v : W64) (t : Bool) (r : Nat) :
    tget 0 (st.setG d v t).busy r = if d ≠ 0 ∧ r = d.toNat then 0 else tget 0 st.busy r := by
  unfold Strand.setG
  by_cases hd : d = 0
  · simp [hd]
  · rw [if_neg hd]; simp only [tget_tset, ne_eq, hd, not_false_eq_true, true_and]

/-- A write to g0 changes nothing. -/
@[simp] theorem Strand.setG_zero (st : Strand) (v : W64) (t : Bool) : st.setG 0 v t = st := rfl

/-- A write to a register changes nothing else in the strand. -/
theorem Strand.setG_frame (st : Strand) (d : GReg) (v : W64) (t : Bool) :
    { st.setG d v t with g := st.g, gtag := st.gtag, busy := st.busy } = st := by
  unfold Strand.setG; split <;> rfl

end Sys2Proof.Machine
end

