-- ==== Sys2Proof/Laws/Mem.lean ====
section
/-! SUPPORT. Laws/Mem.lean: the operations that change memory keep its canonical form, and a write reads back. -/
namespace Sys2Proof.Machine

theorem tok_putBytes (bs : List (Option Byte)) :
    ∀ {t : List Host.Cell} (pa : Nat), tok (0 : Byte) t = true → tok (0 : Byte) (putBytes t pa bs) = true := by
  induction bs with
  | nil => intro t pa h; exact h
  | cons b bs ih =>
    intro t pa h
    cases b with
    | none => exact ih (pa + 1) h
    | some b => exact ih (pa + 1) (tok_tset pa b h)

/-- A write keeps the canonical form of memory. -/
theorem wf_write {m : MemState} (pa : Nat) (bs : List (Option Byte)) (tag : Bool) (h : Memory.wf m = true) :
    Memory.wf (m.write pa bs tag) = true := by
  unfold MemState.write
  split
  · exact h
  · exact tok_putBytes bs pa h

/-- Zeroing a frame keeps the canonical form of memory. -/
theorem wf_zeroRange {m : MemState} (pa n : Nat) (h : Memory.wf m = true) : Memory.wf (m.zeroRange pa n) = true :=
  tok_tfilter _ h

/-- A table of which a part is moved to other places keeps the canonical form. -/
theorem tok_moveTab {α : Type} [DecidableEq α] {d : α} {t : Tab α} (a b n : Nat) (h : tok d t = true) :
    tok d (moveTab d t a b n) = true := by
  have all : ∀ (l : List (Nat × α)) {u : Tab α}, tok d u = true →
      tok d (l.foldl (fun t x => tset d t (x.1 - a + b) x.2) u) = true := by
    intro l
    induction l with
    | nil => intro u hu; exact hu
    | cons x l ih => intro u hu; exact ih (tok_tset _ _ hu)
  exact all _ (tokFrom_filter _ h)

/-- A frame copied keeps the canonical form of memory. -/
theorem wf_copyFrame {m : MemState} (frame target : Nat) (h : Memory.wf m = true) :
    Memory.wf (m.copyFrame frame target) = true := by
  unfold MemState.copyFrame
  split
  · exact h
  · exact tok_moveTab frame target 65536 h

/-- A frame moved keeps the canonical form of memory. -/
theorem wf_moveFrame {m : MemState} (frame target : Nat) (h : Memory.wf m = true) :
    Memory.wf (m.moveFrame frame target) = true := wf_copyFrame frame target h

/-! What an access leaves at its home beside the bytes: marks of the L2 slices and of the park-tier channels only (R89, R337). -/

/-- An access notes its channel at most. -/
theorem touchChannel_frame (s : State) (pa : Nat) :
    ∃ c r, s.touchChannel pa = s.modMem fun m => { m with chanAccess := c, refresh := r } := by
  unfold State.touchChannel
  split
  · exact ⟨_, _, rfl⟩
  · exact ⟨_, _, rfl⟩

/-- A list of steps that each change the L2 sets and the channels' marks at most does so as a whole. -/
theorem marks_foldl {α : Type} (f : State → α → State)
    (hf : ∀ s x, ∃ w c r, f s x = s.modMem fun m => { m with l2Sets := w, chanAccess := c, refresh := r }) (l : List α) :
    ∀ s : State, ∃ w c r, l.foldl f s = s.modMem fun m => { m with l2Sets := w, chanAccess := c, refresh := r } := by
  induction l with
  | nil => intro s; exact ⟨_, _, _, rfl⟩
  | cons x l ih =>
    intro s
    obtain ⟨w, c, r, h⟩ := hf s x
    obtain ⟨w', c', r', h'⟩ := ih (f s x)
    exact ⟨w', c', r', by rw [List.foldl_cons, h', h]; rfl⟩

theorem touchSpan_frame (s : State) (pa n : Nat) :
    ∃ w c r, s.touchSpan pa n = s.modMem fun m => { m with l2Sets := w, chanAccess := c, refresh := r } :=
  marks_foldl _ (fun s i => by
    obtain ⟨c, r, h⟩ := touchChannel_frame s (pa + 65536 * i)
    exact ⟨s.mem.l2Sets, c, r, h⟩) _ s

theorem touchL2_frame (s : State) (ctx pa : Nat) (dirty : Bool) :
    ∃ w c r, s.touchL2 ctx pa dirty = s.modMem fun m => { m with l2Sets := w, chanAccess := c, refresh := r } := by
  have one : ∀ (b : Bool) (s : State) (a : Nat), ∃ c r, (if b = true then s else s.touchChannel a) =
      s.modMem fun m => { m with chanAccess := c, refresh := r } := by
    intro b s a
    split
    · exact ⟨_, _, rfl⟩
    · exact touchChannel_frame s a
  have two : ∀ (b : Bool) (s : State) (a : Nat), ∃ c r, (if b = true then s.touchChannel a else s) =
      s.modMem fun m => { m with chanAccess := c, refresh := r } := by
    intro b s a
    split
    · exact touchChannel_frame s a
    · exact ⟨_, _, rfl⟩
  unfold State.touchL2
  simp only
  obtain ⟨c, r, h⟩ := one ((tget [] s.mem.l2Sets (l2Key pa)).any fun w => w.line = pa / 128) s pa
  rw [h]
  split
  · next l _ =>
    obtain ⟨c', r', h'⟩ := two ((tget [] s.mem.l2Sets (l2Key pa)).any fun w => decide (w.line = l) && w.dirty)
      (s.modMem fun m => { m with chanAccess := c, refresh := r }) (l * 128)
    rw [h']
    exact ⟨_, _, _, rfl⟩
  · exact ⟨_, _, _, rfl⟩

theorem touchParts_frame (s : State) (ctx : Nat) (ps : List Part) :
    ∃ w c r, s.touchParts ctx ps = s.modMem fun m => { m with l2Sets := w, chanAccess := c, refresh := r } :=
  marks_foldl (fun s (p : Part) => s.touchL2 ctx p.pa false) (fun s p => touchL2_frame s ctx p.pa false) ps s

theorem touchLines_frame (s : State) (a n : Nat) :
    ∃ w c r, s.touchLines a n = s.modMem fun m => { m with l2Sets := w, chanAccess := c, refresh := r } :=
  marks_foldl _ (fun s i => by
    simp only
    split
    · exact touchL2_frame s 64 _ false
    · exact ⟨_, _, _, rfl⟩) _ s

/-- A frame zeroed at a home keeps the canonical form of memory. -/
theorem wf_zeroFrame {s : State} (pa n : Nat) (h : Memory.wf s.mem = true) : Memory.wf (s.zeroFrame pa n).mem = true := by
  obtain ⟨w, c, r, e⟩ := touchSpan_frame s pa n
  have step : ∀ m : MemState, Memory.wf m = true → Memory.wf (if m.discards pa = true then
      { m with cxlDropped := if (cxlPort pa).isSome then m.cxlDropped + n / 128 else m.cxlDropped } else m.zeroRange pa n) = true := by
    intro m hm
    cases m.discards pa
    · exact wf_zeroRange pa n hm
    · exact hm
  unfold State.zeroFrame
  rw [e]
  exact step _ h

theorem wf_init : Memory.wf MemState.init = true := rfl

/-- The memory of the machine after reset is in canonical form. -/
theorem wf_reset : Memory.wf State.reset.mem = true := rfl

/-- The byte that a list of enabled bytes holds for an address. -/
theorem tget_putBytes (bs : List (Option Byte)) :
    ∀ (t : List Host.Cell) (pa a : Nat), tget 0 (putBytes t pa bs) a =
      if pa ≤ a then ((bs[a - pa]?).getD none).getD (tget 0 t a) else tget 0 t a := by
  induction bs with
  | nil => intro t pa a; simp [putBytes]
  | cons b bs ih =>
    intro t pa a
    have step : ∀ u : List Host.Cell, (∀ x, x ≠ pa → tget 0 u x = tget 0 t x) →
        tget 0 u pa = (b.getD (tget 0 t pa)) → tget 0 (putBytes u (pa + 1) bs) a =
          if pa ≤ a then ((((b :: bs)[a - pa]?)).getD none).getD (tget 0 t a) else tget 0 t a := by
      intro u hu hp
      rw [ih]
      rcases Nat.lt_trichotomy a pa with h | h | h
      · simpa [show ¬ pa + 1 ≤ a by omega, show ¬ pa ≤ a by omega] using hu a (by omega)
      · subst h; simpa using hp
      · have e : a - pa = (a - (pa + 1)) + 1 := by omega
        rw [hu a (by omega)]; simp [show pa + 1 ≤ a by omega, show pa ≤ a by omega, e]
    cases b with
    | none => exact step t (fun _ _ => rfl) rfl
    | some b =>
      exact step (tset 0 t pa b) (fun x hx => tget_tset_other 0 t b hx) (tget_tset_same 0 t pa b)

/-- What a write that is not discarded leaves at an address: the byte enabled there, or the byte as it was. -/
theorem byteAt_write (m : MemState) (pa a : Nat) (bs : List (Option Byte)) (tag : Bool) (h : m.discards pa = false) :
    (m.write pa bs tag).byteAt a =
      if pa ≤ a then ((bs[a - pa]?).getD none).getD (m.byteAt a) else m.byteAt a := by
  simp only [MemState.write, h, MemState.byteAt]
  exact tget_putBytes bs m.bytes pa a

/-- A write that is discarded leaves every byte. -/
theorem byteAt_write_discarded (m : MemState) (pa a : Nat) (bs : List (Option Byte)) (tag : Bool)
    (h : m.discards pa = true) : (m.write pa bs tag).byteAt a = m.byteAt a := by
  simp [MemState.write, h, MemState.byteAt]

/-- A write leaves every byte outside the bytes it covers. -/
theorem byteAt_write_outside (m : MemState) (pa a : Nat) (bs : List (Option Byte)) (tag : Bool)
    (h : a < pa ∨ pa + bs.length ≤ a) : (m.write pa bs tag).byteAt a = m.byteAt a := by
  cases hd : m.discards pa with
  | true => exact byteAt_write_discarded m pa a bs tag hd
  | false =>
    rw [byteAt_write m pa a bs tag hd]
    split_ifs with h1
    · have : bs.length ≤ a - pa := by omega
      simp [List.getElem?_eq_none this]
    · rfl

end Sys2Proof.Machine
end

