-- ==== Sys2Proof/Laws/PerInstr.lean ====
section
/-! SUPPORT. Laws/PerInstr.lean: one law for every instruction: the first unit of its word says how many units the word has (R135).
A step that no strand word asks for has no units. -/
namespace Sys2Proof.Laws.UnitCount

/-- R135: the first unit of an instruction's word says how many units the word has. -/
def Statement (i : Instr) : Prop := ∀ u us, encode i = u :: us → unitsOf u = (encode i).length

theorem even_encSR (f : Nat) (d a b : GReg) : (encSR f d a b).toNat % 2 = 0 := by
  simp only [encSR, fld, BitVec.toNat_ofNat]; omega

theorem even_encSI (p : Nat) (d a : GReg) (imm : Nat) : (encSI p d a imm).toNat % 2 = 0 := by
  simp only [encSI, fld, BitVec.toNat_ofNat]; omega

theorem even_encP (p rest : Nat) : (encP p rest).toNat % 2 = 0 := by
  simp only [encP, BitVec.toNat_ofNat]; omega

theorem unitsOf_even {u : W32} (h : u.toNat % 2 = 0) : unitsOf u = 1 := by
  have e : bits u.toNat 0 2 = 0 ∨ bits u.toNat 0 2 = 2 := by simp only [bits]; omega
  rcases e with e | e <;> simp [unitsOf, e]

theorem bits_low (x k : Nat) (h : x % 4 = k) : bits (BitVec.ofNat 32 x).toNat 0 2 = k := by
  simp only [bits, BitVec.toNat_ofNat]; omega

theorem flag_low (b : Bool) (k : Nat) : flag b (k + 2) % 4 = 0 := by
  cases b
  · rfl
  · simp only [flag, if_true, Nat.pow_succ]; omega

theorem fld_low {n : Nat} (x : BitVec n) (k : Nat) : fld x (k + 2) % 4 = 0 := by
  simp only [fld, Nat.pow_succ]; rw [show x.toNat * (2 ^ k * 2 * 2) = x.toNat * 2 ^ k * 4 by ring]; omega

theorem low_encVector (opc : Nat) (w : VWord) : encVector opc w % 4 = 1 := by
  have z : flag w.zero 65 % 4 = 0 := flag_low w.zero 63
  simp only [encVector, fld]; omega

theorem low_encHead (opc : Nat) (h : EHead) : encHead opc h % 4 = 3 := by
  have z : flag h.stamped 29 % 4 = 0 := flag_low h.stamped 27
  simp only [encHead, fld]; omega

theorem low_encMma (x : MmaArgs) : encMma x % 4 = 0 := by
  have z1 : flag x.bsrc 73 % 4 = 0 := flag_low x.bsrc 71
  have z2 : flag x.scaled 100 % 4 = 0 := flag_low x.scaled 98
  have z3 : flag x.sat 115 % 4 = 0 := flag_low x.sat 113
  simp only [encMma, fld]; omega

theorem low_encAcc (x : AccArgs) : encAcc x % 4 = 0 := by
  have z1 : flag x.rz 64 % 4 = 0 := flag_low x.rz 62
  have z2 : flag x.sat 65 % 4 = 0 := flag_low x.sat 63
  have z3 : flag x.clr 66 % 4 = 0 := flag_low x.clr 64
  simp only [encAcc, fld]; omega

theorem low_encScl (x : SclArgs) : encScl x % 4 = 0 := by simp only [encScl, fld]; omega

theorem low_encWst (x : WstArgs) : encWst x % 4 = 0 := by simp only [encWst, fld]; omega

theorem low_encCpy (x : CpyArgs) : encCpy x % 4 = 0 := by
  have z1 : flag x.dkind 62 % 4 = 0 := flag_low x.dkind 60
  have z2 : flag x.skind 63 % 4 = 0 := flag_low x.skind 61
  simp only [encCpy, fld]; omega

theorem low_encSfj (op : Nat) (d : GReg) : encSfj op d % 4 = 0 := by simp only [encSfj, fld]; omega

/-- A scalar word has one unit. -/
theorem scalar {i : Instr} {w : W32} (h : encodeScalar i = some w) (e : w.toNat % 2 = 0) : Statement i := by
  intro u us hu
  have x : encode i = [w] := by simp only [encode, h]
  rw [x] at hu ⊢
  cases hu
  exact unitsOf_even e

/-- A vector word has three units. -/
theorem vector {i : Instr} {opc : Nat} {w : VWord} (h : encodeScalar i = none) (v : i.vword = some (opc, w)) : Statement i := by
  intro u us hu
  have x : encode i = natUnits 3 (encVector opc w) := by simp only [encode, h, v]
  rw [x] at hu ⊢
  cases hu
  have b := bits_low _ 1 (low_encVector opc w)
  unfold unitsOf; rw [b]; rfl

/-- An engine word has six units. -/
theorem engine {i : Instr} {opc a : Nat} {g : EHead} (h : encodeScalar i = none) (v : i.vword = none)
    (e : encodeEngine i = some (encHead opc g + a)) (z : a % 4 = 0) : Statement i := by
  intro u us hu
  have x : encode i = natUnits 6 (encHead opc g + a) := by simp only [encode, h, v, e]
  rw [x] at hu ⊢
  cases hu
  have b := bits_low (encHead opc g + a) 3 (by have := low_encHead opc g; omega)
  unfold unitsOf; rw [b]; rfl

/-- A step that no word asks for. -/
theorem event {i : Instr} (h : encode i = []) : Statement i := by
  intro u us hu
  rw [h] at hu
  cases hu

theorem nop : Statement .nop := scalar rfl (even_encSR _ _ _ _)
theorem add : ∀ d a b, Statement (.add d a b) := fun _ _ _ => scalar rfl (even_encSR _ _ _ _)
theorem sub : ∀ d a b, Statement (.sub d a b) := fun _ _ _ => scalar rfl (even_encSR _ _ _ _)
theorem mul : ∀ d a b, Statement (.mul d a b) := fun _ _ _ => scalar rfl (even_encSR _ _ _ _)
theorem mulh : ∀ d a b, Statement (.mulh d a b) := fun _ _ _ => scalar rfl (even_encSR _ _ _ _)
theorem mulhn : ∀ d a b, Statement (.mulhn d a b) := fun _ _ _ => scalar rfl (even_encSR _ _ _ _)
theorem div : ∀ d a b, Statement (.div d a b) := fun _ _ _ => scalar rfl (even_encSR _ _ _ _)
theorem divn : ∀ d a b, Statement (.divn d a b) := fun _ _ _ => scalar rfl (even_encSR _ _ _ _)
theorem rem : ∀ d a b, Statement (.rem d a b) := fun _ _ _ => scalar rfl (even_encSR _ _ _ _)
theorem remn : ∀ d a b, Statement (.remn d a b) := fun _ _ _ => scalar rfl (even_encSR _ _ _ _)
theorem and : ∀ d a b, Statement (.and d a b) := fun _ _ _ => scalar rfl (even_encSR _ _ _ _)
theorem or : ∀ d a b, Statement (.or d a b) := fun _ _ _ => scalar rfl (even_encSR _ _ _ _)
theorem xor : ∀ d a b, Statement (.xor d a b) := fun _ _ _ => scalar rfl (even_encSR _ _ _ _)
theorem shl : ∀ d a b, Statement (.shl d a b) := fun _ _ _ => scalar rfl (even_encSR _ _ _ _)
theorem shr : ∀ d a b, Statement (.shr d a b) := fun _ _ _ => scalar rfl (even_encSR _ _ _ _)
theorem sha : ∀ d a b, Statement (.sha d a b) := fun _ _ _ => scalar rfl (even_encSR _ _ _ _)
theorem min : ∀ d a b, Statement (.min d a b) := fun _ _ _ => scalar rfl (even_encSR _ _ _ _)
theorem max : ∀ d a b, Statement (.max d a b) := fun _ _ _ => scalar rfl (even_encSR _ _ _ _)
theorem minn : ∀ d a b, Statement (.minn d a b) := fun _ _ _ => scalar rfl (even_encSR _ _ _ _)
theorem maxn : ∀ d a b, Statement (.maxn d a b) := fun _ _ _ => scalar rfl (even_encSR _ _ _ _)
theorem clz : ∀ d a, Statement (.clz d a) := fun _ _ => scalar rfl (even_encSR _ _ _ _)
theorem popc : ∀ d a, Statement (.popc d a) := fun _ _ => scalar rfl (even_encSR _ _ _ _)
theorem sel : ∀ d a b, Statement (.sel d a b) := fun _ _ _ => scalar rfl (even_encSR _ _ _ _)
theorem setcc : ∀ c d a b, Statement (.setcc c d a b) := fun _ _ _ _ => scalar rfl (even_encSR _ _ _ _)
theorem shli : ∀ d a sh, Statement (.shli d a sh) := fun _ _ _ => scalar rfl (even_encSR _ _ _ _)
theorem shri : ∀ d a sh, Statement (.shri d a sh) := fun _ _ _ => scalar rfl (even_encSR _ _ _ _)
theorem shai : ∀ d a sh, Statement (.shai d a sh) := fun _ _ _ => scalar rfl (even_encSR _ _ _ _)
theorem addi : ∀ d a imm, Statement (.addi d a imm) := fun _ _ _ => scalar rfl (even_encSI _ _ _ _)
theorem andi : ∀ d a imm, Statement (.andi d a imm) := fun _ _ _ => scalar rfl (even_encSI _ _ _ _)
theorem ori : ∀ d a imm, Statement (.ori d a imm) := fun _ _ _ => scalar rfl (even_encSI _ _ _ _)
theorem xori : ∀ d a imm, Statement (.xori d a imm) := fun _ _ _ => scalar rfl (even_encSI _ _ _ _)
theorem ldi : ∀ d imm, Statement (.ldi d imm) := fun _ _ => scalar rfl (even_encSI _ _ _ _)
theorem ldih : ∀ d imm, Statement (.ldih d imm) := fun _ _ => scalar rfl (even_encSI _ _ _ _)
theorem adda : ∀ d a imm, Statement (.adda d a imm) := fun _ _ _ => scalar rfl (even_encSI _ _ _ _)
theorem b : ∀ off, Statement (.b off) := fun _ => scalar rfl (even_encP _ _)
theorem jl : ∀ off, Statement (.jl off) := fun _ => scalar rfl (even_encP _ _)
theorem bz : ∀ a off, Statement (.bz a off) := fun _ _ => scalar rfl (even_encP _ _)
theorem bnz : ∀ a off, Statement (.bnz a off) := fun _ _ => scalar rfl (even_encP _ _)
theorem bccc : ∀ c a b off, Statement (.bccc c a b off) := fun _ _ _ _ => scalar rfl (even_encP _ _)
theorem jr : ∀ a, Statement (.jr a) := fun _ => scalar rfl (even_encSR _ _ _ _)
theorem txb : ∀ off, Statement (.txb off) := fun _ => scalar rfl (even_encP _ _)
theorem txe : Statement .txe := scalar rfl (even_encSR _ _ _ _)
theorem txa : ∀ code, Statement (.txa code) := fun _ => scalar rfl (even_encSR _ _ _ _)
theorem txs : ∀ d, Statement (.txs d) := fun _ => scalar rfl (even_encSR _ _ _ _)
theorem loop : ∀ lv count last, Statement (.loop lv count last) := fun _ _ _ => scalar rfl (even_encP _ _)
theorem loopg : ∀ lv a last, Statement (.loopg lv a last) := fun _ _ _ => scalar rfl (even_encP _ _)
theorem loopp : ∀ lv a stages1 last, Statement (.loopp lv a stages1 last) := fun _ _ _ _ => scalar rfl (even_encP _ _)
theorem lexit : ∀ lv, Statement (.lexit lv) := fun _ => scalar rfl (even_encP _ _)
theorem safept : ∀ a, Statement (.safept a) := fun _ => scalar rfl (even_encSR _ _ _ _)
theorem exit : ∀ n e1 e2 e3 e4, Statement (.exit n e1 e2 e3 e4) := fun _ _ _ _ _ => scalar rfl (even_encP _ _)
theorem trap : ∀ n, Statement (.trap n) := fun _ => scalar rfl (even_encSR _ _ _ _)
theorem brk : ∀ n, Statement (.brk n) := fun _ => scalar rfl (even_encSR _ _ _ _)
theorem eret : Statement .eret := scalar rfl (even_encSR _ _ _ _)
theorem ld : ∀ sz d a off, Statement (.ld sz d a off) := fun _ _ _ _ => scalar rfl (even_encSI _ _ _ _)
theorem ldn : ∀ sz d a off, Statement (.ldn sz d a off) := fun _ _ _ _ => scalar rfl (even_encSI _ _ _ _)
theorem st : ∀ sz d a off, Statement (.st sz d a off) := fun _ _ _ _ => scalar rfl (even_encSI _ _ _ _)
theorem ldS : ∀ sz d a off, Statement (.ldS sz d a off) := fun _ _ _ _ => scalar rfl (even_encSI _ _ _ _)
theorem chk : ∀ a, Statement (.chk a) := fun _ => scalar rfl (even_encSR _ _ _ _)
theorem ldSp : ∀ sz d a off, Statement (.ldSp sz d a off) := fun _ _ _ _ => scalar rfl (even_encSI _ _ _ _)
theorem stSp : ∀ sz d a off, Statement (.stSp sz d a off) := fun _ _ _ _ => scalar rfl (even_encSI _ _ _ _)
theorem spld : ∀ sz d off, Statement (.spld sz d off) := fun _ _ _ => scalar rfl (even_encSI _ _ _ _)
theorem spst : ∀ sz d off, Statement (.spst sz d off) := fun _ _ _ => scalar rfl (even_encSI _ _ _ _)
theorem ldNb : ∀ sz d a b, Statement (.ldNb sz d a b) := fun _ _ _ _ => scalar rfl (even_encSR _ _ _ _)
theorem stPm : ∀ sz d a b, Statement (.stPm sz d a b) := fun _ _ _ _ => scalar rfl (even_encSR _ _ _ _)
theorem mark : Statement .mark := scalar rfl (even_encSR _ _ _ _)
theorem acq : ∀ sc a b, Statement (.acq sc a b) := fun _ _ _ => scalar rfl (even_encSR _ _ _ _)
theorem rel : ∀ sc, Statement (.rel sc) := fun _ => scalar rfl (even_encSR _ _ _ _)
theorem fenceq : ∀ mask, Statement (.fenceq mask) := fun _ => scalar rfl (even_encSR _ _ _ _)
theorem amo : ∀ op dbl d a b, Statement (.amo op dbl d a b) := fun _ _ _ _ _ => scalar rfl (even_encSR _ _ _ _)
theorem amof : ∀ fz cn sv op fmt d a b, Statement (.amof fz cn sv op fmt d a b) :=
  fun _ _ _ _ _ _ _ _ => scalar rfl (even_encSR _ _ _ _)
theorem post : ∀ s k, Statement (.post s k) := fun _ _ => scalar rfl (even_encSI _ _ _ _)
theorem await : ∀ s t, Statement (.await s t) := fun _ _ => scalar rfl (even_encSI _ _ _ _)
theorem semrd : ∀ d s, Statement (.semrd d s) := fun _ _ => scalar rfl (even_encSI _ _ _ _)
theorem semwr : ∀ s a, Statement (.semwr s a) := fun _ _ => scalar rfl (even_encSI _ _ _ _)
theorem waitv : ∀ d a b, Statement (.waitv d a b) := fun _ _ _ => scalar rfl (even_encSR _ _ _ _)
theorem tagpub : ∀ n, Statement (.tagpub n) := fun _ => scalar rfl (even_encSR _ _ _ _)
theorem tagq : ∀ d n, Statement (.tagq d n) := fun _ _ => scalar rfl (even_encSR _ _ _ _)
theorem ptrd : ∀ d, Statement (.ptrd d) := fun _ => scalar rfl (even_encSR _ _ _ _)
theorem frrd : ∀ d a, Statement (.frrd d a) := fun _ _ => scalar rfl (even_encSR _ _ _ _)
theorem waitpt : ∀ a, Statement (.waitpt a) := fun _ => scalar rfl (even_encSR _ _ _ _)
theorem mbsend : ∀ d a b, Statement (.mbsend d a b) := fun _ _ _ => scalar rfl (even_encSR _ _ _ _)
theorem mbrecv : ∀ d a b, Statement (.mbrecv d a b) := fun _ _ _ => scalar rfl (even_encSR _ _ _ _)
theorem mbpoll : ∀ d a, Statement (.mbpoll d a) := fun _ _ => scalar rfl (even_encSR _ _ _ _)
theorem mfs : ∀ d r, Statement (.mfs d r) := fun _ _ => scalar rfl (even_encSI _ _ _ _)
theorem mts : ∀ r a, Statement (.mts r a) := fun _ _ => scalar rfl (even_encSI _ _ _ _)
theorem kill : ∀ blk mask, Statement (.kill blk mask) := fun _ _ => scalar rfl (even_encP _ _)
theorem lockwr : ∀ a b, Statement (.lockwr a b) := fun _ _ => scalar rfl (even_encSR _ _ _ _)
theorem lockrd : ∀ d a, Statement (.lockrd d a) := fun _ _ => scalar rfl (even_encSR _ _ _ _)
theorem l1inv : ∀ a b, Statement (.l1inv a b) := fun _ _ => scalar rfl (even_encSR _ _ _ _)
theorem rdcinv : ∀ a b, Statement (.rdcinv a b) := fun _ _ => scalar rfl (even_encSR _ _ _ _)
theorem cacheWb : ∀ a b, Statement (.cacheWb a b) := fun _ _ => scalar rfl (even_encSR _ _ _ _)
theorem tlbinv : ∀ a b, Statement (.tlbinv a b) := fun _ _ => scalar rfl (even_encSR _ _ _ _)
theorem qcfg : ∀ n d a b, Statement (.qcfg n d a b) := fun _ _ _ _ => scalar rfl (even_encSR _ _ _ _)
theorem qrst : ∀ n, Statement (.qrst n) := fun _ => scalar rfl (even_encSR _ _ _ _)
theorem vadd : ∀ w, Statement (.vadd w) := fun _ => vector rfl rfl
theorem vsub : ∀ w, Statement (.vsub w) := fun _ => vector rfl rfl
theorem vmul : ∀ w, Statement (.vmul w) := fun _ => vector rfl rfl
theorem vmulh : ∀ w, Statement (.vmulh w) := fun _ => vector rfl rfl
theorem vmad : ∀ w, Statement (.vmad w) := fun _ => vector rfl rfl
theorem vmin : ∀ w, Statement (.vmin w) := fun _ => vector rfl rfl
theorem vmax : ∀ w, Statement (.vmax w) := fun _ => vector rfl rfl
theorem vabs : ∀ w, Statement (.vabs w) := fun _ => vector rfl rfl
theorem vneg : ∀ w, Statement (.vneg w) := fun _ => vector rfl rfl
theorem vand : ∀ w, Statement (.vand w) := fun _ => vector rfl rfl
theorem vor : ∀ w, Statement (.vor w) := fun _ => vector rfl rfl
theorem vxor : ∀ w, Statement (.vxor w) := fun _ => vector rfl rfl
theorem vnot : ∀ w, Statement (.vnot w) := fun _ => vector rfl rfl
theorem vshl : ∀ w, Statement (.vshl w) := fun _ => vector rfl rfl
theorem vshr : ∀ w, Statement (.vshr w) := fun _ => vector rfl rfl
theorem vsha : ∀ w, Statement (.vsha w) := fun _ => vector rfl rfl
theorem vpopc : ∀ w, Statement (.vpopc w) := fun _ => vector rfl rfl
theorem vfadd : ∀ w, Statement (.vfadd w) := fun _ => vector rfl rfl
theorem vfsub : ∀ w, Statement (.vfsub w) := fun _ => vector rfl rfl
theorem vfmul : ∀ w, Statement (.vfmul w) := fun _ => vector rfl rfl
theorem vfma : ∀ w, Statement (.vfma w) := fun _ => vector rfl rfl
theorem vfdiv : ∀ w, Statement (.vfdiv w) := fun _ => vector rfl rfl
theorem vfsqrt : ∀ w, Statement (.vfsqrt w) := fun _ => vector rfl rfl
theorem vfrcp : ∀ w, Statement (.vfrcp w) := fun _ => vector rfl rfl
theorem vfrsq : ∀ w, Statement (.vfrsq w) := fun _ => vector rfl rfl
theorem vfexp2 : ∀ w, Statement (.vfexp2 w) := fun _ => vector rfl rfl
theorem vflog2 : ∀ w, Statement (.vflog2 w) := fun _ => vector rfl rfl
theorem vfmin : ∀ w, Statement (.vfmin w) := fun _ => vector rfl rfl
theorem vfmax : ∀ w, Statement (.vfmax w) := fun _ => vector rfl rfl
theorem vfabs : ∀ w, Statement (.vfabs w) := fun _ => vector rfl rfl
theorem vfneg : ∀ w, Statement (.vfneg w) := fun _ => vector rfl rfl
theorem vcmp : ∀ c w, Statement (.vcmp c w) := fun c _ => by cases c <;> exact vector rfl rfl
theorem vsel : ∀ w, Statement (.vsel w) := fun _ => vector rfl rfl
theorem mand : ∀ w, Statement (.mand w) := fun _ => vector rfl rfl
theorem mor : ∀ w, Statement (.mor w) := fun _ => vector rfl rfl
theorem mxor : ∀ w, Statement (.mxor w) := fun _ => vector rfl rfl
theorem mnot : ∀ w, Statement (.mnot w) := fun _ => vector rfl rfl
theorem mpopc : ∀ w, Statement (.mpopc w) := fun _ => vector rfl rfl
theorem mfirst : ∀ w, Statement (.mfirst w) := fun _ => vector rfl rfl
theorem vcvt : ∀ w, Statement (.vcvt w) := fun _ => vector rfl rfl
theorem vwiden : ∀ w, Statement (.vwiden w) := fun _ => vector rfl rfl
theorem vnarrow : ∀ w, Statement (.vnarrow w) := fun _ => vector rfl rfl
theorem vquantScale : ∀ w, Statement (.vquantScale w) := fun _ => vector rfl rfl
theorem vquant : ∀ w, Statement (.vquant w) := fun _ => vector rfl rfl
theorem vdeq : ∀ w, Statement (.vdeq w) := fun _ => vector rfl rfl
theorem vred : ∀ op w, Statement (.vred op w) := fun c _ => by cases c <;> exact vector rfl rfl
theorem vperm : ∀ w, Statement (.vperm w) := fun _ => vector rfl rfl
theorem vshuf : ∀ w, Statement (.vshuf w) := fun _ => vector rfl rfl
theorem vbcast : ∀ w, Statement (.vbcast w) := fun _ => vector rfl rfl
theorem vslide : ∀ w, Statement (.vslide w) := fun _ => vector rfl rfl
theorem vins : ∀ w, Statement (.vins w) := fun _ => vector rfl rfl
theorem vext : ∀ w, Statement (.vext w) := fun _ => vector rfl rfl
theorem viota : ∀ w, Statement (.viota w) := fun _ => vector rfl rfl
theorem vld : ∀ w, Statement (.vld w) := fun _ => vector rfl rfl
theorem vst : ∀ w, Statement (.vst w) := fun _ => vector rfl rfl
theorem vldg : ∀ w, Statement (.vldg w) := fun _ => vector rfl rfl
theorem vsts : ∀ w, Statement (.vsts w) := fun _ => vector rfl rfl
theorem vldm : ∀ w, Statement (.vldm w) := fun _ => vector rfl rfl
theorem vstm : ∀ w, Statement (.vstm w) := fun _ => vector rfl rfl
theorem vldmNb : ∀ w, Statement (.vldmNb w) := fun _ => vector rfl rfl
theorem vstmPm : ∀ w, Statement (.vstmPm w) := fun _ => vector rfl rfl
theorem vmov : ∀ w, Statement (.vmov w) := fun _ => vector rfl rfl
theorem vrng : ∀ w, Statement (.vrng w) := fun _ => vector rfl rfl
theorem mma : ∀ h x, Statement (.mma h x) := fun _ _ => engine rfl rfl rfl (low_encMma _)
theorem mmaz : ∀ h x, Statement (.mmaz h x) := fun _ _ => engine rfl rfl rfl (low_encMma _)
theorem accrd : ∀ h x, Statement (.accrd h x) := fun _ _ => engine rfl rfl rfl (low_encAcc _)
theorem accwr : ∀ h x, Statement (.accwr h x) := fun _ _ => engine rfl rfl rfl (low_encAcc _)
theorem accz : ∀ h mask, Statement (.accz h mask) := fun _ _ => engine rfl rfl rfl (fld_low _ 38)
theorem scld : ∀ h x, Statement (.scld h x) := fun _ _ => engine rfl rfl rfl (low_encScl _)
theorem wstrm : ∀ h x, Statement (.wstrm h x) := fun _ _ => engine rfl rfl rfl (low_encWst _)
theorem wsel : ∀ h buf, Statement (.wsel h buf) := fun _ _ => engine rfl rfl rfl (fld_low _ 38)
theorem cpy : ∀ h x, Statement (.cpy h x) := fun _ _ => engine rfl rfl rfl (low_encCpy _)
theorem cpyt : ∀ h x, Statement (.cpyt h x) := fun _ _ => engine rfl rfl rfl (low_encCpy _)
theorem cpyf : ∀ h x, Statement (.cpyf h x) := fun _ _ => engine rfl rfl rfl (low_encCpy _)
theorem chain : ∀ h x, Statement (.chain h x) := fun _ _ => engine rfl rfl rfl (low_encCpy _)
theorem chainEnd : ∀ core q, Statement (.chainEnd core q) := fun _ _ => event rfl
theorem chainCopy : ∀ core q, Statement (.chainCopy core q) := fun _ _ => event rfl
theorem chainLoop : ∀ core q, Statement (.chainLoop core q) := fun _ _ => event rfl
theorem chainCond : ∀ core q, Statement (.chainCond core q) := fun _ _ => event rfl
theorem chainSignal : ∀ core q, Statement (.chainSignal core q) := fun _ _ => event rfl
theorem sfjExp : ∀ h desc, Statement (.sfjExp h desc) := fun _ _ => engine rfl rfl rfl (low_encSfj _ _)
theorem sfjLog : ∀ h desc, Statement (.sfjLog h desc) := fun _ _ => engine rfl rfl rfl (low_encSfj _ _)
theorem sfjSoftmax : ∀ h desc, Statement (.sfjSoftmax h desc) := fun _ _ => engine rfl rfl rfl (low_encSfj _ _)
theorem sfjTopk : ∀ h desc, Statement (.sfjTopk h desc) := fun _ _ => engine rfl rfl rfl (low_encSfj _ _)
theorem sfjSort : ∀ h desc, Statement (.sfjSort h desc) := fun _ _ => engine rfl rfl rfl (low_encSfj _ _)
theorem sfjSample : ∀ h desc, Statement (.sfjSample h desc) := fun _ _ => engine rfl rfl rfl (low_encSfj _ _)
theorem sfjCompletion : ∀ core, Statement (.sfjCompletion core) := fun _ => event rfl
theorem engineCommandStart : ∀ core q, Statement (.engineCommandStart core q) := fun _ _ => event rfl
theorem engineCommandComplete : ∀ core q segments, Statement (.engineCommandComplete core q segments) := fun _ _ _ => event rfl
theorem stampedCommandIssue : ∀ core, Statement (.stampedCommandIssue core) := fun _ => event rfl
theorem mxeOwnershipTake : ∀ core tt, Statement (.mxeOwnershipTake core tt) := fun _ _ => event rfl
theorem push : ∀ d q cb, Statement (.push d q cb) := fun _ _ _ => event rfl
theorem qfence : ∀ d mask, Statement (.qfence d mask) := fun _ _ => event rfl
theorem launch : ∀ g, Statement (.launch g) := fun _ => event rfl
theorem launchGraph : ∀ g, Statement (.launchGraph g) := fun _ => event rfl
theorem overlay : Statement .overlay := event rfl
theorem overlaySwap : ∀ k, Statement (.overlaySwap k) := fun _ => event rfl
theorem controlBlockHead : ∀ k d q, Statement (.controlBlockHead k d q) := fun _ _ _ => event rfl
theorem controlBlockComplete : ∀ k d q, Statement (.controlBlockComplete k d q) := fun _ _ _ => event rfl
theorem submit : ∀ v, Statement (.submit v) := fun _ => event rfl
theorem graphAccept : Statement .graphAccept := event rfl
theorem admitStep : Statement .admitStep := event rfl
theorem taskComplete : ∀ graph task, Statement (.taskComplete graph task) := fun _ _ => event rfl
theorem graphComplete : ∀ graph, Statement (.graphComplete graph) := fun _ => event rfl
theorem dieSlotFill : ∀ die, Statement (.dieSlotFill die) := fun _ => event rfl
theorem iterationSelect : ∀ die, Statement (.iterationSelect die) := fun _ => event rfl
theorem stealRequest : ∀ die, Statement (.stealRequest die) := fun _ => event rfl
theorem stealReply : ∀ die, Statement (.stealReply die) := fun _ => event rfl
theorem stealBackoffExpiry : ∀ die, Statement (.stealBackoffExpiry die) := fun _ => event rfl
theorem tileTaskEnd : ∀ tt, Statement (.tileTaskEnd tt) := fun _ => event rfl
theorem poolService : Statement .poolService := event rfl
theorem deadlockAwait : ∀ tt, Statement (.deadlockAwait tt) := fun _ => event rfl
theorem postmarkDeliver : ∀ strand, Statement (.postmarkDeliver strand) := fun _ => event rfl
theorem postmarkPerform : ∀ die slice, Statement (.postmarkPerform die slice) := fun _ _ => event rfl
theorem nbLoadPerform : ∀ strand, Statement (.nbLoadPerform strand) := fun _ => event rfl
theorem frontierSample : ∀ die, Statement (.frontierSample die) := fun _ => event rfl
theorem frontierMessage : ∀ src dst lost, Statement (.frontierMessage src dst lost) := fun _ _ _ => event rfl
theorem frontierSlip : ∀ die, Statement (.frontierSlip die) := fun _ => event rfl
theorem ptExchange : ∀ die ppm offset, Statement (.ptExchange die ppm offset) := fun _ _ _ => event rfl
theorem ptHoldover : ∀ die, Statement (.ptHoldover die) := fun _ => event rfl
theorem ptpMessage : ∀ message, Statement (.ptpMessage message) := fun _ => event rfl
theorem ptStep : ∀ facility, Statement (.ptStep facility) := fun _ => event rfl
theorem lockWaitExpiry : Statement .lockWaitExpiry := event rfl
theorem frameOverrun : Statement .frameOverrun := event rfl
theorem frameStart : Statement .frameStart := event rfl
theorem timetableRelease : Statement .timetableRelease := event rfl
theorem globalLoadBind : ∀ strand, Statement (.globalLoadBind strand) := fun _ => event rfl
theorem globalStorePerform : ∀ strand, Statement (.globalStorePerform strand) := fun _ => event rfl
theorem waitvTimeout : ∀ strand, Statement (.waitvTimeout strand) := fun _ => event rfl
theorem atomicPerform : ∀ strand, Statement (.atomicPerform strand) := fun _ => event rfl
theorem txnCommit : ∀ strand, Statement (.txnCommit strand) := fun _ => event rfl
theorem txnAbort : ∀ strand, Statement (.txnAbort strand) := fun _ => event rfl
theorem lazyCommit : ∀ strand, Statement (.lazyCommit strand) := fun _ => event rfl
theorem commitWaitTimeout : ∀ strand, Statement (.commitWaitTimeout strand) := fun _ => event rfl
theorem uncorrectableError : ∀ e, Statement (.uncorrectableError e) := fun _ => event rfl
theorem correctableError : ∀ pa, Statement (.correctableError pa) := fun _ => event rfl
theorem rowSpareReplace : ∀ pa, Statement (.rowSpareReplace pa) := fun _ => event rfl
theorem parkSelfRefresh : ∀ channel, Statement (.parkSelfRefresh channel) := fun _ => event rfl
theorem channelRetire : ∀ die channel, Statement (.channelRetire die channel) := fun _ _ => event rfl
theorem frameMove : ∀ frame target, Statement (.frameMove frame target) := fun _ _ => event rfl
theorem cxlLinkUp : ∀ port capacity, Statement (.cxlLinkUp port capacity) := fun _ _ => event rfl
theorem cxlLinkDown : ∀ port, Statement (.cxlLinkDown port) := fun _ => event rfl
theorem flitReceive : ∀ module dir seq vc crcOk free, Statement (.flitReceive module dir seq vc crcOk free) :=
  fun _ _ _ _ _ _ => event rfl
theorem nakReceive : ∀ module dir seq, Statement (.nakReceive module dir seq) := fun _ _ _ => event rfl
theorem ackReceive : ∀ module dir seq, Statement (.ackReceive module dir seq) := fun _ _ _ => event rfl
theorem linkWindowStart : ∀ module, Statement (.linkWindowStart module) := fun _ => event rfl
theorem lnkctlPause : ∀ module pause, Statement (.lnkctlPause module pause) := fun _ _ => event rfl
theorem linkPauseComplete : ∀ module, Statement (.linkPauseComplete module) := fun _ => event rfl
theorem lnkctlTrain : ∀ module, Statement (.lnkctlTrain module) := fun _ => event rfl
theorem lnkctlWindow : ∀ module len, Statement (.lnkctlWindow module len) := fun _ _ => event rfl
theorem linkTrainComplete : ∀ module failed spareFailed, Statement (.linkTrainComplete module failed spareFailed) :=
  fun _ _ _ => event rfl
theorem lnkstatSvcClear : ∀ module, Statement (.lnkstatSvcClear module) := fun _ => event rfl
theorem qschedWrite : ∀ die core q v, Statement (.qschedWrite die core q v) := fun _ _ _ _ => event rfl
theorem queuePeriodStart : ∀ die core q, Statement (.queuePeriodStart die core q) := fun _ _ _ => event rfl
theorem queueOverrun : ∀ die core q, Statement (.queueOverrun die core q) := fun _ _ _ => event rfl
theorem counterClear : ∀ core offset, Statement (.counterClear core offset) := fun _ _ => event rfl
theorem preemptRequest : ∀ t rank grace, Statement (.preemptRequest t rank grace) := fun _ _ _ => event rfl
theorem graceExpiry : ∀ tt, Statement (.graceExpiry tt) := fun _ => event rfl
theorem preemptSave : ∀ tt, Statement (.preemptSave tt) := fun _ => event rfl
theorem saveComplete : ∀ tt, Statement (.saveComplete tt) := fun _ => event rfl
theorem resumeRequest : ∀ t, Statement (.resumeRequest t) := fun _ => event rfl
theorem tileTaskResume : ∀ tt core, Statement (.tileTaskResume tt core) := fun _ _ => event rfl
theorem debugStop : ∀ ctx, Statement (.debugStop ctx) := fun _ => event rfl
theorem dump : ∀ ctx, Statement (.dump ctx) := fun _ => event rfl
theorem triggerMatch : ∀ trigger, Statement (.triggerMatch trigger) := fun _ => event rfl
theorem faultLogDrain : ∀ ctx count, Statement (.faultLogDrain ctx count) := fun _ _ => event rfl
theorem contextCreate : ∀ ctx x, Statement (.contextCreate ctx x) := fun _ _ => event rfl
theorem meterSample : ∀ power idle est, Statement (.meterSample power idle est) := fun _ _ _ => event rfl
theorem replan : Statement .replan := event rfl
theorem powerWindowEnd : Statement .powerWindowEnd := event rfl
theorem pwrbandClear : Statement .pwrbandClear := event rfl
theorem curveRecord : ∀ header record sender, Statement (.curveRecord header record sender) := fun _ _ _ => event rfl
theorem curveTakeEffect : Statement .curveTakeEffect := event rfl
theorem gradeEnter : Statement .gradeEnter := event rfl
theorem gradeLeave : Statement .gradeLeave := event rfl
theorem contextPark : ∀ ctx, Statement (.contextPark ctx) := fun _ => event rfl
theorem contextUnpark : ∀ ctx, Statement (.contextUnpark ctx) := fun _ => event rfl
theorem regionFrequencyChange : ∀ region, Statement (.regionFrequencyChange region) := fun _ => event rfl
theorem dieGate : ∀ die, Statement (.dieGate die) := fun _ => event rfl
theorem dieUngate : ∀ die, Statement (.dieUngate die) := fun _ => event rfl
theorem regulatorFault : ∀ region, Statement (.regulatorFault region) := fun _ => event rfl
theorem regionDark : ∀ region, Statement (.regionDark region) := fun _ => event rfl
theorem feedLoss : ∀ feed carries, Statement (.feedLoss feed carries) := fun _ _ => event rfl
theorem powerOn : Statement .powerOn := event rfl
theorem substatClear : Statement .substatClear := event rfl
theorem apertureWrite : ∀ v, Statement (.apertureWrite v) := fun _ => event rfl
theorem killedClear : ∀ v, Statement (.killedClear v) := fun _ => event rfl
theorem cfgInstallSection : ∀ v, Statement (.cfgInstallSection v) := fun _ => event rfl
theorem cfgInstallFirmware : ∀ v, Statement (.cfgInstallFirmware v) := fun _ => event rfl
theorem cfgAttestation : ∀ v, Statement (.cfgAttestation v) := fun _ => event rfl
theorem cfgCommandDone : Statement .cfgCommandDone := event rfl
theorem hostBar1Access : ∀ write off data, Statement (.hostBar1Access write off data) := fun _ _ _ => event rfl
theorem hostBar2Access : ∀ write off data, Statement (.hostBar2Access write off data) := fun _ _ _ => event rfl
theorem attestationMessage : ∀ header ctx reserved nonce sender, Statement (.attestationMessage header ctx reserved nonce sender) := fun _ _ _ _ _ => event rfl
theorem arpRequest : ∀ ip sender, Statement (.arpRequest ip sender) := fun _ _ => event rfl
theorem icmpEcho : ∀ ip sender data, Statement (.icmpEcho ip sender data) := fun _ _ _ => event rfl
theorem mgmtRegisterWrite : ∀ num v, Statement (.mgmtRegisterWrite num v) := fun _ _ => event rfl
theorem illegalOp : ∀ reserved word, Statement (.illegalOp reserved word) := fun _ _ => event rfl
theorem vectorWordCompletion : ∀ strand index, Statement (.vectorWordCompletion strand index) := fun _ _ => event rfl
theorem waitptComplete : ∀ strand, Statement (.waitptComplete strand) := fun _ => event rfl
theorem freePoolRefill : ∀ die size frame, Statement (.freePoolRefill die size frame) := fun _ _ _ => event rfl
theorem dhcp : ∀ ip mask gateway, Statement (.dhcp ip mask gateway) := fun _ _ _ => event rfl
theorem dieUngateComplete : ∀ die, Statement (.dieUngateComplete die) := fun _ => event rfl
theorem managementCoreKill : ∀ ctx, Statement (.managementCoreKill ctx) := fun _ => event rfl

end Sys2Proof.Laws.UnitCount
end

