-- ==== Sys2Proof/Tests/Slice0.lean ====
section
/-! SUPPORT. Tests/Slice0.lean: the model's own tests. Ill-formed terms that the checks of WellFormed.lean refuse; words written out from
the encodings of spec/ and what they decode to; single steps with results taken from the spec's examples and tables; and, for every
obligation with hypotheses, states and operands that meet them (`wit_…`). -/
namespace Sys2Proof.Tests
open Sys2Proof Sys2Proof.Machine
set_option Elab.async false

/-! Ill-formed terms (R137). -/

/-- A vector word with nothing in it but its type. -/
def vw (ty : BitVec 4) : VWord := ⟨ty, 0, 0, 0, 0, 0, false, 0, 0, 0, 0, 0⟩
/-- The head of an engine word without clause or stamp. -/
def eh : EHead := ⟨0, 0, 0, 0, false, 0, 0⟩
/-- MMA operands with nothing in them but their types. -/
def ma (fa fb : BitVec 4) : MmaArgs := ⟨0, 0, false, 0, 0, false, fb, fa, 0, 0, false, 0, 8⟩
/-- Courier operands with nothing in them. -/
def ca : CpyArgs := ⟨0, false, false, 0, 0, 0, 0, 0⟩

/-- R141: LDN has no 64-bit form; R175: LOOPP reads a register pair; R200: declarations 0 to 5. -/
theorem test_wf_scalar_illegal : Instr.check (.ldn .d 1 2 0) = some .illegal ∧ Instr.check (.loopp 0 31 1 4) = some .illegal ∧
    Instr.check (.tagpub 6) = some .illegal ∧ Instr.check (.tagq 1 7) = some .illegal := by decide +kernel
/-- R142: a loop's end offset 0, and an EXIT register field beyond its count. -/
theorem test_wf_scalar_reserved : Instr.check (.loop 0 3 0) = some .reserved ∧ Instr.check (.loopg 0 3 0) = some .reserved ∧
    Instr.check (.loopp 0 4 1 0) = some .reserved ∧ Instr.check (.exit 1 8 9 0 0) = some .reserved ∧
    Instr.check (.exit 5 8 9 10 11) = some .reserved := by decide +kernel
/-- R211, R122, R223, R230: a type outside the class, a pair of types, a rounding mode, a masked 4-bit store. -/
theorem test_wf_vector_illegal : Instr.check (.vadd (vw 8)) = some .illegal ∧ Instr.check (.vcvt { vw 4 with s3 := 5 }) = some .illegal ∧
    Instr.check (.vfadd { vw 8 with mode := 3 }) = some .illegal ∧ Instr.check (.vshuf { vw 8 with mode := 5 }) = some .illegal ∧
    Instr.check (.vstm { vw 6 with mask := 1 }) = some .illegal := by decide +kernel
/-- R116, R144-R151: a type code 14, mode bits, unused fields, mask and zero where none is taken, an absent clause's semaphore. -/
theorem test_wf_vector_reserved : Instr.check (.vmov (vw 14)) = some .reserved ∧
    Instr.check (.vcvt { vw 8 with s3 := 15 }) = some .reserved ∧
    Instr.check (.vmin { vw 4 with mode := 1 }) = some .reserved ∧ Instr.check (.vmov { vw 4 with s2 := 1 }) = some .reserved ∧
    Instr.check (.mand (vw 4)) = some .reserved ∧ Instr.check (.mand { vw 0 with dst := 16 }) = some .reserved ∧
    Instr.check (.vcmp .eq { vw 4 with mask := 1 }) = some .reserved ∧
    Instr.check (.vred .add { vw 4 with zero := true }) = some .reserved ∧
    Instr.check (.vmov { vw 4 with wsem := 1 }) = some .reserved ∧ Instr.check (.vmov { vw 4 with ssem := 1 }) = some .reserved ∧
    Instr.check (.vmov { vw 4 with s1 := 0x800 + 1600 }) = some .reserved := by decide +kernel
/-- R152, R116, R243, R246, R253, R255: unused fields of engine words. -/
theorem test_wf_engine_reserved : Instr.check (.cpy { eh with stamped := true } ca) = some .reserved ∧
    Instr.check (.accz { eh with stamp := 1 } 1) = some .reserved ∧ Instr.check (.accz { eh with wsem := 1 } 1) = some .reserved ∧
    Instr.check (.accz { eh with ssem := 1 } 1) = some .reserved ∧ Instr.check (.mma eh (ma 14 10)) = some .reserved ∧
    Instr.check (.mma eh { ma 10 10 with ca := 1 }) = some .reserved ∧ Instr.check (.mma eh { ma 10 10 with sat := true }) = some .reserved ∧
    Instr.check (.mmaz eh { ma 10 10 with bsrc := true, offB := 16 }) = some .reserved ∧
    Instr.check (.accwr eh ⟨4, true, false, false, 0, 0, 8⟩) = some .reserved ∧
    Instr.check (.accrd eh ⟨14, false, false, false, 0, 0, 8⟩) = some .reserved ∧
    Instr.check (.wstrm eh ⟨1, 0, 0, 0, 8⟩) = some .reserved ∧ Instr.check (.cpy eh { ca with decl := 1 }) = some .reserved ∧
    Instr.check (.cpyf eh { ca with skind := true }) = some .reserved ∧ Instr.check (.chain eh { ca with gd := 1 }) = some .reserved ∧
    Instr.check (.wsel { eh with stamped := true } 0) = some .reserved ∧ Instr.check (.sfjExp { eh with wsem := 1 } 8) = some .reserved ∧
    Instr.check (.scld { eh with ssem := 1 } ⟨0, 0, 0, 8⟩) = some .reserved := by decide +kernel
/-- R225: VQUANT's two forms; R155: targets 0 to 8. -/
theorem test_wf_forms : Instr.wf (.vquant { vw 11 with s2 := 1600, s3 := 8 }) = false ∧
    Instr.wf (.vquantScale { vw 11 with s2 := 4, s3 := 8 }) = false ∧ Instr.wf (.push 9 0 0) = false ∧
    Instr.wf (.qfence 9 1) = false := by decide +kernel
/-- Terms that are well formed: one of each format. -/
theorem test_wf_good : Instr.wf (.ldn .w 1 2 0) = true ∧ Instr.wf (.loop 0 3 1) = true ∧ Instr.wf (.exit 1 8 0 0 0) = true ∧
    Instr.wf (.vfadd (vw 8)) = true ∧ Instr.wf (.vquant { vw 11 with s2 := 4, s3 := 8 }) = true ∧
    Instr.wf (.vquantScale { vw 11 with s2 := 1600, s3 := 8 }) = true ∧ Instr.wf (.mma eh (ma 10 10)) = true ∧
    Instr.wf (.cpyt eh { ca with decl := 1 }) = true ∧ Instr.wf (.push 8 3 0) = true := by decide +kernel

/-! Words written out from the encodings of 11_encoding.md, with the fields of the spec's own examples where it has them. -/

theorem test_decode_addi : decodeUnits [0x04010804] = .ok (.addi 8 8 512) := by decide +kernel
theorem test_decode_ld : decodeUnits [0x80204920] = .ok (.ld .w 9 2 16) := by decide +kernel
theorem test_decode_shli : decodeUnits [0x14210802] = .ok (.shli 8 8 40) := by decide +kernel
theorem test_decode_loop : decodeUnits [0x0050416C] = .ok (.loop 1 16 5) := by decide +kernel
theorem test_decode_loop_long : decodeUnits [0x06A1006C] = .ok (.loop 0 64 106) := by decide +kernel
theorem test_decode_exit : decodeUnits [0x4BDAB46A] = .ok (.exit 4 20 21 22 23) := by decide +kernel
theorem test_decode_bnz : decodeUnits [0xFFFF8966] = .ok (.bnz 9 (-4)) := by decide +kernel
theorem test_decode_mts : decodeUnits [0x0021007A] = .ok (.mts 0x011 8) := by decide +kernel
theorem test_decode_mfs : decodeUnits [0x1D180B76] = .ok (.mfs 11 0xE8D) := by decide +kernel
theorem test_decode_ori : decodeUnits [0x0001AD0E] = .ok (.ori 13 13 1) := by decide +kernel
theorem test_decode_andi : decodeUnits [0xFFF9AD08] = .ok (.andi 13 13 (-4)) := by decide +kernel
theorem test_decode_waitv : decodeUnits [0x1A006D00] = .ok (.waitv 13 3 0) := by decide +kernel
theorem test_decode_stPm : decodeUnits [0x1FDAF400] = .ok (.stPm .w 20 23 22) := by decide +kernel
theorem test_decode_ldNb : decodeUnits [0x1EDAF400] = .ok (.ldNb .w 20 23 22) := by decide +kernel
theorem test_decode_vfadd : decodeUnits [0x0000A081, 0x00010020, 0x10508060] =
    .ok (.vfadd ⟨8, 2, 0, 0x801, 0, 0, false, 0, 3, 4, 5, 1⟩) := by decide +kernel
theorem test_decode_vld : decodeUnits [0x0C020201, 0x00000200, 0] = .ok (.vld ⟨0, 8, 6, 16, 0, 0, false, 0, 0, 0, 0, 0⟩) := by decide +kernel
theorem test_decode_vcvt : decodeUnits [0x0000A981, 0x00100000, 0x0000000C] =
    .ok (.vcvt ⟨10, 2, 0, 0, 8, 0, false, 3, 0, 0, 0, 0⟩) := by decide +kernel
theorem test_decode_vfsqrt : decodeUnits [0x1202A0A5, 0, 0] = .ok (.vfsqrt ⟨8, 10, 9, 0, 0, 0, false, 0, 0, 0, 0, 0⟩) := by decide +kernel
theorem test_decode_vldm : decodeUnits [0x0A004211, 0x00000100, 0] = .ok (.vldm ⟨0, 1, 5, 8, 0, 0, false, 0, 0, 0, 0, 0⟩) := by decide +kernel
theorem test_decode_vmov : decodeUnits [0x18002241, 0x60000000, 0x00000002] =
    .ok (.vmov ⟨8, 0, 12, 0, 0, 3, true, 0, 0, 0, 0, 0⟩) := by decide +kernel
theorem test_decode_mma : decodeUnits [0x22040807, 0x01800003, 0xB3400000, 0xFFF0401B, 0x00000040, 0x00012906] =
    .ok (.mma ⟨2, 1, 3, 1, true, 0x40, 0x12906⟩ ⟨63, 63, false, 4, 0, true, 11, 11, 3, 0x1000, false, 0, 6⟩) := by decide +kernel
theorem test_decode_mmaz : decodeUnits [0x0004000B, 0x02800000, 0xA1000202, 0xFFF0000A, 0, 0] =
    .ok (.mmaz ⟨0, 1, 0, 0, false, 0, 0⟩ ⟨63, 63, false, 0, 0, false, 10, 10, 1, 0, true, 64, 10⟩) := by decide +kernel
theorem test_decode_cpy : decodeUnits [0x04000083, 0x58C2A800, 0, 0, 0, 0] =
    .ok (.cpy ⟨0, 0, 0, 2, false, 0, 0⟩ ⟨0, false, true, 12, 12, 5, 10, 0⟩) := by decide +kernel
theorem test_decode_micro : decodeDieOp 1 0x00012C05 = .ok (some (.push 1 1 0x12C0)) ∧
    decodeDieOp 1 0x00000012 = .ok (some (.qfence 1 1)) ∧ decodeCdOp 0x00000049 = .ok (some (.launch 9)) := by decide +kernel
/-- R137: an unallocated opcode is illegal before a reserved field is looked at. -/
theorem test_decode_refuses : decodeUnits [0x00000003] = .error .illegal ∧ decodeUnits [0x00000100] = .error .reserved := by decide +kernel

/-! States to test on: a strand of a privileged context on core 0, its memory an identity map of 1 GiB (log entry 6). -/

/-- A package in which strand 0 of core 0 runs. -/
def base : State := { State.reset.withFetchWord 32 0 with agenda := [], slot := ⟨0x8000, 4, true⟩ }
/-- The strand that runs in it. -/
def st0 : Strand := { Strand.init with role := .computer, pc := 0x8000 }
/-- Registers by number. -/
def regs (l : List (Nat × W64)) : Tab W64 := l.foldl (fun t x => tset 0 t x.1 x.2) []
/-- The package with the strand as given. -/
def on (st : Strand) : State := { base with strands := [(0, some st)] }
/-- The package with the strand's registers as given. -/
def withG (l : List (Nat × W64)) : State := on { st0 with g := regs l }
/-- The package with a conductor core that runs an overlay of task 0 of graph 1, of context 0. -/
def graph1 : Graph := ⟨0, 1, 0, 0, .killSelf, 0, [⟨⟨0, .killSelf, 1, 0, [], 0, 0, 4096, [0, 0], false⟩, 0, .running, 0, true, false, false, false, false⟩], false, none⟩
/-- The package as conductor core k finds it. -/
def onCond (k : Nat) (f : Conductor → Conductor) : State :=
  let s := (base.setGraph 1 (some graph1)).setCond k (f { Conductor.init with task := some (1, 0) })
  { s with cur := .conductor k }
/-- A next state with a property. -/
def nextIs (o : Host.Outcome State Fault Refusal) (p : State → Bool) : Bool :=
  match o with
  | .next t => p t
  | _ => false
/-- An access that succeeds with a property. -/
def okIs {α : Type} (x : Res α) (p : α → State → Bool) : Bool :=
  match x with
  | .ok a s => p a s
  | _ => false
theorem of_okIs {α : Type} {x : Res α} {p : α → State → Bool} (h : okIs x p = true) : ∃ a s, x = .ok a s ∧ p a s = true := by
  cases x with
  | ok a s => exact ⟨a, s, rfl, h⟩
  | trap c r s => cases h
  | wait s => cases h
theorem of_nextIs {o : Host.Outcome State Fault Refusal} {p : State → Bool} (h : nextIs o p = true) :
    ∃ t, o = .next t ∧ p t = true := by
  cases o with
  | next t => exact ⟨t, rfl, h⟩
  | fault f => cases h
  | refused r => cases h


/-! Scalar words. -/

theorem wit_scalarResults : (withG [(8, 5), (9, 7)]).produced [8, 9] ∧ (withG [(8, 5), (9, 7)]).gBusy 10 = false ∧
    (onCond 0 id).produced [8, 9] := by decide +kernel
theorem wit_divisionEdges : (withG [(8, 5)]).produced [8, 9] ∧ (withG [(8, 5)]).g 9 = 0 ∧
    ((withG [(8, 0x8000000000000000), (9, -1)]).g 8).toInt = -2 ^ 63 ∧
    ((withG [(8, 0x8000000000000000), (9, -1)]).g 9).toInt = -1 := by decide +kernel
theorem wit_registerWrites : (on st0).acts 0 st0 ∧ (onCond 3 id).conducts 3 ∧ (31 : GReg) ≠ 0 := by decide +kernel
theorem wit_branches : (on st0).conducting = false ∧ (onCond 0 id).conducting = true ∧
    (BitVec.ofInt 64 ((onCond 0 id).slot.addr.toNat + 4 * (12 : Int))).toNat % 16 = 0 ∧
    (on { st0 with handler := true }).handling = true ∧ (withG [(9, 4)]).produced [8, 9] ∧ (withG [(9, 4)]).clear [8, 9] ∧
    (withG [(9, 4)]).g 8 = 0 ∧ (withG [(9, 4)]).g 9 ≠ 0 ∧ ((withG [(9, 4)]).g 9).toNat % 4 = 0 ∧
    holds .lt ((withG [(9, 4)]).g 8) ((withG [(9, 4)]).g 9) = true ∧
    holds .ge ((withG [(9, 4)]).g 8) ((withG [(9, 4)]).g 9) = false := by decide +kernel
/-- R171: the table of the edges of division. -/
theorem test_div_edges : nextIs (exec (.div 10 8 9) (withG [(8, 0x8000000000000000), (9, -1)])) (fun t => t.g 10 = 0x8000000000000000) ∧
    nextIs (exec (.remn 10 8 9) (withG [(8, 5)])) (fun t => t.g 10 = 5) := by decide +kernel
/-- R172: SHLI by 40 of 0x1234, and SHA of a negative number. -/
theorem test_shifts : nextIs (exec (.shli 8 8 40) (withG [(8, 0x1234)])) (fun t => t.g 8 = 0x0012340000000000) ∧
    nextIs (exec (.shai 8 8 4) (withG [(8, -256)])) (fun t => t.g 8 = -16) := by decide +kernel
/-- R170: MULH of −1 and −1 is 0, and MULHN of the same bits 2^64 − 2. -/
theorem test_mulh : nextIs (exec (.mulh 10 8 8) (withG [(8, -1)])) (fun t => t.g 10 = 0) ∧
    nextIs (exec (.mulhn 10 8 8) (withG [(8, -1)])) (fun t => t.g 10 = -2) := by decide +kernel
/-- R174: BNZ by −4 words from 0x8000. -/
theorem test_bnz : nextIs (exec (.bnz 9 (-4)) (withG [(9, 1)])) (fun t => t.verdict = .issued (some 0x7FF0)) ∧
    nextIs (exec (.bnz 9 (-4)) (withG [])) (fun t => t.verdict = .issued none) := by decide +kernel
/-- R173: JL keeps the next word's address in g31. -/
theorem test_jl : nextIs (exec (.jl 16) (on st0)) (fun t => t.verdict = .issued (some 0x8040) ∧ t.g 31 = 0x8004) := by decide +kernel

/-- A level that is active, with its end word at 0x8010. -/
def lvl (n depth : Nat) (stages : Nat) : Loop :=
  ⟨true, 1 < stages, BitVec.ofNat 64 n, 0x8004, 0x8010, 0x8014, stages, 0, 0, BitVec.ofNat 64 n, 0, false, depth⟩

theorem wit_loops : (on st0).acts 0 st0 ∧ (on st0).loopChecks 3 1 = none ∧
    okIs ((on st0).endWord 1) (fun _ u => u.cur = .strand 0 ∧ u.slot = (on st0).slot ∧ (u.strandAt 0).isSome) = true ∧
    (withG [(8, 1)]).produced [8] ∧ (withG [(8, 1)]).clear [8] := by decide +kernel
theorem wit_loops_pipelined :
    let s := withG [(8, 3), (9, 1)]
    s.loopChecks 0 4095 = none ∧ (1 : BitVec 3) ≠ 0 ∧ s.produced [8, 9] ∧ s.clear [8, 9] ∧ s.g 8 ≠ 0 ∧ s.g 10 = 0 ∧
    okIs (s.fetchUnits s.myCore s.myCtx (s.slot.addr + BitVec.ofNat 64 s.slot.len) 2) (fun us u =>
      mapOk (s.g 9) 2 2 (wordStarts 2 0 us) = true ∧ u.loopChecks 0 2 = none ∧ (∀ r ∈ List.range 32, u.g (BitVec.ofNat 5 r) = s.g (BitVec.ofNat 5 r)) ∧
      u.cur = .strand 0 ∧ u.slot = s.slot ∧
      okIs (u.endWord 2) (fun _ v => v.cur = .strand 0 ∧ v.slot = s.slot ∧ (v.strandAt 0).isSome) = true) = true := by decide +kernel
theorem wit_loops_end : (loopAt [(2, lvl 2 1 1)] 2).active = true ∧ (loopAt [(2, lvl 2 1 1)] 2).last = 0x8010 ∧
    (loopAt [(2, lvl 2 1 1)] 2).pipelined = false ∧ 1 < (loopAt [(2, lvl 2 1 1)] 2).lc.toNat ∧
    (loopAt [(2, lvl 1 1 1)] 2).lc.toNat ≤ 1 := by decide +kernel
theorem wit_levelExit : (on { st0 with loops := [(0, lvl 2 1 1), (1, lvl 3 2 1)] }).acts 0 { st0 with loops := [(0, lvl 2 1 1), (1, lvl 3 2 1)] } ∧
    st0.handler = false ∧ (on { st0 with handler := true, loops := [(0, lvl 2 1 1)] }).acts 0 { st0 with handler := true, loops := [(0, lvl 2 1 1)] } ∧
    (loopAt [(0, lvl 2 1 1), (1, lvl 3 2 1)] 1).active = true ∧ (loopAt [(0, lvl 2 1 1), (1, lvl 3 2 1)] 3).active = false ∧
    (on st0).slot.defer = true := by decide +kernel
/-- R180: LEXIT of the outer level ends both. -/
theorem test_lexit : nextIs (exec (.lexit 0) (on { st0 with loops := [(0, lvl 2 1 1), (1, lvl 3 2 1)] })) (fun t =>
    t.verdict = .issued (some 0x8014) ∧ (loopAt t.loops 0).active = false ∧ (loopAt t.loops 1).active = false ∧
    (loopAt t.loops 1).lc = 0) := by decide +kernel
/-- R181: LOOPP with N = 3 and S = 2 has four executions of its body. -/
theorem test_loopp : nextIs (exec (.loopp 0 8 1 2) (withG [(8, 3), (9, 1)])) (fun t => (loopAt t.loops 0).lc = 4) := by decide +kernel

/-- A transaction. -/
def txn (phase : Nat) (target : Option W64) : Txn := ⟨target, phase, [], [], [], []⟩
theorem wit_transactions : (on st0).acts 0 st0 ∧ st0.txn = none ∧
    (on { st0 with txn := some (txn 2 none) }).acts 0 { st0 with txn := some (txn 2 none) } ∧ (txn 2 none).phase = 2 ∧
    (txn 0 (some 0x8000)).target = some 0x8000 := by decide +kernel
/-- R102, R195: TXA records its code and goes to the abort target. -/
theorem test_txa : nextIs (exec (.txa 9) (on { st0 with txn := some (txn 0 (some 0x8100)) })) (fun t =>
    t.verdict = .issued (some 0x8100) ∧ (t.strandAt 0).map (fun st => (st.txsCode, st.txsTxa)) = some (4, 9)) := by decide +kernel

/-- A strand with a handler, and one in it. -/
def stH : Strand := { st0 with tvec := 0x9000 }
theorem wit_traps :
    let s := { on stH with slot := ⟨0x8000, 4, false⟩ }
    s.acts 0 stH ∧ s.slot.defer = false ∧ stH.handler = false ∧ stH.tvec ≠ 0 ∧
    (∀ x, s.ctxAt s.myCtx = some x → (x.debuggable && x.armed) = false) ∧
    sfjUnallocated [] = none ∧ stH.txn = none ∧
    (let enters (c : Cause) (r : Rec) (epc : W64) : Bool :=
       let st' := ({ stH.trapped with
         epc := epc, cause := c.code, handler := true, kept := stH.loops, einfo := r.ei0, trec := r, pc := stH.tvec
         waiting := false }).spillRec r
       okIs ((((s.modStrand 0 (·.trapped)).noteTrap 0 c).setStrand 0 (some st')).access (some 0)
         (((s.ttAt stH.tt).map (·.ctx)).getD 64) stH.tvec 4 .exec false) (fun _ _ => true)
     enters (.software 3) (Rec.soft 3) 0x8004 = true ∧ enters .breakpoint (Rec.soft 3) 0x8004 = true ∧
       enters .illegalOp Rec.zero 0x8000 = true ∧ enters .reservedField Rec.zero 0x8000 = true) := by
  refine ⟨by decide +kernel, by decide +kernel, by decide +kernel, by decide +kernel, ?_, by decide +kernel⟩
  intro x h
  have h' : some homeCtx = some x := h
  cases h'
  rfl
theorem wit_traps_return : (on { stH with handler := true, epc := 0x8004 }).acts 0 { stH with handler := true, epc := 0x8004 } ∧
    (0x8004 : W64).toNat % 4 = 0 ∧ st0.handler = false := by decide +kernel
theorem wit_traps_alignment : (withG [(8, 0x1FFF)]).produced [8, 9] ∧ (withG [(8, 0x1FFF)]).clear [8] ∧
    ((withG [(8, 0x1FFF)]).g 8 + BitVec.ofInt 64 ((0 : BitVec 13).toInt)).toNat % (Size.bytes Size.h) ≠ 0 ∧
    (withG [(8, 0x1FFF)]).slot.defer = true := by decide +kernel
/-- R185, R285, R288: TRAP 3 to a handler: EPC the next word, cause 0xE3, n in bits [31:24] of EINFO, pc TVEC. -/
theorem test_trap : nextIs (exec (.trap 3) { on stH with slot := ⟨0x8000, 4, false⟩ }) (fun t =>
    (t.strandAt 0).map (fun st => (st.epc, st.cause, st.einfo, st.pc, st.handler)) = some (0x8004, 0xE3, 0x3000000, 0x9000, true)) := by
  decide +kernel
/-- R286: ERET. -/
theorem test_eret : nextIs (exec .eret (on { stH with handler := true, epc := 0x8004 })) (fun t =>
    t.verdict = .issued (some 0x8004) ∧ (t.strandAt 0).map (·.handler) = some false) := by decide +kernel

theorem wit_strandWords : (withG [(8, 5)]).acts 0 { st0 with g := regs [(8, 5)] } ∧ st0.txn = none ∧ (on st0).produced [8] ∧ (on st0).clear [8] ∧
    (on st0).busyQueue 0 6 = false ∧ (on st0).requested = false ∧ st0.rels = [] ∧ st0.sq = [] ∧ ((on st0).coreAt 0).queues = [] ∧ ((on st0).g 8).toNat ≤ (on st0).pt (on st0).myDie ∧
    (∃ o ∈ [(⟨.plain, 0, [], 0, 0, false, 0, 1, 0, none⟩ : StoreOp)], o.sn < 1) := by decide +kernel
theorem wit_strandWords_safept :
    let s := base.setTt 0 (some { homeTask with request := some (.switch, 5) })
    s.acts 0 st0 ∧ s.produced [8] ∧ s.ttAt st0.tt = some { homeTask with request := some (.switch, 5) } ∧
    (some (Rank.switch, 5)).isSome = true := by decide +kernel
theorem wit_strandWords_exit : (on st0).acts 0 st0 ∧ st0.rels = [] ∧ st0.handler = false ∧ st0.txn = none ∧ (on st0).produced [] ∧ (0 : BitVec 3) = 0 := by decide +kernel
theorem wit_strandWords_exit_spawns :
    let s := ((withG [(8, 256), (9, 512), (10, 768), (11, 1024)]).setCtx 0 (some { homeCtx with spillCap := 4 })).setBlock 0
      (some { homeBlock with lb := { homeBlock.lb with roles := 2 } })
    s.acts 0 { st0 with g := regs [(8, 256), (9, 512), (10, 768), (11, 1024)] } ∧ s.produced [8, 9, 10, 11] ∧ s.clear [8, 9, 10, 11] ∧
    (∀ r ∈ [(8 : GReg), 9, 10, 11], (s.g r).toNat % 256 = 0) ∧
    st0.role = spawnRole s.myRoles ∧
    s.ctxAt s.myCtx = some { homeCtx with spillCap := 4 } ∧ (4 : BitVec 3).toNat + homeCtx.spill.length + homeCtx.spillResv ≤ 4 := by
  decide +kernel
theorem wit_strandWords_waitpt : (on { st0 with waitPt := some 0 }).strandAt 0 = some { st0 with waitPt := some 0 } ∧
    (0 : W64).toNat ≤ (on { st0 with waitPt := some 0 }).pt (dieOfCore (coreOfStrand 0)) := by decide +kernel
/-- R45: EXIT without successors ends the strand. -/
theorem test_exit : nextIs (exec (.exit 0 0 0 0 0) (on st0)) (fun t => t.verdict = .ended ∧ (t.strandAt 0).map (·.ended) = some true) := by
  decide +kernel

/-! Memory words, semaphores, special registers, tiles and postboxes. -/

/-- An access of the strand whose walk stands behind no module that is down, that succeeds and leaves it outside a transaction. -/
def reaches (s : State) (a : W64) (n : Nat) (need : Need) : Bool :=
  !s.walkHeld s.myDie (some s.myCore) s.myCtx a n && okIs (s.myAccess a n need) fun _ u => u.cur = .strand 0 ∧ (u.strandAt 0).any fun st => st.txn = none

theorem wit_memoryWordsEnter_load :
    let s := withG [(8, 0x3FFFFFF8), (9, 2 ^ 32), (10, 7)]
    s.acts 0 { st0 with g := regs [(8, 0x3FFFFFF8), (9, 2 ^ 32), (10, 7)] } ∧ s.produced [8, 9, 10] ∧ s.clear [8, 9, 10] ∧
    reaches s (s.g 8 + BitVec.ofInt 64 ((0 : BitVec 13).toInt)) (Size.bytes .d) .read = true ∧ reaches s (s.g 8) (Size.bytes .w) .read = true ∧
    reaches s (s.g 8) 1 .read = true ∧ (s.g 8).toNat % 8 = 0 ∧ (s.g 9).toNat ≤ s.pt s.myDie + 2 ^ 32 := by decide +kernel
theorem wit_memoryWordsEnter_store :
    let s := withG [(8, 0x3FFFFFE0), (9, 2 ^ 32), (10, 0xFF00)]
    s.produced [8, 9, 10, 11] ∧ s.clear [8, 9, 10, 11] ∧ reaches s (s.g 8) (Size.bytes .d) .write = true ∧ (s.g 8).toNat % 32 = 0 ∧
    (s.g 9).toNat ≤ s.pt s.myDie + 2 ^ 32 ∧ s.pt s.myDie + s.lead ≤ (s.g 9).toNat ∧
    s.walkHeld s.myDie (some s.myCore) s.myCtx (s.g 8) (32 * ((s.g 11).toNat / 256 % 65536 + 1)) = false ∧
    okIs (s.atIssue (s.g 8) (s.accessNoKey (some s.myCore) s.myCtx (s.g 8) (32 * ((s.g 11).toNat / 256 % 65536 + 1)) .write s.fresh))
      (fun _ u => u.cur = .strand 0 ∧ (u.strandAt 0).any fun st => st.txn = none) = true := by decide +kernel
theorem wit_memoryWordsEnter_atomic :
    let s := withG [(8, 0x20000)]
    s.produced [8, 9, 10] ∧ s.clear [8] ∧ reaches s (s.g 8) 8 .both = true ∧ (s.g 8).toNat % 8 = 0 ∧
    reaches s (s.g 8) (amofBytes .bf16) .both = true ∧ (s.g 8).toNat % amofBytes .bf16 = 0 := by decide +kernel
theorem wit_onChipMemory :
    let s := onCond 0 fun c => { c with g := regs [(8, 0x3FFFF8)] }
    s.conducts 0 ∧ (s.g 8 + BitVec.ofInt 64 ((0 : BitVec 13).toInt)).toNat % Size.bytes .d = 0 ∧
    (s.g 8 + BitVec.ofInt 64 ((0 : BitVec 13).toInt)).toNat < 2 ^ 22 := by decide +kernel
theorem wit_onChipMemory_scratchpad :
    let s := withG [(8, 0x7FF8)]
    s.acts 0 { st0 with g := regs [(8, 0x7FF8)] } ∧ s.ttAt st0.tt = some homeTask ∧ s.produced [8, 9] ∧ s.clear [8] ∧
    0x7FF8 % Size.bytes .d = 0 ∧ 0x7FF8 + Size.bytes .d ≤ 2 ^ 21 ∧ homeTask.spmBase ≤ 0x7FF8 ∧
    0x7FF8 + Size.bytes .d ≤ homeTask.spmBase + 4096 * homeTask.spmUnits ∧ st0.spmPending 0x7FF8 (Size.bytes .d) = false ∧
    st0.owesBefore (st0.mark + 1) = false ∧ { st0 with fly := [⟨0, [], [(0, 0, 0)], false, none⟩] }.owesBefore (st0.mark + 1) = true := by
  decide +kernel
theorem wit_onChipMemory_spill : (on st0).acts 0 st0 ∧ (2047 : BitVec 13).toNat * Size.bytes .d + Size.bytes .d ≤ 16384 ∧
    (on st0).produced [8] := by decide +kernel
/-- R214, R188: a store to the scratchpad reads back, sign-extended. -/
theorem test_spm : nextIs (exec (.stSp .w 9 8 4) (withG [(8, 0x100), (9, 0x80000001)])) (fun t =>
    nextIs (exec (.ldSp .w 10 8 4) t) (fun u => u.g 10 = 0xFFFFFFFF80000001)) := by decide +kernel
/-- R189: a byte spilled and read back is sign-extended. -/
theorem test_spill : nextIs (exec (.spst .b 9 16383) (withG [(9, 0x1FE)])) (fun t =>
    nextIs (exec (.spld .b 10 16383) t) (fun u => u.g 10 = -2)) := by decide +kernel

theorem wit_cachesAndPorts : (on st0).acts 0 st0 ∧ st0.lq = [] ∧ (on st0).produced [8, 9] ∧ (on st0).clear [8, 9] ∧
    (on st0).ctxAt (on st0).myCtx = some homeCtx ∧ homeCtx.privileged = true ∧ 0 < 2048 := by decide +kernel
theorem wit_cachesAndPorts_kill :
    let st := { st0 with vn := [(255, [⟨true, 5, false, 0⟩])] }
    (on st).acts 0 st ∧ (∀ k ∈ List.range 1536, (24 * 10 ≤ k ∧ k < 24 * 10 + 24 ∧ (0x008000 : BitVec 24).getLsbD (k - 24 * 10) = true) →
      k < (on st).vnames ∧ ((on st).modeK = true ∨ ∀ e ∈ tget [] st.vn k, e.ready = true)) := by decide +kernel
theorem wit_cachesAndPorts_qcfg :
    let s := withG [(8, 0x1FFFC0), (9, 0xFFFFFFC0), (10, 64)]
    s.produced [8, 9, 10] ∧ s.clear [8, 9, 10] ∧ (s.g 8).toNat % 64 = 0 ∧ (s.g 9).toNat % 2 ^ 32 % 64 = 0 ∧
    (s.g 10).toNat % 2 ^ 32 % 64 = 0 := by decide +kernel
/-- R47: KILL of name 24 × 10 + 15 = 255. -/
theorem test_kill : nextIs (exec (.kill 10 0x008000) (on { st0 with vn := [(254, [⟨true, 5, false, 0⟩]), (255, [⟨true, 5, false, 0⟩])] }))
    (fun t => (t.strandAt 0).map (·.vn) = some [(254, [⟨true, 5, false, 0⟩])]) := by decide +kernel

/-- The package with a semaphore of core 0 as given. -/
def withSem (i n : Nat) : State := base.modCore 0 (·.modSync fun x => x.setSem i ⟨n, false⟩)
theorem wit_semaphores : (withSem 127 5).acts 0 st0 ∧ (withSem 127 5).mySem 127 = some 127 ∧ st0.txn = none ∧ st0.rels = [] ∧ st0.fly = [] ∧
    st0.owesPush = false ∧ (((withSem 127 65408).coreAt 0).sem 127).poisoned = false ∧
    (((withSem 127 65408).coreAt 0).sem 127).count + 127 ≤ 65535 ∧ 5 ≤ (((withSem 127 5).coreAt 0).sem 127).count ∧ st0.deadlock = false ∧
    tget [] ((withSem 127 5).coreAt 0).sync.waiters 127 = [] ∧ (withG [(8, 65535)]).produced [8] ∧ (withG [(8, 65535)]).clear [8] ∧
    ((withG [(8, 65535)]).g 8).toNat ≤ 65535 ∧ (withSem 127 5).ctxAt (withSem 127 5).myCtx = some homeCtx := by decide +kernel
theorem wit_semaphores_conductor :
    let s := onCond 15 fun c => { c with sync := c.sync.setSem 255 ⟨9, false⟩ }
    s.conducts 15 ∧ ((s.condAt 15).sync.sem 255).poisoned = false ∧ ((s.condAt 15).sync.sem 255).count + 127 ≤ 65535 ∧
    9 ≤ ((s.condAt 15).sync.sem 255).count ∧ tget [] (s.condAt 15).sync.waiters 255 = [] := by decide +kernel
/-- A strand that waits in vain, and its tile task. -/
def stuck : State :=
  let st := { st0 with waiting := true, idle := true }
  (on st).modCore 0 (·.modSync fun x => x.join 3 1 (.strand 0))
theorem wit_semaphores_deadlock : stuck.ttAt 0 = some homeTask ∧ stuck.deadlocked 0 homeTask = true ∧
    (∀ q ∈ List.range 7, (stuck.coreAt 0).head q = none) ∧ 0 ∈ homeTask.strands ∧
    stuck.strandAt 0 = some { st0 with waiting := true, idle := true } := by decide +kernel
/-- R197: POST of 3 on a count of 5, and AWAIT of 5 on it. -/
theorem test_post : nextIs (exec (.post 2 3) (withSem 2 5)) (fun t => ((t.coreAt 0).sem 2).count = 8) ∧
    nextIs (exec (.await 2 5) (withSem 2 5)) (fun t => ((t.coreAt 0).sem 2).count = 0) := by decide +kernel
/-- R198: an AWAIT of more than the count waits. -/
theorem test_await_waits : nextIs (exec (.await 2 6) (withSem 2 5)) (fun t => t.verdict = .waits (some (2, 6))) := by decide +kernel

theorem wit_specialRegisters : (withG [(8, 5)]).acts 0 { st0 with g := regs [(8, 5)] } ∧ (withG [(8, 5)]).ctxAt (withG [(8, 5)]).myCtx = some homeCtx ∧
    (withG [(8, 4)]).produced [8] ∧ (withG [(8, 4)]).clear [8] ∧ ((withG [(8, 4)]).g 8).toNat % 4 = 0 ∧
    ((loopAt st0.loops 3).active && (loopAt st0.loops 3).pipelined) = false ∧ homeCtx.privileged = true ∧
    (on st0).slot.defer = true ∧ 0x800 ≤ (0x800 : BitVec 12).toNat ∧ 0x062 ≤ (0x7FF : BitVec 12).toNat ∧ (0x7FF : BitVec 12).toNat < 0x800 ∧
    { homeCtx with privileged := false }.privileged = false := by decide +kernel
/-- R88: QUOTA's limit goes no higher than its ceiling. -/
theorem test_quota : nextIs (exec (.mts 0x020 8) ((withG [(8, 900)]).setCtx 0 (some { homeCtx with ceiling := 800 }))) (fun t =>
    (t.ctxAt 0).map (·.limit) = some 800) := by decide +kernel
/-- R57, R137: SLIPTH is 4,096 after reset, and GF is read-only. -/
theorem test_mfs : nextIs (exec (.mfs 9 0x004) (on st0)) (fun t => t.g 9 = 4096) ∧
    nextIs (exec (.mts 0x003 9) (on st0)) (fun t => t.verdict = .trapped .readOnly Rec.zero) := by decide +kernel

/-- An output declaration of buffer 3, generation 1, with its descriptor at 0x20000. -/
def decl1 : Decl := ⟨3, true, 1, 0, 0, 0, 0x20000⟩
/-- The package with that declaration, and its buffer fine and at its generation. -/
def tiles (e : List TrtEntry) : State :=
  let s := base.setBlock 0 (some { homeBlock with lb := { homeBlock.lb with decls := [decl1] } })
  { s with work := { s.work with bufs := [⟨0, 3, false, 1, false, 2, [], [], [], []⟩], trt := e } }
theorem wit_tileWords : (tiles []).acts 0 st0 ∧ (tiles []).ttAt st0.tt = some homeTask ∧ (tiles []).myDecl 0 = some (decl1, ⟨0, 0, 0⟩) ∧
    decl1.output = true ∧ (tiles []).hasPublished 0 0 0 = false ∧ st0.txn = none ∧ st0.rels = [] ∧ st0.ctlError = false ∧
    (tiles []).descHeld (tiles []).myCore (tiles []).myCtx decl1 32 = false ∧
    okIs ((tiles []).descriptor decl1 32) (fun _ u => u.cur = .strand 0 ∧ (u.strandAt 0).isSome ∧ u.readStrand.sq = [] ∧
      (u.blockAt 0).isSome ∧ (u.work.buf 0 3).fresh = false ∧ (u.work.buf 0 3).live = BitVec.ofNat 8 decl1.gen ∧
      (u.work.buf 0 3).coarse = false ∧ u.work.entry 0 3 ⟨0, 0, 0⟩ = none ∧ u.work.trtFree ≠ 0) = true := by decide +kernel
theorem wit_tileWords_twice : ((tiles []).modBlock 0 fun b => { b with published := [(0, 0)] }).hasPublished 0 0 0 = true := by decide +kernel
theorem wit_tileWords_tagq : ((tiles [⟨0, 3, ⟨0, 0, 0⟩, 1, true, []⟩]).work.buf 0 3).coarse = false ∧
    (tiles [⟨0, 3, ⟨0, 0, 0⟩, 1, true, []⟩]).work.entry 0 3 ⟨0, 0, 0⟩ = some ⟨0, 3, ⟨0, 0, 0⟩, 1, true, []⟩ := by decide +kernel
/-- R201: TAGQ answers the count, the live generation and the state published. -/
theorem test_tagq : nextIs (exec (.tagq 8 0) (tiles [⟨0, 3, ⟨0, 0, 0⟩, 1, true, []⟩])) (fun t => t.g 8 = 0x0000000200000101) := by
  decide +kernel

/-- The package with postbox 0: a ring of two slots at 0x30000, and its two counts. -/
def box (head tail : W32) : State :=
  let s := (withG [(10, 0x40)]).setCtx 0 (some { homeCtx with mbBase := 0x20000, mbCount := 1 })
  s.modMem fun m => { m with bytes := tsets 0 m.bytes 0x20000 (leBytes 8 0x30001 ++ leBytes 4 head.toNat ++ leBytes 4 tail.toNat) }
/-- The control block and the slot of the box are reached, at homes that are free, with the ring as given. -/
def boxReached (s : State) (need : Need) (used : Nat) : Bool :=
  !s.walkHeld s.myDie (some s.myCore) s.myCtx 0x20000 16 && okIs (s.myAccess 0x20000 16 need) fun cb u =>
    let u' := u.touchParts u.myCtx cb
    u.homesFree u.myDie cb && cb.all (fun q => !u.mem.bounces q.pa) && match postboxOf (u'.readParts cb).1 with
    | none => false
    | some p =>
      let slot (x : W64) : Bool := !u'.walkHeld u'.myDie (some u'.myCore) u'.myCtx x 64 &&
        okIs (u'.myAccess x 64 .write) fun ps v => v.homesFree v.myDie ps && ps.all (fun q => !v.mem.bounces q.pa) &&
          decide (v.cur = .strand 0) && (v.strandAt 0).isSome &&
          !(v.touchParts v.myCtx ps).me.owesBefore ((v.touchParts v.myCtx ps).me.mark + 1)
      !(u'.readParts cb).2 && p.used = used && u.cur = .strand 0 && (u.strandAt 0).isSome && slot (p.slot p.tail) && slot (p.slot p.head)
theorem wit_postboxes : (box 0xFFFFFFFF 0).acts 0 { st0 with g := regs [(10, 0x40)] } ∧ st0.txn = none ∧ st0.lq = [] ∧ (box 0 0).produced [9, 10] ∧ (box 0 0).clear [9, 10] ∧
    (box 0 0).ctxAt (box 0 0).myCtx = some { homeCtx with mbBase := 0x20000, mbCount := 1 } ∧ ((box 0 0).g 9).toNat < 1 ∧
    (box 0 0).window.1 ≤ ((box 0 0).g 10).toNat ∧ ((box 0 0).g 10).toNat + 64 ≤ (box 0 0).window.1 + (box 0 0).window.2 ∧
    ((box 0 0).g 10).toNat % 64 = 0 ∧ ((box 0 0).g 10).toNat < 2 ^ 21 ∧ st0.spmPending 0x40 64 = false ∧ (box 0 0).released = true ∧
    boxReached (box 0xFFFFFFFF 0) .write 1 = true ∧ boxReached (box 0xFFFFFFFF 1) .write 2 = true ∧ boxReached (box 7 7) .write 0 = true ∧
    boxReached (box 7 7) .read 0 = true := by decide +kernel
/-- R112, R203: a full ring of two slots answers 1, and MBPOLL counts its messages. -/
theorem test_mbsend : nextIs (exec (.mbsend 8 9 10) (box 0xFFFFFFFF 1)) (fun t => t.g 8 = 1) ∧
    nextIs (exec (.mbsend 8 9 10) (box 7 7)) (fun t => t.g 8 = 0 ∧ nextIs (exec (.mbpoll 8 9) t) (fun u => u.g 8 = 1)) := by decide +kernel
/-- R112: an empty ring answers 1. -/
theorem test_mbrecv : nextIs (exec (.mbrecv 8 9 10) (box 7 7)) (fun t => t.g 8 = 1) := by decide +kernel

/-! Vector words. -/

/-- The issue of a vector word, computed: true when the word may issue and a property holds of what it works on. -/
def vReadyIs (s s0 : State) (opc : Nat) (w : VWord) (addr vals : List GReg) (p : VIn → State → Bool) : Bool :=
  decide (vPlaced opc s.vnames ((s.myTt.map (·.semLen)).getD 0) w = none) && decide (s.produced (addr ++ vals)) &&
  decide (s.clear addr) && decide (w.sinc = 0 ∨ (s.settleRels s.myNum).me.rels = []) &&
  decide (w.wthr = 0 ∨
    (((s.coreAt s.myCore).sem (semNum ((s.myTt.map (·.semBase)).getD 0) w.wsem.toNat)).poisoned = false ∧ s.me.deadlock = false ∧
     (s.coreAt s.myCore).sync.ready (semNum ((s.myTt.map (·.semBase)).getD 0) w.wsem.toNat) w.wthr.toNat (.strand s.myNum) = true)) &&
  okIs (s0.priorOf w opc) fun a s1 => okIs (s1.readOperands (vOperands opc w)) fun q s2 =>
    okIs (match vTarget opc w with
      | some (n, g) => (s2.freeLast (vOperands opc w)).reserve n s0.nextTok g 0
      | none => .ok [] (s2.freeLast (vOperands opc w))) fun _ s3 =>
        p ⟨q.1, q.2 || a.2 || s3.govTag w || vals.any s3.gt, a.1, s3.enabled w⟩
          (if w.wthr = 0 then s3 else s3.modCore s3.myCore (·.modSync (·.take
             (semNum ((s.myTt.map (·.semBase)).getD 0) w.wsem.toNat) w.wthr.toNat (.strand s.myNum))))
theorem of_vReadyIs {s s0 : State} {opc : Nat} {w : VWord} {addr vals : List GReg} {p : VIn → State → Bool}
    (h : vReadyIs s s0 opc w addr vals p = true) : ∃ u x places, VReady s s0 u opc w addr vals x places ∧ p x u = true := by
  simp only [vReadyIs, Bool.and_eq_true, decide_eq_true_eq] at h
  obtain ⟨⟨⟨⟨⟨h1, h2⟩, h3⟩, h4⟩, h5⟩, h6⟩ := h
  obtain ⟨a, s1, ha, h6⟩ := of_okIs h6
  obtain ⟨q, s2, hq, h6⟩ := of_okIs h6
  obtain ⟨r, s3, hr, h6⟩ := of_okIs h6
  exact ⟨_, _, r, ⟨h1, h2, h3, h4, h5, a, s1, q, s2, s3, ha, hq, hr, rfl, rfl⟩, h6⟩

/-- A strand whose names 130 to 151 but 140 to 147 hold one value each, and 152 the indexes 0 to 127. -/
def vstrand : Strand := { st0 with
  vn := ((upto 22).filterMap fun k => if 10 ≤ k && k < 18 then none else some (130 + k, [⟨true, BitVec.ofNat 4096 (3 * k + 1), false, 0⟩])) ++
    [(152, [⟨true, packVec 32 (upto 128), false, 0⟩])]
  m := [(2, 5), (4, 0xFF)], g := regs [(8, 0x1000), (9, 7), (10, 2)] }
/-- The fields of a word of an opcode that may issue there, in its widest type class. -/
def vfields (opc : Nat) : VWord :=
  match vform opc (opc = 0x63) with
  | none => vw 0
  | some f =>
    let ty : BitVec 4 := match opc with
      | 0x60 => 10
      | 0x62 => 0
      | _ => match f.ty with
        | .i => 4 | .f => 8 | .if_ => 8 | .if8 => 4 | .q => 11 | .any => 4 | .rng => 5 | .zero => 0
    let src (c : FClass) (v : Nat) (g : Nat) : BitVec 12 := match c with
      | .v => BitVec.ofNat 12 v
      | .g => BitVec.ofNat 12 g
      | .m => 2
      | .t => match opc with | 0x60 => 8 | 0x61 => 0 | 0x62 => 4 | 0x63 => 8 | _ => 11
      | .o => 16
      | .none => 0
    ⟨ty, match f.dst with | .v => (if opc = 0x83 then 149 else 140) | .g => 11 | .m => 3 | _ => 0,
      src f.s1 130 8, if opc = 0x63 then 1600 else src f.s2 (if opc = 0x64 then 134 else 150) 9,
      src f.s3 (if 0x80 ≤ opc then 152 else 151) 10, 0, false, 0, 0, 0, 0, 0⟩
/-- The package with that strand. -/
def von : State := on vstrand

/-- R210-R229, R234, R235: every word that works on registers may issue there. -/
theorem wit_vectorReady : ∀ opc ∈ [0x01, 0x02, 0x03, 0x04, 0x05, 0x06, 0x07, 0x08, 0x09, 0x0A, 0x0B, 0x0C, 0x0D, 0x0E, 0x0F, 0x10, 0x11,
      0x20, 0x21, 0x22, 0x23, 0x24, 0x25, 0x26, 0x27, 0x28, 0x29, 0x2A, 0x2B, 0x2C, 0x2D, 0x40, 0x41, 0x42, 0x43, 0x44, 0x45, 0x46, 0x48,
      0x49, 0x4A, 0x4B, 0x4C, 0x4D, 0x4E, 0x60, 0x61, 0x62, 0x63, 0x64, 0x70, 0x71, 0x72, 0x74, 0x75, 0x7A, 0x90],
    ∃ u x places, VReady von von u opc (vfields opc) [] [] x places ∧ decide ((x.elems 32 0).length % 8 = 0) = true := fun opc h =>
  of_vReadyIs ((by decide +kernel : ∀ opc ∈ _, vReadyIs von von opc (vfields opc) [] [] (fun x _ => decide ((x.elems 32 0).length % 8 = 0)) = true)
    opc h)
theorem wit_vectorReady_registers :
    (∃ u x places, VReady von von u 0x76 (vfields 0x76) [] [srcReg (vfields 0x76).s1] x places ∧ decide (u.cur = .strand 0) = true) ∧
    (∃ u x places, VReady von von u 0x77 (vfields 0x77) [srcReg (vfields 0x77).s3] [] x places ∧
      decide ((x.elems 32 0).length = 128 ∧ (x.elems 32 1).length = 128) = true) ∧
    (∃ u x places, VReady von von u 0x78 (vfields 0x78) [srcReg (vfields 0x78).s3] [srcReg (vfields 0x78).s2] x places ∧
      decide ((x.elems 32 0).length = 128) = true) ∧
    (∃ u x places, VReady von von u 0x79 (vfields 0x79) [srcReg (vfields 0x79).s2] [] x places ∧ decide ((x.elems 32 0).length = 128) = true) ∧
    (∃ u x places, VReady von von u 0x91 (vfields 0x91) [] [srcReg (vfields 0x91).s1, srcReg (vfields 0x91).s2] x places ∧
      decide (u.cur = .strand 0) = true) :=
  ⟨of_vReadyIs (by decide +kernel), of_vReadyIs (by decide +kernel), of_vReadyIs (by decide +kernel), of_vReadyIs (by decide +kernel),
    of_vReadyIs (by decide +kernel)⟩
theorem wit_vectorConversions : von.acts 0 vstrand ∧ von.usesSr (vfields 0x60) = false ∧
    von.usesSr { vfields 0x60 with mode := 3 } = true ∧
    ∃ u x places, VReady von von u 0x60 { vfields 0x60 with mode := 3 } [] [] x places ∧ decide ((x.elems 32 0).length = 256) = true :=
  ⟨by decide +kernel, by decide +kernel, by decide +kernel, of_vReadyIs (by decide +kernel)⟩
theorem wit_vectorMoves_shuf : ∀ m : BitVec 3, m < 4 → ∃ u x places, VReady von von u 0x75 { vfields 0x75 with mode := m } [] [] x places ∧
    decide ((x.elems 32 0).length = 128 ∧ (x.elems 32 1).length = 128 ∧ 0 < 128 / 2) = true :=
  fun m h => of_vReadyIs (by revert m; decide +kernel)
/-- With a wait clause, a signal clause and a mask (R150, R151). -/
theorem wit_vectorReady_clauses : ∃ u x places, VReady (von.modCore 0 (·.modSync fun c => c.setSem 3 ⟨4, false⟩))
    (von.modCore 0 (·.modSync fun c => c.setSem 3 ⟨4, false⟩)) u 0x01 { vfields 0x01 with mask := 2, wsem := 3, wthr := 4, ssem := 127, sinc := 15 }
    [] [] x places ∧ decide (((u.coreAt 0).sem 3).count = 0 ∧ x.en 0 = true ∧ x.en 1 = false) = true := of_vReadyIs (by decide +kernel)

theorem wit_vectorMemory :
    (∃ u x places, VReady von von u 0x80 (vfields 0x80) [srcReg (vfields 0x80).s1] [] x places ∧
      decide (u.cur = .strand 0 ∧ (u.strandAt 0).isSome) = true) ∧
    (∃ u x places, VReady von von u 0x81 (vfields 0x81) [srcReg (vfields 0x81).s1] [] x places ∧
      decide (u.cur = .strand 0 ∧ ((u.strandAt 0).any fun us => !us.owesBefore (us.mark + 1)) ∧ (vfields 0x81).mask = 0 ∧ typeWidth (vfields 0x81).ty.toNat = 32) = true) ∧
    (∃ u x places, VReady von von u 0x82 (vfields 0x82) [srcReg (vfields 0x82).s1] [] x places ∧
      decide (u.cur = .strand 0 ∧ (u.strandAt 0).isSome ∧ u.g (srcReg (vfields 0x82).s1) = von.g (srcReg (vfields 0x82).s1) ∧
        (x.elems 32 0)[127]? = some 127 ∧ x.en 127 = true) = true) ∧
    (∃ u x places, VReady von von u 0x83 (vfields 0x83) [srcReg (vfields 0x83).s1] [] x places ∧
      decide (u.cur = .strand 0 ∧ ((u.strandAt 0).any fun us => !us.owesBefore (us.mark + 1)) ∧ u.g (srcReg (vfields 0x83).s1) = von.g (srcReg (vfields 0x83).s1) ∧
        (x.elems 32 1)[127]? = some 127 ∧ x.en 127 = true) = true) :=
  ⟨of_vReadyIs (by decide +kernel), of_vReadyIs (by decide +kernel), of_vReadyIs (by decide +kernel), of_vReadyIs (by decide +kernel)⟩
/-- A masked store of 4-bit elements, of which every second one is enabled (R213). -/
theorem wit_vectorMemory_masked :
    let w := { vfields 0x81 with mask := 2, ty := 14 }
    (∃ u x places, VReady von von u 0x81 w [srcReg w.s1] [] x places ∧
      decide ((u.strandAt 0).any (fun us => !us.owesBefore (us.mark + 1)) ∧ typeWidth w.ty.toNat = 4 ∧ x.en 0 = true ∧ x.en 1 = false) = true) ∧
    okIs (von.spCheck w false) (fun _ s => s = von) = true :=
  ⟨of_vReadyIs (by decide +kernel), by decide +kernel⟩
/-- A strand with a push in flight, whose stores to the scratchpad stand in line (R94). -/
theorem wit_vectorMemory_behind :
    let st := { vstrand with fly := [⟨0, [], [(0, 0, 0)], false, none⟩] }
    (∃ u x places, VReady (on st) (on st) u 0x81 (vfields 0x81) [srcReg (vfields 0x81).s1] [] x places ∧
      decide (u.cur = .strand 0 ∧ (u.strandAt 0).any fun us => us.owesBefore (us.mark + 1)) = true) ∧
    okIs ((on st).spCheck (vfields 0x81) false) (fun _ s => s = on st) = true :=
  ⟨of_vReadyIs (by decide +kernel), by decide +kernel⟩
theorem wit_vectorMemory_checks : okIs (von.spCheck (vfields 0x80) true) (fun a s => a = (0x1000 + 64 * 16) % 2 ^ 21 ∧ s = von) = true ∧
    okIs (von.spCheck (vfields 0x81) false) (fun a s => a = (0x1000 + 64 * 16) % 2 ^ 21 ∧ s = von) = true ∧
    okIs (von.gatherCheck 0x82 (vfields 0x82)) (fun _ s => s = von) = true ∧
    okIs (von.gatherCheck 0x83 (vfields 0x83)) (fun _ s => s = von) = true := by decide +kernel
/-- The strand with a time ahead in g10 and g11, and an address in g8. -/
def vtimed : State := on { vstrand with g := regs [(8, 0x20000), (10, 4096), (11, 4096)] }
theorem wit_vectorMemory_global :
    okIs (vtimed.vGlobal (vfields 0x84) false none) (fun _ s0 => vReadyIs vtimed s0 0x84 (vfields 0x84) [8] []
      (fun _ u => u.cur = .strand 0 ∧ (u.strandAt 0).any fun st => st.txn = none)) = true ∧
    okIs (vtimed.vGlobal (vfields 0x86) false (some (vtimed.g 10))) (fun _ s0 => vReadyIs vtimed s0 0x86 (vfields 0x86) [8, 10] []
      (fun _ u => u.cur = .strand 0 ∧ (u.strandAt 0).any fun st => st.txn = none)) = true ∧
    okIs (vtimed.vGlobal (vfields 0x85) true none) (fun _ s0 => vReadyIs vtimed s0 0x85 (vfields 0x85) [8] []
      (fun _ u => u.cur = .strand 0 ∧ (u.strandAt 0).any fun st => st.txn = none)) = true ∧
    okIs (vtimed.vGlobal (vfields 0x87) true (some (vtimed.g 11))) (fun _ s0 => vReadyIs vtimed s0 0x87 (vfields 0x87) [8, 11] []
      (fun _ u => u.cur = .strand 0 ∧ (u.strandAt 0).any fun st => st.txn = none)) = true ∧
    srcReg (vfields 0x84).s1 = 8 ∧ srcReg (vfields 0x86).s3 = 10 ∧ (vfields 0x87).dst.setWidth 5 = (11 : GReg) := by decide +kernel

theorem wit_vectorResults : von.cur = .strand 0 ∧ von.strandAt 0 = some vstrand ∧ vTarget 0x01 (vfields 0x01) = some (140, 1) ∧ 140 < 1536 ∧
    ¬ (0x70 ≤ 0x01 ∧ 0x01 ≤ 0x72) ∧ typeWidth (vfields 0x01).ty.toNat ∈ [4, 8, 16, 32] ∧ (List.replicate 128 (2 ^ 32 - 1)).length = countAt 32 ∧
    [(0 : Vec)].length = 1 ∧ ∀ v ∈ List.replicate 128 (2 ^ 32 - 1), v < 2 ^ 32 := by decide +kernel
theorem wit_vectorResults_completion :
    let st := { st0 with vn := [(140, [⟨false, 0, false, 1⟩])], fly := [⟨1, [(140, 77, true)], [], true, none⟩] }
    (on st).strandAt 0 = some st ∧ st.fly[0]? = some ⟨1, [(140, 77, true)], [], true, none⟩ ∧ tget [] st.vn 140 = [⟨false, 0, false, 1⟩] := by
  decide +kernel

/-- R128: the counter hash. -/
theorem test_hash : hashH 0 1 = 0x6D523710 ∧ hashH 1 1 = 0xC580324C := by decide +kernel
/-- R226: a block with maximum 300 has scale 0xFD; 300 becomes 0x7C and 1.0 becomes 0x3B in e4m3, and they come back as 288 and 1.03125. -/
theorem test_quantise : blockScale 11 [.fin false 300 0, .fin false 1 0] = 0x00FD ∧ quantElem 11 8 ⟨.rne, false, false, false⟩ 0xFD 0x43960000 = 0x7C ∧
    quantElem 11 8 ⟨.rne, false, false, false⟩ 0xFD 0x3F800000 = 0x3B ∧
    toFloat 8 ⟨.rne, false, false, false⟩ (scaled (scaleOf 0xFD) (unpack 11 false 0x7C)) = 0x43900000 ∧
    toFloat 8 ⟨.rne, false, false, false⟩ (scaled (scaleOf 0xFD) (unpack 11 false 0x3B)) = 0x3F840000 := by decide +kernel
/-- R222: MPOPC of the mask 5. -/
theorem test_mpopc : nextIs (exec (.mpopc (vfields 0x4D)) von) (fun t => t.g 11 = 2) := by decide +kernel
/-- R229: VEXT of element 7 of the indexes. -/
theorem test_vext : nextIs (exec (.vext { vfields 0x79 with ty := 4, s1 := 152 }) von) (fun t => t.g 11 = 7) := by decide +kernel
/-- R217, R216: VADD.i32 of the indexes with themselves completes with 2, 4, … in its destination. -/
theorem test_vadd : nextIs (exec (.vadd { vfields 0x01 with s1 := 152 + 2048, s2 := 152 }) von) (fun t =>
    nextIs (exec (.vectorWordCompletion 0 0) t) (fun u => ((u.strandAt 0).map fun st =>
      (tget [] st.vn 140).map fun e => (e.ready, (elems 32 e.v)[3]?)) = some [(true, some 6)])) := by decide +kernel
/-- R230, R7: VST writes element 127 little-endian at the end of its 512 bytes. -/
theorem test_vst : nextIs (exec (.vst { vfields 0x81 with s3 := 152 }) von) (fun t =>
    tgets 0 (t.coreAt 0).spm (0x1400 + 508) 4 = [127, 0, 0, 0]) := by decide +kernel

/-! Engine words and their commands. -/

/-- A tile task with the whole scratchpad, an output declaration, and the MXE state. -/
def bigTask : TileTask := { homeTask with spmUnits := 512 }
/-- The package with that tile task, and registers for engine words. -/
def eon : State :=
  let s := (withG [(8, 0x180000), (9, 0x20000), (10, 0x100000040), (11, 0x40), (12, 0)]).setTt 0 (some bigTask)
  let s := s.setBlock 0 (some { homeBlock with lb := { homeBlock.lb with decls := [decl1] } })
  s.modCore 0 fun c => { c with mxeOwner := some 0 }
/-- The strand in it. -/
def est : Strand := { st0 with g := regs [(8, 0x180000), (9, 0x20000), (10, 0x100000040), (11, 0x40), (12, 0)] }
/-- MMA operands: a in the last group, b in group 2. -/
def mx : MmaArgs := { ma 10 10 with offB := 0x2000 }

theorem wit_engineIssue : eon.acts 0 est ∧ eon.ttAt est.tt = some bigTask ∧ est.txn = none ∧ est.rels = [] ∧
    (127 : BitVec 8).toNat < bigTask.semLen ∧ eon.produced [8, 9, 10, 12] ∧ eon.clear [8, 9, 10, 12] ∧
    (∀ q ∈ List.range 7, (eon.coreAt (coreOfStrand 0)).full q = false) ∧ est.role = .computer ∧
    (eon.coreAt (coreOfStrand 0)).mxeOwner = some est.tt := by decide +kernel
theorem wit_engineIssue_mma : mmaPair mx.fa.toNat mx.fb.toNat = some (64, false, false) ∧ mx.scaled = false ∧
    (let a := ((eon.g mx.base).toNat + 128 * mx.offA.toNat) % 2 ^ 21
     let b := ((eon.g mx.base).toNat + 128 * mx.offB.toNat) % 2 ^ 21
     a % 128 = 0 ∧ a / 2 ^ 19 = (a + 8191) / 2 ^ 19 ∧ bigTask.spmBase ≤ a ∧ a + 8192 ≤ bigTask.spmBase + 4096 * bigTask.spmUnits ∧
     mx.bsrc = false ∧ b % 128 = 0 ∧ b / 2 ^ 19 = (b + 8191) / 2 ^ 19 ∧ b + 8192 ≤ bigTask.spmBase + 4096 * bigTask.spmUnits ∧
     a / 2 ^ 19 ≠ b / 2 ^ 19) ∧
    mmaPair 13 13 = some (256, true, true) ∧ (120 : BitVec 7).toNat + 256 / 32 ≤ 128 := by decide +kernel
theorem wit_engineIssue_transfers : accType 8 = true ∧ accType 0 = true ∧
    (((eon.g 8).toNat + 64 * 0x1F00) % 2 ^ 21) % 64 = 0 ∧ ((eon.g 8).toNat + 64 * 0x1F00) % 2 ^ 21 + 4096 * typeWidth 8 / 8 ≤ 2 ^ 21 ∧
    (126 : BitVec 7).toNat + ((1 : BitVec 7).toNat + 1) ≤ 128 ∧ ((eon.g 8).toNat % 2 ^ 21) % 64 = 0 ∧
    (1 : BitVec 2) ≠ 3 ∧ (0 : BitVec 4).toNat + (15 : BitVec 4).toNat + 1 ≤ 16 ∧ (eon.g 8).toNat % 64 = 0 := by decide +kernel
theorem wit_engineIssue_courier :
    let x : CpyArgs := { ca with dkind := true, gd := 8, gs := 9, gz := 10, gw := 12 }
    (eon.myMove x false).misaligned = none ∧ (eon.myMove x false).outside bigTask.spmBase (bigTask.spmUnits * 4096) = none ∧
    (eon.myMove x true).misaligned = none ∧ (eon.myMove x true).outside bigTask.spmBase (bigTask.spmUnits * 4096) = none ∧
    (0 : BitVec 3).toNat ≤ 5 ∧ eon.myDecl 0 = some (decl1, ⟨0, 0, 0⟩) ∧ decl1.output = true ∧ (eon.g 11).toNat % 64 = 0 ∧ (eon.g 11).toNat < 2 ^ 21 ∧
    bigTask.spmBase ≤ (eon.g 11).toNat := by decide +kernel
theorem wit_engineIssue_take :
    let s := (base.setTt 0 (some { homeTask with wantsMxe := true })).setCtx 0 (some { homeCtx with heapSize := 544768 })
    s.ttAt 0 = some { homeTask with wantsMxe := true } ∧ s.ctxAt 0 = some { homeCtx with heapSize := 544768 } ∧ homeTask.core = 0 ∧
    (s.coreAt 0).mxeOwner = none ∧ homeCtx.heapUsed + Config.mxeSave ≤ 544768 ∧ (s.coreAt 0).mxeCtx ≠ some 0 ∧
    ((s.modCore 0 fun c => { c with mxeCtx := some 0 }).coreAt 0).mxeCtx = some 0 := by decide +kernel
theorem wit_engineIssue_place :
    let s := (base.setTt 0 (some { homeTask with wantsMxe := true })).setCtx 0 (some { homeCtx with heapSize := 2 ^ 20 })
    (s.heapPlace 0 (homeTask.reserved + Config.mxeSave) 0).isSome := by decide +kernel

/-- A command of the strand's tile task. -/
def cmd (i : Instr) (rs : List W64) (started : Bool) : Cmd :=
  ⟨5, i, rs, 0, 0, 0, 0, 0, 2 ^ 21, 0, 128, false, started, false, none, none, false, 0, none, false, none⟩
/-- The package with a command alone in a queue. -/
def queued (q : Nat) (x : Cmd) : State := eon.modCore 0 fun c => c.setQueue q [x]

theorem wit_engineStarts :
    let h := { eh with wsem := 3, wthr := 2 }
    let x := cmd (.wsel h 1) [] false
    let s := (queued 5 x).modCore 0 (·.modSync fun c => c.setSem 3 ⟨2, false⟩)
    (s.coreAt 0).head 5 = some x ∧ engineHead x.word = some h ∧ h.stamped = false ∧ s.frozen x.tt = false ∧
    (∀ y ∈ (s.coreAt 0).queue 5, y.started = false) ∧ s.mayStart 0 5 x = true ∧
    ((s.coreAt 0).sem (semNum x.semBase h.wsem.toNat)).poisoned = false ∧
    h.wthr.toNat ≤ ((s.coreAt 0).sem (semNum x.semBase h.wsem.toNat)).count ∧
    tget [] (s.coreAt 0).sync.waiters (semNum x.semBase h.wsem.toNat) = [] := by decide +kernel
/-- R71: the example of the spec: H = 0x1_FFFF_FF00 and a stamp of 0x40 give T = 0x2_0000_0040. -/
theorem test_stamp : stampTarget 0x1FFFFFF00 0x40 = 0x200000040 ∧ stampTarget 0x1FFFFFF00 0xFFFFFE00 = 0x1FFFFFE00 := by decide +kernel
theorem wit_engineStarts_stamped :
    let h := { eh with stamped := true, stamp := 0x40 }
    let x := { cmd (.accz h 1) [] false with arrived := some 0x30 }
    let s := queued 0 x
    (s.coreAt 0).head 0 = some x ∧ engineHead x.word = some h ∧ h.stamped = true ∧ s.frozen x.tt = false ∧
    x.atE ≠ some false ∧ (0x30 : Int) ≤ stampTarget 0x30 0x40 ∧ ((s.pt 0 : Nat) : Int) < stampTarget 0x30 0x40 ∧ h.wthr = 0 ∧ s.mayStart 0 0 x = true ∧
    stampTarget 0x30 0x40 ≤ (((s.modTime fun t => { t with pt := [(0, 0x40)] }).pt 0 : Nat) : Int) := by decide +kernel

/-- A matrix step of one product of bf16 1.0 by 1.0, and its core: the operands' elements as R242 lays them out, in the first rows. -/
def mma1 : State :=
  let c (s : State) := s.modCore 0 fun c => { c with spm := tsets 0 (tsets 0 c.spm 0x180000 [0x80, 0x3F]) 0x80000 [0x80, 0x3F] }
  c (queued 0 (cmd (.mmaz { eh with sinc := 0 } mx) [0x180000] true))
theorem wit_matrixSteps : mma1.signalFits 0 (cmd (.mmaz { eh with sinc := 0 } mx) [0x180000] true) ∧
    (((mma1.coreAt 0).queue 0).find? (·.started)) = some (cmd (.mmaz { eh with sinc := 0 } mx) [0x180000] true) ∧
    (cmd (.mmaz { eh with sinc := 0 } mx) [0x180000] true).failed = false ∧ mmaPair mx.fa.toNat mx.fb.toNat = some (64, false, false) ∧
    (8 ≤ mx.fa.toNat ∧ mx.scaled = false) ∧ (4 = 4 ∨ 4 = 8) ∧ (127 : BitVec 7).toNat + (0 : BitVec 7).toNat < 128 := by
  refine ⟨.inr fun i k h => ?_, by decide +kernel, by decide +kernel, by decide +kernel, by decide +kernel, by decide +kernel, by decide +kernel⟩
  have h' : (cmd (.mmaz { eh with sinc := 0 } mx) [0x180000] true).sig = none := by decide +kernel
  rw [h'] at h
  cases h
/-- A scaled step and transfers of a narrow type stand started at the head of the queue. -/
theorem wit_matrixSteps_forms :
    (∀ x ∈ [cmd (.mma { eh with sinc := 0 } { mx with fa := 11, fb := 12, scaled := true }) [0x180000] true,
        cmd (.accrd { eh with sinc := 0 } ⟨2, false, false, false, 0, 0, 8⟩) [0x180000] true, cmd (.accwr { eh with sinc := 0 } ⟨0, false, false, false, 0, 0, 8⟩) [0x180000] true],
      ((((queued 0 x).coreAt 0).queue 0).find? (·.started)) = some x ∧ x.failed = false ∧ x.sig = none) ∧
    mmaPair 11 12 = some (128, true, false) ∧ ∀ t ∈ [0, 2, 4, 8, 9, 10], accType t = true := by decide +kernel
/-- R245, R131: MMAZ of 1.0 by 1.0 in row 0 and column 0 gives 1.0 in f32. -/
theorem test_mmaz : nextIs (exec (.engineCommandComplete 0 0 0) mma1) (fun t => tget 0 (t.coreAt 0).acc 0 = 0x3F800000 ∧
    (t.coreAt 0).queue 0 = []) := by decide +kernel
theorem wit_accumulatorZero : (cmd (.accz eh 2) [] true).failed = false ∧
    ((((queued 0 (cmd (.accz eh 2) [] true)).coreAt 0).queue 0).find? (·.started)) = some (cmd (.accz eh 2) [] true) := by decide +kernel
/-- R247: ACCZ of tile 1 clears its words and leaves tile 0. -/
theorem test_accz : nextIs (exec (.engineCommandComplete 0 0 0) ((queued 0 (cmd (.accz eh 2) [] true)).modCore 0 fun c =>
    { c with acc := [(5, 7), (4096, 9)] })) (fun t => (t.coreAt 0).acc = [(5, 7)]) := by decide +kernel
theorem wit_enginePlacement : (on { st0 with role := .storer }).acts 0 { st0 with role := .storer } ∧ (on st0).slot.defer = true ∧
    { st0 with role := .storer }.role ≠ .computer ∧ st0.role = .computer := by decide +kernel
theorem wit_engineCompletes :
    let x := cmd (.wsel eh 1) [] true
    let s := queued 5 x
    ((s.coreAt 0).queue 5).find? (·.started) = some x ∧ (s.coreAt 0).cmd 5 x.id = some x ∧ s.frozen x.tt = false ∧ x.discard = false := by
  decide +kernel
/-- A fill of two rows of 64 bytes at 0x100 and 0x180. -/
def fill2 : CpyArgs := { ca with dkind := true }
theorem wit_engineCompletes_fill :
    let x := cmd (.cpyf eh fill2) [0x100, 0x0123456789ABCDEF, 0x200000040, 0x8000000000] true
    let m := moveOf fill2 true 0x100 0x0123456789ABCDEF 0x200000040 0x8000000000
    ((((queued 1 x).coreAt 0).queue 1).find? (·.started)) = some x ∧ ((queued 1 x).coreAt 0).cmd 1 x.id = some x ∧ x.progress = 0 ∧
    fill2.dkind = true ∧ m.misaligned = none ∧ m.outside 0 (2 ^ 21) = none ∧ m.total ≤ 4096 * 1 := by decide +kernel
/-- R257: the rows of a fill, and the byte after the first row. -/
theorem test_cpyf : nextIs (exec (.engineCommandComplete 0 1 1)
    (queued 1 (cmd (.cpyf eh fill2) [0x100, 0x0123456789ABCDEF, 0x200000040, 0x8000000000] true))) (fun t =>
      tgets 0 (t.coreAt 0).spm 0x100 9 = [0xEF, 0xCD, 0xAB, 0x89, 0x67, 0x45, 0x23, 0x01, 0xEF] ∧ tget 0 (t.coreAt 0).spm 0x140 = 0 ∧
      tget 0 (t.coreAt 0).spm 0x1BF = 0x01 ∧ (t.coreAt 0).queue 1 = []) := by decide +kernel
/-- A copy of two rows of 64 bytes from 0x1000 and 0x1040 to 0x100 and 0x180. -/
def copyRows : State :=
  (queued 1 (cmd (.cpy eh { ca with skind := true, dkind := true }) [0x100, 0x1000, 0x200000040, 0x8000000040] true)).modCore 0 fun c =>
    { c with spm := tsets 0 c.spm 0x103F [1, 2] }
theorem wit_engineCompletes_copy :
    let x := cmd (.cpy eh { ca with skind := true, dkind := true }) [0x100, 0x1000, 0x200000040, 0x8000000040] true
    let m := moveOf { ca with skind := true, dkind := true } false 0x100 0x1000 0x200000040 0x8000000040
    ((copyRows.coreAt 0).queue 1).find? (·.started) = some x ∧ (copyRows.coreAt 0).cmd 1 x.id = some x ∧ x.progress = 0 ∧
    m.misaligned = none ∧ m.outside 0 (2 ^ 21) = none ∧ m.total ≤ 4096 * 1 ∧ m.rows = 2 ∧ m.rowBytes = 64 ∧ m.sstride = 64 ∧
    m.dstride = 128 := by decide +kernel
/-- R256: the last byte of the first row and the first byte of the second. -/
theorem test_cpy : nextIs (exec (.engineCommandComplete 0 1 1) copyRows) (fun t => tget 0 (t.coreAt 0).spm 0x13F = 1 ∧
    tget 0 (t.coreAt 0).spm 0x180 = 2 ∧ tget 0 (t.coreAt 0).spm 0x140 = 0 ∧ (t.coreAt 0).queue 1 = []) := by decide +kernel
theorem wit_engineCompletes_sfj :
    let x := cmd (.sfjExp { eh with ssem := 4, sinc := 1 } 8) [0x20000] true
    let s := eon.modCore 0 fun c => { c with arriving := [x] }
    (s.coreAt 0).arriving = x :: [] ∧ s.ttAt x.tt = some bigTask ∧ bigTask.saving = false ∧ bigTask.core = 0 ∧ x.sig = some (4, 1) ∧
    ((s.coreAt 0).sem 4).poisoned = false ∧ ((s.coreAt 0).sem 4).count + 1 ≤ 65535 ∧
    (((queued 6 x).coreAt 0).queue 6).find? (·.started) = some x := by decide +kernel

/-- A CHAIN that stands at a record at 0x100. -/
def chainAt (bs : List Byte) : State :=
  let x := { cmd (.chain eh { ca with gs := 8 }) [0x100] true with chain := some ⟨0x100, 0, 0, 0, 0, none, 0⟩ }
  (queued 1 x).modCore 0 fun c => { c with spm := tsets 0 c.spm 0x100 bs }
/-- The record that it stands at, and what the queue shows of it. -/
def chainIs (bs : List Byte) (r : ChainRec) : Bool :=
  let c := (chainAt bs).coreAt 0
  decide (chainRec (c.spmRead 0x100 64).1 = some r) && (c.queue 1).any fun x => x.started && !x.failed &&
    decide (x.chain = some ⟨0x100, 0, 0, 0, 0, none, 0⟩) && !x.discard && !(chainAt bs).frozen x.tt && decide (x.spmBase ≤ 0x100 ∧
      0x100 + 64 ≤ x.spmBase + x.spmLen)
theorem wit_chains : chainIs ([2, 0, 0, 0] ++ leBytes 4 3 ++ leBytes 8 64 ++ leBytes 8 128 ++ leBytes 4 (2 ^ 32 - 64)) (.loop 3 64 128 (-64)) = true ∧
    chainIs ([3, 2, 0, 0] ++ leBytes 4 9 ++ leBytes 4 0x200 ++ leBytes 4 128) (.cond 2 9 0x200 128) = true ∧
    chainIs [4, 0, 0, 5, 1] (.signal 0 0 5 1) = true ∧ chainIs [] .done = true := by decide +kernel
theorem wit_chains_copy : chainIs ([1, 3, 0, 0] ++ leBytes 4 0 ++ leBytes 8 0x400 ++ leBytes 8 0x800)
    (.copy { skind := true, dkind := true, fill := false, src := 0x400, dst := 0x800, rows := 0, rowBytes := 0, sstride := 0, dstride := 0 }) = true ∧
    ({ skind := true, dkind := true, fill := false, src := 0x400, dst := 0x800, rows := 0, rowBytes := 0, sstride := 0, dstride := 0 } : Move).total = 0 := by
  decide +kernel
/-- A copy of two rows of 64 bytes from 0x400 to 0x800, both in the scratchpad, and its record. -/
def copy2 : Move := { skind := true, dkind := true, fill := false, src := 0x400, dst := 0x800, rows := 2, rowBytes := 64, sstride := 64, dstride := 64 }
def copy2Bytes : List Byte :=
  [1, 3, 0, 0] ++ leBytes 4 2 ++ leBytes 8 0x400 ++ leBytes 8 0x800 ++ leBytes 4 64 ++ leBytes 4 0 ++ leBytes 4 64 ++ leBytes 4 64
theorem wit_chains_moves : chainIs copy2Bytes (.copy copy2) = true ∧
    (let s := chainAt copy2Bytes
     let m := copy2.shifted ⟨0x100, 0, 0, 0, 0, none, 0⟩
     m.misaligned = none ∧ m.outside 0 (2 ^ 21) = none ∧ m.global = false ∧ m.total = 128 ∧ (s.coreAt 0).ctlErrors = [] ∧
     (let r := s.moveSegs 0 0 m 2 0
      r.fault.isNone ∧ r.waits = false)) ∧
    { copy2 with fill := true }.global = false ∧ { copy2 with fill := true }.misaligned = none := by decide +kernel
/-- R256, R259: a COPY record of 128 bytes is performed, and the chain goes on 64 bytes further. -/
theorem test_chain_copy : nextIs (exec (.chainCopy 0 0) ((chainAt copy2Bytes).modCore 0 fun c => { c with spm := tset 0 c.spm 0x47F 9 })) (fun t =>
    tget 0 (t.coreAt 0).spm 0x87F = 9 ∧
      (((t.coreAt 0).queue 1).map fun x => (x.progress, x.chain.map fun y => (y.at_, y.moved))) = [(128, some (0x140, 0))]) := by decide +kernel
/-- R259: LOOP of count 3 goes back with its offsets advanced. -/
theorem test_chain_loop : nextIs (exec (.chainLoop 0 0)
    (chainAt ([2, 0, 0, 0] ++ leBytes 4 3 ++ leBytes 8 64 ++ leBytes 8 128 ++ leBytes 4 (2 ^ 32 - 64)))) (fun t =>
      (((t.coreAt 0).queue 1).map fun x => x.chain.map fun y => (y.at_, y.i, y.os, y.od)) = [some (0xC0, 1, 64, 128)]) := by decide +kernel

/-! Conductor words, control blocks, graphs and scheduling. -/

/-- Bytes of a record padded to a length. -/
def pad (n : Nat) (l : List Byte) : List Byte := l ++ List.replicate (n - l.length) 0
/-- A launch block of one computer strand: one level over cores of 10 iterations, or over dies; the first 16 semaphores, 8 units. -/
def lbBytes (kind : Nat) (mask : Nat) : List Byte :=
  pad 256 (pad 0x30 (leBytes 4 (1 + 64 * 2 + 4096) ++ leBytes 4 (16 + 8 * 512) ++ leBytes 8 0 ++ leBytes 8 77 ++ leBytes 8 0x8000) ++ leBytes 2 256 ++
    [BitVec.ofNat 8 mask] ++ List.replicate 13 0 ++ ([BitVec.ofNat 8 kind, 1, 0, 0] ++ leBytes 4 10 ++ leBytes 2 0 ++ leBytes 2 1))
/-- The launch block that they say. -/
def lb1 (kind : Nat) (mask : BitVec 8) : LbRec := { LbRec.empty with
  roles := 2, semWin := 16, spmUnits := 8, arg := 77, codeBase := 0x8000, vnames := 256, dieMask := mask
  loops := [⟨kind, 1, false, 10, 0, 1⟩] }
/-- R34-R38: the launch block read. -/
theorem test_launch_block : lbOf (lbBytes 1 0) true false false = some (lb1 1 0) ∧ lbOf (lbBytes 2 0x6C) true false false = some (lb1 2 0x6C) ∧
    lbOf (lbBytes 2 0) true false true = none := by decide +kernel
/-- A control block for the launch block at record offset 0x100, that waits for 3 on semaphore 4 and adds 2 to semaphore 5. -/
def cbBytes : List Byte := pad 64 (leBytes 4 (1 + 16) ++ [4, 3, 5, 2] ++ leBytes 8 0 ++ leBytes 8 0x100)
/-- The control block that they say. -/
def ctl1 : Ctl := ⟨1, 0, 0, 0, 1, 4, 3, 5, 2, 0, 0x100, 0, false, none, false, 0⟩

/-- A conductor core with a control block and a launch block in record memory, and g8 their launch block's offset. -/
def con (k : Nat) : State := (onCond k fun c => { c with g := regs [(8, 0x100), (9, 0x101)] }).modMem fun m =>
  { m with record := tsets 0 (tsets 0 [] 0x40 cbBytes) 0x100 (lbBytes 1 0) }
theorem wit_conductorWords : (con 15).conducts 15 ∧ ((con 15).condAt 15).task = some (1, 0) ∧
    ((con 15).streamAt (streamNum 7 15 3)).items.length < Config.streamDepth ∧
    ctlOf ((con 15).recordBytes (64 * (1 : BitVec 16).toNat) 64) 1 0 (con 15).myCtx ((con 15).condAt 15).run (decide (7 = 8)) = some ctl1 ∧
    (∀ q ∈ List.range 4, ((con 15).streamAt (streamNum 7 15 q)).items = []) := by decide +kernel
/-- A stream that holds control blocks. -/
def streaming (n : Nat) (c : Ctl) : State := (con 15).setStream (streamNum 7 15 3) { Stream.init with items := List.replicate n c }
theorem wit_conductorWords_full : Config.streamDepth ≤ ((streaming 16 ctl1).streamAt (streamNum 7 15 3)).items.length ∧
    (∃ c ∈ ((streaming 16 ctl1).streamAt (streamNum 7 15 3)).items, c.run = ((streaming 16 ctl1).condAt 15).run) ∧
    (8 : BitVec 4).getLsbD 3 = true := by decide +kernel
theorem wit_conductorWords_swap :
    let s := (con 3).modCond 3 fun c => { c with swapping := true, trailer := 0xFFFFFFFFF }
    (s.condAt 3).task = some (1, 0) ∧ (s.condAt 3).swapping = true ∧ (s.taskAt 1 0).isSome ∧
    (∀ b ∈ List.range 36, (s.streamAt (streamNum (b / 4) 3 (b % 4))).items = []) := by decide +kernel
theorem wit_conductorWords_launch : ((con 3).g 9).toNat % 256 ≠ 0 ∧ ((con 3).g 8).toNat % 256 = 0 ∧ ((con 3).g 8).toNat + 256 ≤ 2 ^ 22 ∧
    (con 3).work.generalUsed < Config.poolGeneral ∧
    lbOf ((con 3).recordBytes ((con 3).g 8).toNat 256) ((con 3).ctxRights (con 3).myCtx).1 ((con 3).ctxRights (con 3).myCtx).2 false = some (lb1 1 0) ∧
    (lb1 1 0).timetabled = false := by decide +kernel
/-- R266, R267: PUSH copies the control block; LAUNCH enters the launch block in the pool. -/
theorem test_push : nextIs (exec (.push 7 3 1) (con 15)) (fun t => (t.streamAt (streamNum 7 15 3)).items = [ctl1]) ∧
    nextIs (exec (.launch 8) (con 15)) (fun t => t.work.poolBlocks = [1] ∧ (t.blockAt 1).map (·.lb) = some (lb1 1 0)) := by decide +kernel

theorem wit_controlBlocks :
    let s := (streaming 1 ctl1).modCond 15 fun c => { c with sync := c.sync.setSem 4 ⟨3, false⟩ }
    s.condReaches 15 7 = true ∧ s.dieHead (streamNum 7 15 3) = some (ctl1, 0) ∧ ctl1.queued = false ∧
    (s.streamAt (streamNum 7 15 3)).items[0]? = some ctl1 ∧ 15 < 16 ∧ 7 < 9 ∧ 3 < 4 ∧
    (s.condAt 15).sync.ready 4 3 (.engine (streamNum 7 15 3)) = true := by decide +kernel
theorem wit_controlBlocks_read :
    let c := { ctl1 with queued := true }
    let s := streaming 1 c
    (s.streamAt (streamNum 7 15 3)).items[0]? = some c ∧ s.dieHead (streamNum 7 15 3) = some (c, 0) ∧ c.kind = 1 ∧ c.block = none ∧
    lbOf (s.recordBytes ctl1.target.toNat 256) (s.ctxRights ctl1.ctx).1 (s.ctxRights ctl1.ctx).2 true = some (lb1 1 0) ∧
    (lb1 1 0).timetabled = false := by decide +kernel
theorem wit_controlBlocks_done :
    let c := { ctl1 with queued := true, block := some 9 }
    let s := streaming 1 c
    (s.streamAt (streamNum 7 15 3)).items[0]? = some c ∧ (s.condAt 15).run = c.run ∧ (s.condAt 15).task = some (c.graph, c.task) ∧
    ((s.condAt 15).sync.sem c.sigSem).poisoned = false ∧ ((s.condAt 15).sync.sem c.sigSem).count + c.sigInc ≤ 65535 ∧
    s.blockAt 9 = none := by decide +kernel
/-- An EXP job of one row of one f32 element at 0x20000 to 0x20040. -/
def jobBytes : List Byte := pad 64 (leBytes 8 0x20000 ++ leBytes 8 0x20040 ++ leBytes 8 0 ++ leBytes 4 1 ++ leBytes 4 1 ++ leBytes 4 64 ++ leBytes 4 64 ++
  leBytes 4 0 ++ leBytes 4 0x88)
theorem wit_controlBlocks_job :
    let c : Ctl := { ctl1 with kind := 2, queued := true, started := true, subop := 0, target := 0x20080 }
    let s := ((con 15).setStream (streamNum 8 15 3) { Stream.init with items := [c] }).modMem fun m =>
      { m with bytes := tsets 0 m.bytes 0x20080 jobBytes }
    (s.streamAt (streamNum 8 15 3)).items[0]? = some c ∧ s.condReaches 15 8 = true ∧ c.kind = 2 ∧ s.jobRuns c = true ∧
    (s.condAt 15).run = c.run ∧ (s.condAt 15).task = some (c.graph, c.task) ∧ ((s.condAt 15).sync.sem c.sigSem).poisoned = false ∧
    ((s.condAt 15).sync.sem c.sigSem).count + c.sigInc ≤ 65535 ∧
    (match s.runJob c.ctx c.subop c.target with
     | (s', .done) => decide (s'.work = s.work ∧ s'.mem.byteAt 0x20042 = 0x80 ∧ s'.mem.byteAt 0x20043 = 0x3F)
     | _ => false) = true := by decide +kernel

/-! Graphs. -/

theorem wit_graphsEnter : base.host.recovery = false ∧ (0x0000000000000040 : W64).toNat / 2 ^ 57 = 0 ∧
    base.ctxAt ((0x40 : W64).toNat % 64) = some homeCtx ∧ homeCtx.killing = false ∧
    ((0x0100000000000040 : W64).getLsbD 56 = true ∧ homeCtx.privileged = true) ∧ base.host.submits.length < 64 ∧
    64 ≤ (base.modHost fun h => { h with submits := List.replicate 64 0 }).host.submits.length ∧ base.ctxAt 5 = none := by decide +kernel
/-- A graph of two tasks, the second after the first: header at 0x20000, records at 0x20080, a successor list at 0x20180. -/
def graphBytes : List Byte :=
  pad 128 (leBytes 4 1 ++ leBytes 4 2 ++ leBytes 8 0x20080) ++
  pad 128 (leBytes 4 (1 + 16) ++ leBytes 2 0 ++ leBytes 2 1 ++ leBytes 8 500 ++ leBytes 4 0 ++ leBytes 4 4096 ++ leBytes 8 0x20180 ++ leBytes 4 0x0040AC9F) ++
  pad 128 (leBytes 4 (1 + 16) ++ leBytes 2 1 ++ leBytes 2 0 ++ leBytes 8 500 ++ leBytes 4 4096 ++ leBytes 4 4096 ++ leBytes 8 0 ++ leBytes 4 0x0040AC9F) ++
  leBytes 4 1
/-- Memory with those records. -/
def graphMem (s : State) : State := s.modMem fun m => { m with bytes := tsets 0 m.bytes 0x20000 graphBytes }
/-- The tasks that they say. -/
def graphTasks : List TaskRec := [⟨1, .ignore, 0, 0, [1], 500, 0, 4096, [0x0040AC9F], false⟩, ⟨1, .ignore, 0, 1, [], 500, 4096, 4096, [0x0040AC9F], false⟩]
/-- The reading of a graph, computed. -/
def acceptsIs (s' : State) (ctx : Nat) (header : W64) (p : State → List TaskRec → Bool) : Bool :=
  decide (header.toNat % 64 = 0) &&
  okIs (s'.cdRead ctx header 64) fun b s1 =>
    let y : Graph := ⟨ctx, s'.work.graphSeq + 1, header, BitVec.ofNat 64 (s1.pt cd), policyOf (recF b 0 4 / 16 % 4),
      BitVec.ofNat 64 (recF b 0x10 8), [], false, none⟩
    decide (s1.work.graphSeq = s'.work.graphSeq ∧ recF b 0 4 % 16 = 1 ∧ recF b 0 4 / 64 = 0 ∧ 1 ≤ recF b 4 4 ∧ recF b 4 4 ≤ 65536 ∧
      recF b 8 8 % 128 = 0 ∧ recF b 0x18 40 = 0) &&
    match s1.readTasks ctx (BitVec.ofNat 64 (recF b 8 8)) (recF b 4 4) 0 with
    | (s2, .tasks ts) =>
      let s3 := ((s2.endFrameWait .accept).modWork fun w => { w with graphSeq := s'.work.graphSeq + 1 }).setGraph
        (s'.work.graphSeq + 1) (some y)
      decide (s3.graphAt (s'.work.graphSeq + 1) = some y) && shapeOk ts && ts.all (fun t => !t.bad) && p s3 ts
    | _ => false
theorem of_acceptsIs {s' : State} {ctx : Nat} {header : W64} {p : State → List TaskRec → Bool} (h : acceptsIs s' ctx header p = true) :
    ∃ s3 ts y, Accepts s' s3 ctx header ts y ∧ p s3 ts = true := by
  simp only [acceptsIs, Bool.and_eq_true, decide_eq_true_eq] at h
  obtain ⟨h0, h⟩ := h
  obtain ⟨b, s1, hb, h⟩ := of_okIs h
  simp only [Bool.and_eq_true, decide_eq_true_eq] at h
  obtain ⟨⟨h1, h2, h3, h4, h5, h6, h7⟩, h⟩ := h
  split at h
  · next s2 ts hr =>
    simp only [Bool.and_eq_true, decide_eq_true_eq, List.all_eq_true, Bool.not_eq_true'] at h
    obtain ⟨⟨⟨h8, h9⟩, h10⟩, h11⟩ := h
    exact ⟨_, ts, _, ⟨h0, ⟨b, s1, s2, hb, h1, h2, h3, h4, h5, h6, h7, rfl, hr, rfl⟩, h8, h9, h10⟩, h11⟩
  · cases h
theorem wit_graphsEnter_accept : ∃ s3 ts y, Accepts (graphMem base) s3 0 0x20000 ts y ∧ decide (ts = graphTasks) = true :=
  of_acceptsIs (by decide +kernel)
theorem wit_graphsEnter_submitted :
    let s := (graphMem base).modHost fun h => { h with submits := [0x20000] }
    s.host.submits = 0x20000 :: [] ∧ s.host.writes = [] ∧ s.inFlight < 1024 ∧ s.work.launched = [] ∧ homeCtx.killing = false ∧ s.ctxAt ((0x20000 : W64).toNat % 64) = some homeCtx ∧
    (BitVec.ofNat 64 ((0x20000 : W64).toNat / 64 % 2 ^ 50 * 64 + (0x20000 : W64).toNat / 2 ^ 56 % 2 * 2 ^ 63) : W64) = 0x20000 := by decide +kernel
theorem wit_graphsEnter_launched : (onCond 4 id).conducts 4 ∧ (onCond 4 id).inFlight < 1024 ∧ (onCond 4 id).work.launched = [] ∧
    (onCond 4 id).host.submits = [] := by decide +kernel
/-- R32, R269: of the two tasks the first is ready and the second waits. -/
theorem test_accept : nextIs (exec .graphAccept ((graphMem base).modHost fun h => { h with submits := [0x20000] })) (fun t =>
    (t.taskAt 1 0).map (·.st) = some .ready ∧ (t.taskAt 1 1).map (·.st) = some .waiting ∧ t.host.submits = []) := by decide +kernel

/-- A task of a class with an operating-point table. -/
def task1 (cls : Nat) (st : TaskState) (ops : List W32) : Task := ⟨⟨cls, .killSelf, 0, 0, [1], 100, 0x400, 0x100, ops, false⟩, 0, st, 0, false, false, false, false, false⟩
/-- A package with a graph of that task and one after it; the first is ready, and two entries are estimated at 300 W and 100 W. -/
def ready (cls : Nat) (headroom : Int) : State :=
  let y : Graph := ⟨0, 1, 0x20000, 7, .killSelf, 0, [task1 cls .ready [0x0040AC9F, 0x0040A010], { task1 1 .waiting [] with left := 2 }], false, none⟩
  let s := (base.setGraph 1 (some y)).modEnergy fun e => { e with started := true, headroom := headroom, est := [(1, 0, 0, 300), (1, 0, 1, 100)] }
  { s with work := { s.work with readyList := [(1, 0)] }
           mem := { s.mem with overlay := tsets 0 [] 0x4C0 (pad 64 (leBytes 8 1 ++ leBytes 8 0x10)) } }
theorem wit_admission :
    let s := ready 1 150
    let x := task1 1 .ready [0x0040AC9F, 0x0040A010]
    s.energy.started = true ∧ (s.condAt 0).task = none ∧ s.work.readyList = (1, 0) :: [] ∧ s.taskAt 1 0 = some x ∧ x.begun = false ∧ s.ctxAt 0 = some homeCtx ∧
    homeCtx.parked = false ∧ s.energy.grade = 0 ∧ 1 < x.info.ops.length ∧ x.info.cls ≠ 0 ∧ (s.est 1 0 1 : Int) ≤ s.energy.headroom ∧
    s.energy.headroom < (s.est 1 0 0 : Int) ∧ trailerOf (s.overlayBytes (x.info.ovOff + x.info.ovLen - 64) 64) = some 0x10 := by decide +kernel
/-- R271: the entry that the headroom covers, and what is left of it. -/
theorem test_admit : nextIs (exec .admitStep (ready 1 150)) (fun t => (t.taskAt 1 0).map (·.entry) = some 1 ∧ t.energy.headroom = 50 ∧
    (t.condAt 0).pc = 0x400 ∧ tget 0 (t.condAt 0).g 3 = 1 ∧ tget 0 (t.condAt 0).g 4 = 107) := by decide +kernel

/-- A graph whose first task's overlay has ended. -/
def ended : State :=
  let y : Graph := ⟨0, 1, 0x20000, 7, .killSelf, 0, [{ task1 1 .running [] with overlayDone := true }, { task1 1 .waiting [] with left := 1 }], false, none⟩
  { base with work := { base.work with graphs := [(1, some y)], blocks := [], tts := [] } }
theorem wit_completion : ended.taskAt 1 0 = some { task1 1 .running [] with overlayDone := true } ∧ ended.taskBusy 1 0 = false ∧
    ended.taskAt 1 1 = some { task1 1 .waiting [] with left := 1 } ∧ (task1 1 .running []).info.succs.Nodup ∧ 1 ∈ (task1 1 .running []).info.succs ∧
    (task1 1 .waiting []).st = .waiting ∧ (task1 1 .waiting []).info.bad = false ∧ (ready 1 0).taskAt 1 1 = some { task1 1 .waiting [] with left := 2 } := by
  decide +kernel
/-- A graph whose tasks are done. -/
def doneGraph (addr : W64) : State :=
  { base with work := { base.work with graphs := [(1, some ⟨0, 1, 0x20000, 7, .killSelf, addr, [task1 1 .done []], false, none⟩)] } }
theorem wit_completion_graph : (doneGraph 0).graphAt 1 = some ⟨0, 1, 0x20000, 7, .killSelf, 0, [task1 1 .done []], false, none⟩ ∧
    (∀ t ∈ [task1 1 .done []], t.st = .done) ∧ (doneGraph 0x30000).cdHeld 0 0x30000 8 .write = false ∧
    okIs ((doneGraph 0x30000).access none 0 0x30000 8 .write false) (fun ps s1 => ps.all fun p => !s1.mem.bounces p.pa) = true ∧
    (let y : Graph := ⟨0, 1, 0x20000, 7, .killSelf, 0x30000, [task1 1 .running []], false, some (true, 8)⟩
     ((doneGraph 0).setGraph 1 (some y)).graphAt 1 = some y ∧ y.ended = some (true, 8)) := by decide +kernel
/-- R269: the end word of a graph that ended abnormally has bit 63. -/
theorem test_graph_ended : nextIs (exec (.graphComplete 1) ((doneGraph 0).setGraph 1
    (some ⟨0, 1, 0x20000, 7, .killSelf, 0x30000, [task1 1 .running []], false, some (true, 8)⟩))) (fun t =>
      (t.graphAt 1).isNone ∧ t.mem.byteAt 0x30007 = 0x80) := by decide +kernel
/-- A tile task whose strand has ended, one of ten iterations of its block. -/
def overTt : State :=
  (on { st0 with ended := true }).setBlock 0 (some { homeBlock with lb := lb1 1 0, done := 8 })
theorem wit_completion_tileTask : overTt.ttAt 0 = some homeTask ∧ overTt.ttOver 0 homeTask = true ∧ homeTask.failing = false ∧
    overTt.ctxAt homeTask.ctx = some homeCtx ∧ homeCtx.killing = false ∧ overTt.blockAt 0 = some { homeBlock with lb := lb1 1 0, done := 8 } ∧
    8 + 1 < (lb1 1 0).total ∧ overTt.strandAt 0 = some { st0 with ended := true } ∧ st0.successors = [] := by decide +kernel

/-- A package with a placed launch block 5 of ten iterations, two of them left on die 0, that a slot may hold. -/
def placed (slots : List Nat) : State :=
  let y : Graph := ⟨0, 1, 0x20000, 7, .killSelf, 0, [task1 1 .running [0x0040AC9F]], false, none⟩
  let b : Block := { homeBlock with graph := 1, task := 0, lb := lb1 1 0, deadline := 900, seq := some 4, total := 10, ranges := [(0, (8, 10))] }
  let s := (((base.setGraph 1 (some y)).setBlock 0 none).setTt 0 none).setStrand 0 none
  let s := (s.setBlock 5 (some b)).setCtx 0 (some { homeCtx with heapSize := 2 ^ 22 })
  s.modDisp 0 fun d => { d with slots := slots }
/-- Its block. -/
def block5 : Block := { homeBlock with graph := 1, task := 0, lb := lb1 1 0, deadline := 900, seq := some 4, total := 10, ranges := [(0, (8, 10))] }
theorem wit_dispatch_slot :
    let s1 := (placed []).trimSlots 0
    let o : Offer := ⟨(900, 0, 4), 5, none⟩
    s1.coresOf 0 ≠ [] ∧ (s1.dispAt 0).slots.length < (s1.dispAt 0).room ∧ (s1.dispAt 0).returned = [] ∧ s1.timetabledOffer 0 = none ∧
    o ∈ s1.placedOffers 0 ++ s1.queueOffers 0 ∧ o.stream = none ∧
    (∀ p ∈ s1.placedOffers 0 ++ s1.queueOffers 0, p = o ∨ keyLt o.rank p.rank = true) := by decide +kernel
theorem wit_dispatch_sfd :
    let c : Ctl := { ctl1 with kind := 2, queued := true, target := 0x20080, deadline := 50 }
    let s := (con 15).setStream (streamNum 8 15 3) { Stream.init with items := [c] }
    let o : Offer := ⟨(50, 1, 63), 0, some (streamNum 8 15 3, 0)⟩
    tget false s.energy.gated 8 = false ∧ s.queueOffers 8 = [o] ∧ (s.streamAt (streamNum 8 15 3)).items[0]? = some c := by decide +kernel
theorem wit_dispatch :
    let s1 := (placed [5]).trimSlots 0
    s1.openOrder 0 = [5] ∧ s1.blockAt 5 = some block5 ∧ s1.selectable 5 block5 = true ∧ s1.mayDispatch block5 = true ∧ s1.ctxAt 0 = some { homeCtx with heapSize := 2 ^ 22 } ∧
    homeCtx.heapUsed + (lb1 1 0).saveSize ≤ 2 ^ 22 ∧ block5.ready = [] ∧ tget (0, 0) block5.ranges 0 = (8, 10) ∧ (lb1 1 0).decls = [] ∧
    s1.nextFit 0 5 (lb1 1 0) = some (0, [0], 0, 0) ∧ (0, Role.computer) ∈ [0].zip (rolesOf (lb1 1 0).roles) := by decide +kernel
theorem wit_dispatch_place : (((placed [5]).trimSlots 0).heapPlace 0 (lb1 1 0).saveSize ((placed [5]).trimSlots 0).work.nextTt).isSome := by
  decide +kernel
/-- R38, R39, R43: the iteration at the cursor, its registers, and the cursor after it. -/
theorem test_dispatch : nextIs (exec (.iterationSelect 0) (placed [5])) (fun t => (t.ttAt 1).map (·.idx) = some 8 ∧
    (t.strandAt 0).map (fun st => (st.pc, tget 0 st.g 4, tget 0 st.g 5)) = some (0x8000, 8, 77) ∧
    (t.blockAt 5).map (·.ranges) = some [(0, (9, 10))]) := by decide +kernel

theorem wit_stealing :
    let s := placed [5]
    s.maySteal 7 = true ∧ s.victims 7 (s.dispAt 7).asked = 0 :: [1, 2, 3, 4, 5, 6] ∧
    ((s.modDisp 7 fun d => { d with asked := 7 }).maySteal 7 = true ∧ (s.modDisp 7 fun d => { d with asked := 7 }).victims 7 7 = []) ∧
    (let t := s.modDisp 0 fun d => { d with requests := [7] }
     (t.dispAt 0).requests = 7 :: [] ∧ 7 ≠ 0 ∧ (t.modDisp 0 fun d => { d with requests := [] }).shareBlock 0 7 = some (5, block5)) ∧
    (let t := s.modDisp 1 fun d => { d with requests := [7] }
     (t.dispAt 1).requests = 7 :: [] ∧ (t.modDisp 1 fun d => { d with requests := [] }).shareBlock 1 7 = none) ∧
    (let t := (s.modDisp 7 fun d => { d with waitUntil := 64 }).modTime fun x => { x with pt := [(7, 64)] }
     (t.dispAt 7).waitUntil ≠ 0 ∧ (t.dispAt 7).waitUntil ≤ t.pt 7) ∧
    (s.pt 7 < ((s.modDisp 7 fun d => { d with waitUntil := 64 }).dispAt 7).waitUntil) := by decide +kernel
/-- R44: the example of the spec: of [40, 47) the victim keeps [40, 44) and gives [44, 47). -/
theorem test_steal :
    let s := (placed [5]).modBlock 5 fun b => { b with total := 100, ranges := [(0, (40, 47))] }
    nextIs (exec (.stealReply 0) (s.modDisp 0 fun d => { d with requests := [3] })) (fun t =>
      (t.blockAt 5).map (·.ranges) = some [(0, (40, 44)), (3, (44, 47))]) := by decide +kernel

/-- A package with launch block 5 waiting in the pool. -/
def pooled (mask : BitVec 8) : State :=
  let b : Block := { block5 with lb := lb1 2 mask, seq := none, ranges := [], waiting := true }
  let s := (placed []).setBlock 5 (some b)
  { s with work := { s.work with poolBlocks := [5] } }
theorem wit_placement : (pooled 0x6C).nextSpill = none ∧ (pooled 0x6C).work.poolBlocks = [5] ∧ ((pooled 0x6C).blockAt 5).map (·.waiting) = some true ∧
    ((pooled 0x6C).blockAt 5).map (·.seq) = some none ∧ (lb1 2 0x6C).spatial = ⟨2, 1, false, 10, 0, 1⟩ :: [] ∧ (lb1 2 0x6C).total ≠ 0 ∧
    (maskDies (lb1 2 0x6C).dieMask).filter (pooled 0x6C).dieUp = [2, 3, 5, 6] ∧ (lb1 2 0x6C).timetabled = false := by decide +kernel
/-- R42: the example of the spec: ten iterations over dies 2, 3, 5 and 6. -/
theorem test_place : nextIs (exec .poolService (pooled 0x6C)) (fun t =>
    (t.blockAt 5).map (·.ranges) = some [(2, (0, 2)), (3, (2, 5)), (5, (5, 7)), (6, (7, 10))]) := by decide +kernel

/-! Package time, memory performed, links. -/

theorem wit_packageClock : State.reset.time.base % 16384 = 0 ∧ State.reset.linkUp 32 = true ∧ State.reset.linkUp 14 = true ∧
    ((3 : Int).natAbs ≤ 3 ∧ State.reset.time.base ≤ State.reset.pt 8 ∧ State.reset.pt 8 ≤ State.reset.time.base + 3) ∧
    ¬ ((-4 : Int).natAbs ≤ 3) ∧
    (let s := State.reset.modTime fun t => { t with pt := [(9, 100000001)] }
     tget 0 s.time.exchanged 8 + 100000000 < s.pt 9) ∧ State.reset.pt 9 ≤ tget 0 State.reset.time.exchanged 8 + 100000000 := by decide +kernel
theorem wit_packageClock_step :
    let s := State.reset.modTime fun t => { t with sawLock := true }
    s.time.stepped = false ∧ s.time.sawLock = true ∧ (∀ x ∈ s.ctxs, x.2 = none) ∧
    (State.reset.modTime fun t => { t with stepped := true }).time.stepped = true ∧
    (let u := State.reset.modTime fun t => { t with pt := [(9, 10000000000)] }
     u.time.stepped = false ∧ u.time.sawLock = false ∧ u.time.waitOver = false ∧ Config.lockWait ≤ u.pt 9) := by decide +kernel
/-- R55: a rate is held within 200 ppm. -/
theorem test_ptExchange : nextIs (exec (.ptExchange 8 250 2) State.reset) (fun t => tget 0 t.time.rate 8 = 200) ∧
    nextIs (exec (.ptExchange 0 (-250) 2) State.reset) (fun t => tget 0 t.time.rate 0 = -200) := by decide +kernel
/-- R56: PT is set forward to facility time, for every die. -/
theorem test_ptStep : nextIs (exec (.ptStep 5000) (State.reset.modTime fun t => { t with sawLock := true })) (fun t =>
    t.pt 0 = 5000 ∧ t.pt 9 = 5000 ∧ t.time.stepped = true) := by decide +kernel

/-- A strand whose not-before load of time 5,000 waits on die 0, whose PT is 10,000. -/
def waitsNb : State :=
  let o : LoadOp := ⟨.nb 9 4 5000, 0x20000, [⟨0, 0x20000, 4, 2⟩], [⟨0, 0x20000, 4, 2⟩], 0, false, 0, 1, none, 0⟩
  let s := (on { st0 with lq := [o], busy := [(9, 1)] }).modTime fun t => { t with pt := (upto 10).map fun d => (d, 10000), held := [] }
  s.modMem fun m => { m with nbq := [(sliceKey (sliceOf 0x20000), [(0, 1, 0x20000)])] }
theorem wit_frontiers : 9 ≤ 9 ∧ State.reset.pt 9 % 64 = 0 ∧
    takeMsg 2 3 [(1, 3, 7), (2, 3, 64), (2, 3, 128)] = some (64, [(1, 3, 7), (2, 3, 128)]) ∧
    waitsNb.nbWaits 0 = true ∧ waitsNb.time.slipth < waitsNb.pt 0 - waitsNb.gf 0 ∧ tget false waitsNb.time.slipped 0 = false ∧
    tget false (waitsNb.modTime fun t => { t with slipped := [(0, true)] }).time.slipped 0 = true := by decide +kernel
/-- R65: a sample on a die in step goes to the nine others. -/
theorem test_frontierSample : nextIs (exec (.frontierSample 3) State.reset) (fun t => t.time.msgs.length = 9) := by decide +kernel
/-- A package in frame 4, that began at 1,000. -/
def inFrame (pt last : Nat) : State := State.reset.modTime fun t =>
  { t with frameOn := true, frameno := 4, framestart := 1000, curLen := 500, lastMember := last, pt := [(9, pt)] }
theorem wit_frames :
    (let s := State.reset.modTime fun t => { t with origin := some 10, pt := [(9, 1048576)] }
     s.time.frameOn = false ∧ s.time.origin = some 10 ∧ 0 < s.time.framelen ∧ (10 + s.time.framelen - 1) / s.time.framelen * s.time.framelen ≤ s.pt 9) ∧
    State.reset.pt 9 < (10 + State.reset.time.framelen - 1) / State.reset.time.framelen * State.reset.time.framelen ∧
    (inFrame 1500 1400).time.frameOn = true ∧ (∀ x ∈ (inFrame 1500 1400).work.blocks, x.2 = none) ∧ 1400 ≤ 1000 + 500 ∧
    1000 + 500 ≤ (inFrame 1500 1400).pt 9 ∧ (inFrame 1499 1400).pt 9 < 1000 + 500 ∧ 1000 + 500 < 1600 ∧ 1600 ≤ (inFrame 1600 1600).pt 9 := by
  decide +kernel
/-- R75, R76: a frame slip of 100 ns, and the start of the next frame at the last member's completion. -/
theorem test_frameStart : nextIs (exec .frameStart (inFrame 1600 1600)) (fun t => t.time.frameno = 5 ∧ t.time.framestart = 1600 ∧
    t.time.tslipCount = 1 ∧ t.time.log = [.frameSlip 4 100]) := by decide +kernel
theorem wit_frames_member :
    let b : Block := { block5 with frame := some 4, released := false, lb := { lb1 1 0 with timetabled := true, release := 200 } }
    let s := (inFrame 1200 0).setBlock 5 (some b)
    s.time.frameOn = true ∧ s.blockAt 5 = some b ∧ b.frame = some s.time.frameno ∧ s.time.framestart + b.lb.release ≤ s.pt 9 ∧
    ((inFrame 1199 0).setBlock 5 (some b)).pt 9 < 1000 + b.lb.release ∧
    (inFrame 1500 0).time.framestart + (inFrame 1500 0).time.curLen ≤ (inFrame 1500 0).pt 9 := by decide +kernel

/-- A strand whose load queue holds one load of 4 bytes at 0x20000 for g9, and its memory. -/
def loading (what : LoadWhat) (cache : Nat) : State :=
  (on { st0 with lq := [⟨what, 0x20000, [⟨0, 0x20000, 4, cache⟩], [⟨0, 0x20000, 4, cache⟩], 0, false, 0, 1, none, 0⟩], busy := [(9, 1)] }).modMem fun m =>
    { m with bytes := tsets 0 m.bytes 0x20000 [0x78, 0x56, 0x34, 0x92] }
theorem wit_loadsBind :
    let o : LoadOp := ⟨.scalar 9 4 true, 0x20000, [⟨0, 0x20000, 4, 2⟩], [⟨0, 0x20000, 4, 2⟩], 0, false, 0, 1, none, 0⟩
    let st := { st0 with lq := [o], busy := [(9, 1)] }
    (loading o.what 2).homeFree 0 0x20000 = true ∧ (loading o.what 2).strandAt 0 = some st ∧ st.lq = o :: [] ∧ st.loadMay o = true ∧ o.parts = [⟨0, 0x20000, 4, 2⟩] ∧ 4 ≤ 8 ∧ o.got = 0 ∧
    o.tag = false ∧ o.sig = none ∧ (9 : GReg) ≠ 0 ∧ tget 0 st.busy (9 : GReg).toNat = o.tok := by decide +kernel
theorem wit_loadsBind_cached :
    let c : Copy := ⟨7, false, false⟩
    let s := (loading (.scalar 9 4 false) 0).modCore 0 fun x => { x with l1 := [(0x400, some c)] }
    s.dropsL1 = false ∧ tget none (s.coreAt (coreOfStrand 0)).l1 (0x20000 / 128) = some c := by decide +kernel
/-- A part of time 0 stands at the home of 0x20000, which is then not free. -/
def owing (s : State) : State := s.modMem fun m => { m with pmq := [(sliceKey (sliceOf 0x20000), [⟨0, 0x20000, [1], [true], false, 0⟩])] }
theorem wit_loadsBind_held : (owing (loading (.scalar 9 4 false) 2)).homeFree 0 0x20000 = false ∧
    nextIs (exec (.globalLoadBind 0) (owing (loading (.scalar 9 4 false) 2))) (fun t => (t.strandAt 0).any fun st => st.lq.length = 1) := by
  decide +kernel
/-- A not-before load of a strand beside 128 others at its slice. -/
def crowded : State :=
  let s := loading (.nb 9 4 1) 2
  (s.setStrand 1 (s.strandAt 0)).modMem fun m => { m with nbq := [(sliceKey (sliceOf 0x20000), List.replicate 128 (1, 1, 0x20000))] }
theorem wit_loadsBind_full : Config.nbDepth ≤ (crowded.nbAt (sliceOf 0x20000)).length ∧ (0, 1, 0x20000) ∉ crowded.nbAt (sliceOf 0x20000) := by
  decide +kernel
theorem wit_loadsBind_nb :
    (let s := loading (.nb 9 4 0) 2
     s.homeFree 0 0x20000 = true ∧ (s.nbAt (sliceOf 0x20000)).length < Config.nbDepth ∧
     (0 : W64).toNat ≤ s.pt (sliceOf 0x20000).1 ∧ (0 : W64).toNat ≤ s.gf (sliceOf 0x20000).1 ∧ st0.stop = none ∧
     tget [] s.mem.pmq (sliceKey (sliceOf 0x20000)) = []) ∧
    (loading (.nb 9 4 1) 2).pt (sliceOf 0x20000).1 < (1 : W64).toNat := by decide +kernel
/-- R186, R7: LD.w of a negative word is sign-extended, little-endian. -/
theorem test_load : nextIs (exec (.globalLoadBind 0) (loading (.scalar 9 4 true) 2)) (fun t => t.g 9 = 0xFFFFFFFF92345678) := by decide +kernel
/-- R114, R166: a load of a poisoned sector gives 0, tagged. -/
theorem test_load_poison : nextIs (exec (.globalLoadBind 0) ((loading (.scalar 9 4 true) 2).modMem fun m => { m with poison := [(0x800, true)] }))
    (fun t => t.g 9 = 0 ∧ t.gt 9 = true) := by decide +kernel

/-- A strand whose store queue holds one operation of 4 bytes at 0x20000, with the word there. -/
def storing (what : StoreWhat) (v : Vec) : State :=
  (on { st0 with sq := [⟨what, 0x20000, [⟨0, 0x20000, 4, 2⟩], v, 0xF, false, 0, 1, 0, none⟩], sn := 1, busy := [(9, 1)] }).modMem fun m =>
    { m with bytes := tsets 0 m.bytes 0x20000 [5, 0, 0, 0x80] }
theorem wit_storesPerform :
    let o : StoreOp := ⟨.plain, 0x20000, [⟨0, 0x20000, 4, 2⟩], 77, 0xF, false, 0, 1, 0, none⟩
    let st := { st0 with sq := [o], sn := 1, busy := [(9, 1)] }
    (storing .plain 77).homeFree 0 0x20000 = true ∧ (storing (.pm 9) 77).reaches 0 (sliceOf 0x20000).1 = true ∧
    (storing .plain 77).strandAt 0 = some st ∧ st.sq = o :: [] ∧ st.storeMay o = true ∧ st.lq = [] ∧
    (storing .plain 77).mem.bounces 0x20000 = false ∧ (storing .plain 77).mem.discards 0x20000 = false ∧
    tget 0 st.busy (9 : GReg).toNat = o.tok ∧
    (storing (.pm 9) 77).pt 0 < (9 : W64).toNat ∧ (0 : W64).toNat ≤ (storing (.pm 0) 77).pt 0 ∧
    (tget [] (storing (.pm 9) 77).mem.pmq (sliceKey (sliceOf 0x20000))).length < Config.pmDepth := by decide +kernel
/-- A strand whose WAITV stands at the head of its load queue. -/
def watching (armed : Bool) (t : W64) : State :=
  on { st0 with lq := [⟨.waitv 9 5 t armed, 0x20000, [⟨0, 0x20000, 8, 2⟩], [⟨0, 0x20000, 8, 2⟩], 0, false, 0, 1, none, 0⟩], busy := [(9, 1)] }
theorem wit_storesPerform_waitv :
    (watching false 9).homeFree 0 0x20000 = true ∧ (0 : W64).toNat ≤ (watching false 0).pt (sliceOf 0x20000).1 ∧
    (let st := { st0 with lq := [⟨.waitv 9 5 0 true, 0x20000, [⟨0, 0x20000, 8, 2⟩], [⟨0, 0x20000, 8, 2⟩], 0, false, 0, 1, none, 0⟩], busy := [(9, 1)] }
     (watching true 0).strandAt 0 = some st ∧ st.monitor = some (⟨.waitv 9 5 0 true, 0x20000, [⟨0, 0x20000, 8, 2⟩], [⟨0, 0x20000, 8, 2⟩], 0, false, 0, 1, none, 0⟩, 9, 5, 0) ∧
     (0 : W64).toNat ≤ (watching true 0).pt 0 ∧ (watching true 1).pt 0 < (1 : W64).toNat) ∧
    ((watching false 9).mem.word8 0x20000).1 ≠ 5 ∧ st0.stop = none := by decide +kernel
theorem wit_storesPerform_queued :
    let x : PmPart := ⟨9, 0x20000, [1, 2], [true, false], false, 0⟩
    let k := sliceKey (sliceOf 0x20000)
    let s := base.modMem fun m => { m with pmq := [(k, [x])] }
    (∀ y ∈ tget [] s.mem.pmq k, (0 : W64).toNat < y.p.toNat) ∧ tget [] s.mem.pmq k = [x] ∧ k = sliceKey (0, 1024 % 80) ∧ s.mem.bounces x.pa = false ∧ s.mem.discards x.pa = false ∧
    x.en.length = x.data.length ∧ s.pt 0 < x.p.toNat ∧ (9 : W64).toNat ≤ (s.modTime fun t => { t with pt := [(0, 9)] }).pt 0 ∧
    Config.pmDepth ≤ (tget [] (base.modMem fun m => { m with pmq := [(k, List.replicate 256 x)] }).mem.pmq k).length := by decide +kernel
/-- R92: a store performed. -/
theorem test_store : nextIs (exec (.globalStorePerform 0) (storing .plain 0x11223344)) (fun t =>
    (upto 5).map (fun k => t.mem.byteAt (0x20000 + k)) = [0x44, 0x33, 0x22, 0x11, 0]) := by decide +kernel
/-- R100, R192: AMO.min.w of −2³¹ + 5 and 3 keeps the word, and returns it sign-extended; AMO.minn writes 3. -/
theorem test_amo : nextIs (exec (.atomicPerform 0) (storing (.amo .min 9 4 3 0) 0)) (fun t => t.mem.byteAt 0x20003 = 0x80 ∧
      t.g 9 = 0xFFFFFFFF80000005) ∧
    nextIs (exec (.atomicPerform 0) (storing (.amo .minn 9 4 3 0) 0)) (fun t => t.mem.byteAt 0x20003 = 0 ∧ t.mem.byteAt 0x20000 = 3) := by
  decide +kernel
/-- R60: a postmarked store before its time changes no byte. -/
theorem test_postmark : nextIs (exec (.postmarkDeliver 0) (storing (.pm 9) 77)) (fun t => t.mem.byteAt 0x20000 = 5 ∧
    (t.strandAt 0).map (·.sq) = some []) := by decide +kernel

/-- A transaction that read sector 0x800 and stored a byte in it. -/
def txn1 (phase ver : Nat) : Txn := ⟨some 0x9000, phase, [(0x800, ver)], [(0x20000, some 7)], [(0x800, false)], []⟩
theorem wit_commitsEnd :
    let s (x : Txn) : State := on { st0 with txn := some x }
    (s (txn1 1 0)).strandAt 0 = some { st0 with txn := some (txn1 1 0) } ∧ { st0 with txn := some (txn1 1 0) }.commitMay = true ∧
    (∀ c ∈ (txn1 1 0).sectors, (s (txn1 1 0)).homeFree 0 (c * 64) = true) ∧ tget 0 (s (txn1 1 0)).mem.ver 0x800 = 0 ∧
    (∀ c ∈ (txn1 1 0).sectors, (s (txn1 1 0)).mem.poisonAt (c * 64) = false ∧ (s (txn1 1 0)).mem.bounces (c * 64) = false ∧
      (s (txn1 1 0)).mem.discards (c * 64) = false) ∧ (txn1 1 0).pages = [] ∧ (txn1 1 0).phase = 1 ∧
    tget 0 (s (txn1 0 3)).mem.ver 0x800 ≠ 3 ∧ (txn1 0 3).phase < 2 ∧ (txn1 0 3).target = some 0x9000 ∧
    ((s (txn1 1 0)).modMem fun m => { m with poison := [(0x800, true)] }).mem.poisonAt (0x800 * 64) = true := by decide +kernel
/-- R102: a commit performs the buffered byte; a conflict ends at the abort target with code 1. -/
theorem test_commit : nextIs (exec (.txnCommit 0) (on { st0 with txn := some (txn1 1 0) })) (fun t => t.mem.byteAt 0x20000 = 7) ∧
    nextIs (exec (.txnAbort 0) (on { st0 with txn := some (txn1 0 3) })) (fun t => t.mem.byteAt 0x20000 = 0 ∧
      (t.strandAt 0).map (fun st => (st.pc, st.txsCode)) = some (0x9000, 1)) := by decide +kernel
/-- A strand that waits for a frame for the uncommitted page at 1 GiB, of home 0, with a frame at 2 GiB free. -/
def lazy : State :=
  let s := (on { st0 with commitWait := some (1000000, 0x40000008) }).setCtx 0 (some { homeCtx with limit := 0x4000 })
  s.modMem fun m => { m with bytes := tsets 0 m.bytes 0x3008 (natBytes 8 0x11F), pool := [(2, [0x80000000])] }
theorem wit_commitsEnd_lazy : lazy.strandAt 0 = some { st0 with commitWait := some (1000000, 0x40000008) } ∧
    lazy.ctxAt (lazy.ctxOfStrand 0) = some { homeCtx with limit := 0x4000 } ∧ 1000000 ≠ 0 ∧
    (match walkFrom lazy.mem (vaOf 0x40000008) 4 homeCtx.root0.toNat with
     | .leaf lvl at_ e => decide (lvl = 2 ∧ at_ = 0x3008 ∧ pteF e 8 1 = 1 ∧ pteF e 12 4 = 0)
     | _ => false) = true ∧
    homeCtx.commit.toNat + pageUnits 2 ≤ (0x4000 : BitVec 32).toNat ∧ tget [] lazy.mem.pool (4 * 0 + 2) = 0x80000000 :: [] ∧
    lazy.mem.discards 0x3008 = false ∧ (0x3008 + 8 ≤ 0x80000000) ∧ lazy.pt 0 < 1000000 ∧
    1000000 ≤ (lazy.modTime fun t => { t with pt := [(0, 1000000)] }).pt 0 := by decide +kernel
/-- R86, R87: the page is committed with that frame, and the context's count rises by 16,384 units. -/
theorem test_lazyCommit : nextIs (exec (.lazyCommit 0) lazy) (fun t => tget [] t.mem.pool 2 = [] ∧ (t.ctxAt 0).map (·.commit) = some 0x4000 ∧
    pteF (BitVec.ofNat 64 (t.mem.readNat 0x3008 8)) 8 1 = 0 ∧ pteF (BitVec.ofNat 64 (t.mem.readNat 0x3008 8)) 16 36 = 0x8000) := by decide +kernel

theorem wit_memoryFailures : (on st0).strandAt 0 = some st0 ∧ State.reset.ctxAt 63 = none ∧
    (∀ pa, tget false (tset false ([] : Tab Bool) (Config.rowOf pa) true) (Config.rowOf pa) = true) ∧
    (∀ pa, tget 0 ([] : Tab Nat) (Config.bankOf pa) < 8) ∧ (∀ pa, 8 ≤ tget 0 [(Config.bankOf pa, 8)] (Config.bankOf pa)) := by
  refine ⟨by decide +kernel, by decide +kernel, fun pa => ?_, fun pa => ?_, fun pa => ?_⟩
  · simp [tset, tput, tget]
  · simp [tget]
  · simp [tget]
theorem wit_memoryFailures_channels :
    State.reset.allEntries = [] ∧ 15 < 16 ∧ tget 0 (State.reset.modTime fun t => { t with pt := [(8, 1000000)] }).mem.chanAccess 15 + 1000000 ≤
      (State.reset.modTime fun t => { t with pt := [(8, 1000000)] }).pt 8 ∧
    ((7 < 8 ∧ 31 < 32) ∨ (7 = 8 ∧ 31 < 16)) ∧ State.reset.mem.retiring = none ∧ tget false State.reset.mem.dead (32 * 7 + 31) = false ∧
    tget false (State.reset.modMem fun m => { m with cxlUp := [(3, true)] }).mem.cxlUp 3 = true ∧
    (2 ≤ 2 ∧ 0x40000000 % 2 ^ pageLog 2 = 0) ∧ State.reset.mem.pool = [] := by decide +kernel
theorem wit_memoryFailures_refill : 0 ≤ 2 ∧ 0x10000 % 2 ^ pageLog 0 = 0 ∧ (∀ i ∈ List.range (2 ^ pageLog 0 / 65536),
    State.reset.mem.homeDie (0x10000 + 65536 * i) = some 0 ∧ tget .normal State.reset.mem.frames (0x10000 / 65536 + i) = .normal) := by decide +kernel
/-- A package whose channel 1 of die 0 is being retired, with a free frame on channel 2. -/
def retiring : State := State.reset.modMem fun m => { m with retiring := some (0, 1), pool := [(0, [0x20000])], bytes := [(0x10004, 9)] }
theorem wit_memoryFailures_move : Memory.wf retiring.mem = true ∧ retiring.host.writes = [] ∧ retiring.mem.retiring.isSome ∧ retiring.mem.retiring = channelOf 0x10000 ∧
    0x10000 % 65536 = 0 ∧ 0x20000 % 65536 = 0 ∧ 0x20000 ∈ tget [] retiring.mem.pool (4 * (sliceOf 0x20000).1) := by decide +kernel
/-- R338: the frame keeps its byte at its new place. -/
theorem test_frameMove : nextIs (exec (.frameMove 0x10000 0x20000) retiring) (fun t => t.mem.byteAt 0x20004 = 9) := by decide +kernel
/-- R113: an error in memory poisons the sector. -/
theorem test_error : nextIs (exec (.uncorrectableError (.memory 0x10004)) retiring) (fun t => t.mem.poisonAt 0x10000 = true ∧
    t.mem.readByte 0x10004 = 0) := by decide +kernel

/-- A package with a direction of module 33 as given. -/
def linked (d : Dir) : State := State.reset.modLink 33 fun x => { x with bwd := d }
theorem wit_links : 33 < 34 ∧ 1 < 2 ∧ (linked Dir.init).linkUp 33 = true ∧ 4 < 5 ∧
    ((linked Dir.init).linkAt 33).dir 1 = Dir.init ∧ Dir.init.resend = none ∧ 7 ≠ Dir.init.next ∧ tget false Dir.init.stop 4 = false ∧ Dir.init.replay.length < 128 ∧
    (let d : Dir := { Dir.init with next := 2, replay := [(0, 4), (1, 4)], expect := 1, resend := some 1 }
     ((linked d).linkAt 33).dir 1 = d ∧ d.resend = some 1 ∧ (1, 4) ∈ d.replay ∧ 1 = d.expect ∧
     d.replay = [] ++ (0, 4) :: [(1, 4)] ∧ 0 < (d.expect + 4096 - 0) % 4096 ∧ (d.expect + 4096 - 0) % 4096 ≤ 128) := by decide +kernel
theorem wit_links_registers :
    (State.reset.linkAt 33).state ≠ 1 ∧ (State.reset.linkAt 33).window ≠ 0 ∧
    (let s := State.reset.modTime fun t => { t with pt := [(9, 1000000)] }
     s.pt 9 % (s.linkAt 33).window = 0 ∧ (s.linkAt 33).winAt < s.pt 9) ∧ State.reset.pt 9 ≤ (State.reset.linkAt 33).winAt ∧
    ((State.reset.modLink 33 fun x => { x with pause := true }).linkAt 33).pause = true ∧
    ((State.reset.modLink 33 fun x => { x with pause := true, pausing := true }).linkAt 33).pausing = true ∧
    (State.reset.linkAt 33).pause = false ∧ ((State.reset.modLink 33 fun x => { x with pause := true }).linkAt 33).state < 2 ∧
    (State.reset.modTime fun t => { t with pt := [(9, 1)] }).pt 9 % (State.reset.linkAt 33).window ≠ 0 ∧
    ((State.reset.modLink 33 fun x => { x with state := 2 }).linkAt 33).state = 2 ∧ (State.reset.linkAt 33).state ≠ 2 ∧
    (let bad (failed : W64) (lo n : Nat) : Nat := (List.range n).countP fun i => failed.getLsbD (lo + i)
     bad 0xF 0 64 ≤ 4 ∧ (4 < bad 0x1FF 0 64 ∧ min (bad 0x1FF 0 32) (bad 0x1FF 32 32) ≤ 4) ∧
     4 < min (bad 0x1F0000001F 0 32) (bad 0x1F0000001F 32 32)) ∧ 16 ≤ 33 := by decide +kernel
/-- R332: a training with one failed lane of each half ends at x64 with two spares used. -/
theorem test_train : nextIs (exec (.linkTrainComplete 33 0x100000001 0) (State.reset.modLink 33 fun x => { x with state := 2 })) (fun t =>
    (t.linkAt 33).x32 = false ∧ (t.linkAt 33).spares = 2 ∧ (t.linkAt 33).state = 0) := by decide +kernel

/-- A package with a stream that is regulated. -/
def budget (used : Nat) (ovr : Bool) : State := State.reset.setStream (streamNum 8 15 3) ⟨[], 1000, 400, used, used, ovr, 0⟩
theorem wit_queueBudgets : 8 < 9 ∧ 15 < 16 ∧ 3 < 4 ∧
    (let s := (budget 400 false).modTime fun t => { t with pt := [(8, 1000)] }
     (s.streamAt (streamNum 8 15 3)).period ≠ 0 ∧ (s.streamAt (streamNum 8 15 3)).start + (s.streamAt (streamNum 8 15 3)).period ≤ s.pt 8) ∧
    (budget 400 false).pt 8 < ((budget 400 false).streamAt (streamNum 8 15 3)).start + 1000 ∧
    ((budget 400 false).streamAt (streamNum 8 15 3)).budget ≤ ((budget 400 false).streamAt (streamNum 8 15 3)).used ∧
    ((budget 400 false).streamAt (streamNum 8 15 3)).overrun = false ∧ ((budget 0 true).streamAt (streamNum 8 15 3)).overrun = true ∧
    ((budget 399 false).streamAt (streamNum 8 15 3)).used < ((budget 399 false).streamAt (streamNum 8 15 3)).budget ∧ 255 < 256 := by decide +kernel


/-! Pre-emption, contexts, debug, energy, the ports, and the machine as a whole. -/

/-- Strand 0 at a safe point of a tile task that is to be switched out; its context has a save heap of 1 MiB. -/
def asked (r : Rank) (e : Nat) (st : Strand) : State :=
  ((on st).setTt 0 (some { homeTask with request := some (r, e), reserved := 2 ^ 20 })).setCtx 0 (some { homeCtx with
    heapSize := 2 ^ 20, debuggable := true })
theorem wit_preemptRequests : (Rank.park ≠ .kill) ∧ base.ttAt 0 = some homeTask ∧ 0 ∈ base.targets (.tileTask 0) ∧ homeTask.saving = false ∧
    homeTask.failing = false ∧ base.work.saved = [] ∧ homeTask.strands = [0] ∧
    (asked .switch 50 st0).pt (dieOfCore 0) < 50 ∧ 0 ≤ (asked .switch 0 st0).pt (dieOfCore 0) ∧ st0.txn = none ∧ st0.ended = false ∧ st0.stop = none := by
  decide +kernel
/-- A saved tile task of one strand. -/
def saved1 : Saved := ⟨{ homeTask with reserved := 2 ^ 20 }, true, false, [(0, { st0 with stop := some .point, g := regs [(9, 77)] })],
  List.replicate 256 ⟨3, false⟩, [], [], [1, 2, 3], [false], none, 0, 2 ^ 20⟩
/-- A package whose only tile task is saved. -/
def savedState (due : Bool) : State :=
  let s := ((asked .switch 0 st0).setTt 0 none).setStrand 0 none
  s.modWork fun w => { w with saved := [(0, some { saved1 with due := due })] }
theorem wit_preemptRequests_saved : tget none (savedState false).work.saved 0 = some { saved1 with due := false } ∧
    (savedState false).names (.tileTask 0) 0 saved1.tt = true ∧
    (asked .switch 0 st0).ttAt 0 = some { homeTask with request := some (.switch, 0), reserved := 2 ^ 20 } := by decide +kernel
/-- R297: a kill ends the strands at once; a switch and a kill that follows a save in progress do not. -/
theorem test_preempt : nextIs (exec (.preemptRequest (.tileTask 0) .kill 0) base) (fun t => (t.strandAt 0).map (·.ended) = some true) ∧
    nextIs (exec (.preemptRequest (.tileTask 0) .switch 7) base) (fun t => (t.ttAt 0).map (·.request) = some (some (.switch, 7)) ∧
      (t.strandAt 0).map (·.ended) = some false) ∧
    nextIs (exec (.graceExpiry 0) (asked .switch 0 st0)) (fun t => (t.strandAt 0).map (·.stop) = some (some .forced)) := by decide +kernel

/-- A strand that has stopped. -/
def stopped0 : Strand := { st0 with stop := some .point }
theorem wit_saves :
    let s := asked .switch 0 stopped0
    let t := { homeTask with request := some (Rank.switch, 0), reserved := 2 ^ 20 }
    s.ttAt 0 = some t ∧ t.saving = false ∧ t.failing = false ∧ s.ttOver 0 t = false ∧ s.strandAt 0 = some stopped0 ∧ stopped0.quiet = true ∧
    (s.coreAt 0).atRest 0 = true := by decide +kernel
theorem wit_saves_place :
    let s := asked .switch 0 stopped0
    s.rangeBad (s.heapBase 0 + homeTask.heapAt) (2 ^ 20) = false := by decide +kernel
theorem wit_saves_complete :
    let s := ((asked .switch 0 stopped0).setTt 0 (some { homeTask with saving := true })).modWork fun w => { w with saved := [(0, some saved1)] }
    s.ttAt 0 = some { homeTask with saving := true } ∧ tget none s.work.saved 0 = some saved1 ∧ saved1.park = false ∧
    homeTask.killAfter = false ∧ homeTask.failing = false ∧ s.rangeBad (s.heapBase 0 + saved1.heapAt) saved1.size = false := by decide +kernel
theorem wit_saves_resume :
    let s := savedState true
    tget none s.work.saved 0 = some saved1 ∧ saved1.due = true ∧ s.ttAt 0 = none ∧ s.takesSaved 5 saved1 = true ∧ s.yields saved1 = false ∧
    saved1.cmds = [] ∧ saved1.signals = [] ∧ tget none (savedState false).work.saved 0 = some { saved1 with due := false } ∧
    (asked .switch 0 st0).ttAt 0 = some { homeTask with request := some (.switch, 0), reserved := 2 ^ 20 } := by decide +kernel
/-- R302: a saved tile task resumes on core 5 with its registers, semaphores and scratchpad. -/
theorem test_resume : nextIs (exec (.tileTaskResume 0 5) (savedState true)) (fun t => (t.strandAt 40).map (fun st => tget 0 st.g 9) = some 77 ∧
    (t.coreAt 5).sem 4 = ⟨3, false⟩ ∧ tgets 0 (t.coreAt 5).spm 0 3 = [1, 2, 3] ∧ (t.ttAt 0).map (·.resumes) = some 1) := by decide +kernel

/-- A context as the management core makes it. -/
def init1 : CtxInit := ⟨0x100000, true, true, 2, 16, 0x4000, 0, 64, 8, 4096, 16, 0x10000, 0x100000⟩
/-- A package whose PT has been set. -/
def timeSet : State := State.reset.modTime fun t => { t with stepped := true }
theorem wit_contexts : timeSet.mayCreate 3 init1 = true ∧ timeSet.mem.discards init1.area = false ∧ State.reset.time.stepped = false ∧
    State.reset.time.waitOver = false ∧ base.ctxAt 0 ≠ none ∧
    (let s := base.modMem fun m => { m with areas := [(0, 0x100000)] }
     (s.ctxAt 0).isSome ∧ ((tget 0 s.mem.areas 0).toNat + 0x14) % 4096 = 0x14 ∧ s.mem.discards ((tget 0 s.mem.areas 0).toNat + 0x14) = false) ∧
    base.ctxAt 0 = some homeCtx ∧ homeCtx.killing = false ∧ homeCtx.parked = false ∧ base.ttAt 0 = some homeTask ∧ homeTask.request = none ∧
    (let u := base.setTt 0 none
     (∀ y ∈ u.work.tts, ∀ t, y.2 = some t → t.ctx ≠ 0) ∧ homeCtx.escrow = none ∧ u.parkLeaves homeCtx = []) := by decide +kernel
theorem wit_contexts_unpark :
    let b : Block := { homeBlock with graph := 1 }
    let s := (((savedState false).setCtx 0 (some { homeCtx with parked := true })).setBlock 0 (some b)).modWork fun w =>
      { w with saved := [(0, some { saved1 with park := true, due := false })] }
    s.ctxAt 0 = some { homeCtx with parked := true } ∧ homeCtx.escrow = none ∧ s.energy.grade < 2 ∧ s.blockAt 0 = some b ∧ b.ctx = 0 ∧
    tget none s.work.saved 0 = some { saved1 with park := true, due := false } ∧ saved1.tt.ctx = 0 ∧ saved1.tt.block = 0 ∧
    (base.setCtx 0 (some { homeCtx with killing := true })).ctxAt 0 = some { homeCtx with killing := true } := by decide +kernel
/-- R299: the header of a context area. -/
theorem test_context : (areaHeader init1).take 16 = natBytes 8 (1 + 16 + 32 + 64 * 2) ++ natBytes 8 init1.flogOff := by decide +kernel

/-- A package with a debuggable context. -/
def dbgState : State := base.setCtx 0 (some { homeCtx with debuggable := true })
/-- With trigger 2 on strand 0 of core 0. -/
def triggered (n : Nat) : State := dbgState.modDebug fun d =>
  { d with triggers := [(2, ⟨1, 1, 0, 0, false, 0⟩)], trace := [(0, List.replicate n ⟨0, 0, 0, 0, 0, 0, 0, 0⟩)] }
theorem wit_debugRequests : base.debuggable 0 = false ∧ 0 < 64 ∧ dbgState.ctxAt 0 = some { homeCtx with debuggable := true } ∧ dbgState.debuggable 0 = true ∧ dbgState.ttAt 0 = some homeTask ∧ homeTask.request = none ∧
    homeTask.saving = false ∧ (∀ y ∈ (dbgState.setTt 0 none).work.tts, ∀ z, y.2 = some z → z.ctx ≠ 0) ∧
    (let s := (onCond 3 id).setCtx 0 (some { homeCtx with debuggable := true })
     3 < 16 ∧ (s.condAt 3).task = some (1, 0) ∧ s.graphAt 1 = some graph1 ∧ graph1.ctx = 0) ∧
    (let x := (triggered 0).triggerAt 2
     x.ctl.getLsbD 0 = true ∧ x.ctl.toNat / 2 % 4 = 0 ∧ x.sel.toNat / 256 % 16 ≤ 14 ∧ (triggered 0).debuggable (x.ctl.toNat / 8 % 64) = true ∧
     (triggered 0).headCtx 0 0 = some 0 ∧ x.start.toNat % 256 = 1) ∧
    2048 ≤ (tget [] (triggered 2048).dbg.trace 0).length ∧ ((triggered 0).triggerAt 1).ctl.getLsbD 0 = false := by decide +kernel
/-- R310: a full trace buffer counts the record it drops. -/
theorem test_trigger : nextIs (exec (.triggerMatch 2) (triggered 0)) (fun t => ((tget [] t.dbg.trace 0).map (·.trigger)) = [2]) ∧
    nextIs (exec (.triggerMatch 2) (triggered 2048)) (fun t => tget 0 t.dbg.drop 0 = 1) := by decide +kernel

/-- A window of two samples of 1,100 W against a curve of 1,000 W. -/
def window : State := State.reset.modEnergy fun e => { e with winP := 2200, winC := 2000, winN := 2 }
theorem wit_power : State.reset.time.base % 1000 = 0 ∧ (State.reset.modTime fun t => { t with base := 1 }).time.base % 1000 ≠ 0 ∧
    (State.reset.modTime fun t => { t with base := 1 }).time.base % 1000000 ≠ 0 ∧
    window.time.base % 1000000 = 0 ∧ 0 < window.energy.winN ∧
    (let d := ((window.energy.winP : Int) - window.energy.winC).natAbs
     window.energy.winExempt = false ∧ 20 * window.energy.winC < 1000 * d ∧ 20 * window.energy.winN < d) ∧
    window.curveIn (window.pt 9) = none ∧
    ¬ (20 * State.reset.energy.winC < 1000 * ((State.reset.energy.winP : Int) - State.reset.energy.winC).natAbs) := by decide +kernel
/-- R319, R320: a deviation of 100 W where 20 W or 2 % are allowed. -/
theorem test_window : nextIs (exec .powerWindowEnd window) (fun t => t.energy.bandDev = 1 ∧ t.energy.powerMean = 1100 ∧ t.energy.winN = 0) := by
  decide +kernel
theorem wit_power_regions :
    (placed []).regionTasks 0 = [] ∧
    (let s := base.setBlock 0 (some { homeBlock with graph := 1 })
     s.regionTasks 0 = [(1, 0)]) ∧
    base.dieBusy 0 = true ∧ base.dieBusy 5 = false ∧ base.energy.gateQ = [] ∧ base.energy.gateBusy = none ∧
    tget false (base.modEnergy fun e => { e with gated := [(4, true)] }).energy.gated 4 = true ∧
    (base.modEnergy fun e => { e with gateBusy := some (true, 4) }).energy.gateBusy = some (true, 4) ∧
    (base.regionAt 0).fails = 0 ∧
    (let s := base.modEnergy fun e => { e with regions := [(0, ⟨0, 0, 60, 1, false⟩), (7, ⟨0, 0, 60, 2, false⟩)] }
     (s.regionAt 0).fails = 1 ∧ s.ttAt 0 = some homeTask ∧ homeTask.core / 2 = 0 ∧ 2 ≤ (s.regionAt 7).fails ∧ (s.regionAt 7).dark = false ∧
     s.regionTasks 7 = []) := by decide +kernel
theorem wit_power_feeds : tget false State.reset.energy.feedLost 0 = false ∧ tget false State.reset.energy.feedLost 1 = !true ∧
    (let e := (State.reset.modEnergy fun e => { e with feedLost := [(0, true)], powered := false }).energy
     e.powered = false ∧ tget false e.feedLost 1 = false ∧ tget false e.feedLost 0 = true) ∧ State.reset.energy.powered = true := by decide +kernel
/-- R324: the loss of the second feed takes the power; a step without power is a fault. -/
theorem test_feeds : nextIs (exec (.feedLoss 1 false) (State.reset.modEnergy fun e => { e with feedLost := [(0, true)] })) (fun t =>
    t.energy.powered = false) ∧ (match step { State.reset with energy := { EnergyState.init with powered := false } } with
      | .fault f => f = .powerOff
      | _ => false) = true := by decide +kernel

/-- A package with a record in force whose thresholds are 100, 200 and 300 W, at 5,000 W or at 250 W. -/
def curve1 (w : Nat) : Curve := ⟨0, 5, 0, 10 ^ 12, 50, 40, 300, 200, 100, [(0, w), (1000, w)], 0⟩
/-- With the grade given. -/
def graded (w g : Nat) : State := base.modEnergy fun e => { e with curve := some (curve1 w), grade := g, started := true }
theorem wit_plan : State.reset.energy.started = false ∧ State.reset.host.recovery = false ∧ (ready 1 0).energy.started = true ∧
    (ready 1 0).time.base % 100000 = 0 ∧ ((ready 1 0).ranked Task.counts).Nodup ∧
    (∀ x ∈ (graded 250 0).ranked Task.counts, ∀ y, (graded 250 0).taskAt x.1 x.2 = some y → y.info.ops.length ≤ 8) ∧
    ((State.reset.modHost fun h => { h with recovery := true }).host.recovery = true) ∧
    ((graded 5000 0).curveAt 0 = 5000 ∧ ¬ (5000 < (graded 5000 0).threshold 1 0) ∧ ¬ (5000 < (graded 5000 0).threshold 2 0) ∧
      ¬ (5000 < (graded 5000 0).threshold 3 0)) ∧
    ((graded 250 0).curveAt 0 < (graded 250 0).threshold 1 0 ∧ ¬ ((graded 250 0).curveAt 0 < (graded 250 0).threshold 2 0) ∧
      ¬ ((graded 250 0).curveAt 0 < (graded 250 0).threshold 3 0) ∧ (graded 250 0).energy.grade = 0) ∧
    ((graded 150 1).curveAt 0 < (graded 150 1).threshold 2 0 ∧ ¬ ((graded 150 1).curveAt 0 < (graded 150 1).threshold 3 0) ∧
      (graded 150 1).energy.grade < 2) ∧
    (graded 5000 1).energy.grade = 0 + 1 := by decide +kernel
/-- R321: at 250 W, below the slow threshold of 300 W only. -/
theorem test_grade : nextIs (exec .gradeEnter (graded 250 0)) (fun t => t.energy.grade = 1) ∧
    nextIs (exec .gradeEnter (graded 150 0)) (fun t => t.energy.grade = 2 ∧ (t.ttAt 0).map (·.request) = some none) := by decide +kernel

/-- R322: the grade has parked the one task of the context: its pages leave, and it is not parked as a whole. -/
theorem test_contextPark :
    let y : Graph := { graph1 with tasks := [task1 2 .running []] }
    let s := ((base.setTt 0 none).setGraph 1 (some y)).modEnergy fun e => { e with grade := 2 }
    s.gradeParks 0 = true ∧ nextIs (exec (.contextPark 0) s) (fun t => (t.ctxAt 0).map (fun c => (c.parked, c.escrow)) = some (false, some [])) ∧
    (s.modEnergy fun e => { e with grade := 1 }).gradeParks 0 = false := by decide +kernel
/-- R321: a crossing between two samples breaks the 10 ms. -/
theorem test_crossing : nextIs (exec .gradeEnter ((graded 250 0).modEnergy fun e => { e with above := [(1, some 0)] })) (fun t =>
    tget none t.energy.above 1 = none) := by decide +kernel

theorem wit_curveRecords : State.reset.host.recovery = false ∧ ([] : List Byte).length < 240 ∧ State.reset.checkCurve [] = .inl 1 ∧
    State.reset.energy.curve = none ∧ State.reset.energy.pending = [] ∧
    (curve1 5000).points = [(0, 5000), (1000, 5000)] ∧ (0, 5000).1 < (1000, 5000).1 ∧ 500 ≤ (curve1 5000).validTo ∧
    (let s := State.reset.modEnergy fun e => { e with pending := [curve1 5000] }
     (∃ c ∈ s.energy.pending, c.effect ≤ s.pt 9)) ∧
    (let s := State.reset.modEnergy fun e => { e with pending := [{ curve1 5000 with effect := 1 }] }
     (∀ c ∈ s.energy.pending, s.pt 9 < c.effect)) ∧
    (State.reset.modHost fun h => { h with recovery := true }).host.recovery = true := by decide +kernel
/-- R317: between 1,000 W at 0 and 2,000 W at 1,000 ns, at 333 ns. -/
theorem test_curve : (⟨0, 1, 0, 10 ^ 12, 0, 0, 0, 0, 0, [(0, 1000), (1000, 2000)], 0⟩ : Curve).at_ false 333 = 1333 ∧
    (⟨0, 1, 0, 10 ^ 12, 0, 0, 0, 0, 0, [(0, 2000), (1000, 1000)], 0⟩ : Curve).at_ false 333 = 1667 ∧
    nextIs (exec .curveTakeEffect (State.reset.modEnergy fun e => { e with pending := [curve1 700] })) (fun t => t.curveAt 5 = 700) := by
  decide +kernel

theorem wit_ports : (0x400000000 : W64).toNat % 2 ^ 34 = 0 ∧ (5 : W64).toNat % 2 ^ 34 ≠ 0 ∧ 16 + ([1, 2] : List Byte).length ≤ 2 ^ 23 ∧
    2 ^ 23 ≤ 2 ^ 23 + 4 ∧ (2 ^ 23 + 4) + ([1, 2] : List Byte).length ≤ 2 ^ 23 + 2 ^ 22 ∧ 0 + ([1, 2] : List Byte).length ≤ 2 ^ 34 ∧
    State.reset.host.recovery = false ∧ (State.reset.modHost fun h => { h with recovery := true }).host.recovery = true ∧
    (∃ m g, (State.reset.modHost fun h => { h with address := some (7, 8, 9) }).host.address = some (7, m, g)) ∧
    State.reset.host.address = none ∧ State.reset.host.cfg.ip = none ∧
    ((State.reset.modHost fun h => { h with cfg := { h.cfg with ip := some (1, 2, 3) } }).host.cfg.ip ≠ none) ∧
    State.reset.host.writes = [] ∧ retiring.host.writes = [] ∧ retiring.mem.bounces (retiring.host.aperture.toNat + 0x10000 + 1) = true ∧
    (retiring.mem.homeDie (retiring.host.aperture.toNat + 0x10000 + 1)).isSome = true ∧
    retiring.rangeHeld true 0x10000 2 = true ∧ State.reset.rangeHeld true 0 2 = false ∧ State.reset.rangeHeld false 0 2 = false ∧
    (State.reset.modLink 2 fun l => { l with state := 1 }).rangeHeld false 0x1000000000 2 = true ∧
    (8 ≤ 0x10 ∧ 0x10 + ([1, 2] : List Byte).length ≤ 4096 ∧ ([1, 2] : List Byte).length ≠ 8) ∧ (0 < ([1, 2] : List Byte).length) ∧
    (zeros 32).length = 32 ∧ base.ctxAt 5 = none ∧ base.ctxAt 0 = some homeCtx := by
  refine ⟨by decide, by decide, by decide, by decide, by decide, by decide, by decide, by decide, ⟨8, 9, rfl⟩, ?_⟩
  decide +kernel
/-- R342, R343: a write of record memory through BAR 1; a read of an unbacked byte through the aperture; bits of KILLED cleared. -/
theorem test_ports : nextIs (exec (.hostBar1Access true 0x800004 [9, 8]) State.reset) (fun t => tget 0 t.mem.record 5 = 8) ∧
    nextIs (exec (.hostBar2Access false 0 [0]) (State.reset.modHost fun h => { h with aperture := 0xC000000000000 })) (fun t =>
      t.host.lastRead.1 = [0xFF]) ∧
    nextIs (exec (.killedClear 5) (State.reset.modHost fun h => { h with killed := 7 })) (fun t => t.host.killed = 2) := by decide +kernel

/-- A package whose CFGCMD is busy with a command. -/
def cfgBusy (cmd : W64) : State := base.modHost fun h => { h with cfgcmd := cmd, cfgstate := 1 }
theorem wit_configuration : (cfgBusy 1).host.cfgstate = 1 ∧ base.host.cfgstate ≠ 1 ∧
    (1 ≤ (1 : W64).toNat % 16 ∧ (1 : W64).toNat % 16 ≤ 3 ∧ (1 : W64).toNat / 16 % 4 = 0 ∧ (1 : W64).toNat / 2 ^ 52 = 0) ∧
    ¬ (1 ≤ (4 : W64).toNat % 16 ∧ (4 : W64).toNat % 16 ≤ 3) ∧
    (cfgBusy 3).host.cfgcmd.toNat % 16 = 3 ∧ (cfgBusy 2).host.cfgcmd.toNat % 16 = 2 ∧
    leNat (((cfgBusy 0x20003).staged (0x20000 + 64) 64).take 1) = 0 ∧ (cfgBusy 0x20003).ctxAt 0 = some homeCtx ∧
    (∀ k, k < 256 → (cfgBusy 0x20003).mem.discards (0x20000 + 128 + k) = false) ∧
    ((cfgBusy 3).setCtx 0 none).ctxAt 0 = none ∧ (cfgBusy 3).stagingHeld 0 = false ∧ (cfgBusy 2).stagingHeld 0 = false ∧
    ((cfgBusy 0x20003).modMem fun m => { m with pmq := [(sliceKey (sliceOf 0x20000), [⟨0, 0x20000, [1], [true], false, 0⟩])] }).stagingHeld 0x20000 = true ∧
    (cfgBusy 0x20003).stagingHeld 0x20000 = false := by decide +kernel
/-- R344: an attestation of a context that is not resident fails check 1; a malformed command is rejected. -/
theorem test_configuration : nextIs (exec .cfgCommandDone ((cfgBusy 3).setCtx 0 none)) (fun t => t.host.cfgstate = 3 ∧ t.host.cfgstep = 1) ∧
    nextIs (exec (.cfgAttestation 4) base) (fun t => t.host.cfgstate = 3 ∧ t.host.cfgstep = 0) ∧
    nextIs (exec (.cfgInstallFirmware 0x42) base) (fun t => t.host.cfgstate = 1) := by decide +kernel

/-- ADDI g8, g8, 512 where the next step fetches it. -/
def stepWord : State := State.reset.withFetchWord 32 0x04010804
theorem wit_stepRuns : stepWord.energy.powered = true ∧ stepWord.turn.act = .strand 0 ∧
    (let b := stepWord.beginTurn
     (b.ttAt st0.tt).map (·.acquiring) = some [] ∧ b.pcStop 0 st0 = none ∧ b.walkHeld 0 (some 0) (b.ctxOfStrand 0) st0.pc 4 = false ∧
     b.fetchHeld 0 (b.ctxOfStrand 0) st0.pc 1 = false ∧ b.strandAt 0 = some st0 ∧ st0.ended = false ∧ st0.stop = none ∧ b.stopDue 0 st0 = none ∧ (b.ttAt st0.tt).map (·.vnames) = some 256 ∧
     ((b.ttAt st0.tt).bind (·.request)).isNone = true) := by decide +kernel
theorem wit_stepRuns_fetch :
    let b := stepWord.beginTurn
    okIs (b.fetchWord (coreOfStrand 0) (b.ctxOfStrand 0) st0.pc) (fun us s1 => us = [0x04010804] ∧ s1.strandAt 0 = some st0 ∧
      decodeUnits us = .ok (.addi 8 8 512) ∧ st0.inLoops st0.pc us = .addi 8 8 512 ∧
      engineHead (.addi 8 8 512) = none ∧ barred (.addi 8 8 512) = false ∧
      nextIs (exec (.addi 8 8 512) { s1.enterGroup 0 with slot := ⟨st0.pc, 4, true⟩ }) (fun t => t.verdict = .issued none ∧
        (match t.find 0 (st0.pc + 4) with
         | .word j _ _ => !(joins st0 256 st0.pc (.addi 8 8 512) j)
         | _ => true) = true ∧
        (t.strandAt 0).map (·.ended) = some false ∧ t.work.tts = s1.work.tts ∧ (t.strandAt 0).map (·.tt) = some st0.tt)) = true := by decide +kernel
theorem wit_stepRuns_turns :
    (let s : State := { State.reset with agenda := [⟨5, 0, .event .replan, 0⟩] }
     s.energy.powered = true ∧ s.turn.act = .event .replan) ∧
    (let s : State := { State.reset with energy := { EnergyState.init with powered := false } }
     s.energy.powered = false ∧ (∀ f c, s.turn.act ≠ .event (.feedLoss f c)) ∧ s.turn.act ≠ .event .powerOn) ∧
    (({ State.reset with agenda := [⟨5, 0, .event .powerOn, 0⟩] } : State).turn.act = .event .powerOn) ∧
    (({ State.reset with agenda := [⟨5, 0, .event (.feedLoss 1 true), 0⟩] } : State).turn.act = .event (.feedLoss 1 true)) := by
  refine ⟨by decide, ⟨by decide, ?_, by decide⟩, by decide, by decide⟩
  intro f c h
  cases h
/-- Conductor core 15 at an overlay word whose first slot is ADDI g8, g8, 512. -/
def condWord : State := { (onCond 15 id) with
  agenda := [⟨0, 0, .conductor 15, 0⟩], mem := { base.mem with overlay := tsets 0 [] 0 (natBytes 4 0x04010804 ++ zeros 44) } }
theorem wit_stepRuns_conductor :
    let b := condWord.beginTurn
    let c := b.condAt 15
    condWord.energy.powered = true ∧ condWord.turn.act = .conductor 15 ∧ decide (c.task = some (1, 0)) = true ∧ c.swapping = false ∧
    c.stopped = false ∧ b.inOverlay 1 0 c.pc = true := by
  refine ⟨by decide +kernel, by decide +kernel, by decide +kernel, by decide +kernel, by decide +kernel, by decide +kernel⟩
theorem wit_stepRuns_slots : (match slotsOf (condWord.beginTurn.fetchSlots 0) with
    | .ok [i, j] => decide (i = .addi 8 8 512 ∧ j = .nop)
    | _ => false) = true ∧
    nextIs (exec (.addi 8 8 512) (condWord.beginTurn.enterWord 15 0)) (fun u => u.verdict = .issued none ∧
      nextIs (exec .nop u) (fun v => v.verdict = .issued none)) = true := by decide +kernel
/-- R155: the conductor core's word runs, and its pc advances by 48. -/
theorem test_step_conductor : nextIs (step condWord) (fun t => tget 0 (t.condAt 15).g 8 = 512 ∧ (t.condAt 15).pc = 48) := by decide +kernel
/-- A step runs ADDI: g8 holds 512 after it, and the strand stands at the next word. -/
theorem test_step : nextIs (step stepWord) (fun t => (t.strandAt 0).map (fun st => (tget 0 st.g 8, st.pc)) = some (512, 0x8004)) := by
  decide +kernel

theorem wit_encoding : (Instr.addi 8 8 512).wf = true ∧ encode (.addi 8 8 512) ≠ [] ∧ (Instr.launch 9).wf = true ∧
    encodeMicro (.launch 9) = some 0x49 ∧ (match decodeUnits [0x04010804] with | .ok i => i = .addi 8 8 512 | .error _ => false) = true := by
  decide +kernel
theorem wit_stepKeepsMemory : stepWord.Inv ∧ nextIs (step stepWord) (fun _ => true) = true := by decide +kernel
/-- R32, R313: `.optable 31, 3300, bf16, 64` is 0x0040AC9F; the least voltage at 2,200 MHz and at 2,300 MHz. -/
theorem test_operating_point : opV 0x0040AC9F = 31 ∧ mhzOf (opF 0x0040AC9F) = 3300 ∧ opTiles 0x0040AC9F = 64 ∧ mhzOf 56 = 2200 ∧ vmin 56 = 18 ∧
    mhzOf 60 = 2300 ∧ vmin 60 = 19 := by decide +kernel
/-- R298: the worked example: three strands in mode Q, 256 names, 512 KiB of scratchpad, and the MXE state. -/
theorem test_save_size : ({ LbRec.empty with roles := 7, vnames := 256, spmUnits := 128 } : LbRec).saveSize + Config.mxeSave = 1938688 := by
  decide +kernel

/-! More clauses of the statements: control flow and transactions. -/

/-- A strand in the body of an inner level, 1, of an outer one, 0. -/
def looping : Strand := { st0 with loops := [(0, { lvl 2 1 1 with last := 0x8400, after := 0x8404 }), (1, lvl 3 2 1)] }
/-- R179: a branch that leaves the inner level and not the outer one. -/
theorem wit_branches_leaves :
    let s := { on looping with slot := ⟨0x8008, 4, true⟩ }
    s.acts 0 looping ∧ looping.handler = false ∧
    nextIs (exec (.b 100) s) (fun t => t.verdict = .issued (some 0x8198)) = true ∧
    (loopAt looping.loops 1).active = true ∧ (loopAt looping.loops 1).inBody 0x8008 = true ∧
    (loopAt looping.loops 1).inBody 0x8198 = false ∧ (loopAt looping.loops 0).inBody 0x8198 = true ∧
    (loopAt looping.loops 0).depth < (loopAt looping.loops 1).depth := by decide +kernel
theorem wit_loops_conductor :
    let s := { onCond 0 (fun c => { c with loops := [(1, lvl 3 1 1)] }) with slot := ⟨0x7FB0, 48, true⟩ }
    s.conducts 0 ∧ s.slot.len = 48 ∧ (12 : BitVec 12).toNat % 12 = 0 ∧ s.loopChecks 0 12 = none ∧ s.g 8 = 0 := by decide +kernel
theorem wit_loops_ends :
    let l : Tab Loop := [(0, lvl 2 1 1), (1, lvl 1 2 1), (2, lvl 2 3 2), (3, lvl 1 4 2)]
    (∀ i ∈ [0, 1, 2, 3], (loopAt l i).active = true ∧ (loopAt l i).last = 0x8010) ∧
    (loopAt l 0).pipelined = false ∧ 1 < (loopAt l 0).lc.toNat ∧ (loopAt l 1).pipelined = false ∧ (loopAt l 1).lc.toNat ≤ 1 ∧
    (loopAt l 1).draining = false ∧ (loopAt l 2).pipelined = true ∧ 1 < (loopAt l 2).lc.toNat ∧
    (loopAt l 3).pipelined = true ∧ (loopAt l 3).lc.toNat ≤ 1 := by decide +kernel
theorem wit_transactions_ends :
    let st := { st0 with txn := some (txn 0 none) }
    (on st).acts 0 st ∧ (txn 0 none).phase = 0 ∧ (txn 0 none).phase ≠ 2 ∧ (txn 0 none).target = none ∧
    (on st).slot.defer = true := by decide +kernel

/-! Caches, tiles, postboxes and rounding. -/

theorem wit_strandWords_relSys : (on st0).backHeld (dieOfCore (coreOfStrand 0)) isCxlLine = false := by decide +kernel
/-- A range of 256 bytes at 0x20000: its lines are hit, and the one before it is not. -/
theorem wit_cachesAndPorts_range :
    let s := withG [(8, 0x20000), (9, 256)]
    s.produced [8, 9] ∧ s.clear [8, 9] ∧ s.range 8 9 = some (0x20000, 256) ∧
    (s.linesOf 0 s.myCtx 0x20000 256).any (fun x => x.1 ≤ 1025 && 1025 ≤ x.2) = true ∧
    (s.linesOf 0 s.myCtx 0x20000 256).any (fun x => x.1 ≤ 1023 && 1023 ≤ x.2) = false := by decide +kernel
/-- R98: a ranged ACQ at strand group scope drops the L1 lines of its range only, and leaves the RDC. -/
theorem test_acq :
    let s := (withG [(8, 0x20000), (9, 256)]).modCore 0 fun c => { c with l1 := tset none (tset none c.l1 1023 (some ⟨0, false, false⟩)) 1025 (some ⟨0, false, false⟩) }
    nextIs (exec (.acq .core 8 9) s) (fun t => (tget none (t.coreAt 0).l1 1025).isNone ∧ (tget none (t.coreAt 0).l1 1023).isSome) := by decide +kernel
/-- The package with both modules of die 0 paused. -/
def cut : State := (base.modLink 0 fun x => { x with pause := true }).modLink 1 fun x => { x with pause := true }
theorem wit_tileWords_reaches : (tiles []).reaches (tiles []).myDie cd = true ∧
    (let s := ((tiles []).modLink 0 fun x => { x with pause := true }).modLink 1 fun x => { x with pause := true }
     s.acts 0 st0 ∧ s.reaches s.myDie cd = false) := by decide +kernel
theorem wit_postboxes_waits :
    (∃ o ∈ [(⟨.plain, 0, [], 0, 0, false, 0, 1, 0, none⟩ : StoreOp)], o.sn < 1) ∧
    [(⟨.scalar 9 4 false, 0, [], [], 0, false, 0, 1, none, 0⟩ : LoadOp)] ≠ [] := by decide +kernel
/-- Within the range of f32, above it, and a tie: 2^24 + 1, the even code below it; the other modes. -/
theorem wit_rounding :
    let f := fmtOf 8
    let U (b : Nat) : Nat := if b / 2 ^ f.fw = 0 then b else (2 ^ f.fw + b % 2 ^ f.fw) * 2 ^ (b / 2 ^ f.fw - 1)
    let W (e : Int) (b : Nat) : Nat := U b * 2 ^ (f.qmin - e).toNat
    let X (m : Nat) (e : Int) : Nat := m * 2 ^ (e - f.qmin).toNat
    X (2 ^ 24 + 1) 0 ≤ W 0 f.top ∧ W 105 f.top < X (2 ^ 24 + 1) 105 ∧ X 1 (-200) ≤ W (-200) f.top ∧
    Rnd.rz ≠ .rne ∧ ¬ ((Rnd.rz = .ru ∧ false = false) ∨ (Rnd.rz = .rd ∧ false = true)) ∧ (Rnd.rd = .rd ∧ true = true) ∧ ((1 : Int) + -2 ≠ 0) := by decide +kernel
/-- R120, R121: 2^24 + 1 and 2^24 + 3 in f32 are ties. -/
theorem test_rounding : roundTo 8 ⟨.rne, false, false, false⟩ false (2 ^ 24 + 1) 0 false = 0x4B800000 ∧
    roundTo 8 ⟨.rne, false, false, false⟩ false (2 ^ 24 + 3) 0 false = 0x4B800002 ∧
    roundTo 8 ⟨.ru, false, false, false⟩ false (2 ^ 24 + 1) 0 false = 0x4B800001 := by decide +kernel

/-! Engine starts. -/

/-- A launch block whose tile tasks fail under KILL_SELF. -/
def killing : Block := { homeBlock with lb := { homeBlock.lb with ttPolicy := .killSelf } }
/-- A stamped ACCZ at the head of its queue, H and the package time as given; with a clause of 2 on semaphore 3 where c. -/
def stampedAt (H pt : Nat) (c : Bool) (count : Nat) (atE : Option Bool) : State :=
  let h := if c then { eh with stamped := true, stamp := 0x40, wsem := 3, wthr := 2 } else { eh with stamped := true, stamp := 0x40 }
  let s := queued 0 { cmd (.accz h 1) [] false with arrived := some (BitVec.ofNat 64 H), atE := atE }
  ((s.modTime fun t => { t with pt := [(0, pt)] }).setBlock 0 (some killing)).modCore 0 (·.modSync fun x => x.setSem 3 ⟨count, false⟩)
/-- The head of the queue, and whether its clause is served and the engine can take it. -/
def stampedIs (s : State) (H : Nat) (atE : Option Bool) (may : Bool) : Bool :=
  match (s.coreAt 0).head 0 with
  | none => false
  | some x => x.arrived = some (BitVec.ofNat 64 H) && (engineHead x.word).any (fun h => h.stamped && h.stamp = 0x40) &&
    !s.frozen x.tt && x.atE = atE && (!may || s.mayStart 0 0 x) && x.waited = false && (s.ttAt x.tt).any fun t => (s.blockAt t.block).isSome
theorem wit_engineStarts_missed :
    stampedIs (stampedAt 0x50 0x50 false 0 none) 0x50 none false = true ∧ stampTarget 0x50 0x40 < 0x50 ∧
    stampedIs (stampedAt 0x30 0x40 true 2 none) 0x30 none true = true ∧ stampTarget 0x30 0x40 = 0x40 ∧
    (((stampedAt 0x30 0x40 true 2 none).coreAt 0).sem 3).count = 2 ∧
    stampedIs (stampedAt 0x30 0x40 true 1 none) 0x30 none false = true ∧ (((stampedAt 0x30 0x40 true 1 none).coreAt 0).sem 3).poisoned = false ∧
    stampedIs (stampedAt 0x30 0x41 false 0 (some false)) 0x30 (some false) false = true ∧
    tget [] (((stampedAt 0x30 0x40 true 2 none)).coreAt 0).sync.waiters 3 = [] ∧
    killing.lb.ttPolicy = .killSelf ∧ homeBlock.lb.ttPolicy = .ignore := by decide +kernel
/-- R72: a target before H is missed: the word goes and its tile task fails. -/
theorem test_missed : nextIs (exec (.stampedCommandIssue 0) (stampedAt 0x50 0x50 false 0 none)) (fun t =>
    (t.coreAt 0).queue 0 = [] ∧ (t.ttAt 0).map (·.failing) = some true) := by decide +kernel
/-- The descriptor of a special-function job on one row of f32, and the package with it at 0x20000, its row at 0x21000, its
outputs at 0x22000, as the first at its engine. -/
def jobState (op : Nat) (word : Instr) (len types : Nat) (row : List Nat) : State :=
  let d := leBytes 8 0x21000 ++ leBytes 8 0x22000 ++ leBytes 8 0x22100 ++ leBytes 4 1 ++ leBytes 4 len ++ leBytes 12 0 ++
    leBytes 4 types ++ leBytes 16 0
  (queued 6 { cmd word [0x20000] false with order := some op }).modMem fun m =>
    { m with bytes := tsets 0 (tsets 0 m.bytes 0x20000 d) 0x21000 (row.map (leBytes 4)).flatten }
/-- The job's descriptor is read, and with it, where `good`, its rows, and the places of its outputs, all at homes that are free. -/
def jobIs (s : State) (good : Bool) : Bool :=
  match (s.coreAt 0).head 6 with
  | none => false
  | some x => (engineHead x.word).any (!·.stamped) && x.regs = [0x20000] && !s.frozen x.tt && x.order.any (fun n => s.jobFirst (engineOfSub (sfjOp x.word)) n) &&
    ((s.coreAt 0).queue 6).all (!·.started) && (s.coreAt 0).clause 6 x = .yes && s.mayStart 0 6 x && !tget false s.energy.gated sfd &&
    !(s.coreAt 0).ctlErrors.contains 6 && okIs ((s.modCore 0 (·.serve 6 x)).sfdRead x.ctx 0x20000 64) fun b s1 =>
      match jobOf (sfjOp x.word) b.1 with
      | none => !good
      | some y => good && okIs (s1.jobRows x.ctx y y.rows 0) fun rows s2 =>
        okIs (s2.jobPlaces x.ctx ((rows.mapIdx fun j r => y.row j r.1 r.2).flatten)) fun os s3 =>
          os.all fun o => s3.homesFree sfd o.2 && o.2.all fun p => !s3.mem.bounces p.pa
theorem wit_engineStarts_job : jobIs (jobState 0 (.sfjSort eh 8) 3 0x144 [5, 9, 7]) true = true ∧
    jobIs (jobState 0 (.sfjSort eh 8) 0 0x144 []) false = true := by decide +kernel
/-- R263: SORT in descending order of 5, 9 and 7. -/
theorem test_sort : nextIs (exec (.engineCommandStart 0 6) (jobState 0 (.sfjSort eh 8) 3 0x144 [5, 9, 7])) (fun t =>
    (List.range 12).map (fun i => t.mem.byteAt (0x22000 + i)) = [9, 0, 0, 0, 7, 0, 0, 0, 5, 0, 0, 0]) := by decide +kernel
theorem wit_engineStarts_writeOut :
    let o : JobOut := ⟨0x22000, [1, 2], [false, false]⟩
    let p : Part := ⟨0, 0x2203F, 2, 0⟩
    p.off = 0 ∧ p.len = o.bytes.length ∧ ∀ k ∈ List.range 2, eon.mem.discards (p.pa + k) = false := by decide +kernel
/-- A job of each operation, and rows of each kind that its results tell apart. -/
theorem wit_engineStarts_rows :
    (∀ op ∈ List.range 6, (jobOf op (leBytes 24 0 ++ leBytes 4 1 ++ leBytes 4 2 ++ leBytes 12 0 ++
      leBytes 4 (if op < 3 then 0x88 else if op = 5 then 8 else 0x20088) ++ leBytes 16 0)).map (·.op) = some op) ∧
    [false, true].length = [0x3F800000, 0x7F800000].length ∧ (unpack 8 false 0x7F800000) = .inf false ∧
    (unpack 8 false 0xFF800000) = .inf true ∧ (unpack 8 false 0x7FC00000).isNan = true ∧
    (∃ k q, unpack 8 false 0xBF800000 = .fin true (k + 1) q) ∧ (unpack 8 false 0x3F800000).isNan = false ∧
    (cumSums (.fin false 0 0) [unpack 8 false 0]).getLast? = some (.fin false 0 (-149)) ∧
    (∃ s, (cumSums (.fin false 0 0) [unpack 8 false 0x7F7FFFFF, unpack 8 false 0x7F7FFFFF]).getLast? = some (.inf s)) ∧
    (∃ s k q, (cumSums (.fin false 0 0) [unpack 8 false 0x3F800000]).getLast? = some (.fin s (k + 1) q)) := by
  refine ⟨by decide +kernel, by decide +kernel, by decide +kernel, by decide +kernel, by decide +kernel, ⟨0x7FFFFF, -23, by decide +kernel⟩, by decide +kernel,
    by decide +kernel, ⟨false, by decide +kernel⟩, ⟨false, 0x7FFFFF, -23, by decide +kernel⟩⟩

/-! Engine completions and chains. -/

/-- A command stands started in a queue, of a tile task that is not stopped. -/
def startedIs (s : State) (q : Nat) (x : Cmd) : Bool :=
  ((s.coreAt 0).queue q).find? (·.started) = some x && (s.coreAt 0).cmd q x.id = some x && !x.failed && !x.discard && !s.frozen x.tt &&
    !(s.coreAt 0).ctlErrors.contains q && x.sig.isNone
theorem wit_engineCompletes_global :
    let to_ := cmd (.cpy eh { ca with dkind := true }) [0x100, 0x20000, 0x100000040, 0] true
    let of_ := cmd (.cpy eh { ca with skind := true }) [0x20000, 0x100, 0x100000040, 0] true
    let fill := cmd (.cpyf eh ca) [0x20000, 0x0123456789ABCDEF, 0x100000040, 0] true
    let m (a : CpyArgs) (d : W64) (z : W64) : Move := moveOf a false d z 0x100000040 0
    let reached (s : State) : Bool := !s.walkHeld 0 (some 0) 0 0x20000 64 && okIs (s.access (some 0) 0 0x20000 64 .write s.fresh) fun ps s1 =>
      match ps with
      | [p] => p.off = 0 && p.len = 64 && s1.homesFree 0 [p] && !s1.mem.bounces p.pa && !s1.mem.discards p.pa
      | _ => false
    (∀ x ∈ [to_, of_, fill], startedIs (queued 1 x) 1 x = true ∧ x.progress = 0 ∧ reached (queued 1 x) = true) ∧
    okIs ((queued 1 to_).engRead 0 0 0x20000 64) (fun b _ => b.1.length = 64) = true ∧
    (∀ y ∈ [m { ca with dkind := true } 0x100 0x20000, m { ca with skind := true } 0x20000 0x100, moveOf ca true 0x20000 0x0123456789ABCDEF 0x100000040 0],
      y.misaligned = none ∧ y.outside 0 (2 ^ 21) = none ∧ y.rows = 1 ∧ y.rowBytes = 64) := by decide +kernel
/-- R256: a copy from global memory. -/
theorem test_cpy_global : nextIs (exec (.engineCommandComplete 0 1 1) ((queued 1 (cmd (.cpy eh { ca with dkind := true })
    [0x100, 0x20000, 0x100000040, 0] true)).modMem fun m => { m with bytes := tsets 0 m.bytes 0x20001 [7] })) (fun t =>
      tget 0 (t.coreAt 0).spm 0x101 = 7 ∧ (t.coreAt 0).queue 1 = []) := by decide +kernel
/-- A CPYT whose bytes have been moved; its declaration, not published yet or published. -/
def publishing (published : List (Nat × Nat)) : State :=
  let x := { cmd (.cpyt eh { ca with dkind := true }) [0x100, 0x20000, 0x100000040, 0] true with progress := 64 }
  let s := ((queued 1 x).setBlock 0 (some { homeBlock with lb := { homeBlock.lb with decls := [decl1] }, published := published }))
  s.modWork fun w => { w with bufs := [⟨0, 3, false, 1, false, 2, [], [], [], []⟩] }
theorem wit_engineCompletes_publish :
    let x := { cmd (.cpyt eh { ca with dkind := true }) [0x100, 0x20000, 0x100000040, 0] true with progress := 64 }
    let b : Block := { homeBlock with lb := { homeBlock.lb with decls := [decl1] } }
    startedIs (publishing []) 1 x = true ∧ (moveOf { ca with dkind := true } false 0x100 0x20000 0x100000040 0).total ≤ x.progress ∧
    (publishing []).ttAt x.tt = some bigTask ∧ (publishing []).blockAt bigTask.block = some b ∧ b.lb.decls[0]? = some decl1 ∧
    (publishing []).hasPublished bigTask.block bigTask.idx 0 = false ∧ (publishing [(0, 0)]).hasPublished bigTask.block bigTask.idx 0 = true ∧
    startedIs (publishing [(0, 0)]) 1 x = true ∧ (publishing []).reaches (dieOfCore 0) cd = true ∧
    okIs (((publishing []).modCore 0 (·.modCmd 1 x.id fun z => { z with progress := 128 })).engRead 0 0 decl1.desc 32) (fun _ s1 =>
      !(s1.work.buf 0 3).fresh && (s1.work.buf 0 3).live = BitVec.ofNat 8 decl1.gen && !(s1.work.buf 0 3).coarse &&
        decide (s1.work.entry 0 3 (decl1.key bigTask.g1 bigTask.g2 bigTask.g3) = none) && s1.work.trtFree ≠ 0 && s1.blockAt bigTask.block = some b) = true := by decide +kernel
/-- R258: a CPYT publishes as it completes. -/
theorem test_cpyt : nextIs (exec (.engineCommandComplete 0 1 1) (publishing [])) (fun t =>
    (t.work.buf 0 3).count = 3 ∧ t.hasPublished 0 0 0 = true ∧ (t.coreAt 0).queue 1 = []) := by decide +kernel
/-- A WSTRM of one tile from a stream at 0x20000: one run of 128 zero blocks. -/
def streaming1 : State :=
  (queued 5 (cmd (.wstrm eh ⟨0, 2, 0, 0, 8⟩) [0x20000] true)).modMem fun m => { m with bytes := tsets 0 m.bytes 0x20000 (leBytes 2 0x807F) }
theorem wit_engineCompletes_weights :
    startedIs streaming1 5 (cmd (.wstrm eh ⟨0, 2, 0, 0, 8⟩) [0x20000] true) = true ∧ (streaming1.coreAt 0).side ≤ 1 ∧
    (let d := streaming1.decodeStream ⟨0, 0, 0x20000⟩ ⟨0, 2, 0, 0, 8⟩
     d.fault.isNone && d.waits.isNone && d.rows.length = 64 && d.rows.all fun r => r.1.length = 128) = true := by decide +kernel
/-- R253, R254: parts of a stream, one of a zero run and one of a run of data, and a 2:4 record. -/
theorem wit_engineCompletes_stream :
    let src : Source := ⟨0, 0, 0x20000⟩
    okIs (streaming1.stream src 0 128) (fun _ _ => true) = true ∧ okIs (streaming1.stream src 0 (64 + 128 / 4)) (fun x _ => (sparseRow 4 x.1).isNone) = true ∧
    okIs (streaming1.stream src 0 2) (fun x s1 => leNat x.1 % 32768 + 1 = 128 ∧ 32768 ≤ leNat x.1 ∧ okIs (s1.stream src 2 64) (fun _ _ => true)) = true ∧
    okIs (streaming1.stream src 64 2) (fun x s1 => leNat x.1 % 32768 + 1 ≤ 1 ∧ leNat x.1 < 32768 ∧ okIs (s1.stream src 66 64) (fun _ _ => true)) = true ∧
    (List.replicate 64 (0 : Byte) ++ List.replicate 32 0x44).length = 64 + 128 / 4 ∧
    (sparseRow 4 (List.replicate 64 0 ++ List.replicate 32 0x44)).isSome = true := by decide +kernel
theorem wit_engineCompletes_arrives :
    let s := eon.modCore 0 fun c => { c with arriving := [cmd (.sfjExp { eh with ssem := 4, sinc := 1 } 8) [0x20000] true] }
    s.reaches sfd (dieOfCore 0) = true ∧
    ((s.modLink 24 fun x => { x with pause := true }).modLink 0 fun x => { x with pause := true }).reaches sfd (dieOfCore 0) = false := by decide +kernel
theorem wit_engineCompletes_segment :
    okIs (copyRows.segRead 0 0 (moveOf { ca with skind := true, dkind := true } false 0x100 0x1000 0x200000040 0x8000000040) 1) (fun b s1 =>
      okIs (s1.segWrite 0 0 (moveOf { ca with skind := true, dkind := true } false 0x100 0x1000 0x200000040 0x8000000040) 1 b.1 b.2) fun _ _ => true) = true := by
  decide +kernel
/-- SIGNAL records: a threshold of 2 on semaphore 3, served, short of its count, and behind another waiter. -/
theorem wit_chains_signal :
    chainIs [4, 3, 2, 5, 1] (.signal 3 2 5 1) = true ∧
    (let s (n : Nat) := (chainAt [4, 3, 2, 5, 1]).modCore 0 (·.modSync fun c => c.setSem 3 ⟨n, false⟩)
     ((s 2).coreAt 0).sem 3 = ⟨2, false⟩ ∧ ((s 1).coreAt 0).sem 3 = ⟨1, false⟩ ∧ semNum 0 3 = 3 ∧ semNum 0 5 = 5 ∧
     tget [] ((s 2).coreAt 0).sync.waiters 3 = [] ∧ (((s 2).coreAt 0).sem 5) = ⟨0, false⟩ ∧ 3 < 128 ∧
     tget [] (((s 2).modCore 0 (·.modSync fun x => x.join 3 1 (.strand 0))).coreAt 0).sync.waiters 3 = [(.strand 0, 1)]) := by decide +kernel
/-- R151, R259: a SIGNAL of threshold 2 on a count of 2 takes it, signals, and the chain goes on. -/
theorem test_chain_signal : nextIs (exec (.chainSignal 0 0) ((chainAt [4, 3, 2, 5, 1]).modCore 0 (·.modSync fun c => c.setSem 3 ⟨2, false⟩))) (fun t =>
    ((t.coreAt 0).sem 3).count = 0 ∧ ((t.coreAt 0).sem 5).count = 1 ∧
      (((t.coreAt 0).queue 1).map fun x => x.chain.map (·.at_)) = [some 0x140]) := by decide +kernel

/-! Scheduling, the clock, frontiers and memory. -/

/-- A graph that has ended and whose tile task still drains, and one that nothing of it holds back. -/
theorem wit_completion_drains :
    let y (addr : W64) : Graph := ⟨0, 0, 0x20000, 7, .killSelf, addr, [task1 1 .done []], false, some (true, 8)⟩
    let s := (on { st0 with ended := true }).setGraph 0 (some (y 0x30000))
    s.graphAt 0 = some (y 0x30000) ∧ (y 0x30000).doneAddr ≠ 0 ∧
    (s.setTt 0 (some { homeTask with graph := some 0 })).graphDrains 0 = true ∧ (doneGraph 0x30000).graphDrains 1 = false ∧
    ((cut.setGraph 1 (some (y 0x30000))).cdHeld 0 0x30000 8 .write) = true := by decide +kernel
theorem wit_stealing_reaches :
    let s := placed [5]
    s.reaches 7 0 = true ∧
    (let t := s.modLink 23 fun x => { x with pause := true }
     t.maySteal 7 = true ∧ t.victims 7 (t.dispAt 7).asked = 0 :: [1, 2, 3, 4, 5, 6] ∧ t.reaches 7 0 = false) ∧
    (let t := s.modDisp 0 fun d => { d with requests := [7] }
     t.reaches 0 7 = true ∧ t.coresOf 7 ≠ [] ∧
     (t.modLink 23 fun x => { x with pause := true }).reaches 0 7 = false) ∧
    (let t := { s with cpres := tset 0 s.cpres 3 0xFFFFFFFF }.modDisp 0 fun d => { d with requests := [7] }
     t.coresOf 7 = [] ∧ t.reaches 0 7 = true) := by decide +kernel
theorem wit_packageClock_domain : (State.reset.host.cfg.domain = State.reset.host.cfg.domain) ∧ State.reset.host.cfg.domain + 1 ≠ State.reset.host.cfg.domain := by
  decide +kernel
theorem wit_frontiers_reaches : State.reset.reaches 2 3 = true ∧
    (State.reset.modLink 18 fun x => { x with pause := true }).reaches 2 3 = false := by decide +kernel
theorem wit_loadsBind_reaches :
    let s := loading (.nb 9 4 0) 2
    s.reaches (dieOfCore (coreOfStrand 0)) (sliceOf 0x20000).1 = true ∧ s.dueParts (sliceOf 0x20000) = false := by decide +kernel
/-- Three queued parts: the second of least time. -/
theorem wit_storesPerform_order :
    let part (t : W64) (b : Byte) : PmPart := ⟨t, 0x20000, [b], [true], false, 0⟩
    let q := [part 9 1, part 4 2, part 4 3]
    let k := sliceKey (0, 1024 % 80)
    let s := base.modMem fun m => { m with pmq := [(k, q)] }
    tget [] s.mem.pmq k = [part 9 1] ++ part 4 2 :: [part 4 3] ∧ (∀ y ∈ [part 9 1], (4 : W64).toNat < y.p.toNat) ∧
    (∀ y ∈ [part 4 3], (4 : W64).toNat ≤ y.p.toNat) ∧ s.mem.discards 0x20000 = false ∧ s.pt 0 < (4 : W64).toNat ∧
    (4 : W64).toNat ≤ (s.modTime fun t => { t with pt := [(0, 4)] }).pt 0 := by decide +kernel
/-- R61: of three parts the one of least time is performed first, in the order of their acceptance. -/
theorem test_postmark_order :
    let part (t : W64) (b : Byte) : PmPart := ⟨t, 0x20000, [b], [true], false, 0⟩
    nextIs (exec (.postmarkPerform 0 64) ((base.modMem fun m => { m with pmq := [(sliceKey (0, 64), [part 9 1, part 4 2, part 4 3])] }).modTime
      fun t => { t with pt := [(0, 9)] })) (fun t => t.mem.byteAt 0x20000 = 2 ∧
        (tget [] t.mem.pmq (sliceKey (0, 64))).map (·.data) = [[1], [3]]) := by decide +kernel

/-! Failing memory, pre-emption, contexts, debug, energy, the ports and the step. -/

theorem wit_commitsEnd_frames : lazy.mem.discards 0x80000000 = false ∧
    (∀ c ∈ (txn1 1 0).stored, (on st0).mem.discards (c.1 * 64) = false) := by decide +kernel
theorem wit_memoryFailures_frames : (channelOf 0x20000).isSome ∧ retiring.mem.discards 0x20000 = false ∧ 0x10000 ≠ 0x20000 ∧
    ((retiring.zeroFrame 0x20000 65536).modMem fun m => { m with pool := tset [] m.pool 0 [] }).allEntries = [] := by decide +kernel
/-- A strand with a REL that waits for an engine command, and a store on either side of it. -/
def behind : Strand := { st0 with
  sq := [⟨.plain, 0x20000, [⟨0, 0x20000, 4, 2⟩], 7, 0xF, false, 0, 1, 0, none⟩, ⟨.plain, 0x20004, [⟨0, 0x20004, 4, 2⟩], 7, 0xF, false, 0, 2, 1, none⟩]
  rels := [⟨1, 6, false⟩], sn := 2 }
theorem wit_preemptRequests_again :
    let x := cmd (.cpy eh { ca with dkind := true }) [0x100, 0x20000, 0x100000040, 0] false
    let s := ((asked .switch 0 behind).modCore 0 fun c => c.setQueue 1 [x])
    s.strandAt 0 = some behind ∧ behind.txn = none ∧ behind.ended = false ∧ behind.stop = none ∧
    (behind.sq.filter (behind.behindRel (s.cmdsOf 0))).length = 1 ∧ (behind.rels.filter fun r => r.stuck (s.cmdsOf 0)).length = 1 := by decide +kernel
/-- R209, R297: the REL and the store behind it are left for the resumption, and the store before it stays in the queue. -/
theorem test_rel_again :
    let x := cmd (.cpy eh { ca with dkind := true }) [0x100, 0x20000, 0x100000040, 0] false
    nextIs (exec (.graceExpiry 0) ((asked .switch 0 behind).modCore 0 fun c => c.setQueue 1 [x])) (fun t =>
      (t.strandAt 0).map (fun st => (st.sq.map (·.sn), st.sqAgain.map (·.sn), st.rels.length, st.relAgain.map (·.sn))) = some ([0], [1], 0, [1])) := by
  decide +kernel
theorem wit_saves_range :
    let s := asked .switch 0 stopped0
    s.saveMeets 0 (s.heapBase 0 + homeTask.heapAt) (2 ^ 20) = false ∧
    s.saveMeets 0 (s.heapBase 0 + saved1.heapAt) saved1.size = false ∧ s.reachesAll (dieOfCore 0) (s.heapBase 0 + saved1.heapAt) saved1.size = true ∧
    (∀ x ∈ saved1.strands, x.2.lq = []) := by decide +kernel
theorem wit_contexts_reaches : timeSet.reachesAll 9 init1.area 4096 = true ∧
    ((timeSet.modLink 0 fun x => { x with pause := true }).mayCreate 3 init1 = true ∧
     (timeSet.modLink 0 fun x => { x with pause := true }).reachesAll 9 init1.area 4096 = false) ∧
    (let s := base.modMem fun m => { m with areas := [(0, 0x100000)] }
     s.reachesAll 9 ((tget 0 s.mem.areas 0).toNat + 0x14) 4 = true) ∧ homeCtx.flogWait = [] := by decide +kernel
theorem wit_debugRequests_dump :
    let s := (dbgState.setTt 0 none).modMem fun m => { m with areas := [(0, 0x100000)] }
    s.rangeHeld false 0x100000 4096 = false ∧ s.rangeHeld false (0x100000 + homeCtx.flogOff) (64 * homeCtx.flogCap) = false ∧
    s.rangeHeld false (0x100000 + homeCtx.spillOff) (16 * homeCtx.spillCap) = false ∧ s.work.saved = [] ∧
    (s.modLink 0 fun x => { x with pause := true }).rangeHeld false 0x100000 4096 = true := by decide +kernel
theorem wit_plan_leaves :
    let s := ((graded 5000 1).modEnergy fun e => { e with above := [(1, some 0)], noted := 10000000 }).modTime fun t => { t with pt := [(9, 10000000)] }
    (tget none s.noteAbove.energy.above 1 = some 0 ∧ 0 + 10000000 ≤ s.pt 9 ∧ ¬ 100 * s.curveAt (s.pt 9) < 102 * s.threshold 1 (s.pt 9)) ∧
    (let u := s.modEnergy fun e => { e with above := [(1, some 1)] }
     tget none u.noteAbove.energy.above 1 = some 1 ∧ u.pt 9 < 1 + 10000000) ∧
    (let u := s.modEnergy fun e => { e with curve := some (curve1 301) }
     tget none u.noteAbove.energy.above 1 = some 0 ∨ 100 * u.curveAt (u.pt 9) < 102 * u.threshold 1 (u.pt 9)) ∧
    (tget none (s.modEnergy fun e => { e with curve := some (curve1 301), above := [(1, none)] }).energy.above 1 = none) ∧
    tget none s.energy.above 1 = some 0 ∧ s.energy.noted ≤ s.pt 9 ∧ ∀ i, s.energy.noted ≤ i → i ≤ s.pt 9 → 102 * s.threshold 1 i ≤ 100 * s.curveAt i := by
  refine ⟨by decide +kernel, by decide +kernel, by decide +kernel, by decide +kernel, by decide +kernel, by decide +kernel, fun i h1 h2 => ?_⟩
  have h : i = 10000000 := Nat.le_antisymm h2 h1
  subst h
  decide +kernel
/-- The header of a management datagram. -/
def datagram (ty seq : Nat) (data : List Byte) : List Byte :=
  leBytes 4 0x4B4D4731 ++ leBytes 2 ty ++ leBytes 2 0 ++ leBytes 4 seq ++ leBytes 4 data.length ++ data
theorem wit_curveRecords_datagrams : (datagram 1 7 [9]).length = 17 ∧ ([] : List Byte).length < 16 ∧
    leNat (((datagram 3 7 [9]).drop 4).take 2) ≠ 1 ∧ leNat (((datagram 1 7 [9] ++ [0]).drop 12).take 4) ≠ (datagram 1 7 [9] ++ [0]).length - 16 ∧
    State.reset.checkCurve [9] = .inl 1 ∧ 7 < 2 ^ 32 ∧ (datagram 3 7 (leBytes 4 0 ++ leBytes 4 0 ++ zeros 32)).length = 56 := by decide +kernel
/-- R345: a datagram of type 1 is answered, with the sequence of its header; one with a byte too many is discarded. -/
theorem test_datagram : nextIs (exec (.curveRecord ((datagram 1 7 [9]).take 16) [9] 4) State.reset) (fun t => t.host.sent = [.curveReply 4 7 1 0]) ∧
    nextIs (exec (.curveRecord (datagram 1 7 [9]) [0] 4) State.reset) (fun t => t.host.sent = []) := by decide +kernel
theorem wit_curveRecords_newer :
    let s (l : List Curve) : State := State.reset.modEnergy fun e => { e with curve := some (curve1 5000), pending := l }
    (s []).curveIn 7 = some (curve1 5000) ∧ (s [{ curve1 700 with seq := 6, effect := 100 }]).curveIn 7 = some (curve1 5000) ∧
    (curve1 5000).seq < { curve1 700 with seq := 6, effect := 100 }.seq ∧ (curve1 5000).validTo < 10 ^ 12 + 1 := by decide +kernel
/-- A package whose CFGCMD is busy with a command on a staging area at 0x20000, with a nonzero byte at offset 9 or not. -/
def stagedAt (cmd : W64) (b : Byte) : State := (cfgBusy (cmd + 0x20000)).modMem fun m => { m with bytes := tsets 0 m.bytes 0x20009 (if b = 0 then [] else [b]) }
theorem wit_configuration_padding :
    (stagedAt 1 1).host.cfgcmd = 0x20001 ∧ (0x20001 : W64).toNat % 16 = 1 ∧ (0x20001 : W64).toNat / 64 % 2 ^ 46 * 64 = 0x20000 ∧
    (stagedAt 2 1).host.cfgcmd = 0x20002 ∧ (stagedAt 1 1).stagingHeld 0x20000 = false ∧ (stagedAt 2 1).stagingHeld 0x20000 = false ∧
    ((stagedAt 1 1).staged (0x20000 + 4) 60)[5]? = some 1 ∧ (stagedAt 1 0).staged (0x20000 + 4) 60 = zeros 60 := by decide +kernel
/-- R344: bytes beside the length that are not 0 fail the first check. -/
theorem test_configuration_padding : nextIs (exec .cfgCommandDone (stagedAt 1 1)) (fun t => t.host.cfgstate = 3 ∧ t.host.cfgstep = 1) := by decide +kernel
theorem wit_stepRuns_stray : st0.ctlFetch = false ∧
    (let s : State := { stepWord with agenda := [⟨0, 0, .stray 0 0x8040 2, 0⟩] }
     s.energy.powered = true ∧ s.turn.act = .stray 0 0x8040 2 ∧ nextIs (step s) (fun _ => true) = true) := by decide +kernel

end Sys2Proof.Tests
end

-- ==== Proofs: the canonical form of memory (O59) ====
section

/-! PROOF. Every step keeps memory in canonical form (R7, R114): one lemma for each function of the model that answers a state, in
the order in which the model defines them. A lemma `State.Inv.f` says that `State.f` keeps the canonical form, so a composition of
functions is proved by the composition of their lemmas (`h.modCore.touchL2`). -/

namespace Sys2Proof.Machine

/-- Memory is in canonical form in the state that an access leaves, whatever it answers. -/
def Res.Inv {α : Type} : Res α → Prop
  | .ok _ s => s.Inv
  | .trap _ _ s => s.Inv
  | .wait s => s.Inv

/-- Memory is in canonical form in the state that a meaning answers, if it answers one. -/
def Out.Inv : Out → Prop
  | .next s => s.Inv
  | .fault _ => True
  | .refused _ => True

/-- Memory is in canonical form in the state that a fetch leaves. -/
def Found.Inv : Found → Prop
  | .word _ _ s => s.Inv
  | .fault _ _ s => s.Inv
  | .wait _ s => s.Inv

/-- Memory is in canonical form in the state that a member of a group leaves. -/
def Did.Inv : Did → Prop
  | .issued s _ => s.Inv
  | .waits _ s => s.Inv
  | .trapped _ _ s => s.Inv
  | .ended s => s.Inv

/-- Memory is in canonical form in the state that a conductor word leaves, if it leaves one. -/
def WordDid.Inv : WordDid → Prop
  | .done s _ => s.Inv
  | .waits _ _ => True
  | .trapped _ _ => True

/-- Memory is in canonical form in the state that a selection leaves, if it leaves one. -/
def Choice.Inv : Choice → Prop
  | .done s => s.Inv
  | .blocked s => s.Inv
  | .skip => True
theorem Res.Inv.ok {α : Type} {r : Res α} (h : r.Inv) {a : α} {s : State} (e : r = .ok a s) : s.Inv := by subst e; exact h

theorem Res.Inv.trap {α : Type} {r : Res α} (h : r.Inv) {c : Cause} {x : Rec} {s : State} (e : r = .trap c x s) : s.Inv := by
  subst e; exact h

theorem Res.Inv.wait {α : Type} {r : Res α} (h : r.Inv) {s : State} (e : r = .wait s) : s.Inv := by subst e; exact h
theorem Res.Inv.ok_of {α : Type} {r : Res α} {a : α} {s : State} (e : r = .ok a s) (h : r.Inv) : s.Inv := h.ok e
theorem Res.Inv.trap_of {α : Type} {r : Res α} {c : Cause} {x : Rec} {s : State} (e : r = .trap c x s) (h : r.Inv) : s.Inv := h.trap e
theorem Res.Inv.wait_of {α : Type} {r : Res α} {s : State} (e : r = .wait s) (h : r.Inv) : s.Inv := h.wait e

theorem Found.Inv.word {r : Found} (h : r.Inv) {i : Instr} {n : Nat} {s : State} (e : r = .word i n s) : s.Inv := by
  subst e; exact h

theorem Found.Inv.fault {r : Found} (h : r.Inv) {c : Cause} {x : Rec} {s : State} (e : r = .fault c x s) : s.Inv := by
  subst e; exact h

theorem Found.Inv.wait {r : Found} (h : r.Inv) {b : Bool} {s : State} (e : r = .wait b s) : s.Inv := by subst e; exact h
theorem Did.Inv.issued {r : Did} (h : r.Inv) {t : Option W64} {s : State} (e : r = .issued s t) : s.Inv := by subst e; exact h

theorem Did.Inv.waits {r : Did} (h : r.Inv) {t : Option (Nat × Nat)} {s : State} (e : r = .waits t s) : s.Inv := by
  subst e; exact h

theorem Did.Inv.trapped {r : Did} (h : r.Inv) {c : Cause} {x : Rec} {s : State} (e : r = .trapped c x s) : s.Inv := by
  subst e; exact h

theorem Did.Inv.ended {r : Did} (h : r.Inv) {s : State} (e : r = .ended s) : s.Inv := by subst e; exact h
theorem Out.Inv.next {r : Out} (h : r.Inv) {s : State} (e : r = .next s) : s.Inv := by subst e; exact h
theorem WordDid.Inv.done {r : WordDid} (h : r.Inv) {t : Option W64} {s : State} (e : r = .done s t) : s.Inv := by subst e; exact h
theorem Choice.Inv.done {r : Choice} (h : r.Inv) {s : State} (e : r = .done s) : s.Inv := by subst e; exact h
theorem Choice.Inv.blocked {r : Choice} (h : r.Inv) {s : State} (e : r = .blocked s) : s.Inv := by subst e; exact h

/-- A state with the same bytes of memory. -/
theorem State.Inv.congr {s t : State} (h : s.Inv) (e : t.mem.bytes = s.mem.bytes) : t.Inv :=
  (congrArg (tok (0 : Byte)) e).trans h

/-- Memory changed beside its bytes. -/
theorem State.Inv.modMem {s : State} {f : MemState → MemState} (h : s.Inv) (e : (f s.mem).bytes = s.mem.bytes) :
    (s.modMem f).Inv :=
  State.Inv.congr h e

theorem State.Inv.of_fst {α : Type} {p : State × α} (h : p.1.Inv) {a : α} {s : State} (e : p = (s, a)) : s.Inv := by subst e; exact h
theorem State.Inv.of_snd {α : Type} {p : α × State} (h : p.2.Inv) {a : α} {s : State} (e : p = (a, s)) : s.Inv := by subst e; exact h

theorem State.Inv.ite {c : Prop} [Decidable c] {a b : State} (ha : a.Inv) (hb : b.Inv) : (if c then a else b).Inv := by
  split
  · exact ha
  · exact hb

theorem Res.Inv.ite {α : Type} {c : Prop} [Decidable c] {a b : Res α} (ha : a.Inv) (hb : b.Inv) : (if c then a else b).Inv := by
  split
  · exact ha
  · exact hb

/-- A list of steps that each keep the canonical form keeps it. -/
theorem State.Inv.foldl {β : Type} {f : State → β → State} {l : List β} {s : State} (h : s.Inv)
    (hf : ∀ s x, s.Inv → (f s x).Inv) : (l.foldl f s).Inv := by
  induction l generalizing s with
  | nil => exact h
  | cons x l ih => exact ih (hf s x h)

/-- A write of locks leaves the bytes of memory. -/
theorem setLocks_bytes (m : MemState) (p : Part) (v : BitVec 4) : (m.setLocks p v).bytes = m.bytes := by
  have all : ∀ (gs : List Nat) (m : MemState), (gs.foldl (fun m g => m.setLock (g * 32) v) m).bytes = m.bytes := by
    intro gs
    induction gs with
    | nil => exact fun _ => rfl
    | cons g gs ih => exact fun m => ih (m.setLock (g * 32) v)
  unfold MemState.setLocks
  split
  · rfl
  · exact all _ _

/-- A byte written to BAR 1 leaves the bytes of memory. -/
theorem setBar1_bytes (m : MemState) (a : Nat) (b : Byte) : (m.setBar1 a b).bytes = m.bytes := by
  unfold MemState.setBar1
  split_ifs <;> rfl

/-- Bytes written to BAR 1 leave the bytes of memory. -/
theorem foldl_setBar1_bytes (l : List (Byte × Nat)) (off : Nat) (m : MemState) :
    (l.foldl (fun m x => m.setBar1 (off + x.2) x.1) m).bytes = m.bytes := by
  induction l generalizing m with
  | nil => rfl
  | cons x l ih => exact (ih _).trans (setBar1_bytes m _ _)

variable {s : State}

/-! Functions of Machine/State.lean. -/

theorem reset_inv : State.reset.Inv := wf_reset

/-! Functions of Machine/Base.lean. -/

theorem State.Inv.setStrand {n st} (h : s.Inv) : (s.setStrand n st).Inv := h

theorem State.Inv.modStrand {n f} (h : s.Inv) : (s.modStrand n f).Inv := by
  unfold State.modStrand
  split
  · exact h.setStrand
  · exact h

theorem State.Inv.setCore {c x} (h : s.Inv) : (s.setCore c x).Inv := h
theorem State.Inv.modCore {c f} (h : s.Inv) : (s.modCore c f).Inv := h.setCore
theorem State.Inv.setCtx {c x} (h : s.Inv) : (s.setCtx c x).Inv := h

theorem State.Inv.modCtx {c f} (h : s.Inv) : (s.modCtx c f).Inv := by
  unfold State.modCtx
  split
  · exact h.setCtx
  · exact h

theorem State.Inv.modWork {f} (h : s.Inv) : (s.modWork f).Inv := h
theorem State.Inv.modTime {f} (h : s.Inv) : (s.modTime f).Inv := h
theorem State.Inv.modEnergy {f} (h : s.Inv) : (s.modEnergy f).Inv := h
theorem State.Inv.modHost {f} (h : s.Inv) : (s.modHost f).Inv := h
theorem State.Inv.modDebug {f} (h : s.Inv) : (s.modDebug f).Inv := h
theorem State.Inv.setTt {t x} (h : s.Inv) : (s.setTt t x).Inv := h.modWork

theorem State.Inv.modTt {t f} (h : s.Inv) : (s.modTt t f).Inv := by
  unfold State.modTt
  split
  · exact h.setTt
  · exact h

theorem State.Inv.setBlock {b x} (h : s.Inv) : (s.setBlock b x).Inv := h.modWork

theorem State.Inv.modBlock {b f} (h : s.Inv) : (s.modBlock b f).Inv := by
  unfold State.modBlock
  split
  · exact h.setBlock
  · exact h

theorem State.Inv.setGraph {g x} (h : s.Inv) : (s.setGraph g x).Inv := h.modWork

theorem State.Inv.modGraph {g f} (h : s.Inv) : (s.modGraph g f).Inv := by
  unfold State.modGraph
  split
  · exact h.setGraph
  · exact h

theorem State.Inv.modTask {g t f} (h : s.Inv) : (s.modTask g t f).Inv := h.modGraph
theorem State.Inv.setCond {k x} (h : s.Inv) : (s.setCond k x).Inv := h.modWork
theorem State.Inv.modCond {k f} (h : s.Inv) : (s.modCond k f).Inv := h.setCond
theorem State.Inv.setStream {i x} (h : s.Inv) : (s.setStream i x).Inv := h.modWork
theorem State.Inv.modStream {i f} (h : s.Inv) : (s.modStream i f).Inv := h.setStream
theorem State.Inv.modDisp {d f} (h : s.Inv) : (s.modDisp d f).Inv := h.modWork
theorem State.Inv.modLink {l f} (h : s.Inv) : (s.modLink l f).Inv := h

theorem State.Inv.modMe {f} (h : s.Inv) : (s.modMe f).Inv := by
  unfold State.modMe
  split
  · exact h.modStrand
  · exact h

theorem State.Inv.setG {d v t} (h : s.Inv) : (s.setG d v t).Inv := by
  unfold State.setG
  split
  · exact h.modStrand
  · exact State.Inv.ite h h.modCond

theorem State.Inv.issued (h : s.Inv) : s.issued.Inv := h
theorem State.Inv.goTo {t} (h : s.Inv) : (s.goTo t).Inv := h
theorem State.Inv.holds (h : s.Inv) : s.holds.Inv := h
theorem State.Inv.waitsAt {sem} (h : s.Inv) : (s.waitsAt sem).Inv := h.modMe
theorem State.Inv.whenReady {rs} {k : State} (h : s.Inv) (hk : k.Inv) : (s.whenReady rs k).Inv := State.Inv.ite h.holds hk

theorem Res.Inv.andThen {α β : Type} {x : Res α} {f : α → State → Res β} (hx : x.Inv) (hf : ∀ a s, s.Inv → (f a s).Inv) :
    (x.andThen f).Inv := by
  cases x with
  | ok a s => exact hf a s hx
  | trap c r s => exact hx
  | wait s => exact hx

/-! Functions of Machine/Home.lean. -/

theorem State.Inv.touchChannel {pa} (h : s.Inv) : (s.touchChannel pa).Inv := by
  unfold State.touchChannel
  split
  · exact State.Inv.modMem h rfl
  · exact h

theorem State.Inv.touchL2 {ctx pa dirty} (h : s.Inv) : (s.touchL2 ctx pa dirty).Inv := by
  obtain ⟨w, c, r, e⟩ := touchL2_frame s ctx pa dirty
  rw [e]
  exact h

theorem State.Inv.touchParts {ctx ps} (h : s.Inv) : (s.touchParts ctx ps).Inv := h.foldl (fun _ _ h1 => h1.touchL2)
theorem State.Inv.touchLines {a n} (h : s.Inv) : (s.touchLines a n).Inv := h.foldl (fun _ _ h1 => State.Inv.ite h1.touchL2 h1)
theorem State.Inv.dropL1 {core line} (h : s.Inv) : (s.dropL1 core line).Inv := h.modCore
theorem State.Inv.dropRdc {die line} (h : s.Inv) : (s.dropRdc die line).Inv := State.Inv.modMem h rfl
theorem State.Inv.dropCopies {core line} (h : s.Inv) : (s.dropCopies core line).Inv := h.dropL1.dropRdc
theorem State.Inv.fillRdc {die ctx line c} (h : s.Inv) : (s.fillRdc die ctx line c).Inv := State.Inv.modMem h rfl
theorem State.Inv.useRdc {die ctx line} (h : s.Inv) : (s.useRdc die ctx line).Inv := State.Inv.modMem h rfl

theorem State.Inv.dieRead {die ctx cache pa n drop} (h : s.Inv) : (s.dieRead die ctx cache pa n drop).2.Inv := by
  unfold State.dieRead
  dsimp only
  split
  · exact h.useRdc
  · exact State.Inv.ite h.touchL2.fillRdc h.touchL2

theorem State.Inv.coreRead {core ctx cache pa n dropL dropR pick} (h : s.Inv) :
    (s.coreRead core ctx cache pa n dropL dropR pick).2.Inv := by
  unfold State.coreRead
  extract_lets line
  split
  · exact h
  split
  · exact h.dieRead.modCore
  · exact h.dieRead

theorem State.Inv.updateCopies {core die pa bs tag} (h : s.Inv) : (s.updateCopies core die pa bs tag).Inv := by
  unfold State.updateCopies
  split
  · exact State.Inv.modMem h.modCore rfl
  · exact State.Inv.modMem h rfl

theorem State.Inv.fireMonitor {n op d} (h : s.Inv) : (s.fireMonitor n op d).Inv := by
  unfold State.fireMonitor
  split
  · exact h.modStrand.dropCopies
  · exact h

theorem State.Inv.wake {pa n} (h : s.Inv) : (s.wake pa n).Inv := by
  unfold State.wake
  refine h.foldl (fun s1 x h1 => ?_)
  split
  · split
    · split
      · exact State.Inv.ite h1.fireMonitor h1
      · exact h1
    · exact h1
  · exact h1

theorem State.Inv.homeWrite {ctx pa bs tag} (h : s.Inv) : (s.homeWrite ctx pa bs tag).Inv :=
  State.Inv.wake (State.Inv.touchL2 (wf_write _ _ _ h))

theorem State.Inv.homeWriteAll {ctx pa bs tag} (h : s.Inv) : (s.homeWriteAll ctx pa bs tag).Inv :=
  h.foldl (fun _ _ h1 => h1.homeWrite)

theorem State.Inv.homeWrite8 {ctx pa v} (h : s.Inv) : (s.homeWrite8 ctx pa v).Inv := h.homeWrite

/-! Functions of Machine/Walk.lean. -/

theorem State.Inv.touchWalk {ctx va root} (h : s.Inv) : (s.touchWalk ctx va root).Inv := h.foldl (fun _ _ h1 => h1.touchL2)
theorem State.Inv.zeroFrame {pa n} (h : s.Inv) : (s.zeroFrame pa n).Inv := wf_zeroFrame pa n h

theorem State.Inv.commit {ctx lvl at_ e} (h : s.Inv) : (s.commit ctx lvl at_ e).Inv := by
  unfold State.commit
  split
  · exact h
  · refine Res.Inv.ite h ?_
    dsimp only
    split
    · exact h
    · exact State.Inv.setCtx (State.Inv.homeWrite8 (State.Inv.modMem h.zeroFrame rfl))

theorem State.Inv.noteWalk {ctx at_} (h : s.Inv) : (s.noteWalk ctx at_).Inv := h

theorem State.Inv.translate {core ctx ptr need fresh} (h : s.Inv) : (s.translate core ctx ptr need fresh).Inv := by
  unfold State.translate
  extract_lets p va hit
  refine Res.Inv.ite h ?_
  split
  · exact h
  extract_lets root u
  refine Res.Inv.ite h ?_
  split
  · exact Res.Inv.ite h h
  refine Res.Inv.ite h ?_
  have hu : u.Inv := h.touchWalk
  split
  · exact hu
  refine Res.Inv.ite hu (Res.Inv.ite hu ?_)
  extract_lets r
  have hr : r.Inv := Res.Inv.ite hu.commit hu
  clear_value r
  split
  · exact hr
  · exact hr
  next e v =>
    have hv : v.Inv := hr
    cases core with
    | none => exact State.Inv.ite hv hv.homeWrite8.noteWalk
    | some k => exact State.Inv.modCore (State.Inv.ite hv hv.homeWrite8.noteWalk)

theorem State.Inv.translateAll {core ctx ptr need fresh l} (h : s.Inv) : (s.translateAll core ctx ptr need fresh l).Inv := by
  induction l generalizing s with
  | nil => exact h
  | cons x xs ih =>
    unfold State.translateAll
    dsimp only
    split
    next e => exact h.translate.trap e
    next e => exact h.translate.wait e
    next e =>
      refine Res.Inv.ite (h.translate.ok e) ?_
      split
      next e1 => exact Res.Inv.trap_of e1 (ih (h.translate.ok e))
      next e1 => exact Res.Inv.wait_of e1 (ih (h.translate.ok e))
      next e1 => exact Res.Inv.ok_of e1 (ih (h.translate.ok e))

theorem State.Inv.access {core ctx ptr n need fresh} (h : s.Inv) : (s.access core ctx ptr n need fresh).Inv := by
  unfold State.access
  refine Res.Inv.ite (State.Inv.modMem h rfl) ?_
  split
  next e => exact h.translateAll.trap e
  next e => exact h.translateAll.wait e
  next e =>
    split
    · exact h.translateAll.ok e
    · exact h.translateAll.ok e

theorem State.Inv.accessNoKey {core ctx ptr n need fresh} (h : s.Inv) : (s.accessNoKey core ctx ptr n need fresh).Inv := by
  unfold State.accessNoKey
  split
  next e => exact h.translateAll.trap e
  next e => exact h.translateAll.wait e
  next e => exact h.translateAll.ok e

theorem State.Inv.writeParts {ctx bs tag l} (h : s.Inv) : (s.writeParts ctx bs tag l).Inv := by
  induction l generalizing s with
  | nil => exact h
  | cons x xs ih => exact ih h.homeWrite

theorem State.Inv.endFrameWait {u} (h : s.Inv) : (s.endFrameWait u).Inv := State.Inv.modMem h rfl

/-- A unit that waits for a frame: what holds of its failure and of its wait, from a state in canonical form, holds. -/
theorem frameWait_inv {α : Type} {P : α → Prop} {u die} {fail wait : State → α} (h : s.Inv) (hfail : ∀ a, a.Inv → P (fail a))
    (hwait : ∀ a, a.Inv → P (wait a)) : P (s.frameWait u die fail wait) := by
  unfold State.frameWait
  split
  · split
    · exact hfail _ h.endFrameWait
    · exact hwait _ h
  · exact hwait _ (State.Inv.modMem h rfl)

theorem State.Inv.atIssue {α : Type} {ptr} {k : Res α} (h : s.Inv) (hk : k.Inv) : (s.atIssue ptr k).Inv := by
  unfold State.atIssue State.ctlTurn
  split
  · exact h.modMe
  · exact .ite h hk

theorem State.Inv.myAccess {ptr n need} (h : s.Inv) : (s.myAccess ptr n need).Inv := h.atIssue h.access
theorem State.Inv.unheld {ptr n} {k : State} (h : s.Inv) (hk : k.Inv) : (s.unheld ptr n k).Inv := State.Inv.ite h.holds hk

/-! Functions of Machine/Contain.lean. -/

theorem State.Inv.send {f} (h : s.Inv) : (s.send f).Inv := by
  unfold State.send
  split
  · exact h.modHost
  · exact h

theorem State.Inv.mEventWith {cause num detail} (h : s.Inv) : (s.mEventWith cause num detail).Inv := h.modTime.send
theorem State.Inv.mEvent {cause num} (h : s.Inv) : (s.mEvent cause num).Inv := h.mEventWith

theorem State.Inv.flogNow {ctx bs} (h : s.Inv) : (s.flogNow ctx bs).Inv := by
  unfold State.flogNow
  split
  · exact h
  · exact State.Inv.ite h.homeWrite.homeWrite h.homeWrite

theorem State.Inv.flog {ctx bs} (h : s.Inv) : (s.flog ctx bs).Inv := State.Inv.ite h.modCtx h.flogNow

theorem State.Inv.flushLog {ctx l} (h : s.Inv) : (s.flushLog ctx l).Inv := by
  induction l generalizing s with
  | nil => exact h.modCtx
  | cons x xs ih => exact State.Inv.ite h.modCtx (ih h.flogNow)

theorem State.Inv.logFault {f c r lvl pol} (h : s.Inv) : (s.logFault f c r lvl pol).Inv := h.flog
theorem State.Inv.unreserve {ctx n} (h : s.Inv) : (s.unreserve ctx n).Inv := h.modCtx

theorem State.Inv.endStrand {n} (h : s.Inv) : (s.endStrand n).Inv := by
  unfold State.endStrand
  split
  · exact h
  · dsimp only
    split
    · exact h.setStrand.modCore
    · exact h.setStrand.modCore.unreserve.modCore

theorem State.Inv.killTt {t retry} (h : s.Inv) : (s.killTt t retry).Inv := by
  unfold State.killTt
  split
  · exact h
  · exact State.Inv.modTt (State.Inv.modCore (h.foldl (fun _ _ h1 => h1.endStrand)))

theorem State.Inv.deliverSaved {v} (h : s.Inv) : (s.deliverSaved v).Inv := State.Inv.modMem h rfl
theorem State.Inv.discardSaved {tt v} (h : s.Inv) : (s.discardSaved tt v).Inv := h.deliverSaved.modCtx.modWork

theorem State.Inv.dropSaved {p} (h : s.Inv) : (s.dropSaved p).Inv := by
  unfold State.dropSaved
  refine h.foldl (fun s1 x h1 => ?_)
  split
  · exact State.Inv.ite h1 (State.Inv.ite h1.modTt h1.discardSaved)
  · exact h1

theorem State.Inv.memberDone {b} (h : s.Inv) : (s.memberDone b).Inv := by
  unfold State.memberDone
  split
  · exact State.Inv.ite h.modTime h
  · exact h

theorem State.Inv.killBlockTts {b} (h : s.Inv) : (s.killBlockTts b).Inv := by
  unfold State.killBlockTts
  refine State.Inv.modWork (State.Inv.dropSaved (h.foldl (fun s1 x h1 => ?_)))
  split
  · exact State.Inv.ite h1.killTt.modTt h1
  · exact h1

theorem State.Inv.writeSpill {ctx i r} (h : s.Inv) : (s.writeSpill ctx i r).Inv := by
  unfold State.writeSpill
  split
  · exact h
  · exact State.Inv.ite h (State.Inv.ite h.modCtx h.homeWriteAll)

theorem State.Inv.addSpill {ctx r} (h : s.Inv) : (s.addSpill ctx r).Inv := h.writeSpill.modCtx

theorem State.Inv.dropSpill {ctx p} (h : s.Inv) : (s.dropSpill ctx p).Inv := by
  unfold State.dropSpill
  split
  · exact h
  · exact State.Inv.ite h (State.Inv.modCtx (h.foldl (fun _ _ h1 => h1.writeSpill)))

theorem State.Inv.removeBlock {b} (h : s.Inv) : (s.removeBlock b).Inv := h.memberDone.dropSpill.setBlock
theorem State.Inv.killBlock {b} (h : s.Inv) : (s.killBlock b).Inv := h.killBlockTts.removeBlock

theorem State.Inv.killBlocks {p} (h : s.Inv) : (s.killBlocks p).Inv := by
  unfold State.killBlocks
  refine h.foldl (fun s1 x h1 => ?_)
  split
  · exact State.Inv.ite h1.killBlock h1
  · exact h1

theorem State.Inv.dropSuccessors {g t} (h : s.Inv) : (s.dropSuccessors g t).Inv := h.foldl (fun _ _ h1 => h1.dropSpill)
theorem State.Inv.endStreamWaits {g t} (h : s.Inv) : (s.endStreamWaits g t).Inv := State.Inv.modMem h rfl
theorem State.Inv.freeCond {k} (h : s.Inv) : (s.freeCond k).Inv := h.modCond.modWork

theorem State.Inv.stopTask {g t free} (h : s.Inv) : (s.stopTask g t free).Inv := by
  unfold State.stopTask
  extract_lets s1 s2 s3 s4
  have h4 : s4.Inv := h.killBlocks.dropSuccessors.endStreamWaits.modWork
  split
  · exact .ite h4.freeCond h4
  · exact h4

theorem State.Inv.makeReady {g t} (h : s.Inv) : (s.makeReady g t).Inv := by
  unfold State.makeReady
  split
  · exact h
  · exact State.Inv.ite h.modTask (State.Inv.ite h.modTask.modWork h.modTask.modWork)

theorem State.Inv.refillReady (h : s.Inv) : s.refillReady.Inv := by
  unfold State.refillReady
  split
  · exact State.Inv.ite h.modWork h
  · exact h

theorem State.Inv.unlist {g t} (h : s.Inv) : (s.unlist g t).Inv := h.modWork.refillReady

theorem State.Inv.decrement {g t} (h : s.Inv) : (s.decrement g t).Inv := by
  unfold State.decrement
  split
  · exact State.Inv.ite (State.Inv.ite h.modTask.makeReady h.modTask) h
  · exact h

theorem State.Inv.leaveQ {g t} (h : s.Inv) : (s.leaveQ g t).Inv := by
  unfold State.leaveQ
  split
  · exact State.Inv.ite h.modEnergy h
  · exact h

theorem State.Inv.taskDone {g t} (h : s.Inv) : (s.taskDone g t).Inv := by
  unfold State.taskDone
  split
  · exact h
  · exact State.Inv.ite h (h.leaveQ.modTask.unlist.foldl (fun _ _ h1 => h1.decrement))

theorem State.Inv.killTask {g t} (h : s.Inv) : (s.killTask g t).Inv := h.stopTask.taskDone

theorem State.Inv.stopGraph {g} (h : s.Inv) : (s.stopGraph g).Inv := by
  unfold State.stopGraph
  split
  · exact h
  · exact h.foldl (fun _ _ h1 => h1.leaveQ.stopTask.unlist)

theorem State.Inv.removeGraph {g} (h : s.Inv) : (s.removeGraph g).Inv := h.stopGraph.setGraph

theorem State.Inv.reapCtx {ctx} (h : s.Inv) : (s.reapCtx ctx).Inv := by
  unfold State.reapCtx
  split
  · exact State.Inv.ite h.setCtx h
  · exact h

theorem State.Inv.settleArea {ctx} (h : s.Inv) : (s.settleArea ctx).Inv := by
  unfold State.settleArea
  split
  · exact h
  · exact State.Inv.ite (State.Inv.foldl (State.Inv.modCtx (State.Inv.ite h h.flushLog.reapCtx)) (fun _ _ h1 => h1.writeSpill))
      (State.Inv.ite h h.flushLog.reapCtx)

theorem State.Inv.settleAreas (h : s.Inv) : s.settleAreas.Inv := h.foldl (fun _ _ h1 => h1.settleArea)

theorem State.Inv.killCtxWith {ctx cause detail} (h : s.Inv) : (s.killCtxWith ctx cause detail).Inv := by
  unfold State.killCtxWith
  split
  · exact h
  · refine State.Inv.ite h (State.Inv.reapCtx (State.Inv.mEventWith (State.Inv.modHost (State.Inv.modWork (State.Inv.foldl
      (State.Inv.dropSaved (State.Inv.killBlocks (h.modCtx.foldl (fun _ _ h1 => State.Inv.ite h1.removeGraph h1)))) (fun s1 x1
      h1 => ?_))))))
    split
    · exact State.Inv.ite h1.killTt h1
    · exact h1

theorem State.Inv.killCtx {ctx cause} (h : s.Inv) : (s.killCtx ctx cause).Inv := h.killCtxWith

theorem State.Inv.containCtx {f c r} (h : s.Inv) : (s.containCtx f c r).Inv := by
  unfold State.containCtx
  split
  · exact h
  · split
    · exact h.logFault
    · exact h.logFault.killCtx

theorem State.Inv.endGraph {g abnormal pt} (h : s.Inv) : (s.endGraph g abnormal pt).Inv := by
  unfold State.endGraph
  split
  · exact h
  refine State.Inv.ite h.setGraph (State.Inv.ite h.modGraph (State.Inv.ite h.modGraph ?_))
  split
  next e => exact State.Inv.ite (h.access.ok e).modGraph (h.access.ok e).writeParts.endFrameWait.setGraph
  next e => exact (h.access.trap e).containCtx.setGraph
  next e => exact frameWait_inv (h.access.wait e) (fun _ h1 => h1.containCtx.setGraph) fun _ h1 => h1.modGraph

theorem State.Inv.killGraph {g} (h : s.Inv) : (s.killGraph g).Inv := by
  unfold State.killGraph
  split
  · exact h
  · exact State.Inv.ite h h.stopGraph.modGraph.endGraph

theorem State.Inv.readmit {g} (h : s.Inv) : (s.readmit g).Inv := by
  unfold State.readmit
  split
  · exact h
  · refine h.stopGraph.modGraph.foldl (fun s1 t h1 => ?_)
    split
    · exact State.Inv.ite h1.makeReady h1
    · exact h1

theorem State.Inv.containGraph {f c r} (h : s.Inv) : (s.containGraph f c r).Inv := by
  unfold State.containGraph
  split
  · exact h.containCtx
  · split
    · exact h.logFault
    · exact State.Inv.ite h.logFault.killGraph h.logFault.readmit
    · exact h.logFault.killGraph
    · exact h.containCtx.killGraph

theorem State.Inv.beginOverlay {k g t run trailer} (h : s.Inv) : (s.beginOverlay k g t run trailer).Inv := by
  unfold State.beginOverlay
  split
  · exact h.setCond
  · exact h

theorem State.Inv.rerun {g t} (h : s.Inv) : (s.rerun g t).Inv := by
  unfold State.rerun
  split
  · exact h.modTask.stopTask.freeCond.beginOverlay
  · exact h.modTask.leaveQ.stopTask.makeReady

theorem State.Inv.containTask {f c r} (h : s.Inv) : (s.containTask f c r).1.Inv := by
  unfold State.containTask
  split
  · exact h.containCtx
  · split
    · exact h.logFault
    · exact State.Inv.ite h.logFault.killTask h.logFault.rerun
    · dsimp only
      exact h.logFault.killTask
    · dsimp only
      exact h.killTask.containGraph

theorem State.Inv.rewalk {b} (h : s.Inv) : (s.rewalk b).Inv := by
  unfold State.rewalk
  split
  · exact h
  · split
    · exact h.killBlockTts.setBlock
    · exact h.killBlockTts.setBlock.modWork

theorem State.Inv.containBlock {f c r} (h : s.Inv) : (s.containBlock f c r).Inv := by
  unfold State.containBlock
  split
  · exact h.containTask
  · split
    · exact h.logFault
    · exact State.Inv.ite h.logFault.killBlock h.logFault.rewalk
    · exact h.logFault.killBlock
    · exact h.killBlock.containTask

theorem State.Inv.containTt {f c r} (h : s.Inv) : (s.containTt f c r).1.Inv := by
  unfold State.containTt
  split
  · exact h.containBlock
  · split
    · exact h.logFault.killTt
    · split
      · exact h.logFault
      · exact h.logFault.killTt
      · exact h.logFault.killTt
      · exact h.killTt.containBlock

/-! Functions of Machine/Ops.lean. -/

theorem State.Inv.doubleFault {n c vec} (h : s.Inv) : (s.doubleFault n c vec).Inv := h.logFault.endStrand.killCtx
theorem State.Inv.noteTrap {n c} (h : s.Inv) : (s.noteTrap n c).Inv := h.modDebug

theorem State.Inv.takeTrap {n c r epc} {ign : State} (h : s.Inv) (hign : ign.Inv) : (s.takeTrap n c r epc ign).Inv := by
  unfold State.takeTrap
  split
  · exact h
  · refine State.Inv.ite (State.Inv.ite hign.noteTrap.modStrand.logFault.issued h.modStrand.noteTrap.containTt) ?_
    dsimp only
    split
    next e1 => exact (h.modStrand.noteTrap.setStrand.access.trap e1).doubleFault
    next e1 => exact State.Inv.congr (h.modStrand.noteTrap.setStrand.access.ok e1) rfl
    next e1 => exact State.Inv.congr (h.modStrand.noteTrap.setStrand.access.wait e1) rfl

theorem State.Inv.trapI {c r} {ign : State} (h : s.Inv) (hign : ign.Inv) : (s.trapI c r ign).Inv := by
  unfold State.trapI
  refine State.Inv.ite hign ?_
  split
  · exact h.takeTrap hign
  · exact h

theorem State.Inv.trapA {c r} (h : s.Inv) : (s.trapA c r).Inv := by
  unfold State.trapA
  refine State.Inv.ite h ?_
  split
  · exact h.takeTrap h
  · exact h

theorem State.Inv.trap {c r} (h : s.Inv) : (s.trap c r).Inv := h.trapI h.issued
theorem State.Inv.trapD {c r d} (h : s.Inv) : (s.trapD c r d).Inv := h.trapI h.setG.issued
theorem State.Inv.returnFromTrap (h : s.Inv) : s.returnFromTrap.Inv := State.Inv.ite h.trap (State.Inv.ite h.trap h.modMe.goTo)

theorem State.Inv.clean {rs} {ign : State} {k : State} (h : s.Inv) (hign : ign.Inv) (hk : k.Inv) : (s.clean rs ign k).Inv := by
  unfold State.clean
  split
  · exact h.trapI hign
  · exact hk

theorem State.Inv.result {d rs v} (h : s.Inv) : (s.result d rs v).Inv := h.whenReady h.setG.issued
theorem State.Inv.plain {d v} (h : s.Inv) : (s.plain d v).Inv := h.setG.issued

theorem State.Inv.txnFail {code} (h : s.Inv) : (s.txnFail code).Inv := by
  unfold State.txnFail
  split
  · exact h
  · split
    · exact h.modMe.goTo
    · exact h.modMe.trap

theorem State.Inv.outsideTxn {k : State} (h : s.Inv) (hk : k.Inv) : (s.outsideTxn k).Inv := State.Inv.ite h.trap hk

theorem State.Inv.privileged {k : State} (h : s.Inv) (hk : k.Inv) : (s.privileged k).Inv := by
  unfold State.privileged
  split
  · exact State.Inv.ite hk h.trap
  · exact h.trap

theorem State.Inv.writeBack {p} (h : s.Inv) : (s.writeBack p).Inv :=
  State.Inv.modMem (h.foldl (fun _ _ h1 => h1.touchChannel)) rfl

theorem State.Inv.settleRels {n} (h : s.Inv) : (s.settleRels n).Inv := by
  unfold State.settleRels
  split
  · exact h
  · split
    · exact h
    · exact State.Inv.ite h.modStrand.writeBack h.modStrand

theorem State.Inv.settleAll (h : s.Inv) : s.settleAll.Inv := h.foldl (fun _ _ h1 => h1.settleRels)
theorem State.Inv.enterRel {sys} (h : s.Inv) : (s.enterRel sys).Inv := h.modMe.settleRels
theorem State.Inv.afterRels {k : State} (h : s.Inv) (hk : k.Inv) : (s.afterRels k).Inv := State.Inv.ite hk h.waitsAt

theorem State.Inv.orWaits {r : State} {sem t w} (hr : r.Inv) : (r.orWaits s sem t w).Inv := by
  unfold State.orWaits
  split
  · exact State.Inv.ite hr.waitsAt hr
  · exact hr

theorem State.Inv.invL1 {core p} (h : s.Inv) : (s.invL1 core p).Inv := h.modCore
theorem State.Inv.invRdc {die p} (h : s.Inv) : (s.invRdc die p).Inv := State.Inv.modMem h rfl
theorem State.Inv.invCxl {p} (h : s.Inv) : (s.invCxl p).Inv := State.Inv.modMem h rfl
theorem State.Inv.invI {core} (h : s.Inv) : (s.invI core).Inv := h.modCore

theorem State.Inv.acquire {core ctx sc range} (h : s.Inv) : (s.acquire core ctx sc range).Inv := by
  unfold State.acquire
  extract_lets p u
  have hu : u.Inv := h.invI.invL1
  cases sc
  case core => exact hu
  case die => exact hu
  case pkg => exact hu.invRdc
  case sys => exact hu.invRdc.invCxl

/-! Functions of Machine/Arith.lean. -/

theorem execNop_inv (h : s.Inv) : (execNop s).Inv := h.issued
theorem execAdd_inv {d a b} (h : s.Inv) : (execAdd d a b s).Inv := h.result
theorem execSub_inv {d a b} (h : s.Inv) : (execSub d a b s).Inv := h.result
theorem execMul_inv {d a b} (h : s.Inv) : (execMul d a b s).Inv := h.result
theorem execMulh_inv {d a b} (h : s.Inv) : (execMulh d a b s).Inv := h.result
theorem execMulhn_inv {d a b} (h : s.Inv) : (execMulhn d a b s).Inv := h.result
theorem execDiv_inv {d a b} (h : s.Inv) : (execDiv d a b s).Inv := h.result
theorem execDivn_inv {d a b} (h : s.Inv) : (execDivn d a b s).Inv := h.result
theorem execRem_inv {d a b} (h : s.Inv) : (execRem d a b s).Inv := h.result
theorem execRemn_inv {d a b} (h : s.Inv) : (execRemn d a b s).Inv := h.result
theorem execAnd_inv {d a b} (h : s.Inv) : (execAnd d a b s).Inv := h.result
theorem execOr_inv {d a b} (h : s.Inv) : (execOr d a b s).Inv := h.result
theorem execXor_inv {d a b} (h : s.Inv) : (execXor d a b s).Inv := h.result
theorem execShl_inv {d a b} (h : s.Inv) : (execShl d a b s).Inv := h.result
theorem execShr_inv {d a b} (h : s.Inv) : (execShr d a b s).Inv := h.result
theorem execSha_inv {d a b} (h : s.Inv) : (execSha d a b s).Inv := h.result
theorem execMin_inv {d a b} (h : s.Inv) : (execMin d a b s).Inv := h.result
theorem execMax_inv {d a b} (h : s.Inv) : (execMax d a b s).Inv := h.result
theorem execMinn_inv {d a b} (h : s.Inv) : (execMinn d a b s).Inv := h.result
theorem execMaxn_inv {d a b} (h : s.Inv) : (execMaxn d a b s).Inv := h.result
theorem execClz_inv {d a} (h : s.Inv) : (execClz d a s).Inv := h.result
theorem execPopc_inv {d a} (h : s.Inv) : (execPopc d a s).Inv := h.result
theorem execSel_inv {d a b} (h : s.Inv) : (execSel d a b s).Inv := h.whenReady (State.Inv.ite h.setG.issued h.setG.issued)
theorem execSetcc_inv {c d a b} (h : s.Inv) : (execSetcc c d a b s).Inv := h.result
theorem execShli_inv {d a sh} (h : s.Inv) : (execShli d a sh s).Inv := h.result
theorem execShri_inv {d a sh} (h : s.Inv) : (execShri d a sh s).Inv := h.result
theorem execShai_inv {d a sh} (h : s.Inv) : (execShai d a sh s).Inv := h.result
theorem execAddi_inv {d a imm} (h : s.Inv) : (execAddi d a imm s).Inv := h.result
theorem execAndi_inv {d a imm} (h : s.Inv) : (execAndi d a imm s).Inv := h.result
theorem execOri_inv {d a imm} (h : s.Inv) : (execOri d a imm s).Inv := h.result
theorem execXori_inv {d a imm} (h : s.Inv) : (execXori d a imm s).Inv := h.result
theorem execLdi_inv {d imm} (h : s.Inv) : (execLdi d imm s).Inv := h.plain
theorem execLdih_inv {d imm} (h : s.Inv) : (execLdih d imm s).Inv := h.result
theorem execAdda_inv {d a imm} (h : s.Inv) : (execAdda d a imm s).Inv := h.result

/-! Functions of Machine/Fetch.lean. -/

theorem State.Inv.ifetchPart {core ctx p} (h : s.Inv) : (s.ifetchPart core ctx p).2.Inv := by
  unfold State.ifetchPart
  dsimp only
  split
  · exact h
  · exact h.touchL2.modCore

theorem State.Inv.ifetchParts {core ctx l} (h : s.Inv) : (s.ifetchParts core ctx l).2.Inv := by
  induction l generalizing s with
  | nil => exact h
  | cons x xs ih =>
    unfold State.ifetchParts
    refine ih ?_
    exact h.ifetchPart

theorem State.Inv.fetchUnits {core ctx pc units} (h : s.Inv) : (s.fetchUnits core ctx pc units).Inv := by
  unfold State.fetchUnits
  split
  next e => exact h.access.trap e
  next e => exact h.access.wait e
  next e => exact (h.access.ok e).ifetchParts

theorem State.Inv.fetchWord {core ctx pc} (h : s.Inv) : (s.fetchWord core ctx pc).Inv := by
  unfold State.fetchWord
  split
  next e => exact h.fetchUnits.trap e
  next e => exact h.fetchUnits.wait e
  next e => exact Res.Inv.ite (h.fetchUnits.ok e) (h.fetchUnits.ok e).fetchUnits

/-! Functions of Machine/Control.lean. -/

theorem State.Inv.setLoops {l} (h : s.Inv) : (s.setLoops l).Inv := by
  unfold State.setLoops
  split
  · exact h.modMe
  · exact h.modCond

theorem State.Inv.branchTo {t} (h : s.Inv) : (s.branchTo t).Inv := State.Inv.ite h.trap (State.Inv.ite h.goTo h.setLoops.goTo)
theorem execB_inv {off} (h : s.Inv) : (execB off s).Inv := h.branchTo
theorem execJl_inv {off} (h : s.Inv) : (execJl off s).Inv := State.Inv.ite h.trap h.setG.goTo

theorem State.Inv.branchIf {rs c t} (h : s.Inv) : (s.branchIf rs c t).Inv :=
  h.whenReady (h.clean h.issued (State.Inv.ite h.branchTo h.issued))

theorem execBz_inv {a off} (h : s.Inv) : (execBz a off s).Inv := h.branchIf
theorem execBnz_inv {a off} (h : s.Inv) : (execBnz a off s).Inv := h.branchIf
theorem execBccc_inv {c a b off} (h : s.Inv) : (execBccc c a b off s).Inv := h.branchIf
theorem execJr_inv {a} (h : s.Inv) : (execJr a s).Inv := h.whenReady (h.clean h.issued (State.Inv.ite h.trap h.branchTo))

theorem State.Inv.endWord {last} (h : s.Inv) : (s.endWord last).Inv := by
  unfold State.endWord
  split
  · exact h
  · dsimp only
    split
    next e1 => exact h.fetchUnits.trap e1
    next e1 => exact h.fetchUnits.wait e1
    next e1 => exact h.fetchUnits.ok e1

theorem State.Inv.enterLoop {lv n last pipelined stages map} (h : s.Inv) : (s.enterLoop lv n last pipelined stages map).Inv := by
  unfold State.enterLoop
  split
  · exact h.trap
  · split
    next e1 => exact (h.endWord.trap e1).trap
    next e1 => exact (h.endWord.wait e1).holds
    next e2 => exact State.Inv.ite (h.endWord.ok e2).goTo (h.endWord.ok e2).setLoops.goTo

theorem execLoop_inv {lv count last} (h : s.Inv) : (execLoop lv count last s).Inv := h.enterLoop
theorem execLoopg_inv {lv a last} (h : s.Inv) : (execLoopg lv a last s).Inv := h.whenReady (h.clean h.issued h.enterLoop)

theorem execLoopp_inv {lv a stages1 last} (h : s.Inv) : (execLoopp lv a stages1 last s).Inv := by
  unfold execLoopp
  refine h.whenReady (h.clean h.issued ?_)
  split
  · exact h.trap
  · refine State.Inv.ite h.enterLoop ?_
    split
    next e1 => exact (h.fetchUnits.trap e1).trap
    next e1 => exact (h.fetchUnits.wait e1).holds
    next e1 => exact State.Inv.ite (h.fetchUnits.ok e1).enterLoop (h.fetchUnits.ok e1).trap

theorem execLexit_inv {lv} (h : s.Inv) : (execLexit lv s).Inv := State.Inv.ite h.trap (State.Inv.ite h.goTo h.setLoops.goTo)

theorem State.Inv.haltConds {ctx} (h : s.Inv) : (s.haltConds ctx).Inv := by
  unfold State.haltConds
  refine h.foldl (fun s1 k h1 => ?_)
  split
  · exact State.Inv.ite h1.modCond h1
  · exact h1

theorem State.Inv.debugStop {ctx} (h : s.Inv) : (s.debugStop ctx).Inv := by
  unfold State.debugStop
  exact h.modWork.haltConds.modDebug

theorem execSafept_inv {a} (h : s.Inv) : (execSafept a s).Inv :=
  h.whenReady (State.Inv.ite h.trap (State.Inv.ite h.issued h.modMe.issued))

theorem State.Inv.exitWith {succ reserve} (h : s.Inv) : (s.exitWith succ reserve).Inv := h.modMe
theorem State.Inv.exitHandler {n} (h : s.Inv) : (s.exitHandler n).Inv := h.endStrand.containTt

theorem execExit_inv {n e1 e2 e3 e4} (h : s.Inv) : (execExit n e1 e2 e3 e4 s).Inv := by
  unfold execExit
  refine h.whenReady (h.afterRels (h.outsideTxn (State.Inv.ite h.exitHandler (h.clean h.exitWith ?_))))
  split
  · exact h.trapI h.exitWith
  · exact State.Inv.ite (h.trapI h.exitWith) (State.Inv.ite (h.trapI h.exitWith) h.modCtx.exitWith)

theorem execTrap_inv {n} (h : s.Inv) : (execTrap n s).Inv := h.trapA

theorem execBrk_inv {n} (h : s.Inv) : (execBrk n s).Inv := by
  unfold execBrk
  split
  · exact State.Inv.ite h.debugStop.modCtx.issued h.trapA
  · exact h.trapA

theorem execEret_inv (h : s.Inv) : (execEret s).Inv := h.returnFromTrap

/-! Functions of Machine/Queues.lean. -/

theorem State.Inv.spmStore {ps tag} (h : s.Inv) : (s.spmStore ps tag).Inv := State.Inv.ite h.modMe h.modCore

theorem State.Inv.signal {core f sig} (h : s.Inv) : (s.signal core f sig).Inv := by
  unfold State.signal
  split
  · exact h
  · split
    · exact h.modCore
    · exact h.containTt

theorem State.Inv.deliverVec {n x got tag} (h : s.Inv) : (s.deliverVec n x got tag).Inv := State.Inv.ite h.modStrand h.modCore
theorem State.Inv.enterLoad {what va parts sig d} (h : s.Inv) : (s.enterLoad what va parts sig d).Inv := h.modMe

theorem State.Inv.enterStore {what va parts data en tag sig d} (h : s.Inv) : (s.enterStore what va parts data en tag sig d).Inv :=
  h.modMe

theorem State.Inv.beginFrameWait {ea} (h : s.Inv) : (s.beginFrameWait ea).Inv := h.modMe.waitsAt

theorem State.Inv.awaitFrame {ea} {fail : State} (h : s.Inv) (hfail : fail.Inv) : (s.awaitFrame ea fail).Inv := by
  unfold State.awaitFrame
  split
  · exact State.Inv.ite hfail h.waitsAt
  · exact h.beginFrameWait

theorem State.Inv.withAccess {ea n need ign k} (h : s.Inv) (hign : ∀ a, a.Inv → (ign a).Inv)
    (hk : ∀ a a', a'.Inv → (k a a').Inv) : (s.withAccess ea n need ign k).Inv := by
  unfold State.withAccess
  refine h.unheld ?_
  split
  next e => exact (h.myAccess.trap e).trapI (hign _ (h.myAccess.trap e))
  next e => exact (h.myAccess.wait e).awaitFrame ((h.myAccess.wait e).trapI (hign _ (h.myAccess.wait e)))
  next e => exact hk _ _ (h.myAccess.ok e)

theorem State.Inv.txnLoad {x ps k} (h : s.Inv) (hk : ∀ a a' a'', a''.Inv → (k a a' a'').Inv) : (s.txnLoad x ps k).Inv := by
  unfold State.txnLoad
  refine State.Inv.ite h.holds ?_
  split
  · exact h.txnFail
  · exact hk _ _ _ (h.modMe.touchParts.foldl (fun _ _ h1 => h1.dropCopies))

theorem State.Inv.txnStore {x va ps data en tag} {k : State} (h : s.Inv) (hk : k.Inv) :
    (s.txnStore x va ps data en tag k).Inv := by
  unfold State.txnStore
  split
  · exact h.txnFail
  · exact hk

/-! Functions of Machine/Mem.lean. -/

theorem State.Inv.lost {d} (h : s.Inv) : (s.lost d).Inv := h.setG.issued

theorem State.Inv.condLoad {d a off n sgn} (h : s.Inv) : (s.condLoad d a off n sgn).Inv := by
  unfold State.condLoad
  dsimp only
  split
  · exact h.trap
  · exact h.plain

theorem State.Inv.condStore {d a off n} (h : s.Inv) : (s.condStore d a off n).Inv := by
  unfold State.condStore
  dsimp only
  split
  · exact h.trap
  · exact State.Inv.issued (State.Inv.modMem h rfl)

theorem State.Inv.loadGlobal {d ea n sgn parts} (h : s.Inv) : (s.loadGlobal d ea n sgn parts).Inv := by
  unfold State.loadGlobal
  split
  · exact h.txnLoad (fun _ _ _ h1 => h1.setG.issued)
  · exact h.enterLoad.issued

theorem State.Inv.txnTurn {k : State} (h : s.Inv) (hk : k.Inv) : (s.txnTurn k).Inv := State.Inv.ite h.holds hk

theorem State.Inv.strandLoad {d a off n sgn} (h : s.Inv) : (s.strandLoad d a off n sgn).Inv :=
  h.whenReady (h.clean h.lost (State.Inv.ite h.trapD (h.txnTurn (h.withAccess (fun _ h1 => h1.lost) (fun _ _ h1 =>
      h1.loadGlobal)))))

theorem execLd_inv {sz d a off} (h : s.Inv) : (execLd sz d a off s).Inv := State.Inv.ite h.condLoad h.strandLoad
theorem execLdn_inv {sz d a off} (h : s.Inv) : (execLdn sz d a off s).Inv := State.Inv.ite h.condLoad h.strandLoad

theorem State.Inv.storeGlobal {ea parts data en tag sig} (h : s.Inv) : (s.storeGlobal ea parts data en tag sig).Inv := by
  unfold State.storeGlobal
  split
  · exact h.txnStore h.issued
  · exact h.enterStore.issued

theorem State.Inv.strandStore {d a off n} (h : s.Inv) : (s.strandStore d a off n).Inv :=
  h.whenReady (h.clean h.issued (State.Inv.ite h.trap (h.txnTurn (h.withAccess (fun _ h1 => h1.issued) (fun _ _ h1 =>
      h1.storeGlobal)))))

theorem execSt_inv {sz d a off} (h : s.Inv) : (execSt sz d a off s).Inv := State.Inv.ite h.condStore h.strandStore

theorem execLdS_inv {sz d a off} (h : s.Inv) : (execLdS sz d a off s).Inv := by
  unfold execLdS
  refine h.whenReady (h.clean h.lost (State.Inv.ite h.lost (h.txnTurn (h.unheld ?_))))
  split
  next e => exact State.Inv.ite (h.myAccess.trap e).lost (h.myAccess.trap e).trapD
  next e => exact (h.myAccess.wait e).awaitFrame (h.myAccess.wait e).modMe.lost
  next e => exact (h.myAccess.ok e).loadGlobal

theorem execChk_inv {a} (h : s.Inv) : (execChk a s).Inv := h.whenReady (h.clean h.issued h.issued)

theorem execLdSp_inv {sz d a off} (h : s.Inv) : (execLdSp sz d a off s).Inv := by
  unfold execLdSp
  refine h.whenReady (h.clean h.lost ?_)
  split
  · exact h.trapD
  · exact State.Inv.ite h.holds h.setG.issued

theorem execStSp_inv {sz d a off} (h : s.Inv) : (execStSp sz d a off s).Inv := by
  unfold execStSp
  refine h.whenReady (h.clean h.issued ?_)
  split
  · exact h.trap
  · exact h.spmStore.issued

theorem execSpld_inv {sz d off} (h : s.Inv) : (execSpld sz d off s).Inv := by
  unfold execSpld
  dsimp only
  split
  · exact h.trapD
  · exact h.setG.issued

theorem execSpst_inv {sz d off} (h : s.Inv) : (execSpst sz d off s).Inv := by
  unfold execSpst
  refine h.whenReady ?_
  split
  · exact h.trap
  · exact h.modMe.issued

theorem execLdNb_inv {sz d a b} (h : s.Inv) : (execLdNb sz d a b s).Inv :=
  h.outsideTxn (h.whenReady (h.clean h.lost (State.Inv.ite h.trapD (State.Inv.ite h.trapD (h.withAccess (fun _ h1 => h1.lost)
      (fun _ _ h1 => h1.enterLoad.issued))))))

theorem execStPm_inv {sz d a b} (h : s.Inv) : (execStPm sz d a b s).Inv :=
  h.outsideTxn (h.whenReady (h.clean h.issued (State.Inv.ite h.trap (State.Inv.ite h.trap (State.Inv.ite h.trap (h.withAccess
      (fun _ h1 => h1.issued) (fun _ _ h1 => h1.enterStore.issued)))))))

theorem execMark_inv (h : s.Inv) : (execMark s).Inv := h.outsideTxn h.modMe.issued
theorem State.Inv.afterLoads {k : State} (h : s.Inv) (hk : k.Inv) : (s.afterLoads k).Inv := State.Inv.ite hk h.holds

theorem execAcq_inv {sc a b} (h : s.Inv) : (execAcq sc a b s).Inv :=
  h.whenReady (h.clean h.issued (h.afterLoads h.acquire.issued))

theorem execRel_inv {sc} (h : s.Inv) : (execRel sc s).Inv := h.enterRel.issued
theorem execFenceq_inv {mask} (h : s.Inv) : (execFenceq mask s).Inv := State.Inv.ite h.waitsAt h.issued

/-! Functions of Machine/Sync.lean. -/

theorem State.Inv.landPushes (h : s.Inv) : s.landPushes.Inv := h.modCore.modMe

theorem State.Inv.strandPost {i k} (h : s.Inv) : (s.strandPost i k).Inv := by
  unfold State.strandPost
  refine State.Inv.ite h.holds ?_
  split
  · exact h.trap
  · exact h.landPushes.modCore.issued

theorem execPost_inv {k n} (h : s.Inv) : (execPost k n s).Inv := by
  unfold execPost
  refine State.Inv.ite ?_ ?_
  · split
    · exact h.trap
    · exact h.modCond.issued
  · split
    · exact h.trap
    · exact h.outsideTxn (h.afterRels h.strandPost)

theorem State.Inv.leaveLines (h : s.Inv) : s.leaveLines.Inv := h.modCore

theorem State.Inv.waitSem {i t ign k} (h : s.Inv) (hign : ∀ a, a.Inv → (ign a).Inv) (hk : ∀ a, a.Inv → (k a).Inv) :
    (s.waitSem i t ign k).Inv :=
  State.Inv.ite (h.leaveLines.trapI (hign _ h.leaveLines)) (State.Inv.ite (h.leaveLines.trapI (hign _ h.leaveLines))
      (State.Inv.ite (hk _ h) (State.Inv.ite (hk _ h.modCore) h.waitsAt)))

theorem execAwait_inv {k t} (h : s.Inv) : (execAwait k t s).Inv := by
  unfold execAwait
  refine State.Inv.ite (State.Inv.ite h.issued (State.Inv.ite h.modCond.issued h.waitsAt)) ?_
  split
  · exact h.trap
  · exact State.Inv.orWaits (h.outsideTxn (h.afterRels (h.waitSem (fun _ h1 => h1.issued) (fun _ h1 => h1.issued))))

theorem execSemrd_inv {d k} (h : s.Inv) : (execSemrd d k s).Inv := by
  unfold execSemrd
  refine State.Inv.ite h.plain ?_
  split
  · exact h.trapD
  · exact h.plain

theorem execSemwr_inv {k a} (h : s.Inv) : (execSemwr k a s).Inv := by
  unfold execSemwr
  refine h.privileged ?_
  split
  · exact h.trap
  · exact h.whenReady (h.clean h.issued (State.Inv.ite h.trap h.modCore.issued))

theorem execWaitv_inv {d a b} (h : s.Inv) : (execWaitv d a b s).Inv :=
  h.outsideTxn (h.whenReady (h.clean h.lost (State.Inv.ite h.trapD (h.withAccess (fun _ h1 => h1.lost) (fun _ _ h' =>
      h'.enterLoad.issued)))))

theorem execPtrd_inv {d} (h : s.Inv) : (execPtrd d s).Inv := h.plain
theorem execFrrd_inv {d a} (h : s.Inv) : (execFrrd d a s).Inv := h.setG.setG.issued

theorem State.Inv.setWaitPt {t} (h : s.Inv) : (s.setWaitPt t).Inv := by
  unfold State.setWaitPt
  split
  · exact h.modMe
  · exact h.modCond

theorem execWaitpt_inv {a} (h : s.Inv) : (execWaitpt a s).Inv :=
  h.whenReady (h.clean h.issued (State.Inv.ite h.trap (State.Inv.ite h.setWaitPt.issued h.setWaitPt.waitsAt)))

theorem execTxb_inv {off} (h : s.Inv) : (execTxb off s).Inv := h.outsideTxn h.modMe.issued

theorem State.Inv.insideTxn {k} (h : s.Inv) (hk : ∀ a, (k a).Inv) : (s.insideTxn k).Inv := by
  unfold State.insideTxn
  split
  · exact hk _
  · exact h.trap

theorem execTxe_inv (h : s.Inv) : (execTxe s).Inv :=
  h.insideTxn (fun _ => State.Inv.ite h.txnFail (State.Inv.ite h.txnFail (State.Inv.ite h.modMe.issued h.modMe.holds)))

theorem execTxa_inv {code} (h : s.Inv) : (execTxa code s).Inv := h.insideTxn (fun _ => h.modMe.txnFail)
theorem execTxs_inv {d} (h : s.Inv) : (execTxs d s).Inv := h.plain

/-! Functions of Machine/Special.lean. -/

theorem execMfs_inv {d r} (h : s.Inv) : (execMfs d r s).Inv := by
  unfold execMfs
  refine State.Inv.ite h.trapD ?_
  split
  · exact h.plain
  · exact h.trapD

theorem State.Inv.setSpecial {n v} (h : s.Inv) : (s.setSpecial n v).Inv :=
  State.Inv.ite h.modTime (State.Inv.ite h.modTime (State.Inv.ite h.modMe (State.Inv.ite h.modMe (State.Inv.ite h.modMe
      (State.Inv.ite h.modCtx (State.Inv.ite h.modCtx (State.Inv.ite h.modCtx (State.Inv.ite h.modMe (State.Inv.ite h.modMe
      h.modMe)))))))))

theorem execMts_inv {r a} (h : s.Inv) : (execMts r a s).Inv := by
  unfold execMts
  refine State.Inv.ite h.trap ?_
  split
  · exact h.trap
  · split
    · exact h.trap
    · refine h.privileged (h.whenReady (h.clean h.issued ?_))
      split
      · exact h.trap
      · exact h.setSpecial.issued
    · refine h.whenReady (h.clean h.issued ?_)
      split
      · exact h.trap
      · exact h.setSpecial.issued

/-! Functions of Machine/System.lean. -/

theorem execLockwr_inv {a b} (h : s.Inv) : (execLockwr a b s).Inv := by
  unfold execLockwr
  refine h.whenReady (h.clean h.issued (State.Inv.ite h.trap (h.unheld ?_)))
  split
  next e => exact ((h.atIssue h.accessNoKey).trap e).trap
  next e => exact ((h.atIssue h.accessNoKey).wait e).awaitFrame ((h.atIssue h.accessNoKey).wait e).trap
  next e => exact ((h.atIssue h.accessNoKey).ok e).enterStore.issued

theorem execLockrd_inv {d a} (h : s.Inv) : (execLockrd d a s).Inv :=
  h.whenReady (h.clean h.lost (h.withAccess (fun _ h1 => h1.lost) (fun _ _ h1 => h1.enterLoad.issued)))

theorem execL1inv_inv {a b} (h : s.Inv) : (execL1inv a b s).Inv := h.whenReady (h.clean h.issued (h.afterLoads h.invL1.issued))
theorem execRdcinv_inv {a b} (h : s.Inv) : (execRdcinv a b s).Inv := h.whenReady (h.clean h.issued (h.afterLoads h.invRdc.issued))

theorem execCacheWb_inv {a b} (h : s.Inv) : (execCacheWb a b s).Inv :=
  h.whenReady (h.clean h.issued h.enterRel.enterStore.enterRel.issued)

theorem State.Inv.dropTlb {hit} (h : s.Inv) : (s.dropTlb hit).Inv := h

theorem execTlbinv_inv {a b} (h : s.Inv) : (execTlbinv a b s).Inv :=
  h.privileged (h.whenReady (h.clean h.issued h.dropTlb.issued))

theorem execQcfg_inv {n d a b} (h : s.Inv) : (execQcfg n d a b s).Inv :=
  h.whenReady (h.clean h.issued (State.Inv.ite h.trap h.modMe.issued))

theorem execQrst_inv {n} (h : s.Inv) : (execQrst n s).Inv := h.modMe.issued

/-! Functions of Machine/Trt.lean. -/

theorem State.Inv.placeOutputs {b} (h : s.Inv) : (s.placeOutputs b).Inv := by
  unfold State.placeOutputs
  split
  · exact h
  · exact h.foldl (fun _ _ h1 => State.Inv.ite h1.modWork h1)

theorem State.Inv.finishBlock {b} (h : s.Inv) : (s.finishBlock b).Inv := by
  unfold State.finishBlock
  split
  · exact h
  · exact State.Inv.modWork (State.Inv.removeBlock (State.Inv.ite h.modTime.modCtx h))

theorem State.Inv.iterationDone {b} (h : s.Inv) : (s.iterationDone b).Inv := by
  unfold State.iterationDone
  split
  · exact h
  · exact State.Inv.ite h.setBlock.finishBlock h.setBlock

theorem State.Inv.returnReady {b idx} (h : s.Inv) : (s.returnReady b idx).Inv := by
  unfold State.returnReady
  split
  · exact h
  · split
    · exact h
    · exact h.setBlock.modDisp

theorem State.Inv.satisfy {hd} (h : s.Inv) : (s.satisfy hd).Inv := State.Inv.ite h.modWork h.modWork.returnReady

theorem State.Inv.releaseCoarse {ctx b} (h : s.Inv) : (s.releaseCoarse ctx b).Inv :=
  State.Inv.ite (h.foldl (fun _ _ hx1 => hx1.satisfy)) h

theorem State.Inv.toCoarse {ctx b} (h : s.Inv) : (s.toCoarse ctx b).Inv := h.modWork.modCtx

theorem State.Inv.holdDecl {b idx di} (h : s.Inv) : (s.holdDecl b idx di).Inv := by
  unfold State.holdDecl
  split
  · exact h
  · split
    · exact h
    · refine State.Inv.ite h.modWork.modWork ?_
      split
      · exact h.modWork.modWork
      · exact State.Inv.ite h.modWork.toCoarse.modWork.releaseCoarse h.modWork.modWork

theorem State.Inv.holdAll {b idx} (h : s.Inv) : (s.holdAll b idx).Inv := h.foldl (fun _ _ h1 => State.Inv.ite h1.holdDecl h1)

theorem State.Inv.openAll {b idx} (h : s.Inv) : (s.openAll b idx).Inv := by
  unfold State.openAll
  split
  · exact h
  · exact h.foldl (fun _ _ h1 => State.Inv.ite h1 h1.modWork)

theorem State.Inv.dropIteration {b idx} (h : s.Inv) : (s.dropIteration b idx).Inv := h.modWork.modBlock.iterationDone

theorem State.Inv.faultIteration {b idx di c} (h : s.Inv) : (s.faultIteration b idx di c).Inv := by
  unfold State.faultIteration
  split
  · exact h
  · split
    · exact h.logFault.modBlock.satisfy
    · refine State.Inv.ite h.logFault.dropIteration ?_
      dsimp only
      split
      · exact h.logFault.modWork.modBlock.openAll.logFault.dropIteration
      · exact State.Inv.ite h.logFault.modWork.modBlock.openAll.holdAll h.logFault.modWork.modBlock.openAll.holdAll.returnReady
    · exact h.logFault.dropIteration
    · exact State.Inv.ite h.containBlock.dropIteration h.containBlock

theorem State.Inv.faultHeld {c hs} (h : s.Inv) : (s.faultHeld c hs).Inv :=
  h.foldl (fun _ _ h1 => State.Inv.ite h1.faultIteration h1)

theorem State.Inv.reevaluate {hs} (h : s.Inv) : (s.reevaluate hs).Inv := by
  unfold State.reevaluate
  refine h.foldl (fun s1 hd h1 => State.Inv.ite h1 ?_)
  split
  · exact h1.satisfy
  · exact h1.modWork.holdDecl
  · exact h1.faultIteration
  · exact h1.faultIteration

theorem State.Inv.advance {ctx b g} (h : s.Inv) : (s.advance ctx b g).Inv := h.modWork.faultHeld.reevaluate

theorem State.Inv.publish {ctx b k g} (h : s.Inv) : (s.publish ctx b k g).Inv := by
  unfold State.publish
  refine State.Inv.ite (State.Inv.releaseCoarse (State.Inv.modWork (State.Inv.ite h.modWork h.modWork.advance))) ?_
  split
  · exact State.Inv.ite (State.Inv.ite h.modWork h.modWork.advance) (State.Inv.foldl (State.Inv.modWork (State.Inv.modWork
      (State.Inv.ite h.modWork h.modWork.advance))) (fun _ _ h1 => State.Inv.ite h1 h1.returnReady))
  · exact State.Inv.ite (State.Inv.releaseCoarse (State.Inv.modWork (State.Inv.toCoarse (State.Inv.ite h.modWork
      h.modWork.advance)))) (State.Inv.modWork (State.Inv.modWork (State.Inv.ite h.modWork h.modWork.advance)))

theorem State.Inv.shedTiles {g t} (h : s.Inv) : (s.shedTiles g t).Inv := by
  unfold State.shedTiles
  refine h.foldl (fun s1 y h1 => ?_)
  split
  · exact h1
  · exact h1.modWork.modWork.faultHeld

theorem State.Inv.descriptor {d n} (h : s.Inv) : (s.descriptor d n).Inv := by
  unfold State.descriptor
  split
  next e => exact h.myAccess.trap e
  next e => exact h.myAccess.wait e
  next e => exact (h.myAccess.ok e).touchParts

theorem State.Inv.notePublished {b idx di} (h : s.Inv) : (s.notePublished b idx di).Inv := h.modBlock

theorem execTagpub_inv {n} (h : s.Inv) : (execTagpub n s).Inv := by
  unfold execTagpub
  refine h.outsideTxn ?_
  split
  · refine State.Inv.ite h.trap (h.afterRels (State.Inv.ite h.issued (State.Inv.ite h.holds (State.Inv.ite h.modMe.trap ?_))))
    split
    next e2 => exact (h.descriptor.trap e2).trap
    next e2 => exact (h.descriptor.wait e2).awaitFrame (h.descriptor.wait e2).trap
    next e2 =>
      exact State.Inv.ite (h.descriptor.ok e2).holds (State.Inv.ite (h.descriptor.ok e2).trap (h.descriptor.ok
          e2).notePublished.publish.issued)
  · exact h.trap

theorem execTagq_inv {d n} (h : s.Inv) : (execTagq d n s).Inv := by
  unfold execTagq
  split
  · exact State.Inv.ite h.holds (State.Inv.ite h.modMe.trapD h.plain)
  · exact h.trapD

/-! Functions of Machine/Postbox.lean. -/

theorem State.Inv.dropParts {ps} (h : s.Inv) : (s.dropParts ps).Inv := h.foldl (fun _ _ h1 => h1.dropCopies)

theorem State.Inv.atHomes {ps write k} (h : s.Inv) (hk : ∀ a, a.Inv → (k a).Inv) : (s.atHomes ps write k).Inv :=
  State.Inv.ite h.holds (hk _ h.touchParts)

theorem State.Inv.withPostbox {d a need k} (h : s.Inv) (hk : ∀ a a' a'', a''.Inv → (k a a' a'').Inv) :
    (s.withPostbox d a need k).Inv := by
  unfold State.withPostbox
  split
  · exact h.trapD
  · refine State.Inv.ite h.trapD (h.withAccess (fun _ h1 => h1.lost) (fun ps s1 h1 => h1.atHomes (fun s2 h2 => State.Inv.ite
      h2.trapD ?_)))
    split
    · exact h2.trapD
    · exact hk _ _ _ h2

theorem State.Inv.withMessage {d a b k} (h : s.Inv) (hk : ∀ a, (k a).Inv) : (s.withMessage d a b k).Inv := by
  unfold State.withMessage
  refine h.outsideTxn (h.whenReady (h.clean h.lost ?_))
  split
  · exact h.trapD
  · exact State.Inv.ite h.holds (hk _)

theorem State.Inv.writeCounts {ps head tail} (h : s.Inv) : (s.writeCounts ps head tail).Inv := h.writeParts

theorem execMbsend_inv {d a b} (h : s.Inv) : (execMbsend d a b s).Inv :=
  h.withMessage (fun _ => State.Inv.ite h.holds (h.withPostbox (fun _ _ _ h1 => State.Inv.ite h1.dropParts.setG.issued
      (h1.withAccess (fun _ h2 => h2.lost) (fun _ _ h2 => h2.atHomes (fun _ h3 =>
      h3.writeParts.writeCounts.dropParts.dropParts.setG.issued))))))

theorem execMbrecv_inv {d a b} (h : s.Inv) : (execMbrecv d a b s).Inv :=
  h.withMessage (fun _ => h.afterLoads (h.withPostbox (fun _ _ _ h1 => State.Inv.ite h1.dropParts.setG.issued (h1.withAccess
      (fun _ h2 => h2.lost) (fun _ _ h2 => h2.atHomes (fun _ h3 =>
      h3.spmStore.writeCounts.dropParts.dropParts.acquire.setG.issued))))))

theorem execMbpoll_inv {d a} (h : s.Inv) : (execMbpoll d a s).Inv :=
  h.outsideTxn (h.whenReady (h.clean h.lost (h.withPostbox (fun _ _ _ h1 => h1.dropParts.setG.issued))))

/-! Functions of Machine/Operands.lean. -/

theorem State.Inv.readName {n keep} (h : s.Inv) : (s.readName n keep).Inv := by
  unfold State.readName
  split
  · exact Res.Inv.ite h h
  · exact Res.Inv.ite h (State.Inv.ite h h.modMe)

theorem State.Inv.portNext {p keep done} (h : s.Inv) : (s.portNext p keep done).Inv := by
  unfold State.portNext
  refine Res.Inv.ite h ?_
  split
  · exact h
  · exact State.Inv.ite h h.modMe

theorem State.Inv.spmVec {a} (h : s.Inv) : (s.spmVec a).Inv := Res.Inv.ite h h

theorem State.Inv.readOne {o k} (h : s.Inv) : (s.readOne o k).Inv :=
  Res.Inv.ite h.readName (Res.Inv.ite (h.portNext.andThen (fun _ _ h1 => h1.spmVec)) h)

theorem State.Inv.readGroup {o k k1} (h : s.Inv) : (s.readGroup o k k1).Inv := by
  induction k generalizing s k1 with
  | zero => exact h
  | succ k ih => exact h.readOne.andThen (fun _ _ h1 => Res.Inv.andThen (ih h1) (fun _ _ h2 => h2))

theorem State.Inv.readOperands {l} (h : s.Inv) : (s.readOperands l).Inv := by
  induction l generalizing s with
  | nil => exact h
  | cons x xs ih => exact h.readGroup.andThen (fun _ _ h1 => Res.Inv.andThen (ih h1) (fun _ _ h2 => h2))

theorem State.Inv.freeLast {os} (h : s.Inv) : (s.freeLast os).Inv := State.Inv.ite h.modMe h

theorem State.Inv.popAll {os} (h : s.Inv) : (s.popAll os).Inv :=
  State.Inv.freeLast (h.foldl (fun _ _ h1 => h1.foldl (fun _ _ h2 => State.Inv.ite h2 (State.Inv.ite (State.Inv.ite h2 h2.modMe)
      (State.Inv.ite h2.modMe h2)))))

theorem State.Inv.setMask {k v tag} (h : s.Inv) : (s.setMask k v tag).Inv := h.modMe

theorem State.Inv.priorOne {n} (h : s.Inv) : (s.priorOne n).Inv := by
  unfold State.priorOne
  split
  · exact h
  · exact Res.Inv.ite h h

theorem State.Inv.priors {n k k1} (h : s.Inv) : (s.priors n k k1).Inv := by
  induction k generalizing s k1 with
  | zero => exact h
  | succ k ih => exact h.priorOne.andThen (fun _ _ h1 => Res.Inv.andThen (ih h1) (fun _ _ h2 => h2))

theorem State.Inv.priorOf {w opc} (h : s.Inv) : (s.priorOf w opc).Inv := by
  unfold State.priorOf
  split
  · exact Res.Inv.ite h.priors h
  · exact h

theorem State.Inv.reserveOne {n tok} (h : s.Inv) : (s.reserveOne n tok).Inv := Res.Inv.ite h.modMe (Res.Inv.ite h h.modMe)

theorem State.Inv.reserve {n tok k k1} (h : s.Inv) : (s.reserve n tok k k1).Inv := by
  induction k generalizing s k1 with
  | zero => exact h
  | succ k ih =>
    exact Res.Inv.andThen (Res.Inv.ite h.reserveOne (h.portNext.andThen (fun _ _ h1 => h1))) (fun _ _ h1 => Res.Inv.andThen (ih
        h1) (fun _ _ h2 => h2))

theorem State.Inv.launchFly {f} (h : s.Inv) : (s.launchFly f).Inv := h.modMe

theorem State.Inv.zeroDest {opc w} (h : s.Inv) : (s.zeroDest opc w).Inv := by
  unfold State.zeroDest
  split
  · split
    · exact State.Inv.ite h.setG (State.Inv.ite h.setMask h)
    · exact h
  · refine State.Inv.ite (h.foldl (fun _ _ h1 => State.Inv.ite h1 h1.modMe)) (State.Inv.ite (h.foldl (fun s1 x1 h1 => ?_)) h)
    split
    next e1 => exact (h1.portNext.ok e1).spmStore
    · exact h1

theorem State.Inv.vlost {opc w} (h : s.Inv) : (s.vlost opc w).Inv := h.popAll.zeroDest.launchFly.issued

theorem State.Inv.writeVec {w opc tok places x r tag} (h : s.Inv) : (s.writeVec w opc tok places x r tag).Inv := by
  unfold State.writeVec
  split
  · exact h.launchFly
  · exact State.Inv.ite h.launchFly h.launchFly

theorem State.Inv.vissue {α : Type} {opc w addr vals} {pre : State → Res α} {fin : α → VIn → List ℕ → ℕ → State → State}
    (h : s.Inv) (hpre : ∀ a, a.Inv → (pre a).Inv) (hfin : ∀ a x ps tok s, s.Inv → (fin a x ps tok s).Inv) :
    (s.vissue opc w addr vals pre fin).Inv := by
  unfold State.vissue
  extract_lets lost sem t me rels served
  have hlost {u : State} (hu : u.Inv) : (lost u).Inv := hu.vlost
  have hserved {u : State} (hu : u.Inv) : (served u).Inv := State.Inv.ite hu hu.modCore
  have hrels {u : State} (hu : u.Inv) : (rels u).Inv := State.Inv.ite hu (h.afterRels hu)
  split
  · exact h.trapI (hlost h)
  refine State.Inv.orWaits (h.whenReady (hrels ?_))
  refine State.Inv.ite (h.leaveLines.trapI (hlost h.leaveLines)) (State.Inv.ite (h.leaveLines.trapI (hlost h.leaveLines))
    (State.Inv.ite h.waitsAt (h.clean (hserved (hlost h)) ?_)))
  split
  next e =>
    have h1 := (hpre _ h).trap e
    exact h1.trapI (hserved (hlost h1))
  next e => exact (hpre _ h).wait e
  next a u e =>
    have h1 : u.Inv := (hpre _ h).ok e
    extract_lets tok out
    have hout : out.Inv := h1.priorOf.andThen fun _ _ h2 => h2.readOperands.andThen fun _ _ h3 =>
      Res.Inv.andThen (by
        split
        · exact h3.freeLast.reserve
        · exact h3.freeLast) fun _ _ h4 => h4
    clear_value out
    split
    · exact h1.trapI (hserved (hlost h1))
    · exact h1.holds
    · exact hfin _ _ _ _ _ (hserved hout)

theorem State.Inv.vword {α : Type} {opc w addr vals} {pre : State → Res α} {body : α → VIn → State → VOut} (h : s.Inv)
    (hpre : ∀ a, a.Inv → (pre a).Inv) (hbody : ∀ a a' a'', a''.Inv → (body a a' a'').s.Inv) :
    (s.vword opc w addr vals pre body).Inv :=
  h.vissue (fun _ ha => hpre _ ha) (fun _ _ _ _ _ h1 => (hbody _ _ _ h1).writeVec.issued)

theorem noPre_inv (h : s.Inv) : (noPre s).Inv := h

theorem State.Inv.compute {opc w vals f} (h : s.Inv) : (s.compute opc w vals f).Inv :=
  h.vword (fun _ h1 => noPre_inv h1) (fun _ _ _ h1 => h1)

theorem State.Inv.map1 {opc w f} (h : s.Inv) : (s.map1 opc w f).Inv := h.compute
theorem State.Inv.map2 {opc w f} (h : s.Inv) : (s.map2 opc w f).Inv := h.compute
theorem State.Inv.map3 {opc w f} (h : s.Inv) : (s.map3 opc w f).Inv := h.compute

theorem execKill_inv {blk mask} (h : s.Inv) : (execKill blk mask s).Inv :=
  State.Inv.ite h.trap (State.Inv.ite h.holds h.modMe.issued)

/-! Functions of Machine/VInt.lean. -/

theorem State.Inv.int2 {opc w f} (h : s.Inv) : (s.int2 opc w f).Inv := h.map2
theorem State.Inv.int1 {opc w f} (h : s.Inv) : (s.int1 opc w f).Inv := h.map1
theorem execVadd_inv {w} (h : s.Inv) : (execVadd w s).Inv := h.int2
theorem execVsub_inv {w} (h : s.Inv) : (execVsub w s).Inv := h.int2
theorem execVmul_inv {w} (h : s.Inv) : (execVmul w s).Inv := h.int2
theorem execVmulh_inv {w} (h : s.Inv) : (execVmulh w s).Inv := h.int2
theorem execVmad_inv {w} (h : s.Inv) : (execVmad w s).Inv := h.map3
theorem execVmin_inv {w} (h : s.Inv) : (execVmin w s).Inv := h.int2
theorem execVmax_inv {w} (h : s.Inv) : (execVmax w s).Inv := h.int2
theorem execVabs_inv {w} (h : s.Inv) : (execVabs w s).Inv := h.int1
theorem execVneg_inv {w} (h : s.Inv) : (execVneg w s).Inv := h.int1
theorem execVand_inv {w} (h : s.Inv) : (execVand w s).Inv := h.map2
theorem execVor_inv {w} (h : s.Inv) : (execVor w s).Inv := h.map2
theorem execVxor_inv {w} (h : s.Inv) : (execVxor w s).Inv := h.map2
theorem execVnot_inv {w} (h : s.Inv) : (execVnot w s).Inv := h.map1
theorem execVshl_inv {w} (h : s.Inv) : (execVshl w s).Inv := h.map2
theorem execVshr_inv {w} (h : s.Inv) : (execVshr w s).Inv := h.map2
theorem execVsha_inv {w} (h : s.Inv) : (execVsha w s).Inv := h.map2
theorem execVpopc_inv {w} (h : s.Inv) : (execVpopc w s).Inv := h.map1

/-! Functions of Machine/VFloat.lean. -/

theorem State.Inv.fp1 {opc w f} (h : s.Inv) : (s.fp1 opc w f).Inv := h.map1
theorem State.Inv.fp2 {opc w f} (h : s.Inv) : (s.fp2 opc w f).Inv := h.map2
theorem execVfadd_inv {w} (h : s.Inv) : (execVfadd w s).Inv := h.fp2
theorem execVfsub_inv {w} (h : s.Inv) : (execVfsub w s).Inv := h.fp2
theorem execVfmul_inv {w} (h : s.Inv) : (execVfmul w s).Inv := h.fp2
theorem execVfma_inv {w} (h : s.Inv) : (execVfma w s).Inv := h.map3
theorem execVfmin_inv {w} (h : s.Inv) : (execVfmin w s).Inv := h.map2
theorem execVfmax_inv {w} (h : s.Inv) : (execVfmax w s).Inv := h.map2
theorem execVfabs_inv {w} (h : s.Inv) : (execVfabs w s).Inv := h.map1
theorem execVfneg_inv {w} (h : s.Inv) : (execVfneg w s).Inv := h.map1
theorem execVfdiv_inv {w} (h : s.Inv) : (execVfdiv w s).Inv := h.fp2
theorem execVfsqrt_inv {w} (h : s.Inv) : (execVfsqrt w s).Inv := h.fp1
theorem execVfrcp_inv {w} (h : s.Inv) : (execVfrcp w s).Inv := h.fp1
theorem execVfrsq_inv {w} (h : s.Inv) : (execVfrsq w s).Inv := h.fp1
theorem execVfexp2_inv {w} (h : s.Inv) : (execVfexp2 w s).Inv := h.fp1
theorem execVflog2_inv {w} (h : s.Inv) : (execVflog2 w s).Inv := h.fp1

/-! Functions of Machine/VMask.lean. -/

theorem execVcmp_inv {c w} (h : s.Inv) : (execVcmp c w s).Inv := h.vword (fun _ h1 => noPre_inv h1) (fun _ _ _ h1 => h1.setMask)
theorem execVsel_inv {w} (h : s.Inv) : (execVsel w s).Inv := h.vword (fun _ h1 => noPre_inv h1) (fun _ _ _ h1 => h1)

theorem State.Inv.maskOp {opc w v tag} (h : s.Inv) : (s.maskOp opc w v tag).Inv :=
  h.vword (fun _ h1 => noPre_inv h1) (fun _ _ _ h1 => h1.setMask)

theorem State.Inv.maskCount {opc w f} (h : s.Inv) : (s.maskCount opc w f).Inv :=
  h.vword (fun _ h1 => noPre_inv h1) (fun _ _ _ h1 => h1.setG)

theorem State.Inv.mask2 {opc w f} (h : s.Inv) : (s.mask2 opc w f).Inv := h.maskOp
theorem execMand_inv {w} (h : s.Inv) : (execMand w s).Inv := h.mask2
theorem execMor_inv {w} (h : s.Inv) : (execMor w s).Inv := h.mask2
theorem execMxor_inv {w} (h : s.Inv) : (execMxor w s).Inv := h.mask2
theorem execMnot_inv {w} (h : s.Inv) : (execMnot w s).Inv := h.maskOp
theorem execMpopc_inv {w} (h : s.Inv) : (execMpopc w s).Inv := h.maskCount
theorem execMfirst_inv {w} (h : s.Inv) : (execMfirst w s).Inv := h.maskCount

/-! Functions of Machine/VConv.lean. -/

theorem State.Inv.advanceSr {n} (h : s.Inv) : (s.advanceSr n).Inv := h.modMe

theorem execVcvt_inv {w} (h : s.Inv) : (execVcvt w s).Inv :=
  State.Inv.ite (h.vword (fun _ h1 => noPre_inv h1) (fun _ _ _ h1 => h1.advanceSr)) h.compute

theorem execVwiden_inv {w} (h : s.Inv) : (execVwiden w s).Inv := h.compute
theorem execVnarrow_inv {w} (h : s.Inv) : (execVnarrow w s).Inv := h.compute
theorem execVquantScale_inv {w} (h : s.Inv) : (execVquantScale w s).Inv := h.compute
theorem execVquant_inv {w} (h : s.Inv) : (execVquant w s).Inv := h.compute
theorem execVdeq_inv {w} (h : s.Inv) : (execVdeq w s).Inv := h.compute

/-! Functions of Machine/VMove.lean. -/

theorem execVred_inv {op w} (h : s.Inv) : (execVred op w s).Inv := h.compute
theorem execVperm_inv {w} (h : s.Inv) : (execVperm w s).Inv := h.compute
theorem execVshuf_inv {w} (h : s.Inv) : (execVshuf w s).Inv := h.compute
theorem execVbcast_inv {w} (h : s.Inv) : (execVbcast w s).Inv := h.compute
theorem execVslide_inv {w} (h : s.Inv) : (execVslide w s).Inv := h.vword (fun _ h1 => noPre_inv h1) (fun _ _ _ h1 => h1)
theorem execVins_inv {w} (h : s.Inv) : (execVins w s).Inv := h.vword (fun _ h1 => noPre_inv h1) (fun _ _ _ h1 => h1)
theorem execVext_inv {w} (h : s.Inv) : (execVext w s).Inv := h.vword (fun _ h1 => noPre_inv h1) (fun _ _ _ h1 => h1.setG)
theorem execViota_inv {w} (h : s.Inv) : (execViota w s).Inv := h.vword (fun _ h1 => noPre_inv h1) (fun _ _ _ h1 => h1)
theorem execVmov_inv {w} (h : s.Inv) : (execVmov w s).Inv := h.map1
theorem execVrng_inv {w} (h : s.Inv) : (execVrng w s).Inv := h.compute

/-! Functions of Machine/VMem.lean. -/

theorem State.Inv.spCheck {w read} (h : s.Inv) : (s.spCheck w read).Inv := by
  unfold State.spCheck
  split
  · dsimp only
    split
    · exact h
    · exact Res.Inv.ite h.holds h

theorem execVld_inv {w} (h : s.Inv) : (execVld w s).Inv := h.vword (fun _ h1 => h1.spCheck) (fun _ _ _ h1 => h1)
theorem execVst_inv {w} (h : s.Inv) : (execVst w s).Inv := h.vword (fun _ h1 => h1.spCheck) (fun _ _ _ h1 => h1.spmStore)

theorem State.Inv.gatherCheck {opc w} (h : s.Inv) : (s.gatherCheck opc w).Inv := by
  unfold State.gatherCheck
  split
  · split
    · dsimp only
      split
      · exact h
      · exact h
      · exact Res.Inv.ite h.holds h
    · exact h
    · exact h

theorem execVldg_inv {w} (h : s.Inv) : (execVldg w s).Inv := h.vword (fun _ h1 => h1.gatherCheck) (fun _ _ _ h1 => h1)
theorem execVsts_inv {w} (h : s.Inv) : (execVsts w s).Inv := h.vword (fun _ h1 => h1.gatherCheck) (fun _ _ _ h1 => h1.spmStore)

theorem State.Inv.accessPieces {ptr need ps} (h : s.Inv) : (s.accessPieces ptr need ps).Inv := by
  unfold State.accessPieces
  refine Res.Inv.ite h (h.atIssue ?_)
  split
  next e => exact h.translateAll.trap e
  next e => exact h.translateAll.wait e
  next e =>
    split
    · exact h.translateAll.ok e
    · exact h.translateAll.ok e

theorem State.Inv.vGlobal {w store time} (h : s.Inv) : (s.vGlobal w store time).Inv := by
  unfold State.vGlobal
  refine Res.Inv.ite h (Res.Inv.ite h ?_)
  split
  · exact h
  · refine Res.Inv.ite h.holds ?_
    split
    next e1 => exact h.accessPieces.trap e1
    next e1 =>
      split
      · exact Res.Inv.ite (h.accessPieces.wait e1) (h.accessPieces.wait e1).waitsAt
      · exact (h.accessPieces.wait e1).beginFrameWait
    next e1 =>
      split
      · split
        · exact (h.accessPieces.ok e1).txnFail
        · exact h.accessPieces.ok e1
      · exact h.accessPieces.ok e1

theorem State.Inv.vLoad {opc w time regs} (h : s.Inv) : (s.vLoad opc w time regs).Inv := by
  unfold State.vLoad
  refine h.vissue (fun _ h1 => h1.vGlobal) (fun ps x places tok s1 h1 => ?_)
  split
  · exact h1.txnLoad (fun _ _ _ h2 => h2.writeVec.issued)
  · exact h1.enterLoad.issued

theorem execVldm_inv {w} (h : s.Inv) : (execVldm w s).Inv := h.vLoad
theorem execVldmNb_inv {w} (h : s.Inv) : (execVldmNb w s).Inv := h.vLoad

theorem State.Inv.vStore {opc w time regs} (h : s.Inv) : (s.vStore opc w time regs).Inv := by
  unfold State.vStore
  refine h.vissue (fun _ h1 => h1.vGlobal) (fun ps x x1 tok s1 h1 => ?_)
  split
  · exact h1.enterStore.issued
  · exact State.Inv.storeGlobal (State.Inv.ite h1.launchFly h1)

theorem execVstm_inv {w} (h : s.Inv) : (execVstm w s).Inv := h.vStore
theorem execVstmPm_inv {w} (h : s.Inv) : (execVstmPm w s).Inv := h.vStore

/-! Functions of Machine/Atomics.lean. -/

theorem State.Inv.atomic {what d a vals n new back} (h : s.Inv) : (s.atomic what d a vals n new back).Inv := by
  unfold State.atomic
  refine h.whenReady (h.clean h.lost (State.Inv.ite h.trapD (h.txnTurn (h.withAccess (fun _ h1 => h1.lost) (fun ps s1 h1 => ?_)))))
  split
  · refine h1.txnLoad (fun v t s2 h2 => ?_)
    split
    · exact h2.txnStore h2.setG.issued
    · exact h2.issued
  · exact h1.enterStore.issued

theorem execAmo_inv {op dbl d a b} (h : s.Inv) : (execAmo op dbl d a b s).Inv := h.atomic
theorem execAmof_inv {fz cn sv op fmt d a b} (h : s.Inv) : (execAmof fz cn sv op fmt d a b s).Inv := h.atomic

/-! Functions of Machine/MemEvents.lean. -/

theorem State.Inv.settleSlips (h : s.Inv) : s.settleSlips.Inv := h.modTime

theorem State.Inv.finishLoad {n o} (h : s.Inv) : (s.finishLoad n o).Inv := by
  unfold State.finishLoad
  refine State.Inv.signal ?_
  split
  · exact h.modStrand.modStrand
  · exact h.modStrand.modStrand
  · exact h.modStrand.deliverVec
  · exact h.modStrand.deliverVec
  · exact h.modStrand.modStrand
  · exact h.modStrand

theorem State.Inv.stepLoad {n o} (h : s.Inv) : (s.stepLoad n o).Inv := by
  unfold State.stepLoad
  split
  · exact h
  · exact State.Inv.ite h.finishLoad h.setStrand

theorem State.Inv.armMonitor {n o d e t} (h : s.Inv) : (s.armMonitor n o d e t).Inv := by
  unfold State.armMonitor
  split
  · exact State.Inv.ite h.touchL2.fireMonitor h.touchL2.modStrand
  · exact h

theorem execGlobalLoadBind_inv {strand} (h : s.Inv) : (execGlobalLoadBind strand s).Inv := by
  unfold execGlobalLoadBind
  split
  · exact h
  split
  · exact h
  refine State.Inv.ite h ?_
  split
  · exact h
  · exact h
  · exact State.Inv.ite h h.armMonitor
  · split
    · exact State.Inv.ite h h.touchL2.stepLoad
    · exact h
  · split
    · exact h.stepLoad
    · exact State.Inv.ite h h.coreRead.stepLoad
  · split
    · exact h.stepLoad
    · exact State.Inv.ite h h.coreRead.stepLoad

theorem State.Inv.setNb {slice l} (h : s.Inv) : (s.setNb slice l).Inv := State.Inv.modMem h rfl

theorem execNbLoadPerform_inv {strand} (h : s.Inv) : (execNbLoadPerform strand s).Inv := by
  unfold execNbLoadPerform
  split
  · exact h
  · split
    · exact h
    · split
      · exact State.Inv.ite h (State.Inv.ite h (State.Inv.ite (State.Inv.ite h h.setNb) h.setNb.touchL2.dropCopies.stepLoad))
      · exact h.stepLoad
      · exact h

theorem execWaitvTimeout_inv {strand} (h : s.Inv) : (execWaitvTimeout strand s).Inv := by
  unfold execWaitvTimeout
  split
  · exact h
  · split
    · split
      · exact State.Inv.ite h.touchL2.fireMonitor h
      · exact h
    · exact h

theorem State.Inv.finishStore {n o} (h : s.Inv) : (s.finishStore n o).Inv := h.modStrand.signal.settleRels

theorem State.Inv.stepStore {n o} (h : s.Inv) : (s.stepStore n o).Inv := by
  unfold State.stepStore
  split
  · exact h
  · exact State.Inv.ite h.finishStore h.setStrand

theorem execGlobalStorePerform_inv {strand} (h : s.Inv) : (execGlobalStorePerform strand s).Inv := by
  unfold execGlobalStorePerform
  split
  · exact h
  · split
    · exact h
    · refine State.Inv.ite h ?_
      split
      · exact h
      · exact h
      · exact h
      · exact State.Inv.ite h h.writeBack.stepStore
      · split
        · exact State.Inv.ite h (State.Inv.stepStore (State.Inv.touchL2 (State.Inv.modMem h (setLocks_bytes _ _ _))))
        · exact h.stepStore
      · split
        · exact h.stepStore
        · exact State.Inv.ite h h.homeWrite.updateCopies.stepStore

theorem State.Inv.performAtomic {n o p d new back} (h : s.Inv) : (s.performAtomic n o p d new back).Inv :=
  State.Inv.finishStore (State.Inv.modStrand (State.Inv.dropCopies (State.Inv.ite h.touchL2 h.homeWrite)))

theorem execAtomicPerform_inv {strand} (h : s.Inv) : (execAtomicPerform strand s).Inv := by
  unfold execAtomicPerform
  split
  · exact h
  · split
    · exact h
    · split
      · exact h
      · refine State.Inv.ite h ?_
        split
        · exact h.performAtomic
        · exact h.performAtomic
        · exact h

theorem State.Inv.performPart {x} (h : s.Inv) : (s.performPart x).Inv := State.Inv.modMem h.homeWrite rfl

theorem execPostmarkDeliver_inv {strand} (h : s.Inv) : (execPostmarkDeliver strand s).Inv := by
  unfold execPostmarkDeliver
  split
  · exact h
  · split
    · exact h
    · split
      · refine State.Inv.ite h ?_
        split
        · exact h.stepStore
        · exact State.Inv.ite h (State.Inv.settleSlips (State.Inv.stepStore (State.Inv.ite h.performPart (State.Inv.modMem h rfl))))
      · exact h

theorem execPostmarkPerform_inv {die slice} (h : s.Inv) : (execPostmarkPerform die slice s).Inv := by
  unfold execPostmarkPerform
  dsimp only
  split
  · exact h
  · exact State.Inv.ite h (State.Inv.performPart (State.Inv.modMem h rfl))

theorem State.Inv.txnPerform {n x} (h : s.Inv) : (s.txnPerform n x).Inv := by
  unfold State.txnPerform
  refine State.Inv.foldl (State.Inv.foldl (h.foldl (fun _ _ h1 => h1.homeWrite)) (fun _ _ h1 => h1.dropCopies)) (fun s1 va h1 => ?_)
  split
  next e => exact h1.translate.ok e
  next e => exact h1.translate.trap e
  next e => exact h1.translate.wait e

theorem execTxnCommit_inv {strand} (h : s.Inv) : (execTxnCommit strand s).Inv := by
  unfold execTxnCommit
  split
  · exact h
  · split
    · exact h
    · exact State.Inv.ite h h.txnPerform.modStrand

theorem execTxnAbort_inv {strand} (h : s.Inv) : (execTxnAbort strand s).Inv := by
  unfold execTxnAbort
  split
  · exact h
  · split
    · exact h
    · refine State.Inv.ite h ?_
      split
      · exact h.modStrand.modCore
      · exact State.Inv.ite h.modStrand h

theorem execLazyCommit_inv {strand} (h : s.Inv) : (execLazyCommit strand s).Inv := by
  unfold execLazyCommit
  split
  · exact h
  split
  · exact h
  extract_lets ctx
  split
  · exact h
  refine State.Inv.ite h ?_
  split
  · refine State.Inv.ite ?_ h
    split
    next e => exact h.commit.ok e
    · exact h
  · exact h

theorem execCommitWaitTimeout_inv {strand} (h : s.Inv) : (execCommitWaitTimeout strand s).Inv := by
  unfold execCommitWaitTimeout
  split
  · exact h
  · split
    · exact State.Inv.ite h.modStrand h
    · exact h

/-! Functions of Machine/MemFail.lean. -/

theorem execUncorrectableError_inv {e} (h : s.Inv) : (execUncorrectableError e s).Inv := by
  unfold execUncorrectableError
  split
  · exact State.Inv.modMem h.dropL1 rfl
  · exact State.Inv.modMem h.dropRdc rfl
  · exact State.Inv.modMem h rfl
  · exact State.Inv.modMem h rfl
  · exact h.modStrand
  · exact State.Inv.ite h.modCore h
  · exact h.modStrand
  · exact State.Inv.modMem h rfl
  · exact h.containCtx

theorem execCorrectableError_inv {pa} (h : s.Inv) : (execCorrectableError pa s).Inv := State.Inv.modMem h rfl

theorem execRowSpareReplace_inv {pa} (h : s.Inv) : (execRowSpareReplace pa s).Inv :=
  State.Inv.ite h (State.Inv.ite (State.Inv.modMem (State.Inv.modMem h rfl) rfl) (State.Inv.mEvent (State.Inv.modMem
      (State.Inv.modMem h rfl) rfl)))

theorem execParkSelfRefresh_inv {channel} (h : s.Inv) : (execParkSelfRefresh channel s).Inv :=
  State.Inv.ite (State.Inv.modMem h rfl) h

theorem State.Inv.takeFrame {die} (h : s.Inv) : (s.takeFrame die).2.Inv := by
  unfold State.takeFrame
  dsimp only
  split
  · exact State.Inv.modMem h.zeroFrame rfl
  · exact h

/-- Steps that may find nothing, one after another: the state that they find, if they find one, is in canonical form. -/
theorem inv_of_foldl_bind {β : Type} {f : State → β → Option State} (hf : ∀ s x t, s.Inv → f s x = some t → t.Inv)
    {l : List β} : ∀ {o : Option State} {t : State}, (∀ s, o = some s → s.Inv) → l.foldl
    (fun o x => o.bind fun s => f s x) o = some t → t.Inv := by
  induction l with
  | nil => exact fun ho e => ho _ e
  | cons x l ih =>
    refine fun {o} {t} ho e => ih (fun s hs => ?_) e
    obtain ⟨u, hu, hx⟩ := Option.bind_eq_some_iff.mp hs
    exact hf u x s (ho u hu) hx

theorem State.Inv.splitLeaf {k k1 x} (h : s.Inv) {t : State} (e : s.splitLeaf k k1 x = some t) : t.Inv := by
  induction k generalizing s k1 x t with
  | zero =>
    cases e
    exact h
  | succ k ih =>
    unfold State.splitLeaf at e
    split at e
    · cases e
    next f s1 hs =>
      have h1 : s1.Inv := h.takeFrame.of_snd hs
      dsimp only at e
      split at e
      · rw [← Option.some.inj e]
        exact State.Inv.homeWrite8 (h1.foldl fun _ _ h => h.homeWrite8)
      · refine inv_of_foldl_bind (fun u i v hu hv => ih hu hv) (fun u hu => ?_) e
        rw [← Option.some.inj hu]
        exact State.Inv.homeWrite8 (h1.foldl fun _ _ h => h.homeWrite8)

theorem State.Inv.endRetirement (h : s.Inv) : s.endRetirement.Inv := by
  unfold State.endRetirement
  split
  · exact h
  · exact State.Inv.ite h (State.Inv.modMem h rfl)

theorem execChannelRetire_inv {die channel} (h : s.Inv) : (execChannelRetire die channel s).Inv := by
  unfold execChannelRetire
  refine State.Inv.ite h ?_
  dsimp only
  split
  · exact h
  next u e =>
    have hu : u.Inv := by
      refine inv_of_foldl_bind (fun s x t hs ht => hs.splitLeaf ht) (fun s hs => ?_) e
      cases hs
      exact State.Inv.modMem h rfl
    exact hu.dropTlb.endRetirement

theorem State.Inv.moveQueues {frame target} (h : s.Inv) : (s.moveQueues frame target).Inv := h

theorem hostWrites_go_inv {l} (h : s.Inv) : (State.hostWrites.go l s).Inv := by
  induction l generalizing s with
  | nil => exact h.modHost
  | cons w l ih =>
    unfold State.hostWrites.go
    exact .ite h.modHost (ih h.homeWriteAll)

theorem State.Inv.hostWrites (h : s.Inv) : s.hostWrites.Inv := hostWrites_go_inv h

theorem execFrameMove_inv {frame target} (h : s.Inv) : (execFrameMove frame target s).Inv := by
  unfold execFrameMove
  refine State.Inv.ite h (State.Inv.hostWrites (State.Inv.modHost (State.Inv.endRetirement (State.Inv.dropTlb (wf_moveFrame _ _
      (State.Inv.touchChannel (State.Inv.touchChannel (State.Inv.moveQueues (State.Inv.foldl (State.Inv.foldl (State.Inv.modMem
      h.zeroFrame rfl) (fun s1 x h1 => ?_)) (fun _ _ h1 => State.Inv.ite h1.homeWrite8 h1))))))))))
  split
  · exact State.Inv.ite h1.fireMonitor h1
  · exact h1

theorem execCxlLinkUp_inv {port capacity} (h : s.Inv) : (execCxlLinkUp port capacity s).Inv :=
  State.Inv.ite h (State.Inv.modMem h rfl)

theorem execCxlLinkDown_inv {port} (h : s.Inv) : (execCxlLinkDown port s).Inv :=
  State.Inv.ite h (State.Inv.modTime (State.Inv.modMem h rfl))

theorem execFreePoolRefill_inv {die size frame} (h : s.Inv) : (execFreePoolRefill die size frame s).Inv :=
  State.Inv.ite h (State.Inv.modMem h rfl)

/-! Functions of Machine/Complete.lean. -/

theorem execVectorWordCompletion_inv {strand index} (h : s.Inv) : (execVectorWordCompletion strand index s).Inv := by
  unfold execVectorWordCompletion
  split
  · exact h
  · split
    · exact h
    · exact State.Inv.ite h h.setStrand.modCore.signal

theorem execWaitptComplete_inv {strand} (h : s.Inv) : (execWaitptComplete strand s).Inv := by
  unfold execWaitptComplete
  split
  · exact h
  · split
    · exact State.Inv.ite h.modStrand h
    · exact h

/-! Functions of Machine/Engines.lean. -/

theorem State.Inv.noteHead {core} (h : s.Inv) : (s.noteHead core).Inv := by
  unfold State.noteHead
  split
  · exact h
  · exact State.Inv.ite h.modCore h

theorem State.Inv.takeMxe {core tt} (h : s.Inv) : (s.takeMxe core tt).Inv := by
  unfold State.takeMxe
  split
  · exact h
  · exact h.modCtx.modTt.modCore

theorem State.Inv.owning {q k} (h : s.Inv) (hk : ∀ a, a.Inv → (k a).Inv) : (s.owning q k).Inv := by
  unfold State.owning
  refine State.Inv.ite (hk _ h) ?_
  split
  · exact State.Inv.ite (hk _ h) h.holds
  · exact State.Inv.ite (hk _ h.takeMxe) h.modTt.holds

theorem State.Inv.enterCmd {q x} (h : s.Inv) : (s.enterCmd q x).Inv := h.modCore.noteHead

theorem State.Inv.engineIssue {i hd q regs bad} (h : s.Inv) : (s.engineIssue i hd q regs bad).Inv := by
  unfold State.engineIssue
  refine State.Inv.ite h.trap (State.Inv.ite h.trap (h.outsideTxn (h.whenReady (h.clean h.issued ?_))))
  split
  · exact h.trap
  · exact h.afterRels (State.Inv.ite h.holds (h.owning (fun _ h1 => h1.enterCmd.issued)))

theorem execMma_inv {hd x} (h : s.Inv) : (execMma hd x s).Inv := h.engineIssue
theorem execMmaz_inv {hd x} (h : s.Inv) : (execMmaz hd x s).Inv := h.engineIssue
theorem execAccrd_inv {hd x} (h : s.Inv) : (execAccrd hd x s).Inv := h.engineIssue
theorem execAccwr_inv {hd x} (h : s.Inv) : (execAccwr hd x s).Inv := h.engineIssue
theorem execAccz_inv {hd mask} (h : s.Inv) : (execAccz hd mask s).Inv := h.engineIssue
theorem execScld_inv {hd x} (h : s.Inv) : (execScld hd x s).Inv := h.engineIssue
theorem execWstrm_inv {hd x} (h : s.Inv) : (execWstrm hd x s).Inv := h.engineIssue
theorem execWsel_inv {hd buf} (h : s.Inv) : (execWsel hd buf s).Inv := h.engineIssue
theorem execCpy_inv {hd x} (h : s.Inv) : (execCpy hd x s).Inv := h.engineIssue
theorem execCpyt_inv {hd x} (h : s.Inv) : (execCpyt hd x s).Inv := h.engineIssue
theorem execCpyf_inv {hd x} (h : s.Inv) : (execCpyf hd x s).Inv := h.engineIssue
theorem execChain_inv {hd x} (h : s.Inv) : (execChain hd x s).Inv := h.engineIssue
theorem execSfjExp_inv {hd d} (h : s.Inv) : (execSfjExp hd d s).Inv := h.engineIssue
theorem execSfjLog_inv {hd d} (h : s.Inv) : (execSfjLog hd d s).Inv := h.engineIssue
theorem execSfjSoftmax_inv {hd d} (h : s.Inv) : (execSfjSoftmax hd d s).Inv := h.engineIssue
theorem execSfjTopk_inv {hd d} (h : s.Inv) : (execSfjTopk hd d s).Inv := h.engineIssue
theorem execSfjSort_inv {hd d} (h : s.Inv) : (execSfjSort hd d s).Inv := h.engineIssue
theorem execSfjSample_inv {hd d} (h : s.Inv) : (execSfjSample hd d s).Inv := h.engineIssue

theorem execIllegalOp_inv {reserved word} (h : s.Inv) : (execIllegalOp reserved word s).Inv := by
  unfold execIllegalOp
  refine State.Inv.ite h.trap ?_
  split
  · exact h.engineIssue
  · exact h.trap

theorem execMxeOwnershipTake_inv {core tt} (h : s.Inv) : (execMxeOwnershipTake core tt s).Inv := by
  unfold execMxeOwnershipTake
  split
  · exact State.Inv.ite h.takeMxe h
  · exact h

theorem State.Inv.failCmd {core q x c r} (h : s.Inv) : (s.failCmd core q x c r).Inv :=
  have ht := h.endFrameWait.containTt
  State.Inv.ite ht.modCore.modCore.noteHead ht.modCore.modCore.noteHead

theorem State.Inv.completeCmd {core q x} (h : s.Inv) : (s.completeCmd core q x).Inv :=
  State.Inv.settleRels (State.Inv.ite h.endFrameWait.modCore.noteHead h.endFrameWait.modCore.noteHead.signal)

/-! Functions of Machine/Courier.lean. -/

theorem State.Inv.dieReadParts {die ctx l} (h : s.Inv) : (s.dieReadParts die ctx l).2.Inv := by
  induction l generalizing s with
  | nil => exact h
  | cons x xs ih =>
    unfold State.dieReadParts
    refine ih ?_
    exact h.dieRead

theorem State.Inv.engRead {core ctx a n} (h : s.Inv) : (s.engRead core ctx a n).Inv :=
  Res.Inv.ite h (h.access.andThen (fun _ _ h1 => Res.Inv.ite h1 h1.dieReadParts))

theorem State.Inv.engWrite {core ctx a bs tag} (h : s.Inv) : (s.engWrite core ctx a bs tag).Inv :=
  Res.Inv.ite h (h.access.andThen (fun _ _ h1 => Res.Inv.ite h1 (h1.foldl (fun _ _ h2 => h2.homeWrite.updateCopies))))

theorem State.Inv.engTurn {core q x a} {k : State} (h : s.Inv) (hk : k.Inv) : (s.engTurn core q x a k).Inv :=
  State.Inv.ite h.modCore.failCmd hk

theorem State.Inv.cmdWaits {core q x a held} (h : s.Inv) : (s.cmdWaits core q x a held).Inv :=
  State.Inv.ite h (frameWait_inv h (fun _ h1 => h1.failCmd) fun _ h1 => h1)

theorem State.Inv.segRead {core ctx m k} (h : s.Inv) : (s.segRead core ctx m k).Inv := Res.Inv.ite h (Res.Inv.ite h h.engRead)

theorem State.Inv.segWrite {core ctx m k bs tag} (h : s.Inv) : (s.segWrite core ctx m k bs tag).Inv :=
  Res.Inv.ite h.modCore h.engWrite

theorem State.Inv.moveSegs {core ctx m k k1} (h : s.Inv) : (s.moveSegs core ctx m k k1).s.Inv := by
  induction k generalizing s k1 with
  | zero => exact h
  | succ k ih =>
    unfold State.moveSegs
    split
    next e => exact ih (Res.Inv.ok_of e (h.segRead.andThen (fun _ _ h2 => h2.segWrite)))
    next e => exact Res.Inv.trap_of e (h.segRead.andThen (fun _ _ h2 => h2.segWrite))
    next e => exact Res.Inv.wait_of e (h.segRead.andThen (fun _ _ h2 => h2.segWrite))

theorem State.Inv.poisonSegs {core x m k k1} (h : s.Inv) : (s.poisonSegs core x m k k1).Inv := by
  induction k generalizing s k1 with
  | zero => exact h
  | succ k ih =>
    unfold State.poisonSegs
    split
    next e => exact ih (h.segWrite.ok e)
    · exact ih h

theorem State.Inv.cpytPublish {core q x n} (h : s.Inv) : (s.cpytPublish core q x n).Inv := by
  unfold State.cpytPublish
  split
  · exact h.completeCmd
  · refine State.Inv.ite h.completeCmd (State.Inv.ite h ?_)
    split
    · exact h.completeCmd
    · refine h.engTurn ?_
      split
      next e2 => exact (h.engRead.trap e2).failCmd
      next e2 => exact (h.engRead.wait e2).cmdWaits
      next e2 => exact State.Inv.ite (h.engRead.ok e2).failCmd (h.engRead.ok e2).notePublished.publish.completeCmd

theorem State.Inv.copyDone {core q x} (h : s.Inv) : (s.copyDone core q x).Inv := by
  unfold State.copyDone
  split
  · exact State.Inv.ite h.completeCmd h.modCore.cpytPublish
  · exact h.completeCmd

theorem State.Inv.copySegment {core q x m} (h : s.Inv) : (s.copySegment core q x m).1.Inv := by
  unfold State.copySegment
  split
  · exact h.engTurn h
  · dsimp only
    split
    · exact State.Inv.failCmd (State.Inv.ite h.moveSegs.modCore h.moveSegs.modCore.endFrameWait)
    · split
      · exact State.Inv.cmdWaits (State.Inv.ite h.moveSegs.modCore h.moveSegs.modCore.endFrameWait)
      · exact State.Inv.ite h.moveSegs.modCore h.moveSegs.modCore.endFrameWait

theorem State.Inv.copySegments {core q id m k} (h : s.Inv) : (s.copySegments core q id m k).Inv := by
  induction k generalizing s with
  | zero => exact h
  | succ k ih =>
    unfold State.copySegments
    split
    · exact h
    · refine .ite h.copyDone (.ite h.completeCmd ?_)
      split
      next e =>
        have h1 := h.copySegment.of_fst e
        refine .ite h1 ?_
        split
        · exact h1
        · exact .ite h1.copyDone (ih h1)

theorem State.Inv.setChain {core q x c} (h : s.Inv) : (s.setChain core q x c).Inv := h.modCore
theorem State.Inv.failChain {core q x c cause} (h : s.Inv) : (s.failChain core q x c cause).Inv := h.failCmd

theorem State.Inv.chainStep {core q k} (h : s.Inv) (hk : ∀ a a' a'', (k a a' a'').Inv) : (s.chainStep core q k).Inv := by
  unfold State.chainStep
  split
  · exact h
  · refine State.Inv.ite h (State.Inv.ite h.failChain (State.Inv.ite h.failChain ?_))
    split
    · exact h.failChain
    · exact hk _ _ _

theorem execChainEnd_inv {core q} (h : s.Inv) : (execChainEnd core q s).Inv := by
  unfold execChainEnd
  refine h.chainStep (fun x x1 r => ?_)
  split
  · exact h.completeCmd
  · exact h

theorem execChainCopy_inv {core q} (h : s.Inv) : (execChainCopy core q s).Inv := by
  unfold execChainCopy
  refine h.chainStep fun x c r => ?_
  split
  · extract_lets m q' left r n c' x' u v
    split
    · exact h.failChain
    refine State.Inv.ite (h.engTurn h) ?_
    have hu : u.Inv := h.moveSegs.modCore
    have hv : v.Inv := State.Inv.ite hu hu.endFrameWait
    split
    · exact hv.failCmd
    · exact State.Inv.ite hv.cmdWaits (State.Inv.ite hv.setChain hv)
  · exact h

theorem execChainLoop_inv {core q} (h : s.Inv) : (execChainLoop core q s).Inv := by
  unfold execChainLoop
  refine h.chainStep (fun x c r => ?_)
  split
  · exact h.setChain
  · exact h

theorem execChainCond_inv {core q} (h : s.Inv) : (execChainCond core q s).Inv := by
  unfold execChainCond
  refine h.chainStep (fun x c r => ?_)
  split
  · exact State.Inv.ite h.failChain h.setChain
  · exact h

theorem execChainSignal_inv {core q} (h : s.Inv) : (execChainSignal core q s).Inv := by
  unfold execChainSignal
  refine h.chainStep (fun x c r => ?_)
  split
  · exact State.Inv.ite h.failChain (State.Inv.ite h.failChain (State.Inv.ite h.modCore (State.Inv.ite (State.Inv.setChain
      (State.Inv.ite h h.modCore)) (State.Inv.signal (State.Inv.setChain (State.Inv.ite h h.modCore))))))
  · exact h

/-! Functions of Machine/Weights.lean. -/

theorem State.Inv.stream {src off n} (h : s.Inv) : (s.stream src off n).Inv := h.engRead

theorem State.Inv.denseRows {src k k1 l} (h : s.Inv) : (s.denseRows src k k1 l).s.Inv := by
  induction k generalizing s k1 l with
  | zero => exact h
  | succ k ih =>
    unfold State.denseRows
    split
    next e => exact ih (h.stream.ok e)
    next e => exact h.stream.trap e
    next e => exact h.stream.wait e

theorem State.Inv.sparseRows {src w k k1 l} (h : s.Inv) : (s.sparseRows src w k k1 l).s.Inv := by
  induction k generalizing s k1 l with
  | zero => exact h
  | succ k ih =>
    unfold State.sparseRows
    dsimp only
    split
    next e =>
      split
      · exact ih (h.stream.ok e)
      · exact h.stream.ok e
    next e => exact h.stream.trap e
    next e => exact h.stream.wait e

theorem State.Inv.zrunBlocks {src k k1 x x1 k2 l} (h : s.Inv) : (s.zrunBlocks src k k1 x x1 k2 l).s.Inv := by
  induction k generalizing s k1 x x1 k2 l with
  | zero => exact h
  | succ k ih =>
    unfold State.zrunBlocks
    split
    · dsimp only
      split
      next e1 => exact h.stream.trap e1
      next e1 => exact h.stream.wait e1
      next e1 =>
        split
        · exact h.stream.ok e1
        · split
          · exact ih (h.stream.ok e1)
          · split
            next e4 => exact (h.stream.ok e1).stream.trap e4
            next e4 => exact (h.stream.ok e1).stream.wait e4
            next e4 => exact ih ((h.stream.ok e1).stream.ok e4)
    · dsimp only
      split
      · exact h
      · split
        · exact ih h
        · split
          next e3 => exact h.stream.trap e3
          next e3 => exact h.stream.wait e3
          next e3 => exact ih (h.stream.ok e3)

theorem State.Inv.decodeStream {src x} (h : s.Inv) : (s.decodeStream src x).s.Inv := by
  unfold State.decodeStream
  split
  · exact h.denseRows
  · exact h.sparseRows
  · exact h.zrunBlocks

theorem State.Inv.performWstrm {core x a} (h : s.Inv) : (s.performWstrm core x a).Inv := by
  unfold State.performWstrm
  split
  · refine h.engTurn ?_
    dsimp only
    split
    · exact h.decodeStream.cmdWaits
    · split
      · exact h.decodeStream.modCore.completeCmd
      · exact h.decodeStream.modCore.modCore.failCmd
  · exact h

/-! Functions of Machine/SpecialFn.lean. -/

theorem State.Inv.sfdReadParts {ctx l} (h : s.Inv) : (s.sfdReadParts ctx l).2.Inv := by
  induction l generalizing s with
  | nil => exact h
  | cons x xs ih => exact ih (State.Inv.ite h.touchL2.fillRdc h.touchL2)

theorem State.Inv.sfdRead {ctx a n} (h : s.Inv) : (s.sfdRead ctx a n).Inv :=
  Res.Inv.ite h (h.access.andThen (fun _ _ h1 => Res.Inv.ite h1 h1.sfdReadParts))

theorem State.Inv.jobRows {ctx x k k1} (h : s.Inv) : (s.jobRows ctx x k k1).Inv := by
  induction k generalizing s k1 with
  | zero => exact h
  | succ k ih => exact h.sfdRead.andThen (fun _ _ h1 => Res.Inv.andThen (ih h1) (fun _ _ h2 => h2))

theorem State.Inv.jobPlaces {ctx l} (h : s.Inv) : (s.jobPlaces ctx l).Inv := by
  induction l generalizing s with
  | nil => exact h
  | cons x xs ih =>
    exact Res.Inv.ite h (h.access.andThen (fun _ _ h1 => Res.Inv.andThen (ih h1) (fun _ _ h2 => h2)))

theorem State.Inv.writeOut {ctx o ps} (h : s.Inv) : (s.writeOut ctx o ps).Inv := h.foldl (fun _ _ h1 => h1.homeWrite)

theorem State.Inv.runJob {ctx op desc} (h : s.Inv) : (s.runJob ctx op desc).1.Inv := by
  unfold State.runJob
  split
  next e => exact h.sfdRead.trap e
  next e => exact h.sfdRead.wait e
  next e =>
    split
    · exact h.sfdRead.ok e
    · split
      next e2 => exact Res.Inv.trap_of e2 ((h.sfdRead.ok e).jobRows.andThen (fun _ _ h3 => h3.jobPlaces))
      next e2 => exact Res.Inv.wait_of e2 ((h.sfdRead.ok e).jobRows.andThen (fun _ _ h3 => h3.jobPlaces))
      next e2 =>
        split
        · exact Res.Inv.ok_of e2 ((h.sfdRead.ok e).jobRows.andThen (fun _ _ h3 => h3.jobPlaces))
        · exact State.Inv.foldl (Res.Inv.ok_of e2 ((h.sfdRead.ok e).jobRows.andThen (fun _ _ h3 => h3.jobPlaces))) (fun _ _ h3
              => h3.writeOut)

theorem State.Inv.poisonJob {ctx id op desc} (h : s.Inv) : (s.poisonJob ctx id op desc).Inv := by
  unfold State.poisonJob
  split
  next e =>
    split
    · exact h.sfdRead.ok e
    · refine (h.sfdRead.ok e).foldl (fun s2 o h2 => ?_)
      split
      next e2 => exact (h2.access.ok e2).writeOut
      · exact h2
  · exact h

/-! Functions of Machine/EngineEvents.lean. -/

theorem State.Inv.arriveJob {core x} (h : s.Inv) : (s.arriveJob core x).1.Inv := by
  unfold State.arriveJob
  split
  · exact h
  · exact h.modCore.modWork

theorem State.Inv.begin {core q x} (h : s.Inv) : (s.begin core q x).Inv := by
  unfold State.begin
  split
  · split
    · exact h.setChain
    · exact h
  · exact h

theorem State.Inv.startCmd {core q x} (h : s.Inv) : (s.startCmd core q x).Inv := h.modCore.modCore.begin.noteHead

theorem State.Inv.startJob {core x} (h : s.Inv) : (s.startJob core x).Inv := by
  unfold State.startJob
  split
  · refine h.engTurn ?_
    have hj {c op d} : (State.runJob _ c op d).1.Inv := (h.modCore (c := core) (f := (·.serve 6 x))).runJob
    dsimp only
    split
    · exact hj.startCmd
    · exact frameWait_inv hj (fun _ h1 => h1.failCmd) fun _ h1 => h1
    · exact hj
    · exact hj.failCmd
  · exact h

theorem execEngineCommandStart_inv {core q} (h : s.Inv) : (execEngineCommandStart core q s).Inv := by
  unfold execEngineCommandStart
  split
  · exact h
  refine State.Inv.ite h ?_
  split
  · exact h.failCmd
  · exact State.Inv.ite h h.modCore
  · refine State.Inv.ite h (State.Inv.ite h.modCore (State.Inv.ite ?_ h.startCmd))
    exact State.Inv.ite h.arriveJob.startJob h.arriveJob.modCore

theorem State.Inv.closeStamp {core} (h : s.Inv) : (s.closeStamp core).Inv := by
  unfold State.closeStamp
  split
  · exact h
  · split
    · exact State.Inv.ite (State.Inv.ite h.startCmd h.modCore) h
    · exact h

theorem execStampedCommandIssue_inv {core} (h : s.Inv) : (execStampedCommandIssue core s).Inv := by
  unfold execStampedCommandIssue
  split
  · exact h
  · split
    · refine State.Inv.ite h (State.Inv.ite h.failCmd (State.Inv.ite h ?_))
      split
      · exact h.failCmd
      · exact h.failCmd
      · exact State.Inv.ite h.startCmd h.failCmd
    · exact h

theorem State.Inv.poisonCmd {core x} (h : s.Inv) : (s.poisonCmd core x).Inv := by
  unfold State.poisonCmd
  split
  · exact h.modCore
  · split
    · exact h.poisonSegs
    · exact h
  · split
    · exact h.poisonSegs
    · exact h
  · split
    · exact h.poisonSegs
    · exact h
  · split
    · exact h.poisonSegs
    · exact h
  · exact h
  · exact h.poisonJob
  · exact h.poisonJob
  · exact h.poisonJob
  · exact h.poisonJob
  · exact h.poisonJob
  · exact h.poisonJob
  · exact h.modCore

theorem State.Inv.completeFailed {core q x} (h : s.Inv) : (s.completeFailed core q x).Inv := by
  unfold State.completeFailed
  split
  · exact State.Inv.ite h.poisonCmd.completeCmd h.poisonCmd.modCore.cpytPublish
  · exact h.poisonCmd.completeCmd

theorem execEngineCommandComplete_inv {core q segments} (h : s.Inv) : (execEngineCommandComplete core q segments s).Inv := by
  unfold execEngineCommandComplete
  split
  · exact h
  · refine State.Inv.ite h (State.Inv.ite (State.Inv.ite h.completeCmd h.completeFailed) (State.Inv.ite h.modCore.completeCmd
      (State.Inv.ite ?_ (State.Inv.ite h.modCore.settleRels (State.Inv.ite h ?_)))))
    · split
      · exact h.performWstrm
      · exact h.modCore.completeCmd
      · exact h
    · split
      · exact State.Inv.ite h.completeCmd h
      · exact h.copySegments
      · exact h

theorem State.Inv.writePiece {v p} (h : s.Inv) : (s.writePiece v p).Inv := h.homeWriteAll

theorem State.Inv.recordSignal {tt sig} (h : s.Inv) : (s.recordSignal tt sig).Inv := by
  unfold State.recordSignal
  split
  · exact h
  · split
    · exact h
    · exact State.Inv.ite h.modWork h.modWork.writePiece

theorem execSfjCompletion_inv {core} (h : s.Inv) : (execSfjCompletion core s).Inv := by
  unfold execSfjCompletion
  split
  · exact h
  · refine State.Inv.ite h (State.Inv.ite h.modCore ?_)
    split
    · exact State.Inv.ite h.modCore.recordSignal h.modCore.signal
    · exact h.modCore.recordSignal

/-! Functions of Machine/Records.lean. -/

theorem State.Inv.addBlock {b} (h : s.Inv) : (s.addBlock b).1.Inv := by
  unfold State.addBlock
  exact h.setBlock.modWork

theorem State.Inv.cdRead {ctx a n} (h : s.Inv) : (s.cdRead ctx a n).Inv :=
  Res.Inv.ite h (h.access.andThen (fun _ _ h1 => Res.Inv.ite h1 h1.touchParts))

theorem State.Inv.readTasks {ctx table k i} (h : s.Inv) : (s.readTasks ctx table k i).1.Inv := by
  induction k generalizing s i with
  | zero => exact h
  | succ k ih =>
    unfold State.readTasks
    split
    next e => exact h.cdRead.trap e
    next e => exact h.cdRead.wait e
    next b u e =>
      have hu : u.Inv := h.cdRead.ok e
      extract_lets n
      split
      · exact hu
      have hl {a m} : (if n = 0 then Res.ok [] u else u.cdRead ctx a m).Inv := Res.Inv.ite hu hu.cdRead
      split
      next e => exact hl.trap e
      next e => exact hl.wait e
      next e =>
        extract_lets t
        split
        next e' => exact (ih (hl.ok e)).of_fst e'
        · exact ih (hl.ok e)

theorem State.Inv.headerFault {ctx header c} (h : s.Inv) : (s.headerFault ctx header c).Inv := h.containCtx

theorem State.Inv.malformedGraph {g ctx header c} (h : s.Inv) : (s.malformedGraph g ctx header c).Inv :=
  State.Inv.ite h.headerFault.killGraph h.headerFault

theorem State.Inv.badRecords {g ctx table retry bads} (h : s.Inv) : (s.badRecords g ctx table retry bads).Inv :=
  h.foldl (fun _ _ h1 => State.Inv.ite h1.containGraph h1)

theorem State.Inv.readyFirst {g ts} (h : s.Inv) : (s.readyFirst g ts).Inv := h.foldl (fun _ _ h1 => State.Inv.ite h1.makeReady h1)

theorem State.Inv.acceptGraph {ctx header waits} (h : s.Inv) (hwaits : ∀ a, a.Inv → (waits a).Inv) :
    (s.acceptGraph ctx header waits).Inv := by
  unfold State.acceptGraph
  refine State.Inv.ite h.headerFault ?_
  split
  next e => exact (h.cdRead.trap e).headerFault
  next e =>
    have h1 := h.cdRead.wait e
    exact State.Inv.ite (hwaits _ h1) (frameWait_inv h1 (fun _ h2 => h2.headerFault) hwaits)
  next e =>
    have h1 := h.cdRead.ok e
    extract_lets c n table doneAddr g pt pol enter
    have henter {u : State} (hu : u.Inv) : (enter u).Inv := hu.endFrameWait.modWork.setGraph
    refine State.Inv.ite (State.Inv.ite (henter h1).headerFault.removeGraph (henter h1).headerFault) ?_
    split
    next e => exact (henter (h1.readTasks.of_fst e)).malformedGraph
    next e => exact hwaits _ (h1.readTasks.of_fst e)
    next e => exact frameWait_inv (h1.readTasks.of_fst e) (fun _ h2 => (henter h2).malformedGraph) hwaits
    next e => exact (henter (h1.readTasks.of_fst e)).malformedGraph
    next e =>
      have h2 := henter (h1.readTasks.of_fst e)
      exact State.Inv.ite h2.malformedGraph (State.Inv.ite h2.modGraph.badRecords.readyFirst h2.modGraph.badRecords)

/-! Functions of Machine/Conductor.lean. -/

theorem execPush_inv {d q cb} (h : s.Inv) : (execPush d q cb s).Inv := by
  unfold execPush
  refine State.Inv.ite h.waitsAt ?_
  split
  · exact h.trap
  · exact h.modStream.issued

theorem execQfence_inv {d mask} (h : s.Inv) : (execQfence d mask s).Inv := State.Inv.ite h.waitsAt h.issued

theorem execLaunch_inv {g} (h : s.Inv) : (execLaunch g s).Inv := by
  unfold execLaunch
  refine State.Inv.ite h.trap (State.Inv.ite h.trap (State.Inv.ite h.waitsAt ?_))
  split
  · exact h.trap
  · exact State.Inv.ite h.trap h.setBlock.modWork.modWork.issued

theorem execLaunchGraph_inv {g} (h : s.Inv) : (execLaunchGraph g s).Inv :=
  State.Inv.ite (h.modWork.issued.acceptGraph (fun _ h1 => h1.modWork.waitsAt)) (State.Inv.ite h.waitsAt h.modWork.waitsAt)

theorem execOverlay_inv (h : s.Inv) : (execOverlay s).Inv := h.modCond.issued

theorem execOverlaySwap_inv {k} (h : s.Inv) : (execOverlaySwap k s).Inv := by
  unfold execOverlaySwap
  dsimp only
  split
  · exact h
  · exact State.Inv.ite h.modTask.freeCond h

theorem State.Inv.ctlSignal {k c} (h : s.Inv) : (s.ctlSignal k c).Inv := by
  unfold State.ctlSignal
  refine State.Inv.ite h ?_
  split
  · exact h.modCond
  · exact h.containTask

theorem State.Inv.modItem {i n f} (h : s.Inv) : (s.modItem i n f).Inv := h.modStream
theorem State.Inv.ctlDone {k i n c} (h : s.Inv) : (s.ctlDone k i n c).Inv := h.endFrameWait.modCond.modStream.ctlSignal

theorem State.Inv.joinFrame {b t} (h : s.Inv) : (s.joinFrame b t).Inv := by
  unfold State.joinFrame
  split
  · exact State.Inv.ite h.setBlock h
  · exact h

theorem State.Inv.readCtl {k d i n c} (h : s.Inv) : (s.readCtl k d i n c).Inv := by
  unfold State.readCtl
  split
  · split
    · exact State.Inv.ite h.containTask.ctlDone h.containTask
    · exact State.Inv.ite (State.Inv.ite h.containTask.ctlDone h.containTask) h.setBlock.modWork.joinFrame.modItem

theorem State.Inv.serveCtl {k i n c} (h : s.Inv) : (s.serveCtl k i n c).Inv :=
  State.Inv.ite h.modItem (State.Inv.ite h.modCond.modItem h.modCond)

theorem execControlBlockHead_inv {k d q} (h : s.Inv) : (execControlBlockHead k d q s).Inv := by
  unfold execControlBlockHead
  refine State.Inv.ite h ?_
  split
  · exact h
  · refine State.Inv.ite h.readCtl ?_
    split
    · exact h
    · exact h.serveCtl

theorem State.Inv.runCtl {k i n c} (h : s.Inv) : (s.runCtl k i n c).Inv := by
  unfold State.runCtl
  extract_lets src f fail
  have hfail {u : State} {cause r} (hu : u.Inv) : (fail u cause r).Inv :=
    State.Inv.ite hu.containTask.poisonJob.ctlDone hu.containTask
  have hj {op d} : (s.runJob c.ctx op d).1.Inv := h.runJob
  dsimp only
  split
  · exact hj.ctlDone
  · exact frameWait_inv hj (fun _ h1 => hfail h1) fun _ h1 => h1
  · exact hj
  · exact hfail hj

theorem execControlBlockComplete_inv {k d q} (h : s.Inv) : (execControlBlockComplete k d q s).Inv := by
  unfold execControlBlockComplete
  refine State.Inv.ite h ?_
  split
  · exact h
  · exact State.Inv.ite h.ctlDone h.runCtl

/-! Functions of Machine/Place.lean. -/

theorem State.Inv.numberBlock {b} (h : s.Inv) : (s.numberBlock b).Inv := by
  unfold State.numberBlock
  split
  · exact State.Inv.ite h h.setBlock.modWork.placeOutputs
  · exact h

theorem State.Inv.emptyBlock {b} (h : s.Inv) : (s.emptyBlock b).Inv := by
  unfold State.emptyBlock
  split
  · exact State.Inv.ite h.finishBlock h
  · exact h

theorem State.Inv.badBlock {b x} (h : s.Inv) : (s.badBlock b x).Inv := h.setBlock.modWork.containTask
theorem State.Inv.askGate {up die} (h : s.Inv) : (s.askGate up die).Inv := h.modEnergy

theorem State.Inv.placeBlock {b} (h : s.Inv) : (s.placeBlock b).Inv := by
  unfold State.placeBlock
  split
  · exact h
  · refine State.Inv.ite h.badBlock ?_
    split
    · split
      · exact h.askGate
      · exact h
    · exact State.Inv.emptyBlock (State.Inv.numberBlock (State.Inv.ite h.setBlock h.setBlock.joinFrame))

theorem State.Inv.readSuccessor {ctx va g t parent refill waits} (h : s.Inv) (hwaits : ∀ a, a.Inv → (waits a).Inv) :
    (s.readSuccessor ctx va g t parent refill waits).Inv := by
  unfold State.readSuccessor
  dsimp only
  split
  next e => exact (h.cdRead.trap e).containTask
  next e =>
    have h1 := h.cdRead.wait e
    exact State.Inv.ite (hwaits _ h1) (frameWait_inv h1 (fun _ h2 => h2.containTask) hwaits)
  next e =>
    have h1 := (h.cdRead.ok e).endFrameWait (u := .successor ctx)
    split
    · exact h1.containTask
    · exact h1.addBlock.modWork

theorem State.Inv.enterSuccessor {ctx va g t parent} (h : s.Inv) : (s.enterSuccessor ctx va g t parent).Inv :=
  State.Inv.ite h.unreserve.addSpill (h.unreserve.readSuccessor (fun _ h1 => h1.addSpill))

theorem State.Inv.refill (h : s.Inv) : s.refill.Inv := by
  unfold State.refill
  refine State.Inv.ite h ?_
  split
  · exact h
  · split
    · exact h.modCtx.modWork.readSuccessor (fun _ h1 => h1.modCtx)
    · exact h.modCtx.modWork.modWork

theorem execPoolService_inv (h : s.Inv) : (execPoolService s).Inv := by
  unfold execPoolService
  dsimp only
  split
  · exact h.refill.placeBlock
  · exact h.refill

theorem State.Inv.trimSlots {die} (h : s.Inv) : (s.trimSlots die).Inv := h.modDisp
theorem State.Inv.freePool (h : s.Inv) : s.freePool.Inv := h.modWork
theorem State.Inv.giveSlot {die b} (h : s.Inv) : (s.giveSlot die b).Inv := h.modDisp.modBlock.freePool

theorem State.Inv.openQueued {die b} (h : s.Inv) : (s.openQueued die b).Inv := by
  unfold State.openQueued
  split
  · exact h
  · exact h.setBlock.numberBlock.giveSlot.emptyBlock

theorem State.Inv.takeOffer {die o} (h : s.Inv) : (s.takeOffer die o).Inv := by
  unfold State.takeOffer
  split
  · exact h.giveSlot
  · exact State.Inv.ite h.modItem.modWork h.openQueued

theorem execDieSlotFill_inv {die} (h : s.Inv) : (execDieSlotFill die s).Inv := by
  unfold execDieSlotFill
  refine State.Inv.ite h (State.Inv.ite (State.Inv.ite h ?_) (State.Inv.ite h.trimSlots ?_))
  · split
    · exact h.takeOffer
    · exact h
  · split
    · exact h.trimSlots.giveSlot
    · split
      · exact h.trimSlots.takeOffer
      · split
        · exact h.trimSlots.takeOffer
        · exact h.trimSlots

/-! Functions of Machine/Select.lean. -/

theorem State.Inv.startAcquires {core ctx tt idx l l1} (h : s.Inv) : (s.startAcquires core ctx tt idx l l1).Inv := by
  induction l1 generalizing s with
  | nil => exact h.endFrameWait.modTt
  | cons x xs ih =>
    unfold State.startAcquires
    refine State.Inv.ite h (State.Inv.ite h.modTt ?_)
    split
    next e => exact ih (h.access.trap e).containTt
    next e => exact frameWait_inv (h.access.wait e) (fun _ h1 => h1.containTt.modTt) fun _ h1 => h1.modTt
    next e => exact ih (h.access.ok e).touchParts.acquire

theorem State.Inv.goOnAcquiring {tt} (h : s.Inv) : (s.goOnAcquiring tt).Inv := by
  unfold State.goOnAcquiring
  split
  · exact h
  · split
    · exact h.startAcquires
    · exact h.modTt

theorem State.Inv.leavePool {b idx} (h : s.Inv) : (s.leavePool b idx).Inv := by
  unfold State.leavePool
  dsimp only
  split
  · exact h.modWork
  · exact h.modWork.setBlock.dropSpill

theorem State.Inv.leavePartition {n} (h : s.Inv) : (s.leavePartition n).Inv := by
  unfold State.leavePartition
  split
  · exact h
  · exact h.setStrand.modCore

theorem State.Inv.enterPartition {n st} (h : s.Inv) : (s.enterPartition n st).Inv := h.setStrand

theorem State.Inv.dispatch {die core b idx x w} (h : s.Inv) : (s.dispatch die core b idx x w).Inv :=
  State.Inv.trimSlots (State.Inv.startAcquires (State.Inv.acquire (State.Inv.modDisp (State.Inv.leavePool
      (h.setTt.modWork.modCtx.modCore.foldl (fun _ _ h1 => h1.enterPartition))))))

theorem State.Inv.reserveCore {die b} (h : s.Inv) : (s.reserveCore die b).Inv := by
  unfold State.reserveCore
  refine State.Inv.ite h ?_
  split
  · exact h.modDisp
  · exact h

theorem State.Inv.tryDispatch {die b idx x after} (h : s.Inv) (hafter : ∀ a, a.Inv → (after a).Inv) :
    (s.tryDispatch die b idx x after).Inv := by
  unfold State.tryDispatch
  split
  · exact trivial
  · split
    · exact hafter _ h.dispatch
    · exact h.reserveCore

theorem State.Inv.stepCursor {die b} (h : s.Inv) : (s.stepCursor die b).Inv := h.modBlock

theorem State.Inv.walkFaults {b idx} (h : s.Inv) : (s.walkFaults b idx).Inv :=
  h.foldl (fun _ _ h1 => State.Inv.ite h1.faultIteration h1)

theorem State.Inv.walkStep {die b x} (h : s.Inv) : (s.walkStep die b x).Inv := by
  unfold State.walkStep
  dsimp only
  split
  · exact h.openAll.tryDispatch (fun _ h1 => h1.stepCursor.trimSlots)
  · split
    · exact trivial
    · exact State.Inv.trimSlots (State.Inv.walkFaults (State.Inv.holdAll (State.Inv.ite h.openAll.stepCursor.modBlock
        (State.Inv.ite h.openAll.stepCursor.modBlock.addSpill h.openAll.stepCursor.modBlock.modWork))))

theorem State.Inv.selectBlock {die b} (h : s.Inv) : (s.selectBlock die b).Inv := by
  unfold State.selectBlock
  split
  · exact trivial
  · split
    · exact trivial
    · split
      · split
        · exact h.tryDispatch (fun _ ha => ha)
        · exact trivial
      · dsimp only
        split
        · exact h.walkStep
        · exact trivial

theorem State.Inv.selectFrom {die l} (h : s.Inv) : (s.selectFrom die l).Inv := by
  induction l generalizing s with
  | nil => exact h
  | cons x xs ih =>
    unfold State.selectFrom
    split
    next e => exact h.selectBlock.done e
    · exact ih h
    next e => exact State.Inv.ite (ih h) (h.selectBlock.blocked e)

theorem execIterationSelect_inv {die} (h : s.Inv) : (execIterationSelect die s).Inv := State.Inv.ite h h.trimSlots.selectFrom

theorem execStealRequest_inv {die} (h : s.Inv) : (execStealRequest die s).Inv := by
  unfold execStealRequest
  refine State.Inv.ite h ?_
  split
  · exact State.Inv.ite h h.modDisp.modDisp
  · exact h.modDisp

theorem State.Inv.refuse {thief} (h : s.Inv) : (s.refuse thief).Inv := State.Inv.ite h.modDisp.modDisp h.modDisp
theorem State.Inv.splitRange {victim thief b x} (h : s.Inv) : (s.splitRange victim thief b x).Inv := h.setBlock.modDisp

theorem execStealReply_inv {die} (h : s.Inv) : (execStealReply die s).Inv := by
  unfold execStealReply
  split
  · exact h
  · refine State.Inv.ite h (State.Inv.ite h.modDisp.modDisp ?_)
    split
    · exact h.modDisp.splitRange
    · exact h.modDisp.refuse

theorem execStealBackoffExpiry_inv {die} (h : s.Inv) : (execStealBackoffExpiry die s).Inv := State.Inv.ite h.modDisp h

/-! Functions of Machine/Sched.lean. -/

theorem State.Inv.submitWrite {v} (h : s.Inv) : (s.submitWrite v).Inv :=
  State.Inv.ite h.modHost (State.Inv.ite h.modHost h.modHost)

theorem execSubmit_inv {v} (h : s.Inv) : (execSubmit v s).Inv := h.submitWrite

theorem execGraphAccept_inv (h : s.Inv) : (execGraphAccept s).Inv := by
  unfold execGraphAccept
  extract_lets u
  have hu : u.Inv := State.Inv.ite h h.hostWrites
  clear_value u
  split
  · exact hu
  extract_lets v stays
  have hv : v.Inv := hu.modHost.modWork
  refine State.Inv.ite hu ?_
  split
  · exact State.Inv.ite hv (hv.acceptGraph fun _ h1 => h1.modHost.modWork)
  · exact hv

theorem State.Inv.admitTo {k g t e} (h : s.Inv) : (s.admitTo k g t e).Inv := by
  unfold State.admitTo
  dsimp only
  split
  · exact h.modTask.unlist.modEnergy
  · split
    · exact h.modTask.unlist.modEnergy.beginOverlay
    · exact State.Inv.ite h.modTask.unlist.modEnergy.containTask.modTask h.modTask.unlist.modEnergy.containTask

theorem State.Inv.admitFrom {k l x} (h : s.Inv) : (s.admitFrom k l x).Inv := by
  induction l generalizing s x with
  | nil => exact h
  | cons x xs ih =>
    unfold State.admitFrom
    split
    · refine State.Inv.ite (ih h) (State.Inv.ite (ih h) (State.Inv.ite (ih h) ?_))
      split
      · exact ih h
      · exact h.admitTo
    · exact ih h

theorem execAdmitStep_inv (h : s.Inv) : (execAdmitStep s).Inv := by
  unfold execAdmitStep
  refine State.Inv.ite h ?_
  split
  · exact h
  · exact h.admitFrom

theorem State.Inv.missTask {g t} (h : s.Inv) : (s.missTask g t).Inv := State.Inv.ite h.modTime.modCtx h

theorem execTaskComplete_inv {graph task} (h : s.Inv) : (execTaskComplete graph task s).Inv := by
  unfold execTaskComplete
  split
  · exact h
  · exact State.Inv.ite h.missTask.taskDone h

theorem execGraphComplete_inv {graph} (h : s.Inv) : (execGraphComplete graph s).Inv := by
  unfold execGraphComplete
  split
  · exact h
  · split
    · exact h.endGraph
    · exact State.Inv.ite h.endGraph h

theorem State.Inv.freeWindows {tt t} (h : s.Inv) : (s.freeWindows tt t).Inv :=
  State.Inv.setTt (State.Inv.modCore (h.foldl (fun _ _ h1 => h1.leavePartition)))

theorem State.Inv.readyAgain {b idx die} (h : s.Inv) : (s.readyAgain b idx die).Inv := State.Inv.ite h.modBlock.modDisp h.modBlock

theorem State.Inv.endTt {tt t} (h : s.Inv) : (s.endTt tt t).Inv := by
  unfold State.endTt
  refine State.Inv.reapCtx (State.Inv.ite h.freeWindows.modCtx.readyAgain ?_)
  split
  · exact State.Inv.iterationDone (h.freeWindows.modCtx.foldl (fun _ _ h1 => h1.enterSuccessor))
  · exact h.freeWindows.modCtx

theorem execTileTaskEnd_inv {tt} (h : s.Inv) : (execTileTaskEnd tt s).Inv := by
  unfold execTileTaskEnd
  split
  · exact h
  · exact State.Inv.ite h.endTt h

theorem execDeadlockAwait_inv {tt} (h : s.Inv) : (execDeadlockAwait tt s).Inv := by
  unfold execDeadlockAwait
  split
  · exact h
  · exact State.Inv.ite h (State.Inv.foldl (h.foldl (fun _ _ h1 => h1.modStrand)) (fun _ _ h1 => State.Inv.ite h1.failCmd h1))

/-! Functions of Machine/Links.lean. -/

theorem execFlitReceive_inv {module dir seq vc crcOk free} (h : s.Inv) :
    (execFlitReceive module dir seq vc crcOk free s).Inv := by
  unfold execFlitReceive
  refine State.Inv.ite h ?_
  split
  · exact h.modLink
  · exact h.modLink

theorem State.Inv.countRetry {module} (h : s.Inv) : (s.countRetry module).Inv := State.Inv.ite h.modLink.mEvent h.modLink

theorem execNakReceive_inv {module dir seq} (h : s.Inv) : (execNakReceive module dir seq s).Inv :=
  State.Inv.ite h h.modLink.countRetry

theorem execAckReceive_inv {module dir seq} (h : s.Inv) : (execAckReceive module dir seq s).Inv := State.Inv.ite h h.modLink
theorem execLinkWindowStart_inv {module} (h : s.Inv) : (execLinkWindowStart module s).Inv := State.Inv.ite h.modLink h
theorem execLnkctlPause_inv {module pause} (h : s.Inv) : (execLnkctlPause module pause s).Inv := State.Inv.ite h.modLink h
theorem execLinkPauseComplete_inv {module} (h : s.Inv) : (execLinkPauseComplete module s).Inv := State.Inv.ite h.modLink h
theorem execLnkctlTrain_inv {module} (h : s.Inv) : (execLnkctlTrain module s).Inv := State.Inv.ite h.modLink h
theorem execLnkctlWindow_inv {module len} (h : s.Inv) : (execLnkctlWindow module len s).Inv := State.Inv.ite h.modLink h
theorem execLnkstatSvcClear_inv {module} (h : s.Inv) : (execLnkstatSvcClear module s).Inv := State.Inv.ite h.modLink h

theorem State.Inv.bypass {module} (h : s.Inv) : (s.bypass module).Inv := by
  unfold State.bypass
  refine h.foldl (fun s1 dir h1 => ?_)
  split
  · exact h1
  · exact h1.modLink.modLink

theorem State.Inv.dropDie {die} (h : s.Inv) : (s.dropDie die).Inv := h
theorem State.Inv.killIsolated {ctx die} (h : s.Inv) : (s.killIsolated ctx die).Inv := h.logFault.killCtxWith
theorem State.Inv.isolate {die} (h : s.Inv) : (s.isolate die).Inv := h.dropDie.foldl (fun _ _ h1 => h1.killIsolated)

theorem execLinkTrainComplete_inv {module failed spareFailed} (h : s.Inv) :
    (execLinkTrainComplete module failed spareFailed s).Inv := by
  unfold execLinkTrainComplete
  refine State.Inv.ite h ?_
  split
  · exact h.modLink
  · exact State.Inv.ite h.modLink.bypass.isolate h.modLink.bypass

/-! Functions of Machine/Clock.lean. -/

theorem State.Inv.account {t1} (h : s.Inv) : (s.account t1).Inv :=
  State.Inv.ite h (h.foldl (fun _ _ h1 => State.Inv.ite h1 (h1.modCore.foldl (fun _ _ h2 => h2.modStrand))))

theorem execCounterClear_inv {core offset} (h : s.Inv) : (execCounterClear core offset s).Inv := State.Inv.ite h.modCore h
theorem State.Inv.useQueues {pt} (h : s.Inv) : (s.useQueues pt).Inv := h.modWork.foldl (fun _ _ h1 => h1.mEvent)
theorem State.Inv.writeQsched {i v} (h : s.Inv) : (s.writeQsched i v).Inv := h.modStream
theorem execQschedWrite_inv {die core q v} (h : s.Inv) : (execQschedWrite die core q v s).Inv := State.Inv.ite h h.writeQsched
theorem execQueuePeriodStart_inv {die core q} (h : s.Inv) : (execQueuePeriodStart die core q s).Inv := State.Inv.ite h h.modStream
theorem execQueueOverrun_inv {die core q} (h : s.Inv) : (execQueueOverrun die core q s).Inv := State.Inv.ite h h.modStream.mEvent
theorem State.Inv.noteClock {dt} (h : s.Inv) : (s.noteClock dt).Inv := State.Inv.ite h h.modDebug
theorem State.Inv.closeStamps {dt} (h : s.Inv) : (s.closeStamps dt).Inv := State.Inv.ite h (h.foldl (fun _ _ h1 => h1.closeStamp))

theorem State.Inv.elapse {dt skew} (h : s.Inv) : (s.elapse dt skew).Inv :=
  State.Inv.ite h.settleSlips.settleAll.settleAreas
      h.account.noteClock.closeStamps.useQueues.modTime.settleSlips.settleAll.settleAreas

theorem execPtExchange_inv {die ppm offset} (h : s.Inv) : (execPtExchange die ppm offset s).Inv := State.Inv.ite h h.modTime
theorem execPtHoldover_inv {die} (h : s.Inv) : (execPtHoldover die s).Inv := State.Inv.ite h.modTime h
theorem State.Inv.noteOffset {off} (h : s.Inv) : (s.noteOffset off).Inv := h.modTime
theorem execPtpMessage_inv {message} (h : s.Inv) : (execPtpMessage message s).Inv := State.Inv.ite h h.modTime.noteOffset
theorem execPtStep_inv {facility} (h : s.Inv) : (execPtStep facility s).Inv := State.Inv.ite h h.modTime.noteOffset
theorem execLockWaitExpiry_inv (h : s.Inv) : (execLockWaitExpiry s).Inv := State.Inv.ite h h.modTime
theorem execFrontierSample_inv {die} (h : s.Inv) : (execFrontierSample die s).Inv := State.Inv.ite h h.modTime

theorem execFrontierMessage_inv {src dst lost} (h : s.Inv) : (execFrontierMessage src dst lost s).Inv := by
  unfold execFrontierMessage
  split
  · exact h
  · exact h.modTime.settleSlips

theorem execFrontierSlip_inv {die} (h : s.Inv) : (execFrontierSlip die s).Inv := State.Inv.ite h h.modTime
theorem execFrameOverrun_inv (h : s.Inv) : (execFrameOverrun s).Inv := State.Inv.ite h.modTime h

theorem execFrameStart_inv (h : s.Inv) : (execFrameStart s).Inv := by
  unfold execFrameStart
  refine State.Inv.ite ?_ (State.Inv.ite h (State.Inv.ite h.modTime h.modTime.modTime))
  split
  · exact h
  · exact State.Inv.ite h.modTime h

theorem execTimetableRelease_inv (h : s.Inv) : (execTimetableRelease s).Inv :=
  State.Inv.ite h (h.foldl (fun _ _ h1 => h1.modBlock))

/-! Functions of Machine/Save.lean. -/

theorem State.Inv.writeRecord {v} (h : s.Inv) : (s.writeRecord v).Inv := h.foldl (fun _ _ h1 => h1.writePiece)

/-! Functions of Machine/Preempt.lean. -/

theorem State.Inv.askTt {r grace n} (h : s.Inv) : (s.askTt r grace n).Inv := by
  unfold State.askTt
  split
  · exact h
  · refine State.Inv.ite h ?_
    split
    · exact State.Inv.ite h.modTt h.killTt
    · exact State.Inv.ite h.modTt.haltConds h
    · exact h.modTt

theorem State.Inv.parkTt {n} (h : s.Inv) : (s.parkTt n).Inv := h.askTt.modTt

theorem State.Inv.killSaved {p} (h : s.Inv) : (s.killSaved p).Inv := by
  unfold State.killSaved
  refine h.foldl (fun s1 x h1 => State.Inv.iterationDone ?_)
  split
  · exact h1.discardSaved
  · exact h1

theorem execPreemptRequest_inv {t r grace} (h : s.Inv) : (execPreemptRequest t r grace s).Inv := by
  unfold execPreemptRequest
  refine State.Inv.ite (State.Inv.killSaved (State.Inv.foldl (State.Inv.ite ?_ h) (fun _ _ h1 => h1.askTt))) (State.Inv.foldl
      (State.Inv.ite ?_ h) (fun _ _ h1 => h1.askTt))
  · split
    · exact h.modDebug.haltConds
    · exact h.modDebug
  · split
    · exact h.modDebug.haltConds
    · exact h.modDebug

theorem State.Inv.stopStrand {n k} (h : s.Inv) : (s.stopStrand n k).Inv := by
  unfold State.stopStrand
  split
  · exact h
  refine State.Inv.modCore (State.Inv.modStrand ?_)
  split
  · exact h
  refine State.Inv.ite h ?_
  split
  · exact h.modStrand.modStrand
  · exact h.modStrand.takeTrap h.modStrand

theorem execGraceExpiry_inv {tt} (h : s.Inv) : (execGraceExpiry tt s).Inv := by
  unfold execGraceExpiry
  split
  · exact h
  · split
    · exact h
    · refine State.Inv.ite h (h.foldl (fun s1 n h1 => ?_))
      split
      · exact State.Inv.ite h1 h1.stopStrand
      · exact h1

theorem State.Inv.ctxFault {ctx tt c} (h : s.Inv) : (s.ctxFault ctx tt c).Inv := h.logFault.killCtx

theorem State.Inv.cutHeads {t} (h : s.Inv) : (s.cutHeads t).Inv := by
  unfold State.cutHeads
  refine State.Inv.foldl (h.foldl (fun s1 n h1 => ?_)) (fun _ _ h1 => h1.modDebug)
  split
  · exact h1.modDebug
  · exact h1

theorem execPreemptSave_inv {tt} (h : s.Inv) : (execPreemptSave tt s).Inv := by
  unfold execPreemptSave
  split
  · exact h
  · split
    · exact h
    · exact State.Inv.ite h (State.Inv.ite (State.Inv.ctxFault (State.Inv.ite h.cutHeads h)) (State.Inv.modTt (State.Inv.modWork
        (State.Inv.foldl (State.Inv.modCore (State.Inv.ite h.cutHeads h)) (fun _ _ h1 => h1.endFrameWait.modCore)))))

theorem State.Inv.parkTask {b} (h : s.Inv) : (s.parkTask b).Inv := by
  unfold State.parkTask
  split
  · exact h
  · exact State.Inv.ite h h.leaveQ.modTask

theorem State.Inv.gateIdle {die} (h : s.Inv) : (s.gateIdle die).Inv := State.Inv.ite h h.askGate
theorem State.Inv.discarded {t} (h : s.Inv) : (s.discarded t).Inv := State.Inv.ite h.readyAgain h.iterationDone

theorem execSaveComplete_inv {tt} (h : s.Inv) : (execSaveComplete tt s).Inv := by
  unfold execSaveComplete
  split
  · exact h
  extract_lets held u
  refine State.Inv.ite h ?_
  have hu : u.Inv := h.freeWindows
  split
  · exact hu.reapCtx
  · exact State.Inv.ite hu.ctxFault (State.Inv.ite hu.writeRecord.dropSaved.discarded.reapCtx
      (State.Inv.ite hu.writeRecord.parkTask.gateIdle hu.writeRecord))

theorem execResumeRequest_inv {t} (h : s.Inv) : (execResumeRequest t s).Inv := by
  unfold execResumeRequest
  split
  · refine h.modWork.foldl (fun s1 k h1 => ?_)
    split
    · exact State.Inv.ite h1.modCond h1
    · exact h1
  · exact h.modWork

theorem State.Inv.again {core ctx va l} (h : s.Inv) : (s.again core ctx va l).Inv := by
  induction l generalizing s with
  | nil => exact h
  | cons x xs ih =>
    unfold State.again
    split
    next e => exact h.access.trap e
    next e => exact h.access.wait e
    next e =>
      split
      next e1 => exact Res.Inv.ok_of e1 (ih (h.access.ok e))
      next e1 => exact Res.Inv.trap_of e1 (ih (h.access.ok e))
      next e1 => exact Res.Inv.wait_of e1 (ih (h.access.ok e))

theorem State.Inv.replayLoads {n core ctx l l1} (h : s.Inv) : (s.replayLoads n core ctx l l1).Inv := by
  induction l1 generalizing s l with
  | nil => exact h.modStrand
  | cons x xs ih =>
    unfold State.replayLoads
    split
    next e =>
      exact State.Inv.ite (ih ((h.again.trap e).modStrand.takeTrap (h.again.trap e).modStrand)) ((h.again.trap
          e).modStrand.takeTrap (h.again.trap e).modStrand)
    next e => exact ih (h.again.ok e)
    next e => exact h.again.wait e

theorem State.Inv.reenterCmd {core strandOf q x} (h : s.Inv) : (s.reenterCmd core strandOf q x).Inv := h.modCore.noteHead

theorem State.Inv.resumeTt {tt core v} (h : s.Inv) : (s.resumeTt tt core v).Inv := by
  unfold State.resumeTt
  refine State.Inv.modTt (State.Inv.foldl (State.Inv.foldl (State.Inv.ite (State.Inv.acquire (State.Inv.foldl (State.Inv.foldl
      (h.modWork.setTt.modCore.foldl (fun _ _ h1 => h1.setStrand)) (fun _ _ h1 => h1.reenterCmd)) (fun _ _ h1 => h1.signal)))
      (State.Inv.acquire (State.Inv.acquire (State.Inv.foldl (State.Inv.foldl (h.modWork.setTt.modCore.foldl (fun _ _ h1 =>
      h1.setStrand)) (fun _ _ h1 => h1.reenterCmd)) (fun _ _ h1 => h1.signal))))) (fun _ _ h1 => h1.modStrand)) (fun s1 n h1 =>
      ?_))
  split
  · exact h1.replayLoads
  · exact h1

theorem execTileTaskResume_inv {tt core} (h : s.Inv) : (execTileTaskResume tt core s).Inv := by
  unfold execTileTaskResume
  split
  · exact h
  · exact State.Inv.ite h.resumeTt.trimSlots h

theorem execContextCreate_inv {ctx x} (h : s.Inv) : (execContextCreate ctx x s).Inv :=
  State.Inv.ite h (State.Inv.homeWriteAll (State.Inv.setCtx (State.Inv.modMem h rfl)))

theorem execFaultLogDrain_inv {ctx count} (h : s.Inv) : (execFaultLogDrain ctx count s).Inv := by
  unfold execFaultLogDrain
  split
  · exact h
  · exact State.Inv.ite h h.homeWrite

/-! Functions of Machine/Debug.lean. -/

theorem execDebugStop_inv {ctx} (h : s.Inv) : (execDebugStop ctx s).Inv := State.Inv.ite h (State.Inv.ite h.modCtx h.debugStop)

theorem execDump_inv {ctx} (h : s.Inv) : (execDump ctx s).Inv := by
  unfold execDump
  split
  · exact h
  · exact State.Inv.ite h (State.Inv.modDebug (h.foldl (fun _ _ h1 => h1.touchLines)))

theorem State.Inv.trace {die r} (h : s.Inv) : (s.trace die r).Inv := h.modDebug
theorem State.Inv.modTrigger {t f} (h : s.Inv) : (s.modTrigger t f).Inv := h.modDebug

theorem execTriggerMatch_inv {t} (h : s.Inv) : (execTriggerMatch t s).Inv :=
  State.Inv.ite h (State.Inv.ite h.modTrigger (State.Inv.ite h.modTrigger.debugStop h.modTrigger.trace))

/-! Functions of Machine/Energy.lean. -/

theorem State.Inv.setEntry {g t i q} (h : s.Inv) : (s.setEntry g t i q).1.Inv := by
  unfold State.setEntry
  split
  · exact h.modTask
  · exact h

theorem State.Inv.lowerAll {ts target k x} (h : s.Inv) : (s.lowerAll ts target k x).1.Inv := by
  induction k generalizing s x with
  | zero => exact h
  | succ k ih =>
    unfold State.lowerAll
    split
    · exact h
    · split
      · exact ih h.setEntry
      · exact h

theorem State.Inv.raiseAll {target l x} (h : s.Inv) : (s.raiseAll target l x).1.Inv := by
  induction l generalizing s x with
  | nil => exact h
  | cons x xs ih =>
    unfold State.raiseAll
    split
    · split
      · exact ih h.setEntry
      · exact ih h
    · exact ih h

theorem State.Inv.replan (h : s.Inv) : s.replan.Inv := State.Inv.ite h h.lowerAll.raiseAll.modEnergy

theorem execReplan_inv (h : s.Inv) : (execReplan s).Inv :=
  State.Inv.ite (State.Inv.ite h h.modEnergy.replan) (State.Inv.ite h.replan h)

theorem State.Inv.noteAbove (h : s.Inv) : s.noteAbove.Inv := h.modEnergy

theorem execMeterSample_inv {power idle est} (h : s.Inv) : (execMeterSample power idle est s).Inv :=
  State.Inv.ite h h.modEnergy.modEnergy.noteAbove

theorem execPowerWindowEnd_inv (h : s.Inv) : (execPowerWindowEnd s).Inv := State.Inv.ite h h.modEnergy
theorem execPwrbandClear_inv (h : s.Inv) : (execPwrbandClear s).Inv := h.modEnergy
theorem State.Inv.reply {m} (h : s.Inv) : (s.reply m).Inv := h.modHost

theorem execCurveRecord_inv {header record sender} (h : s.Inv) : (execCurveRecord header record sender s).Inv := by
  unfold execCurveRecord
  split
  · exact h
  · refine State.Inv.ite h ?_
    split
    · exact h.reply
    · exact h.noteAbove.modEnergy.reply

theorem execCurveTakeEffect_inv (h : s.Inv) : (execCurveTakeEffect s).Inv :=
  State.Inv.ite h (State.Inv.ite h.noteAbove.modEnergy.noteAbove.replan h.noteAbove.modEnergy.noteAbove)

theorem State.Inv.movePage {frame target} (h : s.Inv) : (s.movePage frame target).Inv :=
  wf_moveFrame _ _ h.moveQueues.zeroFrame.touchChannel

theorem State.Inv.relocate {die lvl pa} (h : s.Inv) {f : Nat} {t : State} (e : s.relocate die lvl pa = some (f, t)) : t.Inv := by
  unfold State.relocate at e
  dsimp only at e
  split at e
  · cases e
  · cases e
    exact State.Inv.foldl (State.Inv.modMem h rfl) fun _ _ h => h.movePage

theorem State.Inv.relocateAll {die l} (h : s.Inv) {t : State} (e : s.relocateAll die l = some t) : t.Inv := by
  induction l generalizing s with
  | nil =>
    cases e
    exact h
  | cons x l ih =>
    unfold State.relocateAll at e
    dsimp only at e
    split at e
    next hs => exact ih (h.relocate hs).homeWrite8 e
    · cases e

theorem State.Inv.escrow {ctx c} (h : s.Inv) : (s.escrow ctx c).Inv := by
  unfold State.escrow
  dsimp only
  split
  · exact h
  next e => exact (h.relocateAll e).modCtx.dropTlb

theorem State.Inv.bringBack {ctx l} (h : s.Inv) {t : State} (e : s.bringBack ctx l = some t) : t.Inv := by
  unfold State.bringBack at e
  split at e
  · cases e
  · obtain ⟨u, hu, rfl⟩ := Option.map_eq_some_iff.mp e
    exact (h.relocateAll hu).modCtx.dropTlb

theorem State.Inv.fetchBack {ctx} (h : s.Inv) {t : State} (e : s.fetchBack ctx = some t) : t.Inv := by
  unfold State.fetchBack at e
  split at e
  · exact h.bringBack e
  · cases e
    exact h

theorem State.Inv.leaveFrames {p} (h : s.Inv) : (s.leaveFrames p).Inv := h.modWork

theorem State.Inv.rejoinFrames {t p} (h : s.Inv) : (s.rejoinFrames t p).Inv := by
  unfold State.rejoinFrames
  refine h.foldl (fun s1 x h1 => ?_)
  split
  · exact State.Inv.ite h1.joinFrame h1
  · exact h1

theorem State.Inv.parkTasks (h : s.Inv) : s.parkTasks.Inv :=
  State.Inv.foldl (State.Inv.leaveFrames (h.foldl (fun _ _ h1 => h1.parkTt))) (fun _ _ h1 => h1.gateIdle)

theorem State.Inv.shedTasks (h : s.Inv) : s.shedTasks.Inv := by
  unfold State.shedTasks
  refine State.Inv.foldl (h.foldl (fun _ _ h1 => h1.shedTiles.modTask)) (fun s1 x h1 => ?_)
  split
  · exact h1
  · exact h1.killTask.containGraph

theorem State.Inv.setGrade {g} (h : s.Inv) : (s.setGrade g).Inv := h.modEnergy.replan

theorem execGradeEnter_inv (h : s.Inv) : (execGradeEnter s).Inv :=
  State.Inv.ite h (State.Inv.ite (State.Inv.parkTasks (State.Inv.ite h.noteAbove.setGrade.shedTasks h.noteAbove.setGrade))
      (State.Inv.ite h.noteAbove.setGrade.shedTasks h.noteAbove.setGrade))

theorem State.Inv.makeDue {p} (h : s.Inv) : (s.makeDue p).Inv := h.modWork

theorem State.Inv.unparkTasks (h : s.Inv) : s.unparkTasks.Inv := by
  unfold State.unparkTasks
  refine h.foldl (fun s1 x h1 => ?_)
  split
  · exact State.Inv.ite h1 h1.modTask.modEnergy
  · exact h1

theorem State.Inv.fetchAll (h : s.Inv) : s.fetchAll.Inv := by
  unfold State.fetchAll
  refine h.foldl fun s x h => ?_
  split
  · refine State.Inv.ite h ?_
    cases e : s.fetchBack x.1 with
    | none => exact h
    | some t => exact h.fetchBack e
  · exact h

theorem execGradeLeave_inv (h : s.Inv) : (execGradeLeave s).Inv :=
  State.Inv.ite h (State.Inv.ite h.noteAbove.setGrade (State.Inv.rejoinFrames (State.Inv.makeDue (State.Inv.unparkTasks
      (State.Inv.fetchAll (h.noteAbove.setGrade.foldl (fun _ _ h1 => State.Inv.ite h1.askGate h1)))))))

theorem execContextPark_inv {ctx} (h : s.Inv) : (execContextPark ctx s).Inv := by
  unfold execContextPark
  split
  · exact h
  · exact State.Inv.ite h.escrow (State.Inv.ite (State.Inv.ite h (State.Inv.leaveFrames (h.modCtx.foldl (fun _ _ h1 =>
      h1.parkTt)))) (State.Inv.escrow (State.Inv.ite h (State.Inv.leaveFrames (h.modCtx.foldl (fun _ _ h1 => h1.parkTt))))))

theorem execContextUnpark_inv {ctx} (h : s.Inv) : (execContextUnpark ctx s).Inv := by
  unfold execContextUnpark
  split
  · exact h
  · refine State.Inv.ite h (State.Inv.ite h.modCtx ?_)
    split
    · exact h
    next e1 => exact (h.fetchBack e1).modCtx.unparkTasks.makeDue.rejoinFrames

/-! Functions of Machine/Power.lean. -/

theorem State.Inv.modRegion {r f} (h : s.Inv) : (s.modRegion r f).Inv := State.Inv.ite h.modEnergy h.modEnergy

theorem execRegionFrequencyChange_inv {region} (h : s.Inv) : (execRegionFrequencyChange region s).Inv :=
  State.Inv.ite h h.modRegion

theorem State.Inv.setGated {die v} (h : s.Inv) : (s.setGated die v).Inv := h.modEnergy

theorem State.Inv.serveGate (h : s.Inv) : s.serveGate.Inv := by
  unfold State.serveGate
  refine State.Inv.ite h ?_
  split
  · exact h.modEnergy.modEnergy
  · exact h.foldl (fun _ _ h1 => State.Inv.ite h1.modEnergy h1.modEnergy.setGated)

theorem execDieGate_inv {die} (h : s.Inv) : (execDieGate die s).Inv := State.Inv.ite h h.askGate.serveGate
theorem execDieUngate_inv {die} (h : s.Inv) : (execDieUngate die s).Inv := State.Inv.ite h h.askGate.serveGate

theorem execDieUngateComplete_inv {die} (h : s.Inv) : (execDieUngateComplete die s).Inv :=
  State.Inv.ite h.setGated.modEnergy.serveGate h

theorem State.Inv.evacuate {r} (h : s.Inv) : (s.evacuate r).Inv := by
  unfold State.evacuate
  refine h.foldl (fun s1 x h1 => ?_)
  split
  · exact State.Inv.ite h1.askTt h1
  · exact h1

theorem execRegulatorFault_inv {region} (h : s.Inv) : (execRegulatorFault region s).Inv :=
  State.Inv.ite h (State.Inv.ite h.modRegion.mEvent.evacuate h.modRegion.mEvent)

theorem State.Inv.darken {r} (h : s.Inv) : (s.darken r).Inv := by
  unfold State.darken
  dsimp only
  split
  · exact State.Inv.ite (State.Inv.reserveCore (State.Inv.modDisp (State.Inv.modRegion h))) (State.Inv.modRegion h)
  · exact State.Inv.modRegion h

theorem execRegionDark_inv {region} (h : s.Inv) : (execRegionDark region s).Inv :=
  State.Inv.ite h (State.Inv.ite h.evacuate h.darken)

theorem execFeedLoss_inv {feed carries} (h : s.Inv) : (execFeedLoss feed carries s).Inv :=
  State.Inv.ite h h.modEnergy.send.modEnergy

theorem execManagementCoreKill_inv {ctx} (h : s.Inv) : (execManagementCoreKill ctx s).Inv := h.killCtx

/-! Functions of Machine/Ports.lean. -/

theorem boot_inv {c image accepted} : (boot c image accepted).Inv := reset_inv
theorem execPowerOn_inv (h : s.Inv) : (execPowerOn s).Inv := State.Inv.ite h boot_inv.modEnergy
theorem State.Inv.report {ctx c nonce} (h : s.Inv) : (s.report ctx c nonce).2.Inv := h.modHost

theorem State.Inv.cfgStart {cmd v} (h : s.Inv) : (s.cfgStart cmd v).Inv := by
  unfold State.cfgStart
  refine State.Inv.ite h ?_
  split
  · exact h.modHost
  · exact State.Inv.ite h (State.Inv.ite h.modHost h.modHost)

theorem execCfgInstallSection_inv {v} (h : s.Inv) : (execCfgInstallSection v s).Inv := h.cfgStart
theorem execCfgInstallFirmware_inv {v} (h : s.Inv) : (execCfgInstallFirmware v s).Inv := h.cfgStart
theorem execCfgAttestation_inv {v} (h : s.Inv) : (execCfgAttestation v s).Inv := h.cfgStart
theorem State.Inv.readStaging {a} (h : s.Inv) : (s.readStaging a).Inv := State.Inv.ite h h.touchLines
theorem State.Inv.cfgEnd {step} (h : s.Inv) : (s.cfgEnd step).Inv := h.modHost
theorem reboot_inv {c image} : (s.reboot c image).Inv := boot_inv.modEnergy.modHost

theorem State.Inv.installSection {bs} (h : s.Inv) : (s.installSection bs).Inv := by
  unfold State.installSection
  extract_lets put
  have hput {c} {k : State → State} (hk : (k s).Inv) : (put c k).Inv := State.Inv.ite reboot_inv.cfgEnd hk.cfgEnd
  split
  · refine State.Inv.ite h.cfgEnd (State.Inv.ite h.cfgEnd ?_)
    exact hput (k := fun s => s.modHost _) h.modHost
  · refine State.Inv.ite h.cfgEnd (State.Inv.ite h.cfgEnd ?_)
    exact hput (k := fun s => s.modHost _) h.modHost
  · exact h.cfgEnd

theorem State.Inv.installImage {bs} (h : s.Inv) : (s.installImage bs).Inv := by
  unfold State.installImage
  split
  · exact h.cfgEnd
  · exact State.Inv.ite h.cfgEnd (State.Inv.ite reboot_inv.cfgEnd h.modHost.cfgEnd)

theorem State.Inv.attest {a} (h : s.Inv) : (s.attest a).Inv := by
  unfold State.attest
  dsimp only
  split
  · exact h.cfgEnd
  · exact h.report.homeWriteAll.cfgEnd

theorem execCfgCommandDone_inv (h : s.Inv) : (execCfgCommandDone s).Inv := by
  unfold execCfgCommandDone
  refine State.Inv.ite h ?_
  split
  · exact h.readStaging.attest
  · exact State.Inv.ite h.readStaging.cfgEnd (State.Inv.ite h.readStaging.installSection h.readStaging.installImage)

theorem execSubstatClear_inv (h : s.Inv) : (execSubstatClear s).Inv := h.modHost
theorem State.Inv.writeAperture {v} (h : s.Inv) : (s.writeAperture v).Inv := State.Inv.ite h h.modHost
theorem execApertureWrite_inv {v} (h : s.Inv) : (execApertureWrite v s).Inv := h.writeAperture
theorem execKilledClear_inv {v} (h : s.Inv) : (execKilledClear v s).Inv := h.modHost
theorem State.Inv.answer {bs poisoned} (h : s.Inv) : (s.answer bs poisoned).Inv := h.modHost

theorem State.Inv.writeBar0 {off data} (h : s.Inv) : (s.writeBar0 off data).Inv := by
  unfold State.writeBar0
  refine State.Inv.ite (State.Inv.ite h.modHost h) ?_
  split
  · exact h.submitWrite
  · exact h.modHost
  · exact h.writeAperture
  · exact h.cfgStart
  · exact h.modHost
  · exact h

theorem execHostBar1Access_bar0 {off data} (write) (h : bar0Offset ≤ off) :
    execHostBar1Access write off data s = .next (if 4096 < off - bar0Offset + data.length then s
      else if write then s.writeBar0 (off - bar0Offset) data
      else s.answer (data.zipIdx.map fun x =>
        ((leBytes 8 (s.bar0Reg ((off - bar0Offset + x.2) / 8 * 8)).toNat)[(off - bar0Offset + x.2) % 8]?).getD 0) false) := by
  simp only [execHostBar1Access, if_pos h]

theorem execHostBar1Access_bar1 {off data} (write) (h : ¬ bar0Offset ≤ off) :
    execHostBar1Access write off data s = .next (if 2 ^ 24 < off + data.length then s
    else if write then s.modMem fun m => (data.zipIdx).foldl (fun m x => m.setBar1 (off + x.2) x.1) m
    else s.answer (data.zipIdx.map fun x => s.mem.bar1 (off + x.2)) false) := by
  simp only [execHostBar1Access, if_neg h]

theorem execHostBar1Access_inv {write off data} (h : s.Inv) : Out.Inv (execHostBar1Access write off data s) := by
  by_cases hoff : bar0Offset ≤ off
  · rw [execHostBar1Access_bar0 write hoff]
    exact State.Inv.ite h (.ite h.writeBar0 h.answer)
  · rw [execHostBar1Access_bar1 write hoff]
    exact State.Inv.ite h (.ite (State.Inv.modMem h (foldl_setBar1_bytes _ _ _)) h.answer)

theorem execHostBar2Access_inv {write off data} (h : s.Inv) : (execHostBar2Access write off data s).Inv :=
  State.Inv.ite h (State.Inv.ite (State.Inv.ite (State.Inv.modMem h rfl) h.answer) (State.Inv.ite h.modHost.hostWrites
      (State.Inv.ite h h.touchLines.answer)))

theorem execAttestationMessage_inv {header ctx reserved nonce sender} (h : s.Inv) :
    (execAttestationMessage header ctx reserved nonce sender s).Inv := by
  unfold execAttestationMessage
  split
  · exact h
  · refine State.Inv.ite h ?_
    split
    · exact h.reply
    · exact h.report.reply

theorem execArpRequest_inv {ip sender} (h : s.Inv) : (execArpRequest ip sender s).Inv := State.Inv.ite h.reply h
theorem execIcmpEcho_inv {ip sender data} (h : s.Inv) : (execIcmpEcho ip sender data s).Inv := State.Inv.ite h.reply h
theorem execDhcp_inv {ip mask gateway} (h : s.Inv) : (execDhcp ip mask gateway s).Inv := State.Inv.ite h h.modHost

theorem execMgmtRegisterWrite_inv {num v} (h : s.Inv) : (execMgmtRegisterWrite num v s).Inv := by
  unfold execMgmtRegisterWrite
  refine State.Inv.ite (State.Inv.modMem h rfl) (State.Inv.ite h.modTrigger (State.Inv.ite h.modLink (State.Inv.ite
      (State.Inv.ite h.modLink h) ?_)))
  split
  · exact State.Inv.modMem h rfl
  · exact h

/-! Functions of Machine/Dispatch.lean. -/

theorem exec_inv {i} (h : s.Inv) : Out.Inv (exec i s) :=
  match i with
  | .nop => execNop_inv h
  | .add .. => execAdd_inv h
  | .sub .. => execSub_inv h
  | .mul .. => execMul_inv h
  | .mulh .. => execMulh_inv h
  | .mulhn .. => execMulhn_inv h
  | .div .. => execDiv_inv h
  | .divn .. => execDivn_inv h
  | .rem .. => execRem_inv h
  | .remn .. => execRemn_inv h
  | .and .. => execAnd_inv h
  | .or .. => execOr_inv h
  | .xor .. => execXor_inv h
  | .shl .. => execShl_inv h
  | .shr .. => execShr_inv h
  | .sha .. => execSha_inv h
  | .min .. => execMin_inv h
  | .max .. => execMax_inv h
  | .minn .. => execMinn_inv h
  | .maxn .. => execMaxn_inv h
  | .clz .. => execClz_inv h
  | .popc .. => execPopc_inv h
  | .sel .. => execSel_inv h
  | .setcc .. => execSetcc_inv h
  | .shli .. => execShli_inv h
  | .shri .. => execShri_inv h
  | .shai .. => execShai_inv h
  | .addi .. => execAddi_inv h
  | .andi .. => execAndi_inv h
  | .ori .. => execOri_inv h
  | .xori .. => execXori_inv h
  | .ldi .. => execLdi_inv h
  | .ldih .. => execLdih_inv h
  | .adda .. => execAdda_inv h
  | .b .. => execB_inv h
  | .jl .. => execJl_inv h
  | .bz .. => execBz_inv h
  | .bnz .. => execBnz_inv h
  | .bccc .. => execBccc_inv h
  | .jr .. => execJr_inv h
  | .txb .. => execTxb_inv h
  | .txe => execTxe_inv h
  | .txa .. => execTxa_inv h
  | .txs .. => execTxs_inv h
  | .loop .. => execLoop_inv h
  | .loopg .. => execLoopg_inv h
  | .loopp .. => execLoopp_inv h
  | .lexit .. => execLexit_inv h
  | .safept .. => execSafept_inv h
  | .exit .. => execExit_inv h
  | .trap .. => execTrap_inv h
  | .brk .. => execBrk_inv h
  | .eret => execEret_inv h
  | .ld .. => execLd_inv h
  | .ldn .. => execLdn_inv h
  | .st .. => execSt_inv h
  | .ldS .. => execLdS_inv h
  | .chk .. => execChk_inv h
  | .ldSp .. => execLdSp_inv h
  | .stSp .. => execStSp_inv h
  | .spld .. => execSpld_inv h
  | .spst .. => execSpst_inv h
  | .ldNb .. => execLdNb_inv h
  | .stPm .. => execStPm_inv h
  | .mark => execMark_inv h
  | .acq .. => execAcq_inv h
  | .rel .. => execRel_inv h
  | .fenceq .. => execFenceq_inv h
  | .amo .. => execAmo_inv h
  | .amof .. => execAmof_inv h
  | .post .. => execPost_inv h
  | .await .. => execAwait_inv h
  | .semrd .. => execSemrd_inv h
  | .semwr .. => execSemwr_inv h
  | .waitv .. => execWaitv_inv h
  | .tagpub .. => execTagpub_inv h
  | .tagq .. => execTagq_inv h
  | .ptrd .. => execPtrd_inv h
  | .frrd .. => execFrrd_inv h
  | .waitpt .. => execWaitpt_inv h
  | .mbsend .. => execMbsend_inv h
  | .mbrecv .. => execMbrecv_inv h
  | .mbpoll .. => execMbpoll_inv h
  | .mfs .. => execMfs_inv h
  | .mts .. => execMts_inv h
  | .kill .. => execKill_inv h
  | .lockwr .. => execLockwr_inv h
  | .lockrd .. => execLockrd_inv h
  | .l1inv .. => execL1inv_inv h
  | .rdcinv .. => execRdcinv_inv h
  | .cacheWb .. => execCacheWb_inv h
  | .tlbinv .. => execTlbinv_inv h
  | .qcfg .. => execQcfg_inv h
  | .qrst .. => execQrst_inv h
  | .vadd .. => execVadd_inv h
  | .vsub .. => execVsub_inv h
  | .vmul .. => execVmul_inv h
  | .vmulh .. => execVmulh_inv h
  | .vmad .. => execVmad_inv h
  | .vmin .. => execVmin_inv h
  | .vmax .. => execVmax_inv h
  | .vabs .. => execVabs_inv h
  | .vneg .. => execVneg_inv h
  | .vand .. => execVand_inv h
  | .vor .. => execVor_inv h
  | .vxor .. => execVxor_inv h
  | .vnot .. => execVnot_inv h
  | .vshl .. => execVshl_inv h
  | .vshr .. => execVshr_inv h
  | .vsha .. => execVsha_inv h
  | .vpopc .. => execVpopc_inv h
  | .vfadd .. => execVfadd_inv h
  | .vfsub .. => execVfsub_inv h
  | .vfmul .. => execVfmul_inv h
  | .vfma .. => execVfma_inv h
  | .vfdiv .. => execVfdiv_inv h
  | .vfsqrt .. => execVfsqrt_inv h
  | .vfrcp .. => execVfrcp_inv h
  | .vfrsq .. => execVfrsq_inv h
  | .vfexp2 .. => execVfexp2_inv h
  | .vflog2 .. => execVflog2_inv h
  | .vfmin .. => execVfmin_inv h
  | .vfmax .. => execVfmax_inv h
  | .vfabs .. => execVfabs_inv h
  | .vfneg .. => execVfneg_inv h
  | .vcmp .. => execVcmp_inv h
  | .vsel .. => execVsel_inv h
  | .mand .. => execMand_inv h
  | .mor .. => execMor_inv h
  | .mxor .. => execMxor_inv h
  | .mnot .. => execMnot_inv h
  | .mpopc .. => execMpopc_inv h
  | .mfirst .. => execMfirst_inv h
  | .vcvt .. => execVcvt_inv h
  | .vwiden .. => execVwiden_inv h
  | .vnarrow .. => execVnarrow_inv h
  | .vquantScale .. => execVquantScale_inv h
  | .vquant .. => execVquant_inv h
  | .vdeq .. => execVdeq_inv h
  | .vred .. => execVred_inv h
  | .vperm .. => execVperm_inv h
  | .vshuf .. => execVshuf_inv h
  | .vbcast .. => execVbcast_inv h
  | .vslide .. => execVslide_inv h
  | .vins .. => execVins_inv h
  | .vext .. => execVext_inv h
  | .viota .. => execViota_inv h
  | .vld .. => execVld_inv h
  | .vst .. => execVst_inv h
  | .vldg .. => execVldg_inv h
  | .vsts .. => execVsts_inv h
  | .vldm .. => execVldm_inv h
  | .vstm .. => execVstm_inv h
  | .vldmNb .. => execVldmNb_inv h
  | .vstmPm .. => execVstmPm_inv h
  | .vmov .. => execVmov_inv h
  | .vrng .. => execVrng_inv h
  | .mma .. => execMma_inv h
  | .mmaz .. => execMmaz_inv h
  | .accrd .. => execAccrd_inv h
  | .accwr .. => execAccwr_inv h
  | .accz .. => execAccz_inv h
  | .scld .. => execScld_inv h
  | .wstrm .. => execWstrm_inv h
  | .wsel .. => execWsel_inv h
  | .cpy .. => execCpy_inv h
  | .cpyt .. => execCpyt_inv h
  | .cpyf .. => execCpyf_inv h
  | .chain .. => execChain_inv h
  | .chainEnd .. => execChainEnd_inv h
  | .chainCopy .. => execChainCopy_inv h
  | .chainLoop .. => execChainLoop_inv h
  | .chainCond .. => execChainCond_inv h
  | .chainSignal .. => execChainSignal_inv h
  | .sfjExp .. => execSfjExp_inv h
  | .sfjLog .. => execSfjLog_inv h
  | .sfjSoftmax .. => execSfjSoftmax_inv h
  | .sfjTopk .. => execSfjTopk_inv h
  | .sfjSort .. => execSfjSort_inv h
  | .sfjSample .. => execSfjSample_inv h
  | .sfjCompletion .. => execSfjCompletion_inv h
  | .engineCommandStart .. => execEngineCommandStart_inv h
  | .engineCommandComplete .. => execEngineCommandComplete_inv h
  | .stampedCommandIssue .. => execStampedCommandIssue_inv h
  | .mxeOwnershipTake .. => execMxeOwnershipTake_inv h
  | .push .. => execPush_inv h
  | .qfence .. => execQfence_inv h
  | .launch .. => execLaunch_inv h
  | .launchGraph .. => execLaunchGraph_inv h
  | .overlay => execOverlay_inv h
  | .overlaySwap .. => execOverlaySwap_inv h
  | .controlBlockHead .. => execControlBlockHead_inv h
  | .controlBlockComplete .. => execControlBlockComplete_inv h
  | .submit .. => execSubmit_inv h
  | .graphAccept => execGraphAccept_inv h
  | .admitStep => execAdmitStep_inv h
  | .taskComplete .. => execTaskComplete_inv h
  | .graphComplete .. => execGraphComplete_inv h
  | .dieSlotFill .. => execDieSlotFill_inv h
  | .iterationSelect .. => execIterationSelect_inv h
  | .stealRequest .. => execStealRequest_inv h
  | .stealReply .. => execStealReply_inv h
  | .stealBackoffExpiry .. => execStealBackoffExpiry_inv h
  | .tileTaskEnd .. => execTileTaskEnd_inv h
  | .poolService => execPoolService_inv h
  | .deadlockAwait .. => execDeadlockAwait_inv h
  | .postmarkDeliver .. => execPostmarkDeliver_inv h
  | .postmarkPerform .. => execPostmarkPerform_inv h
  | .nbLoadPerform .. => execNbLoadPerform_inv h
  | .frontierSample .. => execFrontierSample_inv h
  | .frontierMessage .. => execFrontierMessage_inv h
  | .frontierSlip .. => execFrontierSlip_inv h
  | .ptExchange .. => execPtExchange_inv h
  | .ptHoldover .. => execPtHoldover_inv h
  | .ptpMessage .. => execPtpMessage_inv h
  | .ptStep .. => execPtStep_inv h
  | .lockWaitExpiry => execLockWaitExpiry_inv h
  | .frameOverrun => execFrameOverrun_inv h
  | .frameStart => execFrameStart_inv h
  | .timetableRelease => execTimetableRelease_inv h
  | .globalLoadBind .. => execGlobalLoadBind_inv h
  | .globalStorePerform .. => execGlobalStorePerform_inv h
  | .waitvTimeout .. => execWaitvTimeout_inv h
  | .atomicPerform .. => execAtomicPerform_inv h
  | .txnCommit .. => execTxnCommit_inv h
  | .txnAbort .. => execTxnAbort_inv h
  | .lazyCommit .. => execLazyCommit_inv h
  | .commitWaitTimeout .. => execCommitWaitTimeout_inv h
  | .uncorrectableError .. => execUncorrectableError_inv h
  | .correctableError .. => execCorrectableError_inv h
  | .rowSpareReplace .. => execRowSpareReplace_inv h
  | .parkSelfRefresh .. => execParkSelfRefresh_inv h
  | .channelRetire .. => execChannelRetire_inv h
  | .frameMove .. => execFrameMove_inv h
  | .cxlLinkUp .. => execCxlLinkUp_inv h
  | .cxlLinkDown .. => execCxlLinkDown_inv h
  | .flitReceive .. => execFlitReceive_inv h
  | .nakReceive .. => execNakReceive_inv h
  | .ackReceive .. => execAckReceive_inv h
  | .linkWindowStart .. => execLinkWindowStart_inv h
  | .lnkctlPause .. => execLnkctlPause_inv h
  | .linkPauseComplete .. => execLinkPauseComplete_inv h
  | .lnkctlTrain .. => execLnkctlTrain_inv h
  | .lnkctlWindow .. => execLnkctlWindow_inv h
  | .linkTrainComplete .. => execLinkTrainComplete_inv h
  | .lnkstatSvcClear .. => execLnkstatSvcClear_inv h
  | .qschedWrite .. => execQschedWrite_inv h
  | .queuePeriodStart .. => execQueuePeriodStart_inv h
  | .queueOverrun .. => execQueueOverrun_inv h
  | .counterClear .. => execCounterClear_inv h
  | .preemptRequest .. => execPreemptRequest_inv h
  | .graceExpiry .. => execGraceExpiry_inv h
  | .preemptSave .. => execPreemptSave_inv h
  | .saveComplete .. => execSaveComplete_inv h
  | .resumeRequest .. => execResumeRequest_inv h
  | .tileTaskResume .. => execTileTaskResume_inv h
  | .debugStop .. => execDebugStop_inv h
  | .dump .. => execDump_inv h
  | .triggerMatch .. => execTriggerMatch_inv h
  | .faultLogDrain .. => execFaultLogDrain_inv h
  | .contextCreate .. => execContextCreate_inv h
  | .meterSample .. => execMeterSample_inv h
  | .replan => execReplan_inv h
  | .powerWindowEnd => execPowerWindowEnd_inv h
  | .pwrbandClear => execPwrbandClear_inv h
  | .curveRecord .. => execCurveRecord_inv h
  | .curveTakeEffect => execCurveTakeEffect_inv h
  | .gradeEnter => execGradeEnter_inv h
  | .gradeLeave => execGradeLeave_inv h
  | .contextPark .. => execContextPark_inv h
  | .contextUnpark .. => execContextUnpark_inv h
  | .regionFrequencyChange .. => execRegionFrequencyChange_inv h
  | .dieGate .. => execDieGate_inv h
  | .dieUngate .. => execDieUngate_inv h
  | .regulatorFault .. => execRegulatorFault_inv h
  | .regionDark .. => execRegionDark_inv h
  | .feedLoss .. => execFeedLoss_inv h
  | .powerOn => execPowerOn_inv h
  | .substatClear => execSubstatClear_inv h
  | .apertureWrite .. => execApertureWrite_inv h
  | .killedClear .. => execKilledClear_inv h
  | .cfgInstallSection .. => execCfgInstallSection_inv h
  | .cfgInstallFirmware .. => execCfgInstallFirmware_inv h
  | .cfgAttestation .. => execCfgAttestation_inv h
  | .cfgCommandDone => execCfgCommandDone_inv h
  | .hostBar1Access .. => execHostBar1Access_inv h
  | .hostBar2Access .. => execHostBar2Access_inv h
  | .attestationMessage .. => execAttestationMessage_inv h
  | .arpRequest .. => execArpRequest_inv h
  | .icmpEcho .. => execIcmpEcho_inv h
  | .mgmtRegisterWrite .. => execMgmtRegisterWrite_inv h
  | .illegalOp .. => execIllegalOp_inv h
  | .vectorWordCompletion .. => execVectorWordCompletion_inv h
  | .waitptComplete .. => execWaitptComplete_inv h
  | .freePoolRefill .. => execFreePoolRefill_inv h
  | .dhcp .. => execDhcp_inv h
  | .dieUngateComplete .. => execDieUngateComplete_inv h
  | .managementCoreKill .. => execManagementCoreKill_inv h

/-! Functions of Machine/Issue.lean. -/

theorem State.Inv.after {i} (h : s.Inv) : (s.after i).Inv := by
  unfold State.after
  split
  next e => exact (exec_inv h).next e
  · exact h
  · exact h

theorem State.Inv.find {n a} (h : s.Inv) : (s.find n a).Inv := by
  unfold State.find
  extract_lets core held
  split
  · exact h
  split
  · exact h.modStrand
  split
  next e => exact h.fetchWord.trap e
  next e => exact h.fetchWord.wait e
  next e =>
    split
    · exact h
    split
    · exact h.fetchWord.ok e
    · exact h.fetchWord.ok e

theorem State.Inv.finishGroup {n handler last len t} (h : s.Inv) : (s.finishGroup n handler last len t).Inv := by
  unfold State.finishGroup
  split
  · exact h
  · refine State.Inv.ite h ?_
    dsimp only
    split
    · exact h.setStrand
    · exact State.Inv.ite h.setStrand (.ite h.setStrand (.ite h.setStrand.stopStrand h.setStrand))

theorem State.Inv.enterGroup {n} (h : s.Inv) : (s.enterGroup n).Inv := h
theorem State.Inv.leaveGroup (h : s.Inv) : s.leaveGroup.Inv := h
theorem State.Inv.runAt {a len i} (h : s.Inv) : (s.runAt a len i).Inv := State.Inv.after h

theorem State.Inv.blocked {n sem} (h : s.Inv) : (s.blocked n sem).Inv := by
  unfold State.blocked
  split
  · exact h.leaveGroup.modCore
  · exact h.leaveGroup

theorem State.Inv.setAccessed {ws} (h : s.Inv) : (s.setAccessed ws).Inv := h.foldl (fun _ _ h1 => State.Inv.ite h1.homeWrite8 h1)
theorem State.Inv.keepWalks {s1} (h : s.Inv) : (s.keepWalks s1).Inv := h.setAccessed

theorem State.Inv.groupTrap {s0 : State} {s1 : State} {n c r handler pc last len} (h0 : s0.Inv) (h1 : s1.Inv) :
    (s0.groupTrap s1 n c r handler pc last len).Inv :=
  State.Inv.ite (h1.leaveGroup.finishGroup.takeTrap h1.leaveGroup.finishGroup) (State.Inv.takeTrap (State.Inv.ite
    h0.keepWalks.leaveGroup.modCore.modStrand h0.keepWalks.leaveGroup.modCore) h1.leaveGroup.finishGroup)

theorem State.Inv.try_ {a len i} (h : s.Inv) : (s.try_ a len i).Inv := by
  unfold State.try_
  dsimp only
  split
  · exact h.runAt
  · exact h.runAt
  · exact h.runAt
  · exact h.runAt

theorem State.Inv.keepLines {s0 n} (h : s.Inv) : (s.keepLines s0 n).Inv := h.modCore

theorem State.Inv.second {s0 : State} {s1 : State} {n handler pc a len j bit} {split : State} (h0 : s0.Inv) (h1 : s1.Inv)
    (hplit : split.Inv) : (s0.second s1 n handler pc a len j bit split).Inv := by
  unfold State.second
  split
  next e => exact h0.groupTrap (h1.keepLines.try_.trapped e)
  next e => exact (h1.keepLines.try_.ended e).leaveGroup
  next e => exact (h1.keepLines.try_.issued e).leaveGroup.modCore.finishGroup
  · split
    next e1 => exact (h0.try_.waits e1).blocked
    · exact State.Inv.ite h0.blocked hplit

theorem State.Inv.companion {s0 : State} {s1 : State} {n handler pc i u} (h0 : s0.Inv) (h1 : s1.Inv) :
    (s0.companion s1 n handler pc i u).Inv := by
  unfold State.companion
  refine State.Inv.ite (h0.groupTrap h1) (State.Inv.ite (h0.groupTrap h1) ?_)
  split
  · exact h0.groupTrap h1
  · exact h0.groupTrap h1
  · refine h0.second h1 ?_
    split
    next e1 => exact (h0.try_.issued e1).runAt.leaveGroup.finishGroup
    · exact h0.blocked

theorem State.Inv.issueGroup {n st i len} (h : s.Inv) : (s.issueGroup n st i len).Inv := by
  unfold State.issueGroup
  extract_lets s0 pc
  have h0 : s0.Inv := h.enterGroup
  split
  next e => exact State.Inv.groupTrap (State.Inv.congr (h0.try_.trapped e) rfl) (h0.try_.trapped e)
  next e => exact (h0.try_.waits e).blocked
  next e => exact (h0.try_.ended e).leaveGroup
  next s1 _ e =>
    extract_lets alone
    have h1 : s1.Inv := h0.try_.issued e
    have ha : alone.Inv := h1.leaveGroup.finishGroup
    split
    · exact h0.companion h1
    refine State.Inv.ite ha ?_
    split
    next e =>
      exact State.Inv.ite (h0.second (State.Inv.congr (h1.find.word e) rfl) (State.Inv.ite ha h0.blocked)) ha
    · exact ha

theorem State.Inv.fetchFault {n st c r} (h : s.Inv) : (s.fetchFault n st c r).Inv :=
  State.Inv.ite h.doubleFault (State.Inv.ite (State.Inv.ite h.modStrand.noteTrap.containTt.endStrand
      h.modStrand.noteTrap.containTt) (h.takeTrap h))

theorem State.Inv.fetchWait {n st} (h : s.Inv) : (s.fetchWait n st).Inv := by
  unfold State.fetchWait
  split
  · exact State.Inv.ite h.fetchFault h
  · exact h.modStrand

theorem State.Inv.stepStrand {n} (h : s.Inv) : (s.stepStrand n).Inv := by
  unfold State.stepStrand
  split
  · exact h
  · refine State.Inv.ite h (State.Inv.ite h.goOnAcquiring ?_)
    split
    · exact h.stopStrand
    · split
      · exact h.debugStop.stopStrand
      · split
        next e3 => exact (h.find.fault e3).fetchFault
        next e3 => exact State.Inv.ite (h.find.wait e3).fetchWait (h.find.wait e3)
        next e3 => exact (h.find.word e3).issueGroup

theorem State.Inv.nextGroup {n} (h : s.Inv) : (s.nextGroup n).Inv := h

theorem State.Inv.strayWord {n} (h : s.Inv) {t : State} (e : s.strayWord n = some t) : t.Inv := by
  unfold State.strayWord at e
  split at e
  · cases e
  · split at e
    next hw =>
      split at e
      · cases e
      · split at e
        next hi =>
          dsimp only at e
          split at e
          · cases e
            have h1 : State.Inv _ := h.nextGroup.find.word hw
            have h2 : State.Inv _ := h1.try_.issued hi
            exact State.Inv.foldl h2.finishGroup fun _ _ h => State.Inv.after h
          · cases e
        · cases e
    · cases e

theorem State.Inv.strayWords {n k} (h : s.Inv) : (s.strayWords n k).Inv := by
  induction k generalizing s with
  | zero => exact h
  | succ k ih =>
    unfold State.strayWords
    split
    next e => exact ih (h.strayWord e)
    · exact h

theorem State.Inv.keepFills {t core} (h : s.Inv) : (s.keepFills t core).Inv :=
  State.Inv.setAccessed (State.Inv.modMem h.modCore rfl)

theorem State.Inv.stray {n a k} (h : s.Inv) : (s.stray n a k).Inv := by
  unfold State.stray
  split
  · exact h
  · refine State.Inv.ite h ?_
    split
    next e1 => exact State.Inv.ite (h.find.word e1).keepFills h
    · exact h

theorem State.Inv.runSlots {t l} (h : s.Inv) : (s.runSlots t l).Inv := by
  induction l generalizing s t with
  | nil => exact h
  | cons x xs ih =>
    unfold State.runSlots
    dsimp only
    split
    · exact ih h.after
    · exact trivial
    · exact trivial
    · exact h.after

theorem State.Inv.enterWord {k pc} (h : s.Inv) : (s.enterWord k pc).Inv := h
theorem State.Inv.finishWord {k run pc t} (h : s.Inv) : (s.finishWord k run pc t).Inv := State.Inv.ite h h.modCond

theorem State.Inv.condBlocked {s0 : State} {k i sem} (h0 : s0.Inv) : (s0.condBlocked k i sem).Inv := by
  unfold State.condBlocked
  split
  · refine State.Inv.modCond ?_
    split
    · exact State.Inv.after h0
    · exact h0
  · dsimp only
    split
    · exact State.Inv.after h0
    · exact h0

theorem State.Inv.condFault {k run pc c r fetch} (h : s.Inv) : (s.condFault k run pc c r fetch).Inv :=
  State.Inv.ite h.containTask.modCond h.containTask

theorem State.Inv.stepConductor {k} (h : s.Inv) : (s.stepConductor k).Inv := by
  unfold State.stepConductor
  dsimp only
  split
  · exact h
  · refine State.Inv.ite h (State.Inv.ite h.condFault ?_)
    split
    · exact h.condFault
    · exact h.condFault
    · split
      next e2 => exact State.Inv.finishWord (State.Inv.congr (h.enterWord.runSlots.done e2) rfl)
      · exact h.enterWord.condBlocked
      · exact h.condFault

/-! Functions of Machine/Step.lean. -/

theorem State.Inv.popTurn (h : s.Inv) : s.popTurn.Inv := h

theorem State.Inv.take {x} (h : s.Inv) : Out.Inv (s.take x) := by
  cases x with
  | strand n => exact h.stepStrand
  | conductor k => exact h.stepConductor
  | event i => exact exec_inv h
  | stray n a k => exact h.stray

theorem State.Inv.beginTurn (h : s.Inv) : s.beginTurn.Inv := h.popTurn.elapse

theorem step_inv (h : s.Inv) : Out.Inv (step s) := by
  unfold step
  split
  · trivial
  · exact h.beginTurn.take

/-- Settles O59: a step runs a turn, and every function that a turn runs keeps the canonical form. -/
theorem stepKeepsMemory : Obligations.StepKeepsMemory := fun _ _ h e => (step_inv h).next e

end Sys2Proof.Machine
end

-- ==== Proofs: what the ports do (O53) ====
section
/-! PROOF. The rules of the ports: lines of memory and writes at their homes, the accesses to each BAR of the host port (R342, R343),
the report (R327), and the messages and register writes of the management port (R345, R9). -/
namespace Sys2Proof.Machine

variable {s : State}

/-! Tables, and the lines of memory. -/

/-- A table after a list is stored from an index on. -/
theorem tget_tsets {α : Type} [DecidableEq α] (d : α) (xs : List α) (t : Tab α) (n a : Nat) :
    tget d (tsets d t n xs) a = if n ≤ a ∧ a < n + xs.length then (xs[a - n]?).getD d else tget d t a := by
  induction xs generalizing t n with
  | nil => rw [if_neg (by simp)]; rfl
  | cons x xs ih =>
    rw [tsets, ih, tget_tset, List.length_cons]
    rcases Nat.lt_trichotomy a n with h | rfl | h
    · rw [if_neg (by omega), if_neg (by omega), if_neg (by omega)]
    · rw [if_neg (by omega), if_pos rfl, if_pos (by omega), Nat.sub_self]; rfl
    · obtain ⟨k, hk⟩ : ∃ k, a - n = k + 1 := ⟨a - n - 1, by omega⟩
      rw [hk, List.getElem?_cons_succ, show a - (n + 1) = k by omega, if_neg (by omega : a ≠ n)]
      exact if_congr (by omega) rfl rfl

/-- Two addresses of one line have one channel. -/
theorem channelOf_line {a b : Nat} (h : a / 128 = b / 128) : channelOf a = channelOf b := by
  unfold channelOf parkBase cxlBase dieRange
  rw [show a / 0x1000000000 = b / 0x1000000000 by omega,
    show a % 0x1000000000 / 65536 % 32 = b % 0x1000000000 / 65536 % 32 by omega,
    show (a - 0x8000000000) / 65536 % 16 = (b - 0x8000000000) / 65536 % 16 by omega]
  exact if_congr (by omega) rfl (if_congr (by omega) rfl rfl)

theorem frameOf_line {a b : Nat} (h : a / 128 = b / 128) : frameOf a = frameOf b := by
  unfold frameOf
  omega

theorem cxlPort_line {a b : Nat} (h : a / 128 = b / 128) : cxlPort a = cxlPort b := by
  unfold cxlPort cxlBase
  rw [show a / 0x10000000000 = b / 0x10000000000 by omega]
  exact if_congr (by omega) rfl rfl

theorem discards_line {a b : Nat} (m : MemState) (h : a / 128 = b / 128) : m.discards a = m.discards b := by
  unfold MemState.discards
  rw [frameOf_line h, cxlPort_line h]

theorem bounces_line {a b : Nat} (m : MemState) (h : a / 128 = b / 128) : m.bounces a = m.bounces b := by
  unfold MemState.bounces
  rw [channelOf_line h]

theorem channelDead_line {a b : Nat} (m : MemState) (h : a / 128 = b / 128) : m.channelDead a = m.channelDead b := by
  unfold MemState.channelDead
  rw [channelOf_line h]

/-- A guarded answer that is present is present under a weaker guard. -/
theorem isSome_of_ite_isSome {p q : Prop} [Decidable p] [Decidable q] {x y : Nat} (hqp : q → p)
    (h : (if q then some x else none).isSome = true) : (if p then some y else none).isSome = true := by
  have hq : q := by
    by_contra hq
    rw [if_neg hq] at h
    cases h
  rw [if_pos (hqp hq)]
  rfl

/-- Where a byte is backed, every byte before it in its line is backed. -/
theorem homeDie_line {a b : Nat} {m : MemState} (h : a / 128 = b / 128) (hab : a ≤ b) (hb : (m.homeDie b).isSome = true) :
    (m.homeDie a).isSome = true := by
  have die : a % dieRange ≤ b % dieRange := by unfold dieRange; omega
  have port : a % cxlBase ≤ b % cxlBase := by unfold cxlBase; omega
  have park : a < parkBase ↔ b < parkBase := by unfold parkBase; omega
  have cxl : a < cxlBase ↔ b < cxlBase := by unfold cxlBase; omega
  unfold MemState.homeDie at hb ⊢
  rw [frameOf_line h, channelDead_line m h, cxlPort_line h]
  simp only [park, cxl]
  revert hb
  split
  · exact id
  split
  · exact isSome_of_ite_isSome (by omega)
  split
  · exact id
  split
  · exact isSome_of_ite_isSome (by omega)
  · exact id

/-! Writes at their homes. -/

/-- Two states with the same bytes in memory, the same frames and CXL links, and the same host port. -/
structure State.SameHome (s t : State) : Prop where
  bytes : t.mem.bytes = s.mem.bytes
  frames : t.mem.frames = s.mem.frames
  cxlUp : t.mem.cxlUp = s.mem.cxlUp
  host : t.host = s.host

theorem State.SameHome.refl (s : State) : s.SameHome s := ⟨rfl, rfl, rfl, rfl⟩

theorem State.SameHome.trans {s t u : State} (h : s.SameHome t) (h' : t.SameHome u) : s.SameHome u :=
  ⟨h'.bytes.trans h.bytes, h'.frames.trans h.frames, h'.cxlUp.trans h.cxlUp, h'.host.trans h.host⟩

theorem State.SameHome.foldl {α : Type} {f : State → α → State} (hf : ∀ (s : State) x, s.SameHome (f s x)) (l : List α) (s : State) :
    s.SameHome (l.foldl f s) := by
  induction l generalizing s with
  | nil => exact .refl s
  | cons x l ih => exact (hf s x).trans (ih (f s x))

theorem fireMonitor_sameHome (s : State) (n : Nat) (o : LoadOp) (d : GReg) : s.SameHome (s.fireMonitor n o d) := by
  unfold State.fireMonitor
  split
  · constructor <;> simp [State.dropCopies, State.dropRdc, State.dropL1]
  · exact .refl s

theorem wake_sameHome (s : State) (pa n : Nat) : s.SameHome (s.wake pa n) := by
  refine State.SameHome.foldl (fun s x => ?_) _ s
  split
  · split
    · split
      · split
        · exact fireMonitor_sameHome ..
        · exact .refl s
      · exact .refl s
    · exact .refl s
  · exact .refl s

theorem touchL2_sameHome (s : State) (ctx pa : Nat) (dirty : Bool) : s.SameHome (s.touchL2 ctx pa dirty) := by
  obtain ⟨w, c, r, e⟩ := touchL2_frame s ctx pa dirty
  rw [e]
  exact ⟨rfl, rfl, rfl, rfl⟩

theorem State.SameHome.discards {s t : State} (h : s.SameHome t) (a : Nat) : t.mem.discards a = s.mem.discards a := by
  unfold MemState.discards
  rw [h.frames, h.cxlUp]

/-- A write at its home leaves the bytes of the write, and all else that homes and the host port hold. -/
theorem homeWrite_sameHome (s : State) (ctx pa : Nat) (bs : List (Option Byte)) (tag : Bool) :
    (s.modMem fun m => m.write pa bs tag).SameHome (s.homeWrite ctx pa bs tag) :=
  (touchL2_sameHome ..).trans (wake_sameHome ..)

theorem homeWrite_host (s : State) (ctx pa : Nat) (bs : List (Option Byte)) (tag : Bool) :
    (s.homeWrite ctx pa bs tag).host = s.host := (homeWrite_sameHome s ctx pa bs tag).host

theorem write_frames (m : MemState) (pa : Nat) (bs : List (Option Byte)) (tag : Bool) : (m.write pa bs tag).frames = m.frames := by
  unfold MemState.write
  split <;> rfl

theorem write_cxlUp (m : MemState) (pa : Nat) (bs : List (Option Byte)) (tag : Bool) : (m.write pa bs tag).cxlUp = m.cxlUp := by
  unfold MemState.write
  split <;> rfl

theorem homeWrite_discards (s : State) (ctx pa : Nat) (bs : List (Option Byte)) (tag : Bool) (a : Nat) :
    (s.homeWrite ctx pa bs tag).mem.discards a = s.mem.discards a := by
  rw [(homeWrite_sameHome s ctx pa bs tag).discards]
  unfold MemState.discards
  rw [State.modMem_mem, write_frames, write_cxlUp]

theorem homeWrite_byteAt (s : State) (ctx pa : Nat) (bs : List (Option Byte)) (tag : Bool) (a : Nat) :
    (s.homeWrite ctx pa bs tag).mem.byteAt a = (s.mem.write pa bs tag).byteAt a := by
  unfold MemState.byteAt
  rw [(homeWrite_sameHome s ctx pa bs tag).bytes, State.modMem_mem]

/-- A write of several lines at their homes, up to the end of its first `k` lines: each byte that is enabled and not discarded. -/
theorem homeWrite_lines (s : State) (ctx pa : Nat) (bs : List (Option Byte)) (tag : Bool) (k : Nat) :
    let t := (upto k).foldl (fun s i =>
      let lo := max pa ((pa / 128 + i) * 128)
      let hi := min (pa + bs.length) ((pa / 128 + i + 1) * 128)
      s.homeWrite ctx lo ((bs.drop (lo - pa)).take (hi - lo)) tag) s
    t.host = s.host ∧ (∀ a, t.mem.discards a = s.mem.discards a) ∧ ∀ a, t.mem.byteAt a =
      if pa ≤ a ∧ a < (pa / 128 + k) * 128 ∧ s.mem.discards a = false then ((bs[a - pa]?).getD none).getD (s.mem.byteAt a)
      else s.mem.byteAt a := by
  induction k with
  | zero =>
    refine ⟨rfl, fun _ => rfl, fun a => ?_⟩
    rw [if_neg (by omega)]
    rfl
  | succ k ih =>
    unfold upto at ih ⊢
    rw [List.range_succ, List.foldl_append, List.foldl_cons, List.foldl_nil]
    extract_lets t0 at ih
    extract_lets lo hi t
    obtain ⟨hh, hd, hb⟩ := ih
    refine ⟨(homeWrite_host ..).trans hh, fun a => (homeWrite_discards ..).trans (hd a), fun a => ?_⟩
    have hk : hi ≤ (pa / 128 + k + 1) * 128 ∧ hi ≤ pa + bs.length ∧ (pa / 128 + k) * 128 ≤ lo ∧ pa ≤ lo := by omega
    have ha := hb a
    rw [show t.mem.byteAt a = _ from homeWrite_byteAt ..]
    by_cases hin : lo ≤ a ∧ a < hi
    · have hline : lo / 128 = a / 128 := by omega
      rw [if_neg (by omega)] at ha
      cases hdis : s.mem.discards a with
      | true =>
        rw [byteAt_write_discarded _ _ _ _ _ (by rw [hd, discards_line _ hline, hdis]), ha, if_neg (by simp)]
      | false =>
        rw [byteAt_write _ _ _ _ _ (by rw [hd, discards_line _ hline, hdis]), if_pos hin.1, ha, if_pos ⟨by omega, by omega, rfl⟩,
          List.getElem?_take_of_lt (by omega), List.getElem?_drop, show lo - pa + (a - lo) = a - pa by omega]
    · rw [byteAt_write_outside _ _ _ _ _ (by rw [List.length_take, List.length_drop]; omega), ha]
      by_cases hlen : pa + bs.length ≤ a
      · rw [List.getElem?_eq_none (by omega)]
        simp
      · exact if_congr (and_congr_right fun _ => and_congr_left fun _ => by omega) rfl rfl

/-- A write of any length at its homes: each byte that is enabled and not discarded (R113, R342). -/
theorem homeWriteAll_frame (s : State) (ctx pa : Nat) (bs : List (Option Byte)) (tag : Bool) :
    (s.homeWriteAll ctx pa bs tag).host = s.host ∧ ∀ a, (s.homeWriteAll ctx pa bs tag).mem.byteAt a =
      if pa ≤ a ∧ s.mem.discards a = false then ((bs[a - pa]?).getD none).getD (s.mem.byteAt a) else s.mem.byteAt a := by
  obtain ⟨hh, -, hb⟩ := homeWrite_lines s ctx pa bs tag ((pa + bs.length + 127) / 128 - pa / 128)
  refine ⟨hh, fun a => (hb a).trans ?_⟩
  by_cases hlen : pa + bs.length ≤ a
  · rw [List.getElem?_eq_none (by omega)]
    simp
  · exact if_congr (and_congr_right fun _ => and_iff_right (by omega)) rfl rfl
/-- Some line of an access bounces, when some backed byte of it does. -/
theorem rangeHeld_of_bounces {a n k : Nat} (hk : k < n) (hb : (s.mem.homeDie (a + k)).isSome = true)
    (hm : s.mem.bounces (a + k) = true) : s.rangeHeld true a n = true := by
  have hline : (a / 128 + ((a + k) / 128 - a / 128)) * 128 / 128 = (a + k) / 128 := by omega
  refine List.any_eq_true.mpr ⟨(a + k) / 128 - a / 128, List.mem_range.mpr (by omega), ?_⟩
  simp only [homeDie_line hline (by omega) hb, bounces_line s.mem hline, hm, Bool.and_self, Bool.or_true]

/-- The only write of the host, when its home holds it: it waits (R333, R338). -/
theorem hostWrites_held {a : Nat} {data : List Byte} (hw : s.host.writes = [(a, data)])
    (h : s.rangeHeld true a data.length = true) : s.hostWrites = s.modHost fun h => { h with writes := [(a, data)] } := by
  rw [State.hostWrites, hw, State.hostWrites.go, if_pos h]

/-- The only write of the host, when nothing holds it: it is performed (R342). -/
theorem hostWrites_free {a : Nat} {data : List Byte} (hw : s.host.writes = [(a, data)])
    (h : s.rangeHeld true a data.length = false) :
    s.hostWrites = (s.homeWriteAll 64 a
      (data.zipIdx.map fun x => if (s.mem.homeDie (a + x.2)).isSome then some x.1 else none) false).modHost
        fun h => { h with writes := [] } := by
  rw [State.hostWrites, hw, State.hostWrites.go, if_neg (ne_true_of_eq_false h), State.hostWrites.go]

/-! BAR 0 and BAR 1. -/

theorem foldl_setBar1_overlay (data : List Byte) (off n : Nat) (m : MemState) (h : off + n + data.length ≤ bar1Record) :
    (data.zipIdx n).foldl (fun m x => m.setBar1 (off + x.2) x.1) m = { m with overlay := tsets 0 m.overlay (off + n) data } := by
  induction data generalizing n m with
  | nil => rfl
  | cons b data ih =>
    rw [List.length_cons] at h
    rw [List.zipIdx_cons, List.foldl_cons, MemState.setBar1, if_pos (by omega), ih (n + 1) _ (by omega)]
    rfl

theorem foldl_setBar1_record (data : List Byte) (off n : Nat) (m : MemState) (h : bar1Record ≤ off + n)
    (h' : off + n + data.length ≤ bar1End) : (data.zipIdx n).foldl (fun m x => m.setBar1 (off + x.2) x.1) m =
      { m with record := tsets 0 m.record (off + n - bar1Record) data } := by
  induction data generalizing n m with
  | nil => rfl
  | cons b data ih =>
    rw [List.length_cons] at h'
    rw [List.zipIdx_cons, List.foldl_cons, MemState.setBar1, if_neg (by omega), if_pos (by omega),
      ih (n + 1) _ (by omega) (by omega), tsets, show off + (n + 1) - bar1Record = off + n - bar1Record + 1 by omega]

theorem hostBar1Access_overlay_write {off : Nat} {data : List Byte} (h : off + data.length ≤ 2 ^ 23) :
    execHostBar1Access true off data s = .next (s.modMem fun m => { m with overlay := tsets 0 m.overlay off data }) := by
  rw [execHostBar1Access_bar1 true (by unfold bar0Offset; omega), if_neg (by omega), if_pos rfl]
  simp only [foldl_setBar1_overlay data off 0 _ h, Nat.add_zero]

theorem hostBar1Access_record_write {off : Nat} {data : List Byte} (h : 2 ^ 23 ≤ off) (h' : off + data.length ≤ 2 ^ 23 + 2 ^ 22) :
    execHostBar1Access true off data s =
      .next (s.modMem fun m => { m with record := tsets 0 m.record (off - 2 ^ 23) data }) := by
  rw [execHostBar1Access_bar1 true (by unfold bar0Offset; omega), if_neg (by omega), if_pos rfl]
  simp only [foldl_setBar1_record data off 0 _ h h', Nat.add_zero]
  rfl

/-- Bytes read by their places in an access. -/
theorem map_zipIdx_eq_map_range {α : Type} (data : List Byte) (f : Nat → α) :
    (data.zipIdx.map fun x => f x.2) = (List.range data.length).map f := by
  rw [List.range_eq_range', ← List.zipIdx_map_snd 0 data, List.map_map]
  rfl

theorem hostBar1Access_read {off : Nat} {data : List Byte} (h : off < 2 ^ 24) (h' : off + data.length ≤ 2 ^ 24) :
    execHostBar1Access false off data s =
      .next (s.answer ((List.range data.length).map fun k => s.mem.bar1 (off + k)) false) := by
  rw [execHostBar1Access_bar1 false (by unfold bar0Offset; omega), if_neg (by omega), if_neg (by simp),
    map_zipIdx_eq_map_range data fun k => s.mem.bar1 (off + k)]

theorem bar1_overlay (m : MemState) {a : Nat} (h : a < 2 ^ 23) : m.bar1 a = tget 0 m.overlay a := if_pos h

theorem bar1_record (m : MemState) {a : Nat} (h : 2 ^ 23 ≤ a) (h' : a < 2 ^ 23 + 2 ^ 22) :
    m.bar1 a = tget 0 m.record (a - 2 ^ 23) := by
  rw [MemState.bar1, if_neg (by unfold bar1Record; omega), if_pos (by unfold bar1End; omega)]
  rfl

/-- An access to BAR 0 (log entry 107). -/
theorem hostBar1Access_bar0_write {off : Nat} {data : List Byte} (h : off + data.length ≤ 4096) :
    execHostBar1Access true (2 ^ 24 + off) data s = .next (s.writeBar0 off data) := by
  rw [execHostBar1Access_bar0 true (by unfold bar0Offset; omega), show 2 ^ 24 + off - bar0Offset = off by unfold bar0Offset; omega,
    if_neg (by omega), if_pos rfl]

theorem hostBar1Access_bar0_read {off : Nat} {data : List Byte} (h : off + data.length ≤ 4096) :
    execHostBar1Access false (2 ^ 24 + off) data s = .next (s.answer ((List.range data.length).map fun k =>
      ((leBytes 8 (s.bar0Reg ((off + k) / 8 * 8)).toNat)[(off + k) % 8]?).getD 0) false) := by
  rw [execHostBar1Access_bar0 false (by unfold bar0Offset; omega), show 2 ^ 24 + off - bar0Offset = off by unfold bar0Offset; omega,
    if_neg (by omega), if_neg (by simp),
    map_zipIdx_eq_map_range data fun k => ((leBytes 8 (s.bar0Reg ((off + k) / 8 * 8)).toNat)[(off + k) % 8]?).getD 0]

/-- A doubleword written is the value of its bytes. -/
theorem ofNat_leNat_leBytes (v : W64) : BitVec.ofNat 64 (leNat (leBytes 8 v.toNat)) = v := by
  rw [leNat_leBytes, Nat.mod_eq_of_lt (by omega), BitVec.ofNat_toNat, BitVec.setWidth_eq]

theorem hostBar1Access_bar0_put {off : Nat} (v : W64) (h : off ≤ 4088) (h8 : off % 8 = 0) :
    execHostBar1Access true (2 ^ 24 + off) (leBytes 8 v.toNat) s = .next (s.writeBar0 off (leBytes 8 v.toNat)) :=
  hostBar1Access_bar0_write (by rw [leBytes_length]; omega)

/-- A write to BAR 0 of another size or alignment (R342). -/
theorem writeBar0_unaligned {off : Nat} {data : List Byte} (h : data.length ≠ 8 ∨ off % 8 ≠ 0) :
    s.writeBar0 off data =
      if off < 8 && data ≠ [] then s.modHost fun h => { h with rejected := sat16 h.rejected } else s := by
  unfold State.writeBar0
  rw [if_pos (by simpa using h)]

theorem bar0Reg_beyond (s : State) {off : Nat} (h : 0x30 ≤ off) : s.bar0Reg off = 0 := by
  unfold State.bar0Reg
  split
  case h_7 => rfl
  all_goals omega

theorem writeBar0_substat (s : State) (v : W64) :
    s.writeBar0 8 (leBytes 8 v.toNat) = s.modHost fun h => { h with dropped := 0, rejected := 0 } := by
  rw [State.writeBar0, if_neg (by simp)]

theorem writeBar0_aperture (s : State) (v : W64) : s.writeBar0 0x10 (leBytes 8 v.toNat) = s.writeAperture v := by
  rw [State.writeBar0, if_neg (by simp), ofNat_leNat_leBytes]

theorem writeBar0_killed (s : State) (v : W64) :
    s.writeBar0 0x28 (leBytes 8 v.toNat) = s.modHost fun h => { h with killed := h.killed &&& ~~~v } := by
  rw [State.writeBar0, if_neg (by simp), ofNat_leNat_leBytes]

/-- A byte of an aligned doubleword register is a byte of its value. -/
theorem bar0_byte (s : State) {a base : Nat} (h : base ≤ a) (h' : a < base + 8) (h8 : base % 8 = 0) :
    some (((leBytes 8 (s.bar0Reg (a / 8 * 8)).toNat)[a % 8]?).getD 0) = (leBytes 8 (s.bar0Reg base).toNat)[a - base]? := by
  rw [show a / 8 * 8 = base by omega, show a % 8 = a - base by omega, List.getElem?_eq_getElem (by rw [leBytes_length]; omega),
    Option.getD_some]

theorem bar0_byte_beyond (s : State) {a : Nat} (h : 0x30 ≤ a) :
    ((leBytes 8 (s.bar0Reg (a / 8 * 8)).toNat)[a % 8]?).getD 0 = 0 := by
  rw [bar0Reg_beyond s (by omega)]
  have hk : a % 8 < 8 := by omega
  generalize a % 8 = k at hk
  revert k
  decide

/-! BAR 2. -/

/-- A write of the host, when none waits before it. -/
theorem hostBar2Access_write {off : Nat} {data : List Byte} (h : off + data.length ≤ 2 ^ 34) (hr : s.host.recovery = false)
    (hw : s.host.writes = []) : execHostBar2Access true off data s = .next
      (s.modHost fun h => { h with writes := [(s.host.aperture.toNat + off, data)] }).hostWrites := by
  rw [execHostBar2Access]
  extract_lets a backed
  rw [if_neg (by omega), if_neg (by simp [hr]), if_pos rfl]
  simp only [State.modHost, hw, List.nil_append, a]

theorem hostBar2Access_read {off : Nat} {data : List Byte} (h : off + data.length ≤ 2 ^ 34) (hr : s.host.recovery = false) :
    execHostBar2Access false off data s = .next (
      let a := s.host.aperture.toNat + off
      if s.rangeHeld false a data.length then s
      else (s.touchLines a data.length).answer
        ((List.range data.length).map fun k => if (s.mem.homeDie (a + k)).isSome then s.mem.readByte (a + k) else 0xFF)
        (data.zipIdx.any fun x => (s.mem.homeDie (a + x.2)).isSome && s.mem.poisonAt (a + x.2))) := by
  rw [execHostBar2Access]
  extract_lets a backed
  rw [if_neg (by omega), if_neg (by simp [hr]), if_neg (by simp),
    map_zipIdx_eq_map_range data fun k => if backed k then s.mem.readByte (a + k) else 0xFF]

/-- In recovery the aperture opens on management memory (R330). -/
theorem hostBar2Access_recovery_write {off : Nat} {data : List Byte} (h : off + data.length ≤ 2 ^ 20)
    (hr : s.host.recovery = true) :
    execHostBar2Access true off data s = .next (s.modMem fun m => { m with mgmt := tsets 0 m.mgmt off data }) := by
  rw [execHostBar2Access]
  extract_lets a backed
  rw [if_neg (by omega), if_pos hr, if_pos rfl, List.take_of_length_le (by unfold mgmtBytes; omega)]

theorem hostBar2Access_recovery_read {off : Nat} {data : List Byte} (h : off + data.length ≤ 2 ^ 20)
    (hr : s.host.recovery = true) : execHostBar2Access false off data s =
      .next (s.answer ((List.range data.length).map fun k => tget 0 s.mem.mgmt (off + k)) false) := by
  rw [execHostBar2Access]
  extract_lets a backed
  rw [if_neg (by omega), if_pos hr, if_neg (by simp),
    map_zipIdx_eq_map_range data fun k => if off + k < mgmtBytes then tget 0 s.mem.mgmt (off + k) else 0xFF]
  congr 2
  refine List.map_congr_left fun k hk => if_pos ?_
  rw [List.mem_range] at hk
  unfold mgmtBytes
  omega

/-- A write of the host that nothing holds leaves its bytes where an address is backed and its home takes them. -/
theorem hostBar2Access_write_free {off : Nat} {data : List Byte} (h : off + data.length ≤ 2 ^ 34) (hr : s.host.recovery = false)
    (hw : s.host.writes = []) (hf : s.rangeHeld true (s.host.aperture.toNat + off) data.length = false) :
    let a := s.host.aperture.toNat + off
    ∃ u, execHostBar2Access true off data s = .next u ∧ u.host.writes = [] ∧ ∀ b, u.mem.byteAt b =
      if a ≤ b ∧ b < a + data.length ∧ (s.mem.homeDie (a + (b - a))).isSome = true ∧ s.mem.discards b = false
      then (data[b - a]?).getD 0 else s.mem.byteAt b := by
  intro a
  refine ⟨_, hostBar2Access_write h hr hw, ?_⟩
  rw [hostWrites_free (s := s.modHost _) (a := a) rfl hf]
  refine ⟨rfl, fun b => ?_⟩
  rw [State.modHost_mem, (homeWriteAll_frame ..).2 b, State.modHost_mem]
  by_cases hb : a ≤ b ∧ s.mem.discards b = false
  · rw [if_pos hb, List.getElem?_map, List.getElem?_zipIdx]
    by_cases hlen : b < a + data.length
    · rw [List.getElem?_eq_getElem (by omega), Option.map_some, Option.map_some, Option.getD_some, Nat.zero_add]
      cases (s.mem.homeDie (a + (b - a))).isSome <;> simp [hb, hlen]
    · rw [List.getElem?_eq_none (by omega), if_neg (by omega)]
      rfl
  · rw [if_neg hb, if_neg (by tauto)]

/-! The report (R327). -/

theorem beBytes_length (n x : Nat) : (beBytes n x).length = n := by rw [beBytes, List.length_reverse, leBytes_length]

/-- A round keeps both halves of the working variables at four words. -/
theorem hashRound_length {x : List W64 × List W64} (kw : W64) (h : x.1.length = 4 ∧ x.2.length = 4) :
    (hashRound x kw).1.length = 4 ∧ (hashRound x kw).2.length = 4 := by
  unfold hashRound
  split
  · exact ⟨rfl, rfl⟩
  · exact h

theorem compress_length {hash : List W64} (block : List Byte) (h : hash.length = 8) : (compress hash block).length = 8 := by
  have rounds (ks : List W64) (x : (List W64 × List W64) × List W64) (hx : x.1.1.length = 4 ∧ x.1.2.length = 4) :
      let y := ks.foldl (fun (x : (List W64 × List W64) × List W64) k =>
        (hashRound x.1 (k + (x.2[15]?).getD 0), nextScheduled x.2 :: x.2.take 15)) x
      y.1.1.length = 4 ∧ y.1.2.length = 4 := by
    induction ks generalizing x with
    | nil => exact hx
    | cons k ks ih => exact ih _ (hashRound_length _ hx)
  unfold compress
  extract_lets first start halves
  obtain ⟨h1, h2⟩ : halves.1.length = 4 ∧ halves.2.length = 4 :=
    rounds _ _ ⟨by rw [List.length_take, h]; rfl, by rw [List.length_drop, h]⟩
  rw [List.length_zipWith, List.length_append, h, h1, h2]
  rfl

theorem initialHash_length : initialHash.length = 8 := by decide +kernel

theorem sha384_length (m : List Byte) : (sha384 m).length = 48 := by
  have blocks (l : List Nat) (f : Nat → List Byte) (hash : List W64) (h : hash.length = 8) :
      (l.foldl (fun h i => compress h (f i)) hash).length = 8 := by
    induction l generalizing hash with
    | nil => exact h
    | cons i l ih => exact ih _ (compress_length _ h)
  unfold sha384
  extract_lets p hash
  have hh : hash.length = 8 := blocks _ _ _ initialHash_length
  rw [List.length_flatten, List.map_map, List.map_congr_left (g := fun _ => 8) fun x _ => beBytes_length 8 x.toNat,
    List.map_const', List.sum_replicate, List.length_take, hh]
  rfl

theorem deviceId_length : deviceId.length = 16 := by rw [deviceId, List.length_take, sha384_length]; rfl

theorem reportBody_length (s : State) (ctx : Nat) (c : Ctx) {nonce : List Byte} (h : nonce.length = 32) :
    (s.reportBody ctx c nonce).length = 160 := by
  simp only [State.reportBody, List.length_append, leBytes_length, deviceId_length, sha384_length, h]

/-- A report is 256 bytes long (R327). -/
theorem report_length (s : State) (ctx : Nat) (c : Ctx) {nonce : List Byte} (h : nonce.length = 32) :
    (s.report ctx c nonce).1.length = 256 := by
  simp only [State.report, List.length_append, beBytes_length, reportBody_length s ctx c h]

/-- A report holds the nonce of its request at byte 32 (R327). -/
theorem report_nonce (s : State) (ctx : Nat) (c : Ctx) {nonce : List Byte} (h : nonce.length = 32) :
    ((s.report ctx c nonce).1.drop 32).take 32 = nonce := by
  rw [State.report, State.reportBody]
  simp only [List.append_assoc]
  iterate 3 rw [← List.append_assoc]
  rw [List.drop_left' (by simp only [List.length_append, leBytes_length, deviceId_length]), List.take_left' h]

/-! The management port. -/

/-- What a message is made of (R345). -/
theorem length_of_messageOf {ty seq : Nat} {d data : List Byte} (h : messageOf ty d = some (seq, data)) :
    data.length + 16 = d.length ∧ leNat (d.take 4) = 0x4B4D4731 ∧ leNat ((d.drop 4).take 2) = ty ∧
      leNat ((d.drop 6).take 2) = 0 ∧ leNat ((d.drop 12).take 4) = data.length := by
  unfold messageOf at h
  split at h
  · cases h
  next hc =>
    cases h
    simp only [Bool.or_eq_true, decide_eq_true_eq, not_or, ne_eq, not_not] at hc
    simp only [recF, List.drop_zero] at hc
    obtain ⟨⟨⟨⟨⟨h16, -⟩, h0⟩, h4⟩, h6⟩, h12⟩ := hc
    rw [List.length_drop]
    exact ⟨by omega, h0, h4, h6, h12⟩

/-- A request of another length or type is discarded (R345). -/
theorem attestationMessage_discarded {header p q r : List Byte} {sender : Nat}
    (h : (header ++ p ++ q ++ r).length ≠ 56 ∨ leNat ((header ++ p ++ q ++ r).take 4) ≠ 0x4B4D4731 ∨
      leNat (((header ++ p ++ q ++ r).drop 4).take 2) ≠ 3 ∨ leNat (((header ++ p ++ q ++ r).drop 6).take 2) ≠ 0 ∨
      leNat (((header ++ p ++ q ++ r).drop 12).take 4) ≠ 40) : execAttestationMessage header p q r sender s = .next s := by
  unfold execAttestationMessage
  split
  · rfl
  next e =>
    obtain ⟨hl, h0, h4, h6, h12⟩ := length_of_messageOf e
    rw [if_pos]
    simp only [Bool.or_eq_true, decide_eq_true_eq]
    omega

theorem attestationMessage_recovery {header p q r : List Byte} {sender : Nat} (h : s.host.recovery = true) :
    execAttestationMessage header p q r sender s = .next s := by
  unfold execAttestationMessage
  split
  · rfl
  · rw [if_pos (by simp [h])]

/-- A request with the header and the payload of a request (R327, R345). -/
theorem attestationMessage_request {header p q r nonce : List Byte} {sender seq ctx res : Nat} (hs : seq < 2 ^ 32)
    (hc : ctx < 2 ^ 32) (hn : nonce.length = 32) (hr : s.host.recovery = false)
    (h : header ++ p ++ q ++ r = leBytes 4 0x4B4D4731 ++ leBytes 2 3 ++ leBytes 2 0 ++ leBytes 4 seq ++ leBytes 4 40 ++
      leBytes 4 ctx ++ leBytes 4 res ++ nonce) :
    execAttestationMessage header p q r sender s = .next (match s.ctxAt ctx with
      | none => s.reply (.refusal sender seq)
      | some c => (s.report ctx c nonce).2.reply (.report sender seq (s.report ctx c nonce).1)) := by
  have hl : (leBytes 4 ctx ++ leBytes 4 res ++ nonce).length = 40 := by simp only [List.length_append, leBytes_length, hn]
  have hm : messageOf 3 (header ++ p ++ q ++ r) = some (seq, leBytes 4 ctx ++ leBytes 4 res ++ nonce) := by
    rw [← messageOf_datagram 3 seq _ (by omega) hs (by omega), hl, h]
    simp only [List.append_assoc]
  have hctx : recF (leBytes 4 ctx ++ leBytes 4 res ++ nonce) 0 4 = ctx := by
    rw [List.append_assoc, recF_leBytes, Nat.mod_eq_of_lt (by omega)]
  have hdrop : (leBytes 4 ctx ++ leBytes 4 res ++ nonce).drop 8 = nonce :=
    List.drop_left' (by simp only [List.length_append, leBytes_length])
  unfold execAttestationMessage
  rw [hm]
  dsimp only
  rw [hctx, hdrop, hl, hr]
  rfl

/-! Registers of the management core. -/

theorem mgmtRegisterWrite_area {n : Nat} (v : W64) (h : n < 64) : execMgmtRegisterWrite (BitVec.ofNat 12 (0xC80 + n)) v s =
    .next (s.modMem fun m => { m with areas := tset 0 m.areas n v }) := by
  have e : (BitVec.ofNat 12 (0xC80 + n)).toNat = 0xC80 + n := Nat.mod_eq_of_lt (by omega)
  rw [execMgmtRegisterWrite, e]
  dsimp only
  rw [if_pos (by simp; omega), Nat.add_sub_cancel_left]

theorem mgmtRegisterWrite_trigger {t i : Nat} (v : W64) (ht : t < 8) (hi : i < 4) :
    execMgmtRegisterWrite (BitVec.ofNat 12 (0xD00 + i + 4 * t)) v s = .next (s.modTrigger t (·.write i v)) := by
  have e : (BitVec.ofNat 12 (0xD00 + i + 4 * t)).toNat = 0xD00 + i + 4 * t := Nat.mod_eq_of_lt (by omega)
  rw [execMgmtRegisterWrite, e]
  dsimp only
  rw [if_neg (by simp; omega), if_pos (by simp; omega), show (0xD00 + i + 4 * t - 0xD00) / 4 = t by omega,
    show (0xD00 + i + 4 * t) % 4 = i by omega]

theorem mgmtRegisterWrite_linkStat {l : Nat} {v : W64} (hl : l < 34) (hv : v.getLsbD 4 = true) :
    execMgmtRegisterWrite (BitVec.ofNat 12 (0xE41 + 4 * l)) v s = .next (s.modLink l fun x => { x with svc := false }) := by
  have e : (BitVec.ofNat 12 (0xE41 + 4 * l)).toNat = 0xE41 + 4 * l := Nat.mod_eq_of_lt (by omega)
  rw [execMgmtRegisterWrite, e]
  dsimp only
  rw [if_neg (by simp; omega), if_neg (by simp; omega), if_neg (by simp), if_pos (by simp; omega), if_pos hv,
    show (0xE41 + 4 * l - 0xE40) / 4 = l by omega]

theorem State.triggerAt_modTrigger (s : State) (n m : Nat) (f : Trigger → Trigger) :
    (s.modTrigger n f).triggerAt m = if m = n then f (s.triggerAt n) else s.triggerAt m := tget_tmod ..

theorem Trigger.write_ctl (x : Trigger) (v : W64) : x.write 0 v = { x with ctl := BitVec.ofNat 64 (v.toNat % 512) } := by
  rw [Trigger.write, fieldOf, bits, pow_zero, Nat.div_one]
  rfl

theorem Trigger.write_sel (x : Trigger) (v : W64) : x.write 3 v =
    { x with sel := BitVec.ofNat 64 (v.toNat % 4096 + v.toNat / 2 ^ 32 * 2 ^ 32) } := by
  have high : v.toNat / 2 ^ 32 % 2 ^ 32 = v.toNat / 2 ^ 32 := Nat.mod_eq_of_lt (by omega)
  simp only [Trigger.write, fieldOf, bits, pow_zero, Nat.div_one, high]
  rfl

end Sys2Proof.Machine
end

-- ==== Proofs: the statement about the ports (O53) ====
section
/-! PROOF. The clauses of the statement about the host port and the management port (R9, R342, R343, R345), each from the rules above. -/
namespace Sys2Proof.Machine

/-- Writes of the host's registers. -/
theorem host_registers (s : State) (v : W64) :
    exec .substatClear s = .next { s with host := { s.host with dropped := 0, rejected := 0 } } ∧
    (v.toNat % 2 ^ 34 = 0 → exec (.apertureWrite v) s =
      .next { s with host := { s.host with aperture := BitVec.ofNat 64 (v.toNat % 2 ^ 52) } }) ∧
    (v.toNat % 2 ^ 34 ≠ 0 → exec (.apertureWrite v) s = .next s) ∧
    (∃ w : W64, exec (.killedClear v) s = .next { s with host := { s.host with killed := w } } ∧
      ∀ k < 64, w.getLsbD k = (s.host.killed.getLsbD k && !(v.getLsbD k))) := by
  have low (n : Nat) : fieldOf v 0 n = v.toNat % 2 ^ n := by rw [fieldOf, bits, pow_zero, Nat.div_one]
  refine ⟨rfl, fun h => ?_, fun h => ?_, _, rfl, fun k hk => ?_⟩
  · change execApertureWrite v s = _
    rw [execApertureWrite, State.writeAperture, low, low, if_neg (not_not.mpr h)]
    rfl
  · change execApertureWrite v s = _
    rw [execApertureWrite, State.writeAperture, low, if_pos h]
  · rw [BitVec.getLsbD_and, BitVec.getLsbD_not, decide_eq_true hk, Bool.true_and]

/-- Overlay memory through BAR 1. -/
theorem bar1_overlay_access (s : State) (off : Nat) (data : List Byte) (h : off + data.length ≤ 2 ^ 23) :
    (∃ u, exec (.hostBar1Access true off data) s = .next u ∧ u.mem.bytes = s.mem.bytes ∧ u.mem.record = s.mem.record ∧
      ∀ a, tget 0 u.mem.overlay a = if off ≤ a ∧ a < off + data.length then (data[a - off]?).getD 0 else tget 0 s.mem.overlay a) ∧
    (∃ u, exec (.hostBar1Access false off data) s = .next u ∧ u.mem = s.mem ∧
      u.host.lastRead = ((List.range data.length).map fun k => tget 0 s.mem.overlay (off + k), false)) := by
  refine ⟨⟨_, hostBar1Access_overlay_write h, rfl, rfl, tget_tsets 0 data s.mem.overlay off⟩,
    _, hostBar1Access_read (by omega) (by omega), rfl, congrArg (·, false) (List.map_congr_left fun k hk => ?_)⟩
  rw [List.mem_range] at hk
  exact bar1_overlay s.mem (by omega)

/-- Record memory through BAR 1. -/
theorem bar1_record_access (s : State) (off : Nat) (data : List Byte) (h : 2 ^ 23 ≤ off)
    (h' : off + data.length ≤ 2 ^ 23 + 2 ^ 22) :
    (∃ u, exec (.hostBar1Access true off data) s = .next u ∧ u.mem.bytes = s.mem.bytes ∧ u.mem.overlay = s.mem.overlay ∧
      ∀ a, tget 0 u.mem.record a = if off ≤ a + 2 ^ 23 ∧ a + 2 ^ 23 < off + data.length then (data[a + 2 ^ 23 - off]?).getD 0
        else tget 0 s.mem.record a) ∧
    (∃ u, exec (.hostBar1Access false off data) s = .next u ∧ u.mem = s.mem ∧
      u.host.lastRead = ((List.range data.length).map fun k => tget 0 s.mem.record (off + k - 2 ^ 23), false)) := by
  refine ⟨⟨_, hostBar1Access_record_write h h', rfl, rfl, fun a => ?_⟩,
    _, hostBar1Access_read (by omega) (by omega), rfl, congrArg (·, false) (List.map_congr_left fun k hk => ?_)⟩
  · rw [State.modMem_mem, tget_tsets, show a - (off - 2 ^ 23) = a + 2 ^ 23 - off by omega]
    exact if_congr (by omega) rfl rfl
  · rw [List.mem_range] at hk
    exact bar1_record s.mem (by omega) (by omega)

/-- BAR 0, at its offset in BAR 1 (log entry 107). -/
theorem bar0_access (s : State) (v : W64) (off : Nat) (data : List Byte) :
    let at_ (k : Nat) : Nat := 2 ^ 24 + k
    let put (k : Nat) (bs : List Byte) : Instr := .hostBar1Access true (at_ k) bs
    exec (put 8 (leBytes 8 v.toNat)) s = exec .substatClear s ∧
    exec (put 0x10 (leBytes 8 v.toNat)) s = exec (.apertureWrite v) s ∧
    exec (put 0x28 (leBytes 8 v.toNat)) s = exec (.killedClear v) s ∧
    (8 ≤ off → off + data.length ≤ 4096 → data.length ≠ 8 ∨ off % 8 ≠ 0 → exec (put off data) s = .next s) ∧
    (off < 8 → data.length ≠ 8 ∨ off ≠ 0 → 0 < data.length → data.length < 4000 → exec (put off data) s =
      .next { s with host := { s.host with rejected := min (s.host.rejected + 1) 65535 } }) ∧
    (off + data.length ≤ 4096 → ∃ u, exec (.hostBar1Access false (at_ off) data) s = .next u ∧
      { u with host := { u.host with lastRead := s.host.lastRead } } = s ∧ u.host.lastRead.1.length = data.length ∧
      ∀ k, k < data.length → ((0x10 ≤ off + k → off + k < 0x18 →
          u.host.lastRead.1[k]? = (leBytes 8 s.host.aperture.toNat)[off + k - 0x10]?) ∧
        (0x28 ≤ off + k → off + k < 0x30 → u.host.lastRead.1[k]? = (leBytes 8 s.host.killed.toNat)[off + k - 0x28]?) ∧
        (0x30 ≤ off + k → u.host.lastRead.1[k]? = some 0))) := by
  intro at_ put
  have word {k : Nat} (hk : k ≤ 4088) (h8 : k % 8 = 0) :
      exec (put k (leBytes 8 v.toNat)) s = .next (s.writeBar0 k (leBytes 8 v.toNat)) :=
    hostBar1Access_bar0_put v hk h8
  have write (h : off + data.length ≤ 4096) : exec (put off data) s = .next (s.writeBar0 off data) := hostBar1Access_bar0_write h
  refine ⟨?_, ?_, ?_, fun h h' hd => ?_, fun h hd h0 h' => ?_, fun h => ?_⟩
  · rw [word (by omega) (by omega), writeBar0_substat]
    rfl
  · rw [word (by omega) (by omega), writeBar0_aperture]
    rfl
  · rw [word (by omega) (by omega), writeBar0_killed]
    rfl
  · rw [write h', writeBar0_unaligned hd, if_neg (by simp; omega)]
  · rw [write (by omega), writeBar0_unaligned (by omega), if_pos (by simp [h, List.ne_nil_of_length_pos h0])]
    have hsat : sat16 s.host.rejected = min (s.host.rejected + 1) 65535 := by unfold sat16; split <;> omega
    rw [State.modHost, hsat]
  · refine ⟨_, hostBar1Access_bar0_read h, rfl, by simp [State.answer], fun k hk => ?_⟩
    have byte : (s.answer ((List.range data.length).map fun k =>
        ((leBytes 8 (s.bar0Reg ((off + k) / 8 * 8)).toNat)[(off + k) % 8]?).getD 0) false).host.lastRead.1[k]? =
          some (((leBytes 8 (s.bar0Reg ((off + k) / 8 * 8)).toNat)[(off + k) % 8]?).getD 0) := by
      rw [State.answer, State.modHost_host, List.getElem?_map, List.getElem?_range hk, Option.map_some]
    rw [byte]
    exact ⟨fun h1 h2 => bar0_byte s h1 h2 rfl, fun h1 h2 => bar0_byte s h1 h2 rfl, fun h1 => congrArg some (bar0_byte_beyond s h1)⟩

/-- Physical memory through the aperture. -/
theorem bar2_access (s : State) (off : Nat) (data : List Byte) (h : off + data.length ≤ 2 ^ 34) (hr : s.host.recovery = false) :
    let a := s.host.aperture.toNat + off
    let backed (k : Nat) : Bool := (s.mem.homeDie (a + k)).isSome
    (s.rangeHeld false a data.length = false → ∃ u, exec (.hostBar2Access false off data) s = .next u ∧ u.mem.bytes = s.mem.bytes ∧
      u.host.lastRead.1 = (List.range data.length).map fun k => if backed k then s.mem.readByte (a + k) else 0xFF) ∧
    (s.rangeHeld false a data.length = true → exec (.hostBar2Access false off data) s = .next s) ∧
    (s.host.writes = [] → (∃ k, k < data.length ∧ backed k = true ∧ s.mem.bounces (a + k) = true) →
      exec (.hostBar2Access true off data) s = .next { s with host := { s.host with writes := [(a, data)] } }) ∧
    (s.host.writes = [] → s.rangeHeld true a data.length = false →
      ∃ u, exec (.hostBar2Access true off data) s = .next u ∧ u.host.writes = [] ∧ ∀ b, u.mem.byteAt b =
      if a ≤ b ∧ b < a + data.length ∧ backed (b - a) = true ∧ s.mem.discards b = false then (data[b - a]?).getD 0
      else s.mem.byteAt b) := by
  intro a backed
  refine ⟨fun hf => ?_, fun hf => ?_, fun hw hb => ?_, fun hw hf => hostBar2Access_write_free h hr hw hf⟩
  · obtain ⟨w, c, r, e⟩ := touchLines_frame s a data.length
    refine ⟨_, (hostBar2Access_read h hr).trans (congrArg _ (if_neg (ne_true_of_eq_false hf))), ?_, rfl⟩
    change (s.touchLines a data.length).mem.bytes = s.mem.bytes
    rw [e]
    rfl
  · exact (hostBar2Access_read h hr).trans (congrArg _ (if_pos hf))
  · obtain ⟨k, hk, hbacked, hm⟩ := hb
    refine (hostBar2Access_write h hr hw).trans (congrArg _ ?_)
    exact hostWrites_held (s := s.modHost _) rfl (rangeHeld_of_bounces hk hbacked hm)

/-- Management memory through the aperture, in recovery. -/
theorem bar2_recovery_access (s : State) (off : Nat) (data : List Byte) (h : off + data.length ≤ 2 ^ 20)
    (hr : s.host.recovery = true) :
    (∃ u, exec (.hostBar2Access false off data) s = .next u ∧ u.mem = s.mem ∧
      u.host.lastRead.1 = (List.range data.length).map fun k => tget 0 s.mem.mgmt (off + k)) ∧
    (∃ u, exec (.hostBar2Access true off data) s = .next u ∧ u.mem.bytes = s.mem.bytes ∧ ∀ b, tget 0 u.mem.mgmt b =
      if off ≤ b ∧ b < off + data.length then (data[b - off]?).getD 0 else tget 0 s.mem.mgmt b) :=
  ⟨⟨_, hostBar2Access_recovery_read h hr, rfl, rfl⟩,
    _, hostBar2Access_recovery_write h hr, rfl, tget_tsets 0 data s.mem.mgmt off⟩

theorem isMe_iff (s : State) (ip : Nat) : s.isMe ip = true ↔ ∃ m g, s.host.address = some (ip, m, g) := by
  unfold State.isMe
  cases s.host.address with
  | none => simp
  | some a => simp [Prod.ext_iff, eq_comm]

/-- ARP and ICMP at the management port: for its own address (R345). -/
theorem port_answers (s : State) (ip sender : Nat) (data : List Byte) :
    let mine : Prop := ∃ m g, s.host.address = some (ip, m, g)
    let sends (m : Message) : State := { s with host := { s.host with sent := s.host.sent ++ [m] } }
    (mine → exec (.arpRequest ip sender) s = .next (sends (.arp sender ip)) ∧
      exec (.icmpEcho ip sender data) s = .next (sends (.echo sender data))) ∧
    (¬ mine → exec (.arpRequest ip sender) s = .next s ∧ exec (.icmpEcho ip sender data) s = .next s) :=
  ⟨fun h => ⟨congrArg _ (if_pos ((isMe_iff s ip).mpr h)), congrArg _ (if_pos ((isMe_iff s ip).mpr h))⟩,
    fun h => ⟨congrArg _ (if_neg (mt (isMe_iff s ip).mp h)), congrArg _ (if_neg (mt (isMe_iff s ip).mp h))⟩⟩

/-- DHCP gives an address where the owner section gives none (R345). -/
theorem dhcp_address (s : State) (ip mask gateway : Nat) :
    (s.host.cfg.ip = none →
      exec (.dhcp ip mask gateway) s = .next { s with host := { s.host with address := some (ip, mask, gateway) } }) ∧
    (s.host.cfg.ip ≠ none → exec (.dhcp ip mask gateway) s = .next s) :=
  ⟨fun h => congrArg _ (if_neg (by simp [h])), fun h => congrArg _ (if_pos (Option.isSome_iff_ne_none.mpr h))⟩

/-- A request for a report that the port accepts: a refusal or the report (R327, R345). -/
theorem attestation_answers (s : State) (header p q r nonce : List Byte) (sender seq ctx res : Nat) (hs : seq < 2 ^ 32)
    (hc : ctx < 2 ^ 32) (hn : nonce.length = 32) (hr : s.host.recovery = false)
    (h : header ++ p ++ q ++ r = leBytes 4 0x4B4D4731 ++ leBytes 2 3 ++ leBytes 2 0 ++ leBytes 4 seq ++ leBytes 4 40 ++
      leBytes 4 ctx ++ leBytes 4 res ++ nonce) :
    (s.ctxAt ctx = none → exec (.attestationMessage header p q r sender) s =
      .next { s with host := { s.host with sent := s.host.sent ++ [.refusal sender seq] } }) ∧
    (∀ c, s.ctxAt ctx = some c → ∃ u bs,
      exec (.attestationMessage header p q r sender) s = .next u ∧ u.host.sent = s.host.sent ++ [.report sender seq bs] ∧
        u.host.signatures = s.host.signatures + 1 ∧ u.mem = s.mem ∧ (bs.drop 32).take 32 = nonce ∧ bs.length = 256) := by
  have e := attestationMessage_request (sender := sender) hs hc hn hr h
  refine ⟨fun hctx => ?_, fun c hctx => ?_⟩
  · rw [hctx] at e
    exact e
  · rw [hctx] at e
    exact ⟨_, _, e, rfl, rfl, rfl, report_nonce s ctx c hn, report_length s ctx c hn⟩

/-- Writes of CTXAREA, LNKSTAT and the triggers (log entry 82). -/
theorem mgmt_registers (s : State) (v : W64) :
    (∀ n, n < 64 → ∃ u, exec (.mgmtRegisterWrite (BitVec.ofNat 12 (0xC80 + n)) v) s = .next u ∧
      (∀ k, tget 0 u.mem.areas k = if k = n then v else tget 0 s.mem.areas k) ∧ u.mem.bytes = s.mem.bytes) ∧
    (∀ l, l < 34 → v.getLsbD 4 = true → ∃ u, exec (.mgmtRegisterWrite (BitVec.ofNat 12 (0xE41 + 4 * l)) v) s = .next u ∧
      u.linkAt l = { s.linkAt l with svc := false } ∧ (∀ m, m ≠ l → u.linkAt m = s.linkAt m) ∧ u.mem = s.mem) ∧
    (∀ t, t < 8 →
      (∃ u, exec (.mgmtRegisterWrite (BitVec.ofNat 12 (0xD00 + 4 * t)) v) s = .next u ∧
        u.triggerAt t = { s.triggerAt t with ctl := BitVec.ofNat 64 (v.toNat % 512) } ∧
        ∀ k, k ≠ t → u.triggerAt k = s.triggerAt k) ∧
      (∃ u, exec (.mgmtRegisterWrite (BitVec.ofNat 12 (0xD01 + 4 * t)) v) s = .next u ∧
        u.triggerAt t = { s.triggerAt t with start := v }) ∧
      (∃ u, exec (.mgmtRegisterWrite (BitVec.ofNat 12 (0xD02 + 4 * t)) v) s = .next u ∧
        u.triggerAt t = { s.triggerAt t with stop := v }) ∧
      (∃ u, exec (.mgmtRegisterWrite (BitVec.ofNat 12 (0xD03 + 4 * t)) v) s = .next u ∧
        u.triggerAt t = { s.triggerAt t with
          sel := BitVec.ofNat 64 (v.toNat % 4096 + v.toNat / 2 ^ 32 * 2 ^ 32) })) := by
  have here (t i : Nat) : (s.modTrigger t (·.write i v)).triggerAt t = (s.triggerAt t).write i v :=
    (s.triggerAt_modTrigger ..).trans (if_pos rfl)
  refine ⟨fun n hn => ⟨_, mgmtRegisterWrite_area v hn, fun k => tget_tset .., rfl⟩,
    fun l hl hv => ⟨_, mgmtRegisterWrite_linkStat hl hv, ?_, fun m hm => ?_, rfl⟩, fun t ht => ⟨?_, ?_, ?_, ?_⟩⟩
  · rw [State.linkAt_modLink, if_pos rfl]
  · rw [State.linkAt_modLink, if_neg hm]
  · refine ⟨_, mgmtRegisterWrite_trigger (i := 0) v ht (by omega), (here t 0).trans (Trigger.write_ctl ..), fun k hk => ?_⟩
    rw [State.triggerAt_modTrigger, if_neg hk]
  · exact ⟨_, mgmtRegisterWrite_trigger (i := 1) v ht (by omega), here t 1⟩
  · exact ⟨_, mgmtRegisterWrite_trigger (i := 2) v ht (by omega), here t 2⟩
  · exact ⟨_, mgmtRegisterWrite_trigger (i := 3) v ht (by omega), (here t 3).trans (Trigger.write_sel ..)⟩

/-- Settles O53: the clauses of the host port, and those of the management port. -/
theorem ports : Obligations.Ports := by
  unfold Obligations.Ports
  refine ⟨fun s v off data => ?_, fun s ip mask gateway sender seq data header p q r v => ?_⟩
  · obtain ⟨hsub, hap, hap', hkill⟩ := host_registers s v
    exact ⟨hsub, hap, hap', hkill, bar1_overlay_access s off data, bar1_record_access s off data, bar0_access s v off data,
      bar2_access s off data, bar2_recovery_access s off data⟩
  · obtain ⟨hmine, hother⟩ := port_answers s ip sender data
    obtain ⟨hdhcp, hdhcp'⟩ := dhcp_address s ip mask gateway
    exact ⟨hmine, hother, hdhcp, hdhcp', attestationMessage_recovery, attestationMessage_discarded,
      fun ctx res nonce hs hc _ hn hr h => attestation_answers s header p q r nonce sender seq ctx res hs hc hn hr h,
      mgmt_registers s v⟩

end Sys2Proof.Machine
end

-- ==== Proofs: scalar registers as words read and write them (O3) ====
section
/-! PROOF. Reads and writes of the scalar registers (R20, R166). An agent that acts reads its own strand or conductor core, and a write
leaves it acting as the same strand or core with that register changed; so what a register reads after a write follows from the rules of
the register file. -/
namespace Sys2Proof.Machine

variable {s : State} {n k : Nat} {st : Strand}

/-! What the agent that acts reads. -/

theorem State.acts.readStrand (h : s.acts n st) : s.readStrand = st := by
  obtain ⟨hcur, hst, hview | hview⟩ := h
  · simp [State.readStrand, State.me, hview, hcur, hst]
  · simp [State.readStrand, hview]

theorem State.acts.g_eq (h : s.acts n st) (r : GReg) : s.g r = if r = 0 then 0 else tget 0 st.g r.toNat := by
  simp only [State.g, h.1, h.readStrand]

theorem State.acts.gt_eq (h : s.acts n st) (r : GReg) : s.gt r = if r = 0 then false else tget false st.gtag r.toNat := by
  simp only [State.gt, h.1, h.readStrand]

theorem State.acts.gBusy_eq (h : s.acts n st) (r : GReg) :
    s.gBusy r = if r = 0 then false else decide (tget 0 st.busy r.toNat ≠ 0) := by
  simp only [State.gBusy, h.1, h.readStrand]
  by_cases hr : r = 0
  · simp only [hr, ne_eq, not_true, decide_false, Bool.false_and, if_pos]
  · simp only [hr, ne_eq, not_false_eq_true, decide_true, Bool.true_and, if_false]

theorem State.conducts.readCond (h : s.conducts k) : s.readCond = s.condAt k := by
  obtain ⟨hcur, hview | hview⟩ := h
  · simp [State.readCond, State.myCondNum, hview, hcur]
  · simp [State.readCond, hview]

theorem State.conducts.g_eq (h : s.conducts k) (r : GReg) : s.g r = if r = 0 then 0 else tget 0 (s.condAt k).g r.toNat := by
  simp only [State.g, h.1, h.readCond]

theorem State.conducts.gt_eq (h : s.conducts k) (r : GReg) : s.gt r = false := by
  simp only [State.gt, h.1, ite_self]

/-- g0 reads 0, untagged, and has no producer, whoever acts. -/
theorem State.g_zero (s : State) : s.g 0 = 0 ∧ s.gt 0 = false ∧ s.gBusy 0 = false := by
  refine ⟨if_pos rfl, if_pos rfl, ?_⟩
  cases hcur : s.cur <;> simp [State.gBusy, hcur]

/-- g0 keeps its own reading, and any other register reads what was written to it. -/
theorem ite_written {α : Type} (d r : GReg) (zero new old : α) :
    (if r = 0 then zero else if d ≠ 0 ∧ r.toNat = d.toNat then new else old) =
      if d ≠ 0 ∧ r = d then new else if r = 0 then zero else old := by
  simp only [BitVec.toNat_inj]
  by_cases hw : d ≠ 0 ∧ r = d
  · rw [if_pos hw, if_pos hw, if_neg (hw.2 ▸ hw.1)]
  · rw [if_neg hw, if_neg hw]

/-! A write in a strand. -/

/-- A change of one strand is a change of that strand only. -/
theorem State.onlyStrand_modStrand (s : State) (n : Nat) (f : Strand → Strand) : s.onlyStrand (s.modStrand n f) n := by
  refine ⟨?_, fun m hm => by rw [State.strandAt_modStrand, if_neg hm], fun pa => by rw [State.modStrand_mem]⟩
  unfold State.modStrand
  split <;> rfl

theorem State.setG_of_strand (hcur : s.cur = .strand n) (d : GReg) (v : W64) (tag : Bool) :
    s.setG d v tag = s.modStrand n (·.setG d v tag) := by
  simp only [State.setG, hcur]

/-- The word after a write acts as the same strand with the register written. -/
theorem State.acts.setG (h : s.acts n st) (d : GReg) (v : W64) (tag : Bool) :
    State.acts { s.setG d v tag with view := none } n (st.setG d v tag) := by
  obtain ⟨hcur, hst, -⟩ := h
  rw [State.setG_of_strand hcur]
  refine ⟨(State.modStrand_cur ..).trans hcur, ?_, .inl rfl⟩
  exact (State.strandAt_modStrand ..).trans (by rw [if_pos rfl, hst]; rfl)

theorem State.acts.g_setG (h : s.acts n st) (d : GReg) (v : W64) (tag : Bool) (r : GReg) :
    State.g { s.setG d v tag with view := none } r = if d ≠ 0 ∧ r = d then v else s.g r := by
  rw [(h.setG d v tag).g_eq, h.g_eq, Strand.setG_g, ite_written]

theorem State.acts.gt_setG (h : s.acts n st) (d : GReg) (v : W64) (tag : Bool) (r : GReg) :
    State.gt { s.setG d v tag with view := none } r = if d ≠ 0 ∧ r = d then tag else s.gt r := by
  rw [(h.setG d v tag).gt_eq, h.gt_eq, Strand.setG_gtag, ite_written]

theorem State.acts.gBusy_setG (h : s.acts n st) (d : GReg) (v : W64) (tag : Bool) (r : GReg) :
    State.gBusy { s.setG d v tag with view := none } r = if d ≠ 0 ∧ r = d then false else s.gBusy r := by
  rw [(h.setG d v tag).gBusy_eq, h.gBusy_eq, Strand.setG_busy, apply_ite (fun x => decide (x ≠ 0)), ite_written]
  rfl

/-! A write in a conductor core. -/

theorem State.setG_of_conductor (hcur : s.cur = .conductor k) (d : GReg) (v : W64) (tag : Bool) :
    s.setG d v tag = if d = 0 then s else s.modCond k fun c => { c with g := tset 0 c.g d.toNat v } := by
  simp only [State.setG, hcur]

/-- A write in a conductor core leaves who acts, memory and the strands. -/
theorem State.conducts.setG_frame (h : s.conducts k) (d : GReg) (v : W64) (tag : Bool) :
    (s.setG d v tag).cur = s.cur ∧ (s.setG d v tag).mem = s.mem ∧ (s.setG d v tag).strands = s.strands := by
  rw [State.setG_of_conductor h.1]
  split <;> exact ⟨rfl, rfl, rfl⟩

theorem State.conducts.setG (h : s.conducts k) (d : GReg) (v : W64) (tag : Bool) :
    State.conducts { s.setG d v tag with view := none } k :=
  have ⟨hcur, _, _⟩ := h.setG_frame d v tag
  ⟨hcur.trans h.1, .inl rfl⟩

theorem State.conducts.condAt_setG (h : s.conducts k) (d : GReg) (v : W64) (tag : Bool) (i : Nat) :
    tget 0 ((s.setG d v tag).condAt k).g i = if d ≠ 0 ∧ i = d.toNat then v else tget 0 (s.condAt k).g i := by
  rw [State.setG_of_conductor h.1]
  by_cases hd : d = 0
  · rw [if_pos hd, if_neg fun hw => hw.1 hd]
  · rw [if_neg hd, State.condAt_modCond, if_pos rfl, tget_tset]
    simp only [ne_eq, hd, not_false_eq_true, true_and]

theorem State.conducts.g_setG (h : s.conducts k) (d : GReg) (v : W64) (tag : Bool) (r : GReg) :
    State.g { s.setG d v tag with view := none } r = if d ≠ 0 ∧ r = d then v else s.g r := by
  rw [(h.setG d v tag).g_eq, h.g_eq, ← ite_written]
  exact congrArg (ite (r = 0) 0) (h.condAt_setG d v tag r.toNat)

/-- Settles O3: g0 for whoever acts, then a write in a strand, then one in a conductor core. -/
theorem registerWrites : Obligations.RegisterWrites := by
  unfold Obligations.RegisterWrites
  refine ⟨State.g_zero, fun s n st d v tag h => ?_, fun s k d v tag h => ?_⟩
  · obtain ⟨-, hst, -⟩ := h.setG d v tag
    refine ⟨fun hd => ?_, fun r hr => ?_, ?_, st.setG d v tag, hst, st.setG_frame d v tag⟩
    · have hw : d ≠ 0 ∧ d = d := ⟨hd, rfl⟩
      rw [h.g_setG, h.gt_setG, h.gBusy_setG, if_pos hw, if_pos hw, if_pos hw]
      exact ⟨rfl, rfl, rfl⟩
    · have hw : ¬ (d ≠ 0 ∧ r = d) := fun hw => hr hw.2
      rw [h.g_setG, h.gt_setG, h.gBusy_setG, if_neg hw, if_neg hw, if_neg hw]
      exact ⟨rfl, rfl, rfl⟩
    · rw [State.setG_of_strand h.1]
      exact s.onlyStrand_modStrand n _
  · obtain ⟨-, hmem, hstrands⟩ := h.setG_frame d v tag
    refine ⟨fun hd => ?_, fun r hr => ?_, (h.setG d v tag).gt_eq, hmem, hstrands⟩
    · rw [h.g_setG, if_pos ⟨hd, rfl⟩]
    · rw [h.g_setG, if_neg fun hw => hr hw.2]

end Sys2Proof.Machine
end

-- ==== Proofs: engine words and their strands (O27) ====
section
/-! PROOF. What an engine word raises at issue (R41, R237). Its checks name a cause each; the placement of an MXE word is the only one of
them that asks for the strand's role. -/
namespace Sys2Proof.Machine

variable {s : State} {n : Nat} {st : Strand} {c : Cause} {r : Rec}

theorem State.trapI_defer (h : s.slot.defer = true) (c : Cause) (r : Rec) (ign : State) :
    s.trapI c r ign = { ign with verdict := .trapped c r } := if_pos h

theorem State.trap_defer (h : s.slot.defer = true) (c : Cause) (r : Rec) :
    s.trap c r = { s with verdict := .trapped c r } := State.trapI_defer h c r _

/-- What the last word did is not a trap of a cause. -/
def State.avoids (s : State) (c : Cause) : Prop := ∀ r, s.verdict ≠ .trapped c r

/-- A check finds nothing of a cause. -/
def avoidsCause (c : Cause) (bad : Option (Cause × Rec)) : Prop := ∀ x ∈ bad, x.1 ≠ c

theorem State.avoids.trapI {d : Cause} (h : s.slot.defer = true) (hd : d ≠ c) (r : Rec) (ign : State) : (s.trapI d r ign).avoids c := by
  intro r' e
  rw [State.trapI_defer h] at e
  exact hd (Verdict.trapped.inj e).1

theorem State.issued_avoids (s : State) (c : Cause) : s.issued.avoids c := fun _ e => Verdict.noConfusion e

theorem State.holds_avoids (s : State) (c : Cause) : s.holds.avoids c := fun _ e => Verdict.noConfusion e

theorem State.avoids.ite {p : Prop} [Decidable p] {a b : State} (ha : p → a.avoids c) (hb : ¬ p → b.avoids c) :
    (if p then a else b).avoids c := by
  split
  · exact ha ‹_›
  · exact hb ‹_›

/-- A word of an engine queue that goes on owns what it needs, or waits. -/
theorem State.avoids.owning {q : Nat} {k : State → State} (hk : ∀ s, (k s).avoids c) : (s.owning q k).avoids c := by
  refine State.avoids.ite (fun _ => hk s) fun _ => ?_
  dsimp only
  split
  · exact State.avoids.ite (fun _ => hk s) fun _ => s.holds_avoids c
  · exact State.avoids.ite (fun _ => hk _) fun _ => State.holds_avoids _ c

/-- The issue of an engine word raises a cause only as its placement, or as what its own checks find. -/
theorem State.avoids.engineIssue {i : Instr} {h : EHead} {q : Nat} {regs : List GReg} {bad : Option (Cause × Rec)}
    (hd : s.slot.defer = true) (hq : q ≠ 0 ∨ s.readStrand.role = .computer) (hbad : avoidsCause .enginePlacement bad) :
    (s.engineIssue i h q regs bad).avoids .enginePlacement := by
  refine State.avoids.ite (fun e => ?_) fun _ => State.avoids.ite (fun _ => State.avoids.trapI hd (by decide) _ _) fun _ =>
    State.avoids.ite (fun _ => State.avoids.trapI hd (by decide) _ _) fun _ =>
    State.avoids.ite (fun _ => s.holds_avoids _) fun _ => ?_
  · simp only [Bool.and_eq_true, decide_eq_true_eq] at e
    exact (hq.elim (· e.1) (e.2 ·)).elim
  · unfold State.clean
    split
    · exact State.avoids.trapI hd (by decide) _ _
    · split
      · next c r => exact State.avoids.trapI hd (hbad (c, r) rfl) _ _
      · exact State.avoids.ite
          (fun _ => State.avoids.ite (fun _ => s.holds_avoids _) fun _ => State.avoids.owning fun _ => State.issued_avoids _ _)
          fun _ _ e => Verdict.noConfusion e

/-! The checks of each word (R237). -/

theorem avoidsCause_none : avoidsCause c none := fun _ h => by cases h

theorem avoidsCause_some {d : Cause} (h : d ≠ c) (r : Rec) : avoidsCause c (some (d, r)) := by
  rintro _ ⟨⟩
  exact h

theorem avoidsCause_map {α : Type} (o : Option α) {f : α → Cause × Rec} (h : ∀ a ∈ o, (f a).1 ≠ c) :
    avoidsCause c (o.map f) := by
  intro x hx
  obtain ⟨a, ha, rfl⟩ := Option.map_eq_some_iff.mp hx
  exact h a ha

theorem avoidsCause.orElse {a b : Option (Cause × Rec)} (ha : avoidsCause c a) (hb : avoidsCause c b) :
    avoidsCause c (a.orElse fun _ => b) := by
  cases a with
  | none => exact hb
  | some x => exact ha

theorem avoidsCause.ite {p : Prop} [Decidable p] {a b : Option (Cause × Rec)} (ha : avoidsCause c a) (hb : avoidsCause c b) :
    avoidsCause c (if p then a else b) := by
  split
  · exact ha
  · exact hb

theorem leaves_avoids (s : State) (rs : List (Nat × Nat)) : avoidsCause .enginePlacement (s.leaves rs) :=
  avoidsCause_map _ fun _ _ => nofun

theorem mmaBad_avoids (s : State) (x : MmaArgs) : avoidsCause .enginePlacement (s.mmaBad x) := by
  unfold State.mmaBad
  split
  · exact avoidsCause_some (by decide) _
  · refine .ite (avoidsCause_some (by decide) _) ?_
    dsimp only
    split
    · exact avoidsCause_some (by decide) _
    · refine (leaves_avoids s _).orElse ?_
      split
      · exact .ite (avoidsCause_some (by decide) _) avoidsCause_none
      · exact avoidsCause_none

theorem accBad_avoids (s : State) (x : AccArgs) : avoidsCause .enginePlacement (s.accBad x) :=
  .ite (avoidsCause_some (by decide) _) (.ite (avoidsCause_some (by decide) _) (leaves_avoids s _))

theorem sclBad_avoids (s : State) (x : SclArgs) : avoidsCause .enginePlacement (s.sclBad x) :=
  .ite (avoidsCause_some (by decide) _) (.ite (avoidsCause_some (by decide) _) (leaves_avoids s _))

theorem wstBad_avoids (s : State) (x : WstArgs) : avoidsCause .enginePlacement (s.wstBad x) :=
  .ite (avoidsCause_some (by decide) _) (.ite (avoidsCause_some (by decide) _) (.ite (avoidsCause_some (by decide) _) avoidsCause_none))

theorem moveBad_avoids (s : State) (m : Move) : avoidsCause .enginePlacement (s.moveBad m) := by
  unfold State.moveBad
  split
  · exact avoidsCause_some (by decide) _
  · exact avoidsCause_map _ fun _ _ => nofun

theorem declBad_avoids (s : State) (n : Nat) : avoidsCause .enginePlacement (s.declBad n) := by
  unfold State.declBad
  split
  · exact .ite avoidsCause_none (avoidsCause_some (by decide) _)
  · exact avoidsCause_some (by decide) _

theorem sfjBad_avoids (s : State) (d : GReg) : avoidsCause .enginePlacement (s.sfjBad d) :=
  .ite (avoidsCause_some (by decide) _) avoidsCause_none

/-- A scratchpad access raises ALIGNMENT or TRANSLATION (R22). -/
theorem spmCheck_cause {base len : Nat} {a : W64} {m align : Nat} {v : Bool} {d : Cause} (h : d ∈ spmCheck base len a m align v) :
    d = .alignment ∨ d = .translation := by
  unfold spmCheck at h
  split at h
  · exact .inl (Option.some.inj h).symm
  · split at h
    · exact .inr (Option.some.inj h).symm
    · cases h

theorem chainBad_avoids (o : Option Cause) (a : W64) (h : ∀ d ∈ o, d = .alignment ∨ d = .translation) :
    avoidsCause .enginePlacement (o.map fun d => (d, Rec.addr a)) :=
  avoidsCause_map o fun d hd => (h d hd).elim (fun e => e ▸ nofun) fun e => e ▸ nofun

/-! The placement (R41). -/

/-- An MXE word on a strand that is no computer. -/
theorem engineIssue_misplaced (hd : s.slot.defer = true) (hr : s.readStrand.role ≠ .computer) (i : Instr) (h : EHead)
    (regs : List GReg) (bad : Option (Cause × Rec)) :
    s.engineIssue i h 0 regs bad = { s with verdict := .trapped .enginePlacement Rec.zero } :=
  (if_pos (by simp [hr])).trans (State.trap_defer hd _ _)

/-- Settles O27: MXE words by the strand's role, then the words of the other engines, which never ask for it. -/
theorem enginePlacement : Obligations.EnginePlacement := by
  unfold Obligations.EnginePlacement
  refine ⟨rfl, fun s n st h x y mask z w b cp d hs hd => ?_⟩
  have avoid : ∀ i q regs bad, q ≠ 0 ∨ s.readStrand.role = .computer → avoidsCause .enginePlacement bad →
      ∃ t, (Host.Outcome.next (s.engineIssue i h q regs bad) : Host.Outcome State Fault Refusal) = .next t ∧
        t.avoids .enginePlacement :=
    fun i q regs bad hq hb => ⟨_, rfl, .engineIssue hd hq hb⟩
  intro mxe others
  simp only [mxe, others, List.forall_mem_cons, List.not_mem_nil, false_imp_iff, implies_true, and_true]
  refine ⟨fun hr => ?_, fun hr => ?_, ?_⟩
  · have misplaced := engineIssue_misplaced hd (by rwa [hs.readStrand])
    exact ⟨congrArg _ (misplaced ..), congrArg _ (misplaced ..), congrArg _ (misplaced ..), congrArg _ (misplaced ..),
      congrArg _ (misplaced ..), congrArg _ (misplaced ..)⟩
  · have hq {q : Nat} : q ≠ 0 ∨ s.readStrand.role = .computer := .inr (by rw [hs.readStrand, hr])
    exact ⟨avoid _ _ _ _ hq (mmaBad_avoids s x), avoid _ _ _ _ hq (mmaBad_avoids s x), avoid _ _ _ _ hq (accBad_avoids s y),
      avoid _ _ _ _ hq (accBad_avoids s y), avoid _ _ _ _ hq avoidsCause_none, avoid _ _ _ _ hq (sclBad_avoids s z)⟩
  · have courier : 1 + cp.cq.toNat ≠ 0 := by omega
    have copy := fun fill => moveBad_avoids s (s.myMove cp fill)
    have sfj : ∀ i, ∃ t, (Host.Outcome.next (s.engineIssue i h 6 [d] (s.sfjBad d)) : Host.Outcome State Fault Refusal) = .next t ∧
        t.avoids .enginePlacement := fun i => avoid i 6 [d] _ (.inl (by decide)) (sfjBad_avoids s d)
    exact ⟨avoid _ 5 _ _ (.inl (by decide)) (wstBad_avoids s w), avoid _ 5 _ _ (.inl (by decide)) avoidsCause_none,
      avoid _ _ _ _ (.inl courier) (copy false),
      avoid _ _ _ _ (.inl courier) ((avoidsCause.ite (avoidsCause_some (by decide) _) avoidsCause_none).orElse
        ((copy false).orElse (declBad_avoids s _))),
      avoid _ _ _ _ (.inl courier) (copy true),
      avoid _ _ _ _ (.inl courier) (chainBad_avoids _ _ fun _ => spmCheck_cause),
      sfj _, sfj _, sfj _, sfj _, sfj _, sfj _⟩

end Sys2Proof.Machine
end

-- ==== Proofs: the results of vector words (O22) ====
section
/-! PROOF. A register is its elements and back (R117), so the value in flight of a word that writes one name is what the mask selects of its
result and of the prior value (R150, R216); a completion produces it in the entry that the word reserved (R47). -/
namespace Sys2Proof.Machine

variable {s : State} {n : Nat} {st : Strand}

/-! Elements of a register. -/

theorem bits_packNat (w : Nat) (xs : List Nat) (i : Nat) : bits (packNat w xs) (w * i) w = (xs[i]?).getD 0 % 2 ^ w := by
  unfold bits
  induction xs generalizing i with
  | nil => simp [packNat]
  | cons x xs ih =>
    cases i with
    | zero => simp [packNat, Nat.add_mul_mod_self_left]
    | succ i =>
      rw [packNat, Nat.mul_succ, Nat.add_comm (w * i), pow_add, ← Nat.div_div_eq_div_mul, Nat.add_mul_div_left _ _ (by positivity),
        Nat.div_eq_of_lt (Nat.mod_lt _ (by positivity)), Nat.zero_add, ih, List.getElem?_cons_succ]

theorem packNat_lt (w : Nat) (xs : List Nat) : packNat w xs < 2 ^ (w * xs.length) := by
  induction xs with
  | nil => simp [packNat]
  | cons x xs ih =>
    have hx : x % 2 ^ w < 2 ^ w := Nat.mod_lt _ (by positivity)
    calc packNat w (x :: xs) < 2 ^ w + 2 ^ w * packNat w xs := Nat.add_lt_add_right hx _
      _ = 2 ^ w * (packNat w xs + 1) := by ring
      _ ≤ 2 ^ w * 2 ^ (w * xs.length) := Nat.mul_le_mul_left _ ih
      _ = 2 ^ (w * (xs.length + 1)) := by rw [← pow_add]; ring_nf

theorem elems_length (w : Nat) (v : Vec) : (elems w v).length = countAt w := by simp [elems, upto]

theorem elems_lt (w : Nat) (v : Vec) : ∀ x ∈ elems w v, x < 2 ^ w := by
  intro x hx
  obtain ⟨i, -, rfl⟩ := List.mem_map.mp hx
  exact Nat.mod_lt _ (by positivity)

theorem groupElems_lt (w : Nat) (vs : List Vec) : ∀ x ∈ groupElems w vs, x < 2 ^ w := by
  intro x hx
  obtain ⟨_, hl, hx⟩ := List.mem_flatten.mp hx
  obtain ⟨v, -, rfl⟩ := List.mem_map.mp hl
  exact elems_lt w v x hx

/-- A register packed from as many elements as it has, read back. -/
theorem elems_packVec {w : Nat} {xs : List Nat} (hw : w * countAt w = 4096) (hl : xs.length = countAt w)
    (hx : ∀ x ∈ xs, x < 2 ^ w) : elems w (packVec w xs) = xs := by
  have hp : packNat w xs < 2 ^ 4096 := by simpa only [hl, hw] using packNat_lt w xs
  refine List.ext_getElem (by rw [elems_length, hl]) fun i _ hi => ?_
  simp only [elems, upto, packVec, BitVec.toNat_ofNat, Nat.mod_eq_of_lt hp, List.getElem_map, List.getElem_range]
  rw [bits_packNat, List.getElem?_eq_getElem hi, Option.getD_some, Nat.mod_eq_of_lt (hx _ (List.getElem_mem hi))]

/-! The value of a result under the mask (R150, R216). -/

theorem mergeElems_length {w : Nat} {zero : Bool} {x : VIn} {r : List Nat} :
    (mergeElems w zero x r).length = min r.length (groupElems w x.prior).length := by simp [mergeElems]

theorem mergeElems_getElem? {w k : Nat} {zero : Bool} {x : VIn} {r : List Nat} (hr : k < r.length)
    (hp : k < (groupElems w x.prior).length) : (mergeElems w zero x r)[k]? =
      some (if x.en k then (r[k]?).getD 0 else if zero then 0 else ((groupElems w x.prior)[k]?).getD 0) := by
  simp [mergeElems, hr, hp]

theorem mergeElems_lt {w : Nat} {zero : Bool} {x : VIn} {r : List Nat} (hr : ∀ v ∈ r, v < 2 ^ w) :
    ∀ v ∈ mergeElems w zero x r, v < 2 ^ w := by
  intro v hv
  obtain ⟨k, hk, rfl⟩ := List.mem_mapIdx.mp hv
  have hz := List.of_mem_zip (List.getElem_mem hk)
  split
  · exact hr _ hz.1
  · split
    · positivity
    · exact groupElems_lt w _ _ hz.2

/-- The registers of an accepted element width hold whole elements. -/
theorem mul_countAt {w : Nat} (h : w ∈ [4, 8, 16, 32]) : w * countAt w = 4096 := by
  simp only [List.mem_cons, List.not_mem_nil, or_false] at h
  rcases h with rfl | rfl | rfl | rfl <;> rfl

/-- The value of a one-register result, element by element. -/
theorem elems_mergeElems {w : Nat} {zero : Bool} {x : VIn} {r : List Nat} (hw : w ∈ [4, 8, 16, 32]) (hl : r.length = countAt w)
    (hp : x.prior.length = 1) (hr : ∀ v ∈ r, v < 2 ^ w) {k : Nat} (hk : k < countAt w) :
    (elems w (packPart w 0 (mergeElems w zero x r)))[k]? =
      some (if x.en k then (r[k]?).getD 0 else if zero then 0 else ((groupElems w x.prior)[k]?).getD 0) := by
  obtain ⟨p, hp⟩ := List.length_eq_one_iff.mp hp
  have hprior : (groupElems w x.prior).length = countAt w := by simp [groupElems, hp, elems_length]
  have hm : (mergeElems w zero x r).length = countAt w := by rw [mergeElems_length, hl, hprior, Nat.min_self]
  rw [packPart, Nat.zero_mul, List.drop_zero, List.take_of_length_le hm.le, elems_packVec (mul_countAt hw) hm (mergeElems_lt hr),
    mergeElems_getElem? (hl ▸ hk) (hprior ▸ hk)]

/-! A word in flight, and its completion. -/

theorem State.strandAt_modStrand_same (h : s.strandAt n = some st) (f : Strand → Strand) :
    (s.modStrand n f).strandAt n = some (f st) := by rw [State.strandAt_modStrand, if_pos rfl, h, Option.map_some]

theorem State.launchFly_of_strand (hcur : s.cur = .strand n) (f : Fly) (hf : f.outs ≠ []) :
    s.launchFly f = s.modStrand n fun st => { st with mark := f.tok, fly := st.fly ++ [f] } := by
  simp [State.launchFly, State.modMe, hcur, hf]

theorem State.strandAt_modCore (s : State) (c m : Nat) (f : Core → Core) : (s.modCore c f).strandAt m = s.strandAt m := rfl

/-- A word that writes one name, other than a reduction, is in flight with its merged elements (R216). -/
theorem writeVec_name {w : VWord} {opc d : Nat} (hcur : s.cur = .strand n) (ht : vTarget opc w = some (d, 1)) (hd : d < 1536)
    (hopc : ¬ (0x70 ≤ opc ∧ opc ≤ 0x72)) (tok : Nat) (places : List Nat) (x : VIn) (r : List Nat) (tag : Bool) :
    let v := packPart (typeWidth w.ty.toNat) 0 (mergeElems (typeWidth w.ty.toNat) w.zero x r)
    s.writeVec w opc tok places x r tag =
      s.modStrand n fun st => { st with mark := tok, fly := st.fly ++ [⟨tok, [(d, v, tag)], [], tag, s.sigOf w⟩] } := by
  intro v
  rw [← State.launchFly_of_strand hcur _ (List.cons_ne_nil _ _), State.writeVec, ht]
  dsimp only
  rw [if_pos hd, if_neg (by simpa using hopc)]
  rfl

/-- A word in flight that writes one name and has no clause completes: its entry is produced, and it is in flight no more (R213, R216). -/
theorem vectorWordCompletion_name {i d tok : Nat} {v : Vec} {tag b : Bool} (hst : s.strandAt n = some st)
    (hf : st.fly[i]? = some ⟨tok, [(d, v, tag)], [], b, none⟩) : exec (.vectorWordCompletion n i) s =
      .next ((s.setStrand n (some ({ st with fly := st.fly.eraseIdx i }.produce d tok v tag))).modCore (coreOfStrand n) id) := by
  change execVectorWordCompletion n i s = _
  rw [execVectorWordCompletion, hst]
  dsimp only
  rw [hf]
  exact congrArg _ (if_neg (by simp [Strand.holdsFly]))

/-- The entry that a word reserved in a name of one entry holds what it produces. -/
theorem Strand.produce_vn {d tok : Nat} {v0 : Vec} {tag0 : Bool} (h : tget [] st.vn d = [⟨false, v0, tag0, tok⟩]) (v : Vec)
    (tag : Bool) (k : Nat) :
    tget [] (st.produce d tok v tag).vn k = if k = d then [⟨true, v, tag, tok⟩] else tget [] st.vn k := by
  rw [Strand.produce, tget_tmod, h]
  simp

/-- Settles O22: the word as it enters flight, then its completion. -/
theorem vectorResults : Obligations.VectorResults := by
  unfold Obligations.VectorResults
  refine ⟨fun s n st w opc tok d places x r tag hcur hst ht hd hopc => ?_, fun s n i d tok st v tag b v0 hst hf hvn => ?_⟩
  · intro wd hw hl hp hr
    rw [writeVec_name hcur ht hd hopc]
    refine ⟨_, _, State.strandAt_modStrand_same hst _, s.onlyStrand_modStrand n _, rfl, rfl,
      fun k hk => elems_mergeElems hw hl hp hr hk⟩
  · have hvn' := Strand.produce_vn (st := { st with fly := st.fly.eraseIdx i }) hvn v tag
    refine ⟨_, { st with fly := st.fly.eraseIdx i }.produce d tok v tag, vectorWordCompletion_name hst hf,
      (State.strandAt_modCore ..).trans ((State.strandAt_setStrand ..).trans (if_pos rfl)), rfl, ?_, fun k hk => ?_, rfl⟩
    · exact (hvn' d).trans (if_pos rfl)
    · exact (hvn' k).trans (if_neg hk)

end Sys2Proof.Machine
end

-- ==== Proofs: the placement of a launch block (O37) ====
section
/-! PROOF. The one waiting block of the pool is placed: its ranges are the spans of R42, read back die by die, and it takes the next launch
sequence number (R269). -/
namespace Sys2Proof.Machine

variable {s : State} {b : Nat} {x : Block}

/-! A table made of distinct keys in a list, and of those of them that pass a test. -/

theorem tget_of_not_mem {α : Type} (d : α) {t : Tab α} {n : Nat} (h : n ∉ t.map (·.1)) : tget d t n = d := by
  induction t with
  | nil => rfl
  | cons y t ih =>
    obtain ⟨k, v⟩ := y
    simp only [List.map_cons, List.mem_cons, not_or] at h
    rw [tget_cons, if_neg h.1, ih h.2]

theorem tget_of_mem {α : Type} (d : α) {t : Tab α} (hn : (t.map (·.1)).Nodup) {n : Nat} {v : α} (h : (n, v) ∈ t) :
    tget d t n = v := by
  induction t with
  | nil => cases h
  | cons y t ih =>
    obtain ⟨k, w⟩ := y
    rw [List.map_cons, List.nodup_cons] at hn
    rw [tget_cons]
    rcases List.mem_cons.mp h with e | h
    · cases e
      exact if_pos rfl
    · rw [if_neg fun e : n = k => hn.1 (List.mem_map.mpr ⟨_, h, e⟩), ih hn.2 h]

/-- Keys that stand once in a table stand once in what a test keeps of it. -/
theorem tget_filter {α : Type} (d : α) {t : Tab α} (hn : (t.map (·.1)).Nodup) {n : Nat} {v : α} (h : (n, v) ∈ t)
    (p : Nat × α → Bool) : tget d (t.filter p) n = if p (n, v) then v else d := by
  split
  · exact tget_of_mem d (hn.sublist (List.filter_sublist.map _)) (List.mem_filter.mpr ⟨h, ‹_›⟩)
  · refine tget_of_not_mem d fun hm => ?_
    obtain ⟨⟨k, w⟩, hw, rfl⟩ := List.mem_map.mp hm
    obtain ⟨hw, hp⟩ := List.mem_filter.mp hw
    rw [← tget_of_mem d hn hw, tget_of_mem d hn h] at hp
    contradiction

/-! The spans of a block over dies (R42). -/

/-- The share of each die before those without an iteration are left out. -/
def dieShares (n m : Nat) (dies : List Nat) : Tab (Nat × Nat) :=
  dies.mapIdx fun j d => (d, (j * n / dies.length * m, (j + 1) * n / dies.length * m))

theorem dieShares_keys (n m : Nat) (dies : List Nat) : (dieShares n m dies).map (·.1) = dies := by
  simp [dieShares, List.mapIdx_eq_zipIdx_map, Function.comp_def]

theorem mem_dieShares {n m : Nat} {dies : List Nat} {j d : Nat} (h : dies[j]? = some d) :
    (d, (j * n / dies.length * m, (j + 1) * n / dies.length * m)) ∈ dieShares n m dies :=
  List.mem_of_getElem? (i := j) (by simp [dieShares, List.getElem?_mapIdx, h])

theorem spansOf_dies {l : LbRec} {e : LoopEnt} {inner : List LoopEnt} (hl : l.spatial = e :: inner) (he : e.kind = 2)
    (dies : List Nat) : s.spansOf l dies = (dieShares e.count (countOf inner) dies).filter fun r => r.2.1 < r.2.2 := by
  simp only [State.spansOf, hl, he, if_true, dieShares]

/-- The span of the j-th of the dies; one without an iteration has none. -/
theorem tget_spans {n m : Nat} {dies : List Nat} (hn : dies.Nodup) {j d : Nat} (h : dies[j]? = some d) :
    let lo := j * n / dies.length * m
    let hi := (j + 1) * n / dies.length * m
    tget (0, 0) ((dieShares n m dies).filter fun r => r.2.1 < r.2.2) d = if lo < hi then (lo, hi) else (0, 0) := by
  intro lo hi
  have hk : ((dieShares n m dies).map (·.1)).Nodup := (dieShares_keys n m dies).symm ▸ hn
  simpa using tget_filter (0, 0) hk (mem_dieShares h) fun r => decide (r.2.1 < r.2.2)

/-- A die that takes no part has no span. -/
theorem tget_spans_other {n m : Nat} {dies : List Nat} {d : Nat} (h : d ∉ dies) :
    tget (0, 0) ((dieShares n m dies).filter fun r => r.2.1 < r.2.2) d = (0, 0) := by
  refine tget_of_not_mem _ fun hm => h ?_
  rw [← dieShares_keys n m dies]
  exact (List.filter_sublist.map _).subset hm

theorem maskDies_nodup (m : BitVec 8) : (maskDies m).Nodup := List.nodup_range.filter _

/-! The placement of one block. -/

theorem foldl_eq_self {α β : Type} {f : α → β → α} {a : α} {l : List β} (h : ∀ y ∈ l, f a y = a) : l.foldl f a = a := by
  induction l with
  | nil => rfl
  | cons y l ih => rw [List.foldl_cons, h y List.mem_cons_self, ih fun z hz => h z (List.mem_cons_of_mem _ hz)]

theorem joinFrame_untimed (h : s.blockAt b = some x) (ht : x.lb.timetabled = false) (t : Nat) : s.joinFrame b t = s := by
  simp [State.joinFrame, h, ht]

theorem placeOutputs_inputs (h : s.blockAt b = some x) (hd : ∀ d ∈ x.lb.decls, d.output = false) : s.placeOutputs b = s := by
  simp only [State.placeOutputs, h]
  exact foldl_eq_self fun d hm => by simp [hd d hm]

theorem emptyBlock_iterations (h : s.blockAt b = some x) (ht : x.lb.total ≠ 0) : s.emptyBlock b = s := by
  simp [State.emptyBlock, h, ht]

theorem State.blockAt_setBlock_same (s : State) (b : Nat) (x : Option Block) : (s.setBlock b x).blockAt b = x :=
  (s.blockAt_setBlock b b x).trans (if_pos rfl)

/-- A block put in place with the launch sequence number that it has taken (R269). -/
def State.putNumbered (s : State) (b : Nat) (x : Block) (n : Nat) : State :=
  (s.setBlock b (some { x with seq := some n })).modWork fun w => { w with launchSeq := n }

theorem State.blockAt_putNumbered (s : State) (b : Nat) (x : Block) (n : Nat) :
    (s.putNumbered b x n).blockAt b = some { x with seq := some n } :=
  s.blockAt_setBlock_same b (some { x with seq := some n })

/-- A block without a number takes the next one (R269). -/
theorem numberBlock_fresh (h : s.blockAt b = some x) (hs : x.seq = none) (hd : ∀ d ∈ x.lb.decls, d.output = false) :
    s.numberBlock b = s.putNumbered b x (s.work.launchSeq + 1) := by
  simp only [State.numberBlock, h, hs]
  exact placeOutputs_inputs (s.blockAt_putNumbered b x _) hd

/-- A waiting block as it stands on its dies, before it has its number. -/
def Block.spread (x : Block) (ranges : Tab (Nat × Nat)) : Block :=
  { x with ranges := ranges, untaken := ranges.map (·.1), waiting := false }

theorem placeBlock_fresh (h : s.blockAt b = some x) (hs : x.seq = none) (htt : x.lb.timetabled = false)
    (hd : ∀ d ∈ x.lb.decls, d.output = false) (ht : x.lb.total ≠ 0) (hdies : (maskDies x.lb.dieMask).filter s.dieUp ≠ []) :
    let y := x.spread (s.spansOf x.lb ((maskDies x.lb.dieMask).filter s.dieUp))
    s.placeBlock b = (s.setBlock b (some y)).putNumbered b y (s.work.launchSeq + 1) := by
  intro y
  have hy : (s.setBlock b (some y)).blockAt b = some y := State.blockAt_setBlock_same ..
  have hplaced : s.placeBlock b = (((s.setBlock b (some y)).joinFrame b (s.pt cd)).numberBlock b).emptyBlock b := by
    obtain ⟨d, ds, e⟩ := List.exists_cons_of_ne_nil hdies
    simp only [State.placeBlock, h, hs, htt, y, e, Block.spread, Bool.and_false, Bool.false_and, Bool.false_eq_true, if_false,
      Option.isSome_none]
    rfl
  rw [hplaced, joinFrame_untimed hy htt, numberBlock_fresh hy hs hd]
  exact emptyBlock_iterations (State.blockAt_putNumbered ..) ht

/-- The pool's only block, when it waits and no spill record is to be refilled, is the one that is placed (R278). -/
theorem poolService_place (hspill : s.nextSpill = none) (hp : s.work.poolBlocks = [b]) (h : s.blockAt b = some x)
    (hw : x.waiting = true) : exec .poolService s = .next (s.placeBlock b) := by
  have hrefill : s.refill = s := by
    unfold State.refill
    rw [hspill]
    exact ite_self s
  have hnext : s.nextPlace [b] = some b := by simp [State.nextPlace, h, hw]
  change execPoolService s = _
  simp only [execPoolService, hrefill, hp, hnext]

/-- Settles O37: the block that is placed, and its ranges by die. -/
theorem placement : Obligations.Placement := by
  unfold Obligations.Placement
  intro s b n x e inner hspill hp hb hw htt hs hd hl he ht hn m dies hdies
  have hrs : s.spansOf x.lb dies = (dieShares n m dies).filter fun r => r.2.1 < r.2.2 := by rw [spansOf_dies hl he, hn]; rfl
  have hnodup : dies.Nodup := (maskDies_nodup _).filter _
  refine ⟨_, _, (poolService_place hspill hp hb hw).trans (congrArg _ (placeBlock_fresh hb hs htt hd ht hdies)),
    State.blockAt_putNumbered .., rfl, rfl, rfl, fun j d hj => ?_, fun d hj => ?_, rfl, rfl⟩
  · have hspan := (congrArg (tget (0, 0) · d) hrs).trans (tget_spans hnodup hj)
    refine ⟨(congrArg (fun r : Nat × Nat => r.2 - r.1) hspan).trans ?_, fun h => hspan.trans (if_pos h)⟩
    rw [Nat.sub_mul]
    split
    · rfl
    · omega
  · exact (congrArg (tget (0, 0) · d) hrs).trans (tget_spans_other hj)

end Sys2Proof.Machine
end

-- ==== Proofs: stealing between dies (O36) ====
section
/-! PROOF. The two messages of a steal and the end of a thief's wait (R44, R277): what each leaves in the dispatchers and the blocks. -/
namespace Sys2Proof.Machine

variable {s : State} {die thief : Nat}

theorem State.dispAt_modDisp (s : State) (d e : Nat) (f : Disp → Disp) :
    (s.modDisp d f).dispAt e = if e = d then f (s.dispAt d) else s.dispAt e := tget_tset ..

theorem State.dispAt_modDisp_same (s : State) (d : Nat) (f : Disp → Disp) : (s.modDisp d f).dispAt d = f (s.dispAt d) :=
  (s.dispAt_modDisp d d f).trans (if_pos rfl)

theorem State.dispAt_modDisp_other (s : State) {d e : Nat} (h : e ≠ d) (f : Disp → Disp) :
    (s.modDisp d f).dispAt e = s.dispAt e := (s.dispAt_modDisp d e f).trans (if_neg h)

/-! The request. -/

/-- The dies after a die in the ring of eight are other dies. -/
theorem next_die_ne {i : Nat} (hi : i < 7) : (die + 1 + i) % 8 ≠ die := by omega

theorem stealRequest_ask {i : Nat} {is : List Nat} (hm : s.maySteal die = true)
    (hv : s.victims die (s.dispAt die).asked = i :: is) : exec (.stealRequest die) s =
      .next (if s.reaches die ((die + 1 + i) % 8) then
        (s.modDisp die fun d => { d with asked := i + 1, outstanding := some ((die + 1 + i) % 8) }).modDisp ((die + 1 + i) % 8)
          fun d => { d with requests := d.requests ++ [die] }
      else s) := by
  change execStealRequest die s = _
  simp only [execStealRequest, hm, hv, Bool.not_true, Bool.false_eq_true, if_false]
  cases s.reaches die ((die + 1 + i) % 8) <;> rfl

theorem stealRequest_exhausted (hm : s.maySteal die = true) (hv : s.victims die (s.dispAt die).asked = []) :
    exec (.stealRequest die) s = .next (s.modDisp die fun d => { d with asked := 0, waitUntil := s.pt die + 2048 }) := by
  change execStealRequest die s = _
  simp only [execStealRequest, hm, hv, Bool.not_true, Bool.false_eq_true, if_false]

/-! The reply. -/

/-- A reply that crosses to the thief (R333, R334). -/
theorem stealReply_crosses {rest : List Nat} (hq : (s.dispAt die).requests = thief :: rest) (hr : s.reaches die thief = true) :
    let s1 := s.modDisp die fun d => { d with requests := rest }
    exec (.stealReply die) s = .next (if s.coresOf thief = [] then s1.modDisp thief fun d => { d with outstanding := none, asked := 0 }
      else match s1.shareBlock die thief with
        | some (b, x) => s1.splitRange die thief b x
        | none => s1.refuse thief) := by
  intro s1
  change execStealReply die s = _
  simp only [execStealReply, hq, hr, Bool.not_true, Bool.false_eq_true, if_false]
  rfl

theorem stealReply_held {rest : List Nat} (hq : (s.dispAt die).requests = thief :: rest) (hr : s.reaches die thief = false) :
    exec (.stealReply die) s = .next s := by
  change execStealReply die s = _
  simp only [execStealReply, hq, hr, Bool.not_false, if_true]

/-- What a refusal leaves: the thief asks no one, and nothing else of the package but its dispatcher changes. -/
theorem refuse_frame (s : State) (thief : Nat) :
    ((s.refuse thief).dispAt thief).outstanding = none ∧ (s.refuse thief).work.blocks = s.work.blocks ∧
      (s.refuse thief).mem = s.mem := by
  unfold State.refuse
  dsimp only
  split
  · rw [State.dispAt_modDisp_same, State.dispAt_modDisp_same]
    exact ⟨rfl, rfl, rfl⟩
  · rw [State.dispAt_modDisp_same]
    exact ⟨rfl, rfl, rfl⟩

/-- The range of a die after a split: the victim keeps the first half, rounded up, and the thief takes the rest (R44). -/
theorem tget_split {t : Tab (Nat × Nat)} (h : thief ≠ die) (a b : Nat × Nat) :
    tget (0, 0) (tset (0, 0) (tset (0, 0) t die a) thief b) die = a ∧
    tget (0, 0) (tset (0, 0) (tset (0, 0) t die a) thief b) thief = b ∧
    ∀ d, d ≠ die → d ≠ thief → tget (0, 0) (tset (0, 0) (tset (0, 0) t die a) thief b) d = tget (0, 0) t d :=
  ⟨by rw [tget_tset_other _ _ _ h.symm, tget_tset_same], tget_tset_same ..,
    fun d hd ht => by rw [tget_tset_other _ _ _ ht, tget_tset_other _ _ _ hd]⟩

/-- The thief's dispatcher after a split: it asks no one, and the block has a slot. -/
theorem splitRange_thief (s : State) (die thief b : Nat) (x : Block) :
    ((s.splitRange die thief b x).dispAt thief).outstanding = none ∧ b ∈ ((s.splitRange die thief b x).dispAt thief).slots := by
  rw [State.splitRange, State.dispAt_modDisp_same]
  refine ⟨rfl, ?_⟩
  dsimp only
  split
  · exact List.contains_iff_mem.mp ‹_›
  · exact List.mem_append_right _ List.mem_cons_self

/-- The block of a split, with the victim's half and the thief's. -/
def Block.split (x : Block) (die thief : Nat) : Block :=
  let r := tget (0, 0) x.ranges die
  let mid := r.1 + (r.2 - r.1 + 1) / 2
  { x with ranges := tset (0, 0) (tset (0, 0) x.ranges die (r.1, mid)) thief (mid, r.2) }

theorem splitRange_blockAt (s : State) (die thief b : Nat) (x : Block) (m : Nat) :
    (s.splitRange die thief b x).blockAt m = if m = b then some (x.split die thief) else s.blockAt m :=
  s.blockAt_setBlock b m (some (x.split die thief))

/-- A split leaves the block with the two halves, and every other block. -/
theorem splitRange_blocks (s : State) {die thief : Nat} (b : Nat) (x : Block) (h : thief ≠ die) :
    let r := tget (0, 0) x.ranges die
    let mid := r.1 + (r.2 - r.1 + 1) / 2
    (∃ y, (s.splitRange die thief b x).blockAt b = some y ∧ { y with ranges := x.ranges } = x ∧
      tget (0, 0) y.ranges die = (r.1, mid) ∧ tget (0, 0) y.ranges thief = (mid, r.2) ∧
      ∀ d, d ≠ die → d ≠ thief → tget (0, 0) y.ranges d = tget (0, 0) x.ranges d) ∧
    ∀ m, m ≠ b → (s.splitRange die thief b x).blockAt m = s.blockAt m := by
  intro r mid
  exact ⟨⟨x.split die thief, (splitRange_blockAt ..).trans (if_pos rfl), rfl, tget_split h _ _⟩,
    fun m hm => (splitRange_blockAt ..).trans (if_neg hm)⟩

/-! The end of a thief's wait. -/

theorem stealBackoffExpiry_eq (s : State) (die : Nat) : exec (.stealBackoffExpiry die) s =
    .next (if (s.dispAt die).waitUntil ≠ 0 ∧ (s.dispAt die).waitUntil ≤ s.pt die then s.modDisp die fun d => { d with waitUntil := 0 }
      else s) := by
  change execStealBackoffExpiry die s = _
  simp only [execStealBackoffExpiry, Bool.and_eq_true, decide_eq_true_eq]

/-- Settles O36: the request, the reply by what the victim has to share, and the end of the wait. -/
theorem stealing : Obligations.Stealing := by
  unfold Obligations.Stealing
  refine fun s die => ⟨fun i is hm hv hi => ?_, fun hm hv => ?_, fun thief rest hq hr => stealReply_held hq hr,
    fun thief rest hq hr hc => ?_, fun thief rest hq hne hr hc => ?_, fun h0 hpt => ?_, fun hpt => ?_⟩
  · intro v
    have hask := stealRequest_ask hm hv
    have hne : v ≠ die := next_die_ne hi
    refine ⟨fun hr => ⟨_, hask.trans (congrArg _ (if_pos hr)), ?_, ?_, rfl, rfl⟩,
      fun hr => hask.trans (congrArg _ (if_neg (ne_true_of_eq_false hr)))⟩
    · rw [State.dispAt_modDisp_other _ hne.symm, State.dispAt_modDisp_same]
    · rw [State.dispAt_modDisp_same, State.dispAt_modDisp_other _ hne]
  · exact ⟨_, stealRequest_exhausted hm hv, State.dispAt_modDisp_same .., rfl, rfl⟩
  · refine ⟨_, (stealReply_crosses hq hr).trans (congrArg _ (if_pos hc)), ?_, ?_, ?_, rfl, rfl⟩
    all_goals rw [State.dispAt_modDisp_same]
    rw [State.dispAt_modDisp]
    split <;> simp [*]
  · intro s1
    have hreply := (stealReply_crosses hq hr).trans (congrArg _ (if_neg hc))
    refine ⟨fun b x hb => ?_, fun hb => ?_⟩
    · intro r
      obtain ⟨⟨y, hy, hkeep, hranges⟩, hother⟩ := splitRange_blocks s1 b x hne
      obtain ⟨hout, hslot⟩ := splitRange_thief s1 die thief b x
      obtain ⟨hdie, hthief, hrest⟩ := hranges
      exact ⟨s1.splitRange die thief b x, y, hreply.trans (by rw [hb]), hy, hkeep, hdie, hthief, hrest, hslot, hout, hother, rfl⟩
    · obtain ⟨hout, hblocks, hmem⟩ := refuse_frame s1 thief
      exact ⟨s1.refuse thief, hreply.trans (by rw [hb]), hout, hblocks, hmem⟩
  · exact ⟨_, (stealBackoffExpiry_eq s die).trans (congrArg _ (if_pos ⟨h0, hpt⟩)), State.dispAt_modDisp_same ..,
      fun d hd => State.dispAt_modDisp_other s hd _, rfl⟩
  · exact (stealBackoffExpiry_eq s die).trans (congrArg _ (if_neg (by omega)))

end Sys2Proof.Machine
end

-- ==== Proofs: tasks that complete (O34) ====
section
/-! PROOF. A task that completes (R32, R272): what one predecessor less makes of a task, what the fall of the counts of a list of successors
makes of each, and what none of it touches. -/
namespace Sys2Proof.Machine

variable {s u : State} {g t i j : Nat} {x y : Task}

/-! Tasks read back. -/

theorem State.taskAt_congr (h : u.work.graphs = s.work.graphs) (g j : Nat) : u.taskAt g j = s.taskAt g j := by
  simp only [State.taskAt, State.graphAt, h]

theorem State.taskAt_modTask (s : State) (g t j : Nat) (f : Task → Task) :
    (s.modTask g t f).taskAt g j = if j = t then (s.taskAt g t).map f else s.taskAt g j := by
  unfold State.modTask State.modGraph State.taskAt
  cases h : s.graphAt g with
  | none =>
    simp only [h]
    split <;> rfl
  | some y =>
    simp only [h, State.graphAt_setGraph, if_true, List.getElem?_mapIdx]
    split
    · next e => simp only [e]
    · simp only [Option.map_id']

theorem State.taskAt_modTask_same (h : s.taskAt g t = some x) (f : Task → Task) : (s.modTask g t f).taskAt g t = some (f x) := by
  rw [State.taskAt_modTask, if_pos rfl, h, Option.map_some]

/-! What changes of tasks and of the lists of ready tasks leave. -/

/-- Two states with the same package time, cores and memory. -/
structure State.SameRest (s u : State) : Prop where
  time : u.time = s.time
  cores : u.cores = s.cores
  mem : u.mem = s.mem

theorem State.SameRest.trans {a b c : State} (h : a.SameRest b) (h' : b.SameRest c) : a.SameRest c :=
  ⟨h'.time.trans h.time, h'.cores.trans h.cores, h'.mem.trans h.mem⟩

theorem State.SameRest.foldl {α : Type} {f : State → α → State} (hf : ∀ (s : State) a, s.SameRest (f s a)) (l : List α)
    (s : State) : s.SameRest (l.foldl f s) := by
  induction l generalizing s with
  | nil => exact ⟨rfl, rfl, rfl⟩
  | cons a l ih => exact (hf s a).trans (ih (f s a))

theorem modWork_sameRest (s : State) (f : WorkState → WorkState) : s.SameRest (s.modWork f) := ⟨rfl, rfl, rfl⟩

theorem modTask_sameRest (s : State) (g t : Nat) (f : Task → Task) : s.SameRest (s.modTask g t f) :=
  ⟨State.modGraph_time .., State.modGraph_cores .., State.modGraph_mem ..⟩

theorem refillReady_frame (s : State) : s.SameRest s.refillReady ∧ s.refillReady.work.graphs = s.work.graphs := by
  unfold State.refillReady
  split
  · split <;> exact ⟨⟨rfl, rfl, rfl⟩, rfl⟩
  · exact ⟨⟨rfl, rfl, rfl⟩, rfl⟩

theorem unlist_frame (s : State) (g t : Nat) : s.SameRest (s.unlist g t) ∧ (s.unlist g t).work.graphs = s.work.graphs :=
  have ⟨h, h'⟩ := refillReady_frame (s.modWork fun w => { w with
    readyList := w.readyList.filter (· ≠ (g, t)), readyWait := w.readyWait.filter (· ≠ (g, t)) })
  ⟨(modWork_sameRest ..).trans h, h'⟩

theorem leaveQ_frame (s : State) (g t : Nat) : s.SameRest (s.leaveQ g t) ∧ (s.leaveQ g t).work.graphs = s.work.graphs := by
  unfold State.leaveQ
  split
  · split <;> exact ⟨⟨rfl, rfl, rfl⟩, rfl⟩
  · exact ⟨⟨rfl, rfl, rfl⟩, rfl⟩

/-! One predecessor less (R32). -/

/-- A task that becomes ready: a malformed one counts at once as run (R33). -/
def Task.readied (x : Task) : Task := if x.info.bad then { x with st := .running, overlayDone := true } else { x with st := .ready }

/-- A task of which one predecessor more has completed. -/
def Task.counted (x : Task) : Task :=
  if x.st = .waiting then
    let y := { x with left := x.left - 1 }
    if x.left = 1 then y.readied else y
  else x

theorem makeReady_sameRest (s : State) (g t : Nat) : s.SameRest (s.makeReady g t) := by
  unfold State.makeReady
  split
  · exact ⟨rfl, rfl, rfl⟩
  · split
    · exact modTask_sameRest ..
    · dsimp only
      split <;> exact (modTask_sameRest ..).trans (modWork_sameRest ..)

theorem taskAt_makeReady (s : State) (g t j : Nat) :
    (s.makeReady g t).taskAt g j = if j = t then (s.taskAt g t).map Task.readied else s.taskAt g j := by
  cases h : s.taskAt g t with
  | none =>
    simp only [State.makeReady, h, Option.map_none]
    split
    · next e => rw [e, h]
    · rfl
  | some x =>
    simp only [State.makeReady, h, Option.map_some, Task.readied]
    split
    · rw [State.taskAt_modTask, h, Option.map_some]
    · split <;> exact (State.taskAt_modTask s g t j _).trans (by rw [h, Option.map_some])

theorem decrement_sameRest (s : State) (g t : Nat) : s.SameRest (s.decrement g t) := by
  unfold State.decrement
  split
  · split
    · dsimp only
      split
      · exact (modTask_sameRest ..).trans (makeReady_sameRest ..)
      · exact modTask_sameRest ..
    · exact ⟨rfl, rfl, rfl⟩
  · exact ⟨rfl, rfl, rfl⟩

theorem taskAt_decrement (s : State) (g i j : Nat) :
    (s.decrement g i).taskAt g j = if j = i then (s.taskAt g i).map Task.counted else s.taskAt g j := by
  cases h : s.taskAt g i with
  | none =>
    simp only [State.decrement, h, Option.map_none]
    split
    · next e => rw [e, h]
    · rfl
  | some x =>
    simp only [State.decrement, h, Option.map_some, Task.counted]
    split
    · split
      · rw [taskAt_makeReady, State.taskAt_modTask_same h, State.taskAt_modTask, Option.map_some]
        split <;> rfl
      · rw [State.taskAt_modTask, h, Option.map_some]
    · split
      · next e => rw [e, h]
      · rfl

/-! The counts of a list of successors. -/

theorem counted_of_ne_waiting (h : x.st ≠ .waiting) : x.counted = x := if_neg h

theorem taskAt_decrements {l : List Nat} (hl : l.Nodup) (s : State) (g j : Nat) :
    (l.foldl (fun s i => s.decrement g i) s).taskAt g j = if j ∈ l then (s.taskAt g j).map Task.counted else s.taskAt g j := by
  induction l generalizing s with
  | nil => rfl
  | cons i l ih =>
    obtain ⟨hi, hl⟩ := List.nodup_cons.mp hl
    rw [List.foldl_cons, ih hl, taskAt_decrement]
    by_cases hj : j = i
    · subst hj
      simp [hi]
    · simp [hj]

/-- A task that does not wait is left as it is, however often it is named. -/
theorem taskAt_decrements_of_ne_waiting (l : List Nat) (h : s.taskAt g j = some x) (hx : x.st ≠ .waiting) :
    (l.foldl (fun s i => s.decrement g i) s).taskAt g j = some x := by
  induction l generalizing s with
  | nil => exact h
  | cons i l ih =>
    refine ih ?_
    rw [taskAt_decrement]
    split
    · next e => rw [← e, h, Option.map_some, counted_of_ne_waiting hx]
    · exact h

theorem sortNat_perm (l : List Nat) : (sortNat l).Perm l := by
  induction l with
  | nil => exact .refl _
  | cons x l ih =>
    have split : (sortNat l).filter (x ≤ ·) = (sortNat l).filter fun y => !decide (y < x) :=
      List.filter_congr fun y _ => by simp only [← decide_not, not_lt]
    rw [sortNat, split]
    exact List.perm_middle.trans ((List.filter_append_perm _ _).trans ih |>.cons x)

/-! A task that completes (R32, R272). -/

/-- A task that is done. -/
def Task.finished (x : Task) : Task := { x with st := .done, parked := false }

/-- A running task completes: it is done and in no list, and its successors' counts fall. -/
theorem taskDone_running (h : s.taskAt g t = some x) (hx : x.st = .running) :
    s.taskDone g t = (sortNat x.info.succs).foldl (fun s i => s.decrement g i)
      (((s.leaveQ g t).modTask g t Task.finished).unlist g t) := by
  simp only [State.taskDone, h, hx]
  rfl

theorem taskDone_sameRest (h : s.taskAt g t = some x) (hx : x.st = .running) : s.SameRest (s.taskDone g t) := by
  rw [taskDone_running h hx]
  exact (((leaveQ_frame s g t).1.trans (modTask_sameRest ..)).trans (unlist_frame _ g t).1).trans
    (.foldl (fun s i => decrement_sameRest s g i) _ _)

/-- A task of the graph before its successors' counts fall. -/
theorem taskAt_finished (s : State) (g t j : Nat) : (((s.leaveQ g t).modTask g t Task.finished).unlist g t).taskAt g j =
    if j = t then (s.taskAt g t).map Task.finished else s.taskAt g j := by
  rw [State.taskAt_congr (unlist_frame _ g t).2, State.taskAt_modTask, State.taskAt_congr (leaveQ_frame s g t).2,
    State.taskAt_congr (leaveQ_frame s g t).2]

theorem taskAt_taskDone_same (h : s.taskAt g t = some x) (hx : x.st = .running) :
    (s.taskDone g t).taskAt g t = some x.finished := by
  rw [taskDone_running h hx]
  refine taskAt_decrements_of_ne_waiting _ ?_ (nofun : x.finished.st ≠ .waiting)
  rw [taskAt_finished, if_pos rfl, h, Option.map_some]

theorem taskAt_taskDone_other (h : s.taskAt g t = some x) (hx : x.st = .running) (hn : x.info.succs.Nodup) (hj : j ≠ t) :
    (s.taskDone g t).taskAt g j = if j ∈ x.info.succs then (s.taskAt g j).map Task.counted else s.taskAt g j := by
  have hp := sortNat_perm x.info.succs
  rw [taskDone_running h hx, taskAt_decrements (hp.nodup_iff.mpr hn), taskAt_finished, if_neg hj]
  exact if_congr hp.mem_iff rfl rfl

/-- The record of a miss (R272). -/
theorem missTask_frame (s : State) (g t : Nat) :
    (s.missTask g t).time.log =
      s.time.log ++ (if s.taskDeadline g t < s.pt 9 then [.missTask g t (s.pt 9 - s.taskDeadline g t)] else []) ∧
    (s.missTask g t).work = s.work ∧ (s.missTask g t).cores = s.cores ∧ (s.missTask g t).mem = s.mem := by
  unfold State.missTask
  dsimp only [cd]
  split
  · exact ⟨by rw [State.modCtx_time]; rfl, State.modCtx_work .., State.modCtx_cores .., State.modCtx_mem ..⟩
  · exact ⟨(List.append_nil _).symm, rfl, rfl, rfl⟩

/-- A running task whose overlay and launch blocks have ended completes. -/
theorem taskComplete_done (h : s.taskAt g t = some x) (hx : x.st = .running) (ho : x.overlayDone = true)
    (hb : s.taskBusy g t = false) : exec (.taskComplete g t) s = .next ((s.missTask g t).taskDone g t) := by
  change execTaskComplete g t s = _
  simp only [execTaskComplete, h, hx, ho, hb]
  rfl

/-- What a completion leaves: the task, the other tasks of its graph by their place among its successors, and the record of a miss. -/
theorem taskComplete_leaves (h : s.taskAt g t = some x) (hx : x.st = .running) (ho : x.overlayDone = true)
    (hb : s.taskBusy g t = false) :
    ∃ u, exec (.taskComplete g t) s = .next u ∧ u.taskAt g t = some { x with st := .done, parked := false } ∧
      (∀ j y, j ≠ t → s.taskAt g j = some y → x.info.succs.Nodup →
        (j ∉ x.info.succs → u.taskAt g j = some y) ∧
        (j ∈ x.info.succs → y.st = .waiting → 2 ≤ y.left → u.taskAt g j = some { y with left := y.left - 1 }) ∧
        (j ∈ x.info.succs → y.st = .waiting → y.left = 1 → y.info.bad = false →
          u.taskAt g j = some { y with left := 0, st := .ready })) ∧
      u.time.log = s.time.log ++ (if s.taskDeadline g t < s.pt 9 then [.missTask g t (s.pt 9 - s.taskDeadline g t)] else []) ∧
      u.cores = s.cores ∧ u.mem = s.mem := by
  obtain ⟨hlog, hwork, hcores, hmem⟩ := missTask_frame s g t
  have htasks := State.taskAt_congr (congrArg WorkState.graphs hwork) g
  have h' : (s.missTask g t).taskAt g t = some x := (htasks t).trans h
  obtain ⟨htime', hcores', hmem'⟩ := taskDone_sameRest h' hx
  refine ⟨_, taskComplete_done h hx ho hb, taskAt_taskDone_same h' hx, fun j y hj hy hn => ?_, htime' ▸ hlog,
    hcores'.trans hcores, hmem'.trans hmem⟩
  have hother := taskAt_taskDone_other h' hx hn hj
  rw [htasks j, hy] at hother
  refine ⟨fun hm => hother.trans (if_neg hm), fun hm hw hl => ?_, fun hm hw hl hbad => ?_⟩
  · rw [hother, if_pos hm, Option.map_some, Task.counted, if_pos hw, if_neg (by omega)]
  · rw [hother, if_pos hm, Option.map_some, Task.counted, if_pos hw, if_pos hl]
    simp only [Task.readied, hbad, hl, Nat.sub_self, Bool.false_eq_true, if_false]

end Sys2Proof.Machine
end

-- ==== Proofs: graphs and tile tasks that end (O34) ====
section
/-! PROOF. The end of a graph, with its end word (R269), and the end of a tile task with all it holds (R45, R239, R298). -/
namespace Sys2Proof.Machine

variable {s : State}

/-! Graphs. -/

section
variable {g : Nat} {y : Graph} {abnormal : Bool} {pt : Nat}

theorem State.setGraph_frame (s : State) (g : Nat) (y : Option Graph) :
    (s.setGraph g y).graphAt g = y ∧ ∀ h, h ≠ g → (s.setGraph g y).graphAt h = s.graphAt h :=
  ⟨(s.graphAt_setGraph g g y).trans (if_pos rfl), fun h hh => (s.graphAt_setGraph g h y).trans (if_neg hh)⟩

/-- A graph that has ended, or whose tasks are all done, ends now (R269). -/
theorem graphComplete_end (h : s.graphAt g = some y)
    (he : y.ended = some (abnormal, pt) ∨
      abnormal = false ∧ pt = s.pt 9 ∧ y.ended = none ∧ y.tasks ≠ [] ∧ ∀ t ∈ y.tasks, t.st = .done) :
    exec (.graphComplete g) s = .next (s.endGraph g abnormal pt) := by
  change execGraphComplete g s = _
  rcases he with he | ⟨rfl, rfl, he, hne, hdone⟩
  · simp only [execGraphComplete, h, he]
  · have hall : (y.tasks.all fun t => decide (t.st = .done)) = true :=
      List.all_eq_true.mpr fun t ht => decide_eq_true (hdone t ht)
    simp only [execGraphComplete, h, he, hall, ne_eq, hne, not_false_eq_true, decide_true, Bool.and_self, if_true]
    rfl

/-- A graph that has ended and cannot write its end word notes its end. -/
theorem endGraph_noted (h : s.graphAt g = some y) (ha : y.doneAddr ≠ 0)
    (hw : s.graphDrains g = true ∨ s.cdHeld y.ctx y.doneAddr 8 .write = true) :
    s.endGraph g abnormal pt = s.setGraph g (some { y with ended := some (abnormal, pt) }) := by
  have note : (s.modGraph g fun x => { x with ended := some (abnormal, pt) }) =
      s.setGraph g (some { y with ended := some (abnormal, pt) }) := by simp only [State.modGraph, h]
  simp only [State.endGraph, h, if_neg ha, note]
  split
  · rfl
  · exact if_pos (hw.resolve_left ‹_›)

/-- A graph without an end word leaves. -/
theorem endGraph_silent (h : s.graphAt g = some y) (ha : y.doneAddr = 0) : s.endGraph g abnormal pt = s.setGraph g none := by
  simp only [State.endGraph, h, if_pos ha]

/-- A graph whose end word can be written leaves. -/
theorem endGraph_written {ps : List Part} {s1 : State} (h : s.graphAt g = some y) (ha : y.doneAddr ≠ 0)
    (hd : s.graphDrains g = false) (hh : s.cdHeld y.ctx y.doneAddr 8 .write = false)
    (hacc : s.access none y.ctx y.doneAddr 8 .write false = .ok ps s1) (hb : ∀ p ∈ ps, s1.mem.bounces p.pa = false) :
    s.endGraph g abnormal pt = ((s1.writeParts y.ctx (leBytes 8 (pt + if abnormal then 2 ^ 63 else 0)) false ps).endFrameWait
      (.graph g)).setGraph g none := by
  have free : (ps.any fun p => s1.mem.bounces p.pa) = false := List.any_eq_false.mpr fun p hp => ne_true_of_eq_false (hb p hp)
  simp only [State.endGraph, h, if_neg ha, hd, hh, hacc, free, Bool.false_eq_true, if_false]

end

/-! Tile tasks. -/

section
variable {tt : Nat} {t : TileTask}

/-- Partitions that are left hold no strand; the other strands stand as before, and of the cores only what the partitions' spill
memory keeps changes (R17). -/
theorem leavePartitions_frame (l : List Nat) (s : State) :
    let u := l.foldl (fun s n => s.leavePartition n) s
    (∀ n, u.strandAt n = if n ∈ l then none else s.strandAt n) ∧ u.work = s.work ∧ u.ctxs = s.ctxs ∧ u.mem = s.mem := by
  induction l generalizing s with
  | nil => exact ⟨fun n => rfl, rfl, rfl, rfl⟩
  | cons m l ih =>
    have one : (∀ n, (s.leavePartition m).strandAt n = if n = m then none else s.strandAt n) ∧
        (s.leavePartition m).work = s.work ∧ (s.leavePartition m).ctxs = s.ctxs ∧ (s.leavePartition m).mem = s.mem := by
      unfold State.leavePartition
      split
      · refine ⟨fun n => ?_, rfl, rfl, rfl⟩
        split
        · next e => rw [e]; assumption
        · rfl
      · exact ⟨fun n => s.strandAt_setStrand m n none, rfl, rfl, rfl⟩
    obtain ⟨hs, hw, hc, hm⟩ := ih (s.leavePartition m)
    obtain ⟨hs', hw', hc', hm'⟩ := one
    refine ⟨fun n => ?_, hw.trans hw', hc.trans hc', hm.trans hm'⟩
    rw [List.foldl_cons, hs, hs']
    by_cases hn : n = m <;> simp [hn]

theorem freeWindows_frame (s : State) (tt : Nat) (t : TileTask) :
    let u := s.freeWindows tt t
    (∀ n, u.strandAt n = if n ∈ t.strands then none else s.strandAt n) ∧ u.ttAt tt = none ∧
      (u.coreAt t.core).mxeOwner ≠ some tt ∧ u.work.blocks = s.work.blocks ∧ u.ctxs = s.ctxs ∧ u.mem = s.mem := by
  obtain ⟨hs, hw, hc, hm⟩ := leavePartitions_frame t.strands s
  refine ⟨hs, (State.ttAt_setTt ..).trans (if_pos rfl), ?_, (congrArg WorkState.blocks hw :), hc, hm⟩
  unfold State.freeWindows
  rw [show ∀ (a : State) x, (a.setTt tt x).coreAt t.core = a.coreAt t.core from fun _ _ => rfl, State.coreAt_modCore, if_pos rfl]
  dsimp only
  split
  · nofun
  · assumption

/-- An iteration that is not its block's last counts as ended (R45). -/
theorem iterationDone_notLast {n : Nat} {b : Block} (h : s.blockAt n = some b) (hl : b.done + 1 < b.lb.total) :
    s.iterationDone n = s.setBlock n (some { b with done := b.done + 1 }) := by
  simp only [State.iterationDone, h, if_neg hl.ne]

theorem reapCtx_living {n : Nat} {c : Ctx} (h : s.ctxAt n = some c) (hk : c.killing = false) : s.reapCtx n = s := by
  simp only [State.reapCtx, h, hk, Bool.false_and, Bool.false_eq_true, if_false]

/-- No strand of a list names a successor. -/
theorem successors_nil {l : List Nat} (h : ∀ n ∈ l, ∀ st, s.strandAt n = some st → st.successors = []) :
    (l.map fun n => ((s.strandAt n).map (·.successors)).getD []).flatten = [] := by
  rw [List.flatten_eq_nil_iff]
  intro _ hm
  obtain ⟨n, hn, rfl⟩ := List.mem_map.mp hm
  cases e : s.strandAt n with
  | none => rfl
  | some st => exact h n hn st e

/-- The windows of a tile task freed and its reservation released. -/
def State.windowsFreed (s : State) (tt : Nat) (t : TileTask) : State :=
  (s.freeWindows tt t).modCtx t.ctx fun c => { c with heapUsed := c.heapUsed - t.reserved }

/-- A tile task that did not fail and names no successor, in a context that lives, ends with one iteration more that has ended. -/
theorem tileTaskEnd_counts {c : Ctx} {b : Block} (ht : s.ttAt tt = some t) (ho : s.ttOver tt t = true) (hf : t.failing = false)
    (hc : s.ctxAt t.ctx = some c) (hk : c.killing = false) (hb : s.blockAt t.block = some b) (hl : b.done + 1 < b.lb.total)
    (hs : ∀ n ∈ t.strands, ∀ st, s.strandAt n = some st → st.successors = []) :
    exec (.tileTaskEnd tt) s = .next ((s.windowsFreed tt t).setBlock t.block (some { b with done := b.done + 1 })) ∧
      (s.windowsFreed tt t).ctxAt t.ctx = some { c with heapUsed := c.heapUsed - t.reserved } := by
  obtain ⟨-, -, -, hblocks, hctxs, -⟩ := freeWindows_frame s tt t
  have hc' : (s.freeWindows tt t).ctxAt t.ctx = some c := (congrArg (tget none · t.ctx) hctxs).trans hc
  have hctx : (s.windowsFreed tt t).ctxAt t.ctx = some { c with heapUsed := c.heapUsed - t.reserved } := by
    rw [State.windowsFreed, State.modCtx, hc']
    exact (State.ctxAt_setCtx ..).trans (if_pos rfl)
  have hblock : (s.windowsFreed tt t).blockAt t.block = some b := by
    rw [State.blockAt, State.windowsFreed, State.modCtx_work, hblocks]
    exact hb
  refine ⟨?_, hctx⟩
  change execTileTaskEnd tt s = _
  simp only [execTileTaskEnd, ht, ho, if_true, State.endTt, successors_nil hs, hf, Bool.false_and, Bool.false_eq_true, if_false]
  rw [← State.windowsFreed, hblock]
  simp only [List.foldl_nil]
  rw [iterationDone_notLast hblock hl]
  exact congrArg _ (reapCtx_living (c := { c with heapUsed := c.heapUsed - t.reserved }) hctx hk)

end

/-- Settles O34: tasks, then graphs, then tile tasks. -/
theorem completion : Obligations.Completion := by
  unfold Obligations.Completion
  refine ⟨fun s g t x h hx ho hb => taskComplete_leaves h hx ho hb, fun s g y abnormal pt h he => ?_,
    fun s tt t c b ht ho hf hc hk hb hl hs => ?_⟩
  · have hend := graphComplete_end h he
    refine ⟨fun ha => ?_, fun ha hw => ?_, fun ps s1 ha hd hh hacc hbn => ?_⟩
    · obtain ⟨hg, hrest⟩ := s.setGraph_frame g none
      exact ⟨_, hend.trans (congrArg _ (endGraph_silent h ha)), hg, hrest, rfl⟩
    · obtain ⟨hg, hrest⟩ := s.setGraph_frame g (some { y with ended := some (abnormal, pt) })
      exact ⟨_, hend.trans (congrArg _ (endGraph_noted h ha hw)), hg, hrest, rfl⟩
    · exact ⟨_, hend.trans (congrArg _ (endGraph_written h ha hd hh hacc hbn)), (State.setGraph_frame ..).1, rfl⟩
  · obtain ⟨hexec, hctx⟩ := tileTaskEnd_counts ht ho hf hc hk hb hl hs
    obtain ⟨hstrands, htt, hmxe, -, -, hmem⟩ := freeWindows_frame s tt t
    have hstrands' : ∀ n, (s.windowsFreed tt t).strandAt n = (s.freeWindows tt t).strandAt n :=
      fun n => congrArg (tget none · n) (State.modCtx_strands ..)
    refine ⟨_, hexec, ?_, fun n hn => ?_, ?_, hctx, State.blockAt_setBlock_same .., fun n hn => ?_, ?_⟩
    · exact (congrArg (fun w : WorkState => tget none w.tts tt) (State.modCtx_work ..)).trans htt
    · exact (hstrands' n).trans ((hstrands n).trans (if_pos hn))
    · exact fun e => hmxe ((congrArg (fun l => (tget Core.init l t.core).mxeOwner) (State.modCtx_cores ..)).symm.trans e)
    · exact (hstrands' n).trans ((hstrands n).trans (if_neg hn))
    · exact (State.modCtx_mem ..).trans hmem

end Sys2Proof.Machine
end

-- ==== Proofs: what a fetch leaves as it was (O55) ====
section
/-! PROOF. A fetch, and the copies and accessed bits that a squashed path leaves (R49, R136, R292), change memory, caches, contexts and
strands: the work that the package schedules, time, power, the ports, the modules, and the scratchpads, engine queues and semaphores of
the cores stay. A lemma `State.SameUnits.f` says so of `State.f`. -/
namespace Sys2Proof.Machine

/-- Two states with the same work, time, power, ports and modules, and the same scratchpads, engine queues and semaphores. -/
structure State.SameUnits (s u : State) : Prop where
  work : u.work = s.work
  time : u.time = s.time
  energy : u.energy = s.energy
  host : u.host = s.host
  links : u.links = s.links
  core : ∀ m, (u.coreAt m).spm = (s.coreAt m).spm ∧ (u.coreAt m).queues = (s.coreAt m).queues ∧ (u.coreAt m).sync = (s.coreAt m).sync

/-- The state that an access leaves, whatever it answers, has a property. -/
def Res.Leaves {α : Type} (P : State → Prop) : Res α → Prop
  | .ok _ s => P s
  | .trap _ _ s => P s
  | .wait s => P s

theorem Res.Leaves.ok {α : Type} {P : State → Prop} {r : Res α} (h : r.Leaves P) {a : α} {s : State} (e : r = .ok a s) : P s := by
  subst e; exact h

theorem Res.Leaves.trap {α : Type} {P : State → Prop} {r : Res α} (h : r.Leaves P) {c : Cause} {x : Rec} {s : State}
    (e : r = .trap c x s) : P s := by
  subst e; exact h

theorem Res.Leaves.wait {α : Type} {P : State → Prop} {r : Res α} (h : r.Leaves P) {s : State} (e : r = .wait s) : P s := by
  subst e; exact h

theorem Res.Leaves.ite {α : Type} {P : State → Prop} {p : Prop} [Decidable p] {a b : Res α} (ha : a.Leaves P) (hb : b.Leaves P) :
    (if p then a else b).Leaves P := by
  split
  · exact ha
  · exact hb

section
variable {b s : State}

theorem State.SameUnits.refl (s : State) : s.SameUnits s := ⟨rfl, rfl, rfl, rfl, rfl, fun _ => ⟨rfl, rfl, rfl⟩⟩

theorem State.SameUnits.ite {p : Prop} [Decidable p] {u v : State} (hu : b.SameUnits u) (hv : b.SameUnits v) :
    b.SameUnits (if p then u else v) := by
  split
  · exact hu
  · exact hv

theorem State.SameUnits.foldl {α : Type} {f : State → α → State} {l : List α} (h : b.SameUnits s)
    (hf : ∀ s x, b.SameUnits s → b.SameUnits (f s x)) : b.SameUnits (l.foldl f s) := by
  induction l generalizing s with
  | nil => exact h
  | cons x l ih => exact ih (hf s x h)

theorem State.SameUnits.modMem (h : b.SameUnits s) (f : MemState → MemState) : b.SameUnits (s.modMem f) :=
  ⟨h.work, h.time, h.energy, h.host, h.links, h.core⟩

theorem State.SameUnits.setCtx {n x} (h : b.SameUnits s) : b.SameUnits (s.setCtx n x) :=
  ⟨h.work, h.time, h.energy, h.host, h.links, h.core⟩

theorem State.SameUnits.modStrand {n f} (h : b.SameUnits s) : b.SameUnits (s.modStrand n f) := by
  unfold State.modStrand
  split
  · exact ⟨h.work, h.time, h.energy, h.host, h.links, h.core⟩
  · exact h

theorem State.SameUnits.noteWalk {ctx at_} (h : b.SameUnits s) : b.SameUnits (s.noteWalk ctx at_) :=
  ⟨h.work, h.time, h.energy, h.host, h.links, h.core⟩

/-- A core changed beside its scratchpad, its engine queues and its semaphores. -/
theorem State.SameUnits.modCore {c : Nat} {f : Core → Core} (h : b.SameUnits s)
    (hf : ∀ x, (f x).spm = x.spm ∧ (f x).queues = x.queues ∧ (f x).sync = x.sync) : b.SameUnits (s.modCore c f) := by
  refine ⟨h.work, h.time, h.energy, h.host, h.links, fun m => ?_⟩
  rw [State.coreAt_modCore]
  split
  · next e =>
    obtain ⟨hspm, hqueues, hsync⟩ := hf (s.coreAt c)
    obtain ⟨hspm', hqueues', hsync'⟩ := e ▸ h.core m
    subst e
    exact ⟨hspm.trans hspm', hqueues.trans hqueues', hsync.trans hsync'⟩
  · exact h.core m

theorem State.SameUnits.touchL2 {ctx pa dirty} (h : b.SameUnits s) : b.SameUnits (s.touchL2 ctx pa dirty) := by
  obtain ⟨w, c, r, e⟩ := touchL2_frame s ctx pa dirty
  exact e ▸ h.modMem _

theorem State.SameUnits.dropL1 {core line} (h : b.SameUnits s) : b.SameUnits (s.dropL1 core line) :=
  h.modCore fun _ => ⟨rfl, rfl, rfl⟩

theorem State.SameUnits.dropRdc {die line} (h : b.SameUnits s) : b.SameUnits (s.dropRdc die line) := h.modMem _

theorem State.SameUnits.dropCopies {core line} (h : b.SameUnits s) : b.SameUnits (s.dropCopies core line) := h.dropL1.dropRdc

theorem State.SameUnits.fireMonitor {n op d} (h : b.SameUnits s) : b.SameUnits (s.fireMonitor n op d) := by
  unfold State.fireMonitor
  split
  · exact h.modStrand.dropCopies
  · exact h

theorem State.SameUnits.wake {pa n} (h : b.SameUnits s) : b.SameUnits (s.wake pa n) := by
  refine h.foldl fun u x hu => ?_
  split
  · split
    · split
      · exact .ite hu.fireMonitor hu
      · exact hu
    · exact hu
  · exact hu

theorem State.SameUnits.homeWrite {ctx pa bs tag} (h : b.SameUnits s) : b.SameUnits (s.homeWrite ctx pa bs tag) :=
  (h.modMem fun m => m.write pa bs tag).touchL2.wake

theorem State.SameUnits.homeWrite8 {ctx pa v} (h : b.SameUnits s) : b.SameUnits (s.homeWrite8 ctx pa v) := h.homeWrite

theorem State.SameUnits.zeroFrame {pa n} (h : b.SameUnits s) : b.SameUnits (s.zeroFrame pa n) := by
  obtain ⟨w, c, r, e⟩ := touchSpan_frame s pa n
  rw [State.zeroFrame, e]
  exact (h.modMem _).modMem _

/-! Translation and fetch. -/

theorem State.SameUnits.commit {ctx lvl at_ e} (h : b.SameUnits s) : (s.commit ctx lvl at_ e).Leaves b.SameUnits := by
  unfold State.commit
  split
  · exact h
  · refine .ite h ?_
    dsimp only
    split
    · exact h
    · exact (h.zeroFrame.modMem _).homeWrite8.setCtx

theorem State.SameUnits.touchWalk {ctx va root} (h : b.SameUnits s) : b.SameUnits (s.touchWalk ctx va root) :=
  h.foldl fun _ _ h => h.touchL2

theorem State.SameUnits.tlbAdd {k ctx page} (h : b.SameUnits s) : b.SameUnits (s.modCore k fun x => x.tlbAdd ctx page) :=
  h.modCore fun _ => ⟨rfl, rfl, rfl⟩

theorem State.SameUnits.translate {core ctx ptr need fresh} (h : b.SameUnits s) :
    (s.translate core ctx ptr need fresh).Leaves b.SameUnits := by
  unfold State.translate
  extract_lets p va hit
  refine .ite h ?_
  split
  · exact h
  extract_lets root u
  refine .ite h ?_
  split
  · exact .ite h h
  refine .ite h ?_
  have hu : b.SameUnits u := h.touchWalk
  split
  · exact hu
  refine .ite hu (.ite hu ?_)
  extract_lets r
  have hr : r.Leaves b.SameUnits := .ite hu.commit hu
  clear_value r
  split
  · exact hr
  · exact hr
  next e v =>
    have hv : b.SameUnits v := hr
    cases core with
    | none => exact State.SameUnits.ite hv hv.homeWrite8.noteWalk
    | some k => exact State.SameUnits.tlbAdd (.ite hv hv.homeWrite8.noteWalk)

theorem State.SameUnits.translateAll {core ctx ptr need fresh l} (h : b.SameUnits s) :
    (s.translateAll core ctx ptr need fresh l).Leaves b.SameUnits := by
  induction l generalizing s with
  | nil => exact h
  | cons x xs ih =>
    unfold State.translateAll
    dsimp only
    split
    next e => exact h.translate.trap e
    next e => exact h.translate.wait e
    next e =>
      have h' := h.translate.ok e
      refine .ite h' ?_
      split
      next e' => exact (ih h').trap e'
      next e' => exact (ih h').wait e'
      next e' => exact (ih h').ok e'

theorem State.SameUnits.access {core ctx ptr n need fresh} (h : b.SameUnits s) :
    (s.access core ctx ptr n need fresh).Leaves b.SameUnits := by
  unfold State.access
  refine .ite (h.modMem _) ?_
  split
  next e => exact h.translateAll.trap e
  next e => exact h.translateAll.wait e
  next e =>
    split
    · exact h.translateAll.ok e
    · exact h.translateAll.ok e

theorem State.SameUnits.fillI {k line pick c} (h : b.SameUnits s) : b.SameUnits (s.modCore k fun x => x.fillI line pick c) :=
  h.modCore fun _ => ⟨rfl, rfl, rfl⟩

theorem State.SameUnits.ifetchPart {core ctx p} (h : b.SameUnits s) : b.SameUnits (s.ifetchPart core ctx p).2 := by
  unfold State.ifetchPart
  dsimp only
  split
  · exact h
  · exact h.touchL2.fillI

theorem State.SameUnits.ifetchParts {core ctx ps} (h : b.SameUnits s) : b.SameUnits (s.ifetchParts core ctx ps).2 := by
  induction ps generalizing s with
  | nil => exact h
  | cons p ps ih => exact ih h.ifetchPart

theorem State.SameUnits.fetchUnits {core ctx pc units} (h : b.SameUnits s) : (s.fetchUnits core ctx pc units).Leaves b.SameUnits := by
  unfold State.fetchUnits
  split
  next e => exact h.access.trap e
  next e => exact h.access.wait e
  next e => exact State.SameUnits.ifetchParts (h.access.ok e)

theorem State.SameUnits.fetchWord {core ctx pc} (h : b.SameUnits s) : (s.fetchWord core ctx pc).Leaves b.SameUnits := by
  unfold State.fetchWord
  split
  next e => exact h.fetchUnits.trap e
  next e => exact h.fetchUnits.wait e
  next e => exact .ite (h.fetchUnits.ok e) (State.SameUnits.fetchUnits (h.fetchUnits.ok e))

theorem State.SameUnits.find {n a i len u} (h : b.SameUnits s) (e : s.find n a = .word i len u) : b.SameUnits u := by
  unfold State.find at e
  dsimp only at e
  split at e
  · cases e
  split at e
  · cases e
  split at e
  next => cases e
  next => cases e
  next hw =>
    split at e
    · cases e
    · split at e
      next =>
        cases e
        exact h.fetchWord.ok hw
      next => cases e

/-! A squashed path (R49). -/

theorem State.SameUnits.setAccessed {ws} (h : b.SameUnits s) : b.SameUnits (s.setAccessed ws) :=
  h.foldl fun _ _ h => .ite h.homeWrite8 h

theorem State.SameUnits.keepFills {t core} (h : b.SameUnits s) : b.SameUnits (s.keepFills t core) :=
  ((h.modCore (c := core) (f := fun c => { c with l1 := (t.coreAt core).l1, icache := (t.coreAt core).icache, tlb := (t.coreAt core).tlb })
    fun _ => ⟨rfl, rfl, rfl⟩).modMem _).setAccessed

theorem State.SameUnits.stray {n a k} (h : b.SameUnits s) : b.SameUnits (s.stray n a k) := by
  unfold State.stray
  split
  · exact h
  · refine .ite h ?_
    split
    next e => exact .ite (h.find e).keepFills h
    · exact h

end

end Sys2Proof.Machine
end

-- ==== Proofs: what a step runs (O55) ====
section
/-! PROOF. A step as the turn of a strand, of a conductor core, of an event or of a squashed path (R135, R136, R155-R159, R324): how a turn
is taken, the word that a strand finds and what each verdict of it makes of the turn, and the slots of a conductor word. -/
namespace Sys2Proof.Machine

variable {s t : State} {n : Nat} {st : Strand}

/-! The turn. -/

/-- With power, or in a turn of the power itself, the turn is taken (R324). -/
theorem step_of_canStep (h : s.canStep) : step s = s.beginTurn.take s.turn.act := by
  refine if_neg fun hb => ?_
  simp only [Bool.and_eq_true, Bool.not_eq_true'] at hb
  exact h.elim (fun hp => by simp [hp] at hb) fun ha => by simp [ha] at hb

theorem step_powerOff (hp : s.energy.powered = false) (ha : s.turn.act.offPower = false) : step s = .fault .powerOff :=
  if_pos (by rw [hp, ha]; rfl)

/-- The acts that need no power are those of the power itself (R324). -/
theorem offPower_false {a : Act} (hf : ∀ f c, a ≠ .event (.feedLoss f c)) (ho : a ≠ .event .powerOn) : a.offPower = false := by
  unfold Act.offPower
  split
  · exact absurd rfl ho
  · exact absurd rfl (hf _ _)
  · rfl

/-! The word of a strand. -/

/-- What a strand finds where no home is held and the fetch answers (R135, R136). -/
theorem find_word {b s1 : State} {us : List W32} {a : W64} (hst : b.strandAt n = some st) (hctl : st.ctlFetch = false)
    (held4 : b.walkHeld (dieOfCore (coreOfStrand n)) (some (coreOfStrand n)) (b.ctxOfStrand n) a 4 = false)
    (held : b.walkHeld (dieOfCore (coreOfStrand n)) (some (coreOfStrand n)) (b.ctxOfStrand n) a (4 * us.length) = false)
    (hfetch : b.fetchHeld (coreOfStrand n) (b.ctxOfStrand n) a us.length = false)
    (hus : b.fetchWord (coreOfStrand n) (b.ctxOfStrand n) a = .ok us s1) (hst1 : s1.strandAt n = some st) :
    b.find n a = .word (st.inLoops a us) (4 * us.length) s1 := by
  simp only [State.find, held4, hst, hctl, hus, held, hfetch, hst1, Option.any_some, Bool.or_self, Bool.false_eq_true, if_false]

/-- A strand that runs, with nothing that stops it, issues the group that begins with the word it finds. -/
theorem stepStrand_issues {b s1 : State} {i : Instr} {len : Nat} (hst : b.strandAt n = some st) (hended : st.ended = false)
    (hstop : st.stop = none) (hacq : ∀ y, b.ttAt st.tt = some y → y.acquiring = []) (hdue : b.stopDue n st = none)
    (hpc : b.pcStop n st = none) (hfind : b.find n st.pc = .word i len s1) : b.stepStrand n = s1.issueGroup n st i len := by
  have idle : ((b.ttAt st.tt).map (·.acquiring)).any (fun l => decide (l ≠ [])) = false := by
    cases e : b.ttAt st.tt with
    | none => rfl
    | some y => simp [hacq y e]
  simp only [State.stepStrand, hst, hended, hstop, idle, hdue, hpc, hfind, Option.isSome_none, Bool.or_self, Bool.false_eq_true,
    if_false]

/-- The first word of a group acts with the strand as it stands. -/
theorem enterGroup_acts (h : s.strandAt n = some st) (x : Slot) : State.acts { s.enterGroup n with slot := x } n st := by
  have hme : State.me { s with cur := .strand n, view := none } = st := by
    simp only [State.me]
    exact congrArg (·.getD Strand.init) h
  refine ⟨rfl, h, .inr ?_⟩
  change some (View.mk (State.me { s with cur := .strand n, view := none }) _ _ _ _) = _
  rw [hme]
  rfl

section
variable {i : Instr} {len : Nat} (he : exec i { s.enterGroup n with slot := ⟨st.pc, len, true⟩ } = .next t)
include he

theorem runAt_enterGroup : (s.enterGroup n).runAt st.pc len i = t := by
  simp only [State.runAt, State.after, he]

theorem issueGroup_ended (hv : t.verdict = .ended) : s.issueGroup n st i len = t.leaveGroup := by
  simp only [State.issueGroup, State.try_, runAt_enterGroup he, hv]

theorem issueGroup_waits {w : Option (Nat × Nat)} (hv : t.verdict = .waits w) :
    s.issueGroup n st i len = t.blocked n (w.orElse fun _ => (s.enterGroup n).otherSem n st i len) := by
  simp only [State.issueGroup, State.try_, runAt_enterGroup he, hv]

theorem issueGroup_trapped {c : Cause} {r : Rec} (hv : t.verdict = .trapped c r) : s.issueGroup n st i len =
    { s.enterGroup n with mem := t.mem, ctxs := t.ctxs }.groupTrap t n c r st.handler st.pc st.pc len := by
  simp only [State.issueGroup, State.try_, runAt_enterGroup he, hv]

/-- A word that transfers, that ends its group or that joins no word after it issues alone (R158). -/
theorem issueGroup_alone {x : Option W64} (hv : t.verdict = .issued x) (hhead : engineHead i = none)
    (hx : x ≠ none ∨ barred i = true ∨ ∀ j l t2, t.find n (st.pc + BitVec.ofNat 64 len) = .word j l t2 →
      joins st (((s.ttAt st.tt).map (·.vnames)).getD 0) st.pc i j = false) :
    s.issueGroup n st i len = t.leaveGroup.finishGroup n st.handler st.pc len x := by
  simp only [State.issueGroup, State.try_, runAt_enterGroup he, hv, hhead]
  split
  · rfl
  next hb =>
    obtain ⟨hnone, hbar⟩ : x = none ∧ barred i = false := by simpa using hb
    split
    next e =>
      have hj := (hx.resolve_left (not_not.mpr hnone)).resolve_left (ne_true_of_eq_false hbar) _ _ _ e
      exact if_neg (ne_true_of_eq_false hj)
    · rfl

end

/-! After a group (R178, R182). -/

/-- A strand whose levels have nothing left to start is not sent back to a body as it goes on. -/
theorem resumed_pc (h : ∀ y ∈ st.loops, y.2.left = 0) : st.resumed.pc = st.pc := by
  have none_left : (st.loops.find? fun x => !x.2.active && x.2.left ≠ 0) = none :=
    List.find?_eq_none.mpr fun y hy => by simp [h y hy]
  simp only [Strand.resumed, none_left]

/-- What a group leaves of a strand with no request to stop it: one group more, at the target, or at the next word where no level is
active or has iterations left to start. -/
theorem finishGroup_leaves (hst : s.strandAt n = some st) (hended : st.ended = false)
    (hreq : ((s.ttAt st.tt).bind (·.request)).isNone = true) (handler : Bool) (last : W64) (len : Nat) (x : Option W64) :
    ∃ st', s.finishGroup n handler last len x = s.setStrand n (some st') ∧ st'.g = st.g ∧ st'.vn = st.vn ∧
      st'.groups = st.groups + 1 ∧ (∀ a, x = some a → st'.pc = a) ∧
      (x = none → handler = true ∨ (activeLevels st.loops = [] ∧ ∀ y ∈ st.loops, y.2.left = 0) →
        st'.pc = last + BitVec.ofNat 64 len) := by
  have asked : ((s.ttAt st.tt).bind (·.request)).isSome = false := Option.isSome_eq_false_iff.mpr hreq
  simp only [State.finishGroup, hst, hended, Bool.false_eq_true, if_false]
  cases x with
  | some a => exact ⟨_, rfl, rfl, rfl, rfl, fun _ e => Option.some.inj e, nofun⟩
  | none =>
    cases handler with
    | true => exact ⟨_, rfl, rfl, rfl, rfl, nofun, fun _ _ => rfl⟩
    | false =>
      simp only [asked, Bool.false_eq_true, if_false]
      split
      · refine ⟨_, rfl, rfl, rfl, rfl, nofun, fun _ h => ?_⟩
        obtain ⟨hl, -⟩ := h.resolve_left nofun
        simp only [hl, endTests, Option.getD_none]
      · refine ⟨_, rfl, rfl, rfl, rfl, nofun, fun _ h => ?_⟩
        obtain ⟨hl, hleft⟩ := h.resolve_left nofun
        simp only [hl, endTests, Option.getD_none]
        exact resumed_pc hleft

/-! The slots of a conductor word (R155-R157). -/

/-- Slots that each issue, one after another, are the word performed; `issues` takes one slot. -/
theorem runSlots_issued {issues : Option (State × Option W64) → Instr → Option (State × Option W64)}
    (hnone : ∀ i, issues none i = none)
    (hsome : ∀ y i v z, issues (some y) i = some (v, z) →
      ∃ x, exec i y.1 = .next v ∧ v.verdict = .issued x ∧ z = x.orElse fun _ => y.2)
    (l : List Instr) {e : State} {y : Option W64} {u : State} {x : Option W64} (h : l.foldl issues (some (e, y)) = some (u, x)) :
    e.runSlots y l = .done u x := by
  induction l generalizing e y with
  | nil => cases h; rfl
  | cons i l ih =>
    rw [List.foldl_cons] at h
    cases hi : issues (some (e, y)) i with
    | none =>
      rw [hi, foldl_eq_self fun i _ => hnone i] at h
      cases h
    | some v =>
      obtain ⟨v, z⟩ := v
      obtain ⟨t', hexec, hv, rfl⟩ := hsome _ _ _ _ hi
      rw [hi] at h
      simp only [State.runSlots, State.after, hexec, hv]
      exact ih h

/-- A conductor core whose word lies in its overlay and whose slots all issue. -/
theorem stepConductor_done {b u : State} {k g j : Nat} {l : List Instr} {x : Option W64} (hc : (b.condAt k).task = some (g, j))
    (hswap : (b.condAt k).swapping = false) (hstop : (b.condAt k).stopped = false) (hin : b.inOverlay g j (b.condAt k).pc = true)
    (hl : slotsOf (b.fetchSlots (b.condAt k).pc.toNat) = .ok l)
    (hrun : (b.enterWord k (b.condAt k).pc).runSlots none l = .done u x) :
    b.stepConductor k = { u with view := none }.finishWord k (b.condAt k).run (b.condAt k).pc x := by
  simp only [State.stepConductor, hc, hswap, hstop, hin, hl, hrun, Bool.or_self, Bool.not_true, Bool.false_eq_true, if_false]

/-- Settles O55: the turn of a strand by the verdict of its word, then the other turns. -/
theorem stepRuns : Obligations.StepRuns := by
  unfold Obligations.StepRuns
  refine ⟨fun s s1 n st us i hp ha => ?_, fun s => ⟨fun i hp ha => ?_, fun n a k hp ha => ?_, fun hp hf ho => ?_, fun f c ha => ?_,
    fun ha => ?_, fun k g t l hp ha => ?_⟩⟩
  · intro b core held hst hended hstop hctl hacq hdue hpc held4 held' hfetch hus hst1 hdec hi len e
    have hfind : b.find n st.pc = .word i len s1 := hi ▸ find_word hst hctl held4 held' hfetch hus hst1
    have hstep : step s = .next (s1.issueGroup n st i len) := by
      rw [step_of_canStep (.inl hp), ha]
      exact congrArg _ (stepStrand_issues hst hended hstop hacq hdue hpc hfind)
    refine ⟨enterGroup_acts hst1 _, rfl, fun t he => ⟨fun hv => ?_, fun w hv => ?_, fun c r hv => ?_, fun hhead x hv hx => ?_⟩⟩
    · exact hstep.trans (congrArg _ (issueGroup_ended he hv))
    · exact hstep.trans (congrArg _ (issueGroup_waits he hv))
    · exact hstep.trans (congrArg _ (issueGroup_trapped he hv))
    · refine ⟨hstep.trans (congrArg _ (issueGroup_alone he hv hhead hx)), fun st' hst' hended' hreq htts htt => ?_⟩
      have hreq' : ((t.leaveGroup.ttAt st'.tt).bind (·.request)).isNone = true := by
        have htask : t.leaveGroup.ttAt st.tt = s1.ttAt st.tt := congrArg (tget none · st.tt) htts
        rw [htt, htask]
        exact hreq
      obtain ⟨st2, hfin, hleaves⟩ := finishGroup_leaves (s := t.leaveGroup) hst' hended' hreq' st.handler st.pc len x
      rw [hfin]
      exact ⟨rfl, st2, (State.strandAt_setStrand ..).trans (if_pos rfl), hleaves⟩
  · rw [step_of_canStep (.inl hp), ha]
    rfl
  · intro b
    have same : b.SameUnits (b.stray n a k) := (State.SameUnits.refl b).stray
    exact ⟨_, by rw [step_of_canStep (.inl hp), ha]; rfl, same.work, same.time, same.energy, same.host, same.links, same.core⟩
  · exact step_powerOff hp (offPower_false hf ho)
  · rw [step_of_canStep (.inr (by rw [ha]; rfl)), ha]
    rfl
  · rw [step_of_canStep (.inr (by rw [ha]; rfl)), ha]
    rfl
  · intro b c hc hswap hstop hin hl e issues
    refine ⟨⟨rfl, .inr rfl⟩, rfl, fun u x hu => ?_⟩
    have hrun : e.runSlots none l = .done u x := by
      refine runSlots_issued (issues := issues) (fun _ => rfl) (fun y i v z h => ?_) l hu
      simp only [issues, Option.bind_some] at h
      split at h
      next hexec =>
        split at h
        next hv => cases h; exact ⟨_, hexec, hv, rfl⟩
        next => cases h
      next => cases h
    rw [step_of_canStep (.inl hp), ha]
    exact congrArg _ (stepConductor_done hc hswap hstop hin hl hrun)

end Sys2Proof.Machine
end

-- ==== Proofs: power-on (O60) and package time (O38) ====
section
/-! PROOF. What the package holds at power-on, and the steps that discipline package time (R54-R56, R74, R345). -/
namespace Sys2Proof.Machine

/-- Settles O60: each value as `State.reset` has it. -/
theorem resetState : Obligations.ResetState := by
  unfold Obligations.ResetState
  exact ⟨reset_inv, rfl, rfl, rfl, rfl, fun _ => rfl, rfl, rfl, rfl, fun _ => rfl, rfl, rfl, rfl, rfl, rfl, fun _ => rfl, rfl, rfl, rfl,
    rfl, rfl, rfl, rfl, rfl, rfl, rfl, rfl, fun _ => ⟨rfl, rfl, rfl, rfl⟩, fun _ => ⟨rfl, rfl, rfl, rfl⟩, fun _ => rfl⟩

/-- A table after the keys of a list have been given the values of a function. -/
theorem tget_foldl_tset {α : Type} [DecidableEq α] (z : α) (f : Nat → α) (l : List Nat) (t : Tab α) (d : Nat) :
    tget z (l.foldl (fun p k => tset z p k (f k)) t) d = if d ∈ l then f d else tget z t d := by
  induction l generalizing t with
  | nil => simp
  | cons k l ih =>
    rw [List.foldl_cons, ih, tget_tset]
    by_cases hk : d = k <;> simp [hk]

variable {s : State} {die domain facility : Nat} {ppm off : Int}

/-! Exchanges and holdover (R54, R55). -/

/-- A die that exchanges takes the rate within 200 ppm and notes the time, and leaves holdover when it is near the least PT. -/
theorem ptExchange_next (hd : die ≤ 8) (hb : s.time.base % 16384 = 0) (hx : s.exchanges die = true) :
    exec (.ptExchange die ppm off) s = .next (s.modTime fun t => { t with
      rate := tset 0 t.rate die (max (-200) (min 200 ppm))
      exchanged := tset 0 t.exchanged die (s.pt 9)
      hold :=
        if off.natAbs ≤ 3 ∧ s.time.base ≤ s.pt die ∧ s.pt die ≤ s.time.base + 3 then tset false t.hold die false else t.hold }) := by
  have hin : (decide (8 < die) || decide (s.time.base % 16384 ≠ 0) || !s.exchanges die) = false := by
    simp only [hb, hx, ne_eq, not_true_eq_false, decide_false, Bool.not_true, Bool.or_false, decide_eq_false_iff_not]
    omega
  change execPtExchange die ppm off s = _
  simp only [execPtExchange, hin, Bool.false_eq_true, if_false, Bool.and_eq_true, decide_eq_true_eq, and_assoc]
  rfl

/-- A die enters holdover when its last exchange lies more than 100 ms back. -/
theorem ptHoldover_next : exec (.ptHoldover die) s = .next
    (if die < 9 ∧ tget 0 s.time.exchanged die + 100000000 < s.pt 9 then s.modTime fun t => { t with hold := tset false t.hold die true }
      else s) := by
  change execPtHoldover die s = _
  simp only [execPtHoldover, Bool.and_eq_true, decide_eq_true_eq]
  rfl

/-! The grandmaster, and the step of PT (R56, R74, R345). -/

theorem ptpMessage_other (h : domain ≠ s.host.cfg.domain) : exec (.ptpMessage ⟨domain, facility⟩) s = .next s :=
  congrArg Host.Outcome.next (if_pos h)

theorem ptpMessage_own (h : domain = s.host.cfg.domain) : exec (.ptpMessage ⟨domain, facility⟩) s =
    .next ((s.modTime fun t => { t with sawLock := true }).noteOffset ((s.pt 9 : Int) - facility)) :=
  congrArg Host.Outcome.next (if_neg (not_not.mpr h))

theorem ptStep_again (h : s.time.stepped = true) : exec (.ptStep facility) s = .next s := by
  change execPtStep facility s = _
  simp only [execPtStep, h, Bool.true_or, if_true]

/-- Package time set forward: no die falls, and none stays below the new least PT. -/
theorem ptStep_next (hst : s.time.stepped = false) (hl : s.time.sawLock = true) (hc : ∀ x ∈ s.ctxs, x.2 = none) :
    exec (.ptStep facility) s = .next (
      let base := max s.time.base facility
      let u := s.modTime fun t => { t with
        stepped := true
        base := base
        pt := (upto 10).foldl (fun p d => tset 0 p d (max (tget 0 t.pt d) base)) t.pt
        origin := some base, frameOn := false, frameno := 0, framestart := 0, lastMember := 0, overran := false }
      u.noteOffset ((u.pt cd : Int) - facility)) := by
  have hno : s.noCtx = true := List.all_eq_true.mpr fun x hx => Option.isNone_iff_eq_none.mpr (hc x hx)
  change execPtStep facility s = _
  simp only [execPtStep, hst, hl, hno, Bool.not_true, Bool.or_self, Bool.false_eq_true, if_false]

theorem lockWaitExpiry_next (hst : s.time.stepped = false) (hl : s.time.sawLock = false) (hw : s.time.waitOver = false)
    (ht : Config.lockWait ≤ s.pt 9) : exec .lockWaitExpiry s = .next (s.modTime fun t => { t with
      waitOver := true, hold := tset false t.hold cd true, origin := some Config.lockWait }) := by
  have hpt : decide (s.pt cd < Config.lockWait) = false := decide_eq_false (Nat.not_lt.mpr ht)
  change execLockWaitExpiry s = _
  simp only [execLockWaitExpiry, hst, hl, hw, hpt, Bool.or_self, Bool.false_eq_true, if_false]

end Sys2Proof.Machine
end

-- ==== Proofs: the statement about package time (O38) ====
section
namespace Sys2Proof.Machine

/-- Settles O38: exchanges and holdover of a die, messages of the grandmaster, the step of PT, the end of the wait. -/
theorem packageClock : Obligations.PackageClock := by
  unfold Obligations.PackageClock
  refine fun s die domain facility ppm off => ⟨fun hd hb hlinks => ?_, fun hd ht => ?_, fun ht => ?_, ptpMessage_other, fun h => ?_,
    fun hst hl hc => ?_, ptStep_again, fun hst hl hw ht => ?_⟩
  · have hx : s.exchanges die = true := (Bool.or_eq_true ..).mpr hlinks
    refine ⟨_, ptExchange_next hd hb hx, tget_tset_same .., tget_tset_same .., fun hn => ?_, fun hn => if_neg hn,
      fun d hne => tget_tset_other _ _ _ hne, rfl, rfl, rfl⟩
    exact (congrArg (tget false · die) (if_pos hn)).trans (tget_tset_same ..)
  · exact ⟨_, ptHoldover_next.trans (congrArg _ (if_pos ⟨hd, ht⟩)), (tget_tset false s.time.hold die · true), rfl, rfl⟩
  · exact ptHoldover_next.trans (congrArg _ (if_neg fun h => Nat.not_lt.mpr ht h.2))
  · exact ⟨_, ptpMessage_own h, rfl, rfl, decide_eq_true_iff, rfl, rfl⟩
  · refine ⟨_, ptStep_next hst hl hc, rfl, rfl, fun d hd => ?_, rfl, rfl, rfl, rfl⟩
    exact (tget_foldl_tset 0 (fun d => max (s.pt d) (max s.time.base facility)) (upto 10) s.time.pt d).trans
      (if_pos (List.mem_range.mpr hd))
  · exact ⟨_, lockWaitExpiry_next hst hl hw ht, rfl, tget_tset_same false s.time.hold 9 true, rfl⟩

end Sys2Proof.Machine
end

-- ==== Proofs: frontiers and frames (O39) ====
section
/-! PROOF. Frontiers on their way between dies and the slips of their lag (R64, R65, R68, R333), and the frames of the timetable: where one
starts, and what it releases (R74-R76, R279). -/
namespace Sys2Proof.Machine

variable {s : State} {die src dst v : Nat} {rest : List (Nat × Nat × Nat)}

/-! Frontiers (R64, R65, R68, R333). -/

/-- The messages that a die sends: one to every other die that its modules reach. -/
def State.frontierMsgs (s : State) (die : Nat) : List (Nat × Nat × Nat) :=
  ((upto 10).filter fun d => d ≠ die && (s.route die d).all s.linkUp).map fun d => (die, d, s.frontier die)

theorem frontierSample_next (hd : die ≤ 9) (ht : s.pt die % 64 = 0) :
    exec (.frontierSample die) s = .next (s.modTime fun t => { t with msgs := t.msgs ++ s.frontierMsgs die }) := by
  have hdie : decide (cd < die) = false := decide_eq_false (Nat.not_lt.mpr hd)
  have hin : (decide (cd < die) || decide (s.pt die % 64 ≠ 0)) = false := by
    simp only [hdie, ht, ne_eq, not_true_eq_false, decide_false, Bool.or_self]
  change execFrontierSample die s = _
  simp only [execFrontierSample, hin, Bool.false_eq_true, if_false]
  rfl

theorem mem_frontierMsgs {m : Nat × Nat × Nat} : m ∈ s.frontierMsgs die ↔
    m.1 = die ∧ m.2.1 < 10 ∧ m.2.1 ≠ die ∧ (∀ l ∈ s.route die m.2.1, s.linkUp l = true) ∧ m.2.2 = s.frontier die := by
  obtain ⟨a, b, c⟩ := m
  simp only [State.frontierMsgs, upto, List.mem_map, List.mem_filter, List.mem_range, Bool.and_eq_true, decide_eq_true_eq,
    List.all_eq_true, Prod.mk.injEq]
  constructor
  · rintro ⟨d, ⟨hd, hne, hup⟩, rfl, rfl, rfl⟩
    exact ⟨rfl, hd, hne, hup, rfl⟩
  · rintro ⟨rfl, hd, hne, hup, rfl⟩
    exact ⟨b, ⟨hd, hne, hup⟩, rfl, rfl, rfl⟩

/-- A message taken from those on their way is held by its receiver, unless it is lost or a module on its way carries no traffic. -/
theorem frontierMessage_next (lost : Bool) (h : takeMsg src dst s.time.msgs = some (v, rest)) :
    exec (.frontierMessage src dst lost) s = .next (s.modTime fun t => { t with
      msgs := rest, held := if lost || !s.reaches src dst then t.held else tset 0 t.held (16 * dst + src) v }).settleSlips := by
  change execFrontierMessage src dst lost s = _
  simp only [execFrontierMessage, h]

theorem frontierSlip_next (hd : die ≤ 8) (hw : s.nbWaits die = true) (hl : s.time.slipth < s.pt die - s.gf die)
    (hs : tget false s.time.slipped die = false) : exec (.frontierSlip die) s = .next (s.modTime fun t => { t with
      fslip := tmod 0 t.fslip die fun n => min (n + 1) (2 ^ 32 - 1)
      slipped := tset false t.slipped die true
      log := t.log ++ [.slip die (s.pt die) (s.pt die - s.gf die)] }) := by
  have hlag : decide (s.lag die ≤ s.time.slipth) = false := decide_eq_false (Nat.not_le.mpr hl)
  have hdie : decide (8 < die) = false := decide_eq_false (Nat.not_lt.mpr hd)
  change execFrontierSlip die s = _
  simp only [execFrontierSlip, hdie, hw, hlag, hs, Bool.not_true, Bool.or_self, Bool.false_eq_true, if_false]
  rfl

/-- A slip that stands is not counted again (R68). -/
theorem frontierSlip_stands (hs : tget false s.time.slipped die = true) : exec (.frontierSlip die) s = .next s := by
  change execFrontierSlip die s = _
  simp only [execFrontierSlip, hs, Bool.or_true, if_true]

/-! Frames (R74, R76). -/

/-- A frame without members. -/
theorem members_eq_nil {n : Nat} : s.members n = [] ↔ ∀ x ∈ s.work.blocks, ∀ b, x.2 = some b → b.frame ≠ some n := by
  simp only [State.members, List.filterMap_eq_nil_iff]
  refine forall₂_congr fun x _ => ?_
  cases x.2 <;> simp

/-- The first frame starts at its origin rounded up, once that has come (R74). -/
theorem frameStart_first {o : Nat} (hon : s.time.frameOn = false) (ho : s.time.origin = some o) :
    exec .frameStart s = .next (if roundUp o s.time.framelen ≤ s.pt 9 then s.modTime (·.enter 0 (roundUp o s.time.framelen)) else s) := by
  change execFrameStart s = _
  simp only [execFrameStart, hon, ho, Bool.not_false, if_true]
  rfl

/-- The next frame does not start before its time, nor while the current one has members. -/
theorem frameStart_waits (hon : s.time.frameOn = true)
    (h : s.pt 9 < max (s.time.framestart + s.time.curLen) s.time.lastMember ∨ s.members s.time.frameno ≠ []) :
    exec .frameStart s = .next s := by
  change execFrameStart s = _
  simp only [execFrameStart, hon, Bool.not_true, Bool.false_eq_true, if_false]
  exact congrArg _ (if_pos ((Bool.or_eq_true ..).mpr (h.imp decide_eq_true decide_eq_true)))

/-- The next frame starts once the length of the current one has passed and its members have completed; a later start is a slip. -/
theorem frameStart_next {start : Nat} (hon : s.time.frameOn = true) (hm : s.members s.time.frameno = [])
    (hstart : max (s.time.framestart + s.time.curLen) s.time.lastMember = start) (hpt : start ≤ s.pt 9) :
    exec .frameStart s = .next (
      let slip := start - (s.time.framestart + s.time.curLen)
      let u := s.modTime (·.enter (s.time.frameno + 1) start)
      if slip = 0 then u
      else u.modTime fun x => { x with
        tslipCount := min (x.tslipCount + 1) (2 ^ 32 - 1)
        tslipLast := min slip (2 ^ 32 - 1)
        log := x.log ++ [.frameSlip s.time.frameno slip] }) := by
  have hgo : (decide (s.pt cd < start) || decide (s.members s.time.frameno ≠ [])) = false := by
    simp only [hm, ne_eq, not_true_eq_false, decide_false, Bool.or_false]
    exact decide_eq_false (Nat.not_lt.mpr hpt)
  change execFrameStart s = _
  simp only [execFrameStart, hon, hstart, hgo, Bool.not_true, Bool.false_eq_true, if_false]

theorem frameOverrun_next (hon : s.time.frameOn = true) (ht : s.time.framestart + s.time.curLen ≤ s.pt 9)
    (hm : s.members s.time.frameno ≠ []) : exec .frameOverrun s = .next (s.modTime fun t => { t with overran := true }) := by
  change execFrameOverrun s = _
  have hgo : (s.time.frameOn && decide (s.time.framestart + s.time.curLen ≤ s.pt cd) &&
      decide (s.members s.time.frameno ≠ [])) = true := by
    simp only [hon, hm, ne_eq, not_false_eq_true, decide_true, Bool.and_true, Bool.true_and]
    exact decide_eq_true ht
  simp only [execFrameOverrun, hgo, if_true]

/-! Members released (R75, R279). -/

/-- A member of a frame, released where its tick from the frame's start has come. -/
def Block.releasedBy (x : Block) (start now : Nat) : Block := if start + x.lb.release ≤ now then { x with released := true } else x

theorem Block.releasedBy_due {x : Block} {start now : Nat} (h : start + x.lb.release ≤ now) :
    x.releasedBy start now = { x with released := true } := if_pos h

theorem Block.releasedBy_early {x : Block} {start now : Nat} (h : now < start + x.lb.release) : x.releasedBy start now = x :=
  if_neg (Nat.not_le.mpr h)

theorem Block.releasedBy_twice (x : Block) (start now : Nat) : (x.releasedBy start now).releasedBy start now = x.releasedBy start now := by
  by_cases h : start + x.lb.release ≤ now
  · rw [Block.releasedBy_due h]
    exact if_pos h
  · have e := Block.releasedBy_early (Nat.not_le.mp h)
    rw [e, e]

theorem State.blockAt_modBlock (s : State) (n m : Nat) (f : Block → Block) :
    (s.modBlock n f).blockAt m = if m = n then (s.blockAt n).map f else s.blockAt m := by
  unfold State.modBlock
  split
  · next x h => rw [State.blockAt_setBlock, h]; rfl
  · next h =>
    split
    · next e => rw [e, h]; rfl
    · rfl

/-- Blocks of a list released where their tick has come; a block that the list names twice is released once. -/
theorem release_foldl (start : Nat) (l : List Nat) (s : State) :
    let u := l.foldl (fun s b => s.modBlock b (·.releasedBy start (s.pt cd))) s
    u.time = s.time ∧ u.mem = s.mem ∧ u.cores = s.cores ∧
      ∀ k, u.blockAt k = if k ∈ l then (s.blockAt k).map (·.releasedBy start (s.pt cd)) else s.blockAt k := by
  induction l generalizing s with
  | nil => exact ⟨rfl, rfl, rfl, fun k => rfl⟩
  | cons b l ih =>
    obtain ⟨htime, hmem, hcores, hat⟩ := ih (s.modBlock b (·.releasedBy start (s.pt cd)))
    have hpt : (s.modBlock b (·.releasedBy start (s.pt cd))).pt cd = s.pt cd := 
      congrArg (fun t : TimeState => tget 0 t.pt cd) (State.modBlock_time ..)
    refine ⟨htime.trans (State.modBlock_time ..), hmem.trans (State.modBlock_mem ..), hcores.trans (State.modBlock_cores ..), fun k => ?_⟩
    rw [List.foldl_cons, hat, hpt, State.blockAt_modBlock]
    by_cases hk : k = b
    · subst hk
      simp [Function.comp_def, Block.releasedBy_twice]
    · simp [hk]

theorem timetableRelease_next (hon : s.time.frameOn = true) : exec .timetableRelease s = .next
    ((s.members s.time.frameno).foldl (fun u b => u.modBlock b (·.releasedBy s.time.framestart (u.pt cd))) s) := by
  change execTimetableRelease s = _
  simp only [execTimetableRelease, hon, Bool.not_true, Bool.false_eq_true, if_false]
  rfl

/-- What a table reads at a key, unless it is the default, stands in it. -/
theorem mem_of_tget {α : Type} {z v : α} {t : Tab α} {n : Nat} (h : tget z t n = v) (hv : v ≠ z) : (n, v) ∈ t := by
  induction t with
  | nil => exact absurd h.symm hv
  | cons x t ih =>
    obtain ⟨k, w⟩ := x
    rw [tget_cons] at h
    split at h
    · next e => rw [e, ← h]; exact List.mem_cons_self
    · exact List.mem_cons_of_mem _ (ih h)

theorem mem_members {n k : Nat} : k ∈ s.members n ↔ ∃ x ∈ s.work.blocks, ∃ b, x.1 = k ∧ x.2 = some b ∧ b.frame = some n := by
  simp only [State.members, List.mem_filterMap]
  refine exists_congr fun x => and_congr_right fun _ => ?_
  cases x.2 with
  | none => simp
  | some b => by_cases h : b.frame = some n <;> simp [h]

/-- A block of a frame is a member of it. -/
theorem mem_members_of_blockAt {n k : Nat} {b : Block} (h : s.blockAt k = some b) (hf : b.frame = some n) : k ∈ s.members n :=
  mem_members.mpr ⟨_, mem_of_tget h nofun, b, rfl, rfl, hf⟩

end Sys2Proof.Machine
end

-- ==== Proofs: the statement about frontiers and frames (O39) ====
section
namespace Sys2Proof.Machine

/-- Settles O39: messages and slips of the frontiers, then frames by the state of the timetable. -/
theorem frontiersAndFrames : Obligations.FrontiersAndFrames := by
  unfold Obligations.FrontiersAndFrames
  refine ⟨fun s die src dst v rest => ⟨fun hd ht => ?_, fun h => ⟨fun hr => ?_, fun hr => ?_, ?_⟩, fun hd hw hl hs => ?_,
    frontierSlip_stands⟩, fun s => ?_⟩
  · exact ⟨_, _, frontierSample_next hd ht, rfl, fun m => mem_frontierMsgs, rfl, rfl⟩
  · have hnext := frontierMessage_next false h
    rw [hr] at hnext
    exact ⟨_, hnext, rfl, (tget_tset 0 s.time.held _ · v), rfl⟩
  · have hnext := frontierMessage_next false h
    rw [hr] at hnext
    exact ⟨_, hnext, rfl, rfl⟩
  · exact ⟨_, frontierMessage_next true h, rfl, rfl⟩
  · exact ⟨_, frontierSlip_next hd hw hl hs, (tget_tmod 0 s.time.fslip die die fun n => min (n + 1) (2 ^ 32 - 1)).trans (if_pos rfl),
      tget_tset_same false s.time.slipped die true, rfl, rfl⟩
  · intro t members enters
    refine ⟨fun o hon ho _ => ⟨fun hf => ?_, fun hf => ?_⟩, fun hon hm hlast => ⟨fun hpt => ?_, fun hpt => ?_⟩,
      fun hon hm hlast hpt => ?_, fun hon hm => ⟨?_, fun hpt => ?_⟩, fun hon => ?_⟩
    · exact ⟨_, (frameStart_first hon ho).trans (congrArg _ (if_pos hf)), rfl, rfl, rfl, rfl, rfl, rfl, rfl⟩
    · exact (frameStart_first hon ho).trans (congrArg _ (if_neg (Nat.not_le.mpr hf)))
    · have hnext := frameStart_next hon (members_eq_nil.mpr hm) (max_eq_left hlast) hpt
      simp only [Nat.sub_self, if_true] at hnext
      exact ⟨_, hnext, rfl, rfl, rfl, rfl, rfl, rfl, rfl⟩
    · exact frameStart_waits hon (.inl (hpt.trans_le (le_max_left ..)))
    · have hnext := frameStart_next hon (members_eq_nil.mpr hm) (max_eq_right hlast.le) hpt
      rw [if_neg (Nat.sub_ne_zero_of_lt hlast)] at hnext
      exact ⟨⟨_, hnext, rfl, rfl, rfl, rfl, rfl, rfl, rfl⟩, _, hnext, rfl, rfl⟩
    · exact frameStart_waits hon (.inr (mt members_eq_nil.mp hm))
    · exact ⟨_, frameOverrun_next hon hpt (mt members_eq_nil.mp hm), rfl, rfl⟩
    · obtain ⟨-, hmem, hcores, hat⟩ := release_foldl t.framestart (s.members t.frameno) s
      refine ⟨_, timetableRelease_next hon, hmem, hcores, fun k b hb => ⟨fun hf hdue => ?_, fun hno => ?_, fun hearly => ?_⟩⟩
      · rw [hat, if_pos (mem_members_of_blockAt hb hf), hb]
        exact congrArg some (Block.releasedBy_due hdue)
      · rw [hat, if_neg fun hk => ?_, hb]
        obtain ⟨x, hx, y, hxk, hxy, hf⟩ := mem_members.mp hk
        exact hno x hx y hxk hxy hf
      · rw [hat, hb, Option.map_some, show b.releasedBy t.framestart (s.pt cd) = b from Block.releasedBy_early hearly, ite_self]

end Sys2Proof.Machine
end

-- ==== Proofs: scalar loads that bind (O40) ====
section
/-! PROOF. The load at the head of a strand's queue: what its one part reads at the home, in the L1 or as of a time (R66, R67, R89-R92), and
the register that it binds. -/
namespace Sys2Proof.Machine

variable {s : State} {n : Nat} {st : Strand} {o : LoadOp} {rest : List LoadOp} {p : Part} {d : GReg} {k : Nat}

/-! Bytes as a register takes them. -/

theorem leNat_lt_two_pow {bs : List Byte} {w : Nat} (h : 8 * bs.length ≤ w) : leNat bs < 2 ^ w := by
  refine Nat.lt_of_lt_of_le ?_ (Nat.pow_le_pow_right two_pos h)
  clear h
  induction bs with
  | nil => exact Nat.one_pos
  | cons b bs ih =>
    have hb := b.isLt
    rw [leNat, List.length_cons, Nat.mul_add, pow_add]
    omega

theorem toNat_ofNat_leNat {bs : List Byte} {w : Nat} (h : 8 * bs.length ≤ w) : (BitVec.ofNat w (leNat bs)).toNat = leNat bs := by
  rw [BitVec.toNat_ofNat, Nat.mod_eq_of_lt (leNat_lt_two_pow h)]

/-- Up to eight bytes put at the front of an empty value. -/
theorem putAt_zero_toNat {bs : List Byte} (h : bs.length ≤ 8) : (putAt 0 0 bs).toNat = leNat bs := by
  rw [putAt, Nat.mul_zero, pow_zero, Nat.mul_one, show (0 : Vec) ||| BitVec.ofNat 4096 (leNat bs) = _ from BitVec.zero_or,
    toNat_ofNat_leNat (by omega)]

/-- The value of a load of bytes, as a number of their width (R186). -/
theorem extend_leNat {bs : List Byte} (sgn : Bool) (h : bs.length = k) : extend k sgn (leNat bs) =
    BitVec.ofInt 64 (if sgn then signed (8 * k) (leNat bs) else (leNat bs : Nat)) := by
  cases sgn with
  | true => rfl
  | false =>
    rw [extend, Nat.mod_eq_of_lt (leNat_lt_two_pow (by omega))]
    exact (BitVec.ofInt_natCast ..).symm

/-! A load that has its bytes. -/

/-- A load at the head of a strand's queue with one part still to be bound, which the strand waits for in a register other than g0. -/
structure HeadLoad (st : Strand) (o : LoadOp) (rest : List LoadOp) (p : Part) (d : GReg) (k : Nat) : Prop where
  queue : st.lq = o :: rest
  may : st.loadMay o = true
  parts : o.parts = [p]
  off : p.off = 0
  len : p.len = k
  short : k ≤ 8
  fresh : o.got = 0
  clean : o.tag = false
  silent : o.sig = none
  real : d ≠ 0
  owner : tget 0 st.busy d.toNat = o.tok

/-- The strand with its head load bound to a value. -/
def Strand.loaded (st : Strand) (rest : List LoadOp) (d : GReg) (v : W64) (tag : Bool) : Strand := { st with lq := rest }.setG d v tag

theorem Strand.loaded_reads (st : Strand) (rest : List LoadOp) (hd : d ≠ 0) (v : W64) (tag : Bool) :
    (st.loaded rest d v tag).lq = rest ∧ tget 0 (st.loaded rest d v tag).g d.toNat = v ∧
      tget false (st.loaded rest d v tag).gtag d.toNat = tag ∧
      (∀ r, r ≠ d.toNat → tget 0 (st.loaded rest d v tag).g r = tget 0 st.g r) ∧ (st.loaded rest d v tag).sq = st.sq := by
  unfold Strand.loaded
  refine ⟨?_, ?_, ?_, fun r hr => ?_, ?_⟩
  · rw [Strand.setG, if_neg hd]
  · rw [Strand.setG_g, if_pos ⟨hd, rfl⟩]
  · rw [Strand.setG_gtag, if_pos ⟨hd, rfl⟩]
  · rw [Strand.setG_g, if_neg fun h => hr h.2]
  · rw [Strand.setG, if_neg hd]

/-- The widths and signs with which a scalar load, not-before or not, binds its register. -/
def LoadWhat.binds (w : LoadWhat) (d : GReg) (k : Nat) (sgn : Bool) : Prop := w = .scalar d k sgn ∨ sgn = false ∧ ∃ t, w = .nb d k t

theorem finishLoad_scalar {x : LoadOp} {sgn : Bool} (hw : x.what.binds d k sgn) (hsig : x.sig = none) :
    s.finishLoad n x = (s.modStrand n fun st => { st with lq := st.lq.tail }).modStrand n
      fun st => st.bind d x.tok (extend k sgn x.got.toNat) x.tag := by
  unfold State.finishLoad
  rcases hw with hw | ⟨rfl, t, hw⟩ <;> rw [hw, hsig] <;> rfl

/-- A scalar load without a part left binds its register: nothing else holds it, for it goes to no port and has no signal clause. -/
theorem stepLoad_scalar {x : LoadOp} {sgn : Bool} (hw : x.what.binds d k sgn) (hsig : x.sig = none) (hparts : x.parts = []) (hd : d ≠ 0)
    (hs : s.strandAt n = some st) (hq : st.lq.tail = rest) (hb : tget 0 st.busy d.toNat = x.tok) :
    (s.stepLoad n x).strandAt n = some (st.loaded rest d (extend k sgn x.got.toNat) x.tag) ∧ (s.stepLoad n x).mem = s.mem := by
  have hport : x.toPort = false := by
    rcases hw with hw | ⟨-, t, hw⟩ <;> rw [LoadOp.toPort, hw]
  have hstep : s.stepLoad n x = s.finishLoad n x := by
    simp only [State.stepLoad, hs, hparts, hsig, hport, Option.isSome_none, Bool.or_self, Bool.false_and, Bool.not_false, decide_true,
      Bool.and_self, if_true]
  have hown : (d ≠ 0 && decide (tget 0 st.busy d.toNat = x.tok)) = true :=
    (Bool.and_eq_true ..).mpr ⟨decide_eq_true hd, decide_eq_true hb⟩
  rw [hstep, finishLoad_scalar hw hsig]
  constructor
  · rw [State.strandAt_modStrand, if_pos rfl, State.strandAt_modStrand, if_pos rfl, hs, Option.map_some, Option.map_some, hq]
    exact congrArg some (if_pos hown)
  · rw [State.modStrand_mem, State.modStrand_mem]

/-- The head load with the bytes of its part binds them. -/
theorem HeadLoad.binds (h : HeadLoad st o rest p d k) {sgn tag : Bool} {bs : List Byte} (hw : o.what.binds d k sgn)
    (hs : s.strandAt n = some st) (hl : bs.length = k) :
    (s.stepLoad n (o.took p [] bs tag)).strandAt n =
        some (st.loaded rest d (BitVec.ofInt 64 (if sgn then signed (8 * k) (leNat bs) else (leNat bs : Nat))) tag) ∧
      (s.stepLoad n (o.took p [] bs tag)).mem = s.mem := by
  have hgot : (o.took p [] bs tag).got.toNat = leNat bs := by
    rw [LoadOp.took, h.fresh, h.off]
    exact putAt_zero_toNat (hl.trans_le h.short)
  have htag : (o.took p [] bs tag).tag = tag := by rw [LoadOp.took, h.clean, Bool.false_or]
  have hstep := stepLoad_scalar (x := o.took p [] bs tag) hw h.silent rfl h.real hs (congrArg List.tail h.queue) h.owner
  rwa [hgot, htag, extend_leNat sgn hl] at hstep

/-! Where its bytes come from. -/

theorem pickPart_one (i : Nat) (p : Part) : pickPart i [p] = some (p, []) := by
  simp only [pickPart, List.length_singleton, max_self, Nat.mod_one, List.getElem?_cons_zero, List.eraseIdx_cons_zero]

/-- A part of a page that no cache keeps is read at its home (R89). -/
theorem coreRead_uncached {core ctx cache pa m pick : Nat} {dropL dropR : Bool} (hc : 2 ≤ cache) :
    s.coreRead core ctx cache pa m dropL dropR pick = (s.mem.read pa m, s.touchL2 ctx pa false) := by
  have hr : inRdc (dieOfCore core) cache pa = false := by
    rw [inRdc, decide_eq_false (Nat.not_lt.mpr hc), Bool.and_false]
  simp only [State.coreRead, State.dieRead, hr, show ¬ cache = 0 by omega, Bool.false_and, decide_false, Bool.false_eq_true, if_false]

theorem served_uncached {core cache pa : Nat} {dropL dropR : Bool} (hc : 2 ≤ cache) : s.served core cache pa dropL dropR = false := by
  simp [State.served, inRdc, show ¬ cache = 0 by omega, show ¬ cache < 2 by omega]

/-- A copy that the L1 holds serves a part of a cached page (R89). -/
theorem coreRead_l1 {core ctx pa m pick : Nat} {dropR : Bool} {c : Copy} (hc : tget none (s.coreAt core).l1 (pa / 128) = some c) :
    s.coreRead core ctx 0 pa m false dropR pick = (c.read (pa % 128) m, s) := by
  simp only [State.coreRead, decide_true, Bool.not_false, Bool.and_self, if_true, hc]

theorem served_l1 {core pa : Nat} {dropR : Bool} {c : Copy} (hc : tget none (s.coreAt core).l1 (pa / 128) = some c) :
    s.served core 0 pa false dropR = true := by
  simp only [State.served, decide_true, Bool.not_false, Bool.and_self, hc, Option.isSome_some, Bool.true_or]

/-- The turn of a scalar load with one part left: it waits, unless a copy serves it or its home is free, and else takes what it reads. -/
theorem globalLoadBind_scalar (h : HeadLoad st o rest p d k) {sgn : Bool} (hw : o.what = .scalar d k sgn) (hs : s.strandAt n = some st) :
    exec (.globalLoadBind n) s = .next (
      if !(s.served (coreOfStrand n) p.cache p.pa s.dropsL1 s.dropsRdc || s.homeFree (dieOfCore (coreOfStrand n)) p.pa) then s
      else
        let r := s.coreRead (coreOfStrand n) (s.ctxOfStrand n) p.cache p.pa p.len s.dropsL1 s.dropsRdc (s.pick / 64)
        r.2.stepLoad n (o.took p [] r.1.1 r.1.2)) := by
  change execGlobalLoadBind n s = _
  simp only [execGlobalLoadBind, hs, h.queue, h.may, hw, h.parts, pickPart_one, Bool.not_true, Bool.false_eq_true, if_false]
  rfl

/-- An uncached load whose home is free binds what the home holds. -/
theorem globalLoadBind_home (h : HeadLoad st o rest p d k) {sgn : Bool} (hw : o.what = .scalar d k sgn) (hs : s.strandAt n = some st)
    (hc : 2 ≤ p.cache) (hf : s.homeFree (dieOfCore (coreOfStrand n)) p.pa = true) :
    ∃ u, exec (.globalLoadBind n) s = .next u ∧ u.mem.bytes = s.mem.bytes ∧ u.strandAt n =
      let r := s.mem.read p.pa k
      some (st.loaded rest d (BitVec.ofInt 64 (if sgn then signed (8 * k) (leNat r.1) else (leNat r.1 : Nat))) r.2) := by
  obtain ⟨w, c, r, htouch⟩ := touchL2_frame s (s.ctxOfStrand n) p.pa false
  have hnext := globalLoadBind_scalar h hw hs
  rw [hf, Bool.or_true, Bool.not_true, if_neg Bool.false_ne_true, coreRead_uncached hc, htouch, h.len] at hnext
  obtain ⟨hstrand, hmem⟩ := h.binds (s := s.modMem fun m => { m with l2Sets := w, chanAccess := c, refresh := r })
    (tag := (s.mem.read p.pa k).2) (bs := (s.mem.read p.pa k).1) (.inl hw) hs (by simp [MemState.read, upto])
  exact ⟨_, hnext, (congrArg MemState.bytes hmem :), hstrand⟩

/-- A load that a copy of the L1 serves binds what the copy holds, and needs no home. -/
theorem globalLoadBind_l1 (h : HeadLoad st o rest p d k) (hw : o.what = .scalar d k false) (hs : s.strandAt n = some st) {c : Copy}
    (hc : p.cache = 0) (hdrop : s.dropsL1 = false) (hl1 : tget none (s.coreAt (coreOfStrand n)).l1 (p.pa / 128) = some c) :
    ∃ u, exec (.globalLoadBind n) s = .next u ∧ u.mem.bytes = s.mem.bytes ∧ u.strandAt n =
      let r := c.read (p.pa % 128) k
      some (st.loaded rest d (BitVec.ofInt 64 (leNat r.1 : Nat)) r.2) := by
  have hnext := globalLoadBind_scalar h hw hs
  rw [hc, hdrop, served_l1 hl1, Bool.true_or, Bool.not_true, if_neg Bool.false_ne_true, coreRead_l1 hl1, h.len] at hnext
  obtain ⟨hstrand, hmem⟩ := h.binds (tag := (c.read (p.pa % 128) k).2) (bs := (c.read (p.pa % 128) k).1) (.inl hw) hs
    (leBytes_length k _)
  exact ⟨_, hnext, (congrArg MemState.bytes hmem :), hstrand⟩

/-! Not-before loads (R66, R67). -/

/-- The home once a part of a not-before load has been performed: its entry is free, and the copies of its line are dropped (R66, R90). -/
def State.nbServed (s : State) (n : Nat) (o : LoadOp) (p : Part) : State :=
  ((s.setNb (sliceOf p.pa) ((s.nbAt (sliceOf p.pa)).filter (· ≠ (n, o.tok, p.pa)))).touchL2 (s.ctxOfStrand n) p.pa false).dropCopies
    (coreOfStrand n) (p.pa / 128)

theorem nbServed_frame (s : State) (n : Nat) (o : LoadOp) (p : Part) :
    (s.nbServed n o p).strands = s.strands ∧ (s.nbServed n o p).mem.bytes = s.mem.bytes := by
  obtain ⟨w, c, r, htouch⟩ := touchL2_frame (s.setNb (sliceOf p.pa) ((s.nbAt (sliceOf p.pa)).filter (· ≠ (n, o.tok, p.pa))))
    (s.ctxOfStrand n) p.pa false
  rw [State.nbServed, htouch]
  generalize (s.nbAt (sliceOf p.pa)).filter (· ≠ (n, o.tok, p.pa)) = l
  exact ⟨rfl, rfl⟩

/-- The turn of a not-before load with one part left: it waits for its strand and its home, for one of the 128 entries, and there for its
time, and then takes the bytes as of that time. -/
theorem nbLoadPerform_next (h : HeadLoad st o rest p d k) {t : W64} (hw : o.what = .nb d k t) (hs : s.strandAt n = some st) :
    exec (.nbLoadPerform n) s = .next (
      let sl := sliceOf p.pa
      let e := (n, o.tok, p.pa)
      if st.stop.isSome || !s.reaches (dieOfCore (coreOfStrand n)) sl.1 then s
      else if e ∉ s.nbAt sl ∧ Config.nbDepth ≤ (s.nbAt sl).length then s
      else if s.pt sl.1 < t.toNat || s.gf sl.1 < t.toNat || s.dueParts sl then
        if e ∈ s.nbAt sl then s else s.setNb sl (s.nbAt sl ++ [e])
      else (s.nbServed n o p).stepLoad n (o.took p [] ((List.range k).map fun i => s.mem.nbByte t.toNat (p.pa + i))
        ((List.range k).any fun i => s.mem.nbPoison t.toNat (p.pa + i)))) := by
  change execNbLoadPerform n s = _
  simp only [execNbLoadPerform, hs, h.queue, h.may, LoadOp.notBefore, hw, h.parts, pickPart_one, h.len, upto, State.dieOfStrand,
    State.nbServed, Bool.not_true, Bool.or_false, Bool.and_eq_true, Bool.not_eq_true', decide_eq_true_eq, List.contains_iff_mem,
    ← Bool.not_eq_true (List.contains _ _)]


/-- A not-before load whose time has come binds the bytes and the poison as of its time. -/
theorem nbLoadPerform_binds (h : HeadLoad st o rest p d k) {t : W64} (hw : o.what = .nb d k t) (hs : s.strandAt n = some st)
    (hstop : st.stop = none) (hpt : t.toNat ≤ s.pt (sliceOf p.pa).1) (hgf : t.toNat ≤ s.gf (sliceOf p.pa).1)
    (hr : s.reaches (dieOfCore (coreOfStrand n)) (sliceOf p.pa).1 = true) (hdue : s.dueParts (sliceOf p.pa) = false)
    (hroom : (s.nbAt (sliceOf p.pa)).length < Config.nbDepth ∨ (n, o.tok, p.pa) ∈ s.nbAt (sliceOf p.pa)) :
    ∃ u, exec (.nbLoadPerform n) s = .next u ∧ u.mem.bytes = s.mem.bytes ∧ u.strandAt n =
      some (st.loaded rest d (BitVec.ofInt 64 (leNat ((List.range k).map fun i => s.mem.nbByte t.toNat (p.pa + i)) : Nat))
        ((List.range k).any fun i => s.mem.nbPoison t.toNat (p.pa + i))) := by
  have hnext := nbLoadPerform_next h hw hs
  have hroom' : ¬ ((n, o.tok, p.pa) ∉ s.nbAt (sliceOf p.pa) ∧ Config.nbDepth ≤ (s.nbAt (sliceOf p.pa)).length) :=
    fun hfull => hroom.elim (Nat.not_lt.mpr hfull.2) hfull.1
  have htime : (decide (s.pt (sliceOf p.pa).1 < t.toNat) || decide (s.gf (sliceOf p.pa).1 < t.toNat) ||
      s.dueParts (sliceOf p.pa)) = false := by
    rw [decide_eq_false (Nat.not_lt.mpr hpt), decide_eq_false (Nat.not_lt.mpr hgf), hdue]
    rfl
  simp only [hstop, Option.isSome_none, hr, Bool.not_true, Bool.or_self, Bool.false_eq_true, if_false, if_neg hroom', htime] at hnext
  obtain ⟨hstrands, hbytes⟩ := nbServed_frame s n o p
  obtain ⟨hstrand, hmem⟩ := h.binds (s := s.nbServed n o p) (sgn := false)
    (bs := (List.range k).map fun i => s.mem.nbByte t.toNat (p.pa + i))
    (tag := (List.range k).any fun i => s.mem.nbPoison t.toNat (p.pa + i))
    (.inr ⟨rfl, t, hw⟩) ((congrArg (tget none · n) hstrands).trans hs) (by rw [List.length_map, List.length_range])
  exact ⟨_, hnext, (congrArg MemState.bytes hmem).trans hbytes, hstrand⟩

/-- A not-before load before its time changes at most who waits at its slice. -/
theorem nbLoadPerform_early (h : HeadLoad st o rest p d k) {t : W64} (hw : o.what = .nb d k t) (hs : s.strandAt n = some st)
    (ht : s.pt (sliceOf p.pa).1 < t.toNat ∨ s.gf (sliceOf p.pa).1 < t.toNat) :
    ∃ u, exec (.nbLoadPerform n) s = .next u ∧ u.strands = s.strands ∧ u.mem.bytes = s.mem.bytes ∧ u.time = s.time := by
  have htime : (decide (s.pt (sliceOf p.pa).1 < t.toNat) || decide (s.gf (sliceOf p.pa).1 < t.toNat) ||
      s.dueParts (sliceOf p.pa)) = true := by
    rw [(Bool.or_eq_true ..).mpr (ht.imp decide_eq_true decide_eq_true), Bool.true_or]
  refine ⟨_, nbLoadPerform_next h hw hs, ?_⟩
  simp only [htime, if_true]
  split_ifs <;> exact ⟨rfl, rfl, rfl⟩

/-- A not-before load that finds its slice full stays away from it. -/
theorem nbLoadPerform_full (h : HeadLoad st o rest p d k) {t : W64} (hw : o.what = .nb d k t) (hs : s.strandAt n = some st)
    (hfull : Config.nbDepth ≤ (s.nbAt (sliceOf p.pa)).length) (hout : (n, o.tok, p.pa) ∉ s.nbAt (sliceOf p.pa)) :
    exec (.nbLoadPerform n) s = .next s := by
  rw [nbLoadPerform_next h hw hs]
  simp only [if_pos (And.intro hout hfull), ite_self]

end Sys2Proof.Machine
end

-- ==== Proofs: the statement about loads that bind (O40) ====
section
namespace Sys2Proof.Machine

/-- Settles O40: loads at the home, by an L1, and not before a time. -/
theorem loadsBind : Obligations.LoadsBind := by
  unfold Obligations.LoadsBind
  intro s n st o rest p d k hs hq hmay hparts hoff hlen hk hgot htag hsig hd hbusy bound home bad sl free
  have h : HeadLoad st o rest p d k := ⟨hq, hmay, hparts, hoff, hlen, hk, hgot, htag, hsig, hd, hbusy⟩
  have binds {i : Instr} {bs : List Byte} {tag : Bool} (hb : ∃ u, exec i s = .next u ∧ u.mem.bytes = s.mem.bytes ∧
      u.strandAt n = some (st.loaded rest d (BitVec.ofInt 64 (leNat bs : Nat)) tag)) : bound i id bs tag := by
    obtain ⟨u, hnext, hbytes, hu⟩ := hb
    obtain ⟨hlq, hg, hgtag, hothers, hsq⟩ := st.loaded_reads rest hd (BitVec.ofInt 64 (leNat bs : Nat)) tag
    exact ⟨u, _, hnext, hu, hlq, hg, hgtag, hothers, hsq, hbytes⟩
  refine ⟨fun hw hc hf => binds (globalLoadBind_home h hw hs hc hf), fun hw hc hf => ?_, fun hw hc hf => ?_,
    fun c hw hc hdrop hl1 => binds (globalLoadBind_l1 h hw hs hc hdrop hl1),
    fun t hw hstop hpt hgf hr hdue hroom => binds (nbLoadPerform_binds h hw hs hstop hpt hgf hr hdue hroom),
    fun t hw ht => nbLoadPerform_early h hw hs ht, fun t hw hfull hout => nbLoadPerform_full h hw hs hfull hout⟩
  · rw [globalLoadBind_scalar h hw hs, served_uncached hc, Bool.false_or, Bool.eq_false_of_not_eq_true hf, Bool.not_false, if_pos rfl]
  · obtain ⟨u, hnext, -, hu⟩ := globalLoadBind_home h hw hs hc hf
    obtain ⟨-, hg, hgtag, -, -⟩ := st.loaded_reads rest hd (BitVec.ofInt 64 (signed (8 * k) (leNat home))) bad
    exact ⟨u, _, hnext, hu, hg, hgtag⟩

end Sys2Proof.Machine
end

-- ==== Proofs: contexts that are created, and their areas (O48) ====
section
/-! PROOF. A write at its home leaves the contexts, the work and the clock as they were, and its bytes read back, field by field; with that,
what the header of a new context holds (R56, R299), and the count of a fault log that is drained (R311). -/
namespace Sys2Proof.Machine

variable {s : State}

/-- Two states with the same contexts and context areas, the same work and the same clock. -/
structure State.SameCtxs (s u : State) : Prop where
  ctxs : u.ctxs = s.ctxs
  areas : u.mem.areas = s.mem.areas
  work : u.work = s.work
  time : u.time = s.time

theorem State.SameCtxs.refl (s : State) : s.SameCtxs s := ⟨rfl, rfl, rfl, rfl⟩

theorem State.SameCtxs.trans {a b c : State} (h : a.SameCtxs b) (h' : b.SameCtxs c) : a.SameCtxs c :=
  ⟨h'.ctxs.trans h.ctxs, h'.areas.trans h.areas, h'.work.trans h.work, h'.time.trans h.time⟩

theorem State.SameCtxs.foldl {α : Type} {f : State → α → State} (hf : ∀ (s : State) x, s.SameCtxs (f s x)) (l : List α) (s : State) :
    s.SameCtxs (l.foldl f s) := by
  induction l generalizing s with
  | nil => exact .refl s
  | cons x l ih => exact (hf s x).trans (ih (f s x))

theorem fireMonitor_sameCtxs (s : State) (n : Nat) (o : LoadOp) (d : GReg) : s.SameCtxs (s.fireMonitor n o d) := by
  unfold State.fireMonitor
  split
  · constructor <;> simp [State.dropCopies, State.dropRdc, State.dropL1]
  · exact .refl s

theorem wake_sameCtxs (s : State) (pa n : Nat) : s.SameCtxs (s.wake pa n) := by
  refine State.SameCtxs.foldl (fun s x => ?_) _ s
  split
  · split
    · split
      · split
        · exact fireMonitor_sameCtxs ..
        · exact .refl s
      · exact .refl s
    · exact .refl s
  · exact .refl s

theorem write_areas (m : MemState) (pa : Nat) (bs : List (Option Byte)) (tag : Bool) : (m.write pa bs tag).areas = m.areas := by
  unfold MemState.write
  split <;> rfl

theorem homeWrite_sameCtxs (s : State) (ctx pa : Nat) (bs : List (Option Byte)) (tag : Bool) : s.SameCtxs (s.homeWrite ctx pa bs tag) := by
  obtain ⟨w, c, r, htouch⟩ := touchL2_frame (s.modMem fun m => m.write pa bs tag) ctx pa true
  rw [State.homeWrite, htouch]
  exact State.SameCtxs.trans (b := s.modMem fun m => { m.write pa bs tag with l2Sets := w, chanAccess := c, refresh := r })
    ⟨rfl, write_areas s.mem pa bs tag, rfl, rfl⟩ (wake_sameCtxs ..)

theorem homeWriteAll_sameCtxs (s : State) (ctx pa : Nat) (bs : List (Option Byte)) (tag : Bool) :
    s.SameCtxs (s.homeWriteAll ctx pa bs tag) :=
  State.SameCtxs.foldl (fun _ _ => homeWrite_sameCtxs ..) _ s

/-- Bytes that stand in memory, as a field of them reads. -/
theorem leNat_byteAt {m : MemState} {pa off n : Nat} {bs : List Byte} (h : ∀ i b, bs[i]? = some b → m.byteAt (pa + i) = b)
    (hn : off + n ≤ bs.length) : leNat ((List.range n).map fun k => m.byteAt (pa + off + k)) = recF bs off n := by
  refine congrArg leNat (List.ext_getElem (by simp; omega) fun k hk hk' => ?_)
  rw [List.getElem_map, List.getElem_range, List.getElem_take, List.getElem_drop, Nat.add_assoc]
  exact h _ _ (List.getElem?_eq_getElem _)

/-- The byte enabled in a write of whole bytes. -/
theorem whole_getD {bs : List Byte} {i : Nat} {b : Byte} (h : bs[i]? = some b) (z : Byte) : (((whole bs)[i]?).getD none).getD z = b := by
  rw [whole, List.getElem?_map, h]
  rfl

/-- A field behind the bytes that a record begins with. -/
theorem recF_behind {a b : List Byte} {off n : Nat} (h : a.length ≤ off) : recF (a ++ b) off n = recF b (off - a.length) n := by
  rw [← recF_append a b, Nat.add_sub_cancel' h]

theorem recF_zeros (b : List Byte) (n : Nat) : recF (zeros n ++ b) 0 n = 0 := by
  have hz : leNat (zeros n) = 0 := by
    induction n with
    | zero => rfl
    | succ n ih => rw [zeros, List.replicate_succ, leNat, ← zeros, ih]; rfl
  rw [recF, List.drop_zero, List.take_left' (show (zeros n).length = n from List.length_replicate ..), hz]

/-! The header of a context area (R299). -/

theorem areaHeader_length (x : CtxInit) : (areaHeader x).length = 4096 := by
  simp only [areaHeader, zeros, List.length_append, leBytes_length, List.length_replicate]

theorem areaHeader_fields (x : CtxInit) :
    recF (areaHeader x) 0 4 = 1 + (if x.debuggable then 16 else 0) + (if x.privileged then 32 else 0) + 64 * x.policy.toNat ∧
      recF (areaHeader x) 8 8 = x.flogOff % 2 ^ 64 ∧ recF (areaHeader x) 0x10 4 = x.flogCap % 2 ^ 32 ∧
      recF (areaHeader x) 0x14 4 = 0 ∧ recF (areaHeader x) 0x18 8 = x.spillOff % 2 ^ 64 ∧
      recF (areaHeader x) 0x20 4 = x.spillCap % 2 ^ 32 ∧ recF (areaHeader x) 0x24 4 = 0 ∧
      recF (areaHeader x) 0x28 8 = x.heapOff % 2 ^ 64 ∧ recF (areaHeader x) 0x30 8 = x.heapSize % 2 ^ 64 := by
  have hz : ∀ n, (zeros n).length = n := fun n => List.length_replicate ..
  have hflags : (1 + if x.debuggable then 16 else 0) + (if x.privileged then 32 else 0) + x.policy.toNat * 64 < 256 ^ 4 := by
    have hpol := x.policy.isLt
    split_ifs <;> omega
  simp only [areaHeader, List.append_assoc, recF_behind, leBytes_length, hz, Nat.reduceLeDiff, le_refl, Nat.reduceSub, recF_leBytes,
    recF_zeros, Nat.mod_eq_of_lt hflags, Nat.mul_comm 64]
  norm_num

/-- CONTEXT_CREATE (R56, R299): the context that stands after it. -/
theorem contextCreate_next {ctx : Nat} {x : CtxInit} (hm : s.mayCreate ctx x = true) (hr : s.reachesAll 9 x.area 4096 = true) :
    ∃ (u : State) (c : Ctx), exec (.contextCreate ctx x) s = .next (u.homeWriteAll ctx x.area (whole (areaHeader x)) false) ∧
      u.mem.frames = s.mem.frames ∧ u.mem.cxlUp = s.mem.cxlUp ∧ tget 0 u.mem.areas ctx = BitVec.ofNat 64 x.area ∧
      (∀ k, u.ctxAt k = if k = ctx then some c else s.ctxAt k) ∧ c.privileged = x.privileged ∧ c.debuggable = x.debuggable ∧
      c.root0 = x.root0 ∧ c.ceiling = x.ceiling ∧ c.limit = 0 ∧ c.commit = 0 ∧ c.heapSize = x.heapSize ∧ c.flogCap = x.flogCap := by
  have hgo : (!s.mayCreate ctx x || !s.reachesAll cd x.area 4096) = false := by
    rw [hm, show s.reachesAll cd x.area 4096 = true from hr]
    rfl
  exact ⟨_, _, congrArg Host.Outcome.next (if_neg (ne_true_of_eq_false hgo)), rfl, rfl, tget_tset_same 0 s.mem.areas ctx _,
    fun k => State.ctxAt_setCtx .., rfl, rfl, rfl, rfl, rfl, rfl, rfl, rfl⟩

/-- No context is created while the clock is neither set nor free, or where one stands (R56). -/
theorem contextCreate_not {ctx : Nat} {x : CtxInit} (h : s.mayCreate ctx x = false ∨ s.reachesAll 9 x.area 4096 = false) :
    exec (.contextCreate ctx x) s = .next s := by
  have hno : (!s.mayCreate ctx x || !s.reachesAll cd x.area 4096) = true := by
    rcases h with h | h
    · rw [h]; rfl
    · rw [show s.reachesAll cd x.area 4096 = false from h, Bool.not_false, Bool.or_true]
  exact congrArg Host.Outcome.next (if_pos hno)

theorem mayCreate_unset {ctx : Nat} {x : CtxInit} (hst : s.time.stepped = false) (hw : s.time.waitOver = false) :
    s.mayCreate ctx x = false := by
  simp only [State.mayCreate, hst, hw, Bool.false_and, Bool.or_self]

theorem mayCreate_taken {ctx : Nat} {x : CtxInit} (h : s.ctxAt ctx ≠ none) : s.mayCreate ctx x = false := by
  have hsome : (s.ctxAt ctx).isNone = false := Option.isNone_eq_false_iff.mpr (Option.isSome_iff_ne_none.mpr h)
  simp only [State.mayCreate, hsome, Bool.and_false, Bool.false_and]

/-- A context area begins a page of 4 KiB (R299). -/
theorem mayCreate_area {ctx : Nat} {x : CtxInit} (h : s.mayCreate ctx x = true) : x.area % 4096 = 0 := by
  simp only [State.mayCreate, Bool.and_eq_true, decide_eq_true_eq] at h
  exact h.1.1.1.1.2

/-- Addresses of one page of 4 KiB are discarded alike: they share their frame and their port. -/
theorem discards_page {m : MemState} {a b : Nat} (h : a / 4096 = b / 4096) : m.discards a = m.discards b := by
  have hframe : frameOf a = frameOf b := by unfold frameOf; omega
  have hport : cxlPort a = cxlPort b := by
    unfold cxlPort cxlBase
    rw [show a / 0x10000000000 = b / 0x10000000000 by omega]
    exact if_congr (by omega) rfl rfl
  rw [MemState.discards, MemState.discards, hframe, hport]

/-- The header of a new context stands in its area, field by field. -/
theorem header_written {a ctx : Nat} {x : CtxInit} (ha : a % 4096 = 0) (hd : s.mem.discards a = false) {off n : Nat}
    (hn : off + n ≤ 4096) :
    leNat ((List.range n).map fun k => (s.homeWriteAll ctx a (whole (areaHeader x)) false).mem.byteAt (a + off + k)) =
      recF (areaHeader x) off n := by
  refine leNat_byteAt (fun i b hb => ?_) (by rwa [areaHeader_length])
  have hi : i < 4096 := areaHeader_length x ▸ (List.getElem?_eq_some_iff.mp hb).1
  rw [(homeWriteAll_frame ..).2, if_pos ⟨Nat.le_add_right .., (discards_page (by omega)).trans hd⟩, Nat.add_sub_cancel_left]
  exact whole_getD hb _

/-! The fault log's count (R311). -/

theorem faultLogDrain_next {ctx count : Nat} (hc : (s.ctxAt ctx).isSome = true)
    (hr : s.reachesAll 9 ((tget 0 s.mem.areas ctx).toNat + 0x14) 4 = true) :
    exec (.faultLogDrain ctx count) s = .next (s.homeWrite ctx ((tget 0 s.mem.areas ctx).toNat + 0x14)
      (whole (leBytes 4 (min count (s.mem.readNat ((tget 0 s.mem.areas ctx).toNat + 0x14) 4)))) false) := by
  obtain ⟨c, hc⟩ := Option.isSome_iff_exists.mp hc
  change execFaultLogDrain ctx count s = _
  simp only [execFaultLogDrain, hc, show s.reachesAll cd _ 4 = true from hr, Bool.not_true, Bool.false_eq_true, if_false]

/-- A number of four bytes written at its home reads back. -/
theorem homeWrite_four (s : State) (ctx a v : Nat) (hv : v < 2 ^ 32) (hd : s.mem.discards a = false) :
    leNat ((List.range 4).map fun k => (s.homeWrite ctx a (whole (leBytes 4 v)) false).mem.byteAt (a + k)) = v ∧
      ∀ b, b < a ∨ a + 4 ≤ b → (s.homeWrite ctx a (whole (leBytes 4 v)) false).mem.byteAt b = s.mem.byteAt b := by
  constructor
  · have hback := leNat_byteAt (m := (s.homeWrite ctx a (whole (leBytes 4 v)) false).mem) (pa := a) (off := 0) (n := 4)
      (bs := leBytes 4 v) (fun i b hb => by
        rw [homeWrite_byteAt, byteAt_write _ _ _ _ _ hd, if_pos (Nat.le_add_right ..), Nat.add_sub_cancel_left]
        exact whole_getD hb _) (by rw [leBytes_length])
    have hfield := recF_leBytes [] 4 v
    rw [List.append_nil] at hfield
    exact hback.trans (hfield.trans (Nat.mod_eq_of_lt hv))
  · intro b hb
    rw [homeWrite_byteAt, byteAt_write_outside _ _ _ _ _ (by rwa [whole, List.length_map, leBytes_length])]

end Sys2Proof.Machine
end

-- ==== Proofs: contexts that are killed (O48) ====
section
/-! PROOF. The end of the work of a context that is killed leaves the mark of the kill, the fault log's queue and package time as they
were, and gives it no tile task (R52, R315). A lemma `State.KeepsCtx.f` says so of `State.f`. -/
namespace Sys2Proof.Machine

/-- What stands in a table after an entry has been removed stood in it. -/
theorem mem_of_mem_tdel {α : Type} {t : Tab α} {n : Nat} {x : Nat × α} (h : x ∈ tdel t n) : x ∈ t := by
  induction t with
  | nil => exact h
  | cons y t ih =>
    obtain ⟨k, w⟩ := y
    rw [tdel] at h
    split at h
    · exact List.mem_cons_of_mem _ (ih h)
    · exact List.mem_cons.mpr ((List.mem_cons.mp h).imp_right ih)

/-- What stands in a table after an entry has been put there is that entry, or stood in it. -/
theorem mem_of_mem_tput {α : Type} {v : α} {t : Tab α} {n : Nat} {x : Nat × α} (h : x ∈ tput t n v) : x = (n, v) ∨ x ∈ t := by
  induction t with
  | nil => exact .inl (List.mem_singleton.mp h)
  | cons y t ih =>
    obtain ⟨k, w⟩ := y
    rw [tput] at h
    split_ifs at h with hk hlt
    · exact (List.mem_cons.mp h).imp (fun e => hk ▸ e) (List.mem_cons_of_mem _)
    · exact List.mem_cons.mp h
    · rcases List.mem_cons.mp h with e | h
      · exact .inr (e ▸ List.mem_cons_self)
      · exact (ih h).imp_right (List.mem_cons_of_mem _)

theorem mem_of_mem_tset {α : Type} [DecidableEq α] {z v : α} {t : Tab α} {n : Nat} {x : Nat × α} (h : x ∈ tset z t n v) :
    x = (n, v) ∨ x ∈ t := by
  unfold tset at h
  split at h
  · exact .inr (mem_of_mem_tdel h)
  · exact mem_of_mem_tput h

/-- From one state to another package time stands, the context takes no new mark of a kill nor a new record, and no tile task of it
appears. -/
structure State.KeepsCtx (ctx : Nat) (b s : State) : Prop where
  pt : s.time.pt = b.time.pt
  marks : ∀ c, s.ctxAt ctx = some c → ∃ c', b.ctxAt ctx = some c' ∧ c.killing = c'.killing ∧ c.flogWait = c'.flogWait
  idle : b.ctxRuns ctx = false → s.ctxRuns ctx = false

/-- A context without a tile task. -/
theorem ctxRuns_eq_false {s : State} {ctx : Nat} :
    s.ctxRuns ctx = false ↔ ∀ y ∈ s.work.tts, ∀ t, y.2 = some t → t.ctx ≠ ctx := by
  simp only [State.ctxRuns, List.any_eq_false, decide_eq_true_eq]
  refine forall₂_congr fun y _ => ?_
  cases y.2 <;> simp

section
variable {ctx : Nat} {b s : State}

theorem State.KeepsCtx.refl (ctx : Nat) (s : State) : s.KeepsCtx ctx s := ⟨rfl, fun c h => ⟨c, h, rfl, rfl⟩, id⟩

theorem State.KeepsCtx.ite {p : Prop} [Decidable p] {u v : State} (hu : b.KeepsCtx ctx u) (hv : b.KeepsCtx ctx v) :
    b.KeepsCtx ctx (if p then u else v) := by
  split
  · exact hu
  · exact hv

theorem State.KeepsCtx.foldl {α : Type} {f : State → α → State} {l : List α} (h : b.KeepsCtx ctx s)
    (hf : ∀ s x, b.KeepsCtx ctx s → b.KeepsCtx ctx (f s x)) : b.KeepsCtx ctx (l.foldl f s) := by
  induction l generalizing s with
  | nil => exact h
  | cons x l ih => exact ih (hf s x h)

/-! Changes of one part of the state. -/

theorem State.KeepsCtx.modCtx {n f} (h : b.KeepsCtx ctx s) (hk : ∀ c, (f c).killing = c.killing := by intro; rfl)
    (hf : ∀ c, (f c).flogWait = c.flogWait := by intro; rfl) : b.KeepsCtx ctx (s.modCtx n f) := by
  unfold State.modCtx
  split
  · next c hc =>
    refine ⟨h.pt, fun c' hc' => ?_, h.idle⟩
    rw [State.ctxAt_setCtx] at hc'
    split at hc'
    · next e =>
      cases hc'
      obtain ⟨c2, hc2, hkill, hflog⟩ := h.marks c (e ▸ hc)
      exact ⟨c2, hc2, (hk c).trans hkill, (hf c).trans hflog⟩
    · exact h.marks c' hc'
  · exact h

theorem State.KeepsCtx.modTt {n f} (h : b.KeepsCtx ctx s) (hf : ∀ t, (f t).ctx = t.ctx := by intro; rfl) :
    b.KeepsCtx ctx (s.modTt n f) := by
  unfold State.modTt
  split
  · next t ht =>
    refine ⟨h.pt, h.marks, fun hi => ctxRuns_eq_false.mpr fun y hy t' ht' => ?_⟩
    have hold := ctxRuns_eq_false.mp (h.idle hi)
    rcases mem_of_mem_tset (show y ∈ tset none s.work.tts n (some (f t)) from hy) with rfl | hy
    · cases ht'
      exact (hf t).trans_ne (hold _ (mem_of_tget ht nofun) t rfl)
    · exact hold y hy t' ht'
  · exact h

theorem State.KeepsCtx.modWork {f} (h : b.KeepsCtx ctx s) (hf : ∀ w, (f w).tts = w.tts := by intro; rfl) :
    b.KeepsCtx ctx (s.modWork f) :=
  ⟨h.pt, h.marks, fun hi => (congrArg (List.any · _) (hf s.work)).trans (h.idle hi)⟩

theorem State.KeepsCtx.modTime {f} (h : b.KeepsCtx ctx s) (hf : ∀ t, (f t).pt = t.pt := by intro; rfl) :
    b.KeepsCtx ctx (s.modTime f) :=
  ⟨(hf s.time).trans h.pt, h.marks, h.idle⟩

theorem State.KeepsCtx.modCore {n f} (h : b.KeepsCtx ctx s) : b.KeepsCtx ctx (s.modCore n f) := ⟨h.pt, h.marks, h.idle⟩
theorem State.KeepsCtx.setStrand {n x} (h : b.KeepsCtx ctx s) : b.KeepsCtx ctx (s.setStrand n x) := ⟨h.pt, h.marks, h.idle⟩
theorem State.KeepsCtx.modMem {f} (h : b.KeepsCtx ctx s) : b.KeepsCtx ctx (s.modMem f) := ⟨h.pt, h.marks, h.idle⟩
theorem State.KeepsCtx.modEnergy {f} (h : b.KeepsCtx ctx s) : b.KeepsCtx ctx (s.modEnergy f) := ⟨h.pt, h.marks, h.idle⟩
theorem State.KeepsCtx.setBlock {n x} (h : b.KeepsCtx ctx s) : b.KeepsCtx ctx (s.setBlock n x) := ⟨h.pt, h.marks, h.idle⟩
theorem State.KeepsCtx.setGraph {n x} (h : b.KeepsCtx ctx s) : b.KeepsCtx ctx (s.setGraph n x) := ⟨h.pt, h.marks, h.idle⟩
theorem State.KeepsCtx.modCond {n f} (h : b.KeepsCtx ctx s) : b.KeepsCtx ctx (s.modCond n f) := ⟨h.pt, h.marks, h.idle⟩

theorem State.KeepsCtx.homeWriteAll {n pa bs tag} (h : b.KeepsCtx ctx s) : b.KeepsCtx ctx (s.homeWriteAll n pa bs tag) := by
  obtain ⟨hctxs, -, hwork, htime⟩ := homeWriteAll_sameCtxs s n pa bs tag
  refine ⟨(congrArg TimeState.pt htime).trans h.pt, fun c hc => h.marks c ?_, fun hi => ?_⟩
  · rwa [State.ctxAt, ← hctxs]
  · rw [State.ctxRuns, hwork]
    exact h.idle hi

/-! Tile tasks. -/

theorem State.KeepsCtx.unreserve {c n} (h : b.KeepsCtx ctx s) : b.KeepsCtx ctx (s.unreserve c n) := by
  unfold State.unreserve
  exact h.modCtx

theorem State.KeepsCtx.endStrand {n} (h : b.KeepsCtx ctx s) : b.KeepsCtx ctx (s.endStrand n) := by
  unfold State.endStrand
  split
  · exact h
  · dsimp only
    split
    · exact h.setStrand.modCore
    · exact h.setStrand.modCore.unreserve.modCore

theorem State.KeepsCtx.killTt {n retry} (h : b.KeepsCtx ctx s) : b.KeepsCtx ctx (s.killTt n retry) := by
  unfold State.killTt
  split
  · exact h
  · exact (h.foldl fun _ _ h => h.endStrand).modCore.modTt

theorem State.KeepsCtx.discardSaved {n v} (h : b.KeepsCtx ctx s) : b.KeepsCtx ctx (s.discardSaved n v) := by
  unfold State.discardSaved State.deliverSaved
  exact h.modMem.modCtx.modWork

theorem State.KeepsCtx.dropSaved {p} (h : b.KeepsCtx ctx s) : b.KeepsCtx ctx (s.dropSaved p) := by
  refine h.foldl fun s x h => ?_
  split
  · exact .ite h (.ite h.modTt h.discardSaved)
  · exact h

/-! Launch blocks. -/

theorem State.KeepsCtx.killBlockTts {n} (h : b.KeepsCtx ctx s) : b.KeepsCtx ctx (s.killBlockTts n) := by
  unfold State.killBlockTts
  refine State.KeepsCtx.modWork (State.KeepsCtx.dropSaved (h.foldl fun s x h => ?_))
  split
  · exact .ite h.killTt.modTt h
  · exact h

theorem State.KeepsCtx.writeSpill {n i r} (h : b.KeepsCtx ctx s) : b.KeepsCtx ctx (s.writeSpill n i r) := by
  unfold State.writeSpill
  split
  · exact h
  · exact .ite h (.ite h.modCtx h.homeWriteAll)

theorem State.KeepsCtx.dropSpill {n p} (h : b.KeepsCtx ctx s) : b.KeepsCtx ctx (s.dropSpill n p) := by
  unfold State.dropSpill
  split
  · exact h
  · exact .ite h ((h.foldl fun _ _ h => h.writeSpill).modCtx)

theorem State.KeepsCtx.memberDone {n} (h : b.KeepsCtx ctx s) : b.KeepsCtx ctx (s.memberDone n) := by
  unfold State.memberDone
  split
  · exact .ite h.modTime h
  · exact h

theorem State.KeepsCtx.killBlocks {p} (h : b.KeepsCtx ctx s) : b.KeepsCtx ctx (s.killBlocks p) := by
  refine h.foldl fun s x h => ?_
  split
  · exact .ite h.killBlockTts.memberDone.dropSpill.setBlock h
  · exact h

/-! Tasks and graphs. -/

theorem State.KeepsCtx.stopTask {g t free} (h : b.KeepsCtx ctx s) : b.KeepsCtx ctx (s.stopTask g t free) := by
  have hdrop : b.KeepsCtx ctx ((s.killBlocks fun b => b.graph = g && b.task = t).dropSuccessors g t) :=
    h.killBlocks.foldl fun _ _ h => h.dropSpill
  unfold State.stopTask
  dsimp only
  split
  · exact .ite hdrop.modMem.modWork.modCond.modWork hdrop.modMem.modWork
  · exact hdrop.modMem.modWork

theorem State.KeepsCtx.leaveQ {g t} (h : b.KeepsCtx ctx s) : b.KeepsCtx ctx (s.leaveQ g t) := by
  unfold State.leaveQ
  split
  · exact .ite h.modEnergy h
  · exact h

theorem State.KeepsCtx.refillReady (h : b.KeepsCtx ctx s) : b.KeepsCtx ctx s.refillReady := by
  unfold State.refillReady
  split
  · exact .ite h.modWork h
  · exact h

theorem State.KeepsCtx.unlist {g t} (h : b.KeepsCtx ctx s) : b.KeepsCtx ctx (s.unlist g t) :=
  State.KeepsCtx.refillReady h.modWork

theorem State.KeepsCtx.removeGraph {g} (h : b.KeepsCtx ctx s) : b.KeepsCtx ctx (s.removeGraph g) := by
  refine State.KeepsCtx.setGraph (s := s.stopGraph g) ?_
  unfold State.stopGraph
  split
  · exact h
  · exact h.foldl fun _ _ h => h.leaveQ.stopTask.unlist

/-! The kill (R52, R315, R345). -/

/-- The work of a context that is killed ends: its graphs, blocks, saved and running tile tasks, tiles and buffers. -/
def State.workEnded (s : State) (ctx : Nat) : State :=
  let s := s.work.graphs.foldl (fun s x => if (x.2.map (·.ctx)) = some ctx then s.removeGraph x.1 else s) s
  let s := s.killBlocks fun b => b.ctx = ctx
  let s := s.dropSaved fun v => v.tt.ctx = ctx
  let s := s.work.tts.foldl (fun s x =>
    match x.2 with
    | some t => if t.ctx = ctx then s.killTt x.1 false else s
    | none => s) s
  s.modWork fun w => { w with
    trt := w.trt.filter fun e => e.ctx ≠ ctx
    bufs := w.bufs.filter fun e => e.ctx ≠ ctx }

theorem State.KeepsCtx.workEnded {n} (h : b.KeepsCtx ctx s) : b.KeepsCtx ctx (s.workEnded n) := by
  have hgraphs : b.KeepsCtx ctx
      (s.work.graphs.foldl (fun s x => if (x.2.map (·.ctx)) = some n then s.removeGraph x.1 else s) s) :=
    h.foldl fun _ _ h => .ite h.removeGraph h
  unfold State.workEnded
  refine State.KeepsCtx.modWork (hgraphs.killBlocks.dropSaved.foldl fun s x h => ?_)
  split
  · exact .ite h.killTt h
  · exact h

/-- A kill: the context is marked, its work ends, its KILLED bit is set and an event is sent; it leaves once nothing of it is left. -/
theorem killCtxWith_eq {c : Ctx} {cause : BitVec 8} {detail : Nat} (hc : s.ctxAt ctx = some c) (hk : c.killing = false) :
    s.killCtxWith ctx cause detail =
      ((((s.modCtx ctx fun c => { c with killing := true, spill := [], spillResv := 0 }).workEnded ctx).modHost
        fun h => { h with killed := h.killed ||| BitVec.ofNat 64 (2 ^ ctx) }).mEventWith cause ctx detail).reapCtx ctx := by
  simp only [State.killCtxWith, hc, hk, Bool.false_eq_true, if_false]
  rfl

theorem send_frame (s : State) (f : Nat → Message) : (s.send f).ctxs = s.ctxs ∧ (s.send f).work = s.work ∧
    (s.send f).host.killed = s.host.killed ∧ (s.send f).time = s.time := by
  unfold State.send
  split <;> exact ⟨rfl, rfl, rfl, rfl⟩

theorem mEventWith_frame (s : State) (cause : BitVec 8) (num detail : Nat) : (s.mEventWith cause num detail).ctxs = s.ctxs ∧
    (s.mEventWith cause num detail).work = s.work ∧ (s.mEventWith cause num detail).host.killed = s.host.killed ∧
    (s.mEventWith cause num detail).time.log = s.time.log ++ [.event cause num (s.pt 9) detail] := by
  obtain ⟨hctxs, hwork, hkilled, htime⟩ := send_frame
    (s.modTime fun t => { t with log := t.log ++ [.event cause num (s.pt 9) detail] }) fun a => .event a cause.toNat num (s.pt 9) detail
  exact ⟨hctxs, hwork, hkilled, congrArg TimeState.log htime⟩

theorem reapCtx_frame (s : State) (ctx : Nat) : (s.reapCtx ctx).host = s.host ∧ (s.reapCtx ctx).time = s.time ∧
    ∀ c, (s.reapCtx ctx).ctxAt ctx = some c → s.ctxAt ctx = some c := by
  unfold State.reapCtx
  split
  · next c hc =>
    split
    · exact ⟨rfl, rfl, fun c' h => absurd ((State.ctxAt_setCtx ..).symm.trans h) (by rw [if_pos rfl]; nofun)⟩
    · exact ⟨rfl, rfl, fun _ => id⟩
  · exact ⟨rfl, rfl, fun _ => id⟩

/-- The KILLED bit and the event of a kill (R343, R345). -/
theorem killNoted_frame (e : State) (n : Nat) (cause : BitVec 8) (detail : Nat) :
    let u := (e.modHost fun h => { h with killed := h.killed ||| BitVec.ofNat 64 (2 ^ n) }).mEventWith cause n detail
    u.ctxs = e.ctxs ∧ u.work = e.work ∧ u.host.killed = e.host.killed ||| BitVec.ofNat 64 (2 ^ n) ∧
      u.time.log = e.time.log ++ [.event cause n (e.pt 9) detail] :=
  mEventWith_frame (e.modHost fun h => { h with killed := h.killed ||| BitVec.ofNat 64 (2 ^ n) }) cause n detail

/-- A context being killed leaves once it has no tile task and no record to write. -/
theorem reapCtx_gone (hk : ∀ c, s.ctxAt ctx = some c → c.killing = true ∧ c.flogWait = []) (hi : s.ctxRuns ctx = false) :
    (s.reapCtx ctx).ctxAt ctx = none := by
  unfold State.reapCtx
  split
  · next c hc =>
    obtain ⟨hkill, hflog⟩ := hk c hc
    have hgo : (c.killing && decide (c.flogWait = []) && !(s.work.tts.any fun x => decide ((x.2.map (·.ctx)) = some ctx))) = true := by
      rw [hkill, hflog, show (s.work.tts.any fun x => decide ((x.2.map (·.ctx)) = some ctx)) = false from hi]
      rfl
    rw [if_pos hgo, State.ctxAt_setCtx, if_pos rfl]
  · assumption

theorem getLsbD_or_two_pow {x : W64} {n : Nat} (h : n < 64) : (x ||| BitVec.ofNat 64 (2 ^ n)).getLsbD n = true := by
  rw [BitVec.getLsbD_or, BitVec.getLsbD_ofNat, decide_eq_true h, Nat.testBit_two_pow_self, Bool.and_self, Bool.or_true]

/-- The management core's kill (R315): the KILLED bit, the event, the mark, and the end once nothing of the context is left. -/
theorem killCtx_leaves {c : Ctx} (cause : BitVec 8) (hn : ctx < 64) (hc : s.ctxAt ctx = some c) (hk : c.killing = false) :
    (s.killCtx ctx cause).host.killed.getLsbD ctx = true ∧
      (∃ d, .event cause ctx (s.pt 9) d ∈ (s.killCtx ctx cause).time.log) ∧
      (∀ c', (s.killCtx ctx cause).ctxAt ctx = some c' → c'.killing = true) ∧
      (s.ctxRuns ctx = false → c.flogWait = [] → (s.killCtx ctx cause).ctxAt ctx = none) := by
  set m := s.modCtx ctx fun c => { c with killing := true, spill := [], spillResv := 0 } with hm
  have hmark : m.ctxAt ctx = some { c with killing := true, spill := [], spillResv := 0 } := by
    rw [hm, State.modCtx, hc]
    exact (State.ctxAt_setCtx ..).trans (if_pos rfl)
  have hends : m.KeepsCtx ctx (m.workEnded ctx) := (State.KeepsCtx.refl ctx m).workEnded
  obtain ⟨d, hkilled⟩ : ∃ d, s.killCtx ctx cause = (((m.workEnded ctx).modHost
      fun h => { h with killed := h.killed ||| BitVec.ofNat 64 (2 ^ ctx) }).mEventWith cause ctx d).reapCtx ctx :=
    ⟨_, killCtxWith_eq hc hk⟩
  generalize m.workEnded ctx = e at hends hkilled
  obtain ⟨hctxs, hwork, hhost, hlog⟩ := killNoted_frame e ctx cause d
  set w := (e.modHost fun h => { h with killed := h.killed ||| BitVec.ofNat 64 (2 ^ ctx) }).mEventWith cause ctx d
  obtain ⟨hhost', htime', hctx'⟩ := reapCtx_frame w ctx
  have hpt : e.pt 9 = s.pt 9 := congrArg (tget 0 · 9) (hends.pt.trans (congrArg TimeState.pt (State.modCtx_time ..)))
  have hmarks : ∀ c', w.ctxAt ctx = some c' → c'.killing = true ∧ c'.flogWait = c.flogWait := by
    intro c' h
    obtain ⟨c2, hc2, hkill, hflog⟩ := hends.marks c' ((congrArg (tget none · ctx) hctxs).symm.trans h)
    cases hmark.symm.trans hc2
    exact ⟨hkill, hflog⟩
  rw [hkilled]
  refine ⟨?_, ⟨d, ?_⟩, fun c' h => (hmarks c' (hctx' c' h)).1, fun hi hf => ?_⟩
  · rw [hhost', hhost]
    exact getLsbD_or_two_pow hn
  · rw [htime', hlog, hpt]
    exact List.mem_append_right _ List.mem_cons_self
  · refine reapCtx_gone (fun c' h => ⟨(hmarks c' h).1, (hmarks c' h).2.trans hf⟩) ?_
    rw [State.ctxRuns, hwork]
    refine hends.idle ?_
    rw [State.ctxRuns, hm, State.modCtx_work]
    exact hi

end
end Sys2Proof.Machine
end

-- ==== Proofs: contexts that are parked (O48) ====
section
/-! PROOF. A context parked as a whole asks its tile tasks to park, and one unparked makes the saved ones due (R302, R315, R322). -/
namespace Sys2Proof.Machine

variable {s : State} {ctx n : Nat} {c : Ctx}

/-! Tile tasks that are asked to park. -/

theorem State.ttAt_modTt (s : State) (n m : Nat) (f : TileTask → TileTask) :
    (s.modTt n f).ttAt m = if m = n then (s.ttAt n).map f else s.ttAt m := by
  unfold State.modTt
  split
  · next t h => rw [State.ttAt_setTt, h]; rfl
  · next h =>
    split
    · next e => rw [e, h]; rfl
    · rfl

/-- A tile task that a park reaches at a PT, with its grace of 10 ms: one that fails or is being saved takes no note of it (R303, R322). -/
def TileTask.parkAsked (t : TileTask) (now : Nat) : TileTask :=
  if t.failing || t.saving then t else { t.ask .park (now + 10000000) with parking := true }

theorem ask_frame (t : TileTask) (r : Rank) (g : Nat) :
    (t.ask r g).core = t.core ∧ (t.ask r g).failing = t.failing ∧ (t.ask r g).saving = t.saving := by
  unfold TileTask.ask
  split_ifs
  · exact ⟨rfl, rfl, rfl⟩
  · exact ⟨rfl, rfl, rfl⟩
  · split <;> exact ⟨rfl, rfl, rfl⟩

theorem parkAsked_core (t : TileTask) (now : Nat) : (t.parkAsked now).core = t.core := by
  unfold TileTask.parkAsked
  split
  · rfl
  · exact (ask_frame ..).1

theorem parkAsked_of_busy {t : TileTask} {now : Nat} (h : (t.failing || t.saving) = true) : t.parkAsked now = t := if_pos h

theorem parkAsked_of_free {t : TileTask} {now : Nat} (h : (t.failing || t.saving) = false) :
    t.parkAsked now = { t.ask .park (now + 10000000) with parking := true } := if_neg (ne_true_of_eq_false h)

/-- The two steps of a park on a tile task that has not failed: the request, and the mark that it parks. -/
theorem parking_ask {t : TileTask} (hf : t.failing = false) (now : Nat) :
    (if (t.ask .park (now + 10000000)).saving || (t.ask .park (now + 10000000)).failing then t.ask .park (now + 10000000)
      else { t.ask .park (now + 10000000) with parking := true }) = t.parkAsked now := by
  obtain ⟨-, hf', hs'⟩ := ask_frame t .park (now + 10000000)
  rw [hf', hs', Bool.or_comm]
  cases hs : t.saving with
  | true =>
    rw [parkAsked_of_busy (by rw [hs, Bool.or_true]), Bool.or_true, if_pos rfl]
    simp only [TileTask.ask, hs, if_true, reduceCtorEq, if_false]
  | false => rw [parkAsked_of_free (by rw [hf, hs]; rfl), hf, Bool.or_self, if_neg Bool.false_ne_true]

/-- A second park at the same time changes nothing. -/
theorem parkAsked_twice (t : TileTask) (now : Nat) : (t.parkAsked now).parkAsked now = t.parkAsked now := by
  cases h : t.failing || t.saving with
  | true => rw [parkAsked_of_busy h, parkAsked_of_busy h]
  | false =>
    obtain ⟨-, hf, hs⟩ := ask_frame t .park (now + 10000000)
    have hs' : t.saving = false := (Bool.or_eq_false_iff.mp h).2
    rw [parkAsked_of_free h, parkAsked_of_free (by rw [← h, ← hf, ← hs])]
    simp only [TileTask.ask, hs', Bool.false_eq_true, if_false]
    cases t.request with
    | none => simp
    | some q =>
      obtain ⟨r, g⟩ := q
      cases r <;> simp [rankNum]

theorem parkAsked_new {t : TileTask} {now : Nat} (hf : t.failing = false) (hs : t.saving = false) (hr : t.request = none) :
    t.parkAsked now = { t with request := some (.park, now + 10000000), parking := true } := by
  rw [parkAsked_of_free (by rw [hf, hs]; rfl)]
  simp only [TileTask.ask, hs, hr, Bool.false_eq_true, if_false, reduceCtorEq, decide_false, Bool.or_false]

/-- A park reaches a tile task that has not failed. -/
theorem askTt_park {t : TileTask} (g : Nat) (h : s.ttAt n = some t) (hf : t.failing = false) :
    s.askTt .park g n = s.modTt n (·.ask .park (s.pt (dieOfCore t.core) + g)) := by
  simp only [State.askTt, h, hf, Bool.false_eq_true, if_false]

theorem askTt_park_failing {t : TileTask} (g : Nat) (h : s.ttAt n = some t) (hf : t.failing = true) : s.askTt .park g n = s := by
  simp only [State.askTt, h, hf, if_true]

theorem askTt_none (r : Rank) (g : Nat) (h : s.ttAt n = none) : s.askTt r g n = s := by
  simp only [State.askTt, h]

theorem parkTt_ttAt (s : State) (n m : Nat) : (s.parkTt n).ttAt m =
    if m = n then (s.ttAt n).map fun t => t.parkAsked (s.pt (dieOfCore t.core)) else s.ttAt m := by
  unfold State.parkTt
  cases ht : s.ttAt n with
  | none => rw [askTt_none _ _ ht, State.ttAt_modTt, ht]; rfl
  | some t =>
    cases hf : t.failing with
    | true =>
      rw [askTt_park_failing _ ht hf, State.ttAt_modTt, ht]
      simp only [Option.map_some, TileTask.parkAsked, hf, Bool.or_true, Bool.true_or, if_true]
    | false =>
      rw [askTt_park _ ht hf, State.ttAt_modTt, State.ttAt_modTt, State.ttAt_modTt, if_pos rfl, ht]
      by_cases hm : m = n
      · rw [if_pos hm, if_pos hm]
        exact congrArg some (parking_ask hf _)
      · rw [if_neg hm, if_neg hm, if_neg hm]

theorem parkTt_frame (s : State) (n : Nat) : (s.parkTt n).time = s.time ∧ (s.parkTt n).ctxs = s.ctxs ∧ (s.parkTt n).mem = s.mem := by
  have hask : ∃ f, s.askTt .park 10000000 n = s ∨ s.askTt .park 10000000 n = s.modTt n f := by
    cases ht : s.ttAt n with
    | none => exact ⟨id, .inl (askTt_none _ _ ht)⟩
    | some t =>
      cases hf : t.failing with
      | true => exact ⟨id, .inl (askTt_park_failing _ ht hf)⟩
      | false => exact ⟨_, .inr (askTt_park _ ht hf)⟩
  unfold State.parkTt
  obtain ⟨f, h | h⟩ := hask
  · rw [h]
    exact ⟨State.modTt_time .., State.modTt_ctxs .., State.modTt_mem ..⟩
  · rw [h]
    exact ⟨(State.modTt_time ..).trans (State.modTt_time ..), (State.modTt_ctxs ..).trans (State.modTt_ctxs ..),
      (State.modTt_mem ..).trans (State.modTt_mem ..)⟩

/-- Every tile task of a list is asked to park; one that the list names twice is asked as once. -/
theorem parkTt_foldl (l : List Nat) (s : State) :
    let u := l.foldl (fun s n => s.parkTt n) s
    u.time = s.time ∧ u.ctxs = s.ctxs ∧ u.mem = s.mem ∧
      ∀ m, u.ttAt m = if m ∈ l then (s.ttAt m).map fun t => t.parkAsked (s.pt (dieOfCore t.core)) else s.ttAt m := by
  induction l generalizing s with
  | nil => exact ⟨rfl, rfl, rfl, fun _ => rfl⟩
  | cons n l ih =>
    obtain ⟨htime, hctxs, hmem⟩ := parkTt_frame s n
    obtain ⟨htime', hctxs', hmem', hat'⟩ := ih (s.parkTt n)
    have hpt : ∀ d, (s.parkTt n).pt d = s.pt d := fun d => congrArg (fun t : TimeState => tget 0 t.pt d) htime
    refine ⟨htime'.trans htime, hctxs'.trans hctxs, hmem'.trans hmem, fun m => ?_⟩
    rw [List.foldl_cons, hat', parkTt_ttAt]
    simp only [hpt]
    by_cases hm : m = n
    · subst hm
      simp [Function.comp_def, parkAsked_core, parkAsked_twice]
    · simp [hm]

/-! A context parked as a whole (R315, R322). -/

/-- The context is marked parked, its tile tasks are asked to park, and its blocks leave their frames. -/
def State.parkedWhole (s : State) (ctx : Nat) : State :=
  let s := s.modCtx ctx fun c => { c with parked := true }
  ((s.targets (.context ctx)).foldl (fun s n => s.parkTt n) s).leaveFrames fun b => b.ctx = ctx

theorem contextPark_next (hc : s.ctxAt ctx = some c) (hp : c.parked = false) : exec (.contextPark ctx) s = .next (
    if s.gradeParks ctx && !s.ctxRuns ctx && c.escrow.isNone then s.escrow ctx c
    else if (s.parkedWhole ctx).ctxRuns ctx || c.escrow.isSome then s.parkedWhole ctx else (s.parkedWhole ctx).escrow ctx c) := by
  change execContextPark ctx s = _
  simp only [execContextPark, hc, hp, Bool.not_false, Bool.true_and, Bool.false_eq_true, if_false]
  rfl

theorem ctxAt_modCtx_same (hc : s.ctxAt ctx = some c) (f : Ctx → Ctx) : (s.modCtx ctx f).ctxAt ctx = some (f c) := by
  rw [State.modCtx, hc]
  exact (State.ctxAt_setCtx ..).trans (if_pos rfl)

/-- The tile tasks of the context that have not failed are asked, and no other. -/
theorem parkedWhole_frame (s : State) (ctx : Nat) : (s.parkedWhole ctx).mem = s.mem ∧
    (s.parkedWhole ctx).ctxs = (s.modCtx ctx fun c => { c with parked := true }).ctxs ∧
    ∀ m, (s.parkedWhole ctx).ttAt m = if m ∈ (s.modCtx ctx fun c => { c with parked := true }).targets (.context ctx)
      then (s.ttAt m).map fun t => t.parkAsked (s.pt (dieOfCore t.core)) else s.ttAt m := by
  set v := s.modCtx ctx fun c => { c with parked := true } with hv
  obtain ⟨-, hctxs, hmem, hat⟩ := parkTt_foldl (v.targets (.context ctx)) v
  have htts : ∀ m, v.ttAt m = s.ttAt m := fun m => congrArg (fun w : WorkState => tget none w.tts m) (State.modCtx_work ..)
  have hpt : ∀ d, v.pt d = s.pt d := fun d => congrArg (fun t : TimeState => tget 0 t.pt d) (State.modCtx_time ..)
  simp only [htts, hpt] at hat
  exact ⟨hmem.trans (State.modCtx_mem ..), hctxs, hat⟩

theorem mem_targets_context {v : State} {t : TileTask} (h : v.ttAt n = some t) (ht : t.ctx = ctx) (hf : t.failing = false) :
    n ∈ v.targets (.context ctx) := by
  refine List.mem_filterMap.mpr ⟨(n, some t), mem_of_tget h nofun, ?_⟩
  simp only [State.names, ht, hf, decide_true, Bool.not_false, Bool.and_self, if_true]

theorem ctxRuns_of_ttAt {v : State} {t : TileTask} (h : v.ttAt n = some t) (ht : t.ctx = ctx) : v.ctxRuns ctx = true := by
  by_contra hno
  exact ctxRuns_eq_false.mp (Bool.eq_false_of_not_eq_true hno) _ (mem_of_tget h nofun) t rfl ht

/-- A context without tile tasks has none to ask. -/
theorem targets_context_nil {v : State} (h : v.ctxRuns ctx = false) : v.targets (.context ctx) = [] := by
  refine List.filterMap_eq_nil_iff.mpr fun x hx => ?_
  have hno := ctxRuns_eq_false.mp h x hx
  split
  · next y hy => simp only [State.names, hno y hy, decide_false, Bool.false_and, Bool.false_eq_true, if_false]
  · rfl

theorem parkedWhole_idle (h : s.ctxRuns ctx = false) : (s.parkedWhole ctx).ctxRuns ctx = false := by
  have hv : (s.modCtx ctx fun c => { c with parked := true }).ctxRuns ctx = false := by rwa [State.ctxRuns, State.modCtx_work]
  unfold State.parkedWhole
  dsimp only
  rw [targets_context_nil hv]
  exact hv

/-- A context with no page to move has its pages in escrow at once (R322). -/
theorem escrow_empty {v : State} {c' : Ctx} (hv : v.mem = s.mem) (hl : s.parkLeaves c = []) (hc : v.ctxAt ctx = some c') :
    (v.escrow ctx c).mem.bytes = s.mem.bytes ∧ (v.escrow ctx c).ctxAt ctx = some { c' with escrow := some [] } := by
  have hl' : v.parkLeaves c = [] := by rwa [State.parkLeaves, hv]
  simp only [State.escrow, hl', State.relocateAll, List.map_nil]
  refine ⟨?_, ctxAt_modCtx_same hc fun c => { c with escrow := some [] }⟩
  exact congrArg MemState.bytes ((State.modCtx_mem ..).trans hv)

/-- A context of which nothing runs, and no page need move, is parked with its pages in escrow; where the grade parks it it takes no mark
of its own. -/
theorem contextPark_idle (hc : s.ctxAt ctx = some c) (hp : c.parked = false) (hi : s.ctxRuns ctx = false) (he : c.escrow = none)
    (hl : s.parkLeaves c = []) : ∃ u, exec (.contextPark ctx) s = .next u ∧ u.mem.bytes = s.mem.bytes ∧
      u.ctxAt ctx = some { c with parked := !s.gradeParks ctx, escrow := some [] } := by
  refine ⟨_, contextPark_next hc hp, ?_⟩
  rw [hi, he, Option.isNone_none, Option.isSome_none, parkedWhole_idle hi, Bool.not_false, Bool.and_true, Bool.and_true, Bool.or_self]
  cases hg : s.gradeParks ctx with
  | true =>
    rw [if_pos rfl]
    obtain ⟨hbytes, hctx⟩ := escrow_empty (v := s) rfl hl hc
    exact ⟨hbytes, hctx.trans (by rw [hp, Bool.not_true])⟩
  | false =>
    obtain ⟨hmem, hctxs, -⟩ := parkedWhole_frame s ctx
    have hmark : (s.parkedWhole ctx).ctxAt ctx = some { c with parked := true } :=
      (congrArg (tget none · ctx) hctxs).trans (ctxAt_modCtx_same hc fun c => { c with parked := true })
    exact escrow_empty hmem hl hmark

/-- A context of which a tile task runs is marked parked, and the tile task is asked. -/
theorem contextPark_running {t : TileTask} (hc : s.ctxAt ctx = some c) (hp : c.parked = false) (ht : s.ttAt n = some t)
    (hctx : t.ctx = ctx) (hf : t.failing = false) (hs : t.saving = false) (hr : t.request = none) : ∃ u, exec (.contextPark ctx) s = .next u ∧
      u.ctxAt ctx = some { c with parked := true } ∧
      u.ttAt n = some { t with request := some (.park, s.pt (dieOfCore t.core) + 10000000), parking := true } ∧ u.mem = s.mem := by
  obtain ⟨hmem, hctxs, hat⟩ := parkedWhole_frame s ctx
  have htv : (s.modCtx ctx fun c => { c with parked := true }).ttAt n = some t :=
    (congrArg (fun w : WorkState => tget none w.tts n) (State.modCtx_work ..)).trans ht
  have hasked := hat n
  rw [if_pos (mem_targets_context htv hctx hf), ht, Option.map_some, parkAsked_new hf hs hr] at hasked
  have hnext := contextPark_next hc hp
  rw [ctxRuns_of_ttAt ht hctx, ctxRuns_of_ttAt hasked hctx, Bool.not_true, Bool.and_false, Bool.false_and, if_neg Bool.false_ne_true,
    Bool.true_or, if_pos rfl] at hnext
  exact ⟨_, hnext, (congrArg (tget none · ctx) hctxs).trans (ctxAt_modCtx_same hc fun c => { c with parked := true }), hasked, hmem⟩

/-! A context unparked (R302, R322). -/

/-- The unparked tasks change the records of tasks and the headroom at most. -/
theorem unparkTasks_frame (s : State) : ∃ g q, s.unparkTasks =
    (s.modWork fun w => { w with graphs := g }).modEnergy fun e => { e with headroom := q } := by
  unfold State.unparkTasks
  generalize s.ranked (·.parked) = l
  induction l generalizing s with
  | nil => exact ⟨_, _, rfl⟩
  | cons x l ih =>
    rw [List.foldl_cons]
    split
    · split
      · exact ih s
      · next y t hy _ _ =>
        obtain ⟨g, q, h⟩ := ih ((s.modTask x.1 x.2 fun t => { t with parked := false }).modEnergy
          fun e => { e with headroom := e.headroom - s.est x.1 x.2 t.entry })
        refine ⟨g, q, h.trans ?_⟩
        simp only [State.modTask, State.modGraph, hy]
        rfl
    · exact ih s

theorem unparkTasks_leaves (s : State) : s.unparkTasks.mem = s.mem ∧ s.unparkTasks.ctxs = s.ctxs ∧
    s.unparkTasks.work.blocks = s.work.blocks ∧ s.unparkTasks.work.saved = s.work.saved ∧ s.unparkTasks.energy.grade = s.energy.grade := by
  obtain ⟨g, q, h⟩ := unparkTasks_frame s
  rw [h]
  exact ⟨rfl, rfl, rfl, rfl, rfl⟩

/-- Blocks that join a frame again change in nothing else. -/
theorem rejoinFrames_frame (s : State) (t : Nat) (p : Block → Bool) :
    ∃ l, s.rejoinFrames t p = s.modWork fun w => { w with blocks := l } := by
  unfold State.rejoinFrames
  generalize s.work.blocks = l
  induction l generalizing s with
  | nil => exact ⟨_, rfl⟩
  | cons x l ih =>
    rw [List.foldl_cons]
    split
    · split
      · have hjoin : ∃ l, s.joinFrame x.1 t = s.modWork fun w => { w with blocks := l } := by
          unfold State.joinFrame
          split
          · split <;> exact ⟨_, rfl⟩
          · exact ⟨_, rfl⟩
        obtain ⟨l1, h1⟩ := hjoin
        obtain ⟨l2, h2⟩ := ih (s.joinFrame x.1 t)
        exact ⟨l2, by rw [h2, h1]; rfl⟩
      · exact ih s
    · exact ih s

theorem rejoinFrames_leaves (s : State) (t : Nat) (p : Block → Bool) : (s.rejoinFrames t p).mem = s.mem ∧
    (s.rejoinFrames t p).ctxs = s.ctxs ∧ (s.rejoinFrames t p).work.saved = s.work.saved := by
  obtain ⟨l, h⟩ := rejoinFrames_frame s t p
  rw [h]
  exact ⟨rfl, rfl, rfl⟩

/-- A table whose every value a function changes that leaves the default. -/
theorem tget_map {α : Type} {z : α} (f : α → α) (hz : f z = z) (t : Tab α) (n : Nat) :
    tget z (t.map fun x => (x.1, f x.2)) n = f (tget z t n) := by
  induction t with
  | nil => exact hz.symm
  | cons x t ih =>
    rw [List.map_cons, tget_cons, ih, tget_cons]
    split <;> rfl

/-- A saved tile task is due when it is parked, and neither its unit nor its pages are. -/
theorem makeDue_saved {p : Saved → Bool} {v : Saved} {b : Block} (hv : tget none s.work.saved n = some v) (hp : p v = true)
    (hk : v.park = true) (hb : s.blockAt v.tt.block = some b) (hu : s.unitParked b.ctx b.graph b.task = false)
    (he : s.escrowed b.ctx = false) : tget none (s.makeDue p).work.saved n = some { v with due := true } := by
  refine (tget_map _ rfl s.work.saved n).trans ?_
  rw [hv, Option.map_some]
  simp only [hk, hp, hb, hu, he, Bool.not_false, Bool.and_self, if_true]

theorem contextUnpark_none (hc : s.ctxAt ctx = some c) (hp : c.parked = false) (he : c.escrow = none) :
    exec (.contextUnpark ctx) s = .next s := by
  change execContextUnpark ctx s = _
  simp only [execContextUnpark, hc, hp, he, Option.isNone_none, Bool.not_false, Bool.and_self, if_true]

/-- A context that the grade keeps parked loses the mark of its own only. -/
theorem contextUnpark_graded (hc : s.ctxAt ctx = some c) (hp : c.parked = true) (hg : s.gradeParks ctx = true) :
    exec (.contextUnpark ctx) s = .next (s.modCtx ctx fun c => { c with parked := false }) := by
  change execContextUnpark ctx s = _
  simp only [execContextUnpark, hc, hp, hg, Bool.not_true, Bool.false_and, Bool.false_eq_true, if_false, if_true]

theorem contextUnpark_next (hc : s.ctxAt ctx = some c) (hp : c.parked = true) (he : c.escrow = none) (hg : s.gradeParks ctx = false) :
    exec (.contextUnpark ctx) s = .next (
      let v := s.modCtx ctx fun c => { c with parked := false }
      let w := v.unparkTasks.makeDue fun x => x.tt.ctx = ctx
      w.rejoinFrames (v.pt cd) fun b => b.ctx = ctx && !w.unitParked b.ctx b.graph b.task) := by
  change execContextUnpark ctx s = _
  simp only [execContextUnpark, hc, hp, hg, State.fetchBack, Option.bind_some, he, Bool.not_true, Bool.false_and, Bool.false_eq_true,
    if_false]

/-- A context unparked whose pages have not moved: it is marked parked no longer, and what it has saved is due, unless the grade
parks it. -/
theorem contextUnpark_leaves (hc : s.ctxAt ctx = some c) (hp : c.parked = true) (he : c.escrow = none) :
    ∃ u, exec (.contextUnpark ctx) s = .next u ∧ u.ctxAt ctx = some { c with parked := false } ∧ u.mem = s.mem ∧
      ∀ n v b, tget none s.work.saved n = some v → v.tt.ctx = ctx → v.park = true → s.energy.grade < 2 →
        s.blockAt v.tt.block = some b → b.ctx = ctx → tget none u.work.saved n = some { v with due := true } := by
  have hmark := ctxAt_modCtx_same hc fun c => { c with parked := false }
  cases hg : s.gradeParks ctx with
  | true =>
    refine ⟨_, contextUnpark_graded hc hp hg, hmark, State.modCtx_mem .., fun n v b _ _ _ hlow _ _ => ?_⟩
    have hhigh : 2 ≤ s.energy.grade := by
      simp only [State.gradeParks, Bool.and_eq_true, decide_eq_true_eq] at hg
      exact hg.1.1
    exact absurd hlow (Nat.not_lt.mpr hhigh)
  | false =>
    have hnext := contextUnpark_next hc hp he hg
    set v := s.modCtx ctx fun c => { c with parked := false } with hv
    obtain ⟨hmem, hctxs, hblocks, hsaved, hgrade⟩ := unparkTasks_leaves v
    rw [hv, State.modCtx_mem] at hmem
    rw [hv, State.modCtx_work] at hblocks hsaved
    rw [hv, State.modCtx_energy] at hgrade
    have hctx : v.unparkTasks.ctxAt ctx = some { c with parked := false } := (congrArg (tget none · ctx) hctxs).trans hmark
    dsimp only at hnext
    generalize v.unparkTasks = y at *
    obtain ⟨hmem', hctxs', hsaved'⟩ := rejoinFrames_leaves (y.makeDue fun x => x.tt.ctx = ctx) (v.pt cd) fun b =>
      b.ctx = ctx && !(y.makeDue fun x => x.tt.ctx = ctx).unitParked b.ctx b.graph b.task
    refine ⟨_, hnext, (congrArg (tget none · ctx) hctxs').trans hctx, hmem'.trans hmem, fun n x b hx hxc hpark hlow hb hbc => ?_⟩
    refine (congrArg (tget none · n) hsaved').trans (makeDue_saved (b := b) ?_ (decide_eq_true hxc) hpark ?_ ?_ ?_)
    · rw [hsaved, hx]
    · rw [State.blockAt, hblocks]
      exact hb
    · rw [State.unitParked, hbc, hctx, hgrade, decide_eq_false (Nat.not_le.mpr hlow), Bool.false_and, Bool.or_false]
      rfl
    · rw [State.escrowed, hbc, hctx, Option.bind_some, he]
      rfl

end Sys2Proof.Machine
end

-- ==== Proofs: the statement about contexts (O48) ====
section
namespace Sys2Proof.Machine

/-- The clause of O48 on a context that is created: its registers, and the header of its area. -/
theorem contextCreate_leaves {s : State} {ctx : Nat} {x : CtxInit} (hm : s.mayCreate ctx x = true) (hr : s.reachesAll 9 x.area 4096 = true)
    (hd : s.mem.discards x.area = false) : ∃ u c, exec (.contextCreate ctx x) s = .next u ∧
      u.ctxAt ctx = some c ∧ c.privileged = x.privileged ∧ c.debuggable = x.debuggable ∧ c.root0 = x.root0 ∧
      c.ceiling = x.ceiling ∧ c.limit = 0 ∧ c.commit = 0 ∧ c.heapSize = x.heapSize ∧ c.flogCap = x.flogCap ∧
      tget 0 u.mem.areas ctx = BitVec.ofNat 64 x.area ∧ (∀ k, k ≠ ctx → u.ctxAt k = s.ctxAt k) ∧
      ∀ off n, off + n ≤ 4096 → leNat ((List.range n).map fun k => u.mem.byteAt (x.area + off + k)) = recF (areaHeader x) off n := by
  obtain ⟨v, c, hnext, hframes, hcxl, hareas, hctxs, hregs⟩ := contextCreate_next hm hr
  have hsame := homeWriteAll_sameCtxs v ctx x.area (whole (areaHeader x)) false
  have hat : ∀ k, (v.homeWriteAll ctx x.area (whole (areaHeader x)) false).ctxAt k = if k = ctx then some c else s.ctxAt k :=
    fun k => (congrArg (tget none · k) hsame.ctxs).trans (hctxs k)
  have hdv : v.mem.discards x.area = false := by rwa [MemState.discards, hframes, hcxl]
  obtain ⟨hpriv, hdbg, hroot, hceil, hlimit, hcommit, hheap, hcap⟩ := hregs
  exact ⟨_, c, hnext, (hat ctx).trans (if_pos rfl), hpriv, hdbg, hroot, hceil, hlimit, hcommit, hheap, hcap,
    (congrArg (tget 0 · ctx) hsame.areas).trans hareas, fun k hk => (hat k).trans (if_neg hk),
    fun off n hn => header_written (mayCreate_area hm) hdv hn⟩

/-- Settles O48: creation, the drain, the kill, the park and the unpark. -/
theorem contexts : Obligations.Contexts := by
  unfold Obligations.Contexts
  refine fun s ctx x count => ⟨fun _ hr => contextCreate_not (.inr hr), fun hm hr hd => ?_,
    fun hst hw => contextCreate_not (.inl (mayCreate_unset hst hw)), fun h => contextCreate_not (.inl (mayCreate_taken h)), ?_,
    fun c hn hc hk => ?_, fun c hc => ⟨fun hk => ?_, fun hp hi he hl => ?_, fun hp n t ht hctx hf hs hr => ?_,
      contextUnpark_none hc, contextUnpark_leaves hc⟩⟩
  · obtain ⟨u, c, hnext, hctx, hpriv, hdbg, hroot, hceil, hlimit, hcommit, hheap, hcap, harea, hothers, hfield⟩ :=
      contextCreate_leaves hm hr hd
    obtain ⟨h0, h8, h10, h14, h18, h20, h24, h28, h30⟩ := areaHeader_fields x
    refine ⟨u, c, hnext, hctx, hpriv, hdbg, hroot, hceil, hlimit, hcommit, hheap, hcap, harea, hothers, ?_⟩
    exact ⟨(hfield 0 4 (by decide)).trans h0, (hfield 8 8 (by decide)).trans h8, (hfield 0x10 4 (by decide)).trans h10,
      (hfield 0x14 4 (by decide)).trans h14, (hfield 0x18 8 (by decide)).trans h18, (hfield 0x20 4 (by decide)).trans h20,
      (hfield 0x24 4 (by decide)).trans h24, (hfield 0x28 8 (by decide)).trans h28, (hfield 0x30 8 (by decide)).trans h30⟩
  · intro a held hc hr _ hd
    have hheld : min count (held s.mem) < 2 ^ 32 := (min_le_right ..).trans_lt (leNat_lt_two_pow (by simp))
    exact ⟨_, faultLogDrain_next hc hr, homeWrite_four s ctx a _ hheld hd⟩
  · obtain ⟨hkilled, ⟨d, hlog⟩, hmarked, hgone⟩ := killCtx_leaves (BitVec.ofNat 8 Config.killCause) hn hc hk
    exact ⟨_, d, rfl, hkilled, hlog, hmarked, fun hi => hgone (ctxRuns_eq_false.mpr hi)⟩
  · change Host.Outcome.next (s.killCtx ctx _) = _
    simp only [State.killCtx, State.killCtxWith, hc, hk, if_true]
  · obtain ⟨u, hnext, hbytes, hctx⟩ := contextPark_idle hc hp (ctxRuns_eq_false.mpr hi) he hl
    exact ⟨u, hnext, hbytes, hctx⟩
  · exact contextPark_running hc hp ht hctx hf hs hr

end Sys2Proof.Machine
end

-- ==== Proofs: the strand that acts ====
section
/-! PROOF. A strand that acts is read and changed by its number (R20, R159), and the guards before a word's effect leave the word alone when
what they ask for is there (R98, R103, R166). -/
namespace Sys2Proof.Machine

variable {s : State} {n : Nat} {st : Strand}

/-- Strand n acts and stands as given, in or outside a group. -/
structure State.RunsAs (s : State) (n : Nat) (st : Strand) : Prop where
  cur : s.cur = .strand n
  here : s.strandAt n = some st

theorem State.acts.runsAs (h : s.acts n st) : s.RunsAs n st := ⟨h.1, h.2.1⟩

section
variable (h : s.RunsAs n st)
include h

theorem State.RunsAs.me : s.me = st := by simp only [State.me, h.cur, h.here, Option.getD_some]
theorem State.RunsAs.myNum : s.myNum = n := by simp only [State.myNum, h.cur]
theorem State.RunsAs.myCore : s.myCore = coreOfStrand n := by rw [State.myCore, h.myNum]
theorem State.RunsAs.myDie : s.myDie = dieOfCore (coreOfStrand n) := by simp only [State.myDie, h.cur]
theorem State.RunsAs.conducting : s.conducting = false := by simp only [State.conducting, h.cur]

theorem State.RunsAs.modStrand (f : Strand → Strand) : s.modStrand n f = s.setStrand n (some (f st)) := by
  simp only [State.modStrand, h.here]

theorem State.RunsAs.modMe (f : Strand → Strand) : s.modMe f = s.setStrand n (some (f st)) := by
  simp only [State.modMe, h.cur, h.modStrand]

theorem State.RunsAs.setG (d : GReg) (v : W64) (tag : Bool) : s.setG d v tag = s.setStrand n (some (st.setG d v tag)) := by
  rw [State.setG_of_strand h.cur, h.modStrand]

theorem State.RunsAs.setStrand (x : Strand) : (s.setStrand n (some x)).RunsAs n x :=
  ⟨h.cur, (State.strandAt_setStrand ..).trans (if_pos rfl)⟩

theorem State.RunsAs.outsideTxn (ht : st.txn = none) (k : State) : s.outsideTxn k = k := by
  rw [State.outsideTxn, h.me, ht]
  rfl

theorem State.RunsAs.insideTxn {x : Txn} (ht : st.txn = some x) (k : Txn → State) : s.insideTxn k = k x := by
  simp only [State.insideTxn, h.me, ht]

theorem State.RunsAs.settleRels_nil (hr : st.rels = []) : s.settleRels n = s := by
  simp only [State.settleRels, h.here, hr]

theorem State.RunsAs.afterRels (hr : st.rels = []) (k : State) : s.afterRels k = k := by
  rw [State.afterRels, h.myNum, h.settleRels_nil hr, h.me, if_pos hr]

end

/-- The strand put in place, whatever verdict is given. -/
theorem State.strandAt_setStrand_same (s : State) (n : Nat) (x : Option Strand) (v : Verdict) :
    State.strandAt { s.setStrand n x with verdict := v } n = x := (State.strandAt_setStrand s n n x).trans (if_pos rfl)

theorem State.whenReady_produced {rs : List GReg} (h : s.produced rs) (k : State) : s.whenReady rs k = k := by
  rw [State.whenReady, if_neg]
  simpa using h

theorem State.clean_clear {rs : List GReg} (h : s.clear rs) (ign k : State) : s.clean rs ign k = k := by
  rw [State.clean, List.find?_eq_none.mpr fun r hr => by simp [h r hr]]

/-- A value put twice at a key of a table is the later one. -/
theorem tput_tput {α : Type} (t : Tab α) (n : Nat) (x y : α) : tput (tput t n x) n y = tput t n y := by
  induction t with
  | nil => simp [tput]
  | cons z t ih =>
    obtain ⟨k, v⟩ := z
    simp only [tput]
    split_ifs with h1 h2
    · simp [tput, h1]
    · simp [tput]
    · simp only [tput, if_neg h1, if_neg h2, ih]

theorem State.setStrand_setStrand (s : State) (n : Nat) (x y : Strand) :
    (s.setStrand n (some x)).setStrand n (some y) = s.setStrand n (some y) := by
  have h : tset none (tset none s.strands n (some x)) n (some y) = tset none s.strands n (some y) := by
    rw [tset, if_neg (Option.some_ne_none y), tset, if_neg (Option.some_ne_none x), tset, if_neg (Option.some_ne_none y), tput_tput]
  rw [State.setStrand, State.setStrand_strands, h]
  rfl

/-- One strand put in place, and a verdict given, change that strand only. -/
theorem State.onlyStrand_setStrand (s : State) (n : Nat) (x : Option Strand) (v : Verdict) :
    s.onlyStrand { s.setStrand n x with verdict := v } n :=
  ⟨rfl, fun m hm => (State.strandAt_setStrand s n m x).trans (if_neg hm), fun _ => rfl⟩

end Sys2Proof.Machine
end

-- ==== Proofs: transactions as scalar words (O7) ====
section
/-! PROOF. TXB, TXE, TXA and TXS (R101, R102, R194-R196): each changes the strand that acts, and nothing else. -/
namespace Sys2Proof.Machine

variable {s : State} {n : Nat} {st : Strand} {x : Txn}

/-- The abort target: the word's own address and four times the offset, modulo 2^64. -/
theorem target_eq (s : State) (off : BitVec 24) : s.target off = BitVec.ofInt 64 (s.slot.addr.toNat + 4 * off.toInt) := by
  have h4 : BitVec.ofInt 64 off.toInt <<< 2 = BitVec.ofInt 64 (4 * off.toInt) := by
    rw [BitVec.shiftLeft_eq_mul_twoPow, BitVec.ofInt_mul, BitVec.mul_comm]
    rfl
  rw [BitVec.ofInt_add, ← h4, BitVec.ofInt_natCast, BitVec.ofNat_toNat, BitVec.setWidth_eq]
  rfl

/-- A transaction whose commit has not succeeded aborts (R102). -/
theorem Strand.abortTxn_open (ht : st.txn = some x) (hp : x.phase ≠ 2) (code : BitVec 8) :
    st.abortTxn code = { st with txn := none, txsCode := code } := by
  simp only [Strand.abortTxn, ht, if_neg hp]

theorem State.RunsAs.txnFail_target (h : s.RunsAs n st) (ht : st.txn = some x) (hp : x.phase ≠ 2) {a : W64} (ha : x.target = some a)
    (code : BitVec 8) : s.txnFail code = (s.setStrand n (some { st with txn := none, txsCode := code })).goTo a := by
  simp only [State.txnFail, h.me, ht, ha, h.modMe, Strand.abortTxn_open ht hp]

theorem State.RunsAs.txnFail_forced (h : s.RunsAs n st) (ht : st.txn = some x) (hp : x.phase ≠ 2) (ha : x.target = none)
    (hd : s.slot.defer = true) (code : BitVec 8) : s.txnFail code =
      let r : Rec := { Rec.zero with ei0 := BitVec.ofNat 64 (code.toNat * 2 ^ 16) }
      { s.setStrand n (some { st with txn := none, txsCode := code }) with verdict := .trapped .txnAbortForced r } := by
  simp only [State.txnFail, h.me, ht, ha, h.modMe, Strand.abortTxn_open ht hp]
  exact State.trap_defer (s := s.setStrand n _) hd _ _

theorem txb_next (h : s.RunsAs n st) (ht : st.txn = none) (off : BitVec 24) : exec (.txb off) s = .next (s.setStrand n (some { st with
    txn := some ⟨if off = 0 then none else some (s.target off), 0, [], [], [], []⟩ })).issued := by
  change execTxb off s = _
  rw [execTxb, h.outsideTxn ht, h.modMe]

theorem txe_committed (h : s.RunsAs n st) (ht : st.txn = some x) (hp : x.phase = 2) :
    exec .txe s = .next (s.setStrand n (some { st with txn := none, txsCode := 0 })).issued := by
  change execTxe s = _
  simp [execTxe, h.insideTxn ht, hp, h.modMe]

theorem txe_begins (h : s.RunsAs n st) (ht : st.txn = some x) (hp : x.phase = 0) :
    exec .txe s = .next (s.setStrand n (some { st with txn := some { x with phase := 1 } })).holds := by
  change execTxe s = _
  simp [execTxe, h.insideTxn ht, hp, h.modMe]

/-- TXA records its code and aborts with code 4. -/
theorem txa_next (h : s.RunsAs n st) (ht : st.txn = some x) (code : BitVec 8) :
    exec (.txa code) s = .next ((s.setStrand n (some { st with txsTxa := code })).txnFail 4) := by
  change execTxa code s = _
  rw [execTxa, h.insideTxn ht, h.modMe]

/-- Settles O7: one word after another, each by the state of the transaction. -/
theorem transactions : Obligations.Transactions := by
  unfold Obligations.Transactions
  intro s n st off code d ha
  have h := ha.runsAs
  have h' := h.setStrand { st with txsTxa := code }
  refine ⟨fun ht => ?_, fun x ht hp => ?_, fun x a ht hx hp => ?_, fun x ht hp => ?_, fun x ht hx hp hd => ?_, ?_⟩
  · refine ⟨_, _, txb_next h ht off, rfl, s.onlyStrand_setStrand .., s.strandAt_setStrand_same .., ?_, ?_⟩
    · rw [← ht]
    · rw [target_eq]
  · exact ⟨_, txe_committed h ht hp, rfl, s.onlyStrand_setStrand .., s.strandAt_setStrand_same ..⟩
  · refine ⟨_, txa_next h ht code, ?_⟩
    rw [h'.txnFail_target ht hp hx, State.setStrand_setStrand]
    exact ⟨rfl, s.onlyStrand_setStrand .., s.strandAt_setStrand_same ..⟩
  · exact ⟨_, txe_begins h ht hp, rfl, s.onlyStrand_setStrand .., s.strandAt_setStrand_same ..⟩
  · refine ⟨_, txa_next h ht code, ?_⟩
    rw [h'.txnFail_forced ht hp hx hd, State.setStrand_setStrand]
    exact ⟨rfl, s.onlyStrand_setStrand .., s.strandAt_setStrand_same ..⟩
  · change execTxs d s = _
    rw [execTxs, ha.readStrand, Strand.txs, Nat.mul_comm st.txsTxa.toNat]
    rfl

end Sys2Proof.Machine
end

-- ==== Proofs: ordering words, safe points, EXIT and WAITPT (O9) ====
section
/-! PROOF. What the RELs of a strand leave when they are looked at (R98), and with that the words of a strand that order, stop or end it
(R93, R97, R98, R183, R184, R202). -/
namespace Sys2Proof.Machine

variable {s : State} {n : Nat} {st : Strand}

/-! RELs (R98). -/

/-- Dirty lines written back change the marks of the L2 slices and of the park-tier channels only. -/
theorem writeBack_frame (s : State) (p : Nat → Bool) :
    ∃ w c r, s.writeBack p = s.modMem fun m => { m with l2Sets := w, chanAccess := c, refresh := r } := by
  obtain ⟨w, c, r, h⟩ := marks_foldl (fun s (l : Nat) => s.touchChannel (l * 128)) (fun s l => by
    obtain ⟨c, r, h⟩ := touchChannel_frame s (l * 128)
    exact ⟨s.mem.l2Sets, c, r, h⟩) (s.mem.dirtyLines p) s
  exact ⟨_, c, r, by rw [State.writeBack, h]; rfl⟩

/-- What stays of a list when the members that pass a test are taken out by name. -/
theorem filter_not_contains_filter {α : Type} [DecidableEq α] (l : List α) (p : α → Bool) :
    l.filter (fun x => !(l.filter p).contains x) = l.filter fun x => !p x := by
  refine List.filter_congr fun x hx => ?_
  cases hp : p x <;> simp [hx, hp]

/-- The RELs of a strand looked at: those that are done leave, and beside them at most the marks of L2 slices and channels change. -/
theorem settleRels_leaves (hs : s.strandAt n = some st) :
    { s.settleRels n with mem := s.mem, strands := s.strands } = s ∧
    (∃ w c r, (s.settleRels n).mem = { s.mem with l2Sets := w, chanAccess := c, refresh := r }) ∧
    ∀ m, (s.settleRels n).strandAt m =
      if m = n then some { st with rels := st.rels.filter fun r => !s.relDone n st r } else s.strandAt m := by
  by_cases hr : st.rels = []
  · have e : s.settleRels n = s := by simp only [State.settleRels, hs, hr]
    rw [e]
    refine ⟨rfl, ⟨_, _, _, rfl⟩, fun m => ?_⟩
    split_ifs with hm
    · rw [hm, hs, hr, List.filter_nil, ← hr]
    · rfl
  · let x : Strand := { st with rels := st.rels.filter fun r => !s.relDone n st r }
    let u := s.setStrand n (some x)
    have hu : ∀ m, u.strandAt m = if m = n then some x else s.strandAt m := fun m => State.strandAt_setStrand s n m _
    have e : s.settleRels n = if (st.rels.filter (s.relDone n st)).any (·.sys) then u.writeBack isCxlLine else u := by
      simp only [State.settleRels, hs, State.modStrand, filter_not_contains_filter, u, x]
    rw [e]
    split
    · obtain ⟨w, c, r, hw⟩ := writeBack_frame u isCxlLine
      rw [hw]
      exact ⟨rfl, ⟨w, c, r, rfl⟩, hu⟩
    · exact ⟨rfl, ⟨_, _, _, rfl⟩, hu⟩

/-- The REL that a strand enters. -/
def State.newRel (s : State) (n : Nat) (st : Strand) (sys : Bool) : RelOp := ⟨st.sn, (s.coreAt (coreOfStrand n)).nextCmd, sys⟩

/-- A REL entered: it and the earlier ones stay as far as they are not done, and no byte of memory changes. -/
theorem enterRel_leaves (h : s.RunsAs n st) (sys : Bool) :
    (s.enterRel sys).RunsAs n { st with rels := (st.rels ++ [s.newRel n st sys]).filter fun r => !s.relDone n st r } ∧
    ∀ pa, (s.enterRel sys).mem.readByte pa = s.mem.readByte pa := by
  have h' := h.setStrand { st with rels := st.rels ++ [s.newRel n st sys] }
  have e : s.enterRel sys = (s.setStrand n (some { st with rels := st.rels ++ [s.newRel n st sys] })).settleRels n := by
    rw [State.enterRel, h.modMe, h.myNum, h.myCore]
    rfl
  obtain ⟨hsame, ⟨w, c, r, hmem⟩, hstrand⟩ := settleRels_leaves h'.here
  rw [e]
  exact ⟨⟨(congrArg State.cur hsame :).trans h'.cur, (hstrand n).trans (if_pos rfl)⟩, fun pa => by rw [hmem]; rfl⟩

/-- A REL is not done while a store before it is in the queue. -/
theorem relDone_false_of_store {r : RelOp} (h : ∃ o ∈ st.sq, o.sn < r.sn) : s.relDone n st r = false := by
  obtain ⟨o, ho, hlt⟩ := h
  have hall : st.sq.all (fun o => r.sn ≤ o.sn) = false :=
    List.all_eq_false.mpr ⟨o, ho, by simpa using hlt⟩
  rw [State.relDone, hall, Bool.false_and, Bool.false_and]

/-- A REL is done with no store and no engine command, and for system scope once the dirty CXL lines can be written back. -/
theorem relDone_of_idle {r : RelOp} (hsq : st.sq = []) (hq : (s.coreAt (coreOfStrand n)).queues = [])
    (hsys : r.sys = true → s.backHeld (dieOfCore (coreOfStrand n)) isCxlLine = false) : s.relDone n st r = true := by
  rw [State.relDone, hsq, hq]
  cases hr : r.sys with
  | false => rfl
  | true => rw [hsys hr]; rfl

/-- REL enters the strand's sequence (R98). -/
theorem rel_next (h : s.RunsAs n st) (sc : Scope) :
    ∃ t, exec (.rel sc) s = .next t ∧ t.verdict = .issued none ∧ (∀ pa, t.mem.readByte pa = s.mem.readByte pa) ∧
      ∃ st', t.strandAt n = some st' ∧ { st' with rels := st.rels } = st ∧
        ((∃ o ∈ st.sq, o.sn < st.sn) → ∃ r ∈ st'.rels, r.sn = st.sn) ∧
        (st.rels = [] → st.sq = [] → (s.coreAt (coreOfStrand n)).queues = [] →
          (sc = .sys → s.backHeld (dieOfCore (coreOfStrand n)) isCxlLine = false) → st'.rels = []) := by
  obtain ⟨hu, hbytes⟩ := enterRel_leaves h (sc = .sys)
  refine ⟨_, rfl, rfl, hbytes, _, hu.here, rfl, fun hsq => ⟨s.newRel n st (sc = .sys), ?_, rfl⟩, fun hrels hsq hq hsys => ?_⟩
  · have hnew : s.relDone n st (s.newRel n st (sc = .sys)) = false := relDone_false_of_store hsq
    simp [hnew]
  · have hnew : s.relDone n st (s.newRel n st (sc = .sys)) = true := relDone_of_idle hsq hq fun h => hsys (of_decide_eq_true h)
    simp [hrels, hnew]

/-! Words that issue and fall through. -/

theorem fenceq_next (h : s.RunsAs n st) {m : BitVec 7} (hq : ∀ q, q < 7 → m.getLsbD q = true → s.busyQueue n q = false) :
    exec (.fenceq m) s = .next s.issued := by
  change execFenceq m s = _
  rw [execFenceq, if_neg]
  simpa [upto, h.myNum] using hq

theorem waitpt_reached (h : s.RunsAs n st) {a : GReg} (hp : s.produced [a]) (hc : s.clear [a]) (ht : (s.g a).toNat ≤ s.pt s.myDie) :
    exec (.waitpt a) s = .next (s.setStrand n (some { st with waitPt := none })).issued := by
  have hfar : ¬ tooFar (s.g a) (s.pt s.myDie) = true := by
    simp only [tooFar, decide_eq_true_eq]
    omega
  change execWaitpt a s = _
  rw [execWaitpt, State.whenReady_produced hp, State.clean_clear hc, if_neg hfar, if_pos ht, State.setWaitPt]
  simp only [h.cur, h.modMe]

/-! Safe points (R183). -/

/-- A table filtered by its keys. -/
theorem tget_tfilter_key {α : Type} (d : α) (p : Nat → Bool) (t : Tab α) (n : Nat) :
    tget d (tfilter (fun k _ => p k) t) n = if p n then tget d t n else d := by
  induction t with
  | nil => simp [tfilter]
  | cons x t ih =>
    obtain ⟨k, v⟩ := x
    simp only [tfilter]
    by_cases hk : n = k
    · subst hk
      split_ifs with hp <;> simp_all [tget_cons]
    · split_ifs with hp hn hn <;> simp_all [tget_cons]

theorem safept_free (h : s.acts n st) {a : GReg} (hp : s.produced [a]) (ht : st.txn = none) (hr : s.requested = false) :
    exec (.safept a) s = .next s.issued := by
  change execSafept a s = _
  simp [execSafept, State.whenReady_produced hp, h.runsAs.me, ht, hr]

theorem safept_stops (h : s.acts n st) {t : TileTask} {a : GReg} (hp : s.produced [a]) (ht : st.txn = none) (hh : st.handler = false)
    (htt : s.ttAt st.tt = some t) (hr : t.request.isSome) : exec (.safept a) s = .next (s.setStrand n (some
      { st.halt (s.cmdsOf n) .safept with vn := tfilter (fun k _ => liveName (s.g a) t.vnames k) st.vn })).issued := by
  have htask : s.myTt = some t := by rw [State.myTt, h.runsAs.me, htt]
  change execSafept a s = _
  simp [execSafept, State.whenReady_produced hp, h.runsAs.me, h.runsAs.myNum, h.runsAs.modMe, ht, h.readStrand, hh, State.requested, htask, hr]

/-! EXIT (R184). -/

theorem Strand.finish_frame (st : Strand) : st.finish.ended = true ∧ st.finish.vn = [] ∧ st.finish.sq = st.sq ++ st.sqAgain :=
  ⟨rfl, rfl, rfl⟩

/-- EXIT with what it asks for: the strand ends, its successors and their reservation kept. -/
theorem exit_next (h : s.acts n st) {k : BitVec 3} {e1 e2 e3 e4 : GReg} (hh : st.handler = false) (ht : st.txn = none)
    (hrels : st.rels = []) (hp : s.produced ([e1, e2, e3, e4].take k.toNat)) (hc : s.clear ([e1, e2, e3, e4].take k.toNat))
    (ha : ∀ r ∈ [e1, e2, e3, e4].take k.toNat, (s.g r).toNat % 256 = 0)
    (hk : k = 0 ∨ (st.role = spawnRole s.myRoles ∧ ∃ c, s.ctxAt s.myCtx = some c ∧ k.toNat + c.spill.length + c.spillResv ≤ c.spillCap)) :
    exec (.exit k e1 e2 e3 e4) s = .next ((s.modCtx s.myCtx fun c => { c with spillResv := c.spillResv + k.toNat }).exitWith
      (([e1, e2, e3, e4].take k.toNat).map s.g) k.toNat) := by
  have halign : ([e1, e2, e3, e4].take k.toNat).find? (fun e => fieldOf (s.g e) 0 8 ≠ 0) = none := by
    refine List.find?_eq_none.mpr fun r hr => ?_
    simpa [fieldOf, bits] using ha r hr
  have hrole : ¬ (k ≠ 0 && s.readStrand.role ≠ spawnRole s.myRoles) = true := by
    rcases hk with rfl | ⟨hrole, -⟩
    · simp
    · simp [h.readStrand, hrole]
  have hfree : ¬ ((s.ctxAt s.myCtx).map (·.spillFree)).getD 0 < k.toNat := by
    rcases hk with rfl | ⟨-, c, hc, hroom⟩
    · simp
    · simp only [hc, Option.map_some, Option.getD_some, Ctx.spillFree]
      omega
  change execExit k e1 e2 e3 e4 s = _
  simp only [execExit, State.whenReady_produced hp, h.runsAs.afterRels hrels, h.runsAs.outsideTxn ht, h.readStrand, hh,
    State.clean_clear hc, halign]
  rw [h.readStrand] at hrole
  rw [if_neg Bool.false_ne_true, if_neg hrole, if_neg hfree]

theorem State.RunsAs.exitWith (h : s.RunsAs n st) (succ : List W64) (k : Nat) : s.exitWith succ k =
    { s.setStrand n (some { st.finish with successors := succ, exitReserve := k }) with verdict := .ended } := by
  rw [State.exitWith, h.modMe]

/-- A context changed leaves the strand that acts. -/
theorem State.RunsAs.modCtx (h : s.RunsAs n st) (ctx : Nat) (f : Ctx → Ctx) : (s.modCtx ctx f).RunsAs n st := by
  unfold State.modCtx
  split
  · exact ⟨h.cur, h.here⟩
  · exact h

theorem waitptComplete_next {t : W64} (hs : s.strandAt n = some st) (hw : st.waitPt = some t)
    (ht : t.toNat ≤ s.pt (dieOfCore (coreOfStrand n))) :
    exec (.waitptComplete n) s = .next (s.setStrand n (some { st with waitPt := none, waiting := false })) := by
  change execWaitptComplete n s = _
  simp only [execWaitptComplete, hs, hw, ht, if_true, State.modStrand]

/-- Settles O9: the words that fall through, REL, SAFEPT with a request, EXIT, and the end of a WAITPT. -/
theorem strandWords : Obligations.StrandWords := by
  unfold Obligations.StrandWords
  refine ⟨fun s n st a m sc ha => ?_, fun s n st t a ha hp ht hh htt hr => ?_, fun s n st k e1 e2 e3 e4 => ?_,
    fun s n st t hs hw ht => waitptComplete_next hs hw ht⟩
  · have h := ha.runsAs
    refine ⟨rfl, fun ht => ?_, fun hp hc => ?_, fenceq_next h, safept_free ha, waitpt_reached h, rel_next h sc⟩
    · change execMark s = _
      rw [execMark, h.outsideTxn ht, h.modMe]
    · change execChk a s = _
      rw [execChk, State.whenReady_produced hp, State.clean_clear hc]
      rfl
  · refine ⟨_, _, safept_stops ha hp ht hh htt hr, rfl, s.onlyStrand_setStrand .., s.strandAt_setStrand_same .., rfl, rfl, fun i => ?_⟩
    rw [tget_tfilter_key]
    rfl
  · intro rs ha hh ht hrels hp hc halign hk
    have hu := ha.runsAs.modCtx s.myCtx fun c => { c with spillResv := c.spillResv + k.toNat }
    have hnext := exit_next ha hh ht hrels hp hc halign hk
    rw [hu.exitWith] at hnext
    exact ⟨_, _, hnext, rfl, State.strandAt_setStrand_same .., rfl, rfl, rfl, rfl, rfl, State.modCtx_mem ..,
      fun c hctx _ => ctxAt_modCtx_same hctx _⟩

end Sys2Proof.Machine
end

-- ==== Proofs: loads, stores and atomics enter their queues (O10) ====
section
/-! PROOF. A scalar memory word of a strand outside a transaction, its access granted, enters the load queue or the store queue behind the
others (R92, R186, R187, R190-R193, R199, R206), and changes its strand only. -/
namespace Sys2Proof.Machine

variable {s u : State} {n k : Nat} {st us : Strand} {ea : W64} {need : Need} {ps : List Part}

/-! The queues. -/

/-- The mark that a destination waits for; g0 waits for none (R166). -/
theorem tget_busy_entered (t : Tab Nat) (d : GReg) (m r : Nat) :
    tget 0 (if d = 0 then t else tset 0 t d.toNat m) r = if d ≠ 0 ∧ r = d.toNat then m else tget 0 t r := by
  by_cases hd : d = 0
  · rw [if_pos hd, if_neg fun h => h.1 hd]
  · rw [if_neg hd, tget_tset]
    simp only [ne_eq, hd, not_false_eq_true, true_and]

/-- A load entered behind the others; its destination waits for it. -/
theorem enterLoad_leaves (h : u.RunsAs n us) (what : LoadWhat) (ea : W64) (ps : List Part) (sig : Option (Nat × Nat)) (d : GReg) :
    ∃ st', (u.enterLoad what ea ps sig (some d)).issued.strandAt n = some st' ∧
      st'.lq = us.lq ++ [⟨what, ea, ps, ps, 0, false, us.epoch, us.mark + 1, sig, us.pc⟩] ∧
      (∀ r, tget 0 st'.busy r = if d ≠ 0 ∧ r = d.toNat then us.mark + 1 else tget 0 us.busy r) ∧
      { st' with lq := us.lq, busy := us.busy, mark := us.mark, commitWait := us.commitWait } = us ∧
      u.onlyStrand (u.enterLoad what ea ps sig (some d)).issued n := by
  rw [State.enterLoad, h.modMe]
  exact ⟨_, State.strandAt_setStrand_same .., rfl, tget_busy_entered us.busy d _, rfl, u.onlyStrand_setStrand ..⟩

/-- A store or an atomic entered behind the others; the destination of an atomic waits for it. -/
theorem enterStore_leaves (h : u.RunsAs n us) (what : StoreWhat) (ea : W64) (ps : List Part) (v : Vec) (en : BitVec 512) (tag : Bool)
    (sig : Option (Nat × Nat)) (d : Option GReg) :
    ∃ st', (u.enterStore what ea ps v en tag sig d).issued.strandAt n = some st' ∧
      st'.sq = us.sq ++ [⟨what, ea, ps, v, en, tag, us.epoch, us.mark + 1, us.sn, sig⟩] ∧ st'.sn = us.sn + 1 ∧
      (∀ x, d = some x → ∀ r, tget 0 st'.busy r = if x ≠ 0 ∧ r = x.toNat then us.mark + 1 else tget 0 us.busy r) ∧
      { st' with sq := us.sq, sn := us.sn, busy := us.busy, mark := us.mark, commitWait := us.commitWait } = us ∧
      (d = none → st'.busy = us.busy) ∧
      u.onlyStrand (u.enterStore what ea ps v en tag sig d).issued n := by
  rw [State.enterStore, h.modMe]
  refine ⟨_, State.strandAt_setStrand_same .., rfl, rfl, fun x hd => ?_, rfl, fun hd => ?_, u.onlyStrand_setStrand ..⟩
  · rw [hd]
    exact tget_busy_entered us.busy x _
  · rw [hd]

/-! Accesses that are granted. -/

/-- A strand that acts outside a transaction is granted an access, which leaves it in `u`. -/
structure Granted (s u : State) (n : Nat) (st us : Strand) (ea : W64) (k : Nat) (need : Need) (ps : List Part) : Prop where
  acts : s.acts n st
  outside : st.txn = none
  runs : u.RunsAs n us
  outside' : us.txn = none
  walks : s.walkHeld s.myDie (some s.myCore) s.myCtx ea k = false
  grant : s.myAccess ea k need = .ok ps u

theorem unheld_free (h : s.walkHeld s.myDie (some s.myCore) s.myCtx ea k = false) (t : State) : s.unheld ea k t = t := by
  rw [State.unheld, h, if_neg Bool.false_ne_true]

theorem withAccess_granted (hw : s.walkHeld s.myDie (some s.myCore) s.myCtx ea k = false) (hg : s.myAccess ea k need = .ok ps u)
    (ign : State → State) (f : List Part → State → State) : s.withAccess ea k need ign f = f ps u := by
  simp only [State.withAccess, unheld_free hw, hg]

theorem State.acts.txnTurn (h : s.acts n st) (ht : st.txn = none) (t : State) : s.txnTurn t = t := by
  rw [State.txnTurn, State.txnWaits, h.runsAs.me, ht]
  rfl

section
variable (h : Granted s u n st us ea k need ps)
include h

theorem Granted.withAccess (ign : State → State) (f : List Part → State → State) : s.withAccess ea k need ign f = f ps u :=
  withAccess_granted h.walks h.grant ign f

theorem Granted.outsideTxn (t : State) : s.outsideTxn t = t := h.acts.runsAs.outsideTxn h.outside t

theorem Granted.txnTurn (t : State) : s.txnTurn t = t := h.acts.txnTurn h.outside t

theorem Granted.noTxn : s.me.txn = none := by rw [h.acts.runsAs.me, h.outside]

theorem Granted.noTxn' : u.me.txn = none := by rw [h.runs.me, h.outside']

end

/-! Loads. -/

theorem strandLoad_granted {sz : Size} {a : GReg} {off : BitVec 13} (h : Granted s u n st us (s.ea a off) (Size.bytes sz) .read ps)
    (hp : s.produced [a]) (hc : s.clear [a]) (hal : (s.ea a off).toNat % Size.bytes sz = 0) (d : GReg) (sgn : Bool) :
    s.strandLoad d a off (Size.bytes sz) sgn = (u.enterLoad (.scalar d (Size.bytes sz) sgn) (s.ea a off) ps none (some d)).issued := by
  simp only [State.strandLoad, State.whenReady_produced hp, State.clean_clear hc, hal, h.txnTurn, h.withAccess, State.loadGlobal, h.noTxn']
  rfl

theorem ld_next {sz : Size} {a : GReg} {off : BitVec 13} (h : Granted s u n st us (s.ea a off) (Size.bytes sz) .read ps)
    (hp : s.produced [a]) (hc : s.clear [a]) (hal : (s.ea a off).toNat % Size.bytes sz = 0) (d : GReg) : exec (.ld sz d a off) s =
      .next (u.enterLoad (.scalar d (Size.bytes sz) true) (s.ea a off) ps none (some d)).issued := by
  change execLd sz d a off s = _
  rw [execLd, h.acts.runsAs.conducting, if_neg Bool.false_ne_true, strandLoad_granted h hp hc hal]

theorem ldn_next {sz : Size} {a : GReg} {off : BitVec 13} (h : Granted s u n st us (s.ea a off) (Size.bytes sz) .read ps)
    (hp : s.produced [a]) (hc : s.clear [a]) (hal : (s.ea a off).toNat % Size.bytes sz = 0) (d : GReg) : exec (.ldn sz d a off) s =
      .next (u.enterLoad (.scalar d (Size.bytes sz) false) (s.ea a off) ps none (some d)).issued := by
  change execLdn sz d a off s = _
  rw [execLdn, h.acts.runsAs.conducting, if_neg Bool.false_ne_true, strandLoad_granted h hp hc hal]

theorem ldS_next {sz : Size} {a : GReg} {off : BitVec 13} (h : Granted s u n st us (s.ea a off) (Size.bytes sz) .read ps)
    (hp : s.produced [a]) (hc : s.clear [a]) (hal : (s.ea a off).toNat % Size.bytes sz = 0) (d : GReg) : exec (.ldS sz d a off) s =
      .next (u.enterLoad (.scalar d (Size.bytes sz) true) (s.ea a off) ps none (some d)).issued := by
  change execLdS sz d a off s = _
  simp only [execLdS, State.whenReady_produced hp, State.clean_clear hc, hal, h.txnTurn, unheld_free h.walks, h.grant, State.loadGlobal,
    h.noTxn']
  rfl

/-- A time that lies within 2^32 ns of PT is not too far ahead (R59, R66). -/
theorem not_tooFar {t : W64} {pt : Nat} (h : t.toNat ≤ pt + 2 ^ 32) : tooFar t pt = false := decide_eq_false (Nat.not_lt.mpr h)

theorem ldNb_next {sz : Size} {a b : GReg} (h : Granted s u n st us (s.g a) (Size.bytes sz) .read ps) (hp : s.produced [a, b])
    (hc : s.clear [a, b]) (hal : (s.g a).toNat % Size.bytes sz = 0) (hnear : (s.g b).toNat ≤ s.pt s.myDie + 2 ^ 32) (d : GReg) :
    exec (.ldNb sz d a b) s = .next (u.enterLoad (.nb d (Size.bytes sz) (u.g b)) (s.g a) ps none (some d)).issued := by
  change execLdNb sz d a b s = _
  simp only [execLdNb, h.outsideTxn, State.whenReady_produced hp, State.clean_clear hc, hal, not_tooFar hnear, h.withAccess]
  rfl

theorem lockrd_next {a : GReg} (h : Granted s u n st us (s.g a) 1 .read ps) (hp : s.produced [a]) (hc : s.clear [a]) (d : GReg) :
    exec (.lockrd d a) s = .next (u.enterLoad (.lock d) (s.g a) ps none (some d)).issued := by
  change execLockrd d a s = _
  simp only [execLockrd, State.whenReady_produced hp, State.clean_clear hc, h.withAccess]

theorem waitv_next {d a b : GReg} (h : Granted s u n st us (s.g a) 8 .read ps) (hp : s.produced [d, a, b]) (hc : s.clear [d, a, b])
    (hal : (s.g a).toNat % 8 = 0) :
    exec (.waitv d a b) s = .next (u.enterLoad (.waitv d (s.g b) (s.g d) false) (s.g a) ps none (some d)).issued := by
  change execWaitv d a b s = _
  simp only [execWaitv, h.outsideTxn, State.whenReady_produced hp, State.clean_clear hc, hal, h.withAccess]
  rfl

/-! Stores. -/

theorem st_next {sz : Size} {d a : GReg} {off : BitVec 13} (h : Granted s u n st us (s.ea a off) (Size.bytes sz) .write ps)
    (hp : s.produced [a, d]) (hc : s.clear [a]) (hal : (s.ea a off).toNat % Size.bytes sz = 0) : exec (.st sz d a off) s =
      .next (u.enterStore .plain (s.ea a off) ps (storeData (Size.bytes sz) (u.g d)) (lowBytes (Size.bytes sz)) (u.gt d) none none).issued := by
  change execSt sz d a off s = _
  simp only [execSt, h.acts.runsAs.conducting, State.strandStore, State.whenReady_produced hp, State.clean_clear hc, hal, h.txnTurn,
    State.storeNeed, h.noTxn, Option.isSome_none, Bool.false_eq_true, if_false, h.withAccess, State.storeGlobal, h.noTxn']
  rfl

theorem stPm_next {sz : Size} {d a b : GReg} (h : Granted s u n st us (s.g a) (Size.bytes sz) .write ps) (hp : s.produced [a, d, b])
    (hc : s.clear [a, b]) (hal : (s.g a).toNat % Size.bytes sz = 0) (hnear : (s.g b).toNat ≤ s.pt s.myDie + 2 ^ 32)
    (hlead : s.pt s.myDie + s.lead ≤ (s.g b).toNat) : exec (.stPm sz d a b) s = .next (u.enterStore (.pm (u.g b)) (s.g a) ps
      (storeData (Size.bytes sz) (u.g d)) (lowBytes (Size.bytes sz)) (u.gt d) none none).issued := by
  have hlate : s.late (s.g b) = false := decide_eq_false (Nat.not_lt.mpr hlead)
  change execStPm sz d a b s = _
  simp only [execStPm, h.outsideTxn, State.whenReady_produced hp, State.clean_clear hc, hal, not_tooFar hnear, hlate, h.withAccess]
  rfl

theorem lockwr_next {a b : GReg} (hp : s.produced [a, b]) (hc : s.clear [a, b]) (hal : (s.g a).toNat % 32 = 0)
    (hw : s.walkHeld s.myDie (some s.myCore) s.myCtx (s.g a) (32 * ((s.g b).toNat / 256 % 65536 + 1)) = false)
    (hg : s.atIssue (s.g a) (s.accessNoKey (some s.myCore) s.myCtx (s.g a) (32 * ((s.g b).toNat / 256 % 65536 + 1)) .write s.fresh) =
      .ok ps u) :
    exec (.lockwr a b) s = .next (u.enterStore (.lock ((s.g b).setWidth 4)) (s.g a) ps 0 0 false none none).issued := by
  have hlen : 32 * (fieldOf (s.g b) 8 16 + 1) = 32 * ((s.g b).toNat / 256 % 65536 + 1) := rfl
  change execLockwr a b s = _
  simp only [execLockwr, State.whenReady_produced hp, State.clean_clear hc, hal, hlen, unheld_free hw, hg]
  rfl

/-! Atomics. -/

theorem atomic_granted {a : GReg} (h : Granted s u n st us (s.g a) k .both ps) {vals : List GReg} (hp : s.produced (a :: vals))
    (hc : s.clear [a]) (hal : (s.g a).toNat % k = 0) (what : StoreWhat) (d : GReg) (new : Nat → Nat) (back : Nat → W64) :
    s.atomic what d a vals k new back =
      (u.enterStore what (s.g a) ps 0 (lowBytes k) (vals.any s.gt) none (some d)).issued := by
  simp only [State.atomic, State.whenReady_produced hp, State.clean_clear hc, hal, h.txnTurn, h.noTxn, Option.isSome_none,
    Bool.false_eq_true, if_false, h.withAccess, h.noTxn']
  rfl

theorem amo_next {dbl : Bool} {d a b : GReg} (h : Granted s u n st us (s.g a) (if dbl then 8 else 4) .both ps)
    (hp : s.produced [a, b, d]) (hc : s.clear [a]) (hal : (s.g a).toNat % (if dbl then 8 else 4) = 0) (op : AmoOp) :
    let w := if dbl then 8 else 4
    exec (.amo op dbl d a b) s = .next (u.enterStore
      (.amo op d w (BitVec.ofNat 64 ((s.g b).toNat % 2 ^ (8 * w))) (BitVec.ofNat 64 ((s.g d).toNat % 2 ^ (8 * w)))) (s.g a) ps 0 (lowBytes w)
      (if op = .cas then s.gt b || s.gt d else s.gt b) none (some d)).issued := by
  have hp' : s.produced (a :: if op = .cas then [b, d] else [b]) := by
    intro r hr
    refine hp r (List.mem_cons.mpr ((List.mem_cons.mp hr).imp_right fun hr => ?_))
    split at hr
    · exact hr
    · exact List.mem_cons.mpr (.inl (List.mem_singleton.mp hr))
  have htag : (if op = .cas then [b, d] else [b]).any s.gt = if op = .cas then s.gt b || s.gt d else s.gt b := by
    split <;> simp
  intro w
  change execAmo op dbl d a b s = _
  simp only [execAmo, atomic_granted h hp' hc hal, htag]
  rfl

theorem amof_next {fmt : AmofFmt} {d a b : GReg} (h : Granted s u n st us (s.g a) (amofBytes fmt) .both ps)
    (hp : s.produced [a, b]) (hc : s.clear [a]) (hal : (s.g a).toNat % amofBytes fmt = 0) (fz cn sv : Bool) (op : AmofOp) :
    exec (.amof fz cn sv op fmt d a b) s = .next (u.enterStore
      (.amof fz cn sv op fmt d (BitVec.ofNat 64 ((s.g b).toNat % 2 ^ (8 * amofBytes fmt)))) (s.g a) ps 0 (lowBytes (amofBytes fmt))
      (s.gt b) none (some d)).issued := by
  change execAmof fz cn sv op fmt d a b s = _
  simp only [execAmof, atomic_granted h hp hc hal, List.any_cons, List.any_nil, Bool.or_false]

/-- Settles O10: each word's equation, and what entering a queue leaves. -/
theorem memoryWordsEnter : Obligations.MemoryWordsEnter := by
  unfold Obligations.MemoryWordsEnter
  refine ⟨fun s u n st us sz d a b off ea ps ha ht hcur hus hut => ?_, fun s u n st us sz d a b off ea ps ha ht hcur hus hut => ?_,
    fun s u n st us op dbl fz cn sv fop fmt d a b ps ha ht hcur hus hut => ?_⟩
  · intro enters walks
    have hu : u.RunsAs n us := ⟨hcur, hus⟩
    have granted {k : Nat} (hw : walks k) (hg : s.myAccess ea k .read = .ok ps u) : Granted s u n st us ea k .read ps :=
      ⟨ha, ht, hu, hut, hw, hg⟩
    have loads {i : Instr} {what : LoadWhat} (hi : exec i s = .next (u.enterLoad what ea ps none (some d)).issued) : enters i what := by
      obtain ⟨st', hst, hlq, hbusy, hrest, honly⟩ := enterLoad_leaves hu what ea ps none d
      exact ⟨_, st', hi, rfl, hst, hlq, hbusy, hrest, honly⟩
    refine ⟨fun hea hp hc hw hg hal => ?_, fun hea hp hc hw hg hal hnear => ?_, fun hea hp hc hw hg => ?_, fun hea hp hc hw hg hal => ?_⟩
    · change ea = s.ea a off at hea
      subst hea
      exact ⟨loads (ld_next (granted hw hg) hp hc hal d), loads (ldn_next (granted hw hg) hp hc hal d),
        loads (ldS_next (granted hw hg) hp hc hal d)⟩
    all_goals subst hea
    · exact loads (ldNb_next (granted hw hg) hp hc hal hnear d)
    · exact loads (lockrd_next (granted hw hg) hp hc d)
    · exact loads (waitv_next (granted hw hg) hp hc hal)
  · intro enters data bytes walks
    have hu : u.RunsAs n us := ⟨hcur, hus⟩
    have granted {k : Nat} (hw : walks k) (hg : s.myAccess ea k .write = .ok ps u) : Granted s u n st us ea k .write ps :=
      ⟨ha, ht, hu, hut, hw, hg⟩
    have stores {i : Instr} {what : StoreWhat} {v : Vec} {en : BitVec 512} {tag : Bool}
        (hi : exec i s = .next (u.enterStore what ea ps v en tag none none).issued) : enters i what v en tag := by
      obtain ⟨st', hst, hsq, hsn, -, hrest, hbusy, honly⟩ := enterStore_leaves hu what ea ps v en tag none none
      refine ⟨_, st', hi, rfl, hst, hsq, hsn, ?_, honly⟩
      rw [← hbusy rfl] at hrest
      exact hrest
    refine ⟨fun hea hp hc hw hg hal => ?_, fun hea hp hc hw hg hal hnear hlead => ?_, fun hea hp hc hal hw hg => ?_⟩
    · change ea = s.ea a off at hea
      subst hea
      exact stores (st_next (granted hw hg) hp hc hal)
    all_goals subst hea
    · exact stores (stPm_next (granted hw hg) hp hc hal hnear hlead)
    · exact stores (lockwr_next hp hc hal hw hg)
  · intro enters walks w
    have hu : u.RunsAs n us := ⟨hcur, hus⟩
    have granted {k : Nat} (hw : walks k) (hg : s.myAccess (s.g a) k .both = .ok ps u) : Granted s u n st us (s.g a) k .both ps :=
      ⟨ha, ht, hu, hut, hw, hg⟩
    have atomics {i : Instr} {what : StoreWhat} {k : Nat} {tag : Bool}
        (hi : exec i s = .next (u.enterStore what (s.g a) ps 0 (lowBytes k) tag none (some d)).issued) : enters i what k tag := by
      obtain ⟨st', hst, hsq, -, hbusy, -, -, honly⟩ := enterStore_leaves hu what (s.g a) ps 0 (lowBytes k) tag none (some d)
      exact ⟨_, st', hi, rfl, hst, hsq, hbusy d rfl, honly⟩
    exact ⟨fun hp hc hw hg hal => atomics (amo_next (granted hw hg) hp hc hal op),
      fun hp hc hw hg hal => atomics (amof_next (granted hw hg) hp hc hal fz cn sv fop)⟩

end Sys2Proof.Machine
end

-- ==== Proofs: cache words, translations, names and ports (O12) ====
section
/-! PROOF. Which copies the words of R98, R206 and R207 drop and keep, the write-back between two RELs, and the words on the names and ports
of a strand (R47, R48, R205, R208). -/
namespace Sys2Proof.Machine

variable {s : State} {n : Nat} {st : Strand} {a b : GReg}

/-! Copies of a range (R98, R206). -/

theorem rdcKey_parts {d : Nat} (hd : d < 16) (line : Nat) : rdcKey d line % 16 = d ∧ rdcKey d line / 16 = line := by
  unfold rdcKey
  omega

theorem invRdc_rdc (s : State) (die : Nat) (p : Nat → Bool) {d : Nat} (hd : d < 16) (line : Nat) :
    tget none (s.invRdc die p).mem.rdc (rdcKey d line) =
      if d = die ∧ p line = true then none else tget none s.mem.rdc (rdcKey d line) := by
  obtain ⟨hmod, hdiv⟩ := rdcKey_parts hd line
  refine (tget_tfilter_key none (fun k => !(k % 16 = die && p (k / 16))) s.mem.rdc _).trans ?_
  rw [hmod, hdiv]
  by_cases hdie : d = die <;> cases hp : p line <;> simp [hdie]

theorem invL1_l1 (s : State) (core : Nat) (p : Nat → Bool) (line : Nat) : tget none ((s.invL1 core p).coreAt core).l1 line =
    if p line = true then none else tget none (s.coreAt core).l1 line := by
  rw [State.invL1, State.coreAt_modCore, if_pos rfl, tget_tfilter_key none (fun l => !p l)]
  cases p line <;> rfl

/-- The lines that an acquire drops: those of its range, or all without one (R98). -/
def State.acquired (s : State) (core ctx : Nat) (range : Option (W64 × Nat)) (line : Nat) : Bool :=
  match range with
  | none => true
  | some (base, len) => (s.linesOf core ctx base len).any fun x => x.1 ≤ line && line ≤ x.2

/-- The caches of the core and, by the scope, of the die and of the SFD that an acquire goes through. -/
theorem acquire_eq (s : State) (core ctx : Nat) (sc : Scope) (range : Option (W64 × Nat)) : s.acquire core ctx sc range =
    let p := s.acquired core ctx range
    let u := (s.invI core).invL1 core p
    match sc with
    | .core | .die => u
    | .pkg => u.invRdc (dieOfCore core) p
    | .sys => (u.invRdc (dieOfCore core) p).invCxl p := by
  cases range <;> rfl

theorem acquire_frame (s : State) (core ctx : Nat) (sc : Scope) (range : Option (W64 × Nat)) :
    (s.acquire core ctx sc range).strands = s.strands ∧
    (s.acquire core ctx sc range).cores = ((s.invI core).invL1 core (s.acquired core ctx range)).cores ∧
    (∀ pa, (s.acquire core ctx sc range).mem.readByte pa = s.mem.readByte pa) := by
  rw [acquire_eq]
  cases sc <;> exact ⟨rfl, rfl, fun _ => rfl⟩

theorem acquire_core (s : State) (core ctx : Nat) (sc : Scope) (range : Option (W64 × Nat)) :
    ((s.acquire core ctx sc range).coreAt core).icache = [] ∧
    (∀ line, tget none ((s.acquire core ctx sc range).coreAt core).l1 line =
      if s.acquired core ctx range line = true then none else tget none (s.coreAt core).l1 line) ∧
    (∀ m, m ≠ core → (s.acquire core ctx sc range).coreAt m = s.coreAt m) := by
  obtain ⟨-, hcores, -⟩ := acquire_frame s core ctx sc range
  have hcore : ∀ m, (s.acquire core ctx sc range).coreAt m = ((s.invI core).invL1 core (s.acquired core ctx range)).coreAt m :=
    fun m => congrArg (tget Core.init · m) hcores
  refine ⟨?_, fun line => ?_, fun m hm => ?_⟩
  · rw [hcore, State.invL1, State.coreAt_modCore, if_pos rfl, State.invI, State.coreAt_modCore, if_pos rfl]
  · rw [hcore, invL1_l1, State.invI, State.coreAt_modCore, if_pos rfl]
  · rw [hcore, State.invL1, State.coreAt_modCore, if_neg hm, State.invI, State.coreAt_modCore, if_neg hm]

theorem acquire_rdc (s : State) (core ctx : Nat) (sc : Scope) (range : Option (W64 × Nat)) {d : Nat} (hd : d < 16) (line : Nat) :
    tget none (s.acquire core ctx sc range).mem.rdc (rdcKey d line) =
      if d = dieOfCore core ∧ (sc = .pkg ∨ sc = .sys) ∧ s.acquired core ctx range line = true then none
      else tget none s.mem.rdc (rdcKey d line) := by
  have hrdc : tget none (((s.invI core).invL1 core (s.acquired core ctx range)).invRdc (dieOfCore core)
      (s.acquired core ctx range)).mem.rdc (rdcKey d line) =
      if d = dieOfCore core ∧ s.acquired core ctx range line = true then none else tget none s.mem.rdc (rdcKey d line) :=
    invRdc_rdc _ _ _ hd line
  rw [acquire_eq]
  cases sc with
  | core => simp; rfl
  | die => simp; rfl
  | pkg => simpa using hrdc
  | sys =>
    change tget none (((s.invI core).invL1 core (s.acquired core ctx range)).invRdc (dieOfCore core)
      (s.acquired core ctx range)).mem.rdc (rdcKey d line) = _
    simpa using hrdc

/-- Without a range the L1 is left empty. -/
theorem acquire_l1_all (s : State) (core ctx : Nat) (sc : Scope) : ((s.acquire core ctx sc none).coreAt core).l1 = [] := by
  have empty : ∀ t : Tab (Option Copy), tfilter (fun _ _ => false) t = [] := by
    intro t
    induction t with
    | nil => rfl
    | cons x t ih => exact ih
  obtain ⟨-, hcores, -⟩ := acquire_frame s core ctx sc none
  refine (congrArg (fun t => (tget Core.init t core).l1) hcores).trans ?_
  change (((s.invI core).invL1 core _).coreAt core).l1 = []
  rw [State.invL1, State.coreAt_modCore, if_pos rfl]
  exact empty _

/-! The words. -/

/-- ACQ with no load outstanding (R98, R191). -/
theorem acq_next (h : s.RunsAs n st) (hl : st.lq = []) (hp : s.produced [a, b]) (hc : s.clear [a, b]) (sc : Scope) :
    exec (.acq sc a b) s = .next (s.acquire (coreOfStrand n) s.myCtx sc (s.range a b)).issued := by
  change execAcq sc a b s = _
  rw [execAcq, State.whenReady_produced hp, State.clean_clear hc, State.afterLoads, h.me, if_pos hl, h.myCore]

theorem l1inv_next (h : s.RunsAs n st) (hl : st.lq = []) (hp : s.produced [a, b]) (hc : s.clear [a, b]) :
    exec (.l1inv a b) s = .next (s.invL1 (coreOfStrand n) (s.cacheRange a b)).issued := by
  change execL1inv a b s = _
  rw [execL1inv, State.whenReady_produced hp, State.clean_clear hc, State.afterLoads, h.me, if_pos hl, h.myCore]

theorem rdcinv_next (h : s.RunsAs n st) (hl : st.lq = []) (hp : s.produced [a, b]) (hc : s.clear [a, b]) :
    exec (.rdcinv a b) s = .next (s.invRdc (dieOfCore (coreOfStrand n)) (s.cacheRange a b)).issued := by
  change execRdcinv a b s = _
  rw [execRdcinv, State.whenReady_produced hp, State.clean_clear hc, State.afterLoads, h.me, if_pos hl, h.myDie]

/-- The entries of a context that TLBINV names (R207). -/
def State.tlbHit (s : State) (a b : GReg) (e : TlbE) : Bool :=
  e.ctx = s.myCtx && ((a = 0 && b = 0) || (e.va < vaOf (s.g a) + (s.g b).toNat && vaOf (s.g a) < e.va + 2 ^ e.log))

theorem tlbinv_next {c : Ctx} (hctx : s.ctxAt s.myCtx = some c) (hpriv : c.privileged = true) (hp : s.produced [a, b])
    (hc : s.clear [a, b]) : exec (.tlbinv a b) s = .next (s.dropTlb (s.tlbHit a b)).issued := by
  change execTlbinv a b s = _
  simp only [execTlbinv, State.privileged, hctx, hpriv, if_true, State.whenReady_produced hp, State.clean_clear hc]
  rfl

/-- No entry that a test names is left in any TLB. -/
theorem dropTlb_tlb (s : State) (hit : TlbE → Bool) (k : Nat) : ∀ e ∈ ((s.dropTlb hit).coreAt k).tlb, hit e = false := by
  intro e he
  by_cases hinit : (s.dropTlb hit).coreAt k = Core.init
  · rw [hinit] at he
    cases he
  · obtain ⟨hmem, -⟩ := List.mem_filter.mp (mem_of_tget rfl hinit : (k, (s.dropTlb hit).coreAt k) ∈ (s.dropTlb hit).cores)
    obtain ⟨⟨m, c⟩, -, hx⟩ := List.mem_map.mp hmem
    have hc : { c with tlb := c.tlb.filter fun e => !hit e } = (s.dropTlb hit).coreAt k := (Prod.ext_iff.mp hx).2
    rw [← hc] at he
    simpa using (List.mem_filter.mp he).2

theorem not_tlbHit {e : TlbE} (h : s.tlbHit a b e = false) (he : e.ctx = s.myCtx) : ¬ (a = 0 ∧ b = 0) ∧
    (vaOf (s.g a) + (s.g b).toNat ≤ e.va ∨ e.va + 2 ^ e.log ≤ vaOf (s.g a)) := by
  simp only [State.tlbHit, he, decide_true, Bool.true_and, Bool.or_eq_false_iff, Bool.and_eq_false_iff, decide_eq_false_iff_not,
    Nat.not_lt] at h
  exact ⟨fun h0 => h.1.elim (· h0.1) (· h0.2), h.2⟩

/-- CACHEOP.wb stands in the store queue, and behind it a REL that is not done before it (R206). -/
theorem cacheWb_next (h : s.RunsAs n st) (hp : s.produced [a, b]) (hc : s.clear [a, b]) :
    ∃ t st' o, exec (.cacheWb a b) s = .next t ∧ t.verdict = .issued none ∧ t.strandAt n = some st' ∧ st'.sq = st.sq ++ [o] ∧
      o.what = .wb (decide (2 ^ 32 < (s.g b).toNat)) ∧ o.sn = st.sn ∧ (∃ r ∈ st'.rels, r.sn = st.sn + 1) ∧
      (∀ r, tget 0 st'.g r = tget 0 st.g r) ∧ ∀ pa, t.mem.readByte pa = s.mem.readByte pa := by
  let all := decide (2 ^ 32 < (s.g b).toNat)
  let ls := if all = true then [] else s.linesOf s.myCore s.myCtx (s.g a) (s.g b).toNat
  let ps := ls.map fun x => (⟨0, x.1 * 128, (x.2 - x.1 + 1) * 128, 0⟩ : Part)
  have hnext : exec (.cacheWb a b) s =
      .next (((s.enterRel false).enterStore (.wb all) (s.g a) ps 0 0 false none none).enterRel false).issued := by
    change execCacheWb a b s = _
    simp only [execCacheWb, State.whenReady_produced hp, State.clean_clear hc]
    rfl
  obtain ⟨h1, hbytes1⟩ := enterRel_leaves h false
  have hstore : ∃ st2, ((s.enterRel false).enterStore (.wb all) (s.g a) ps 0 0 false none none).RunsAs n st2 ∧
      st2.sq = st.sq ++ [⟨.wb all, s.g a, ps, 0, 0, false, st.epoch, st.mark + 1, st.sn, none⟩] ∧ st2.sn = st.sn + 1 ∧ st2.g = st.g := by
    rw [State.enterStore, h1.modMe]
    exact ⟨_, h1.setStrand _, rfl, rfl, rfl⟩
  obtain ⟨st2, h2, hsq, hsn, hg⟩ := hstore
  obtain ⟨h3, hbytes3⟩ := enterRel_leaves h2 false
  have hwaits (u : State) : u.relDone n st2 (u.newRel n st2 false) = false :=
    relDone_false_of_store ⟨_, by rw [hsq]; exact List.mem_append_right _ (List.mem_singleton_self _), by
      change st.sn < st2.sn
      omega⟩
  refine ⟨_, _, _, hnext, rfl, h3.here, hsq, rfl, rfl, ⟨_, List.mem_filter.mpr ⟨List.mem_append_right _ (List.mem_singleton_self _), ?_⟩, hsn⟩,
    fun r => by rw [← hg], fun pa => (hbytes3 pa).trans ?_⟩
  · rw [hwaits]
    rfl
  · rw [State.enterStore, h1.modMe]
    exact hbytes1 pa

/-! Names and ports (R47, R48, R205, R208). -/

/-- Names emptied one after another. -/
theorem tget_foldl_empty (names : List Nat) (t : Tab (List Entry)) (k : Nat) :
    tget [] (names.foldl (fun t n => tset [] t n []) t) k = if k ∈ names then [] else tget [] t k := by
  induction names generalizing t with
  | nil => simp
  | cons x names ih =>
    rw [List.foldl_cons, ih, tget_tset]
    by_cases hx : k = x <;> by_cases hk : k ∈ names <;> simp [hx, hk]

/-- The names that KILL selects (R205). -/
def killNames (blk : BitVec 6) (mask : BitVec 24) : List Nat :=
  ((upto 24).filter fun j => mask.getLsbD j).map fun j => 24 * blk.toNat + j

theorem mem_killNames {blk : BitVec 6} {mask : BitVec 24} {k : Nat} : k ∈ killNames blk mask ↔
    24 * blk.toNat ≤ k ∧ k < 24 * blk.toNat + 24 ∧ mask.getLsbD (k - 24 * blk.toNat) = true := by
  simp only [killNames, upto, List.mem_map, List.mem_filter, List.mem_range]
  constructor
  · rintro ⟨j, ⟨hj, hm⟩, rfl⟩
    exact ⟨by omega, by omega, by rwa [Nat.add_sub_cancel_left]⟩
  · rintro ⟨h1, h2, hm⟩
    exact ⟨k - 24 * blk.toNat, ⟨by omega, hm⟩, by omega⟩

theorem kill_next (h : s.RunsAs n st) {blk : BitVec 6} {mask : BitVec 24}
    (hk : ∀ k ∈ killNames blk mask, k < s.vnames ∧ (s.modeK = true ∨ ∀ e ∈ tget [] st.vn k, e.ready = true)) :
    exec (.kill blk mask) s = .next (s.setStrand n (some { st with
      vn := (killNames blk mask).foldl (fun t n => tset [] t n []) st.vn })).issued := by
  have hnames : ¬ ((killNames blk mask).any fun k => s.vnames ≤ k) = true := by
    simpa using fun k hm => (hk k hm).1
  have hready : ¬ (!s.modeK && (killNames blk mask).any fun k => (tget [] s.me.vn k).any fun e => !e.ready) = true := by
    rw [h.me]
    cases hm : s.modeK with
    | true => simp
    | false => simpa [hm] using fun k hk' => (hk k hk').2
  change execKill blk mask s = _
  rw [execKill]
  refine congrArg Host.Outcome.next ((if_neg hnames).trans ((if_neg hready).trans ?_))
  rw [h.modMe]
  rfl

theorem qcfg_next {d : GReg} (h : s.RunsAs n st) (hp : s.produced [d, a, b]) (hc : s.clear [d, a, b]) (hd : (s.g d).toNat % 64 = 0)
    (ha : (s.g a).toNat % 2 ^ 32 % 64 = 0) (hb : (s.g b).toNat % 2 ^ 32 % 64 = 0) (q : BitVec 6) :
    exec (.qcfg q d a b) s = .next (s.setStrand n (some { st with
      ports := tset Port.none st.ports q.toNat
        ⟨s.g d, BitVec.ofNat 32 (s.g a).toNat, BitVec.ofNat 32 ((s.g a).toNat / 2 ^ 32),
          BitVec.ofNat 32 (s.g b).toNat, BitVec.ofNat 32 ((s.g b).toNat / 2 ^ 32), 0⟩ })).issued := by
  have high (x : W64) : x.extractLsb' 32 32 = BitVec.ofNat 32 (x.toNat / 2 ^ 32) := by
    rw [BitVec.extractLsb', Nat.shiftRight_eq_div_pow]
  change execQcfg q d a b s = _
  simp only [execQcfg, State.whenReady_produced hp, State.clean_clear hc, high, BitVec.toNat_setWidth, hd, ha, hb, h.modMe]
  rfl

theorem qrst_next (h : s.RunsAs n st) (q : BitVec 6) : exec (.qrst q) s = .next (s.setStrand n (some { st with
    ports := tmod Port.none st.ports q.toNat fun p => { p with cursor := 0 } })).issued := by
  change execQrst q s = _
  rw [execQrst, h.modMe]

theorem tget_cursor_reset (ports : Tab Port) (q k : Nat) : tget Port.none (tmod Port.none ports q fun p => { p with cursor := 0 }) k =
    if k = q then { tget Port.none ports k with cursor := 0 } else tget Port.none ports k := by
  rw [tget_tmod]
  split_ifs with hk
  · rw [hk]
  · rfl

/-- Settles O12: acquires and invalidations by the copies they leave, the write-back, then names and ports. -/
theorem cachesAndPorts : Obligations.CachesAndPorts := by
  unfold Obligations.CachesAndPorts
  refine ⟨fun s n st sc a b ha hn hl hp hc => ?_, fun s n st a b ha hp hc => cacheWb_next ha.runsAs hp hc,
    fun s n st blk mask q d a b ha => ?_⟩
  · intro core die same
    have h := ha.runsAs
    have hdie : die < 16 := by
      change n / 8 / 32 < 16
      omega
    refine ⟨?_, ?_, ?_, ?_, fun c hctx hpriv => ?_⟩
    · obtain ⟨hg, hgt, hbusy⟩ := s.g_zero
      have hnext := acq_next (a := 0) (b := 0) h hl (by simpa [State.produced] using hbusy) (by simpa [State.clear] using hgt) sc
      obtain ⟨hstrands, -, hbytes⟩ := acquire_frame s core s.myCtx sc none
      obtain ⟨hicache, -, -⟩ := acquire_core s core s.myCtx sc none
      refine ⟨_, hnext, ⟨rfl, hstrands, hbytes⟩, hicache, acquire_l1_all s core s.myCtx sc, fun hsc line => ?_⟩
      exact (acquire_rdc s core s.myCtx sc none hdie line).trans (if_pos ⟨rfl, hsc, rfl⟩)
    · obtain ⟨hstrands, -, hbytes⟩ := acquire_frame s core s.myCtx sc (s.range a b)
      obtain ⟨hicache, hl1, hothers⟩ := acquire_core s core s.myCtx sc (s.range a b)
      exact ⟨_, acq_next h hl hp hc sc, ⟨rfl, hstrands, hbytes⟩, hicache, hl1, hothers,
        fun line d hd => acquire_rdc s core s.myCtx sc (s.range a b) hd line⟩
    · exact ⟨_, l1inv_next h hl hp hc, ⟨rfl, rfl, fun _ => rfl⟩, invL1_l1 s core (s.cacheRange a b)⟩
    · exact ⟨_, rdcinv_next h hl hp hc, ⟨rfl, rfl, fun _ => rfl⟩, fun line d hd => invRdc_rdc s die (s.cacheRange a b) hd line⟩
    · exact ⟨_, tlbinv_next hctx hpriv hp hc, ⟨rfl, rfl, fun _ => rfl⟩,
        fun k e he hctx => not_tlbHit (dropTlb_tlb s (s.tlbHit a b) k e he) hctx⟩
  · intro p picked
    have h := ha.runsAs
    refine ⟨fun hk => ?_, fun hp hc hd ha hb => qcfg_next h hp hc hd ha hb q, ?_⟩
    · refine ⟨_, _, kill_next h fun k hm => hk k (mem_killNames.mp hm), rfl, s.onlyStrand_setStrand .., s.strandAt_setStrand_same .., rfl,
        fun k => ⟨fun hm => ?_, fun hm => ?_⟩⟩
      · exact (tget_foldl_empty ..).trans (if_pos (mem_killNames.mpr hm))
      · exact (tget_foldl_empty ..).trans (if_neg fun hk => hm (mem_killNames.mp hk))
    · exact ⟨_, _, qrst_next h q, rfl, s.onlyStrand_setStrand .., s.strandAt_setStrand_same .., rfl, fun k => tget_cursor_reset ..⟩

end Sys2Proof.Machine
end

-- ==== Proofs: tiles as words publish and read them (O15) ====
section
/-! PROOF. The first publish of a tile in fine mode (R106), and with it TAGPUB and TAGQ (R200, R201). -/
namespace Sys2Proof.Machine

variable {s u : State} {n : Nat} {st : Strand}

/-! Buffer records and entries (R105). -/

/-- The record of a buffer is that buffer's. -/
theorem WorkState.buf_names (w : WorkState) (c b : Nat) : (w.buf c b).ctx = c ∧ (w.buf c b).buffer = b := by
  unfold WorkState.buf
  cases hf : w.bufs.find? fun x => x.ctx = c && x.buffer = b with
  | none => exact ⟨rfl, rfl⟩
  | some x => simpa using List.find?_some hf

theorem WorkState.buf_setBuf (w : WorkState) (x : Buf) : (w.setBuf x).buf x.ctx x.buffer = x := by
  simp [WorkState.buf, WorkState.setBuf]

/-- A record put in place of a buffer's is that buffer's when it keeps its name. -/
theorem WorkState.buf_setBuf_named (w : WorkState) {x : Buf} {c b : Nat} (hc : x.ctx = c) (hb : x.buffer = b) :
    (w.setBuf x).buf c b = x := by rw [← hc, ← hb, w.buf_setBuf]

theorem WorkState.entry_setEntry (w : WorkState) (e : TrtEntry) : (w.setEntry e).entry e.ctx e.buffer e.key = some e := by
  simp [WorkState.entry, WorkState.setEntry]

/-- The work after the first publish of a tile in fine mode: its entry is there, published, and the count is one higher. -/
def WorkState.firstPublish (w : WorkState) (c b : Nat) (k : Key) : WorkState :=
  let w' := (w.setBuf (w.buf c b)).setEntry ⟨c, b, k, (w.buf c b).live, true, []⟩
  w'.setBuf { w.buf c b with count := satSucc (w.buf c b).count }

/-- A first publish at the live generation, in fine mode, with room in the table (R106). -/
theorem publish_first {c b : Nat} {k : Key} {g : BitVec 8} (hfresh : (s.work.buf c b).fresh = false) (hlive : (s.work.buf c b).live = g)
    (hfine : (s.work.buf c b).coarse = false) (hentry : s.work.entry c b k = none) (hroom : s.work.trtFree ≠ 0) :
    s.publish c b k g = s.modWork (·.firstPublish c b k) := by
  obtain ⟨hc, hb⟩ := s.work.buf_names c b
  have hopen : (s.work.buf c b).open_ g = s.work.buf c b := by
    rw [Buf.open_, hfresh]
    rfl
  have hbuf := s.work.buf_setBuf_named hc hb
  have hentry' : (s.work.setBuf (s.work.buf c b)).entry c b k = none := hentry
  have hroom' : (s.work.setBuf (s.work.buf c b)).trtFree ≠ 0 := hroom
  have hbuf' (e : TrtEntry) : ((s.work.setBuf (s.work.buf c b)).setEntry e).buf c b = s.work.buf c b := hbuf
  simp only [State.publish, State.modWork, hopen, hbuf, hlive, if_true, hfine, Bool.false_eq_true, if_false, hentry', if_neg hroom', hbuf',
    WorkState.firstPublish]

theorem WorkState.firstPublish_entry (w : WorkState) (c b : Nat) (k : Key) :
    (w.firstPublish c b k).entry c b k = some ⟨c, b, k, (w.buf c b).live, true, []⟩ :=
  (w.setBuf (w.buf c b)).entry_setEntry ⟨c, b, k, (w.buf c b).live, true, []⟩

theorem WorkState.firstPublish_count (w : WorkState) (c b : Nat) (k : Key) :
    ((w.firstPublish c b k).buf c b).count = satSucc (w.buf c b).count := by
  obtain ⟨hc, hb⟩ := w.buf_names c b
  rw [WorkState.firstPublish, WorkState.buf_setBuf_named]
  · exact hc
  · exact hb

/-- A publication noted in its block (R106). -/
theorem notePublished_block {b idx di : Nat} {x : Block} (hx : s.blockAt b = some x) :
    s.notePublished b idx di = s.setBlock b (some { x with published := x.published ++ [(idx, di)] }) := by
  rw [State.notePublished, State.modBlock, hx]

/-- A first publish that its iteration notes: what it leaves (R106). -/
theorem notePublished_publish {c b blk idx di : Nat} {k : Key} {g : BitVec 8} {x : Block} (hx : s.blockAt blk = some x)
    (hfresh : (s.work.buf c b).fresh = false) (hlive : (s.work.buf c b).live = g) (hfine : (s.work.buf c b).coarse = false)
    (hentry : s.work.entry c b k = none) (hroom : s.work.trtFree ≠ 0) :
    let t := (s.notePublished blk idx di).publish c b k g
    ∃ e, t.work.entry c b k = some e ∧ e.published = true ∧ (t.work.buf c b).count = satSucc (s.work.buf c b).count ∧
      t.hasPublished blk idx di = true ∧ t.strands = s.strands ∧ t.mem = s.mem := by
  let y : Block := { x with published := x.published ++ [(idx, di)] }
  have hpub : (s.notePublished blk idx di).publish c b k g = (s.setBlock blk (some y)).modWork (·.firstPublish c b k) := by
    rw [notePublished_block hx]
    exact publish_first (s := s.setBlock blk (some y)) hfresh hlive hfine hentry hroom
  intro t
  have ht : t = (s.setBlock blk (some y)).modWork (·.firstPublish c b k) := hpub
  have hblock : ((s.setBlock blk (some y)).modWork (·.firstPublish c b k)).blockAt blk = some y := s.blockAt_setBlock_same blk (some y)
  rw [ht]
  refine ⟨_, WorkState.firstPublish_entry _ c b k, rfl, WorkState.firstPublish_count _ c b k, ?_, rfl, rfl⟩
  simp [State.hasPublished, hblock, y]

/-! The words. -/

/-- A descriptor that is read had no error in the control structures before it (R113). -/
theorem ctlError_of_descriptor {x : Decl} {m : Nat} {bs : List Byte} (h : s.descriptor x m = .ok bs u) : s.me.ctlError = false := by
  by_contra hbad
  rw [Bool.not_eq_false] at hbad
  simp only [State.descriptor, State.myAccess, State.atIssue, State.ctlTurn, hbad, if_true] at h
  cases h

/-- A strand that acts for a tile task with an output declaration, outside a transaction and with no REL (R200). -/
structure Publishes (s : State) (n : Nat) (st : Strand) (tt : TileTask) (di : Nat) (x : Decl) (k : Key) : Prop where
  runs : s.RunsAs n st
  task : s.ttAt st.tt = some tt
  decl : s.myDecl di = some (x, k)
  outside : st.txn = none
  output : x.output = true
  noRels : st.rels = []

theorem State.RunsAs.myTt (h : s.RunsAs n st) : s.myTt = s.ttAt st.tt := by rw [State.myTt, h.me]

section
variable {tt : TileTask} {dn : BitVec 3} {x : Decl} {k : Key} {bs : List Byte} (h : Publishes s n st tt dn.toNat x k)
include h

theorem tagpub_again (hp : s.hasPublished tt.block tt.idx dn.toNat = true) : exec (.tagpub dn) s = .next s.issued := by
  change execTagpub dn s = _
  simp only [execTagpub, h.runs.outsideTxn h.outside, h.decl, h.runs.myTt, h.task, h.output, Bool.not_true, Bool.false_eq_true, if_false,
    h.runs.afterRels h.noRels, hp, if_true]

/-- TAGPUB with the descriptor read: a store to the tile, or no traffic to the control die, holds it, and a stale generation traps. -/
theorem tagpub_read (hp : s.hasPublished tt.block tt.idx dn.toNat = false) (hd : s.descHeld s.myCore s.myCtx x 32 = false)
    (hbs : s.descriptor x 32 = .ok bs u) : exec (.tagpub dn) s = .next (
      let (base, len) := tileRange bs k
      if u.readStrand.storesIn (u.linesOf u.myCore u.myCtx base len) || !u.reaches u.myDie cd then u.holds
      else if u.stalePublish tt.ctx x.buffer (BitVec.ofNat 8 x.gen) then u.trap .staleTag Rec.zero
      else ((u.notePublished tt.block tt.idx dn.toNat).publish tt.ctx x.buffer k (BitVec.ofNat 8 x.gen)).issued) := by
  change execTagpub dn s = _
  simp only [execTagpub, h.runs.outsideTxn h.outside, h.decl, h.runs.myTt, h.task, h.output, Bool.not_true, Bool.false_eq_true, if_false,
    h.runs.afterRels h.noRels, hp, hd, State.ctlTurn, ctlError_of_descriptor hbs, hbs]

theorem tagpub_first (hp : s.hasPublished tt.block tt.idx dn.toNat = false) (hd : s.descHeld s.myCore s.myCtx x 32 = false)
    (hbs : s.descriptor x 32 = .ok bs u) (hsq : u.readStrand.sq = [])
    (hlive : (u.work.buf tt.ctx x.buffer).live = BitVec.ofNat 8 x.gen) (hr : u.reaches u.myDie cd = true) :
    exec (.tagpub dn) s =
      .next ((u.notePublished tt.block tt.idx dn.toNat).publish tt.ctx x.buffer k (BitVec.ofNat 8 x.gen)).issued := by
  have hdone (ls : List (Nat × Nat)) : u.readStrand.storesIn ls = false := by rw [Strand.storesIn, hsq, List.any_nil]
  have hstale : u.stalePublish tt.ctx x.buffer (BitVec.ofNat 8 x.gen) = false := by
    simp [State.stalePublish, hlive]
  simp only [tagpub_read h hp hd hbs, hdone, hr, hstale, Bool.not_true, Bool.or_self, Bool.false_eq_true, if_false]

theorem tagpub_cut (hp : s.hasPublished tt.block tt.idx dn.toNat = false) (hd : s.descHeld s.myCore s.myCtx x 32 = false)
    (hbs : s.descriptor x 32 = .ok bs u) (hr : u.reaches u.myDie cd = false) : exec (.tagpub dn) s = .next u.holds := by
  simp only [tagpub_read h hp hd hbs, hr, Bool.not_false, Bool.or_true, if_true]

end

theorem toNat_append_add {m k : Nat} (x : BitVec m) (y : BitVec k) : (x ++ y).toNat = x.toNat * 2 ^ k + y.toNat := by
  rw [BitVec.toNat_append, ← Nat.shiftLeft_add_eq_or_of_lt y.isLt, Nat.shiftLeft_eq]

/-- The snapshot of a tile in fine mode that has an entry, as a number (R201). -/
theorem tagSnapshot_entry {c : Nat} {x : Decl} {k : Key} {e : TrtEntry} (hfine : (s.work.buf c x.buffer).coarse = false)
    (he : s.work.entry c x.buffer k = some e) (hheld : e.held.length < 65536) :
    s.tagSnapshot c x k = BitVec.ofNat 64 ((s.work.buf c x.buffer).count.toNat * 2 ^ 32 + e.held.length * 2 ^ 16 +
      (s.work.buf c x.buffer).live.toNat * 2 ^ 8 + (if (s.work.buf c x.buffer).fresh then 4 else 0) + if e.published then 1 else 0) := by
  have hlive := (s.work.buf c x.buffer).live.isLt
  have hcount := (s.work.buf c x.buffer).count.isLt
  apply BitVec.eq_of_toNat_eq
  simp only [State.tagSnapshot, hfine, he, Bool.false_eq_true, if_false, Option.map_some, Option.getD_some]
  simp only [toNat_append_add, BitVec.toNat_ofNat]
  split_ifs <;> omega

/-- Settles O15: TAGPUB by what stands before it, then the snapshot of TAGQ. -/
theorem tileWords : Obligations.TileWords := by
  unfold Obligations.TileWords
  intro s u n st us tt dn x k d bs b ha htt hdecl
  have h := ha.runsAs
  refine ⟨fun ht hout hrels => ?_, fun hr => ?_, fun e hr hctl hfine he hheld => ?_⟩
  · have hpub : Publishes s n st tt dn.toNat x k := ⟨h, htt, hdecl, ht, hout, hrels⟩
    refine ⟨fun hp => tagpub_again hpub hp, fun hp hd hbs _ _ hsq hblock hfresh hlive hfine hentry hroom hr => ?_,
      fun hp hd hbs hr => tagpub_cut hpub hp hd hbs hr⟩
    obtain ⟨e, he, hpublished, hcount, hagain, hstrands, hmem⟩ := notePublished_publish (di := dn.toNat) (idx := tt.idx) hblock hfresh hlive
      hfine hentry hroom
    have hnext := tagpub_first hpub hp hd hbs hsq hlive hr
    generalize (u.notePublished tt.block tt.idx dn.toNat).publish tt.ctx x.buffer k (BitVec.ofNat 8 x.gen) = t at *
    exact ⟨_, e, hnext, rfl, he, hpublished, hcount, hagain, hstrands, hmem⟩
  · change execTagq d dn s = _
    simp only [execTagq, hdecl, h.myTt, htt, hr, Bool.not_false, if_true]
    rfl
  · change execTagq d dn s = _
    simp only [execTagq, hdecl, h.myTt, htt, hr, Bool.not_true, Bool.false_eq_true, if_false, State.ctlTurn, h.me, hctl, State.plain,
      tagSnapshot_entry hfine he hheld]

end Sys2Proof.Machine
end

-- ==== Proofs: postboxes as words move messages (O16) ====
section
/-! PROOF. What reads and writes at homes leave of the strand that acts, and which bytes a write leaves whatever else differs (R89, R104);
with that the words of a postbox (R111, R112, R203). -/
namespace Sys2Proof.Machine

variable {s t u v b : State} {n : Nat} {st : Strand}

/-! The strand that acts, after reads and writes at homes. -/

/-- The same agent acts, and every strand that is there stays. -/
structure State.SameAgent (s t : State) : Prop where
  cur : t.cur = s.cur
  here : ∀ n, (s.strandAt n).isSome → (t.strandAt n).isSome

theorem State.SameAgent.refl (s : State) : s.SameAgent s := ⟨rfl, fun _ h => h⟩

theorem State.SameAgent.of_strands (hcur : t.cur = s.cur) (hstrands : t.strands = s.strands) : s.SameAgent t :=
  ⟨hcur, fun n hn => by rwa [State.strandAt, hstrands]⟩

theorem State.SameAgent.trans (h : s.SameAgent t) (h' : t.SameAgent u) : s.SameAgent u :=
  ⟨h'.cur.trans h.cur, fun n hn => h'.here n (h.here n hn)⟩

theorem State.SameAgent.ite {p : Prop} [Decidable p] (hu : s.SameAgent u) (hv : s.SameAgent v) : s.SameAgent (if p then u else v) := by
  split
  · exact hu
  · exact hv

theorem State.SameAgent.foldl {α : Type} {f : State → α → State} (hf : ∀ (s : State) x, s.SameAgent (f s x)) (l : List α) (s : State) :
    s.SameAgent (l.foldl f s) := by
  induction l generalizing s with
  | nil => exact .refl s
  | cons x l ih => exact (hf s x).trans (ih (f s x))

theorem modStrand_sameAgent (s : State) (n : Nat) (f : Strand → Strand) : s.SameAgent (s.modStrand n f) := by
  refine ⟨State.modStrand_cur .., fun m hm => ?_⟩
  rw [State.strandAt_modStrand]
  split
  next e => rwa [Option.isSome_map, ← e]
  next => exact hm

theorem modMe_sameAgent (s : State) (f : Strand → Strand) : s.SameAgent (s.modMe f) := by
  unfold State.modMe
  split
  · exact modStrand_sameAgent ..
  · exact .refl s

theorem touchL2_sameAgent (s : State) (ctx pa : Nat) (dirty : Bool) : s.SameAgent (s.touchL2 ctx pa dirty) := by
  obtain ⟨w, c, r, e⟩ := touchL2_frame s ctx pa dirty
  rw [e]
  exact .of_strands rfl rfl

theorem touchParts_sameAgent (s : State) (ctx : Nat) (ps : List Part) : s.SameAgent (s.touchParts ctx ps) := by
  unfold State.touchParts
  exact .foldl (fun s p => touchL2_sameAgent s ctx p.pa false) ps s

theorem fireMonitor_sameAgent (s : State) (n : Nat) (o : LoadOp) (d : GReg) : s.SameAgent (s.fireMonitor n o d) := by
  unfold State.fireMonitor
  split
  · exact (modStrand_sameAgent ..).trans (.of_strands rfl rfl)
  · exact .refl s

theorem wake_sameAgent (s : State) (pa n : Nat) : s.SameAgent (s.wake pa n) := by
  refine .foldl (fun s x => ?_) _ s
  split
  · split
    · split
      · exact .ite (fireMonitor_sameAgent ..) (.refl s)
      · exact .refl s
    · exact .refl s
  · exact .refl s

theorem homeWrite_sameAgent (s : State) (ctx pa : Nat) (bs : List (Option Byte)) (tag : Bool) : s.SameAgent (s.homeWrite ctx pa bs tag) :=
  .trans (t := s.modMem fun m => m.write pa bs tag) (.of_strands rfl rfl) (.trans (touchL2_sameAgent ..) (wake_sameAgent ..))

theorem writeParts_sameAgent (s : State) (ctx : Nat) (bs : List Byte) (tag : Bool) (ps : List Part) :
    s.SameAgent (s.writeParts ctx bs tag ps) := by
  induction ps generalizing s with
  | nil => exact .refl s
  | cons p ps ih => exact (homeWrite_sameAgent ..).trans (ih _)

theorem dropParts_sameAgent (s : State) (ps : List Part) : s.SameAgent (s.dropParts ps) := by
  unfold State.dropParts
  refine .foldl (fun _ _ => ?_) ps s
  exact .of_strands rfl rfl

theorem spmStore_sameAgent (s : State) (ps : Pushes) (tag : Bool) : s.SameAgent (s.spmStore ps tag) :=
  .ite (modMe_sameAgent ..) (.of_strands rfl rfl)

/-! The bytes that a write leaves. -/

theorem State.SameHome.symm (h : s.SameHome t) : t.SameHome s := ⟨h.bytes.symm, h.frames.symm, h.cxlUp.symm, h.host.symm⟩

theorem State.SameHome.ite {p : Prop} [Decidable p] (hu : s.SameHome u) (hv : s.SameHome v) : s.SameHome (if p then u else v) := by
  split
  · exact hu
  · exact hv

/-- The bytes of a write depend on the bytes, the frames and the links before it. -/
theorem State.SameHome.write (h : s.SameHome t) (pa : Nat) (bs : List (Option Byte)) (tag : Bool) :
    (s.modMem fun m => m.write pa bs tag).SameHome (t.modMem fun m => m.write pa bs tag) := by
  refine ⟨?_, ?_, ?_, h.host⟩
  · simp only [State.modMem_mem, MemState.write, h.discards]
    split
    · exact h.bytes
    · exact congrArg (putBytes · pa bs) h.bytes
  · rw [State.modMem_mem, State.modMem_mem, write_frames, write_frames, h.frames]
  · rw [State.modMem_mem, State.modMem_mem, write_cxlUp, write_cxlUp, h.cxlUp]

theorem State.SameHome.homeWrite (h : s.SameHome t) (ctx ctx' pa : Nat) (bs : List (Option Byte)) (tag : Bool) :
    (s.homeWrite ctx pa bs tag).SameHome (t.homeWrite ctx' pa bs tag) :=
  (homeWrite_sameHome s ctx pa bs tag).symm.trans ((h.write pa bs tag).trans (homeWrite_sameHome t ctx' pa bs tag))

theorem State.SameHome.writeParts (h : s.SameHome t) (ctx ctx' : Nat) (bs : List Byte) (tag : Bool) (ps : List Part) :
    (s.writeParts ctx bs tag ps).SameHome (t.writeParts ctx' bs tag ps) := by
  induction ps generalizing s t with
  | nil => exact h
  | cons p ps ih => exact ih (h.homeWrite ctx ctx' p.pa _ tag)

theorem modMe_sameHome (s : State) (f : Strand → Strand) : s.SameHome (s.modMe f) := by
  unfold State.modMe
  split
  · constructor <;> simp
  · exact .refl s

theorem touchParts_sameHome (s : State) (ctx : Nat) (ps : List Part) : s.SameHome (s.touchParts ctx ps) := by
  unfold State.touchParts
  exact .foldl (fun s p => touchL2_sameHome s ctx p.pa false) ps s

theorem dropParts_sameHome (s : State) (ps : List Part) : s.SameHome (s.dropParts ps) := by
  unfold State.dropParts
  refine .foldl (fun _ _ => ?_) ps s
  exact ⟨rfl, rfl, rfl, rfl⟩

theorem spmStore_sameHome (s : State) (ps : Pushes) (tag : Bool) : s.SameHome (s.spmStore ps tag) :=
  .ite (modMe_sameHome ..) ⟨rfl, rfl, rfl, rfl⟩

/-! The scratchpads. -/

theorem State.SameUnits.writeParts {ctx : Nat} {bs : List Byte} {tag : Bool} {ps : List Part} (h : b.SameUnits s) :
    b.SameUnits (s.writeParts ctx bs tag ps) := by
  induction ps generalizing s with
  | nil => exact h
  | cons p ps ih => exact ih h.homeWrite

theorem State.SameUnits.dropParts {ps : List Part} (h : b.SameUnits s) : b.SameUnits (s.dropParts ps) := h.foldl fun _ _ h => h.dropCopies

theorem State.SameUnits.acquireCore {core ctx : Nat} (h : b.SameUnits s) : b.SameUnits (s.acquire core ctx .core none) := by
  rw [acquire_eq]
  exact .modCore (.modCore h fun _ => ⟨rfl, rfl, rfl⟩) fun _ => ⟨rfl, rfl, rfl⟩

/-! Words of a postbox. -/

/-- What a postbox word needs of its registers and its strand: a message's place in the window, and a box that there is (R203). -/
structure PostboxWord (s : State) (n : Nat) (st : Strand) (a b : GReg) (c : Ctx) : Prop where
  acts : s.acts n st
  outside : st.txn = none
  produced : s.produced [a, b]
  clear : s.clear [a, b]
  ctx : s.ctxAt s.myCtx = some c
  box : (s.g a).toNat < c.mbCount.toNat

/-- The place of a message: 64-byte aligned, in the window, and not being written (R203, R213). -/
structure MessagePlace (s : State) (st : Strand) (b : GReg) : Prop where
  low : (s.window).1 ≤ (s.g b).toNat
  high : (s.g b).toNat + 64 ≤ (s.window).1 + (s.window).2
  aligned : (s.g b).toNat % 64 = 0
  space : (s.g b).toNat < 2 ^ 21
  free : st.spmPending (s.g b).toNat 64 = false

theorem withMessage_place {a b : GReg} {c : Ctx} (h : PostboxWord s n st a b c) (hm : MessagePlace s st b) (d : GReg) (k : Nat → State) :
    s.withMessage d a b k = k (s.g b).toNat := by
  obtain ⟨low, high, aligned, space, free⟩ := hm
  have hcheck : spmCheck s.window.1 s.window.2 (s.g b) 64 64 false = none := by
    simpa [spmCheck, inWindow, aligned, low, high] using space
  simp only [State.withMessage, h.acts.runsAs.outsideTxn h.outside, State.whenReady_produced h.produced, State.clean_clear h.clear, hcheck,
    h.acts.readStrand, free, Bool.false_eq_true, if_false]

/-- An operation on parts whose homes are free goes on there. -/
theorem atHomes_free {ps : List Part} {write : Bool} (hf : s.homesFree s.myDie ps = true)
    (hb : write = true → ∀ q ∈ ps, s.mem.bounces q.pa = false) (k : State → State) :
    s.atHomes ps write k = k (s.touchParts s.myCtx ps) := by
  have hstays : (write && ps.any fun p => s.mem.bounces p.pa) = false := by
    cases write with
    | false => rfl
    | true => simpa using hb rfl
  rw [State.atHomes, hf, hstays]
  rfl

/-- The control block of a postbox granted and read at its home, which leaves `u`. -/
structure BoxRead (s u : State) (a : GReg) (c : Ctx) (need : Need) (cb : List Part) (p : Postbox) : Prop where
  walks : s.walkHeld s.myDie (some s.myCore) s.myCtx (c.mbBase + BitVec.ofNat 64 (16 * (s.g a).toNat)) 16 = false
  grant : s.myAccess (c.mbBase + BitVec.ofNat 64 (16 * (s.g a).toNat)) 16 need = .ok cb u
  homes : u.homesFree u.myDie cb = true
  stays : need = .write → ∀ q ∈ cb, u.mem.bounces q.pa = false
  box : ∃ bs, (u.touchParts u.myCtx cb).readParts cb = (bs, false) ∧ postboxOf bs = some p

theorem withPostbox_read {a b : GReg} {c : Ctx} {need : Need} {cb : List Part} {p : Postbox} (h : PostboxWord s n st a b c)
    (hr : BoxRead s u a c need cb p) (d : GReg) (k : Postbox → List Part → State → State) :
    s.withPostbox d a need k = k p cb (u.touchParts u.myCtx cb) := by
  obtain ⟨bs, hbs, hp⟩ := hr.box
  simp only [State.withPostbox, h.ctx, if_neg (Nat.not_le.mpr h.box), withAccess_granted hr.walks hr.grant,
    atHomes_free hr.homes fun hw => hr.stays (of_decide_eq_true hw), hbs, hp, Bool.false_eq_true, if_false]

/-- A slot of the ring granted, its homes free, which leaves `v`. -/
structure SlotRead (u v : State) (x : W64) (ps : List Part) : Prop where
  walks : u.walkHeld u.myDie (some u.myCore) u.myCtx x 64 = false
  grant : u.myAccess x 64 .write = .ok ps v
  homes : v.homesFree v.myDie ps = true

theorem withSlot_read {x : W64} {ps : List Part} {write : Bool} (h : SlotRead u v x ps)
    (hb : write = true → ∀ q ∈ ps, v.mem.bounces q.pa = false) (d : GReg) (k : List Part → State → State) :
    u.withAccess x 64 .write (State.lost d) (fun ps v => v.atHomes ps write (k ps)) = k ps (v.touchParts v.myCtx ps) := by
  rw [withAccess_granted h.walks h.grant, atHomes_free h.homes hb]

section
variable {d a b : GReg} {c : Ctx} {cb ps : List Part} {p : Postbox} (h : PostboxWord s n st a b c)
include h

/-- MBSEND with its control block read, and everything before it performed. -/
theorem mbsend_read (hm : MessagePlace s st b) (hrel : s.released = true) (hr : BoxRead s u a c .write cb p) :
    exec (.mbsend d a b) s = .next (
      let u' := u.touchParts u.myCtx cb
      if p.used = p.cap then ((u'.dropParts cb).setG d 1 false).issued
      else u'.withAccess (p.slot p.tail) 64 .write (State.lost d) fun ps v => v.atHomes ps true fun v =>
        let msg := v.readCore.spmRead (s.g b).toNat 64
        (((((v.writeParts v.myCtx msg.1 msg.2 ps).writeCounts cb p.head (p.tail + 1)).dropParts ps).dropParts cb).setG d 0 false).issued) := by
  change execMbsend d a b s = _
  simp only [execMbsend, withMessage_place h hm, hrel, Bool.not_true, Bool.false_eq_true, if_false, withPostbox_read h hr]

/-- MBRECV with its control block read. -/
theorem mbrecv_read (hm : MessagePlace s st b) (hl : st.lq = []) (hr : BoxRead s u a c .write cb p) :
    exec (.mbrecv d a b) s = .next (
      let u' := u.touchParts u.myCtx cb
      if p.used = 0 then ((u'.dropParts cb).setG d 1 false).issued
      else u'.withAccess (p.slot p.head) 64 .write (State.lost d) fun ps v => v.atHomes ps false fun v =>
        let got := v.readParts ps
        let w := (((v.spmStore [pushBytes (s.g b).toNat 64 (leNat got.1)] got.2).writeCounts cb (p.head + 1) p.tail).dropParts ps).dropParts cb
        ((w.acquire w.myCore w.myCtx .core none).setG d 0 false).issued) := by
  change execMbrecv d a b s = _
  simp only [execMbrecv, withMessage_place h hm, State.afterLoads, h.acts.runsAs.me, hl, if_true, withPostbox_read h hr]

end

section
variable {d a b : GReg} {c : Ctx} {cb ps : List Part} {p : Postbox} (h : PostboxWord s n st a b c)
include h

theorem mbsend_full (hm : MessagePlace s st b) (hrel : s.released = true) (hr : BoxRead s u a c .write cb p) (hp : p.used = p.cap) :
    exec (.mbsend d a b) s = .next ((((u.touchParts u.myCtx cb).dropParts cb).setG d 1 false).issued) := by
  simp only [mbsend_read h hm hrel hr, hp, if_true]

theorem mbsend_sends (hm : MessagePlace s st b) (hrel : s.released = true) (hr : BoxRead s u a c .write cb p) (hp : p.used ≠ p.cap)
    (hs : SlotRead (u.touchParts u.myCtx cb) v (p.slot p.tail) ps) (hb : ∀ q ∈ ps, v.mem.bounces q.pa = false) :
    let v' := v.touchParts v.myCtx ps
    let msg := v'.readCore.spmRead (s.g b).toNat 64
    let w := (v'.writeParts v'.myCtx msg.1 msg.2 ps).writeCounts cb p.head (p.tail + 1)
    exec (.mbsend d a b) s = .next ((((w.dropParts ps).dropParts cb).setG d 0 false).issued) := by
  simp only [mbsend_read h hm hrel hr, if_neg hp, withSlot_read hs fun _ => hb]

theorem mbrecv_empty (hm : MessagePlace s st b) (hl : st.lq = []) (hr : BoxRead s u a c .write cb p) (hp : p.used = 0) :
    exec (.mbrecv d a b) s = .next ((((u.touchParts u.myCtx cb).dropParts cb).setG d 1 false).issued) := by
  simp only [mbrecv_read h hm hl hr, hp, if_true]

theorem mbrecv_receives (hm : MessagePlace s st b) (hl : st.lq = []) (hr : BoxRead s u a c .write cb p) (hp : p.used ≠ 0)
    (hs : SlotRead (u.touchParts u.myCtx cb) v (p.slot p.head) ps) :
    let v' := v.touchParts v.myCtx ps
    let got := v'.readParts ps
    let w := (v'.spmStore [pushBytes (s.g b).toNat 64 (leNat got.1)] got.2).writeCounts cb (p.head + 1) p.tail
    let y := (w.dropParts ps).dropParts cb
    exec (.mbrecv d a b) s = .next (((y.acquire y.myCore y.myCtx .core none).setG d 0 false).issued) := by
  simp only [mbrecv_read h hm hl hr, if_neg hp, withSlot_read (write := false) hs (by simp)]

theorem mbpoll_next (hr : BoxRead s u a c .read cb p) : exec (.mbpoll d a) s =
    .next ((((u.touchParts u.myCtx cb).dropParts cb).setG d (BitVec.ofNat 64 p.used) false).issued) := by
  have hp : s.produced [a] := fun r hr => h.produced r (List.mem_cons.mpr (.inl (List.mem_singleton.mp hr)))
  have hc : s.clear [a] := fun r hr => h.clear r (List.mem_cons.mpr (.inl (List.mem_singleton.mp hr)))
  change execMbpoll d a s = _
  simp only [execMbpoll, h.acts.runsAs.outsideTxn h.outside, State.whenReady_produced hp, State.clean_clear hc, withPostbox_read h hr]

end

/-- The register of a word that ends reads the answer. -/
def State.Answers (t : State) (n : Nat) (d : GReg) (x : W64) : Prop := ∃ st', t.strandAt n = some st' ∧ tget 0 st'.g d.toNat = x

/-- A word that ends with an answer to the strand that acts: the register reads it, and memory and the cores stay. -/
theorem plain_answers {d : GReg} (hcur : u.cur = .strand n) (hhere : (u.strandAt n).isSome) (hu : u.SameAgent s) (hd : d ≠ 0) (x : W64) :
    (s.setG d x false).issued.Answers n d x ∧ (s.setG d x false).issued.mem = s.mem ∧ (s.setG d x false).issued.cores = s.cores := by
  obtain ⟨st, hst⟩ := Option.isSome_iff_exists.mp (hu.here n hhere)
  have h : s.RunsAs n st := ⟨hu.cur.trans hcur, hst⟩
  rw [h.setG]
  refine ⟨⟨_, State.strandAt_setStrand_same .., ?_⟩, rfl, rfl⟩
  rw [Strand.setG_g, if_pos ⟨hd, rfl⟩]

/-- The end of a word that only read: it answers, and no byte changes. -/
theorem read_answers {d : GReg} (hcur : u.cur = .strand n) (hhere : (u.strandAt n).isSome) (hd : d ≠ 0) (cb : List Part) (x : W64) :
    let t := (((u.touchParts u.myCtx cb).dropParts cb).setG d x false).issued
    t.Answers n d x ∧ t.mem.bytes = u.mem.bytes := by
  obtain ⟨hans, hmem, -⟩ := plain_answers hcur hhere ((touchParts_sameAgent u u.myCtx cb).trans (dropParts_sameAgent _ cb)) hd x
  exact ⟨hans, (congrArg MemState.bytes hmem).trans ((touchParts_sameHome u u.myCtx cb).trans (dropParts_sameHome _ cb)).bytes⟩

theorem acquireCore_mem (s : State) (core ctx : Nat) : (s.acquire core ctx .core none).mem = s.mem := by
  rw [acquire_eq]
  rfl

theorem acquireCore_sameAgent (s : State) (core ctx : Nat) : s.SameAgent (s.acquire core ctx .core none) := by
  rw [acquire_eq]
  exact .of_strands rfl rfl

/-- The end of MBSEND: the answer, and the bytes of the message and the counts. -/
theorem sent_answers {d : GReg} (hcur : v.cur = .strand n) (hhere : (v.strandAt n).isSome) (hd : d ≠ 0) {w : State} (hw : v.SameAgent w)
    (ps cb : List Part) (x : W64) :
    let t := (((w.dropParts ps).dropParts cb).setG d x false).issued
    t.Answers n d x ∧ t.mem.bytes = w.mem.bytes := by
  obtain ⟨hans, hmem, -⟩ := plain_answers hcur hhere (hw.trans ((dropParts_sameAgent w ps).trans (dropParts_sameAgent _ cb))) hd x
  exact ⟨hans, (congrArg MemState.bytes hmem).trans ((dropParts_sameHome w ps).trans (dropParts_sameHome _ cb)).bytes⟩

/-- A message put in the scratchpad, with no earlier write of the strand in flight. -/
theorem spmStore_spm {core a x : Nat} {tag : Bool} (hcore : s.myCore = core) (ho : s.me.owesBefore (s.me.mark + 1) = false) :
    ((s.spmStore [pushBytes a 64 x] tag).coreAt core).spm =
      ((s.coreAt core).push s.myCtx a (BitVec.ofNat 4096 x) (BitVec.ofNat 4096 (2 ^ 512 - 1)) tag).spm := by
  simp only [State.spmStore, ho, Bool.false_eq_true, if_false, State.coreAt_modCore, hcore, if_true, Core.pushAll,
    List.foldl_cons, List.foldl_nil, pushBytes, Nat.reduceMul]

/-- The end of MBRECV: the answer, the bytes of the counts, and the message in the scratchpad. -/
theorem received_answers {d : GReg} (hcur : v.cur = .strand n) (hhere : (v.strandAt n).isSome) (hd : d ≠ 0) (ps cb : List Part)
    (m : Nat) (got : List Byte × Bool) (head tail : W32) (x : W64) :
    let w := (v.spmStore [pushBytes m 64 (leNat got.1)] got.2).writeCounts cb head tail
    let y := (w.dropParts ps).dropParts cb
    let t := ((y.acquire y.myCore y.myCtx .core none).setG d x false).issued
    t.Answers n d x ∧ t.mem.bytes = (v.writeCounts cb head tail).mem.bytes ∧
      (v.me.owesBefore (v.me.mark + 1) = false → (t.coreAt (coreOfStrand n)).spm =
        ((v.coreAt (coreOfStrand n)).push v.myCtx m (BitVec.ofNat 4096 (leNat got.1)) (BitVec.ofNat 4096 (2 ^ 512 - 1)) got.2).spm) := by
  intro w y t
  have hw : v.SameAgent w := (spmStore_sameAgent ..).trans (writeParts_sameAgent ..)
  have hy : v.SameAgent y := hw.trans ((dropParts_sameAgent w ps).trans (dropParts_sameAgent _ cb))
  obtain ⟨hans, hmem, hcores⟩ := plain_answers hcur hhere (hy.trans (acquireCore_sameAgent y y.myCore y.myCtx)) hd x
  refine ⟨hans, ?_, fun ho => ?_⟩
  · have hbytes : t.mem.bytes = y.mem.bytes := congrArg MemState.bytes (hmem.trans (acquireCore_mem ..))
    have hdrop : y.mem.bytes = w.mem.bytes := ((dropParts_sameHome w ps).trans (dropParts_sameHome _ cb)).bytes
    exact hbytes.trans (hdrop.trans ((spmStore_sameHome v _ _).writeParts _ _ _ _ _).bytes)
  · have hcore : v.myCore = coreOfStrand n := by simp only [State.myCore, State.myNum, hcur]
    have hunits : (v.spmStore [pushBytes m 64 (leNat got.1)] got.2).SameUnits (y.acquire y.myCore y.myCtx .core none) :=
      (State.SameUnits.refl _).writeParts.dropParts.dropParts.acquireCore
    obtain ⟨hspm, -, -⟩ := hunits.core (coreOfStrand n)
    have hsame : t.coreAt (coreOfStrand n) = (y.acquire y.myCore y.myCtx .core none).coreAt (coreOfStrand n) :=
      congrArg (tget Core.init · (coreOfStrand n)) hcores
    rw [hsame, hspm, spmStore_spm hcore ho]

/-- Settles O16: the two words that wait, then each word with its control block read. -/
theorem postboxes : Obligations.Postboxes := by
  unfold Obligations.Postboxes
  intro s u v n st d a b c cb ps bs p ha ht hp hc hctx hbox hlow hhigh hal hspace hpend hd
  have h : PostboxWord s n st a b c := ⟨ha, ht, hp, hc, hctx, hbox⟩
  have hm : MessagePlace s st b := ⟨hlow, hhigh, hal, hspace, hpend⟩
  refine ⟨fun hsq => ?_, fun hl => ?_, ?_⟩
  · have hrel : s.released = false := by
      rw [State.released, h.acts.runsAs.me]
      exact relDone_false_of_store hsq
    change execMbsend d a b s = _
    simp only [execMbsend, withMessage_place h hm, hrel, Bool.not_false, if_true]
    rfl
  · change execMbrecv d a b s = _
    simp only [execMbrecv, withMessage_place h hm, State.afterLoads, h.acts.runsAs.me, if_neg hl]
    rfl
  · intro answers box u' v' hwalk hhomes hread hpost hucur hvcur huhere hvhere slot
    have reads {need : Need} (hg : s.myAccess box 16 need = .ok cb u) (hb : need = .write → ∀ q ∈ cb, u.mem.bounces q.pa = false) :
        BoxRead s u a c need cb p := ⟨hwalk, hg, hhomes, hb, bs, hread, hpost⟩
    have granted {x : W64} (hx : slot x) : SlotRead u' v x ps := ⟨hx.1, hx.2.1, hx.2.2⟩
    refine ⟨fun hg hb hrel => ?_, fun hg hb hl => ?_, fun hg => ?_⟩
    · intro msg w
      have hr := reads hg fun _ => hb
      refine ⟨fun hp hs hb' => ?_, fun hp => ?_⟩
      · have hw : v.SameAgent w := (touchParts_sameAgent ..).trans ((writeParts_sameAgent ..).trans (writeParts_sameAgent ..))
        obtain ⟨hans, hbytes⟩ := sent_answers hvcur hvhere hd hw ps cb 0
        exact ⟨_, mbsend_sends h hm hrel hr hp (granted hs) hb', rfl, hans, hbytes⟩
      · obtain ⟨hans, hbytes⟩ := read_answers hucur huhere hd cb 1
        exact ⟨_, mbsend_full h hm hrel hr hp, rfl, hans, hbytes⟩
    · have hr := reads hg fun _ => hb
      refine ⟨fun hp => ?_, fun hp hs => ?_⟩
      · obtain ⟨hans, hbytes⟩ := read_answers hucur huhere hd cb 1
        exact ⟨_, mbrecv_empty h hm hl hr hp, rfl, hans, hbytes⟩
      · have hv' : v.SameAgent v' := touchParts_sameAgent ..
        obtain ⟨hans, hbytes, hspm⟩ := received_answers (hv'.cur.trans hvcur) (hv'.here n hvhere) hd ps cb (s.g b).toNat (v'.readParts ps)
          (p.head + 1) p.tail 0
        exact ⟨_, mbrecv_receives h hm hl hr hp (granted hs), rfl, hans, hbytes, hspm⟩
    · obtain ⟨hans, hbytes⟩ := read_answers hucur huhere hd cb (BitVec.ofNat 64 p.used)
      exact ⟨_, mbpoll_next h (reads hg (by simp)), rfl, hans, hbytes⟩

end Sys2Proof.Machine
end

-- ==== Proofs: commits that end (O42) ====
section
/-! PROOF. A transaction performed or aborted as a whole (R101, R102), and the lazy commit of a page (R86, R87). -/
namespace Sys2Proof.Machine

variable {s : State} {n : Nat} {st : Strand} {x : Txn}

/-! Buffered stores performed (R101). -/

theorem getElem?_tgets {α : Type} (d : α) (t : Tab α) (a c i : Nat) :
    (tgets d t a c)[i]? = if i < c then some (tget d t (a + i)) else none := by
  induction c generalizing a i with
  | zero => rfl
  | succ c ih =>
    cases i with
    | zero => rfl
    | succ i => rw [tgets, List.getElem?_cons_succ, ih, Nat.add_right_comm, Nat.add_assoc]; simp only [Nat.add_lt_add_iff_right]

/-- A sector of a transaction performed at its home: its buffered bytes, and no other. -/
theorem homeWrite_sector {ctx c : Nat} {writes : Tab (Option Byte)} {tag : Bool} (hd : s.mem.discards (c * 64) = false) (a : Nat) :
    (s.homeWrite ctx (c * 64) (tgets none writes (c * 64) 64) tag).mem.byteAt a =
      if a / 64 = c then (tget none writes a).getD (s.mem.byteAt a) else s.mem.byteAt a := by
  rw [homeWrite_byteAt, byteAt_write _ _ _ _ _ hd, getElem?_tgets]
  by_cases hc : a / 64 = c
  · rw [if_pos (by omega), if_pos (by omega), if_pos hc, Nat.add_sub_cancel' (by omega)]
    rfl
  · rw [if_neg hc]
    by_cases hle : c * 64 ≤ a
    · rw [if_pos hle, if_neg (by omega)]
      rfl
    · rw [if_neg hle]

/-- The sectors of a transaction performed, one after another: every buffered byte of theirs, and no other. -/
theorem homeWrite_sectors (ctx : Nat) (writes : Tab (Option Byte)) (l : List (Nat × Bool)) :
    ∀ s : State, (∀ c ∈ l, s.mem.discards (c.1 * 64) = false) → ∀ a,
      (l.foldl (fun s c => s.homeWrite ctx (c.1 * 64) (tgets none writes (c.1 * 64) 64) c.2) s).mem.byteAt a =
        if a / 64 ∈ l.map (·.1) then (tget none writes a).getD (s.mem.byteAt a) else s.mem.byteAt a := by
  induction l with
  | nil => exact fun s _ a => (if_neg (List.not_mem_nil)).symm
  | cons c l ih =>
    intro s hd a
    rw [List.foldl_cons, ih _ fun x hx => by rw [homeWrite_discards, hd x (List.mem_cons_of_mem c hx)],
      homeWrite_sector (hd c List.mem_cons_self)]
    simp only [List.map_cons, List.mem_cons]
    by_cases hc : a / 64 = c.1
    · rw [if_pos hc, if_pos (Or.inl hc)]
      cases tget none writes a
      · simp only [Option.getD_none, ite_self]
      · simp only [Option.getD_some, ite_self]
    · rw [if_neg hc]
      exact if_congr (or_iff_right hc).symm rfl rfl

theorem dropCopies_fold_bytes (core : Nat) (l : List Nat) (s : State) (a : Nat) :
    (l.foldl (fun s c => s.dropCopies core (c / 2)) s).mem.byteAt a = s.mem.byteAt a := by
  have h : s.SameHome (l.foldl (fun s c => s.dropCopies core (c / 2)) s) := by
    refine .foldl (fun _ _ => ?_) l s
    exact ⟨rfl, rfl, rfl, rfl⟩
  rw [MemState.byteAt, h.bytes, MemState.byteAt]

/-- A transaction that marks no page: what performing it leaves. -/
theorem txnPerform_leaves (hp : x.pages = []) (hd : ∀ c ∈ x.stored, s.mem.discards (c.1 * 64) = false) :
    s.SameAgent (s.txnPerform n x) ∧ ∀ a, (s.txnPerform n x).mem.byteAt a =
      if a / 64 ∈ x.stored.map (·.1) then (tget none x.writes a).getD (s.mem.byteAt a) else s.mem.byteAt a := by
  simp only [State.txnPerform, hp, List.foldl_nil]
  refine ⟨.trans (.foldl (fun s c => homeWrite_sameAgent ..) x.stored s) (.foldl (fun _ _ => ?_) x.sectors _), fun a => ?_⟩
  · exact .of_strands rfl rfl
  · rw [dropCopies_fold_bytes, homeWrite_sectors _ _ _ _ hd]

theorem txnConflict_iff : s.txnConflict x = true ↔ ∃ r ∈ x.reads, tget 0 s.mem.ver r.1 ≠ r.2 := by
  simp [State.txnConflict]

theorem txnPoison_iff : s.txnPoison x = true ↔ ∃ c ∈ x.sectors, s.mem.poisonAt (c * 64) = true := by
  simp [State.txnPoison]

/-- A commit in its turn, with nothing in its way, performs (R101). -/
theorem txnCommit_next (hst : s.strandAt n = some st) (ht : st.txn = some x) (hphase : x.phase = 1) (hmay : st.commitMay = true)
    (hstale : ¬ ∃ r ∈ x.reads, tget 0 s.mem.ver r.1 ≠ r.2)
    (hfree : ∀ c ∈ x.sectors, s.mem.poisonAt (c * 64) = false ∧ s.mem.bounces (c * 64) = false ∧
      s.homeFree (dieOfCore (coreOfStrand n)) (c * 64) = true) :
    exec (.txnCommit n) s = .next ((s.txnPerform n x).modStrand n fun st => { st with txn := some { x with phase := 2 } }) := by
  have hconflict : s.txnConflict x = false := Bool.eq_false_iff.mpr fun h => hstale (txnConflict_iff.mp h)
  have hpoison : s.txnPoison x = false := Bool.eq_false_iff.mpr fun h => by
    obtain ⟨c, hc, hbad⟩ := txnPoison_iff.mp h
    exact absurd hbad (Bool.eq_false_iff.mp (hfree c hc).1)
  have hheld : (x.sectors.any fun c => s.mem.bounces (c * 64) || !s.homeFree (s.dieOfStrand n) (c * 64)) = false := by
    refine List.any_eq_false.mpr fun c hc => ?_
    obtain ⟨-, hb, hh⟩ := hfree c hc
    have hh' : s.homeFree (s.dieOfStrand n) (c * 64) = true := hh
    simp [hb, hh']
  change execTxnCommit n s = _
  simp [execTxnCommit, hst, ht, hphase, hmay, hconflict, hpoison, hheld]

/-- An abort that a home reports, at the abort target (R102). -/
theorem txnAbort_next (hst : s.strandAt n = some st) (ht : st.txn = some x) {t : W64} (hx : x.target = some t) (hphase : x.phase < 2)
    (h : (x.phase = 1 && s.txnPoison x) = true ∨ s.txnConflict x = true) :
    ∃ u, exec (.txnAbort n) s = .next u ∧ u.mem = s.mem ∧ u.strandAt n = some { st with
      txn := none, txsCode := if s.txnConflict x then 1 else 6, pc := t, waiting := false, commitWait := none } := by
  have hgo : ¬ (!(decide (x.phase = 1) && s.txnPoison x) && !s.txnConflict x) = true := by
    rcases h with h | h <;> simp [h]
  have hopen := fun c => Strand.abortTxn_open ht (by omega) c
  have hnext : exec (.txnAbort n) s = .next ((s.modStrand n fun st =>
      { st.abortTxn (if s.txnConflict x then 1 else 6) with pc := t, waiting := false, commitWait := none }).modCore (coreOfStrand n)
        (·.modSync (·.leave (.strand n)))) := by
    change execTxnAbort n s = _
    simp only [execTxnAbort, hst, ht, hx, hphase, decide_true, Bool.true_and, if_neg hgo]
  refine ⟨_, hnext, ?_, ?_⟩
  · rw [State.modCore_mem, State.modStrand_mem]
  · refine (State.strandAt_modStrand ..).trans ?_
    rw [if_pos rfl, hst, Option.map_some, hopen]

/-! Lazy commit (R86, R87). -/

theorem bit63_iff (x : W64) : bits x.toNat 63 1 = 1 ↔ x.getLsbD 63 = true := by
  rw [BitVec.getLsbD, Nat.testBit_eq_decide_div_mod_eq]
  simp [bits]

/-- A frame zeroed at its home: its bytes are 0, and every other byte stays. -/
theorem zeroFrame_byteAt {f : Nat} (hd : s.mem.discards f = false) (k a : Nat) :
    (s.zeroFrame f k).mem.byteAt a = if f ≤ a ∧ a < f + k then 0 else s.mem.byteAt a := by
  obtain ⟨w, c, r, e⟩ := touchSpan_frame s f k
  have hd' : MemState.discards { s.mem with l2Sets := w, chanAccess := c, refresh := r } f = false := hd
  simp only [State.zeroFrame, e, State.modMem, hd', Bool.false_eq_true, if_false]
  refine (tget_tfilter_key 0 (fun k' => !(f ≤ k' && k' < f + k)) s.mem.bytes a).trans ?_
  by_cases h : f ≤ a ∧ a < f + k
  · rw [if_pos h, if_neg (by simpa using h)]
  · rw [if_neg h, if_pos (by simp only [Bool.not_eq_true', Bool.and_eq_false_iff, decide_eq_false_iff_not]; omega)]
    rfl

/-- Two states with the same memory beside the RDC copies, the same contexts and the same host port. -/
structure State.SameStore (s t : State) : Prop where
  mem : { t.mem with rdc := s.mem.rdc, rdcSets := s.mem.rdcSets } = s.mem
  ctxs : t.ctxs = s.ctxs
  host : t.host = s.host

theorem State.SameStore.refl (s : State) : s.SameStore s := ⟨rfl, rfl, rfl⟩

theorem State.SameStore.trans {s t u : State} (h : s.SameStore t) (h' : t.SameStore u) : s.SameStore u :=
  ⟨by rw [← h.mem, ← h'.mem], h'.ctxs.trans h.ctxs, h'.host.trans h.host⟩

theorem State.SameStore.foldl {α : Type} {f : State → α → State} (hf : ∀ (s : State) x, s.SameStore (f s x)) (l : List α) (s : State) :
    s.SameStore (l.foldl f s) := by
  induction l generalizing s with
  | nil => exact .refl s
  | cons x l ih => exact (hf s x).trans (ih (f s x))

theorem fireMonitor_sameStore (s : State) (n : Nat) (o : LoadOp) (d : GReg) : s.SameStore (s.fireMonitor n o d) := by
  unfold State.fireMonitor
  split
  · constructor <;> simp [State.dropCopies, State.dropRdc, State.dropL1]
  · exact .refl s

theorem wake_sameStore (s : State) (pa k : Nat) : s.SameStore (s.wake pa k) := by
  refine .foldl (fun s x => ?_) _ s
  split
  · split
    · split
      · split
        · exact fireMonitor_sameStore ..
        · exact .refl s
      · exact .refl s
    · exact .refl s
  · exact .refl s

/-- A write at its home leaves the pools of free frames, and the channel that is being retired. -/
theorem homeWrite_pool (s : State) (ctx pa : Nat) (bs : List (Option Byte)) (tag : Bool) :
    (s.homeWrite ctx pa bs tag).mem.pool = s.mem.pool ∧ (s.homeWrite ctx pa bs tag).mem.retiring = s.mem.retiring := by
  obtain ⟨w, c, r, e⟩ := touchL2_frame (s.modMem fun m => m.write pa bs tag) ctx pa true
  have hmem := (wake_sameStore ((s.modMem fun m => m.write pa bs tag).touchL2 ctx pa true) pa bs.length).mem
  have hpool := congrArg MemState.pool hmem
  have hretiring := congrArg MemState.retiring hmem
  rw [e] at hpool hretiring
  rw [State.homeWrite, e]
  refine ⟨hpool.trans ?_, hretiring.trans ?_⟩
  all_goals
    simp only [State.modMem_mem, MemState.write]
    split <;> rfl

/-- A doubleword written at its home changes no byte beside it. -/
theorem homeWrite8_outside (s : State) (ctx at_ : Nat) (v : W64) {a : Nat} (ha : a < at_ ∨ at_ + 8 ≤ a) :
    (s.homeWrite8 ctx at_ v).mem.byteAt a = s.mem.byteAt a := by
  rw [State.homeWrite8, homeWrite_byteAt, byteAt_write_outside]
  rwa [whole, List.length_map, leBytes_length]

/-- A lazy page committed with the first frame of its pool (R86). -/
theorem commit_leaves {ctx lvl at_ f : Nat} {fs : List Nat} {e : W64} {c : Ctx} (hc : s.ctxAt ctx = some c)
    (hlimit : c.commit.toNat + pageUnits lvl ≤ c.limit.toNat) (hpool : tget [] s.mem.pool (4 * pteF e 12 4 + lvl) = f :: fs)
    (hd : s.mem.discards f = false) (hapart : at_ + 8 ≤ f ∨ f + 2 ^ pageLog lvl ≤ at_) :
    ∃ e' u, s.commit ctx lvl at_ e = .ok e' u ∧ tget [] u.mem.pool (4 * pteF e 12 4 + lvl) = fs ∧
      u.ctxAt ctx = some { c with commit := c.commit + BitVec.ofNat 32 (pageUnits lvl) } ∧
      (∀ a, f ≤ a → a < f + 2 ^ pageLog lvl → u.mem.byteAt a = 0) ∧
      (∀ a, (a < f ∨ f + 2 ^ pageLog lvl ≤ a) → (a < at_ ∨ at_ + 8 ≤ a) → u.mem.byteAt a = s.mem.byteAt a) := by
  let e' : W64 := BitVec.ofNat 64 (e.toNat - pteF e 16 36 * 65536 - 256 + f / 65536 * 65536)
  let taken := (s.zeroFrame f (2 ^ pageLog lvl)).modMem fun m => { m with pool := tset [] m.pool (4 * pteF e 12 4 + lvl) fs }
  have htaken (a : Nat) : taken.mem.byteAt a = if f ≤ a ∧ a < f + 2 ^ pageLog lvl then 0 else s.mem.byteAt a :=
    zeroFrame_byteAt hd (2 ^ pageLog lvl) a
  have hok : s.commit ctx lvl at_ e = .ok e' ((taken.homeWrite8 ctx at_ e').setCtx ctx
      (some { c with commit := c.commit + BitVec.ofNat 32 (pageUnits lvl) })) := by
    simp only [State.commit, hc, if_neg (Nat.not_lt.mpr hlimit), hpool]
    rfl
  refine ⟨_, _, hok, ?_, ?_, fun a h1 h2 => ?_, fun a h1 h2 => ?_⟩
  · rw [State.setCtx_mem, State.homeWrite8, (homeWrite_pool ..).1, State.modMem_mem, tget_tset, if_pos rfl]
  · exact (State.ctxAt_setCtx ..).trans (if_pos rfl)
  · rw [State.setCtx_mem, homeWrite8_outside taken _ _ _ (by omega), htaken, if_pos ⟨h1, h2⟩]
  · rw [State.setCtx_mem, homeWrite8_outside taken _ _ _ h2, htaken, if_neg (by omega)]

/-- The page that a strand waits for is committed (R87). -/
theorem lazyCommit_next {ea : W64} {t lvl at_ : Nat} {e e' : W64} {c : Ctx} {u : State} (hst : s.strandAt n = some st)
    (hwait : st.commitWait = some (t, ea)) (hc : s.ctxAt (s.ctxOfStrand n) = some c) (ht : t ≠ 0)
    (hwalk : walkFrom s.mem (vaOf ea) 4 (if ea.getLsbD 63 then c.root1 else c.root0).toNat = .leaf lvl at_ e) (hlazy : pteF e 8 1 = 1)
    (hcommit : s.commit (s.ctxOfStrand n) lvl at_ e = .ok e' u) : exec (.lazyCommit n) s = .next u := by
  change execLazyCommit n s = _
  simp only [execLazyCommit, hst, hwait, hc, if_neg ht, bit63_iff, hwalk, hlazy, if_true, hcommit]

theorem commitWaitTimeout_next {ea : W64} {t : Nat} (hst : s.strandAt n = some st) (hwait : st.commitWait = some (t, ea)) :
    exec (.commitWaitTimeout n) s = .next (if t ≤ s.pt (dieOfCore (coreOfStrand n)) then
      s.modStrand n fun st => { st with commitWait := some (0, ea) } else s) := by
  change execCommitWaitTimeout n s = _
  simp only [execCommitWaitTimeout, hst, hwait]

/-- Settles O42: the end of a transaction each way, the lazy commit, and the wait given up. -/
theorem commitsEnd : Obligations.CommitsEnd := by
  unfold Obligations.CommitsEnd
  refine ⟨fun s n st x hst ht => ?_, fun s n st ea t hst hwait => ⟨fun c lvl at_ e f fs hc h0 hwalk hlazy hlimit hpool _ hd hapart => ?_,
    fun hdue => ?_, fun hearly => ?_⟩⟩
  · intro stale
    refine ⟨fun hphase hmay hstale hfree hpages hd => ?_, fun t hphase hstale hx => ?_, fun t hphase hstale hpoison hx => ?_⟩
    · obtain ⟨⟨-, hhere⟩, hbytes⟩ := txnPerform_leaves (n := n) hpages hd
      obtain ⟨st', hst'⟩ := Option.isSome_iff_exists.mp (hhere n (by rw [hst]; rfl))
      refine ⟨_, { st' with txn := some { x with phase := 2 } }, { x with phase := 2 }, txnCommit_next hst ht hphase hmay hstale hfree, ?_,
        rfl, rfl, fun a => ?_⟩
      · rw [State.strandAt_modStrand, if_pos rfl, hst']
        rfl
      · rw [State.modStrand_mem, hbytes]
    · have hc := txnConflict_iff.mpr hstale
      obtain ⟨u, hnext, hmem, hu⟩ := txnAbort_next hst ht hx hphase (.inr hc)
      exact ⟨u, _, hnext, hu, rfl, if_pos hc, rfl, rfl, hmem⟩
    · have hc : ¬ s.txnConflict x = true := fun h => hstale (txnConflict_iff.mp h)
      obtain ⟨u, hnext, hmem, hu⟩ := txnAbort_next hst ht hx (by omega) (.inl (by simp [hphase, txnPoison_iff.mpr hpoison]))
      exact ⟨u, _, hnext, hu, rfl, if_neg hc, rfl, rfl, hmem⟩
  · obtain ⟨e', u, hcommit, hleft, hctx, hzero, hkept⟩ := commit_leaves hc hlimit hpool hd hapart
    exact ⟨u, _, lazyCommit_next hst hwait hc h0 hwalk hlazy hcommit, hleft, hctx, rfl, hzero, hkept⟩
  · refine ⟨_, (commitWaitTimeout_next hst hwait).trans (congrArg _ (if_pos hdue)), ?_, State.modStrand_mem ..⟩
    rw [State.strandAt_modStrand, if_pos rfl, hst]
    rfl
  · exact (commitWaitTimeout_next hst hwait).trans (congrArg _ (if_neg (Nat.not_le.mpr hearly)))

end Sys2Proof.Machine
end

-- ==== Proofs: memory that fails (O43) ====
section
/-! PROOF. Errors in copies, memory and control structures (R113), rows and frames (R336), channels (R337, R338), CXL ports (R339, R340) and
the refill of pools (R87). -/
namespace Sys2Proof.Machine

variable {s t u : State} {n : Nat} {st : Strand}

/-! Errors and rows (R113, R336). -/

/-- An error in memory: its sector reads 0 from then on, and every other byte as before. -/
theorem poisoned_readByte {m m' : MemState} {pa : Nat} (hbytes : m'.bytes = m.bytes) (hframes : m'.frames = m.frames)
    (hup : m'.cxlUp = m.cxlUp) (hpoison : m'.poison = tset false m.poison (pa / 64) true) :
    m'.readByte pa = 0 ∧ m'.poisonAt pa = true ∧ ∀ a, a / 64 ≠ pa / 64 → m'.readByte a = m.readByte a := by
  have hbad : m'.poisonAt pa = true := by
    rw [MemState.poisonAt, hpoison, tget_tset, if_pos rfl, Bool.true_or, Bool.true_or]
  refine ⟨if_pos hbad, hbad, fun a ha => ?_⟩
  unfold MemState.readByte MemState.poisonAt MemState.byteAt
  rw [hpoison, tget_tset, if_neg ha, hframes, hup, hbytes]

theorem dropL2_ways (m : MemState) (line : Nat) :
    ∀ w ∈ tget [] (m.dropL2 line).l2Sets (l2Key (line * 128)), w.line = line → w.dirty = true := by
  intro w hw hline
  rw [MemState.dropL2, tget_tset, if_pos rfl] at hw
  simpa [hline] using (List.mem_filter.mp hw).2

theorem containCtx_none {f : FaultAt} (h : s.ctxAt f.ctx = none) (c : Cause) (r : Rec) : s.containCtx f c r = s := by
  rw [State.containCtx, h]

theorem send_mem (s : State) (f : Nat → Message) : (s.send f).mem = s.mem := by
  unfold State.send
  split <;> rfl

theorem mEvent_mem (s : State) (cause : BitVec 8) (num : Nat) : (s.mEvent cause num).mem = s.mem := by
  rw [State.mEvent, State.mEventWith, send_mem]
  rfl

/-- A row that fails: the spare it takes, or the frame that is retired. -/
theorem rowSpareReplace_next (pa : Nat) (h : tget false s.mem.rowBad (Config.rowOf pa) = true ∨
      64 < ((tget [] s.mem.rowErr (Config.rowOf pa)).filter fun t => decide (s.pt (sliceOf pa).1 < t + 3600000000000)).length) :
    ∃ u, exec (.rowSpareReplace pa) s = .next u ∧ u.mem =
      let m := { s.mem with rowErr := tset [] s.mem.rowErr (Config.rowOf pa) [], rowBad := tset false s.mem.rowBad (Config.rowOf pa) false }
      if tget 0 s.mem.spares (Config.bankOf pa) < spareRows pa then
        { m with spares := tset 0 m.spares (Config.bankOf pa) (tget 0 m.spares (Config.bankOf pa) + 1) }
      else m.retireFrame pa := by
  have hbad : ¬ (!(tget false s.mem.rowBad (Config.rowOf pa)) && ((tget [] s.mem.rowErr (Config.rowOf pa)).filter fun t =>
      decide (tget 0 s.time.pt (sliceOf pa).1 < t + hour)).length ≤ 64) = true := by
    rcases h with h | h
    · simp [h]
    · have hlen : ¬ ((tget [] s.mem.rowErr (Config.rowOf pa)).filter fun t =>
          decide (tget 0 s.time.pt (sliceOf pa).1 < t + hour)).length ≤ 64 := Nat.not_le.mpr h
      simp only [hlen, decide_false, Bool.and_false, Bool.false_eq_true, not_false_eq_true]
  have hnext : exec (.rowSpareReplace pa) s = execRowSpareReplace pa s := rfl
  refine ⟨_, hnext.trans (congrArg Host.Outcome.next (if_neg hbad)), ?_⟩
  dsimp only
  split_ifs with hs hs' hs'
  · rfl
  · exact absurd hs hs'
  · exact absurd hs' hs
  · rw [mEvent_mem]
    rfl

theorem retireFrame_retired (m : MemState) (pa : Nat) : tget .normal (m.retireFrame pa).frames (frameOf pa) = .retired := by
  rw [MemState.retireFrame, tget_tset_same]

theorem retireFrame_poisonAt (m : MemState) (pa : Nat) : (m.retireFrame pa).poisonAt pa = true := by
  simp [MemState.poisonAt, retireFrame_retired]

/-- The row and its errors are forgotten; a spare is counted while there is one, and then the frame reads as poison. -/
theorem rowSpareReplace_leaves (pa : Nat) (h : tget false s.mem.rowBad (Config.rowOf pa) = true ∨
      64 < ((tget [] s.mem.rowErr (Config.rowOf pa)).filter fun t => decide (s.pt (sliceOf pa).1 < t + 3600000000000)).length) :
    ∃ u, exec (.rowSpareReplace pa) s = .next u ∧ tget false u.mem.rowBad (Config.rowOf pa) = false ∧
      tget [] u.mem.rowErr (Config.rowOf pa) = [] ∧ u.mem.bytes = s.mem.bytes ∧
      (tget 0 s.mem.spares (Config.bankOf pa) < spareRows pa →
        tget 0 u.mem.spares (Config.bankOf pa) = tget 0 s.mem.spares (Config.bankOf pa) + 1 ∧ u.mem.frames = s.mem.frames) ∧
      (spareRows pa ≤ tget 0 s.mem.spares (Config.bankOf pa) →
        tget .normal u.mem.frames (frameOf pa) = .retired ∧ u.mem.poisonAt pa = true) := by
  obtain ⟨u, hnext, hmem⟩ := rowSpareReplace_next pa h
  have hrow : tget false (tset false s.mem.rowBad (Config.rowOf pa) false) (Config.rowOf pa) = false := tget_tset_same ..
  have herr : tget [] (tset [] s.mem.rowErr (Config.rowOf pa) []) (Config.rowOf pa) = [] := tget_tset_same ..
  refine ⟨u, hnext, ?_⟩
  rw [hmem]
  by_cases hs : tget 0 s.mem.spares (Config.bankOf pa) < spareRows pa
  · dsimp only
    rw [if_pos hs]
    exact ⟨hrow, herr, rfl, fun _ => ⟨by rw [tget_tset_same], rfl⟩, fun hno => absurd hs (Nat.not_lt.mpr hno)⟩
  · dsimp only
    rw [if_neg hs]
    exact ⟨hrow, herr, rfl, fun hyes => absurd hyes hs, fun _ => ⟨retireFrame_retired .., retireFrame_poisonAt ..⟩⟩

/-! Channels that are retired (R338). -/

/-- A channel is being retired, and no pool of its die offers a frame of it. -/
structure MemState.Drains (m : MemState) (die channel : Nat) : Prop where
  retiring : m.retiring = some (die, channel)
  pool : ∀ k f, f ∈ tget [] m.pool k → k / 4 = die → channelOf f ≠ some (die, channel)

section
variable {die channel : Nat}

theorem Drains.of_same {m m' : MemState} (h : m.Drains die channel) (hr : m'.retiring = m.retiring) (hp : m'.pool = m.pool) :
    m'.Drains die channel := ⟨hr.trans h.retiring, fun k f hf => h.pool k f (hp ▸ hf)⟩

theorem homeWrite8_drains (h : s.mem.Drains die channel) (ctx at_ : Nat) (v : W64) : (s.homeWrite8 ctx at_ v).mem.Drains die channel :=
  Drains.of_same h (homeWrite_pool ..).2 (homeWrite_pool ..).1

theorem homeWrite8_fold_drains (h : s.mem.Drains die channel) {ctx : Nat} {f : Nat → Nat} {g : Nat → W64} (l : List Nat) :
    (l.foldl (fun s i => s.homeWrite8 ctx (f i) (g i)) s).mem.Drains die channel := by
  induction l generalizing s with
  | nil => exact h
  | cons i l ih => exact ih (homeWrite8_drains h ..)

/-- A frame zeroed changes neither the pools, nor the channel that is being retired, nor where writes are discarded. -/
theorem zeroFrame_leaves (s : State) (f k : Nat) : (s.zeroFrame f k).mem.pool = s.mem.pool ∧
    (s.zeroFrame f k).mem.retiring = s.mem.retiring ∧ ∀ a, (s.zeroFrame f k).mem.discards a = s.mem.discards a := by
  obtain ⟨w, c, r, e⟩ := touchSpan_frame s f k
  have hd (m : MemState) (b : Bool) (h : m.discards f = b) : ({ m with l2Sets := w, chanAccess := c, refresh := r } : MemState).discards f = b := h
  cases h : s.mem.discards f with
  | true =>
    simp only [State.zeroFrame, e, State.modMem, hd s.mem _ h, if_true]
    exact ⟨trivial, trivial, fun _ => rfl⟩
  | false =>
    simp only [State.zeroFrame, e, State.modMem, hd s.mem _ h, Bool.false_eq_true, if_false]
    exact ⟨rfl, rfl, fun _ => rfl⟩

theorem takeFrame_drains (h : s.mem.Drains die channel) (d : Nat) : (s.takeFrame d).2.mem.Drains die channel := by
  unfold State.takeFrame
  dsimp only
  split
  next f hf =>
    obtain ⟨hpool, hretiring, -⟩ := zeroFrame_leaves s f 65536
    refine ⟨hretiring.trans h.retiring, fun k x hx hk => h.pool k x ?_ hk⟩
    rw [State.modMem_mem, tget_tset] at hx
    split at hx
    next e => exact e ▸ (List.mem_filter.mp hx).1
    next => rwa [hpool] at hx
  next => exact h

/-- Steps that may find nothing, one after another, keep a property that each keeps. -/
theorem foldl_bind_keeps {β : Type} {P : State → Prop} {f : State → β → Option State} (hf : ∀ s x t, P s → f s x = some t → P t)
    {l : List β} : ∀ {o : Option State} {t : State}, (∀ s, o = some s → P s) →
      l.foldl (fun o x => o.bind fun s => f s x) o = some t → P t := by
  induction l with
  | nil => exact fun ho e => ho _ e
  | cons x l ih =>
    refine fun {o t} ho e => ih (fun s hs => ?_) e
    obtain ⟨u, hu, hx⟩ := Option.bind_eq_some_iff.mp hs
    exact hf u x s (ho u hu) hx

theorem splitLeaf_drains {l at_ : Nat} {e : W64} (h : s.mem.Drains die channel) (hs : s.splitLeaf l at_ e = some t) :
    t.mem.Drains die channel := by
  induction l generalizing s at_ e t with
  | zero =>
    cases hs
    exact h
  | succ l ih =>
    unfold State.splitLeaf at hs
    split at hs
    · cases hs
    next f s1 hf =>
      have h1 := takeFrame_drains h (pteF e 12 4)
      rw [hf] at h1
      dsimp only at hs
      split at hs
      · rw [← Option.some.inj hs]
        exact homeWrite8_drains (homeWrite8_fold_drains h1 _) ..
      · refine foldl_bind_keeps (P := fun s => s.mem.Drains die channel) (fun u i v hu hv => ih hu hv) (fun u hu => ?_) hs
        rw [← Option.some.inj hu]
        exact homeWrite8_drains (homeWrite8_fold_drains h1 _) ..

end

/-- The end of a retirement changes the mark of the channel only. -/
theorem endRetirement_frame (s : State) :
    s.endRetirement = s ∨ ∃ d c, s.mem.retiring = some (d, c) ∧
      s.endRetirement = s.modMem fun m => { m with retiring := none, dead := tset false m.dead (32 * d + c) true } := by
  unfold State.endRetirement
  split
  · exact .inl rfl
  next d c hr =>
    dsimp only
    split
    · exact .inl rfl
    · exact .inr ⟨d, c, hr, rfl⟩

/-- The entries of a table are read from the bytes of memory and the homes of the tables below it. -/
theorem tableEntries_congr {m m' : MemState} (hread : ∀ pa, m'.readByte pa = m.readByte pa) (hhome : ∀ pa, m'.homeDie pa = m.homeDie pa)
    (l table : Nat) : tableEntries m' l table = tableEntries m l table := by
  have hnat (pa k : Nat) : m'.readNat pa k = m.readNat pa k := by
    simp only [MemState.readNat, MemState.read, hread]
  have hnext (l : Nat) (e : W64) : nextTable m' l e = nextTable m l e := by
    simp only [nextTable, hhome]
  induction l generalizing table with
  | zero => simp only [tableEntries, hnat]
  | succ l ih => simp only [tableEntries, hnat, hnext, ih]

theorem allEntries_congr (hctxs : t.ctxs = s.ctxs) (hread : ∀ pa, t.mem.readByte pa = s.mem.readByte pa)
    (hhome : ∀ pa, t.mem.homeDie pa = s.mem.homeDie pa) : t.allEntries = s.allEntries := by
  rw [State.allEntries, State.allEntries, State.roots, State.roots, hctxs, funext fun x => tableEntries_congr hread hhome 4 x]

/-- A channel whose retirement begins: its frames, and the large pages of its die, leave the pools (R338). -/
def State.drainChannel (s : State) (die channel : Nat) : State := s.modMem fun m => { m with
  retiring := some (die, channel)
  pool := (m.pool.map fun (k, l) => (k, l.filter fun f =>
    !(k / 4 = die && (k % 4 ≠ 0 || channelOf f = some (die, channel))))).filter fun x => x.2 ≠ [] }

theorem drainChannel_drains (s : State) (die channel : Nat) : (s.drainChannel die channel).mem.Drains die channel := by
  refine ⟨rfl, fun k f hf hk hc => ?_⟩
  have hmem : (k, tget [] (s.drainChannel die channel).mem.pool k) ∈ (s.drainChannel die channel).mem.pool :=
    mem_of_tget rfl (List.ne_nil_of_mem hf)
  obtain ⟨⟨k', l⟩, -, hx⟩ := List.mem_map.mp (List.mem_filter.mp hmem).1
  obtain ⟨rfl, hl⟩ := Prod.mk.inj hx
  rw [← hl] at hf
  simpa [hk, hc] using (List.mem_filter.mp hf).2

/-- A large leaf that maps memory of a die (R338). -/
def largeLeafOf (die : Nat) (x : Nat × Nat × W64) : Bool :=
  1 ≤ x.1 && mapsMemory x.2.2 && (channelOf (entryTarget x.2.2)).map (·.1) = some die

/-- A channel's retirement ends or goes on: no pool of its die offers a frame of it. -/
def State.Retires (u : State) (die channel : Nat) : Prop :=
  (u.mem.retiring = some (die, channel) ∨ tget false u.mem.dead (32 * die + channel) = true) ∧
    ∀ k f, f ∈ tget [] u.mem.pool k → k / 4 = die → channelOf f ≠ some (die, channel)

theorem endRetirement_retires {die channel : Nat} (h : s.mem.Drains die channel) : s.endRetirement.Retires die channel := by
  obtain e | ⟨d, c, hdc, e⟩ := endRetirement_frame s
  · rw [e]
    exact ⟨.inl h.retiring, h.pool⟩
  · obtain ⟨rfl, rfl⟩ := Prod.mk.inj (Option.some.inj (hdc.symm.trans h.retiring))
    rw [e]
    exact ⟨.inr (by rw [State.modMem_mem, tget_tset, if_pos rfl]), h.pool⟩

/-- A channel retired: nothing where the pool lacks the frames to split the large leaves, which it cannot where there are none. -/
theorem channelRetire_next {die channel : Nat} (hin : (die < 8 ∧ channel < 32) ∨ (die = 8 ∧ channel < 16)) (hr : s.mem.retiring = none)
    (hdead : tget false s.mem.dead (32 * die + channel) = false) :
    ∃ u, exec (.channelRetire die channel) s = .next u ∧ (u = s ∨ u.Retires die channel) ∧
      ((∀ x ∈ s.allEntries, largeLeafOf die x = false) → u.Retires die channel) := by
  let s' := s.drainChannel die channel
  let split := (s'.allEntries.filter (largeLeafOf die)).foldl (fun s x => s.bind fun s => s.splitLeaf x.1 x.2.1 x.2.2) (some s')
  have hok : ¬ (!((die < 8 && channel < 32) || (die = sfd && channel < 16)) || s.mem.retiring.isSome ||
      tget false s.mem.dead (32 * die + channel)) = true := by
    rw [hr, hdead]
    rcases hin with ⟨hd, hc⟩ | ⟨rfl, hc⟩
    · simp [hd, hc]
    · simp [hc, sfd]
  have hnext : exec (.channelRetire die channel) s = .next (match split with
    | none => s
    | some s => (s.dropTlb fun t => 16 < t.log && (channelOf (pteF t.pte 16 36 * 65536)).map (·.1) = some die).endRetirement) :=
    congrArg Host.Outcome.next (if_neg hok)
  have ends (v : State) (hv : v.mem.Drains die channel) (hit : TlbE → Bool) : (v.dropTlb hit).endRetirement.Retires die channel :=
    endRetirement_retires (s := v.dropTlb hit) hv
  refine ⟨_, hnext, ?_, fun hnone => ?_⟩
  · cases hsplit : split with
    | none => exact .inl rfl
    | some v =>
      exact .inr (ends v (foldl_bind_keeps (P := fun s => s.mem.Drains die channel) (fun _ _ _ => splitLeaf_drains)
        (fun u hu => Option.some.inj hu ▸ drainChannel_drains s die channel) hsplit) _)
  · have hsame : s'.allEntries = s.allEntries := allEntries_congr rfl (fun _ => rfl) fun _ => rfl
    have hbig : s'.allEntries.filter (largeLeafOf die) = [] :=
      List.filter_eq_nil_iff.mpr fun x hx => Bool.eq_false_iff.mp (hnone x (hsame ▸ hx))
    have hsplit : split = some s' := by
      simp only [split, hbig, List.foldl_nil]
    rw [hsplit]
    exact ends s' (drainChannel_drains s die channel) _

/-! Frames that move (R338). -/

theorem tget_filter_key {α : Type} (d : α) (p : Nat → Bool) (t : Tab α) (m : Nat) :
    tget d (t.filter fun x => p x.1) m = if p m then tget d t m else d := by
  induction t with
  | nil => simp [tget]
  | cons x t ih =>
    obtain ⟨k, v⟩ := x
    by_cases hk : m = k
    · subst hk
      cases hp : p m <;> simp [hp, tget_cons, ih]
    · cases hp : p k <;> simp [hp, tget_cons, ih, hk]

/-- A key below a canonical table has the default. -/
theorem tget_below {α : Type} [DecidableEq α] {d : α} {t : Tab α} {lo k : Nat} (h : tokFrom d lo t = true) (hk : k < lo) : tget d t k = d := by
  induction t generalizing lo with
  | nil => rfl
  | cons x t ih =>
    obtain ⟨k', v⟩ := x
    simp only [tokFrom, Bool.and_eq_true, decide_eq_true_eq] at h
    rw [tget_cons, if_neg (by omega), ih h.2 (by omega)]

/-- Entries of a canonical table put at their places in another. -/
theorem tget_foldl_moved {α : Type} [DecidableEq α] {d : α} {a b : Nat} {l : Tab α} : ∀ {lo : Nat} (u : Tab α), tokFrom d lo l = true →
    (∀ x ∈ l, a ≤ x.1) → ∀ m, tget d (l.foldl (fun t x => tset d t (x.1 - a + b) x.2) u) m =
      if b ≤ m ∧ tget d l (m - b + a) ≠ d then tget d l (m - b + a) else tget d u m := by
  induction l with
  | nil => exact fun u _ _ m => (if_neg fun h => h.2 rfl).symm
  | cons x l ih =>
    obtain ⟨k, v⟩ := x
    intro lo u htok hlow m
    simp only [tokFrom, Bool.and_eq_true, decide_eq_true_eq, ne_eq] at htok
    obtain ⟨⟨hlo, hv⟩, hl⟩ := htok
    have hk : a ≤ k := hlow _ List.mem_cons_self
    rw [List.foldl_cons, ih _ hl (fun x hx => hlow x (List.mem_cons_of_mem _ hx)), tget_tset, tget_cons]
    by_cases hm : m = k - a + b
    · have hplace : m - b + a = k := by omega
      rw [hplace, tget_below hl (Nat.lt_succ_self k), if_neg (by simp), if_pos hm, if_pos rfl, if_pos ⟨by omega, hv⟩]
    · rw [if_neg hm]
      by_cases hb : b ≤ m
      · rw [if_neg (show ¬ m - b + a = k by omega)]
      · rw [if_neg (fun h => hb h.1), if_neg (fun h => hb h.1)]

/-- What a table reads after entries of it have moved. -/
theorem tget_moveTab {α : Type} [DecidableEq α] {d : α} {t : Tab α} (ht : tok d t = true) (a b k m : Nat) :
    tget d (moveTab d t a b k) m =
      if b ≤ m ∧ m < b + k ∧ tget d t (m - b + a) ≠ d then tget d t (m - b + a)
      else if a ≤ m ∧ m < a + k then d else tget d t m := by
  have hinside (i : Nat) := tget_filter_key d (fun i => a ≤ i && i < a + k) t i
  have houtside (i : Nat) := tget_filter_key d (fun i => !(a ≤ i && i < a + k)) t i
  have hstays : (if (!(decide (a ≤ m) && decide (m < a + k))) = true then tget d t m else d) =
      if a ≤ m ∧ m < a + k then d else tget d t m := by
    by_cases h : a ≤ m ∧ m < a + k
    · rw [if_pos h, if_neg (by simpa using h)]
    · rw [if_neg h, if_pos (by simp only [Bool.not_eq_true', Bool.and_eq_false_iff, decide_eq_false_iff_not]; omega)]
  rw [moveTab, tget_foldl_moved _ (tokFrom_filter _ ht) fun x hx => by simpa using (Bool.and_eq_true_iff.mp (List.mem_filter.mp hx).2).1,
    hinside, houtside, hstays]
  by_cases hm : b ≤ m ∧ m < b + k
  · have hin : (decide (a ≤ m - b + a) && decide (m - b + a < a + k)) = true := by
      simp only [Bool.and_eq_true, decide_eq_true_eq]
      omega
    rw [if_pos hin]
    exact if_congr (and_congr_right fun _ => (and_iff_right hm.2).symm) rfl rfl
  · have hout : ¬ (b ≤ m ∧ m < b + k ∧ tget d t (m - b + a) ≠ d) := fun h => hm ⟨h.1, h.2.1⟩
    rw [if_neg hout]
    by_cases hb : b ≤ m
    · have hin : ¬ (decide (a ≤ m - b + a) && decide (m - b + a < a + k)) = true := by
        simp only [Bool.and_eq_true, decide_eq_true_eq]
        omega
      rw [if_neg hin, if_neg fun h => h.2 rfl]
    · rw [if_neg fun h => hb h.1]

/-- An entry that leads outside a frame is not rewritten when the frame moves. -/
theorem moveEntry_outside {frame : Nat} {e : W64} (h : entryTarget e < frame ∨ frame + 65536 ≤ entryTarget e) (target home : Nat) :
    moveEntry frame target home e = e :=
  if_neg (by simp only [Bool.and_eq_true, decide_eq_true_eq]; omega)

/-- A list walked with a step that changes nothing for any of its members. -/
theorem foldl_eq_of_step_eq {α β : Type} {f : α → β → α} {a : α} {l : List β} (h : ∀ x ∈ l, f a x = a) : l.foldl f a = a := by
  induction l with
  | nil => rfl
  | cons x l ih => rw [List.foldl_cons, h x List.mem_cons_self, ih fun y hy => h y (List.mem_cons_of_mem _ hy)]

/-- With no write of the host that waits, none is performed. -/
theorem hostWrites_none (h : s.host.writes = []) : s.hostWrites.mem = s.mem := by
  rw [State.hostWrites, h, State.hostWrites.go]
  rfl

/-- The monitors that wait on a frame return their words before it moves (R338). -/
def State.fireIn (s : State) (frame : Nat) : State :=
  s.strands.foldl (fun s x => match x.2.bind Strand.monitor with
    | some (o, d, _, _) => if o.parts.any fun p => frame ≤ p.pa && p.pa < frame + 65536 then s.fireMonitor x.1 o d else s
    | none => s) s

theorem fireIn_sameStore (s : State) (frame : Nat) : s.SameStore (s.fireIn frame) := by
  refine .foldl (fun s x => ?_) _ s
  split
  · split
    · exact fireMonitor_sameStore ..
    · exact .refl s
  · exact .refl s

/-- The target of a move, zeroed and out of its pool (R338). -/
def State.claimFrame (s : State) (target : Nat) : State :=
  (s.zeroFrame target 65536).modMem fun m => { m with
    pool := tset [] m.pool (4 * (sliceOf target).1) ((tget [] m.pool (4 * (sliceOf target).1)).filter (· ≠ target)) }

/-- An entry of a table rewritten where it leads into the frame (R338). -/
def State.rewriteEntry (frame target : Nat) (s : State) (x : Nat × Nat × W64) : State :=
  let e := moveEntry frame target (sliceOf target).1 x.2.2
  if (mapsMemory x.2.2 || pteF x.2.2 1 1 = 0) && e ≠ x.2.2 then s.homeWrite8 64 x.2.1 e else s

theorem rewriteEntry_outside {frame : Nat} {x : Nat × Nat × W64} (h : entryTarget x.2.2 < frame ∨ frame + 65536 ≤ entryTarget x.2.2)
    (target : Nat) (s : State) : s.rewriteEntry frame target x = s := by
  simp [State.rewriteEntry, moveEntry_outside h]

/-- The frame itself moved, and what waits for it sent after it (R338). -/
def State.carryFrame (s : State) (frame target : Nat) : State :=
  let cs : Tab (Option Ctx) := s.ctxs.map fun x => (x.1, x.2.map fun c => c.moveFrame frame target)
  let s := ({ s with ctxs := cs } : State).moveQueues frame target
  let s := (((s.touchChannel frame).touchChannel target).modMem fun m => m.moveFrame frame target).dropTlb fun t =>
    frame / 65536 = pteF t.pte 16 36
  (s.endRetirement.modHost fun h => { h with writes := moveWrites frame target h.writes }).hostWrites

theorem touchChannels_frame (s : State) (a b : Nat) :
    ∃ c r, (s.touchChannel a).touchChannel b = s.modMem fun m => { m with chanAccess := c, refresh := r } := by
  obtain ⟨c1, r1, e1⟩ := touchChannel_frame s a
  obtain ⟨c, r, e⟩ := touchChannel_frame (s.touchChannel a) b
  exact ⟨c, r, by rw [e, e1]; rfl⟩

theorem carryFrame_leaves (frame : Nat) {target : Nat} (hd : s.mem.discards target = false) (hw : s.host.writes = []) :
    (s.carryFrame frame target).mem.bytes = moveTab 0 s.mem.bytes frame target 65536 ∧
      tget .normal (s.carryFrame frame target).mem.frames (frameOf frame) = .unbacked := by
  let s1 := State.moveQueues { s with ctxs := s.ctxs.map fun x => (x.1, x.2.map fun c => c.moveFrame frame target) } frame target
  obtain ⟨c, r, e⟩ := touchChannels_frame s1 frame target
  let s2 := ((s1.touchChannel frame).touchChannel target).modMem fun m => m.moveFrame frame target
  let s3 := s2.dropTlb fun t => frame / 65536 = pteF t.pte 16 36
  have hmem2 : s2.mem = MemState.moveFrame { s.mem with chanAccess := c, refresh := r } frame target := by
    simp only [s2, e]
    rfl
  have hend : s3.endRetirement.mem.bytes = s2.mem.bytes ∧ s3.endRetirement.mem.frames = s2.mem.frames ∧ s3.endRetirement.host = s.host := by
    have hhost : s3.host = s.host := by
      simp only [s3, s2, e]
      rfl
    obtain e' | ⟨d, k, -, e'⟩ := endRetirement_frame s3
    · rw [e']
      exact ⟨rfl, rfl, hhost⟩
    · rw [e']
      exact ⟨rfl, rfl, hhost⟩
  have hlast : (s.carryFrame frame target).mem = s3.endRetirement.mem := by
    refine hostWrites_none (s := s3.endRetirement.modHost _) ?_
    rw [State.modHost, hend.2.2, hw]
    rfl
  have hkeeps : (MemState.discards { s.mem with chanAccess := c, refresh := r } target) = false := hd
  rw [hlast, hend.1, hend.2.1, hmem2]
  constructor
  · simp only [MemState.moveFrame, MemState.copyFrame, hkeeps, Bool.false_eq_true, if_false]
  · rw [MemState.moveFrame, tget_tset, if_pos rfl]

/-- What a frame moves in: a channel that is being retired, and a free frame of another (R338). -/
structure Moves (s : State) (frame target : Nat) : Prop where
  retiring : s.mem.retiring.isSome
  channel : s.mem.retiring = channelOf frame
  aligned : frame % 65536 = 0
  free : target ∈ tget [] s.mem.pool (4 * (sliceOf target).1)
  place : (channelOf target).isSome

/-- FRAME_MOVE, step by step. -/
theorem frameMove_next {frame target : Nat} (h : Moves s frame target) : exec (.frameMove frame target) s =
    .next (((((s.claimFrame target).fireIn frame).allEntries.foldl (State.rewriteEntry frame target)
      ((s.claimFrame target).fireIn frame))).carryFrame frame target) := by
  obtain ⟨hr, hc, hal, hfree, ht⟩ := h
  have hgo : ¬ (s.mem.retiring.isNone || s.mem.retiring ≠ channelOf frame || frame % 65536 ≠ 0 ||
      !(tget [] s.mem.pool (4 * (sliceOf target).1)).contains target || (channelOf target).isNone) = true := by
    have hr' : s.mem.retiring.isNone = false := by rw [← Option.not_isSome, hr]; rfl
    have ht' : (channelOf target).isNone = false := by rw [← Option.not_isSome, ht]; rfl
    have hfree' : (tget [] s.mem.pool (4 * (sliceOf target).1)).contains target = true := List.contains_iff_mem.mpr hfree
    rw [hr', ht', hfree']
    simp [hc, hal]
  exact congrArg Host.Outcome.next (if_neg hgo)

/-- A frame that no entry leads to moves: its bytes are at the target, and it is unbacked. -/
theorem frameMove_leaves {frame target : Nat} (h : Moves s frame target) (hd : s.mem.discards target = false) (hw : s.host.writes = [])
    (hout : ∀ x ∈ (s.claimFrame target).allEntries, entryTarget x.2.2 < frame ∨ frame + 65536 ≤ entryTarget x.2.2) :
    ∃ u, exec (.frameMove frame target) s = .next u ∧ u.mem.bytes = moveTab 0 (s.zeroFrame target 65536).mem.bytes frame target 65536 ∧
      tget .normal u.mem.frames (frameOf frame) = .unbacked := by
  let s1 := s.claimFrame target
  let s2 := s1.fireIn frame
  obtain ⟨hmem, hctxs, hhost⟩ : s1.SameStore s2 := fireIn_sameStore s1 frame
  have hread (pa : Nat) : s2.mem.readByte pa = s1.mem.readByte pa := (congrArg (MemState.readByte · pa) hmem :)
  have hhome (pa : Nat) : s2.mem.homeDie pa = s1.mem.homeDie pa := (congrArg (MemState.homeDie · pa) hmem :)
  have hentries : s2.allEntries = s1.allEntries := allEntries_congr hctxs hread hhome
  have hkeep : s2.allEntries.foldl (State.rewriteEntry frame target) s2 = s2 :=
    foldl_eq_of_step_eq fun x hx => rewriteEntry_outside (hout x (hentries ▸ hx)) target s2
  obtain ⟨-, -, hdiscards⟩ := zeroFrame_leaves s target 65536
  have hd2 : s2.mem.discards target = false := (congrArg (MemState.discards · target) hmem :).trans ((hdiscards target).trans hd)
  have hhost1 : s1.host = s.host := ((State.SameUnits.refl s).zeroFrame.modMem _).host
  have hw2 : s2.host.writes = [] := by rw [hhost, hhost1, hw]
  obtain ⟨hbytes, hframes⟩ := carryFrame_leaves frame hd2 hw2
  refine ⟨_, frameMove_next h, ?_, ?_⟩
  · rw [hkeep, hbytes]
    exact congrArg (fun b => moveTab 0 b frame target 65536) (congrArg MemState.bytes hmem :)
  · rw [hkeep, hframes]

/-- The bytes after a move: those of the frame at the target, and every other byte beside the two as before. -/
theorem moved_bytes {frame target : Nat} {m : MemState} (hwf : Memory.wf s.mem = true) (hd : s.mem.discards target = false)
    (hf : frame % 65536 = 0) (ht : target % 65536 = 0) (hne : frame ≠ target)
    (hm : m.bytes = moveTab 0 (s.zeroFrame target 65536).mem.bytes frame target 65536) :
    (∀ k, k < 65536 → m.byteAt (target + k) = s.mem.byteAt (frame + k)) ∧
    ∀ a, (a < frame ∨ frame + 65536 ≤ a) → (a < target ∨ target + 65536 ≤ a) → m.byteAt a = s.mem.byteAt a := by
  have hz (a : Nat) : tget 0 (s.zeroFrame target 65536).mem.bytes a = if target ≤ a ∧ a < target + 65536 then 0 else s.mem.byteAt a :=
    zeroFrame_byteAt hd 65536 a
  have hbyte (a : Nat) := tget_moveTab (wf_zeroFrame target 65536 hwf : tok 0 (s.zeroFrame target 65536).mem.bytes = true) frame target 65536 a
  have happart : frame + 65536 ≤ target ∨ target + 65536 ≤ frame := by omega
  refine ⟨fun k hk => ?_, fun a h1 h2 => ?_⟩
  · have hsub : target + k - target + frame = frame + k := by omega
    have hsource := (hz (frame + k)).trans (if_neg (by omega))
    have hplace := (hz (target + k)).trans (if_pos (by omega))
    have hout : ¬ (frame ≤ target + k ∧ target + k < frame + 65536) := by omega
    rw [MemState.byteAt, hm, hbyte, hsub, hsource, hplace, if_neg hout]
    by_cases h0 : s.mem.byteAt (frame + k) = 0
    · rw [if_neg fun h => h.2.2 h0, h0]
    · exact if_pos ⟨by omega, by omega, h0⟩
  · have hz' := (hz a).trans (if_neg (by omega))
    have hplace : ¬ (target ≤ a ∧ a < target + 65536 ∧ tget 0 (s.zeroFrame target 65536).mem.bytes (a - target + frame) ≠ 0) :=
      fun h => by omega
    rw [MemState.byteAt, hm, hbyte, if_neg hplace, if_neg (by omega), hz']

/-! CXL ports and pools (R87, R339, R340). -/

theorem cxlPort_of_range {port a : Nat} (hp : port < 4) (hlo : (port + 1) * 2 ^ 40 ≤ a) (hhi : a < (port + 2) * 2 ^ 40) :
    cxlPort a = some port := by
  have hdiv : a / cxlBase = port + 1 := by unfold cxlBase; omega
  rw [cxlPort, if_pos (by unfold cxlBase; omega), hdiv]
  rfl

/-- A port that is down: its range reads as poison. -/
theorem poisonAt_of_down {m : MemState} {port a : Nat} (hdown : tget false m.cxlUp port = false) (hport : cxlPort a = some port) :
    m.poisonAt a = true ∧ m.readByte a = 0 := by
  have h : m.poisonAt a = true := by simp [MemState.poisonAt, hport, hdown]
  exact ⟨h, if_pos h⟩

/-- A frame that fits is added to its pool (R87). -/
theorem freePoolRefill_next {die size frame : Nat} (hsize : size ≤ 2) (hal : frame % 2 ^ pageLog size = 0) (hr : s.mem.retiring = none)
    (hfree : ∀ x ∈ s.mem.pool, ∀ f ∈ x.2, f + 2 ^ pageLog (x.1 % 4) ≤ frame ∨ frame + 2 ^ pageLog size ≤ f)
    (hback : ∀ i, i < 2 ^ pageLog size / 65536 → s.mem.homeDie (frame + 65536 * i) = some die ∧
      tget .normal s.mem.frames (frame / 65536 + i) = .normal) :
    exec (.freePoolRefill die size frame) s = .next (s.modMem fun m => { m with
      pool := tset [] m.pool (4 * die + size) (tget [] m.pool (4 * die + size) ++ [frame]) }) := by
  have htaken : (s.mem.pool.any fun x => x.2.any fun f => f < frame + 2 ^ pageLog size && frame < f + 2 ^ pageLog (x.1 % 4)) = false := by
    refine List.any_eq_false.mpr fun x hx => ?_
    rw [Bool.not_eq_true]
    refine List.any_eq_false.mpr fun f hf => ?_
    have := hfree x hx f hf
    simp only [Bool.and_eq_true, decide_eq_true_eq]
    omega
  have hhomes : ((upto (2 ^ pageLog size / 65536)).all fun i => s.mem.homeDie (frame + 65536 * i) = some die &&
      tget .normal s.mem.frames (frameOf frame + i) = .normal) = true := by
    refine List.all_eq_true.mpr fun i hi => ?_
    obtain ⟨hh, hn⟩ := hback i (List.mem_range.mp hi)
    have hn' : tget .normal s.mem.frames (frameOf frame + i) = .normal := hn
    simp only [hh, hn', decide_true, Bool.and_self]
  have hsize' : decide (2 < size) = false := decide_eq_false (by omega)
  change execFreePoolRefill die size frame s = _
  simp only [execFreePoolRefill, hsize', hal, htaken, hr, hhomes, ne_eq, not_true, decide_false, Option.any_none, Bool.not_true, Bool.or_self,
    Bool.false_eq_true, if_false]

theorem tget_pushed (t : Tab (List Nat)) (key x k : Nat) :
    tget [] (tset [] t key (tget [] t key ++ [x])) k = if k = key then tget [] t k ++ [x] else tget [] t k := by
  rw [tget_tset]
  split_ifs with h
  · rw [h]
  · rfl

/-- Settles O43: errors and rows, then channels, frames, ports and pools. -/
theorem memoryFailures : Obligations.MemoryFailures := by
  unfold Obligations.MemoryFailures
  refine ⟨fun s core die line pa n ctx => ?_, fun s die channel port cap size frame target => ?_⟩
  · intro bytes
    refine ⟨⟨_, rfl, ?_, fun l hl => ?_, rfl, rfl⟩, ⟨_, rfl, ?_, rfl, rfl⟩, ⟨_, rfl, dropL2_ways s.mem line, rfl, rfl⟩, ?_,
      fun st hst => ⟨_, rfl, ?_, State.modStrand_mem ..⟩, fun hcore hq => ?_, fun hnone => ?_, ⟨_, rfl, rfl, rfl, ?_⟩, fun h => ?_⟩
    · change tget none (((s.modCore core fun c => { c with l1 := tdel c.l1 line }).coreAt core).l1) line = none
      rw [State.coreAt_modCore, if_pos rfl, tget_tdel, if_pos rfl]
    · change tget none (((s.modCore core fun c => { c with l1 := tdel c.l1 line }).coreAt core).l1) l = _
      rw [State.coreAt_modCore, if_pos rfl, tget_tdel, if_neg hl]
    · exact (tget_tdel ..).trans (if_pos rfl)
    · obtain ⟨hzero, hbad, hothers⟩ := poisoned_readByte (m := s.mem) (m' := { s.mem with
          poison := tset false s.mem.poison (pa / 64) true
          poisoned := s.mem.poisoned + 1
          rowBad := if (s.mem.l2Way (pa / 128)).any (·.dirty) then s.mem.rowBad else tset false s.mem.rowBad (Config.rowOf pa) true })
        rfl rfl rfl rfl
      exact ⟨_, rfl, hzero, hbad, hothers, rfl⟩
    · refine (State.strandAt_modStrand ..).trans ?_
      rw [if_pos rfl, hst, Option.map_some]
    · have hnext : exec (.uncorrectableError (.controlOfEngine core n)) s =
          .next (s.modCore core fun c => { c with ctlErrors := c.ctlErrors ++ [n] }) :=
        congrArg Host.Outcome.next (if_pos (by simp [Config.cores, hcore, hq]))
      exact ⟨_, hnext, rfl, (State.coreAt_modCore ..).trans (if_pos rfl), fun c hc => (State.coreAt_modCore ..).trans (if_neg hc), rfl⟩
    · exact congrArg Host.Outcome.next (containCtx_none hnone ..)
    · change (tget [] (tset [] s.mem.rowErr (Config.rowOf pa) (_ :: _)) (Config.rowOf pa)).length = _
      rw [tget_tset, if_pos rfl, List.length_cons]
    · exact rowSpareReplace_leaves pa h
  · refine ⟨fun hch hidle => ?_, fun hin hr hdead => ?_, ?_, fun hp => ?_, fun hp hup => ?_, fun hsize hal hr hfree hback => ?_⟩
    · have hnext : exec (.parkSelfRefresh channel) s = .next (s.modMem fun m => { m with refresh := tset false m.refresh channel true }) :=
        congrArg Host.Outcome.next (if_pos (Bool.and_eq_true_iff.mpr ⟨decide_eq_true hch, decide_eq_true hidle⟩))
      exact ⟨_, hnext, by rw [State.modMem_mem, tget_tset_same], rfl⟩
    · obtain ⟨u, hnext, hu, hsmall⟩ := channelRetire_next hin hr hdead
      refine ⟨u, hnext, hu, fun hnone => hsmall fun x hx => ?_⟩
      simpa [largeLeafOf] using hnone x hx
    · intro key rest s1 hwf hr hc hf ht hne hfree hplace hd hw hout
      have hclaim : s.claimFrame target = s1 := by
        simp only [State.claimFrame, State.modMem, (zeroFrame_leaves s target 65536).1, s1, rest, key]
      obtain ⟨u, hnext, hbytes, hframes⟩ := frameMove_leaves ⟨hr, hc, hf, hfree, hplace⟩ hd hw (hclaim ▸ hout)
      obtain ⟨hmoved, hkept⟩ := moved_bytes hwf hd hf ht hne hbytes
      exact ⟨u, hnext, hframes, hmoved, hkept⟩
    · have hnext : exec (.cxlLinkUp port cap) s = .next (s.modMem fun m => { m with
          cxlUp := tset false m.cxlUp port true, cxlCap := tset 0 m.cxlCap port (min cap cxlBase) }) :=
        congrArg Host.Outcome.next (if_neg (Nat.not_le.mpr hp))
      refine ⟨_, hnext, ?_, ?_, fun p hne => ?_, rfl⟩
      · rw [State.modMem_mem, tget_tset_same]
      · rw [State.modMem_mem, tget_tset_same]
        rfl
      · rw [State.modMem_mem, tget_tset_other _ _ _ hne]
    · have hnext : exec (.cxlLinkDown port) s = .next ((s.modMem fun m => { m with cxlUp := tset false m.cxlUp port false }).modTime fun t =>
          { t with log := t.log ++ [.port port (tget 0 t.pt cd)] }) :=
        congrArg Host.Outcome.next (if_neg (by simp [hup]))
      have hdown : tget false (tset false s.mem.cxlUp port false) port = false := tget_tset_same ..
      exact ⟨_, hnext, hdown, rfl, rfl, fun a hlo hhi => poisonAt_of_down hdown (cxlPort_of_range hp hlo hhi)⟩
    · exact ⟨_, freePoolRefill_next hsize hal hr hfree hback, fun k => tget_pushed .., rfl⟩

end Sys2Proof.Machine
end

-- ==== Proofs: an atomic beside a monitor of the same strand (O41) ====
section
/-! PROOF. The clauses of O41 hold for a table of strands in canonical form; but they are stated for every state, and a table may list a
strand's number twice. The strand is then the first entry, while a write at its home wakes the monitors of every entry listed (R104): one
under the same number returns its word to the first entry's register before the atomic does. -/
namespace Sys2Proof.Machine

/-- An atomic that swaps 7 into the word at 0x20000, its register g9. -/
def swapStore : StoreOp := ⟨.amo .swp 9 4 7 0, 0x20000, [⟨0, 0x20000, 4, 2⟩], 0, 0xF, false, 0, 1, 0, none⟩

/-- A strand whose store queue holds the swap, with no load. -/
def swapping : Strand := { Strand.init with sq := [swapStore], sn := 1, busy := [(9, 1)] }

/-- An armed WAITV on the doubleword at 0x20000, its register g9, with the mark of the swap. -/
def swapMonitor : LoadOp := ⟨.waitv 9 5 9 true, 0x20000, [⟨0, 0x20000, 8, 2⟩], [⟨0, 0x20000, 8, 2⟩], 0, false, 0, 1, none, 0⟩

/-- The table lists strand 0 twice: the one that swaps, and behind it one with the monitor. Memory is all zero. -/
def twiceListed : State := { State.reset with strands := [(0, some swapping), (0, some { swapping with lq := [swapMonitor] })] }

/-- The swap stands in its turn, and nothing is in its way. -/
theorem twiceListed_may : twiceListed.strandAt 0 = some swapping ∧ swapping.storeMay swapStore = true ∧
    twiceListed.mem.bounces 0x20000 = false ∧ twiceListed.mem.discards 0x20000 = false ∧
    twiceListed.homeFree (dieOfCore (coreOfStrand 0)) 0x20000 = true ∧ (twiceListed.mem.read 0x20000 4).2 = false ∧
    BitVec.ofInt 64 (signed 32 (leNat (twiceListed.mem.read 0x20000 4).1)) = 0 := by decide +kernel

/-- The swap performed: g9 has the word that the monitor found after the write, and not the old one. -/
theorem twiceListed_register : (match exec (.atomicPerform 0) twiceListed with
    | .next u => (u.strandAt 0).map fun st => tget 0 st.g 9
    | _ => none) = some (7 : W64) := by decide +kernel

/-- Refutes O41: for a table of strands that lists a number twice, the register of an atomic need not receive the old value: a monitor listed
under the same number takes it first. -/
theorem not_storesPerform : ¬ Obligations.StoresPerform := by
  unfold Obligations.StoresPerform
  intro ⟨_, hatomic, _⟩
  obtain ⟨hst, hmay, hbounces, hdiscards, hfree, hread, hold⟩ := twiceListed_may
  obtain ⟨hamo, -⟩ := hatomic twiceListed 0 swapping swapStore [] ⟨0, 0x20000, 4, 2⟩ 9 7 0 hst rfl hmay rfl rfl rfl hbounces hdiscards hfree
    (by decide) rfl
  obtain ⟨u, st', hnext, hu, -, hclean, -⟩ := hamo .swp (.inl rfl) rfl
  have hreceived : tget 0 st'.g 9 = (0 : W64) := (hclean hread).1.trans hold
  have hseven := twiceListed_register
  rw [hnext] at hseven
  simp only [hu, Option.map_some, Option.some.injEq, hreceived] at hseven
  exact absurd hseven (by decide)

end Sys2Proof.Machine
end

-- ==== Proofs: vector memory words (O21) ====
section
/-! PROOF. A vector word that may issue does what its description says (R216); then the scratchpad as the vector words read and write it
(R213, R230, R231), and the global words by the queues they enter (R232, R233). -/
namespace Sys2Proof.Machine

variable {s s0 u : State} {n : Nat} {us : Strand} {w : VWord} {x : VIn} {places : List Nat}

theorem orWaits_issued {r : State} {j : Option W64} (h : r.verdict = .issued j) (s : State) (sem t : Nat) (m : Waiter) :
    r.orWaits s sem t m = r := by
  simp only [State.orWaits, h]

/-- A vector word that may issue goes on with what its elements work on, from the state that `VReady` names. -/
theorem vissue_ready {α : Type} {opc : Nat} {addr vals : List GReg} (h : VReady s s0 u opc w addr vals x places) {pre : State → Res α} {a : α}
    (hpre : pre s = .ok a s0) (fin : α → VIn → List Nat → Nat → State → State) {j : Option W64}
    (hv : (fin a x places s0.nextTok u).verdict = .issued j) : s.vissue opc w addr vals pre fin = fin a x places s0.nextTok u := by
  obtain ⟨p, s1, q, s2, s3, hp, hq, hplaces, rfl, hu⟩ := h.answered
  have hrels (k : State) : (if w.sinc = 0 then k else s.afterRels k) = k := by
    rcases h.rels with h0 | hr
    · rw [if_pos h0]
    · rw [State.afterRels, if_pos hr, ite_self]
  by_cases h0 : w.wthr = 0
  · have h0' : w.wthr.toNat = 0 := by rw [h0]; rfl
    rw [if_pos h0] at hu
    subst hu
    refine Eq.trans ?_ (orWaits_issued hv s (semNum ((s.myTt.map (·.semBase)).getD 0) w.wsem.toNat) w.wthr.toNat (.strand s.myNum))
    simp only [State.vissue, h.placed, State.whenReady_produced h.produced, hrels, h0', ne_eq, not_true, decide_false, Bool.false_and,
      Bool.false_eq_true, if_false, State.clean_clear h.clear, hpre, hp, hq, Res.andThen, if_true]
    cases ht : vTarget opc w with
    | none =>
      simp only [ht] at hplaces ⊢
      cases hplaces
      rfl
    | some y =>
      simp only [ht] at hplaces ⊢
      rw [hplaces]
  · have h0' : w.wthr.toNat ≠ 0 := fun h => h0 (BitVec.eq_of_toNat_eq h)
    rw [if_neg h0] at hu
    obtain ⟨hpoison, hdead, hready⟩ := h.served.resolve_left h0
    subst hu
    refine Eq.trans ?_ (orWaits_issued hv s (semNum ((s.myTt.map (·.semBase)).getD 0) w.wsem.toNat) w.wthr.toNat (.strand s.myNum))
    simp only [State.vissue, h.placed, State.whenReady_produced h.produced, hrels, ne_eq, h0', not_false_eq_true, decide_true, Bool.true_and,
      hpoison, hdead, hready, Bool.not_true, Bool.false_eq_true, if_false, State.clean_clear h.clear, hpre, hp, hq, Res.andThen]
    cases ht : vTarget opc w with
    | none =>
      simp only [ht] at hplaces ⊢
      cases hplaces
      rfl
    | some y =>
      simp only [ht] at hplaces ⊢
      rw [hplaces]

/-- A word whose effect is complete at issue but for a vector result. -/
theorem vword_ready {α : Type} {opc : Nat} {addr vals : List GReg} (h : VReady s s0 u opc w addr vals x places) {pre : State → Res α} {a : α}
    (hpre : pre s = .ok a s0) (body : α → VIn → State → VOut) : s.vword opc w addr vals pre body =
      ((body a x u).s.writeVec w opc s0.nextTok places x (body a x u).r (x.tag || (body a x u).tag)).issued :=
  vissue_ready (j := none) h hpre _ rfl

/-! Bits of numbers made of bytes and of elements. -/

theorem leNat_testBit (bs : List Byte) (i : Nat) : (leNat bs).testBit i = ((bs[i / 8]?).getD 0).getLsbD (i % 8) := by
  induction bs generalizing i with
  | nil => simp [leNat]
  | cons b bs ih =>
    have hcons : leNat (b :: bs) = 2 ^ 8 * leNat bs + b.toNat := Nat.add_comm ..
    rw [hcons, Nat.testBit_two_pow_mul_add _ b.isLt]
    by_cases hi : i < 8
    · rw [if_pos hi, Nat.div_eq_of_lt hi, Nat.mod_eq_of_lt hi]
      rfl
    · obtain ⟨k, rfl⟩ : ∃ k, i = k + 8 := ⟨i - 8, by omega⟩
      rw [if_neg hi, Nat.add_sub_cancel, ih, Nat.add_div_right _ (by omega), Nat.add_mod_right, List.getElem?_cons_succ]

theorem packNat_testBit {k : Nat} (hk : 0 < k) (xs : List Nat) (i : Nat) :
    (packNat k xs).testBit i = ((xs[i / k]?).getD 0).testBit (i % k) := by
  induction xs generalizing i with
  | nil => simp [packNat]
  | cons y ys ih =>
    rw [packNat, Nat.add_comm, Nat.testBit_two_pow_mul_add _ (Nat.mod_lt _ (by positivity))]
    by_cases hi : i < k
    · rw [if_pos hi, Nat.div_eq_of_lt hi, Nat.mod_eq_of_lt hi, Nat.testBit_mod_two_pow, decide_eq_true hi, Bool.true_and]
      rfl
    · obtain ⟨m, rfl⟩ : ∃ m, i = m + k := ⟨i - k, by omega⟩
      rw [if_neg hi, Nat.add_sub_cancel, ih, Nat.add_div_right _ hk, Nat.add_mod_right, List.getElem?_cons_succ]

theorem getElem?_leBytes (m v i : Nat) : (leBytes m v)[i]? = if i < m then some (BitVec.ofNat 8 (v / 256 ^ i)) else none := by
  unfold leBytes
  induction m generalizing v i with
  | zero => rfl
  | succ m ih =>
    cases i with
    | zero => simp [natBytes]
    | succ i =>
      rw [natBytes, List.getElem?_cons_succ, ih, Nat.div_div_eq_div_mul, show (2 : Nat) ^ 8 * 256 ^ i = 256 ^ (i + 1) from (pow_succ' 256 i).symm]
      simp only [Nat.add_lt_add_iff_right]

theorem bits_testBit (v lo k i : Nat) : (bits v lo k).testBit i = (decide (i < k) && v.testBit (lo + i)) := by
  rw [bits, Nat.testBit_mod_two_pow, Nat.testBit_div_two_pow, Nat.add_comm]

/-- Bit i of a number made as a sum of powers of two. -/
theorem foldl_bits_testBit (p : Nat → Bool) (m : Nat) :
    (upto m).foldl (fun v i => v + if p i then 2 ^ i else 0) 0 < 2 ^ m ∧
    ∀ i, ((upto m).foldl (fun v i => v + if p i then 2 ^ i else 0) 0).testBit i = (decide (i < m) && p i) := by
  unfold upto
  induction m with
  | zero => simp
  | succ m ih =>
    obtain ⟨hlt, hbit⟩ := ih
    rw [List.range_succ, List.foldl_append, List.foldl_cons, List.foldl_nil]
    generalize (List.range m).foldl (fun v i => v + if p i then 2 ^ i else 0) 0 = v at *
    cases hp : p m with
    | false =>
      refine ⟨by simpa using hlt.trans (Nat.pow_lt_pow_succ (by omega)), fun i => ?_⟩
      simp only [Bool.false_eq_true, if_false, Nat.add_zero, hbit]
      by_cases hi : i = m
      · simp [hi, hp]
      · simp only [show i < m ↔ i < m + 1 by omega]
    | true =>
      refine ⟨by simp only [if_true, pow_succ]; omega, fun i => ?_⟩
      rw [if_pos rfl, show v + 2 ^ m = 2 ^ m * 1 + v by omega, Nat.testBit_two_pow_mul_add _ hlt]
      by_cases hi : i < m
      · rw [if_pos hi, hbit, decide_eq_true hi, decide_eq_true (Nat.lt_succ_of_lt hi)]
      · rw [if_neg hi]
        by_cases he : i = m
        · simp [he, hp]
        · obtain ⟨j, hj⟩ : ∃ j, i - m = j + 1 := ⟨i - m - 1, by omega⟩
          rw [hj, decide_eq_false (by omega), Nat.testBit_add_one]
          simp

theorem bytesWhere_getLsbD (p : Nat → Bool) (en : Vec) {k : Nat} (hk : k < 512) :
    (bytesWhere p en).getLsbD k = p (bits en.toNat (8 * k) 8) := by
  rw [bytesWhere, BitVec.getLsbD_ofNat, decide_eq_true hk, Bool.true_and, (foldl_bits_testBit (fun i => p (bits en.toNat (8 * i) 8)) 512).2,
    decide_eq_true hk, Bool.true_and]

/-! The scratchpad as a vector access finds it. -/

/-- The 512 bytes of a scratchpad at an address, as a register. -/
def Core.vecAt (c : Core) (a : Nat) : Vec := BitVec.ofNat 4096 (leNat (tgets 0 c.spm a 512))

theorem vecAt_getLsbD (c : Core) (a : Nat) {i : Nat} (hi : i < 4096) :
    (c.vecAt a).getLsbD i = (tget 0 c.spm (a + i / 8)).getLsbD (i % 8) := by
  rw [Core.vecAt, BitVec.getLsbD_ofNat, decide_eq_true hi, Bool.true_and, leNat_testBit, getElem?_tgets, if_pos (by omega), Option.getD_some]

theorem blend_getLsbD (en v fill : Vec) {i : Nat} (hi : i < 4096) :
    (blend en v fill).getLsbD i = if en.getLsbD i then v.getLsbD i else fill.getLsbD i := by
  simp only [blend, BitVec.getLsbD_or, BitVec.getLsbD_and, BitVec.getLsbD_not, hi, decide_true, Bool.true_and]
  cases en.getLsbD i <;> simp

/-- A bit of byte k of a register. -/
theorem byte_getLsbD (v : Vec) (k : Nat) {j : Nat} (hj : j < 8) : (BitVec.ofNat 8 (v.toNat / 256 ^ k)).getLsbD j = v.getLsbD (8 * k + j) := by
  rw [BitVec.getLsbD_ofNat, decide_eq_true hj, Bool.true_and, show (256 : Nat) ^ k = 2 ^ (8 * k) from pow_mul 2 8 k ▸ rfl, Nat.testBit_div_two_pow,
    Nat.add_comm]
  rfl

theorem push_spm (c : Core) (ctx a : Nat) (v en : Vec) (tag : Bool) :
    (c.push ctx a v en tag).spm = putBytes c.spm a (enabledBytes (blend en v (c.vecAt a)) (byteMask en)) := by
  simp only [Core.push, Core.spmPut, Core.vecAt]

/-- A vector write leaves the bytes beside its 512. -/
theorem push_outside (c : Core) (ctx a : Nat) (v en : Vec) (tag : Bool) {y : Nat} (hy : ¬ (a ≤ y ∧ y < a + 512)) :
    tget 0 (c.push ctx a v en tag).spm y = tget 0 c.spm y := by
  rw [push_spm, tget_putBytes]
  by_cases h : a ≤ y
  · rw [if_pos h, List.getElem?_eq_none (by simp [enabledBytes]; omega)]
    rfl
  · rw [if_neg h]

/-- A vector write leaves in its 512 bytes the enabled bits new and the rest as they were (R213). -/
theorem push_inside (c : Core) (ctx a : Nat) (v en : Vec) (tag : Bool) {k : Nat} (hk : k < 512) :
    tget 0 (c.push ctx a v en tag).spm (a + k) = BitVec.ofNat 8 ((blend en v (c.vecAt a)).toNat / 256 ^ k) := by
  have hbytes : (enabledBytes (blend en v (c.vecAt a)) (byteMask en))[k]? =
      some (if (byteMask en).getLsbD k then some (BitVec.ofNat 8 ((blend en v (c.vecAt a)).toNat / 256 ^ k)) else none) := by
    rw [enabledBytes, List.getElem?_mapIdx, getElem?_leBytes, if_pos hk]
    rfl
  rw [push_spm, tget_putBytes, if_pos (Nat.le_add_right ..), Nat.add_sub_cancel_left, hbytes, Option.getD_some]
  by_cases hm : (byteMask en).getLsbD k = true
  · rw [if_pos hm, Option.getD_some]
  · rw [if_neg hm, Option.getD_none]
    rw [byteMask, bytesWhere_getLsbD _ _ hk, decide_eq_true_eq, not_not] at hm
    refine BitVec.eq_of_getLsbD_eq fun j hj => ?_
    have hen : en.getLsbD (8 * k + j) = false := by
      have := bits_testBit en.toNat (8 * k) 8 j
      rw [hm, decide_eq_true hj, Bool.true_and, Nat.zero_testBit] at this
      exact this.symm
    rw [byte_getLsbD _ _ hj, blend_getLsbD _ _ _ (by omega), hen, if_neg Bool.false_ne_true, vecAt_getLsbD _ _ (by omega),
      show (8 * k + j) / 8 = k by omega, show (8 * k + j) % 8 = j by omega]

/-- The 512 bytes after a vector write. -/
theorem vecAt_push (c : Core) (ctx a : Nat) (v en : Vec) (tag : Bool) : (c.push ctx a v en tag).vecAt a = blend en v (c.vecAt a) := by
  refine BitVec.eq_of_getLsbD_eq fun i hi => ?_
  rw [vecAt_getLsbD _ _ hi, push_inside _ _ _ _ _ _ (by omega), byte_getLsbD _ _ (by omega), show 8 * (i / 8) + i % 8 = i by omega]

/-! The bits that enabled elements cover. -/

theorem enBits_getLsbD {k : Nat} (hk : 0 < k) (hc : k * countAt k = 4096) (en : Nat → Bool) {i : Nat} (hi : i < 4096) :
    (enBits k 0 en).getLsbD i = en (i / k) := by
  have hlt : i / k < countAt k := Nat.div_lt_of_lt_mul (by omega)
  rw [enBits, packVec, BitVec.getLsbD_ofNat, decide_eq_true hi, Bool.true_and, packNat_testBit hk, List.getElem?_map, upto,
    List.getElem?_range hlt, Option.map_some, Option.getD_some, Nat.zero_mul, Nat.zero_add]
  cases en (i / k) with
  | false => simp
  | true => simp [Nat.testBit_two_pow_sub_one, Nat.mod_lt _ hk]

/-- With every element enabled, every bit is. -/
theorem blend_all {k : Nat} (hk : k ≠ 0) (hc : 4096 % k = 0) (v fill : Vec) : blend (enBits k 0 fun _ => true) v fill = v := by
  have hmul : k * countAt k = 4096 := Nat.mul_div_cancel' (Nat.dvd_of_mod_eq_zero hc)
  refine BitVec.eq_of_getLsbD_eq fun i hi => ?_
  rw [blend_getLsbD _ _ _ hi, enBits_getLsbD (Nat.pos_of_ne_zero hk) hmul _ hi, if_pos rfl]

/-- An element of a blended register: new where it is enabled. -/
theorem elems_blend {k : Nat} (hk : k ∈ [4, 8, 16, 32]) (en : Nat → Bool) (xs : List Nat) (fill : Vec) {i v : Nat} (hi : i < countAt k)
    (hv : xs[i]? = some v) : (elems k (blend (enBits k 0 en) (packVec k xs) fill))[i]? =
      if en i then some (v % 2 ^ k) else (elems k fill)[i]? := by
  have hmul := mul_countAt hk
  have hpos : 0 < k := by
    rcases Nat.eq_zero_or_pos k with h | h
    · rw [h] at hmul
      omega
    · exact h
  have hget (y : Vec) : (elems k y)[i]? = some (bits y.toNat (k * i) k) := by
    rw [elems, List.getElem?_map, upto, List.getElem?_range hi]
    rfl
  have hbit {j : Nat} (hj : j < k) : k * i + j < 4096 ∧ (k * i + j) / k = i := by
    refine ⟨?_, by rw [Nat.mul_add_div hpos, Nat.div_eq_of_lt hj, Nat.add_zero]⟩
    calc k * i + j < k * (i + 1) := by rw [Nat.mul_succ]; omega
      _ ≤ k * countAt k := Nat.mul_le_mul_left _ hi
      _ = 4096 := hmul
  have hnew : bits (packVec k xs).toNat (k * i) k = v % 2 ^ k := by
    refine Nat.eq_of_testBit_eq fun j => ?_
    have hp := bits_packNat k xs i
    rw [hv, Option.getD_some] at hp
    rw [← hp, bits_testBit, bits_testBit]
    by_cases hj : j < k
    · refine congrArg (decide (j < k) && ·) ?_
      change (packVec k xs).getLsbD (k * i + j) = _
      rw [packVec, BitVec.getLsbD_ofNat, decide_eq_true (hbit hj).1, Bool.true_and]
    · rw [decide_eq_false hj, Bool.false_and, Bool.false_and]
  rw [hget, hget, ← hnew, ← apply_ite some]
  refine congrArg some (Nat.eq_of_testBit_eq fun j => ?_)
  by_cases hj : j < k
  · obtain ⟨hlt, hdiv⟩ := hbit hj
    have hblend : (blend (enBits k 0 en) (packVec k xs) fill).toNat.testBit (k * i + j) =
        if en i then (packVec k xs).toNat.testBit (k * i + j) else fill.toNat.testBit (k * i + j) := by
      refine (blend_getLsbD _ _ _ hlt).trans ?_
      rw [enBits_getLsbD hpos hmul en hlt, hdiv]
      rfl
    rw [bits_testBit, hblend]
    split <;> rw [bits_testBit]
  · rw [bits_testBit, decide_eq_false hj, Bool.false_and]
    split <;> rw [bits_testBit, decide_eq_false hj, Bool.false_and]

/-! Scatters (R231): element by element, and then row by row. -/

/-- A scattered element covers its own bytes only. -/
theorem scatter_keeps {m b : Nat} {vals : List Nat} {l : List (Nat × Nat)} (h : ∀ y ∈ l, ¬ (y.2 ≤ b ∧ b < y.2 + m)) (t : Tab (Option Byte)) :
    tget none (l.foldl (fun t x => tsets none t x.2 (whole (leBytes m ((vals[x.1]?).getD 0)))) t) b = tget none t b := by
  induction l generalizing t with
  | nil => rfl
  | cons y l ih =>
    rw [List.foldl_cons, ih fun z hz => h z (List.mem_cons_of_mem _ hz), tget_tsets,
      if_neg (by simpa [whole] using h y List.mem_cons_self)]

/-- A byte of a scattered element that no later one covers. -/
theorem scatterBytes_last {m k addr j : Nat} {vals : List Nat} {l1 l2 : List (Nat × Nat)} (hj : j < m)
    (h : ∀ y ∈ l2, ¬ (y.2 ≤ addr + j ∧ addr + j < y.2 + m)) :
    tget none (scatterBytes m vals (l1 ++ (k, addr) :: l2)) (addr + j) = some (BitVec.ofNat 8 ((vals[k]?).getD 0 / 256 ^ j)) := by
  rw [scatterBytes, List.foldl_append, List.foldl_cons, scatter_keeps h, tget_tsets,
    if_pos (by simp only [whole, List.length_map, leBytes_length]; omega), Nat.add_sub_cancel_left, whole, List.getElem?_map, getElem?_leBytes,
    if_pos hj]
  rfl

/-- The elements of a scatter from an enabled one on: those behind it have higher numbers. -/
theorem elemAddrs_split {base wd k i : Nat} {en : Nat → Bool} {idx : List Nat} (hk : k < countAt wd) (hi : idx[k]? = some i) (hen : en k = true) :
    ∃ l1 l2, elemAddrs base wd en idx = l1 ++ (k, base + i * (wd / 8)) :: l2 ∧
      ∀ y ∈ l2, ∃ k' i', k < k' ∧ k' < countAt wd ∧ en k' = true ∧ idx[k']? = some i' ∧ y.2 = base + i' * (wd / 8) := by
  let f (x : Nat × Nat) : Option (Nat × Nat) := if en x.1 then some (x.1, base + x.2 * (wd / 8)) else none
  let z := (upto (countAt wd)).zip idx
  have hz (q : Nat) (y : Nat × Nat) : z[q]? = some y ↔ q < countAt wd ∧ y.1 = q ∧ idx[q]? = some y.2 := by
    obtain ⟨y1, y2⟩ := y
    rw [List.getElem?_zip_eq_some, upto, List.getElem?_eq_some_iff]
    constructor
    · rintro ⟨⟨hq, h1⟩, h⟩
      rw [List.getElem_range] at h1
      exact ⟨by rwa [List.length_range] at hq, h1.symm, h⟩
    · rintro ⟨hq, h1, h⟩
      exact ⟨⟨by rwa [List.length_range], (List.getElem_range _).trans h1.symm⟩, h⟩
  obtain ⟨hlt, hzk⟩ := List.getElem?_eq_some_iff.mp ((hz k (k, i)).mpr ⟨hk, rfl, hi⟩)
  refine ⟨(z.take k).filterMap f, (z.drop (k + 1)).filterMap f, ?_, fun y hy => ?_⟩
  · have hsplit : z = z.take k ++ (k, i) :: z.drop (k + 1) := by
      rw [← hzk, ← List.drop_eq_getElem_cons hlt, List.take_append_drop]
    change z.filterMap f = _
    conv_lhs => rw [hsplit]
    rw [List.filterMap_append, List.filterMap_cons_some (show f (k, i) = some (k, base + i * (wd / 8)) from if_pos hen)]
  · obtain ⟨x, hx, hfx⟩ := List.mem_filterMap.mp hy
    obtain ⟨q, hq⟩ := List.mem_iff_getElem?.mp hx
    rw [List.getElem?_drop] at hq
    obtain ⟨hq1, hq2, hq3⟩ := (hz _ _).mp hq
    by_cases hex : en x.1 = true
    · have hfx' : (x.1, base + x.2 * (wd / 8)) = y := Option.some.inj ((if_pos hex).symm.trans hfx)
      exact ⟨x.1, x.2, by omega, by omega, hex, hq2 ▸ hq3, hfx' ▸ rfl⟩
    · exact absurd ((if_neg hex).symm.trans hfx) (Option.some_ne_none y).symm

/-- Elements of different indices cover different bytes. -/
theorem index_apart {base i i' m j : Nat} (hj : j < m) (hne : i' ≠ i) : ¬ (base + i' * m ≤ base + i * m + j ∧ base + i * m + j < base + i' * m + m) := by
  intro ⟨h1, h2⟩
  rcases Nat.lt_or_gt_of_ne hne with h | h
  · have := Nat.mul_le_mul_right m (Nat.succ_le_of_lt h)
    rw [Nat.succ_mul] at this
    omega
  · have := Nat.mul_le_mul_right m (Nat.succ_le_of_lt h)
    rw [Nat.succ_mul] at this
    omega

/-- The write of one row of scattered bytes (R214). -/
def rowPush (t : Tab (Option Byte)) (r : Nat) : Nat × Vec × Vec :=
  let bs := tgets none t (64 * r) 64
  (64 * r, BitVec.ofNat 4096 (leNat (bs.map (·.getD 0))), BitVec.ofNat 4096 (leNat (bs.map fun b => if b.isSome then 0xFF else 0)))

theorem push_rowPush (t : Tab (Option Byte)) (r : Nat) (c : Core) (ctx : Nat) (tag : Bool) (y : Nat) :
    tget 0 (c.push ctx (rowPush t r).1 (rowPush t r).2.1 (rowPush t r).2.2 tag).spm y =
      if y / 64 = r then (tget none t y).getD (tget 0 c.spm y) else tget 0 c.spm y := by
  by_cases hy : 64 * r ≤ y ∧ y < 64 * r + 512
  · obtain ⟨k, rfl⟩ : ∃ k, y = 64 * r + k := ⟨y - 64 * r, by omega⟩
    have hk : k < 512 := by omega
    refine (push_inside c ctx (64 * r) _ _ tag hk).trans (BitVec.eq_of_getLsbD_eq fun j hj => ?_)
    have hlow {z : List Byte} : (BitVec.ofNat 4096 (leNat z)).getLsbD (8 * k + j) = ((z[k]?).getD 0).getLsbD j := by
      rw [BitVec.getLsbD_ofNat, decide_eq_true (by omega), Bool.true_and, leNat_testBit, show (8 * k + j) / 8 = k by omega,
        show (8 * k + j) % 8 = j by omega]
    have hold : (c.vecAt (64 * r)).getLsbD (8 * k + j) = (tget 0 c.spm (64 * r + k)).getLsbD j := by
      rw [vecAt_getLsbD _ _ (by omega), show (8 * k + j) / 8 = k by omega, show (8 * k + j) % 8 = j by omega]
    rw [byte_getLsbD _ _ hj, blend_getLsbD _ _ _ (by omega), hold, rowPush]
    dsimp only
    rw [hlow, hlow, List.getElem?_map, List.getElem?_map, getElem?_tgets]
    by_cases h64 : k < 64
    · have hrow : (64 * r + k) / 64 = r := by omega
      rw [if_pos h64, if_pos hrow]
      cases tget none t (64 * r + k) with
      | none => simp
      | some z =>
        have hones : (255#8).getLsbD j = true := by
          interval_cases j <;> rfl
        simp [hones]
    · have hrow : (64 * r + k) / 64 ≠ r := by omega
      rw [if_neg h64, if_neg hrow]
      simp
  · have hrow : y / 64 ≠ r := by omega
    rw [if_neg hrow]
    exact push_outside c ctx (64 * r) _ _ tag hy

theorem Core.pushAll_cons (c : Core) (ctx : Nat) (p : Nat × Vec × Vec) (ps : Pushes) (tag : Bool) :
    c.pushAll ctx (p :: ps) tag = (c.push ctx p.1 p.2.1 p.2.2 tag).pushAll ctx ps tag := List.foldl_cons ..

theorem pushAll_rows (t : Tab (Option Byte)) (rows : List Nat) (ctx : Nat) (tag : Bool) (y : Nat) : ∀ c : Core,
    tget 0 (c.pushAll ctx (rows.map (rowPush t)) tag).spm y =
      if y / 64 ∈ rows then (tget none t y).getD (tget 0 c.spm y) else tget 0 c.spm y := by
  induction rows with
  | nil => exact fun c => rfl
  | cons r rows ih =>
    intro c
    rw [List.map_cons, Core.pushAll_cons, ih, push_rowPush]
    by_cases hr : y / 64 = r
    · have hmem : y / 64 ∈ r :: rows := List.mem_cons.mpr (Or.inl hr)
      simp only [if_pos hr, if_pos hmem]
      cases tget none t y <;> simp
    · rw [if_neg hr]
      simp only [List.mem_cons, hr, false_or]

/-- A scattered byte is in the scratchpad once its rows are written. -/
theorem pushAll_scatter {t : Tab (Option Byte)} {y : Nat} {z : Byte} (h : tget none t y = some z) (c : Core) (ctx : Nat) (tag : Bool) :
    tget 0 (c.pushAll ctx (scatterPushes t) tag).spm y = z := by
  have hrow : y / 64 ∈ (t.map fun x => x.1 / 64).eraseDups :=
    List.mem_eraseDups.mpr (List.mem_map.mpr ⟨_, mem_of_tget h (Option.some_ne_none z), rfl⟩)
  refine (pushAll_rows t _ ctx tag y c).trans ?_
  rw [if_pos hrow, h, Option.getD_some]

/-! What vector stores and global vector words leave. -/

theorem vTarget_vst (w : VWord) : vTarget 0x81 w = none := by simp [vTarget, vform]

theorem vTarget_vsts (w : VWord) : vTarget 0x83 w = none := by simp [vTarget, vform]

theorem writeVec_untargeted {opc : Nat} (h : vTarget opc w = none) (u : State) (tok : Nat) (places : List Nat) (x : VIn) (r : List Nat)
    (tag : Bool) : u.writeVec w opc tok places x r tag = u.launchFly ⟨tok, [], [], tag, u.sigOf w⟩ := by
  simp only [State.writeVec, h]

/-- With no mask, every element is enabled. -/
theorem VReady.unmasked {opc : Nat} {addr vals : List GReg} (h : VReady s s0 u opc w addr vals x places) (hm : w.mask = 0) :
    x.en = fun _ => true := by
  obtain ⟨p, s1, q, s2, s3, -, -, -, rfl, -⟩ := h.answered
  funext i
  simp [State.enabled, hm]

/-- What a scratchpad store without a vector result leaves: its writes, then its signal in flight. -/
def State.storedVec (u : State) (w : VWord) (tok : Nat) (ps : Pushes) (tag : Bool) : State :=
  ((u.spmStore ps tag).launchFly ⟨tok, [], [], tag || false, (u.spmStore ps tag).sigOf w⟩).issued

/-- A scratchpad store behind no write of its strand in flight is performed at once (R94). -/
theorem stored_now (h : u.RunsAs n us) (hfree : us.owesBefore (us.mark + 1) = false) (w : VWord) (tok : Nat) (ps : Pushes) (tag : Bool) :
    (u.storedVec w tok ps tag).verdict = .issued none ∧ (u.storedVec w tok ps tag).mem = u.mem ∧
    (u.storedVec w tok ps tag).coreAt (coreOfStrand n) = (u.coreAt (coreOfStrand n)).pushAll u.myCtx ps tag := by
  have hstore : u.spmStore ps tag = u.modCore (coreOfStrand n) fun c => c.pushAll u.myCtx ps tag := by
    simp only [State.spmStore, h.me, hfree, Bool.false_eq_true, if_false, h.myCore]
  have hu : (u.modCore (coreOfStrand n) fun c => c.pushAll u.myCtx ps tag).RunsAs n us := ⟨h.cur, h.here⟩
  rw [State.storedVec, hstore, State.launchFly, hu.modMe]
  refine ⟨rfl, rfl, ?_⟩
  change (u.modCore (coreOfStrand n) fun c => c.pushAll u.myCtx ps tag).coreAt (coreOfStrand n) = _
  rw [State.coreAt_modCore, if_pos rfl]

/-- One write performed at once, by the bytes of its core's scratchpad. -/
theorem stored_one (h : u.RunsAs n us) (hfree : us.owesBefore (us.mark + 1) = false) (w : VWord) (tok a : Nat) (v en : Vec) (tag : Bool) :
    (u.storedVec w tok [(a, v, en)] tag).coreAt (coreOfStrand n) = (u.coreAt (coreOfStrand n)).push u.myCtx a v en tag := by
  obtain ⟨-, -, hcore⟩ := stored_now h hfree w tok [(a, v, en)] tag
  rw [hcore, Core.pushAll_cons]
  rfl

/-- A scratchpad store behind a write of its strand in flight stands in line (R94). -/
theorem stored_in_line (h : u.RunsAs n us) (howes : us.owesBefore (us.mark + 1) = true) (w : VWord) (tok : Nat) (ps : Pushes) (tag : Bool) :
    ∃ st', (u.storedVec w tok ps tag).verdict = .issued none ∧ (u.storedVec w tok ps tag).mem = u.mem ∧
      (u.storedVec w tok ps tag).cores = u.cores ∧ (u.storedVec w tok ps tag).strandAt n = some st' ∧
      ⟨us.mark + 1, [], ps, tag, none⟩ ∈ st'.fly := by
  have hstore : u.spmStore ps tag =
      u.setStrand n (some { us with mark := us.mark + 1, fly := us.fly ++ [⟨us.mark + 1, [], ps, tag, none⟩] }) := by
    simp only [State.spmStore, h.me, howes, if_true, h.modMe]
  rw [State.storedVec, hstore, State.launchFly, (h.setStrand _).modMe]
  refine ⟨_, rfl, rfl, rfl, State.strandAt_setStrand_same .., ?_⟩
  have hmem : (⟨us.mark + 1, [], ps, tag, none⟩ : Fly) ∈ us.fly ++ [⟨us.mark + 1, [], ps, tag, none⟩] :=
    List.mem_append_right _ List.mem_cons_self
  dsimp only
  split
  · exact hmem
  · exact List.mem_append_left _ hmem

/-- A vector load entered behind the others. -/
theorem enterLoad_noReg (h : u.RunsAs n us) (what : LoadWhat) (ea : W64) (ps : List Part) (sig : Option (Nat × Nat)) :
    ∃ st', (u.enterLoad what ea ps sig none).issued.strandAt n = some st' ∧
      u.onlyStrand (u.enterLoad what ea ps sig none).issued n ∧
      st'.lq = us.lq ++ [⟨what, ea, ps, ps, 0, false, us.epoch, us.mark + 1, sig, us.pc⟩] := by
  rw [State.enterLoad, h.modMe]
  exact ⟨_, State.strandAt_setStrand_same .., u.onlyStrand_setStrand .., rfl⟩

section
variable {opc : Nat} {regs : List GReg} {ps : List Part} {time : Option W64}

/-- A global vector load outside a transaction enters the load queue (R232, R233). -/
theorem vLoad_enters (h : VReady s s0 u opc w regs [] x places) (hu : u.RunsAs n us) (ht : us.txn = none)
    (hpre : s.vGlobal w false time = .ok ps s0) : s.vLoad opc w time regs =
      (u.enterLoad (time.elim (.vec (vDest w s0.nextTok places x)) (.vecNb (vDest w s0.nextTok places x))) (u.vPtr w) ps (u.sigOf w)
        none).issued := by
  refine (vissue_ready (pre := fun s => s.vGlobal w false time) (j := none) h hpre _ ?_).trans ?_
  · simp only [hu.me, ht]
    rfl
  · simp only [hu.me, ht]
    cases time <;> rfl

/-- A global vector store outside a transaction enters the store queue (R232, R233). -/
theorem vStore_enters (h : VReady s s0 u opc w regs [] x places) (hu : u.RunsAs n us) (ht : us.txn = none)
    (hpre : s.vGlobal w true time = .ok ps s0) : s.vStore opc w time regs =
      (u.enterStore (time.elim .plain .pm) (u.vPtr w) ps (packVec (typeWidth w.ty.toNat) (x.elems (typeWidth w.ty.toNat) 0))
        (byteMask (enBits (typeWidth w.ty.toNat) 0 x.en)) x.tag (u.sigOf w) none).issued := by
  have hglobal (ea : W64) (v : Vec) (en : BitVec 512) (sig : Option (Nat × Nat)) :
      u.storeGlobal ea ps v en x.tag sig = (u.enterStore .plain ea ps v en x.tag sig none).issued := by
    simp only [State.storeGlobal, hu.me, ht]
  cases time with
  | none =>
    refine (vissue_ready (pre := fun s => s.vGlobal w true none) (j := none) h hpre _ ?_).trans ?_ <;>
      simp only [hu.me, ht, Option.isSome_none, Bool.false_eq_true, if_false, hglobal] <;> rfl
  | some p => exact vissue_ready (pre := fun s => s.vGlobal w true (some p)) (j := none) h hpre _ rfl

end

/-- VST: its enabled elements at its address (R230). -/
theorem vst_next {wd a : Nat} (hwd : wd = typeWidth w.ty.toNat) (h : VReady s s u 0x81 w [srcReg w.s1] [] x places)
    (ha : s.spCheck w false = .ok a s) :
    exec (.vst w) s = .next (u.storedVec w s.nextTok [(a, packVec wd (x.elems wd 0), enBits wd 0 x.en)] x.tag) := by
  subst hwd
  refine congrArg Host.Outcome.next ((vword_ready (pre := fun s => s.spCheck w false) h ha _).trans ?_)
  rw [writeVec_untargeted (vTarget_vst w)]
  rfl

/-- VSTS: its scattered bytes row by row (R231). -/
theorem vsts_next {wd a : Nat} (hwd : wd = typeWidth w.ty.toNat) (hbase : u.spAddr w = a)
    (h : VReady s s u 0x83 w [srcReg w.s1] [] x places) (hc : s.gatherCheck 0x83 w = .ok () s) :
    exec (.vsts w) s = .next (u.storedVec w s.nextTok
      (scatterPushes (scatterBytes (wd / 8) (x.elems wd 1) (elemAddrs a wd x.en (x.elems wd 0)))) x.tag) := by
  subst hwd hbase
  refine congrArg Host.Outcome.next ((vword_ready (pre := fun s => s.gatherCheck 0x83 w) h hc _).trans ?_)
  rw [writeVec_untargeted (vTarget_vsts w)]
  rfl

/-- Settles O21: an access to the scratchpad by its bytes, a global word by the queue that it enters. -/
theorem vectorMemory : Obligations.VectorMemory := by
  unfold Obligations.VectorMemory
  refine ⟨?_, ?_⟩
  · intro s u n st us w x places _ hcur hus wd a core mem
    have hu : u.RunsAs n us := ⟨hcur, hus⟩
    refine ⟨fun h ha => congrArg Host.Outcome.next (vword_ready (pre := fun s => s.spCheck w true) h ha _),
      fun h ha howes => ?_, fun h ha hm hfree => ?_, fun h ha hwd hfree => ?_,
      fun h hc hg => ?_, fun h hc hg hfree => ?_⟩
    · obtain ⟨st', hv, hmem, hcores, hst', hfly⟩ := stored_in_line hu howes w s.nextTok [(a, packVec wd (x.elems wd 0), enBits wd 0 x.en)] x.tag
      exact ⟨_, st', vst_next (wd := wd) rfl h ha, hv, hmem, hcores, hst', hfly⟩
    · obtain ⟨hv, hmem, -⟩ := stored_now hu hfree w s.nextTok [(a, packVec wd (x.elems wd 0), enBits wd 0 x.en)] x.tag
      refine ⟨_, vst_next (wd := wd) rfl h ha, hv, hmem, fun k hk => ?_, fun h0 h4096 k hk => ?_⟩
      · simp only [mem, core, stored_one hu hfree, push_outside _ _ _ _ _ _ hk]
      · simp only [mem, core, stored_one hu hfree, push_inside _ _ _ _ _ _ hk, h.unmasked hm, blend_all h0 h4096]
    · obtain ⟨hv, hmem, -⟩ := stored_now hu hfree w s.nextTok [(a, packVec wd (x.elems wd 0), enBits wd 0 x.en)] x.tag
      refine ⟨_, vst_next (wd := wd) rfl h ha, hv, hmem, fun k hk => ?_, fun k v hk hx => ?_⟩
      · simp only [mem, core, stored_one hu hfree, push_outside _ _ _ _ _ _ hk]
      · have hblend := elems_blend hwd x.en (x.elems wd 0) ((u.coreAt core).vecAt a) hk hx
        rw [← vecAt_push, ← stored_one hu hfree] at hblend
        exact hblend
    · have hbase : u.spAddr w = a := by rw [State.spAddr, hg]; rfl
      refine ⟨_, _, congrArg Host.Outcome.next (vword_ready (pre := fun s => s.gatherCheck 0x82 w) h hc _), fun k i hi hen => ?_⟩
      rw [List.getElem?_map, List.getElem?_mapIdx, hi, hbase]
      simp only [Option.map_some, hen, if_true, Core.spmRead]
      rfl
    · have hbase : u.spAddr w = a := by rw [State.spAddr, hg]; rfl
      have hnext := vsts_next (wd := wd) rfl hbase h hc
      obtain ⟨hv, hmem, hcore⟩ := stored_now hu hfree w s.nextTok
        (scatterPushes (scatterBytes (wd / 8) (x.elems wd 1) (elemAddrs a wd x.en (x.elems wd 0)))) x.tag
      refine ⟨_, hnext, hv, hmem, fun k i v j hk hi hval hen hj hlast => ?_⟩
      obtain ⟨l1, l2, hsplit, hlater⟩ := elemAddrs_split (base := a) hk hi hen
      have hbyte : tget none (scatterBytes (wd / 8) (x.elems wd 1) (elemAddrs a wd x.en (x.elems wd 0))) (a + i * (wd / 8) + j) =
          some (BitVec.ofNat 8 (v / 256 ^ j)) := by
        rw [hsplit, scatterBytes_last hj fun y hy => ?_, hval, Option.getD_some]
        obtain ⟨k', i', hkk, hk', hen', hi', hy2⟩ := hlater y hy
        rw [hy2]
        exact index_apart hj (hlast k' i' hkk hk' hen' hi')
      simp only [mem, core, hcore, pushAll_scatter hbyte]
  · intro s s0 u n st us w x places ps _ hcur hus ht ra rt rp loads stores
    have hu : u.RunsAs n us := ⟨hcur, hus⟩
    have loaded {i : Instr} {what : LoadWhat} (hi : exec i s = .next (u.enterLoad what (u.vPtr w) ps (u.sigOf w) none).issued) : loads i what := by
      obtain ⟨st', hst', honly, hlq⟩ := enterLoad_noReg hu what (u.vPtr w) ps (u.sigOf w)
      exact ⟨_, st', hi, rfl, hst', honly, hlq⟩
    have stored {i : Instr} {what : StoreWhat} (hi : exec i s = .next (u.enterStore what (u.vPtr w) ps
        (packVec (typeWidth w.ty.toNat) (x.elems (typeWidth w.ty.toNat) 0)) (byteMask (enBits (typeWidth w.ty.toNat) 0 x.en)) x.tag
        (u.sigOf w) none).issued) : stores i what := by
      obtain ⟨st', hst', hsq, -, -, -, -, honly⟩ := enterStore_leaves hu what (u.vPtr w) ps _ _ x.tag (u.sigOf w) none
      exact ⟨_, st', hi, rfl, hst', honly, hsq⟩
    exact ⟨fun h hp => loaded (congrArg Host.Outcome.next (vLoad_enters h hu ht hp)),
      fun h hp => loaded (congrArg Host.Outcome.next (vLoad_enters h hu ht hp)),
      fun h hp => stored (congrArg Host.Outcome.next (vStore_enters h hu ht hp)), fun h hp => stored (congrArg Host.Outcome.next (vStore_enters h hu ht hp))⟩

end Sys2Proof.Machine
end

-- ==== Proofs: vector reductions, permutations and moves (O20) ====
section
/-! PROOF. A word that computes from its operands alone writes what its elements make of them (R216); then the lists of elements that the
permutations and moves make (R228, R229). -/
namespace Sys2Proof.Machine

variable {s u : State} {w : VWord} {x : VIn} {places : List Nat}

/-- A word that asks nothing of memory writes what its elements make of its operands (R216). -/
theorem vword_writes {opc : Nat} {addr vals : List GReg} (h : VReady s s u opc w addr vals x places) (body : Unit → VIn → State → VOut)
    (hs : (body () x u).s = u) (ht : (body () x u).tag = false) : s.vword opc w addr vals noPre body =
      (u.writeVec w opc s.nextTok places x (body () x u).r x.tag).issued := by
  rw [vword_ready (pre := noPre) h rfl, hs, ht, Bool.or_false]

theorem compute_writes {opc : Nat} {vals : List GReg} (h : VReady s s u opc w [] vals x places) (f : VIn → List Nat) :
    s.compute opc w vals f = (u.writeVec w opc s.nextTok places x (f x) x.tag).issued := vword_writes h _ rfl rfl

/-! Lists of elements. -/

theorem zipLists_getElem? {a b : List Nat} (hl : a.length = b.length) (k : Nat) :
    (zipLists a b)[2 * k]? = a[k]? ∧ (zipLists a b)[2 * k + 1]? = b[k]? := by
  induction a generalizing b k with
  | nil =>
    rw [List.length_nil, eq_comm, List.length_eq_zero_iff] at hl
    simp [zipLists, hl]
  | cons a as ih =>
    cases b with
    | nil => cases hl
    | cons b bs =>
      cases k with
      | zero => exact ⟨rfl, rfl⟩
      | succ k => exact ih (Nat.succ.inj hl) k

theorem evens_getElem? : ∀ (l : List Nat) (k : Nat), (evens l)[k]? = l[2 * k]?
  | [], _ => by simp [evens]
  | [a], k => by cases k <;> simp [evens, Nat.mul_succ]
  | a :: _ :: l, 0 => rfl
  | a :: b :: l, k + 1 => evens_getElem? l k

theorem countsBelow_getElem? (c k : Nat) (bs : List Bool) (hk : k < bs.length) :
    (countsBelow c bs)[k]? = some (c + (bs.take k).countP id) := by
  induction bs generalizing c k with
  | nil => exact absurd hk (Nat.not_lt_zero k)
  | cons b bs ih =>
    cases k with
    | zero => rfl
    | succ k =>
      rw [countsBelow, List.getElem?_cons_succ, ih _ _ (Nat.lt_of_succ_lt_succ hk), List.take_succ_cons, List.countP_cons]
      exact congrArg some (by rw [Nat.add_assoc, Nat.add_comm (ite ..)]; rfl)

/-! What the words leave (R228, R229). -/

theorem shuffle_low {n k : Nat} {a b : List Nat} (ha : a.length = n) (hb : b.length = n) (hk : k < n / 2) :
    (shuffle 0 n a b)[2 * k]? = a[k]? ∧ (shuffle 0 n a b)[2 * k + 1]? = b[k]? := by
  obtain ⟨he, ho⟩ := zipLists_getElem? (a := a.take (n / 2)) (b := b.take (n / 2)) (by simp [ha, hb]) k
  exact ⟨he.trans (List.getElem?_take_of_lt hk), ho.trans (List.getElem?_take_of_lt hk)⟩

theorem shuffle_high {n k : Nat} {a b : List Nat} (ha : a.length = n) (hb : b.length = n) (hk : n / 2 ≤ k) :
    (shuffle 1 n a b)[2 * (k - n / 2)]? = a[k]? ∧ (shuffle 1 n a b)[2 * (k - n / 2) + 1]? = b[k]? := by
  obtain ⟨he, ho⟩ := zipLists_getElem? (a := a.drop (n / 2)) (b := b.drop (n / 2)) (by simp [ha, hb]) (k - n / 2)
  rw [List.getElem?_drop, Nat.add_sub_cancel' hk] at he ho
  exact ⟨he, ho⟩

/-- Every second element of two registers end to end, from element p on. -/
theorem evens_append {n k p : Nat} {a b : List Nat} (ha : a.length = n) (hn : n % 2 = 0) (hk : k % 2 = p) (hka : k < n) :
    (evens ((a ++ b).drop p))[k / 2]? = a[k]? ∧ (evens ((a ++ b).drop p))[n / 2 + k / 2]? = b[k]? := by
  rw [evens_getElem?, evens_getElem?, List.getElem?_drop, List.getElem?_drop, show p + 2 * (k / 2) = k by omega,
    show p + 2 * (n / 2 + k / 2) = n + k by omega, List.getElem?_append_left (ha ▸ hka), List.getElem?_append_right (by omega), ha,
    Nat.add_sub_cancel_left]
  exact ⟨rfl, rfl⟩

/-- A slide reads two registers end to end from an element on, and 0 behind them. -/
theorem slide_getElem? {n g k : Nat} {l : List Nat} (hl : l.length = 2 * n) (hk : k < n) :
    ((l.drop (min g (2 * n)) ++ List.replicate (2 * n) 0).take n)[k]? = some ((l[k + g]?).getD 0) := by
  rw [List.getElem?_take_of_lt hk, List.getElem?_append, List.length_drop, hl]
  split
  · next h =>
    rw [List.getElem?_drop, show min g (2 * n) + k = k + g by omega, List.getElem?_eq_getElem (by omega), Option.getD_some]
  · next h =>
    rw [List.getElem?_replicate_of_lt (by omega), List.getElem?_eq_none (by omega), Option.getD_none]

/-- The numbers of 1 bits below each of the first n bits. -/
theorem countsBelow_bits (p : Nat → Bool) {n k : Nat} (hk : k < n) :
    (countsBelow 0 ((upto n).map p))[k]? = some ((List.range k).countP fun j => p j) := by
  rw [countsBelow_getElem? 0 k _ (by simpa [upto] using hk), ← List.map_take, upto, List.take_range, Nat.min_eq_left hk.le,
    List.countP_map, Nat.zero_add]
  rfl

/-- A permutation takes the element that each index names, modulo their number. -/
theorem permute_getElem? {n k a b : Nat} {xs ys : List Nat} (hb : ys[k]? = some b) (ha : xs[b % n]? = some a) :
    (ys.map fun b => xs.toArray.getD (b % n) 0)[k]? = some a := by
  rw [List.getElem?_map, hb, Option.map_some, Array.getD_eq_getD_getElem?, List.getElem?_toArray, ha, Option.getD_some]

/-- The two registers of a shuffle, element by element. -/
theorem shuffle_getElem? {mode n k a b : Nat} {xs ys : List Nat} (hx : xs.length = n) (hy : ys.length = n) (ha : xs[k]? = some a)
    (hb : ys[k]? = some b) :
    (mode = 0 → k < n / 2 → (shuffle mode n xs ys)[2 * k]? = some a ∧ (shuffle mode n xs ys)[2 * k + 1]? = some b) ∧
    (mode = 1 → n / 2 ≤ k → (shuffle mode n xs ys)[2 * (k - n / 2)]? = some a ∧
      (shuffle mode n xs ys)[2 * (k - n / 2) + 1]? = some b) ∧
    (mode = 2 → k % 2 = 0 → n % 2 = 0 → (shuffle mode n xs ys)[k / 2]? = some a ∧ (shuffle mode n xs ys)[n / 2 + k / 2]? = some b) ∧
    (mode = 3 → k % 2 = 1 → n % 2 = 0 → (shuffle mode n xs ys)[k / 2]? = some a ∧ (shuffle mode n xs ys)[n / 2 + k / 2]? = some b) := by
  have hk : k < n := hx ▸ (List.getElem?_eq_some_iff.mp ha).1
  rw [← ha, ← hb]
  refine ⟨?_, ?_, ?_, ?_⟩ <;> rintro rfl
  · exact shuffle_low hx hy
  · exact shuffle_high hx hy
  · exact fun h0 hn => evens_append hx hn h0 hk
  · exact fun h1 hn => evens_append hx hn h1 hk

/-- Settles O20: each word by what its description makes of its elements. -/
theorem vectorMoves : Obligations.VectorMoves := by
  unfold Obligations.VectorMoves
  intro s u w x places op ty wd n g A B writes
  have computes {i : Instr} {opc : Nat} {vals : List GReg} {f : VIn → List Nat} {p : List Nat → Prop}
      (hi : exec i s = .next (s.compute opc w vals f)) (hp : p (f x)) : writes i opc [] vals p :=
    fun h => ⟨_, hi.trans (congrArg _ (compute_writes h f)), hp⟩
  refine ⟨computes rfl rfl, computes rfl fun k a b => permute_getElem?,
    computes rfl fun k a b ha hb hx hy => shuffle_getElem? hx hy ha hb, computes rfl rfl,
    fun h => ⟨_, congrArg Host.Outcome.next (vword_writes h _ rfl rfl), fun hx hy k hk =>
      slide_getElem? (by rw [List.length_append, hx, hy, Nat.two_mul]) hk⟩,
    fun h => ⟨_, congrArg Host.Outcome.next (vword_writes h _ rfl rfl), fun k a ha =>
      List.getElem?_mapIdx.trans (congrArg (Option.map _) ha)⟩,
    fun h => congrArg Host.Outcome.next ((vword_ready (pre := noPre) h rfl _).trans ?_),
    fun h => ⟨_, congrArg Host.Outcome.next (vword_ready (pre := noPre) h rfl _), fun k hk => ?_⟩,
    computes rfl (List.map_id _), computes rfl fun k hk => ?_⟩
  · simp only [isFloat, decide_eq_true_eq, Bool.or_false]
    rfl
  · rw [List.getElem?_map, countsBelow_bits _ hk, Option.map_some]
  · rw [List.getElem?_map, upto, List.getElem?_range hk, Option.map_some]

end Sys2Proof.Machine
end

-- ==== Proofs: engine commands that complete (O25) ====
section
/-! PROOF. A command that completes leaves its queue and performs its signal clause, and beside these its core holds what was
performed (R236, R251). -/
namespace Sys2Proof.Machine

variable {s : State} {core : Nat} {x : Cmd}

/-! A command that completes leaves its queue and performs its signal clause (R236, R251). -/

theorem dropCmd_sem (c : Core) (q id i : Nat) : (c.dropCmd q id).sem i = c.sem i := by
  unfold Core.dropCmd
  dsimp only
  split <;> rfl

theorem dropCmd_eq (c : Core) (q id : Nat) : ∃ sy, c.dropCmd q id =
    { c with sync := sy, queues := tset [] c.queues q ((c.queue q).filter fun x => x.id ≠ id) } := by
  unfold Core.dropCmd
  dsimp only
  split <;> exact ⟨_, rfl⟩

/-- A list of commands has none of a number. -/
def lacksCmd (l : List Cmd) (id : Nat) : Prop := ∀ y ∈ l, y.id ≠ id

theorem dropCmd_lacks (c : Core) (q id : Nat) : lacksCmd ((c.dropCmd q id).queue q) id := by
  obtain ⟨sy, h⟩ := dropCmd_eq c q id
  rw [h]
  simp [lacksCmd, Core.queue]

theorem modCmd_lacks {c : Core} {q r id j : Nat} {f : Cmd → Cmd} (hf : ∀ y, (f y).id = y.id) (h : lacksCmd (c.queue q) id) :
    lacksCmd ((c.modCmd r j f).queue q) id := by
  intro y hy
  by_cases hq : q = r
  · subst hq
    simp only [Core.modCmd, Core.setQueue, Core.queue, tget_tset_same, List.mem_map] at hy
    obtain ⟨z, hz, rfl⟩ := hy
    split
    · exact (hf z).symm ▸ h z hz
    · exact h z hz
  · simp only [Core.modCmd, Core.setQueue, Core.queue, tget_tset_other _ _ _ hq] at hy
    exact h y hy

/-- From s to t one core changes, in its semaphores and its queues at most. -/
def State.keepsCores (s t : State) (core : Nat) : Prop :=
  (∃ sy qs, t.coreAt core = { s.coreAt core with sync := sy, queues := qs }) ∧ ∀ m, m ≠ core → t.coreAt m = s.coreAt m

theorem State.keepsCores.refl (s : State) (core : Nat) : s.keepsCores s core := ⟨⟨_, _, rfl⟩, fun _ _ => rfl⟩

theorem State.keepsCores.trans {t u : State} (h : s.keepsCores t core) (k : t.keepsCores u core) : s.keepsCores u core := by
  obtain ⟨⟨sy, qs, hc⟩, hm⟩ := h
  obtain ⟨⟨sy', qs', kc⟩, km⟩ := k
  exact ⟨⟨sy', qs', by rw [kc, hc]⟩, fun m hne => (km m hne).trans (hm m hne)⟩

theorem State.keepsCores.modCore {f : Core → Core} (h : ∃ sy qs, f (s.coreAt core) = { s.coreAt core with sync := sy, queues := qs }) :
    s.keepsCores (s.modCore core f) core := by
  obtain ⟨sy, qs, hf⟩ := h
  exact ⟨⟨sy, qs, by rw [State.coreAt_modCore, if_pos rfl, hf]⟩, fun m hne => by rw [State.coreAt_modCore, if_neg hne]⟩

/-- The head of the MXE queue noted: no semaphore changes, and no command joins a queue. -/
theorem noteHead_leaves (s : State) (core : Nat) : s.keepsCores (s.noteHead core) core ∧
    ((s.noteHead core).coreAt core).sync = (s.coreAt core).sync ∧
    ∀ q id, lacksCmd ((s.coreAt core).queue q) id → lacksCmd (((s.noteHead core).coreAt core).queue q) id := by
  unfold State.noteHead
  split
  · exact ⟨.refl s core, rfl, fun _ _ h => h⟩
  · dsimp only
    split
    · refine ⟨.modCore ⟨_, _, rfl⟩, by rw [State.coreAt_modCore, if_pos rfl]; rfl, fun q id h => ?_⟩
      rw [State.coreAt_modCore, if_pos rfl]
      exact modCmd_lacks (fun _ => rfl) h
    · exact ⟨.refl s core, rfl, fun _ _ h => h⟩

theorem settleRels_cores (s : State) (n : Nat) : (s.settleRels n).cores = s.cores := by
  cases h : s.strandAt n with
  | none => simp only [State.settleRels, h]
  | some st =>
    obtain ⟨hsame, -, -⟩ := settleRels_leaves h
    exact (congrArg State.cores hsame :)

theorem settleRels_coreAt (s : State) (n m : Nat) : (s.settleRels n).coreAt m = s.coreAt m :=
  congrArg (tget Core.init · m) (settleRels_cores s n)

/-- A signal that a semaphore holds changes semaphores of its core only. -/
theorem signal_leaves (f : FaultAt) {sig : Option (Nat × Nat)} (h : ∀ i k, sig = some (i, k) →
    ((s.coreAt core).sem i).poisoned = true ∨ ((s.coreAt core).sem i).count + k ≤ 65535) :
    s.keepsCores (s.signal core f sig) core ∧ ((s.signal core f sig).coreAt core).queues = (s.coreAt core).queues := by
  cases sig with
  | none => exact ⟨.refl s core, rfl⟩
  | some p =>
    obtain ⟨i, k⟩ := p
    obtain ⟨sy, hpost⟩ : ∃ sy, (s.coreAt core).sync.post i k = some sy := by
      rw [Sync.post]
      rcases h i k rfl with hp | hc
      · exact ⟨_, if_pos hp⟩
      · split
        · exact ⟨_, rfl⟩
        · exact ⟨_, if_neg (Nat.not_lt.mpr hc)⟩
    simp only [State.signal, hpost]
    exact ⟨.modCore ⟨_, _, rfl⟩, by rw [State.coreAt_modCore, if_pos rfl]⟩

/-- A command gone from its queue, and the next head noted. -/
def State.dropped (s : State) (core q : Nat) (x : Cmd) : State :=
  ((s.endFrameWait (.engine core x.id)).modCore core (·.dropCmd q x.id)).noteHead core

theorem dropped_leaves (s : State) (core q : Nat) (x : Cmd) : s.keepsCores (s.dropped core q x) core ∧
    (∀ i, ((s.dropped core q x).coreAt core).sem i = (s.coreAt core).sem i) ∧
    lacksCmd (((s.dropped core q x).coreAt core).queue q) x.id := by
  obtain ⟨hkeep, hsync, hlack⟩ := noteHead_leaves ((s.endFrameWait (.engine core x.id)).modCore core (·.dropCmd q x.id)) core
  have hcore : ((s.endFrameWait (.engine core x.id)).modCore core (·.dropCmd q x.id)).coreAt core = (s.coreAt core).dropCmd q x.id :=
    (State.coreAt_modCore ..).trans (if_pos rfl)
  obtain ⟨sy, hdrop⟩ := dropCmd_eq (s.coreAt core) q x.id
  refine ⟨State.keepsCores.trans ⟨⟨sy, _, hcore.trans hdrop⟩, fun m hne => ?_⟩ hkeep, fun i => ?_, hlack q x.id ?_⟩
  · exact (State.coreAt_modCore ..).trans (if_neg hne)
  · refine (congrArg (Sync.sem · i) (hsync.trans (congrArg Core.sync hcore))).trans ?_
    exact dropCmd_sem ..
  · rw [hcore]
    exact dropCmd_lacks _ _ _

/-- A command completes: it is gone from its queue, and beside the queues and the semaphores of its core no core changes. -/
theorem completeCmd_leaves (q : Nat) (h : s.signalFits core x) :
    s.keepsCores (s.completeCmd core q x) core ∧ lacksCmd (((s.completeCmd core q x).coreAt core).queue q) x.id := by
  obtain ⟨hkeep, hsem, hlack⟩ := dropped_leaves s core q x
  have hcore (m : Nat) : (s.completeCmd core q x).coreAt m = (if x.discard then s.dropped core q x else
      (s.dropped core q x).signal core (s.faultOfCmd core q x) x.sig).coreAt m := settleRels_coreAt ..
  unfold State.keepsCores Core.queue at *
  simp only [hcore]
  split
  · exact ⟨hkeep, hlack⟩
  · next hx =>
    obtain ⟨hsignal, hqueues⟩ := signal_leaves (s := s.dropped core q x) (s.faultOfCmd core q x) fun i k hik => by
      rw [hsem]
      exact h.resolve_left hx i k hik
    exact ⟨State.keepsCores.trans hkeep hsignal, by rwa [hqueues]⟩

/-! What an MXE command leaves of its core. -/

variable {c : Core}

theorem accZero_sync (c : Core) (mask : BitVec 16) : (c.accZero mask).sync = c.sync := by
  unfold Core.accZero
  generalize upto 16 = l
  induction l generalizing c with
  | nil => rfl
  | cons i l ih =>
    rw [List.foldl_cons, ih]
    split <;> rfl

/-- One scale slot loaded (R248). -/
def Core.scaleSlot (c : Core) (from_ key : Nat) : Core :=
  { c with
    scale := tset 0 c.scale key (BitVec.ofNat 16 (leNat (c.spmRead from_ 2).1 % 512))
    scaleTag := tset false c.scaleTag key (c.spmRead from_ 2).2 }

/-- The scale slots of a lane loaded: consecutive slots, each from its container, and no other. -/
theorem scaleLane_leaves (c : Core) (place : Nat → Nat) (key n : Nat) : ∃ sc tags,
    (upto n).foldl (fun c j => c.scaleSlot (place j) (key + j)) c = { c with scale := sc, scaleTag := tags } ∧
    ∀ k, tget 0 sc k = if key ≤ k ∧ k < key + n then BitVec.ofNat 16 (leNat (c.spmRead (place (k - key)) 2).1 % 512)
      else tget 0 c.scale k := by
  unfold upto
  induction n with
  | zero => exact ⟨_, _, rfl, fun k => (if_neg (by omega)).symm⟩
  | succ n ih =>
    obtain ⟨sc, tags, hc, hk⟩ := ih
    rw [List.range_succ, List.foldl_append, hc]
    refine ⟨_, _, rfl, fun k => ?_⟩
    rw [tget_tset]
    by_cases he : k = key + n
    · rw [if_pos he, if_pos (by omega), he, Nat.add_sub_cancel_left]
      rfl
    · rw [if_neg he, hk]
      exact if_congr (by omega) rfl rfl

/-- The lane l of SCLD (R248). -/
def Core.scaleLane (c : Core) (a : SclArgs) (addr l : Nat) : Core :=
  (upto (a.nc1.toNat + 1)).foldl
    (fun c j => c.scaleSlot (addr + 2 * (l * (a.nc1.toNat + 1) + j)) (128 * l + a.c0.toNat + j)) c

/-- The first lanes of SCLD: the slots of its columns in each of them, and no other. -/
theorem scaleLanes_leaves (c : Core) (a : SclArgs) (addr m : Nat) (h : a.c0.toNat + a.nc1.toNat < 128) : ∃ sc tags,
    (upto m).foldl (fun c l => c.scaleLane a addr l) c = { c with scale := sc, scaleTag := tags } ∧
    ∀ l col, col < 128 → tget 0 sc (128 * l + col) = if l < m ∧ a.c0.toNat ≤ col ∧ col ≤ a.c0.toNat + a.nc1.toNat then
        BitVec.ofNat 16 (leNat (c.spmRead (addr + 2 * (l * (a.nc1.toNat + 1) + (col - a.c0.toNat))) 2).1 % 512)
      else tget 0 c.scale (128 * l + col) := by
  unfold upto
  induction m with
  | zero => exact ⟨_, _, rfl, fun l col _ => (if_neg (by omega)).symm⟩
  | succ m ih =>
    obtain ⟨sc, tags, hc, hk⟩ := ih
    obtain ⟨sc', tags', hc', hk'⟩ := scaleLane_leaves { c with scale := sc, scaleTag := tags }
      (fun j => addr + 2 * (m * (a.nc1.toNat + 1) + j)) (128 * m + a.c0.toNat) (a.nc1.toNat + 1)
    rw [List.range_succ, List.foldl_append, hc]
    refine ⟨sc', tags', hc', fun l col hcol => ?_⟩
    rw [hk', hk l col hcol]
    by_cases hl : l = m
    · subst hl
      rw [show 128 * l + col - (128 * l + a.c0.toNat) = col - a.c0.toNat by omega]
      by_cases hin : a.c0.toNat ≤ col ∧ col ≤ a.c0.toNat + a.nc1.toNat
      · rw [if_pos (by omega), if_pos (by omega)]
        rfl
      · rw [if_neg (by omega), if_neg (by omega), if_neg (by omega)]
    · rw [if_neg (by omega)]
      exact if_congr (by omega) rfl rfl

theorem scaleLoad_lanes (c : Core) (a : SclArgs) (addr : Nat) :
    c.scaleLoad a addr = (upto 64).foldl (fun c l => c.scaleLane a addr l) c := rfl

/-- SCLD: the slots of its columns in each lane, and no other (R248). -/
theorem scaleLoad_leaves (c : Core) (a : SclArgs) (addr : Nat) (h : a.c0.toNat + a.nc1.toNat < 128) : ∃ sc tags,
    c.scaleLoad a addr = { c with scale := sc, scaleTag := tags } ∧ ∀ l col, l < 64 → col < 128 → tget 0 sc (128 * l + col) =
      if a.c0.toNat ≤ col ∧ col ≤ a.c0.toNat + a.nc1.toNat then
        BitVec.ofNat 16 (leNat (c.spmRead (addr + 2 * (l * (a.nc1.toNat + 1) + (col - a.c0.toNat))) 2).1 % 512)
      else tget 0 c.scale (128 * l + col) := by
  obtain ⟨sc, tags, hc, hk⟩ := scaleLanes_leaves c a addr 64 h
  exact ⟨sc, tags, hc, fun l col hl hcol => (hk l col hcol).trans (if_congr (by omega) rfl rfl)⟩

theorem scaleLoad_sync (c : Core) (a : SclArgs) (addr : Nat) : (c.scaleLoad a addr).sync = c.sync := by
  have slots (c : Core) (l : List Nat) (f g : Nat → Nat) : (l.foldl (fun c j => c.scaleSlot (f j) (g j)) c).sync = c.sync := by
    induction l generalizing c with
    | nil => rfl
    | cons j l ih => exact ih _
  rw [scaleLoad_lanes]
  generalize upto 64 = l
  induction l generalizing c with
  | nil => rfl
  | cons i l ih => exact (ih _).trans (slots ..)

theorem setAcc_leaves (c : Core) (tile : Nat) (ws : List W32) (tag : Bool) : c.setAcc tile ws tag =
    { c with acc := tsets 0 c.acc (accKey tile 0 0) ws, accTag := tset false c.accTag tile tag } := rfl

/-- ACCWR: the tile holds the elements of the scratchpad (R246). -/
theorem accWrite_eq (c : Core) (a : AccArgs) (addr : Nat) : c.accWrite a addr =
    c.setAcc a.acc.toNat ((elemsOf (typeWidth a.ty.toNat) 4096 (c.spmRead addr (accBytes a.ty.toNat)).1).map (accIn a.ty.toNat))
      (c.spmRead addr (accBytes a.ty.toNat)).2 := by
  unfold Core.accWrite
  dsimp only

/-- What the matrix engine performs leaves the semaphores of its core. -/
theorem performMxe_sync (c : Core) (x : Cmd) : (c.performMxe x).sync = c.sync := by
  unfold Core.performMxe
  dsimp only
  split
  · rfl
  · rfl
  · unfold Core.accRead
    dsimp only
    split <;> rfl
  · rw [accWrite_eq, setAcc_leaves]
  · exact accZero_sync ..
  · exact scaleLoad_sync ..
  · rfl

/-- The oldest started MXE command completes: its core holds what it performs (R245-R248), and the other cores what
they held. -/
theorem mxe_completes {seg : Nat} (hf : x.failed = false) (hx : ((s.coreAt core).queue 0).find? (·.started) = some x)
    (hs : s.signalFits core x) : ∃ u, exec (.engineCommandComplete core 0 seg) s = .next u ∧
      (u.coreAt core).acc = ((s.coreAt core).performMxe x).acc ∧ (u.coreAt core).spm = ((s.coreAt core).performMxe x).spm ∧
      (u.coreAt core).scale = ((s.coreAt core).performMxe x).scale ∧ lacksCmd ((u.coreAt core).queue 0) x.id ∧
      ∀ m, m ≠ core → u.coreAt m = s.coreAt m := by
  have hcore : ∀ m, (s.modCore core (·.performMxe x)).coreAt m = if m = core then (s.coreAt core).performMxe x else s.coreAt m :=
    fun m => State.coreAt_modCore ..
  have hfits : (s.modCore core (·.performMxe x)).signalFits core x := by
    unfold State.signalFits Core.sem
    rw [hcore, if_pos rfl, performMxe_sync]
    exact hs
  obtain ⟨⟨⟨sy, qs, hc⟩, hm⟩, hl⟩ := completeCmd_leaves 0 hfits
  refine ⟨_, ?_, by rw [hc, hcore, if_pos rfl], by rw [hc, hcore, if_pos rfl],
    by rw [hc, hcore, if_pos rfl], hl, fun m hne => by rw [hm m hne, hcore, if_neg hne]⟩
  change execEngineCommandComplete core 0 seg s = _
  unfold execEngineCommandComplete
  rw [hx]
  simp only [hf, Nat.not_lt_zero, if_false, Bool.false_eq_true, if_true]

end Sys2Proof.Machine
end

-- ==== Proofs: what matrix commands leave (O25) ====
section
/-! PROOF. Accumulator words and scratchpad bytes after a tile step, a transfer or a load of scales: a step stores its rows of cells in its tile
(R131, R132, R245), and a transfer puts elements of one width one behind the other (R246). -/
namespace Sys2Proof.Machine

variable {c : Core} {x : Cmd}

/-! Elements in bytes (R117). -/

/-- An entry of lists of one length end to end. -/
theorem flatten_getElem? {α : Type} {n b : Nat} (ls : List (List α)) (h : ∀ l ∈ ls, l.length = n) (hb : b < n) (k : Nat) :
    ls.flatten[n * k + b]? = (ls[k]?).bind fun l => l[b]? := by
  induction ls generalizing k with
  | nil => simp
  | cons l ls ih =>
    have hl : l.length = n := h l List.mem_cons_self
    cases k with
    | zero => simp [List.getElem?_append_left (hl ▸ hb)]
    | succ k =>
      rw [List.flatten_cons, List.getElem?_append_right (by rw [hl, Nat.mul_succ]; omega), hl,
        show n * (k + 1) + b - n = n * k + b by rw [Nat.mul_succ]; omega, ih fun l' h' => h l' (List.mem_cons_of_mem _ h')]
      rfl

/-- An element of consecutive bytes is the number that its own bytes make. -/
theorem elemsOf_tgets {t : Tab Byte} {a e n k : Nat} (hk : k < n) :
    (elemsOf (8 * e) n (tgets 0 t a (n * e)))[k]? = some (leNat (tgets 0 t (a + e * k) e)) := by
  rw [elemsOf, List.getElem?_map, upto, List.getElem?_range hk, Option.map_some]
  refine congrArg some (Nat.eq_of_testBit_eq fun i => ?_)
  rw [bits_testBit, leNat_testBit, leNat_testBit, getElem?_tgets, getElem?_tgets, Nat.mul_assoc, Nat.mul_add_div (by omega),
    Nat.mul_add_mod]
  by_cases hi : i < 8 * e
  · have hlast : e * k + i / 8 < n * e := by
      have := Nat.mul_le_mul_right e (Nat.succ_le_of_lt hk)
      rw [Nat.succ_mul, Nat.mul_comm k e] at this
      omega
    rw [decide_eq_true hi, Bool.true_and, if_pos hlast, if_pos (by omega), Nat.add_assoc]
  · rw [decide_eq_false hi, Bool.false_and, if_neg (by omega)]
    exact BitVec.getLsbD_zero.symm

theorem tgets_length {α : Type} (d : α) (t : Tab α) (a n : Nat) : (tgets d t a n).length = n := by
  induction n generalizing a with
  | zero => rfl
  | succ n ih => exact congrArg Nat.succ (ih _)

theorem elemsOf_length (w n : Nat) (bs : List Byte) : (elemsOf w n bs).length = n := by simp [elemsOf, upto]

/-! Accumulator words in their table (R240). -/

/-- Rows of words stored in an accumulator from row r on. -/
def rowsStored (t : Tab W32) (tile r : Nat) (cells : List (List W32)) : Tab W32 :=
  (cells.foldl (fun (t : Tab W32 × Nat) row => (tsets 0 t.1 (accKey tile t.2 0) row, t.2 + 1)) (t, r)).1

theorem rowsStored_cons (t : Tab W32) (tile r : Nat) (row : List W32) (cells : List (List W32)) :
    rowsStored t tile r (row :: cells) = rowsStored (tsets 0 t (accKey tile r 0) row) tile (r + 1) cells := rfl

/-- A word at or behind the first row of stored rows. -/
theorem rowsStored_at {tile j : Nat} (hj : j < 64) (cells : List (List W32)) (hc : ∀ row ∈ cells, row.length ≤ 64) (t : Tab W32)
    (r i : Nat) : tget 0 (rowsStored t tile r cells) (accKey tile i j) =
      if r ≤ i then ((cells[i - r]?).bind fun row => row[j]?).getD (tget 0 t (accKey tile i j)) else tget 0 t (accKey tile i j) := by
  induction cells generalizing t r with
  | nil => simp [rowsStored]
  | cons row cells ih =>
    have hrow := hc row List.mem_cons_self
    rw [rowsStored_cons, ih (fun row' h => hc row' (List.mem_cons_of_mem _ h)), tget_tsets]
    unfold accKey
    rcases Nat.lt_trichotomy i r with h | rfl | h
    · rw [if_neg (by omega), if_neg (by omega), if_neg (by omega)]
    · rw [if_neg (by omega), if_pos (Nat.le_refl i), Nat.sub_self, List.getElem?_cons_zero, Option.bind_some,
        show 4096 * tile + 64 * i + j - (4096 * tile + 64 * i + 0) = j by omega]
      by_cases hlen : j < row.length
      · rw [if_pos (by omega), List.getElem?_eq_getElem hlen]
        rfl
      · rw [if_neg (by omega), List.getElem?_eq_none (by omega)]
        rfl
    · obtain ⟨k, hk⟩ : ∃ k, i - r = k + 1 := ⟨i - r - 1, by omega⟩
      rw [if_pos (by omega), if_neg (by omega), if_pos (by omega), hk, List.getElem?_cons_succ, show i - (r + 1) = k by omega]

/-- A word before the stored rows. -/
theorem rowsStored_before {tile k : Nat} (cells : List (List W32)) (t : Tab W32) (r : Nat) (h : k < accKey tile r 0) :
    tget 0 (rowsStored t tile r cells) k = tget 0 t k := by
  induction cells generalizing t r with
  | nil => rfl
  | cons row cells ih =>
    rw [rowsStored_cons, ih _ _ (by unfold accKey at *; omega), tget_tsets, if_neg (by omega)]

/-- Rows stored in a tile change no word outside them. -/
theorem rowsStored_outside {tile t' i j m n : Nat} (hi : i < 64) (hj : j < 64) (cells : List (List W32)) (hm : cells.length = m + 1)
    (hm64 : m < 64) (hn64 : n < 64) (hn : ∀ row ∈ cells, row.length = n + 1) (t : Tab W32) (h : t' ≠ tile ∨ m < i ∨ n < j) :
    tget 0 (rowsStored t tile 0 cells) (accKey t' i j) = tget 0 t (accKey t' i j) := by
  rcases Nat.lt_or_ge t' tile with hlt | hge
  · exact rowsStored_before cells t 0 (by unfold accKey; omega)
  · have hkey : accKey t' i j = accKey tile (i + 64 * (t' - tile)) j := by unfold accKey; omega
    rw [hkey, rowsStored_at hj cells (fun row hr => by rw [hn row hr]; omega), if_pos (Nat.zero_le _), Nat.sub_zero]
    by_cases hrow : t' = tile ∧ i ≤ m
    · obtain ⟨rfl, him⟩ := hrow
      rw [Nat.sub_self, Nat.mul_zero, Nat.add_zero, List.getElem?_eq_getElem (by omega), Option.bind_some,
        List.getElem?_eq_none (by rw [hn _ (List.getElem_mem _)]; omega), Option.getD_none]
    · rw [List.getElem?_eq_none (by omega), Option.bind_none, Option.getD_none]

/-! The tile step (R131, R132, R245). -/

/-- The elements of vector i of A in a step (R241, R244). -/
def Core.mmaA (c : Core) (a : MmaArgs) (k addrA i : Nat) : List Nat :=
  elemsOf (typeWidth a.fa.toNat) k (c.spmRead (addrA + 128 * i) 128).1

/-- The elements of vector j of B in a step, from the scratchpad or from a weight-buffer tile (R241, R244). -/
def Core.mmaB (c : Core) (a : MmaArgs) (k addrB j : Nat) : List Nat :=
  elemsOf (typeWidth a.fb.toNat) k (c.mmaVector a.bsrc (if a.bsrc then a.offB.toNat % 16 else addrB) j).1

/-- The word of row i and column j that a step over K elements leaves. -/
def Core.mmaCell (c : Core) (a : MmaArgs) (zero : Bool) (k addrA addrB i j : Nat) : W32 :=
  let word : W32 := tget 0 c.acc (accKey a.acc.toNat i j)
  if mmaFloat a.fa.toNat then
    BitVec.ofNat 32 (mxeFloatStep ((if zero then .fin false 0 0 else unpack 8 false word.toNat) :: List.zipWith fmulX
      (c.scaledVec a.fa.toNat (if a.scaled then some a.ca.toNat else none) i (c.mmaA a k addrA i))
      (c.scaledVec a.fb.toNat (if a.scaled then some a.cb.toNat else none) j (c.mmaB a k addrB j))))
  else mxeIntStep (if zero then 0 else word)
    (List.zipWith (fun p q => intOf a.fa.toNat p * intOf a.fb.toNat q) (c.mmaA a k addrA i) (c.mmaB a k addrB j)) a.sat

theorem mapIdx_map_upto {α β : Type} (f : Nat → α) (g : Nat → α → β) (n : Nat) :
    ((upto n).map f).mapIdx g = (upto n).map fun i => g i (f i) := by
  refine List.ext_getElem (by simp) fun i h _ => ?_
  simp [upto]

/-- A step stores its rows of cells in its tile. -/
theorem mmaStep_acc (c : Core) (a : MmaArgs) (zero : Bool) (addrA addrB : Nat) {k : Nat} {may must : Bool}
    (h : mmaPair a.fa.toNat a.fb.toNat = some (k, may, must)) : (c.mmaStep a zero addrA addrB).acc =
      rowsStored c.acc a.acc.toNat 0 ((upto (a.m1.toNat + 1)).map fun i => (upto (a.n1.toNat + 1)).map fun j =>
        c.mmaCell a zero k addrA addrB i j) := by
  unfold Core.mmaStep Core.mmaCell Core.mmaA Core.mmaB
  dsimp only
  simp only [h, Option.map_some, Option.getD_some, List.map_map, mapIdx_map_upto]
  unfold rowsStored
  split <;> rfl

theorem mmaA_length (c : Core) (a : MmaArgs) (k addrA i : Nat) : (c.mmaA a k addrA i).length = k := elemsOf_length ..

theorem mmaB_length (c : Core) (a : MmaArgs) (k addrB j : Nat) : (c.mmaB a k addrB j).length = k := elemsOf_length ..

theorem zipWith_mapIdx {α β γ : Type} {k : Nat} (f : α → β → γ) (F : Nat → Nat → α) (G : Nat → Nat → β) {as bs : List Nat}
    (ha : as.length = k) (hb : bs.length = k) : List.zipWith f (as.mapIdx F) (bs.mapIdx G) =
      (List.range k).map fun l => f (F l ((as[l]?).getD 0)) (G l ((bs[l]?).getD 0)) := by
  refine List.ext_getElem (by simp [ha, hb]) fun l h1 h2 => ?_
  have hl : l < k := by simpa using h2
  simp [ha, hb, hl]

theorem mapIdx_elem {α : Type} (l : List α) : (l.mapIdx fun _ x => x) = l :=
  List.ext_getElem (by simp) fun i _ _ => by simp

theorem clamp_eq {lo hi : Int} (h : lo ≤ hi) (v : Int) : clamp lo hi v = max lo (min hi v) := by
  unfold clamp
  split_ifs <;> omega

/-- An integer step adds the exact products to the word, wrapped or saturated (R132). -/
theorem mmaCell_int (c : Core) (a : MmaArgs) (zero : Bool) (k addrA addrB i j : Nat) (h : a.fa.toNat < 8) :
    c.mmaCell a zero k addrA addrB i j =
      let v : Int := (List.range k).foldl (fun v l => v + intOf a.fa.toNat (((c.mmaA a k addrA i)[l]?).getD 0) *
        intOf a.fb.toNat (((c.mmaB a k addrB j)[l]?).getD 0)) (if zero then 0 else (tget 0 c.acc (accKey a.acc.toNat i j)).toInt)
      BitVec.ofInt 32 (if a.sat then max (-2 ^ 31) (min (2 ^ 31 - 1) v) else v) := by
  have hint : ¬ mmaFloat a.fa.toNat = true := by simpa [mmaFloat] using h
  have hz : (if zero then 0 else tget 0 c.acc (accKey a.acc.toNat i j) : W32).toInt =
      if zero then 0 else (tget 0 c.acc (accKey a.acc.toNat i j)).toInt := by
    split <;> rfl
  have hps := zipWith_mapIdx (fun p q => intOf a.fa.toNat p * intOf a.fb.toNat q) (fun _ p => p) (fun _ q => q)
    (mmaA_length c a k addrA i) (mmaB_length c a k addrB j)
  rw [mapIdx_elem, mapIdx_elem] at hps
  rw [Core.mmaCell, if_neg hint, hps, mxeIntStep, List.foldl_map, hz, clamp_eq (by decide)]

/-- The terms of a floating step: the word, then the products of the elements as they are read (R131). -/
theorem mmaCell_float (c : Core) (a : MmaArgs) (zero : Bool) (k addrA addrB i j : Nat) (h : 8 ≤ a.fa.toNat) {F G : Nat → Nat → FVal}
    (hF : c.scaledVec a.fa.toNat (if a.scaled then some a.ca.toNat else none) i (c.mmaA a k addrA i) = (c.mmaA a k addrA i).mapIdx F)
    (hG : c.scaledVec a.fb.toNat (if a.scaled then some a.cb.toNat else none) j (c.mmaB a k addrB j) = (c.mmaB a k addrB j).mapIdx G) :
    c.mmaCell a zero k addrA addrB i j = BitVec.ofNat 32 (mxeFloatStep (
      (if zero then .fin false 0 0 else unpack 8 false (tget 0 c.acc (accKey a.acc.toNat i j)).toNat) :: (List.range k).map fun l =>
        fmulX (F l (((c.mmaA a k addrA i)[l]?).getD 0)) (G l (((c.mmaB a k addrB j)[l]?).getD 0)))) := by
  rw [Core.mmaCell, if_pos (by simpa [mmaFloat] using h), hF, hG, zipWith_mapIdx _ _ _ (mmaA_length ..) (mmaB_length ..)]

/-- What a step leaves of the accumulators: the cells of its rows and columns, and every other word. -/
theorem mmaStep_word (c : Core) (a : MmaArgs) (zero : Bool) (addrA addrB : Nat) {k : Nat} {may must : Bool}
    (h : mmaPair a.fa.toNat a.fb.toNat = some (k, may, must)) :
    (∀ i j, i ≤ a.m1.toNat → j ≤ a.n1.toNat → tget 0 (c.mmaStep a zero addrA addrB).acc (accKey a.acc.toNat i j) =
      c.mmaCell a zero k addrA addrB i j) ∧
    ∀ t' i j, i < 64 → j < 64 → (t' ≠ a.acc.toNat ∨ a.m1.toNat < i ∨ a.n1.toNat < j) →
      tget 0 (c.mmaStep a zero addrA addrB).acc (accKey t' i j) = tget 0 c.acc (accKey t' i j) := by
  have hm := a.m1.isLt
  have hn := a.n1.isLt
  rw [mmaStep_acc c a zero addrA addrB h]
  refine ⟨fun i j hi hj => ?_, fun t' i j hi hj hout => ?_⟩
  · rw [rowsStored_at (by omega) _ fun row hrow => ?_, if_pos (Nat.zero_le i)]
    · simp [upto, Nat.lt_succ_of_le hi, Nat.lt_succ_of_le hj]
    · obtain ⟨_, -, rfl⟩ := List.mem_map.mp hrow
      simp [upto]
      omega
  · refine rowsStored_outside hi hj _ (by simp [upto]) hm hn (fun row hrow => ?_) _ hout
    obtain ⟨_, -, rfl⟩ := List.mem_map.mp hrow
    simp [upto]

/-! Transfers between the accumulators and the scratchpad (R246). -/

theorem accTile_getElem? (c : Core) (tile : Nat) {i j : Nat} (hi : i < 64) (hj : j < 64) :
    (c.accTile tile)[64 * i + j]? = some (tget 0 c.acc (accKey tile i j)) := by
  rw [Core.accTile, getElem?_tgets, if_pos (by omega)]
  exact congrArg (fun key => some (tget 0 c.acc key)) (by unfold accKey; omega)

theorem spmWrite_spm (c : Core) (ctx a : Nat) (bs : List Byte) (tag : Bool) {k : Nat} {b : Byte} (h : bs[k]? = some b) :
    tget 0 (c.spmWrite ctx a (whole bs) tag).spm (a + k) = b := by
  refine (tget_putBytes (whole bs) c.spm a (a + k)).trans ?_
  rw [if_pos (Nat.le_add_right a k), Nat.add_sub_cancel_left, whole, List.getElem?_map, h]
  rfl

theorem accRead_spm (c : Core) (ctx : Nat) (a : AccArgs) (addr : Nat) :
    (c.accRead ctx a addr).spm = (c.spmWrite ctx addr (whole ((c.accTile a.acc.toNat).map fun v =>
      leBytes (typeWidth a.ty.toNat / 8) (accOut a.ty.toNat a.rz a.sat v)).flatten) (tget false c.accTag a.acc.toNat)).spm := by
  unfold Core.accRead
  dsimp only
  split <;> rfl

/-- ACCRD: each byte of the element of each word. -/
theorem accRead_byte (c : Core) (ctx : Nat) (a : AccArgs) (addr : Nat) {i j b e : Nat} (he : typeWidth a.ty.toNat = 8 * e) (hi : i < 64)
    (hj : j < 64) (hb : b < e) : tget 0 (c.accRead ctx a addr).spm (addr + e * (64 * i + j) + b) =
      BitVec.ofNat 8 (accOut a.ty.toNat a.rz a.sat (tget 0 c.acc (accKey a.acc.toNat i j)) / 256 ^ b) := by
  rw [accRead_spm, he, Nat.mul_div_cancel_left e (by decide), Nat.add_assoc]
  refine spmWrite_spm _ _ _ _ _ ?_
  rw [flatten_getElem? _ (fun l hl => ?_) hb, List.getElem?_map, accTile_getElem? c _ hi hj]
  · exact (getElem?_leBytes ..).trans (if_pos hb)
  · obtain ⟨v, -, rfl⟩ := List.mem_map.mp hl
    exact leBytes_length ..

theorem zeroAcc_word (c : Core) (tile t i j : Nat) (hi : i < 64) (hj : j < 64) :
    tget 0 (c.zeroAcc tile).acc (accKey t i j) = if t = tile then 0 else tget 0 c.acc (accKey t i j) := by
  refine (tget_tfilter_key 0 (fun k => !(accKey tile 0 0 ≤ k && k < accKey (tile + 1) 0 0)) c.acc _).trans ?_
  unfold accKey
  by_cases h : t = tile
  · rw [if_pos h, if_neg]
    simp only [Bool.not_eq_true', Bool.and_eq_false_iff, decide_eq_false_iff_not]
    omega
  · rw [if_neg h, if_pos]
    simp only [Bool.not_eq_true', Bool.and_eq_false_iff, decide_eq_false_iff_not]
    omega

/-- ACCRD leaves the accumulators, or makes its tile 0. -/
theorem accRead_word (c : Core) (ctx : Nat) (a : AccArgs) (addr t : Nat) {i j : Nat} (hi : i < 64) (hj : j < 64) :
    tget 0 (c.accRead ctx a addr).acc (accKey t i j) =
      if a.clr = true ∧ t = a.acc.toNat then 0 else tget 0 c.acc (accKey t i j) := by
  unfold Core.accRead
  dsimp only
  by_cases hclr : a.clr = true
  · rw [if_pos hclr, zeroAcc_word _ _ _ _ _ hi hj]
    exact if_congr (by simp [hclr]) rfl rfl
  · rw [if_neg hclr, if_neg (hclr ·.1)]
    rfl

/-- ACCWR: each word of its tile from the bytes of its element, and no other word. -/
theorem accWrite_word (c : Core) (a : AccArgs) (addr t : Nat) {i j e : Nat} (he : typeWidth a.ty.toNat = 8 * e) (hi : i < 64) (hj : j < 64) :
    tget 0 (c.accWrite a addr).acc (accKey t i j) = if t = a.acc.toNat then
        accIn a.ty.toNat (leNat (c.spmRead (addr + e * (64 * i + j)) e).1)
      else tget 0 c.acc (accKey t i j) := by
  have hbytes : accBytes a.ty.toNat = 4096 * e := by
    rw [accBytes, he]
    omega
  rw [accWrite_eq, setAcc_leaves, he, hbytes, tget_tsets, List.length_map, elemsOf_length]
  by_cases h : t = a.acc.toNat
  · have hkey : accKey t i j - accKey a.acc.toNat 0 0 = 64 * i + j := by
      unfold accKey
      omega
    rw [if_pos (by unfold accKey; omega), if_pos h, hkey, List.getElem?_map, Core.spmRead, elemsOf_tgets (by omega)]
    rfl
  · rw [if_neg (by unfold accKey; omega), if_neg h]

theorem typeWidth_of_accType {ty : Nat} (h : accType ty = true) : typeWidth ty = 8 * (typeWidth ty / 8) := by
  simp only [accType, List.contains_cons, List.contains_nil, Bool.or_false, Bool.or_eq_true, beq_iff_eq] at h
  rcases h with rfl | rfl | rfl | rfl | rfl | rfl <;> rfl

/-- The bytes of an integer kept to e bytes are its own. -/
theorem lowBits_byte {e b : Nat} (hb : b < e) (v : Int) : BitVec.ofNat 8 (lowBits (8 * e) v / 256 ^ b) = BitVec.ofInt 8 (v / 256 ^ b) := by
  obtain ⟨d, rfl⟩ : ∃ d, e = b + 1 + d := ⟨e - (b + 1), by omega⟩
  have hpow : (2 : Int) ^ (8 * (b + 1 + d)) = 256 ^ b * (256 * 256 ^ d) := by
    rw [pow_mul, pow_add, pow_succ, mul_assoc]
    norm_num
  have hlow : (lowBits (8 * (b + 1 + d)) v : Int) = v % 2 ^ (8 * (b + 1 + d)) := Int.toNat_of_nonneg (Int.emod_nonneg _ (by positivity))
  have hv : v / 256 ^ b = ((lowBits (8 * (b + 1 + d)) v / 256 ^ b : Nat) : Int) + 256 * (256 ^ d * (v / 2 ^ (8 * (b + 1 + d)))) := by
    conv_lhs => rw [← Int.emod_add_mul_ediv v (2 ^ (8 * (b + 1 + d))), ← hlow, hpow, mul_assoc, mul_assoc,
      Int.add_mul_ediv_left _ _ (by positivity)]
    push_cast [hpow]
    rfl
  rw [hv]
  refine BitVec.eq_of_toNat_eq ?_
  rw [BitVec.toNat_ofNat, BitVec.toNat_ofInt]
  omega

/-! The elements of each type (R246). -/

theorem accOut_word {ty : Nat} (h : ty = 4 ∨ ty = 8) (rz sat : Bool) (v : W32) : accOut ty rz sat v = v.toNat := by
  rcases h with rfl | rfl <;> rfl

theorem accIn_word {ty : Nat} (h : ty = 4 ∨ ty = 8) (v : Nat) : accIn ty v = BitVec.ofNat 32 v := by
  rcases h with rfl | rfl <;> rfl

theorem accOut_int {ty : Nat} (h : ty = 0 ∨ ty = 2) (rz sat : Bool) (v : W32) : accOut ty rz sat v =
    lowBits (typeWidth ty) (if sat then max (-2 ^ (typeWidth ty - 1)) (min (2 ^ (typeWidth ty - 1) - 1) v.toInt) else v.toInt) := by
  rcases h with rfl | rfl <;> exact congrArg (fun v => lowBits _ (if sat then v else _)) (clamp_eq (by decide) _)

theorem accIn_int {ty : Nat} (h : ty = 0 ∨ ty = 2) {v : Nat} (hv : v < 2 ^ typeWidth ty) : accIn ty v =
    BitVec.ofInt 32 (if v < 2 ^ (typeWidth ty - 1) then v else (v : Int) - 2 ^ typeWidth ty) := by
  have hsigned : signed (typeWidth ty) v = if v < 2 ^ (typeWidth ty - 1) then (v : Int) else (v : Int) - 2 ^ typeWidth ty := by
    rw [signed, Nat.mod_eq_of_lt hv]
  rw [← hsigned]
  rcases h with rfl | rfl <;> rfl

/-! The commands performed (R245, R246, R248). -/

section
variable {h : EHead} {base : W64} (hr : x.regs = [base])
include hr

theorem performMxe_step {a : MmaArgs} {zero : Bool} (hw : x.word = if zero then .mmaz h a else .mma h a) : c.performMxe x =
    c.mmaStep a zero (spmAddr base 128 a.offA.toNat) (spmAddr base 128 a.offB.toNat) := by
  unfold Core.performMxe
  rw [hw, hr]
  cases zero <;> rfl

theorem performMxe_accrd {a : AccArgs} (hw : x.word = .accrd h a) :
    c.performMxe x = c.accRead x.ctx a (spmAddr base 64 a.off.toNat) := by
  unfold Core.performMxe
  rw [hw, hr]
  rfl

theorem performMxe_accwr {a : AccArgs} (hw : x.word = .accwr h a) : c.performMxe x = c.accWrite a (spmAddr base 64 a.off.toNat) := by
  unfold Core.performMxe
  rw [hw, hr]
  rfl

theorem performMxe_scld {a : SclArgs} (hw : x.word = .scld h a) : c.performMxe x = c.scaleLoad a (spmAddr base 64 a.off.toNat) := by
  unfold Core.performMxe
  rw [hw, hr]
  rfl

end

/-- Settles O25: each command by what it leaves of its core as it completes. -/
theorem matrixSteps : Obligations.MatrixSteps := by
  unfold Obligations.MatrixSteps
  intro s core seg x h base hregs hfailed hfind hfits c at_ doneBy word
  obtain ⟨u, hu, hacc, hspm, hscale, hl, hm⟩ := mxe_completes (seg := seg) hfailed hfind hfits
  have hword (t i j : Nat) : word (u.coreAt core) t i j = tget 0 (c.performMxe x).acc (accKey t i j) := congrArg (tget 0 · _) hacc
  have hten (v : BitVec 4) : decide (v.toNat = 10) = decide (v = 10) :=
    decide_eq_decide.mpr ⟨fun e => BitVec.eq_of_toNat_eq e, fun e => e ▸ rfl⟩
  have hzero (v : BitVec 4) : v = 0 ∨ v = 2 ↔ v.toNat = 0 ∨ v.toNat = 2 :=
    or_congr ⟨fun e => e ▸ rfl, fun e => BitVec.eq_of_toNat_eq e⟩ ⟨fun e => e ▸ rfl, fun e => BitVec.eq_of_toNat_eq e⟩
  have hwide {ty : Nat} (hty : ty = 4 ∨ ty = 8) : typeWidth ty = 8 * 4 := by rcases hty with rfl | rfl <;> rfl
  refine ⟨fun a zero k b1 b2 hw hpair => ?_, fun a hw hty => ?_, fun a hw hty => ?_, fun a hw hty => ?_, fun a hw hty => ?_,
    fun a hw hcols => ?_⟩
  · intro A B t
    obtain ⟨hin, hout⟩ := mmaStep_word c a zero (spmAddr base 128 a.offA.toNat) (spmAddr base 128 a.offB.toNat) hpair
    rw [performMxe_step hregs hw] at hword
    refine ⟨u, hu, ⟨fun i j hi hj hfa _ => ?_, fun i j hi hj hfa hsc => ?_, ?_, fun t' i j hi hj ho => ?_⟩, hl, hm⟩
    · exact ((hword ..).trans (hin i j hi hj)).trans (mmaCell_int c a zero k _ _ i j hfa)
    · refine ((hword ..).trans (hin i j hi hj)).trans (mmaCell_float c a zero k _ _ i j hfa
        (F := fun _ p => unpack _ (decide (a.fa = 10)) p) (G := fun _ p => unpack _ (decide (a.fb = 10)) p) ?_ ?_) <;>
        rw [hsc, ← hten] <;> rfl
    · intro scale i j hi hj hfa hsc
      refine ((hword ..).trans (hin i j hi hj)).trans (mmaCell_float c a zero k _ _ i j hfa
        (F := fun l p => scaled (scale i a.ca.toNat l) (unpack _ (decide (a.fa = 10)) p))
        (G := fun l p => scaled (scale j a.cb.toNat l) (unpack _ (decide (a.fb = 10)) p)) ?_ ?_) <;>
        rw [hsc, ← hten] <;> rfl
    · exact (hword ..).trans (hout t' i j hi hj ho)
  · rw [performMxe_accrd hregs hw] at hword hspm
    refine ⟨u, hu, ⟨fun i j b hi hj hb => ?_, fun t i j hi hj => (hword ..).trans (accRead_word c _ a _ t hi hj)⟩, hl, hm⟩
    rw [hspm]
    exact (accRead_byte c _ a _ (hwide hty) hi hj hb).trans (by rw [accOut_word hty]; rfl)
  · rw [performMxe_accwr hregs hw] at hword
    refine ⟨u, hu, fun t i j hi hj => (hword ..).trans ?_, hl, hm⟩
    rw [accWrite_word c a _ t (hwide hty) hi hj, accIn_word hty]
    rfl
  · intro wd e
    rw [performMxe_accrd hregs hw] at hspm
    refine ⟨u, hu, fun i j b hi hj hb => ?_, hl, hm⟩
    intro v out
    rw [hspm]
    refine (accRead_byte c _ a _ (typeWidth_of_accType hty) hi hj hb).trans ?_
    by_cases hint : a.ty = 0 ∨ a.ty = 2
    · rw [accOut_int ((hzero _).mp hint)]
      refine Eq.trans ?_ (if_pos hint).symm
      exact (congrArg (fun w => BitVec.ofNat 8 (lowBits w _ / 256 ^ b)) (typeWidth_of_accType hty)).trans (lowBits_byte hb _)
    · exact (if_neg hint).symm
  · intro wd e
    rw [performMxe_accwr hregs hw] at hword
    refine ⟨u, hu, fun i j hi hj => (hword ..).trans ?_, hl, hm⟩
    rw [accWrite_word c a _ _ (typeWidth_of_accType hty) hi hj, if_pos rfl]
    by_cases hint : a.ty = 0 ∨ a.ty = 2
    · refine (accIn_int ((hzero _).mp hint) ?_).trans (if_pos hint).symm
      refine leNat_lt_two_pow ?_
      rw [Core.spmRead, tgets_length]
      exact (typeWidth_of_accType hty).ge
    · exact (if_neg hint).symm
  · obtain ⟨sc, tags, hload, hk⟩ := scaleLoad_leaves c a (spmAddr base 64 a.off.toNat) hcols
    rw [performMxe_scld hregs hw, hload] at hscale
    exact ⟨u, hu, fun l col hl hcol => (congrArg (tget 0 · _) hscale).trans (hk l col hl hcol), hl, hm⟩

end Sys2Proof.Machine
end

-- ==== Proofs: rounding to a format (O19) ====
section
/-! PROOF. The finite codes of a format stand in order for the multiples of its least subnormal that it holds (R119). Rounding takes the code at or
below the exact value, or the next one, as the mode says (R121, R124). -/
namespace Sys2Proof.Machine

variable {f : Fmt} {ty : Nat} {env : FEnv} {neg : Bool} {m : Nat} {e : Int}

/-! The magnitudes that the codes of a format stand for, in its least subnormals (R119). -/

/-- The magnitude of a code. -/
def Fmt.units (f : Fmt) (b : Nat) : Nat := if b / 2 ^ f.fw = 0 then b else (2 ^ f.fw + b % 2 ^ f.fw) * 2 ^ (b / 2 ^ f.fw - 1)

/-- A multiple of a power of two that the format holds, by its code. -/
theorem units_code {c n : Nat} (hn : n ≤ 2 ^ (f.fw + 1)) (hc : c = 0 ∨ 2 ^ f.fw ≤ n) : f.units (c * 2 ^ f.fw + n) = n * 2 ^ c := by
  have hpos : 0 < 2 ^ f.fw := by positivity
  rw [pow_succ] at hn
  unfold Fmt.units
  rcases Nat.lt_or_ge n (2 ^ f.fw) with hlt | hge
  · obtain rfl : c = 0 := hc.resolve_right (by omega)
    rw [Nat.zero_mul, Nat.zero_add, if_pos (Nat.div_eq_of_lt hlt), pow_zero, Nat.mul_one]
  · obtain ⟨r, rfl⟩ : ∃ r, n = 2 ^ f.fw + r := ⟨n - 2 ^ f.fw, by omega⟩
    rw [← Nat.add_assoc, ← Nat.succ_mul]
    rcases Nat.lt_or_ge r (2 ^ f.fw) with hr | hr
    · have hdiv : ((c + 1) * 2 ^ f.fw + r) / 2 ^ f.fw = c + 1 := by
        rw [Nat.add_comm, Nat.add_mul_div_right _ _ hpos, Nat.div_eq_of_lt hr, Nat.zero_add]
      rw [hdiv, if_neg (Nat.succ_ne_zero c), Nat.add_comm _ r, Nat.add_mul_mod_self_right, Nat.mod_eq_of_lt hr, Nat.add_sub_cancel]
    · obtain rfl : r = 2 ^ f.fw := by omega
      rw [← Nat.succ_mul, Nat.mul_div_cancel _ hpos, if_neg (Nat.succ_ne_zero _), Nat.mul_mod_left, Nat.succ_sub_one, Nat.add_zero,
        pow_succ]
      ring

theorem units_strictMono (f : Fmt) : StrictMono f.units := by
  refine strictMono_nat_of_lt_succ fun b => ?_
  have hpos : 0 < 2 ^ f.fw := by positivity
  have hb := Nat.div_add_mod' b (2 ^ f.fw)
  have hr := Nat.mod_lt b hpos
  cases hq : b / 2 ^ f.fw with
  | zero =>
    rw [hq, Nat.zero_mul, Nat.zero_add] at hb
    have low (n : Nat) (hn : n ≤ 2 ^ f.fw) : f.units n = n := by
      simpa using units_code (f := f) (c := 0) (hn.trans (Nat.pow_le_pow_right (by decide) (Nat.le_succ _))) (.inl rfl)
    rw [low b (by omega), low (b + 1) (by omega)]
    exact Nat.lt_succ_self b
  | succ c =>
    rw [hq, Nat.succ_mul] at hb
    have high (n : Nat) (h1 : 2 ^ f.fw ≤ n) (h2 : n ≤ 2 ^ (f.fw + 1)) := units_code (f := f) (c := c) h2 (.inr h1)
    have hsucc : 2 ^ (f.fw + 1) = 2 ^ f.fw * 2 := pow_succ ..
    rw [show b = c * 2 ^ f.fw + (2 ^ f.fw + b % 2 ^ f.fw) by omega, Nat.add_assoc (c * _), high _ (by omega) (by omega),
      high _ (by omega) (by omega)]
    exact Nat.mul_lt_mul_of_pos_right (Nat.lt_succ_self _) (by positivity)

/-! Rounding to a multiple of a power of two (R124). -/

/-- Whether a magnitude is rounded up from n multiples of G, when R is left of it. -/
def roundsAway (rm : Rnd) (neg : Bool) (n R G : Nat) : Bool :=
  match rm with
  | .rne => G < 2 * R || (2 * R = G && n % 2 = 1)
  | .rz => false
  | .ru => !neg && R ≠ 0
  | .rd => neg && R ≠ 0

/-- Rounding, by the magnitude and the multiple counted in one power of two. -/
theorem roundAt_eq {q p : Int} {X G : Nat} (rm : Rnd) (he : p ≤ e) (hq : p ≤ q) (hX : X = m * 2 ^ (e - p).toNat)
    (hG : G = 2 ^ (q - p).toNat) :
    roundAt rm neg m e q false = X / G + if roundsAway rm neg (X / G) (X % G) G then 1 else 0 := by
  have hpos : 0 < G := by
    rw [hG]
    positivity
  unfold roundAt
  split
  · next h =>
    have hX : X = m * 2 ^ (e - q).toNat * G := by
      rw [hX, hG, Nat.mul_assoc, ← pow_add, show (e - q).toNat + (q - p).toNat = (e - p).toNat by omega]
    have hdiv : X / G = m * 2 ^ (e - q).toNat := by rw [hX, Nat.mul_div_cancel _ hpos]
    have hmod : X % G = 0 := by rw [hX, Nat.mul_mod_left]
    rw [hdiv, hmod]
    cases rm
    case rne => simp [roundsUp, roundsAway]; omega
    all_goals simp [roundsUp, roundsAway]
  · next h =>
    obtain ⟨k, hk⟩ : ∃ k, (q - e).toNat = k + 1 := ⟨(q - e).toNat - 1, by omega⟩
    have hGk : G = 2 ^ (k + 1) * 2 ^ (e - p).toNat := by
      rw [hG, ← pow_add, show k + 1 + (e - p).toNat = (q - p).toNat by omega]
    have hs : 0 < 2 ^ (e - p).toNat := by positivity
    have hdiv : X / G = m / 2 ^ (k + 1) := by rw [hX, hGk, Nat.mul_div_mul_right _ _ hs]
    have hmod : X % G = m % 2 ^ (k + 1) * 2 ^ (e - p).toNat := by rw [hX, hGk, Nat.mul_mod_mul_right]
    rw [hk, hdiv, hmod, hGk]
    dsimp only
    rw [Nat.add_sub_cancel]
    generalize m / 2 ^ (k + 1) = n
    generalize m % 2 ^ (k + 1) = r
    have h2 : 2 * (r * 2 ^ (e - p).toNat) = 2 * r * 2 ^ (e - p).toNat := by ring
    have hup : roundsUp rm neg n r (2 ^ k) false = roundsAway rm neg n (r * 2 ^ (e - p).toNat) (2 ^ (k + 1) * 2 ^ (e - p).toNat) := by
      cases rm <;> simp [roundsUp, roundsAway, h2, Nat.mul_lt_mul_right hs, Nat.mul_left_inj hs.ne', pow_succ']
    rw [hup]

/-! A finite value rounded to a format (R124). -/

/-- The formats of codes 8 to 12: their largest finite code lies below the codes of the last exponent field's end. -/
theorem fmtOf_top (h8 : 8 ≤ ty) (h12 : ty ≤ 12) :
    0 < (fmtOf ty).fw ∧ 0 < (fmtOf ty).top ∧ (fmtOf ty).top < 2 ^ (fmtOf ty).ew * 2 ^ (fmtOf ty).fw := by
  interval_cases ty <;> decide

/-- The exponent of the multiples to which a value is rounded. -/
def roundExp (f : Fmt) (m : Nat) (e : Int) : Int := max ((m.log2 : Int) + e - f.fw) f.qmin

/-- Far below the least subnormal, the same rounding decides. -/
theorem roundAt_tiny {q : Int} (rm : Rnd) (hm : m ≠ 0) (h : (m.log2 : Int) + e < q - 2) :
    roundAt rm neg m e q false = roundAt rm neg 1 0 3 true ∧ roundAt rm neg m e q false ≤ 1 := by
  obtain ⟨k, hk⟩ : ∃ k, (q - e).toNat = k + 3 := ⟨(q - e).toNat - 3, by omega⟩
  have hlt : m < 2 ^ (k + 1) := by
    calc m < 2 ^ (m.log2 + 1) := Nat.lt_log2_self
      _ ≤ 2 ^ (k + 1) := Nat.pow_le_pow_right (by decide) (by omega)
  have h3 : 2 ^ (k + 3) = 4 * 2 ^ (k + 1) := by ring
  have h2 : 2 ^ (k + 2) = 2 * 2 ^ (k + 1) := by ring
  have hroundAt : roundAt rm neg m e q false = if roundsUp rm neg 0 m (2 ^ (k + 2)) false then 1 else 0 := by
    rw [roundAt, if_neg (by omega), hk]
    dsimp only
    rw [Nat.div_eq_of_lt (by omega), Nat.mod_eq_of_lt (by omega), Nat.zero_add]
    rfl
  have hup : roundsUp rm neg 0 m (2 ^ (k + 2)) false = roundsUp rm neg 0 1 4 true := by
    cases rm with
    | rne =>
      simp only [roundsUp]
      rw [decide_eq_false (by omega), decide_eq_false (by omega)]
      rfl
    | rz => rfl
    | ru => simp [roundsUp, hm]
    | rd => simp [roundsUp, hm]
  have htiny : roundAt rm neg 1 0 3 true = if roundsUp rm neg 0 1 4 true then 1 else 0 := Nat.zero_add _
  rw [hroundAt, hup, htiny]
  exact ⟨rfl, by split <;> omega⟩

/-- The rounded magnitude as a code, where it does not overflow. -/
theorem roundFin_eq (h8 : 8 ≤ ty) (h12 : ty ≤ 12) (hm : m ≠ 0) : roundFin ty env neg m e false =
    if (fmtOf ty).top < (roundExp (fmtOf ty) m e - (fmtOf ty).qmin).toNat * 2 ^ (fmtOf ty).fw +
        roundAt env.rm neg m e (roundExp (fmtOf ty) m e) false then overflow ty env neg
    else signBit ty neg + ((roundExp (fmtOf ty) m e - (fmtOf ty).qmin).toNat * 2 ^ (fmtOf ty).fw +
      roundAt env.rm neg m e (roundExp (fmtOf ty) m e) false) := by
  obtain ⟨hfw, htop, hlast⟩ := fmtOf_top h8 h12
  unfold roundFin
  dsimp only
  rw [if_neg (by simp [hm])]
  generalize hf : fmtOf ty = f at *
  simp only [hm, decide_false, Bool.false_or, decide_eq_true_eq]
  split
  · next hlow =>
    have hq : roundExp f m e = f.qmin := max_eq_right (by omega)
    obtain ⟨hsame, hle⟩ := roundAt_tiny (neg := neg) env.rm hm hlow
    rw [hq, Int.sub_self, Int.toNat_zero, Nat.zero_mul, Nat.zero_add, if_neg (by omega), hsame]
  · split
    · next hhigh =>
      refine (if_pos ?_).symm
      have hexp : 2 ^ f.ew ≤ (roundExp f m e - f.qmin).toNat := by
        unfold roundExp
        have : ((2 ^ f.ew : Nat) : Int) = 2 ^ f.ew := by push_cast; rfl
        omega
      calc f.top < 2 ^ f.ew * 2 ^ f.fw := hlast
        _ ≤ (roundExp f m e - f.qmin).toNat * 2 ^ f.fw := Nat.mul_le_mul_right _ hexp
        _ ≤ _ := Nat.le_add_right _ _
    · rfl

/-- The codes around an exact value: the one at or below it, with the magnitudes of both in units of 2^p. -/
theorem codes_around {p : Int} {X : Nat} (f : Fmt) (hm : m ≠ 0) (he : p ≤ e) (hp : p ≤ f.qmin) (hX : X = m * 2 ^ (e - p).toNat) :
    let q := roundExp f m e
    let G := 2 ^ (q - p).toNat
    let b := (q - f.qmin).toNat * 2 ^ f.fw + X / G
    f.units b * 2 ^ (f.qmin - p).toNat = X / G * G ∧ f.units (b + 1) * 2 ^ (f.qmin - p).toNat = (X / G + 1) * G := by
  intro q G b
  have hlog : 2 ^ m.log2 ≤ m := Nat.log2_self_le hm
  have hlog' : m < 2 ^ (m.log2 + 1) := Nat.lt_log2_self
  have hG : 0 < G := by positivity
  have hqe : q = f.qmin ∨ q = (m.log2 : Int) + e - f.fw := (max_choice ..).symm
  have hqmin : f.qmin ≤ q := le_max_right ..
  have hqtop : (m.log2 : Int) + e - f.fw ≤ q := le_max_left ..
  have hhigh : X / G < 2 ^ (f.fw + 1) := by
    rw [Nat.div_lt_iff_lt_mul hG, hX, ← pow_add]
    calc m * 2 ^ (e - p).toNat < 2 ^ (m.log2 + 1) * 2 ^ (e - p).toNat := Nat.mul_lt_mul_of_pos_right hlog' (by positivity)
      _ = 2 ^ (m.log2 + 1 + (e - p).toNat) := (pow_add ..).symm
      _ ≤ 2 ^ (f.fw + 1 + (q - p).toNat) := Nat.pow_le_pow_right (by decide) (by omega)
  have hlow : (q - f.qmin).toNat = 0 ∨ 2 ^ f.fw ≤ X / G := by
    refine hqe.imp (fun h => by omega) fun h => ?_
    rw [Nat.le_div_iff_mul_le hG, hX, ← pow_add]
    calc 2 ^ (f.fw + (q - p).toNat) ≤ 2 ^ (m.log2 + (e - p).toNat) := Nat.pow_le_pow_right (by decide) (by omega)
      _ = 2 ^ m.log2 * 2 ^ (e - p).toNat := pow_add ..
      _ ≤ m * 2 ^ (e - p).toNat := Nat.mul_le_mul_right _ hlog
  have hscale : 2 ^ (q - f.qmin).toNat * 2 ^ (f.qmin - p).toNat = G := by
    rw [← pow_add, show (q - f.qmin).toNat + (f.qmin - p).toNat = (q - p).toNat by omega]
  refine ⟨?_, ?_⟩
  · rw [units_code hhigh.le hlow, Nat.mul_assoc, hscale]
  · rw [show b + 1 = (q - f.qmin).toNat * 2 ^ f.fw + (X / G + 1) from Nat.add_assoc .., units_code hhigh (hlow.imp_right (by omega)),
      Nat.mul_assoc, hscale]

theorem roundsAway_parity (rm : Rnd) (R G : Nat) {n n' : Nat} (h : n % 2 = n' % 2) :
    roundsAway rm neg n R G = roundsAway rm neg n' R G := by
  cases rm <;> simp only [roundsAway, h]

/-- A finite value rounded: from the code at or below it, up or not, unless that overflows. -/
theorem roundTo_code {X : Nat} {W : Nat → Nat} (h8 : 8 ≤ ty) (h12 : ty ≤ 12) (hftz : env.ftz = false) (hm : m ≠ 0)
    (hX : X = m * 2 ^ (e - (fmtOf ty).qmin).toNat) (hW : ∀ b, W b = (fmtOf ty).units b * 2 ^ ((fmtOf ty).qmin - e).toNat) :
    ∃ b, W b ≤ X ∧ X < W (b + 1) ∧ roundTo ty env neg m e false =
      if (fmtOf ty).top < b + (if roundsAway env.rm neg b (X - W b) (W (b + 1) - W b) then 1 else 0) then overflow ty env neg
      else signBit ty neg + (b + if roundsAway env.rm neg b (X - W b) (W (b + 1) - W b) then 1 else 0) := by
  obtain ⟨hfw, -, -⟩ := fmtOf_top h8 h12
  have hround : roundTo ty env neg m e false = roundFin ty env neg m e false := by
    simp only [roundTo, flushOut, hftz, Bool.false_and, Bool.false_eq_true, if_false]
  rw [hround, roundFin_eq h8 h12 hm]
  generalize fmtOf ty = f at *
  obtain ⟨p, he, hp, hXp, hWp⟩ : ∃ p : Int, p ≤ e ∧ p ≤ f.qmin ∧ X = m * 2 ^ (e - p).toNat ∧
      ∀ b, W b = f.units b * 2 ^ (f.qmin - p).toNat := by
    refine ⟨min e f.qmin, min_le_left .., min_le_right .., ?_, fun b => ?_⟩
    · rw [hX, show (e - min e f.qmin).toNat = (e - f.qmin).toNat by omega]
    · rw [hW, show (f.qmin - min e f.qmin).toNat = (f.qmin - e).toNat by omega]
  obtain ⟨hb, hb1⟩ := codes_around f hm he hp hXp
  have hq : p ≤ roundExp f m e := hp.trans (le_max_right ..)
  rw [← hWp] at hb hb1
  rw [roundAt_eq env.rm he hq hXp rfl]
  have hG : 0 < 2 ^ (roundExp f m e - p).toNat := by positivity
  generalize 2 ^ (roundExp f m e - p).toNat = G at *
  have hdiv := Nat.div_add_mod' X G
  have hmod := Nat.mod_lt X hG
  refine ⟨(roundExp f m e - f.qmin).toNat * 2 ^ f.fw + X / G, by omega, by rw [hb1, Nat.succ_mul]; omega, ?_⟩
  have hR : X - X / G * G = X % G := by omega
  have hgap : (X / G + 1) * G - X / G * G = G := by rw [Nat.succ_mul, Nat.add_sub_cancel_left]
  have hparity : ((roundExp f m e - f.qmin).toNat * 2 ^ f.fw + X / G) % 2 = X / G % 2 := by
    obtain ⟨k, hk⟩ : ∃ k, f.fw = k + 1 := ⟨f.fw - 1, by omega⟩
    rw [hk, pow_succ, ← Nat.mul_assoc, Nat.add_comm, Nat.add_mul_mod_self_right]
  rw [hb, hb1, hR, hgap, roundsAway_parity env.rm _ _ hparity, Nat.add_assoc]

/-! The result among the magnitudes of the codes (R124). -/

/-- The code at or below a value is the greatest such. -/
theorem below_greatest {W : Nat → Nat} {b c X : Nat} (hW : StrictMono W) (hb1 : X < W (b + 1)) (h : W c ≤ X) : c ≤ b :=
  Nat.le_of_lt_succ (hW.lt_iff_lt.mp (h.trans_lt hb1))

theorem le_above {W : Nat → Nat} {b X : Nat} (hb1 : X < W (b + 1)) : X ≤ W (b + if X - W b ≠ 0 then 1 else 0) := by
  split
  · exact hb1.le
  · exact show X ≤ W b by omega

section
variable {W : Nat → Nat} {b X top : Nat} (hW : StrictMono W) (hb : W b ≤ X)
include hW hb

theorem below_le_top (h : X ≤ W top) : b ≤ top := hW.le_iff_le.mp (hb.trans h)

/-- Rounding up gives the least code at or above a value. -/
theorem above_least {c : Nat} (h : X ≤ W c) : b + (if X - W b ≠ 0 then 1 else 0) ≤ c := by
  split
  · exact hW.lt_iff_lt.mp (by omega)
  · exact hW.le_iff_le.mp (show W b ≤ W c by omega)

variable (hb1 : X < W (b + 1))
include hb1

/-- A value within the range is not rounded past its end. -/
theorem rounded_le_top (h : X ≤ W top) (rm : Rnd) (neg : Bool) :
    b + (if roundsAway rm neg b (X - W b) (W (b + 1) - W b) then 1 else 0) ≤ top := by
  rcases Nat.eq_or_lt_of_le hb with he | hlt
  · have hgap : W (b + 1) - W b ≠ 0 := by omega
    have hexact : roundsAway rm neg b (X - W b) (W (b + 1) - W b) = false := by
      rw [← he, Nat.sub_self]
      cases rm <;> simp [roundsAway, hgap.symm]
    rw [hexact]
    exact below_le_top hW hb h
  · have hnext : b + 1 ≤ top := hW.lt_iff_lt.mp (hlt.trans_le h)
    split <;> omega

/-- Rounding to nearest gives the code nearest to a value, and of two nearest ones the even one. -/
theorem nearest_code (neg : Bool) {r : Nat} (hr : r = b + if roundsAway .rne neg b (X - W b) (W (b + 1) - W b) then 1 else 0) (c : Nat) :
    ((W r : Int) - X).natAbs ≤ ((W c : Int) - X).natAbs ∧
      (((W r : Int) - X).natAbs = ((W c : Int) - X).natAbs → c = r ∨ r % 2 = 0) := by
  have hlt : W b < W (b + 1) := hb.trans_lt hb1
  have hc : c = b ∨ c = b + 1 ∨ W c < W b ∨ W (b + 1) < W c := by
    rcases Nat.lt_trichotomy c b with h | h | h
    · exact .inr (.inr (.inl (hW h)))
    · exact .inl h
    · exact (Nat.eq_or_lt_of_le h).elim (fun e => .inr (.inl e.symm)) fun h => .inr (.inr (.inr (hW h)))
  by_cases hup : roundsAway .rne neg b (X - W b) (W (b + 1) - W b) = true
  · rw [if_pos hup] at hr
    simp only [roundsAway, Bool.or_eq_true, Bool.and_eq_true, decide_eq_true_eq] at hup
    subst hr
    rcases hc with rfl | rfl | h | h <;> omega
  · rw [if_neg hup] at hr
    simp only [roundsAway, Bool.or_eq_true, Bool.and_eq_true, decide_eq_true_eq] at hup
    subst hr
    rcases hc with rfl | rfl | h | h <;> omega

end

/-- A mode that rounds away from zero for a sign. -/
def roundsUpward (rm : Rnd) (neg : Bool) : Prop := (rm = .ru ∧ neg = false) ∨ (rm = .rd ∧ neg = true)

theorem roundsAway_upward {rm : Rnd} (h : roundsUpward rm neg) (n R G : Nat) : roundsAway rm neg n R G = decide (R ≠ 0) := by
  rcases h with ⟨rfl, rfl⟩ | ⟨rfl, rfl⟩ <;> rfl

theorem roundsAway_downward {rm : Rnd} (hne : rm ≠ .rne) (h : ¬ roundsUpward rm neg) (n R G : Nat) : roundsAway rm neg n R G = false := by
  unfold roundsUpward at h
  cases rm with
  | rne => exact absurd rfl hne
  | rz => rfl
  | ru => simp_all [roundsAway]
  | rd => simp_all [roundsAway]

/-- Rounding toward zero never passes the largest finite value (R124). -/
theorem overflow_downward (hne : env.rm ≠ .rne) (h : ¬ roundsUpward env.rm neg) : overflow ty env neg = signBit ty neg + (fmtOf ty).top := by
  unfold roundsUpward at h
  unfold overflow
  obtain ⟨rm, ftz, canon, sat⟩ := env
  cases rm with
  | rne => exact absurd rfl hne
  | rz => rfl
  | ru => simp_all
  | rd => simp_all

/-! A code as a value (R119). -/

/-- No code up to the largest finite one is that of an infinity or a NaN. -/
theorem code_not_special (h8 : 8 ≤ ty) (h12 : ty ≤ 12) {b : Nat} (hb : b ≤ (fmtOf ty).top) :
    ¬ (b / 2 ^ (fmtOf ty).fw = 2 ^ (fmtOf ty).ew - 1 ∧ (ty ≠ 11 ∨ b % 2 ^ (fmtOf ty).fw = 7)) := by
  interval_cases ty <;> simp only [fmtOf] at hb ⊢ <;> omega

theorem bits_signed_code {b : Nat} (hb : b < 2 ^ f.ew * 2 ^ f.fw) (s : Nat) (hs : s < 2) :
    bits (s * 2 ^ (f.ew + f.fw) + b) (f.ew + f.fw) 1 = s ∧ bits (s * 2 ^ (f.ew + f.fw) + b) f.fw f.ew = b / 2 ^ f.fw ∧
    bits (s * 2 ^ (f.ew + f.fw) + b) 0 f.fw = b % 2 ^ f.fw := by
  have hw : 2 ^ (f.ew + f.fw) = 2 ^ f.ew * 2 ^ f.fw := pow_add ..
  have hpos : 0 < 2 ^ f.fw := by positivity
  unfold bits
  refine ⟨?_, ?_, ?_⟩
  · rw [Nat.add_comm, Nat.add_mul_div_right _ _ (by positivity), Nat.div_eq_of_lt (hw ▸ hb), Nat.zero_add, pow_one,
      Nat.mod_eq_of_lt hs]
  · rw [hw, ← Nat.mul_assoc, Nat.add_comm, Nat.add_mul_div_right _ _ hpos, Nat.add_mul_mod_self_right,
      Nat.mod_eq_of_lt ((Nat.div_lt_iff_lt_mul hpos).mpr hb)]
  · rw [hw, ← Nat.mul_assoc, pow_zero, Nat.div_one, Nat.add_comm, Nat.add_mul_mod_self_right]

theorem signBit_eq (ty : Nat) (neg : Bool) : signBit ty neg = (if neg then 1 else 0) * 2 ^ ((fmtOf ty).ew + (fmtOf ty).fw) := by
  have hw : (fmtOf ty).width - 1 = (fmtOf ty).ew + (fmtOf ty).fw := by
    unfold Fmt.width
    omega
  unfold signBit
  rw [hw]
  cases neg <;> simp

/-- A finite code with its sign stands for its magnitude. -/
theorem unpack_code (h8 : 8 ≤ ty) (h12 : ty ≤ 12) (neg : Bool) {b : Nat} (hb : b ≤ (fmtOf ty).top) :
    ∃ M E, unpack ty false (signBit ty neg + b) = .fin neg M E ∧ (fmtOf ty).qmin ≤ E ∧
      M * 2 ^ (E - (fmtOf ty).qmin).toNat = (fmtOf ty).units b := by
  obtain ⟨-, -, hlast⟩ := fmtOf_top h8 h12
  have hspecial := code_not_special h8 h12 hb
  obtain ⟨hsign, hexp, hfrac⟩ := bits_signed_code (hb.trans_lt hlast) (if neg then 1 else 0) (by split <;> decide)
  have hneg : decide ((if neg then 1 else 0) = 1) = neg := by cases neg <;> rfl
  unfold unpack
  dsimp only
  rw [signBit_eq, hsign, hexp, hfrac, hneg, if_neg, Bool.false_and]
  · unfold Fmt.units
    split
    · next h0 =>
      refine ⟨_, _, rfl, le_refl _, ?_⟩
      rw [Int.sub_self, Int.toNat_zero, pow_zero, Nat.mul_one, Nat.mod_eq_of_lt]
      exact (Nat.div_eq_zero_iff_lt (by positivity)).mp h0
    · next h0 =>
      refine ⟨_, _, rfl, by unfold Fmt.qmin; omega, ?_⟩
      rw [Nat.add_comm, show ((b / 2 ^ (fmtOf ty).fw : Nat) - (fmtOf ty).bias - (fmtOf ty).fw - (fmtOf ty).qmin : Int).toNat =
        b / 2 ^ (fmtOf ty).fw - 1 by unfold Fmt.qmin; omega]
  · simpa [show ty ≠ 13 by omega] using hspecial

/-! Products and sums of finite values (R120). -/

theorem fmul_fin (ty : Nat) (env : FEnv) (s t : Bool) (m n : Nat) (e g : Int) :
    fmul ty env (.fin s m e) (.fin t n g) = roundTo ty env (s ≠ t) (m * n) (e + g) false := rfl

theorem fadd_fin (ty : Nat) (env : FEnv) (xs : List FVal) (s t : Bool) (m n : Nat) (e : Int)
    (h : (if s then -(m : Int) else m) + (if t then -(n : Int) else n) ≠ 0) : fadd ty env xs (.fin s m e) (.fin t n e) =
      roundTo ty env (decide ((if s then -(m : Int) else m) + (if t then -(n : Int) else n) < 0))
        ((if s then -(m : Int) else m) + if t then -(n : Int) else n).natAbs e false := by
  have hexp (neg : Bool) (k : Nat) : atExp neg k e e = if neg then -(k : Int) else k := by
    rw [atExp, Int.sub_self, Int.toNat_zero, pow_zero, Nat.mul_one]
  rw [fadd]
  simp only [Int.min_self, hexp]
  rw [roundInt, if_neg h]

end Sys2Proof.Machine
end

-- ==== Proofs: vector conversions (O19) ====
section
/-! PROOF. Stochastic rounding and its counter (R128, R129), and each element with the container of its block of 32 (R130, R223-R226). -/
namespace Sys2Proof.Machine

variable {s u : State} {n : Nat} {st : Strand} {w : VWord}

theorem State.RunsAs.advanceSr {us : Strand} (h : u.RunsAs n us) (k : Nat) :
    (u.advanceSr k).strandAt n = some { us with srctr := BitVec.ofNat 64 ((us.srctr.toNat + k) % 2 ^ 32) } := by
  have hstrands : (u.advanceSr k).strandAt n =
      (u.modMe fun st => { st with srctr := BitVec.ofNat 64 ((st.srctr.toNat + k) % 2 ^ 32) }).strandAt n := rfl
  rw [hstrands, h.modMe, State.strandAt_setStrand, if_pos rfl]

/-- Outside a group, or as its first word, a word counts from its strand's SRCTR. -/
theorem State.acts.srBase (h : s.acts n st) : s.srBase = st.srctr.toNat := by
  have hme := h.runsAs.me
  obtain ⟨-, -, hview | hview⟩ := h
  · simp only [State.srBase, hview, hme]
  · simp only [State.srBase, hview, Nat.add_zero]

theorem vcvt_exact (h : s.usesSr w = false) : exec (.vcvt w) s = .next (s.compute 0x60 w [] fun x =>
    (x.elems (typeWidth (w.s3.toNat % 16)) 0).map (convElem w.ty.toNat (w.s3.toNat % 16) (s.fenv w))) :=
  congrArg Host.Outcome.next (if_neg (by simp [h]))

/-- A conversion that rounds stochastically takes one count for each element of its result (R128, R129). -/
theorem vcvt_stochastic {x : VIn} {places : List Nat} (hsr : s.usesSr w = true) (h : VReady s s u 0x60 w [] [] x places) :
    let r := (x.elems 32 0).mapIdx fun i a => srBf16 s.srBase s.readStrand.srkey.toNat a i (s.fenv w).ftz (s.fenv w).sat
    exec (.vcvt w) s = .next (((u.advanceSr r.length).writeVec w 0x60 s.nextTok places x r x.tag).issued) := by
  intro r
  refine congrArg Host.Outcome.next ((if_pos hsr).trans ((vword_ready (pre := noPre) h rfl _).trans ?_))
  rw [Bool.or_false]

theorem intMin_le_intMax (sgn : Bool) (wd : Nat) : intMin sgn wd ≤ intMax sgn wd := by
  have h1 : (0 : Int) < 2 ^ (wd - 1) := by positivity
  have h2 : (0 : Int) < 2 ^ wd := by positivity
  cases sgn <;> simp only [intMin, intMax, if_true, Bool.false_eq_true, if_false] <;> omega

/-- An integer kept to the width of a type, or clamped to its range first (R212). -/
theorem reduceInt_satBit (w : VWord) (ty : Nat) (v : Int) : reduceInt ty (satBit w) v = ((if w.mode.toNat % 2 = 1 then
    max (intMin (isSigned ty) (typeWidth ty)) (min (intMax (isSigned ty) (typeWidth ty)) v) else v) % 2 ^ typeWidth ty).toNat := by
  rw [reduceInt, clamp_eq (intMin_le_intMax ..)]
  simp only [satBit, decide_eq_true_eq]
  rfl

/-- Every element beside the container of its block (R130). -/
theorem withScale_getElem? {cs xs : List Nat} {k a c : Nat} (ha : xs[k]? = some a) (hc : cs[k / 32]? = some c) :
    (withScale cs xs)[k]? = some (a, c) := by
  have hrep : (cs.map fun c => List.replicate 32 c).flatten[k]? = some c := by
    rw [← Nat.div_add_mod k 32, flatten_getElem? _ (fun l hl => ?_) (Nat.mod_lt k (by decide)), List.getElem?_map, hc]
    · exact List.getElem?_replicate_of_lt (Nat.mod_lt k (by decide))
    · obtain ⟨_, -, rfl⟩ := List.mem_map.mp hl
      exact List.length_replicate
  rw [withScale, List.getElem?_zip_eq_some]
  exact ⟨ha, hrep⟩

theorem blocks32_getElem? (n b : Nat) (xs : List FVal) (hb : b < n) : (blocks32 n xs)[b]? = some ((xs.drop (32 * b)).take 32) := by
  induction n generalizing b xs with
  | zero => exact absurd hb (Nat.not_lt_zero b)
  | succ n ih =>
    cases b with
    | zero => rfl
    | succ b =>
      rw [blocks32, List.getElem?_cons_succ, ih _ _ (Nat.lt_of_succ_lt_succ hb), List.drop_drop]
      exact congrArg (fun k => some ((xs.drop k).take 32)) (by omega)

/-- What the lanes of a word that maps its elements hold. -/
theorem map_lane {xs : List Nat} {f : Nat → Nat} {k a : Nat} (h : xs[k]? = some a) : (xs.map f)[k]? = some (f a) :=
  List.getElem?_map.trans (congrArg (Option.map f) h)

theorem scaled_lane {cs xs : List Nat} {f : Nat × Nat → Nat} {k a c : Nat} (ha : xs[k]? = some a) (hc : cs[k / 32]? = some c) :
    ((withScale cs xs).map f)[k]? = some (f (a, c)) :=
  List.getElem?_map.trans (congrArg (Option.map f) (withScale_getElem? ha hc))

/-- Settles O19: rounding by the codes around the exact value, then each word by its elements. -/
theorem vectorConversions : Obligations.VectorConversions := by
  unfold Obligations.VectorConversions
  refine ⟨?_, ?_⟩
  · intro ty env neg m e h8 h12 hftz hm f U W X off gives up
    have hW : StrictMono W := fun a b h => Nat.mul_lt_mul_of_pos_right (units_strictMono f h) (by positivity)
    obtain ⟨b, hb, hb1, hround⟩ := roundTo_code (neg := neg) (X := X) (W := W) h8 h12 hftz hm rfl fun _ => rfl
    have givesCode {r : Nat} (hr : r = b + if roundsAway env.rm neg b (X - W b) (W (b + 1) - W b) then 1 else 0) (hle : r ≤ f.top) :
        gives r := ⟨hle, by rw [hround, ← hr, if_neg (Nat.not_lt.mpr hle)]⟩
    refine ⟨fun b hb => unpack_code h8 h12 neg hb, fun hX hrm => ?_, fun hX hne hup => ?_, fun hX hup => ?_, fun hlt hne hup => ?_,
      fun t n g => fmul_fin .., fun xs t n => fadd_fin ty env xs neg t m n e⟩
    · exact ⟨_, givesCode rfl (rounded_le_top hW hb hb1 hX env.rm neg), fun c _ => nearest_code hW hb hb1 neg (by rw [hrm]) c⟩
    · exact ⟨b, givesCode (by rw [roundsAway_downward hne hup]; rfl) (below_le_top hW hb hX), hb, fun c _ => below_greatest hW hb1⟩
    · have hr : b + (if X - W b ≠ 0 then 1 else 0) = b + if roundsAway env.rm neg b (X - W b) (W (b + 1) - W b) then 1 else 0 := by
        simp only [roundsAway_upward hup, decide_eq_true_eq]
      exact ⟨_, givesCode hr (above_least hW hb hX), le_above hb1, fun c _ => above_least hW hb⟩
    · have hle : f.top ≤ b := below_greatest hW hb1 hlt.le
      rw [roundsAway_downward hne hup, if_neg Bool.false_ne_true, Nat.add_zero, overflow_downward hne hup] at hround
      refine ⟨le_refl _, hround.trans ?_⟩
      split
      · rfl
      · next hin => exact congrArg (signBit ty neg + ·) (Nat.le_antisymm (Nat.not_lt.mp hin) hle)
  · intro s u n st w x places hs ty src env fit writes lanes scaledBy
    have computes {i : Instr} {opc : Nat} {f : VIn → List Nat} {p : List Nat → Prop}
        (hi : exec i s = .next (s.compute opc w [] f)) (hp : p (f x)) : writes i opc p :=
      fun h => ⟨_, hi.trans (congrArg _ (compute_writes h f)), hp⟩
    refine ⟨fun k us hcur hus => State.RunsAs.advanceSr ⟨hcur, hus⟩ k, fun hsr => computes (vcvt_exact hsr) fun k a ha => map_lane ha,
      fun hsr h => ?_, computes rfl fun k a ha => map_lane ha, computes rfl fun k a ha => ?_, computes rfl ⟨_, rfl, fun b hb => ?_⟩,
      computes rfl fun k a c => scaled_lane, computes rfl fun k a c => scaled_lane⟩
    · refine ⟨_, vcvt_stochastic hsr h, fun k a ha => ?_⟩
      rw [List.getElem?_mapIdx, ha, hs.srBase, hs.readStrand, Option.map_some]
    · exact (map_lane ha).trans (congrArg some (reduceInt_satBit ..))
    · rw [List.getElem?_map, blocks32_getElem? _ _ _ (by rwa [List.length_map]), Option.map_some, ← List.map_drop,
        ← List.map_take]
      rfl

end Sys2Proof.Machine
end

-- ==== Proofs: fields and units of words (O57, O58) ====
section
/-! PROOF. Fields of numbers (R12): what a field of a sum of fields is, and a number as the sum of its fields. Then the units that a
word is made of (R135). -/
namespace Sys2Proof

/-! Fields. -/

theorem bits_lt (x lo n : Nat) : bits x lo n < 2 ^ n := Nat.mod_lt _ (by positivity)

/-- A field is read whatever stands above it. -/
theorem bits_add_above {lo n k : Nat} (x y : Nat) (h : lo + n ≤ k) : bits (x + y * 2 ^ k) lo n = bits x lo n := by
  obtain ⟨c, rfl⟩ := Nat.exists_eq_add_of_le h
  rw [bits, bits, pow_add, pow_add, show x + y * (2 ^ lo * 2 ^ n * 2 ^ c) = x + 2 ^ lo * (2 ^ n * (y * 2 ^ c)) by ring,
    Nat.add_mul_div_left _ _ (by positivity), Nat.add_mul_mod_self_left]

/-- A field is read above what is less than its place. -/
theorem bits_add_at {lo n x y : Nat} (hx : x < 2 ^ lo) (hy : y < 2 ^ n) : bits (x + y * 2 ^ lo) lo n = y := by
  rw [bits, Nat.add_mul_div_right _ _ (by positivity), Nat.div_eq_of_lt hx, Nat.zero_add, Nat.mod_eq_of_lt hy]

/-- Fields of what stands above a place. -/
theorem bits_add_below {lo n k x : Nat} (y : Nat) (hx : x < 2 ^ k) (h : k ≤ lo) : bits (x + y * 2 ^ k) lo n = bits y (lo - k) n := by
  obtain ⟨c, rfl⟩ := Nat.exists_eq_add_of_le h
  rw [bits, bits, pow_add, ← Nat.div_div_eq_div_mul, Nat.add_mul_div_right _ _ (by positivity), Nat.div_eq_of_lt hx, Nat.zero_add,
    Nat.add_sub_cancel_left]

/-- Above a number every field is 0. -/
theorem bits_of_lt {lo n x : Nat} (hx : x < 2 ^ lo) : bits x lo n = 0 := by
  rw [bits, Nat.div_eq_of_lt hx, Nat.zero_mod]

theorem bits_toNat_above {n lo m : Nat} (x : BitVec n) (h : n ≤ lo) : bits x.toNat lo m = 0 :=
  bits_of_lt (x.isLt.trans_le (Nat.pow_le_pow_right (by decide) h))

theorem bits_toNat_self {n : Nat} (x : BitVec n) : bits x.toNat 0 n = x.toNat := by
  rw [bits, Nat.pow_zero, Nat.div_one, Nat.mod_eq_of_lt x.isLt]

/-- A field and the bits below it. -/
theorem bits_join (x lo n : Nat) : x % 2 ^ lo + bits x lo n * 2 ^ lo = x % 2 ^ (lo + n) := by
  rw [bits, pow_add, Nat.mod_mul, Nat.mul_comm]

/-- A field that is 0 adds nothing to the bits below it. -/
theorem bits_skip {x lo n : Nat} (h : bits x lo n = 0) : x % 2 ^ lo = x % 2 ^ (lo + n) := by
  rw [← bits_join, h, Nat.zero_mul, Nat.add_zero]

/-- The lowest field of a word, given, and the one above it. -/
theorem bits_start {x lo k : Nat} (n : Nat) (h : bits x 0 lo = k) : k + bits x lo n * 2 ^ lo = x % 2 ^ (lo + n) := by
  rw [← h, ← bits_join, bits, Nat.pow_zero, Nat.div_one]

theorem field_toNat (x lo n : Nat) : (BitVec.ofNat n (bits x lo n)).toNat = bits x lo n := by
  rw [BitVec.toNat_ofNat, Nat.mod_eq_of_lt (bits_lt ..)]

theorem fld_bits (x lo n : Nat) : fld (BitVec.ofNat n (bits x lo n)) lo = bits x lo n * 2 ^ lo := by
  rw [fld, BitVec.toNat_ofNat, Nat.mod_eq_of_lt (bits_lt ..)]

theorem flag_eq (b : Bool) (lo : Nat) : flag b lo = b.toNat * 2 ^ lo := by cases b <;> simp [flag]

theorem flag_bits (x lo k : Nat) : flag (bits x lo 1 = 1) k = bits x lo 1 * 2 ^ k := by
  have h := bits_lt x lo 1
  rw [flag_eq]; congr 1
  interval_cases bits x lo 1 <;> rfl

theorem toNat_decide (p : Prop) [Decidable p] : (decide p).toNat = if p then 1 else 0 := by
  split <;> simp [*]

theorem toNat_decide_bits (x lo : Nat) : (decide (bits x lo 1 = 1)).toNat = bits x lo 1 := by
  simpa [flag_eq] using flag_bits x lo 0

theorem decide_toNat_eq_one (b : Bool) : decide (b.toNat = 1) = b := by cases b <;> rfl

/-! Units (R135). -/

theorem unitsNat_natUnits (n x : Nat) (h : x < 2 ^ (32 * n)) : unitsNat (natUnits n x) = x := by
  induction n generalizing x with
  | zero => exact (Nat.lt_one_iff.mp h).symm
  | succ n ih =>
    have hx : x / 2 ^ 32 < 2 ^ (32 * n) := Nat.div_lt_of_lt_mul (by rwa [← pow_add, Nat.add_comm, ← Nat.mul_succ])
    rw [natUnits, unitsNat, ih _ hx, BitVec.toNat_ofNat, Nat.mod_add_div]

theorem natUnits_unitsNat (us : List W32) : natUnits us.length (unitsNat us) = us := by
  induction us with
  | nil => rfl
  | cons u us ih =>
    have hu := u.isLt
    rw [List.length_cons, natUnits, unitsNat, Nat.add_mul_div_left _ _ (by positivity), Nat.div_eq_of_lt hu, Nat.zero_add, ih]
    congr 1
    apply BitVec.eq_of_toNat_eq
    rw [BitVec.toNat_ofNat, Nat.add_mul_mod_self_left, Nat.mod_eq_of_lt hu]

theorem unitsNat_lt (us : List W32) : unitsNat us < 2 ^ (32 * us.length) := by
  induction us with
  | nil => exact Nat.one_pos
  | cons u us ih =>
    have hu := u.isLt
    rw [List.length_cons, unitsNat, Nat.mul_succ, pow_add]
    nlinarith

theorem natUnits_unitsNat_take {us : List W32} {n : Nat} (h : n ≤ us.length) : natUnits n (unitsNat (us.take n)) = us.take n := by
  have hl := natUnits_unitsNat (us.take n)
  rwa [List.length_take_of_le h] at hl

theorem unitsNat_take_lt {us : List W32} {n : Nat} (h : n ≤ us.length) : unitsNat (us.take n) < 2 ^ (32 * n) := by
  have hl := unitsNat_lt (us.take n)
  rwa [List.length_take_of_le h] at hl

theorem unitsNat_low (u : W32) (us : List W32) : bits (unitsNat (u :: us)) 0 2 = bits u.toNat 0 2 := by
  simp only [unitsNat, bits]
  omega

theorem low_ofNat (x : Nat) : bits (BitVec.ofNat 32 x).toNat 0 2 = bits x 0 2 := by
  simp only [bits, BitVec.toNat_ofNat]
  omega

/-- How many units a word takes (R135). -/
theorem unitsOf_cases (u : W32) :
    unitsOf u = 1 ∨ unitsOf u = 3 ∧ bits u.toNat 0 2 = 1 ∨ unitsOf u = 6 ∧ bits u.toNat 0 2 = 3 := by
  unfold unitsOf
  split <;> simp [*]

theorem unitsOf_one {u : W32} (h : bits u.toNat 0 1 = 0) : unitsOf u = 1 :=
  Laws.UnitCount.unitsOf_even (by simpa [bits] using h)

theorem decodeUnits_one {u : W32} (rest : List W32) (h : bits u.toNat 0 1 = 0) : decodeUnits (u :: rest) = decodeScalar u := by
  simp [decodeUnits, unitsOf_one h]

theorem decodeUnits_three {x : Nat} (rest : List W32) (hx : x < 2 ^ 96) (h : bits x 0 2 = 1) :
    decodeUnits (natUnits 3 x ++ rest) = decodeVector x := by
  have hn : unitsOf (BitVec.ofNat 32 x) = 3 := by simp only [unitsOf, low_ofNat, h]
  have ht : (natUnits 3 x ++ rest).take 3 = natUnits 3 x := rfl
  refine Eq.trans ?_ (congrArg decodeVector (unitsNat_natUnits 3 x hx))
  simp only [natUnits, List.cons_append, decodeUnits, hn, List.length_cons]
  rfl

theorem decodeUnits_six {x : Nat} (rest : List W32) (hx : x < 2 ^ 192) (h : bits x 0 2 = 3) :
    decodeUnits (natUnits 6 x ++ rest) = decodeEngine x := by
  have hn : unitsOf (BitVec.ofNat 32 x) = 6 := by simp only [unitsOf, low_ofNat, h]
  refine Eq.trans ?_ (congrArg decodeEngine (unitsNat_natUnits 6 x hx))
  simp only [natUnits, List.cons_append, decodeUnits, hn, List.length_cons]
  rfl

/-! The static checks (R137). -/

theorem accept_ok {i j : Instr} : accept i = .ok j ↔ i.check = none ∧ i = j := by
  unfold accept
  split <;> simp [*]

theorem acceptIf_ok {c : Bool} {i j : Instr} : acceptIf c i = .ok j ↔ c = true ∧ i.check = none ∧ i = j := by
  unfold acceptIf
  split
  · rename_i b hb
    have : i.check ≠ none := fun h => by simp [accept, h] at hb
    simp [this]
  · rename_i k hk
    obtain ⟨hc, rfl⟩ := accept_ok.mp hk
    cases c <;> simp [hc]

theorem wf_iff {i : Instr} : i.wf = true ↔ i.check = none ∧ i.quantOk = true ∧ i.slotOk = true := by
  simp [Instr.wf, and_assoc]

end Sys2Proof
end

-- ==== Proofs: scalar words and their encodings (O57, O58) ====
section
/-! PROOF. The map of scalar words (R138-R142) read in both directions: the word of a step has the fields from which the map gives the
step, and a step that the map gives is written with the fields of its word. -/
namespace Sys2Proof

/-! The fields of each format (R139). -/

/-- What bits [7:0] of a scalar word hold (R138). -/
theorem bits_opcode {x : Nat} (h : x < 128) : bits (x * 2 ^ 1) 0 1 = 0 ∧ bits (x * 2 ^ 1) 1 7 = x ∧ bits (x * 2 ^ 1) 1 1 = x % 2 := by
  simp only [bits]; omega

theorem encSR_toNat {f : Nat} (h : f < 1024) (d a b : GReg) :
    (encSR f d a b).toNat = f % 2 * 2 ^ 1 + d.toNat * 2 ^ 8 + a.toNat * 2 ^ 13 + b.toNat * 2 ^ 18 + f / 2 * 2 ^ 23 := by
  rw [encSR, BitVec.toNat_ofNat, Nat.mod_eq_of_lt] <;> simp only [fld] <;> omega

/-- The fields of an SR word, read back (R139). -/
theorem encSR_fields {f : Nat} (h : f < 1024) (d a b : GReg) :
    bits (encSR f d a b).toNat 23 9 * 2 + bits (encSR f d a b).toNat 1 1 = f ∧ bits (encSR f d a b).toNat 18 5 = b.toNat ∧
    bits (encSR f d a b).toNat 13 5 = a.toNat ∧ bits (encSR f d a b).toNat 8 5 = d.toNat ∧
    bits (encSR f d a b).toNat 0 1 = 0 ∧ bits (encSR f d a b).toNat 1 7 = f % 2 := by
  obtain ⟨h0, h1, h2⟩ := bits_opcode (show f % 2 < 128 by omega)
  rw [encSR_toNat h]
  simp (disch := omega) only [bits_add_above, bits_add_at, h0, h1, h2]
  simp only [and_true]
  omega

theorem encSI_toNat {p imm : Nat} (hp : p < 127) (h : imm < 2 ^ 15) (d a : GReg) :
    (encSI p d a imm).toNat = (p + imm % 2) * 2 ^ 1 + d.toNat * 2 ^ 8 + a.toNat * 2 ^ 13 + imm / 2 * 2 ^ 18 := by
  rw [encSI, BitVec.toNat_ofNat, Nat.mod_eq_of_lt] <;> simp only [fld] <;> omega

/-- The fields of an SI word, read back (R139). -/
theorem encSI_fields {p imm : Nat} (hp : p < 127) (h2 : p % 2 = 0) (h : imm < 2 ^ 15) (d a : GReg) :
    bits (encSI p d a imm).toNat 18 14 * 2 + bits (encSI p d a imm).toNat 1 1 = imm ∧
    bits (encSI p d a imm).toNat 13 5 = a.toNat ∧ bits (encSI p d a imm).toNat 8 5 = d.toNat ∧
    bits (encSI p d a imm).toNat 0 1 = 0 ∧ bits (encSI p d a imm).toNat 1 7 = p + imm % 2 := by
  obtain ⟨h0, h1, h2⟩ := bits_opcode (show p + imm % 2 < 128 by omega)
  rw [encSI_toNat hp h]
  simp (disch := omega) only [bits_add_above, bits_add_at, h0, h1, h2]
  simp only [and_true]
  omega

theorem encP_toNat {p rest : Nat} (hp : p < 128) (h : rest < 2 ^ 24) : (encP p rest).toNat = p * 2 ^ 1 + rest * 2 ^ 8 := by
  rw [encP, BitVec.toNat_ofNat, Nat.mod_eq_of_lt] <;> omega

/-- A word of a primary opcode, read back (R138). -/
theorem encP_fields {p rest : Nat} (hp : p < 128) (h : rest < 2 ^ 24) :
    bits (encP p rest).toNat 0 1 = 0 ∧ bits (encP p rest).toNat 1 7 = p ∧
    ∀ lo n, 8 ≤ lo → bits (encP p rest).toNat lo n = bits rest (lo - 8) n := by
  obtain ⟨h0, h1, -⟩ := bits_opcode hp
  rw [encP_toNat hp h]
  simp (disch := omega) only [bits_add_above, h0, h1]
  exact ⟨trivial, trivial, fun lo n hlo => bits_add_below _ (by omega) hlo⟩

/-! From a step's word to the step. -/

theorem sizeOf2_num (sz : Size) : sizeOf2 sz.num = sz := by cases sz <;> rfl

theorem Size.num_lt (sz : Size) : sz.num < 4 := by cases sz <;> decide

theorem amoOf_num (op : AmoOp) : amoOf op.num = op := by cases op <;> rfl

theorem amofOf_num (op : AmofOp) : amofOf op.num = some op := by cases op <;> rfl

theorem amofFmtOf_num (op : AmofFmt) : amofFmtOf op.num = some op := by cases op <;> rfl

/-- The size and the offset of a memory word (R141). -/
theorem memImm_fields (sz : Size) (off : BitVec 13) : memImm sz off < 2 ^ 15 ∧ bits (memImm sz off) 13 2 = sz.num ∧
    BitVec.ofNat 13 (memImm sz off) = off := by
  have := sz.num_lt
  have : BitVec.ofNat 13 (memImm sz off) = off := by
    apply BitVec.eq_of_toNat_eq
    rw [memImm, BitVec.toNat_ofNat]
    omega
  rw [memImm] at *
  refine ⟨by omega, ?_, this⟩
  rw [bits]
  omega

theorem scalarForm_encSR {f : Nat} (h : f < 1024) (d a b : GReg) : scalarForm (encSR f d a b) = decodeSR (encSR f d a b).toNat := by
  obtain ⟨-, -, -, -, h0, h1⟩ := encSR_fields h d a b
  rw [scalarForm, h0, h1, if_neg Nat.zero_ne_one, if_pos (by omega)]

theorem scalarForm_encSR_eq {f : Nat} (h : f < 1024) (d a b : GReg) {F : Form}
    (hF : ∀ w, bits w 23 9 * 2 + bits w 1 1 = f → bits w 18 5 = b.toNat → bits w 13 5 = a.toNat → bits w 8 5 = d.toNat →
      decodeSR w = F) : scalarForm (encSR f d a b) = F := by
  obtain ⟨h0, h1, h2, h3, -, -⟩ := encSR_fields h d a b
  rw [scalarForm_encSR h]
  exact hF _ h0 h1 h2 h3

theorem scalarForm_encSI {p imm : Nat} (hp : p < 127) (h2 : p % 2 = 0) (h : imm < 2 ^ 15)
    (hs : 2 ≤ p ∧ p < 0x28 ∨ 0x3A ≤ p ∧ p < 0x3E) (d a : GReg) :
    scalarForm (encSI p d a imm) = decodeSI (p / 2) (encSI p d a imm).toNat := by
  obtain ⟨-, -, -, h0, h1⟩ := encSI_fields hp h2 h d a
  rw [scalarForm, h0, h1, if_neg Nat.zero_ne_one, if_neg (by omega), show (p + imm % 2) / 2 = p / 2 by omega]
  rcases hs with ⟨h2, h28⟩ | ⟨h3A, h3E⟩
  · rw [if_pos (by omega)]
  · rw [if_neg (by omega), if_neg (by omega), if_pos (by omega)]

theorem scalarForm_encSI_eq {p imm : Nat} (hp : p < 127) (h2 : p % 2 = 0)
    (hs : 2 ≤ p ∧ p < 0x28 ∨ 0x3A ≤ p ∧ p < 0x3E) (h : imm < 2 ^ 15) (d a : GReg) {F : Form}
    (hF : ∀ w, bits w 18 14 * 2 + bits w 1 1 = imm → bits w 13 5 = a.toNat → bits w 8 5 = d.toNat → decodeSI (p / 2) w = F) :
    scalarForm (encSI p d a imm) = F := by
  obtain ⟨h0, h1, hd, -, -⟩ := encSI_fields hp h2 h d a
  rw [scalarForm_encSI hp h2 h hs]
  exact hF _ h0 h1 hd

theorem scalarForm_encP_eq {p x y : Nat} (hp : 0x28 ≤ p ∧ p < 0x3A) (hxy : x = y) (h : y < 2 ^ 24) {F : Form}
     (hF : ∀ w, (∀ lo n, 8 ≤ lo → bits w lo n = bits y (lo - 8) n) → decodeSB p w = F) : scalarForm (encP p x) = F := by
  subst hxy
  obtain ⟨h0, h1, hf⟩ := encP_fields (show p < 128 by omega) h
  rw [scalarForm, h0, h1, if_neg Nat.zero_ne_one, if_neg (by omega), if_neg (by omega), if_pos (by omega)]
  exact hF _ hf

/-- Shifts by a constant, whose amount stands in the function and in the second source (R140). -/
theorem scalarForm_shift {k : Nat} (hk : k < 3) (d a : GReg) (sh : BitVec 6) :
    scalarForm (encSR (0x050 + 2 * k + sh.toNat / 32) d a (BitVec.ofNat 5 sh.toNat)) =
      form (if k = 0 then .shli d a sh else if k = 1 then .shri d a sh else .shai d a sh) := by
  refine scalarForm_encSR_eq (by omega) _ _ _ fun w hf hb ha hd => ?_
  have hsh : BitVec.ofNat 6 ((0x050 + 2 * k + sh.toNat / 32) % 2 * 32 + (BitVec.ofNat 5 sh.toNat).toNat) = sh := by
    apply BitVec.eq_of_toNat_eq
    simp only [BitVec.toNat_ofNat]
    omega
  have hk2 : (0x050 + 2 * k + sh.toNat / 32) / 2 = 0x28 + k := by omega
  simp (disch := omega) only [decodeSR, hf, hb, ha, hd, hsh, hk2, if_neg, if_pos, Bool.and_eq_true, decide_eq_true_eq]
  simp only [BitVec.ofNat_toNat, BitVec.setWidth_eq]
  interval_cases k <;> rfl

theorem scalarForm_amo (op : AmoOp) (dbl : Bool) (d a b : GReg) :
    scalarForm (encSR (0x182 + 4 * op.num + dbl.toNat) d a b) = form (.amo op dbl d a b) := by
  have hop : op.num < 10 := by cases op <;> decide
  have hdbl := dbl.toNat_lt
  refine scalarForm_encSR_eq (by omega) _ _ _ fun w hf hb ha hd => ?_
  have hn : (0x182 + 4 * op.num + dbl.toNat - 0x180) / 4 = op.num := by omega
  have hl : (0x182 + 4 * op.num + dbl.toNat) % 4 = 2 + dbl.toNat := by omega
  simp (disch := omega) only [decodeSR, hf, hb, ha, hd, hn, hl, amoOf_num, if_neg, if_pos, Bool.and_eq_true, decide_eq_true_eq]
  cases dbl <;> simp

theorem scalarForm_amof (fz cn sv : Bool) (op : AmofOp) (fmt : AmofFmt) (d a b : GReg) :
    scalarForm (encSR (0x300 + flag fz 5 + flag cn 6 + flag sv 7 + op.num * 8 + fmt.num) d a b) =
      form (.amof fz cn sv op fmt d a b) := by
  have hop : op.num < 3 := by cases op <;> decide
  have hfmt : fmt.num < 3 := by cases fmt <;> decide
  have hz := fz.toNat_lt
  have hc := cn.toNat_lt
  have hs := sv.toNat_lt
  have hx : 0x300 + flag fz 5 + flag cn 6 + flag sv 7 + op.num * 8 + fmt.num =
      fmt.num + op.num * 2 ^ 3 + fz.toNat * 2 ^ 5 + cn.toNat * 2 ^ 6 + sv.toNat * 2 ^ 7 + 3 * 2 ^ 8 := by
    simp only [flag_eq]; omega
  rw [hx]
  refine scalarForm_encSR_eq (by omega) _ _ _ fun w hf hb ha hd => ?_
  simp only [decodeSR, hf, hb, ha, hd]
  simp (disch := omega) only [if_neg, if_pos, Bool.and_eq_true, decide_eq_true_eq]
  have h0 : bits fmt.num 0 3 = fmt.num := by rw [bits]; omega
  simp (disch := omega) only [bits_add_above, bits_add_at, h0, amofOf_num, amofFmtOf_num]
  simp

/-- The map of scalar words reads each word as the step it was made from (R138-R142). -/
theorem scalarForm_of_encodeScalar {i : Instr} {u : W32} (h : encodeScalar i = some u) (hc : i.check = none) :
    scalarForm u = some (true, i) := by
  cases i
  case nop | add | sub | mul | mulh | mulhn | div | divn | rem | remn | and | or | xor | shl | shr | sha | min | max | minn | maxn
      | sel | clz | popc | jr | txe | txs | safept | trap | brk | eret | chk | mark | waitv | ptrd | frrd | waitpt | mbsend | mbrecv
      | mbpoll | lockwr | lockrd | l1inv | rdcinv | cacheWb | tlbinv =>
    obtain rfl := Option.some.inj h
    refine scalarForm_encSR_eq (by decide) _ _ _ fun w hf hb ha hd => ?_
    simp [decodeSR, hf, hb, ha, hd, form, formIf]
  case setcc x _ _ _ | ldNb x _ _ _ | stPm x _ _ _ | acq x _ _ | rel x =>
    obtain rfl := Option.some.inj h
    cases x <;> refine scalarForm_encSR_eq (by decide) _ _ _ fun w hf hb ha hd => ?_
    all_goals simp only [Cmp.num, Size.num, Scope.num] at hf; simp [decodeSR, hf, hb, ha, hd, form, formIf, scopeOf, sizeOf2]
  case addi | andi | ori | xori | ldi | ldih | adda =>
    obtain rfl := Option.some.inj h
    refine scalarForm_encSI_eq (by decide) (by decide) (by decide) (BitVec.isLt _) _ _ fun w hi ha hd => ?_
    simp [decodeSI, hi, ha, hd, form, formIf]
  case ld sz _ _ off | ldn sz _ _ off | st sz _ _ off | ldS sz _ _ off | ldSp sz _ _ off | stSp sz _ _ off | spld sz _ off
      | spst sz _ off =>
    obtain rfl := Option.some.inj h
    obtain ⟨hlt, hsz, hoff⟩ := memImm_fields sz off
    refine scalarForm_encSI_eq (by decide) (by decide) (by decide) hlt _ _ fun w hi ha hd => ?_
    simp [decodeSI, hi, ha, hd, hsz, hoff, sizeOf2_num, form, formIf]
  case post sm k | await sm k =>
    obtain rfl := Option.some.inj h
    refine scalarForm_encSI_eq (by decide) (by decide) (by decide) (by omega) _ _ fun w hi ha hd => ?_
    have hsm : BitVec.ofNat 8 (k.toNat * 2 ^ 8 + sm.toNat) = sm := by bv_omega
    have hk : bits (k.toNat * 2 ^ 8 + sm.toNat) 8 7 = k.toNat := by rw [bits]; omega
    simp only [decodeSI, hi, ha, hd, hsm, hk]
    simp [formIf]
  case semrd | semwr | mfs | mts =>
    obtain rfl := Option.some.inj h
    refine scalarForm_encSI_eq (by decide) (by decide) (by decide) (by omega) _ _ fun w hi ha hd => ?_
    simp (disch := decide) [decodeSI, hi, ha, hd, formIf, bits_toNat_above]
  case b | jl | txb | lexit =>
    obtain rfl := Option.some.inj h
    refine scalarForm_encP_eq (by decide) rfl (by omega) fun w hw => ?_
    simp (disch := decide) [decodeSB, hw, form, formIf, bits_toNat_self, bits_toNat_above]
  case bz a off | bnz a off =>
    obtain rfl := Option.some.inj h
    refine scalarForm_encP_eq (y := a.toNat + off.toNat * 2 ^ 5) (by decide) (by omega) (by omega) fun w hw => ?_
    simp (disch := omega) [-Nat.reducePow, decodeSB, form, hw, bits_add_above, bits_add_at, bits_toNat_self]
  case bccc c a b off =>
    obtain rfl := Option.some.inj h
    have hc : 0x28 ≤ 0x28 + c.num ∧ 0x28 + c.num < 0x3A := by cases c <;> decide
    refine scalarForm_encP_eq (y := a.toNat + b.toNat * 2 ^ 5 + off.toNat * 2 ^ 10) hc (by rw [fld]; omega) (by omega) fun w hw => ?_
    cases c <;> simp (disch := omega) [-Nat.reducePow, decodeSB, form, cmpOf, Cmp.num, hw, bits_add_above, bits_add_at, bits_toNat_self]
  case exit n e1 e2 e3 e4 =>
    obtain rfl := Option.some.inj h
    refine scalarForm_encP_eq (y := e1.toNat + e2.toNat * 2 ^ 5 + e3.toNat * 2 ^ 10 + e4.toNat * 2 ^ 15 + n.toNat * 2 ^ 20) (by decide)
      (by simp only [fld]; omega) (by omega) fun w hw => ?_
    simp (disch := omega) [-Nat.reducePow, decodeSB, formIf, hw, bits_add_above, bits_add_at, bits_toNat_self, bits_of_lt]
  case loop lv n last | loopg lv n last =>
    obtain rfl := Option.some.inj h
    refine scalarForm_encP_eq (y := lv.toNat + n.toNat * 2 ^ 2 + last.toNat * 2 ^ 12) (by decide) (by omega) (by omega) fun w hw => ?_
    simp (disch := omega) [-Nat.reducePow, decodeSB, formIf, hw, bits_add_above, bits_add_at, bits_toNat_self, bits_of_lt]
  case loopp lv a sg last =>
    obtain rfl := Option.some.inj h
    refine scalarForm_encP_eq (y := lv.toNat + a.toNat * 2 ^ 2 + sg.toNat * 2 ^ 7 + last.toNat * 2 ^ 12) (by decide) (by omega) (by omega)
      fun w hw => ?_
    simp (disch := omega) [-Nat.reducePow, decodeSB, formIf, hw, bits_add_above, bits_add_at, bits_toNat_self, bits_of_lt]
  case kill blk mask =>
    obtain rfl := Option.some.inj h
    obtain ⟨h0, h1, hw⟩ := encP_fields (show 0x40 + blk.toNat < 128 by omega) mask.isLt
    simp (disch := omega) only [scalarForm, h0, h1, hw, if_neg, form, Nat.sub_self, bits_toNat_self,
      Nat.add_sub_cancel_left, BitVec.ofNat_toNat, BitVec.setWidth_eq]
  case fenceq | qcfg | qrst | txa =>
    obtain rfl := Option.some.inj h
    refine scalarForm_encSR_eq (by omega) _ _ _ fun w hf hb ha hd => ?_
    simp (disch := omega) only [decodeSR, hf, hb, ha, hd, if_neg, if_pos, Bool.and_eq_true, decide_eq_true_eq]
    simp [form, formIf]
  case tagpub n | tagq _ n =>
    obtain rfl := Option.some.inj h
    refine scalarForm_encSR_eq (by omega) _ _ _ fun w hf hb ha hd => ?_
    have hn : n.toNat < 6 := by simpa [Instr.check, Instr.vword, Instr.engineClean, Instr.scalarLegal, Instr.scalarClean] using hc
    simp (disch := omega) only [decodeSR, hf, hb, ha, hd, if_neg, if_pos, Bool.and_eq_true, decide_eq_true_eq]
    simp [formIf]
  case shli =>
    obtain rfl := Option.some.inj h
    exact scalarForm_shift (k := 0) (by decide) _ _ _
  case shri =>
    obtain rfl := Option.some.inj h
    exact scalarForm_shift (k := 1) (by decide) _ _ _
  case shai =>
    obtain rfl := Option.some.inj h
    exact scalarForm_shift (k := 2) (by decide) _ _ _
  case amo =>
    obtain rfl := Option.some.inj h
    exact scalarForm_amo ..
  case amof =>
    obtain rfl := Option.some.inj h
    exact scalarForm_amof ..
  all_goals cases h

/-! From a word to its step's word. -/

/-- A step that a form gives, none of the unused bits of its word set, is written as the word u. -/
def WritesBack (u : W32) (F : Form) : Prop := ∀ i, F = some (true, i) → encodeScalar i = some u

theorem WritesBack.none {u : W32} : WritesBack u none := fun _ h => nomatch h

theorem WritesBack.ite {u : W32} {c : Prop} [Decidable c] {F G : Form} (hF : c → WritesBack u F)
    (hG : ¬c → WritesBack u G) :
    WritesBack u (if c then F else G) := by
  split
  · exact hF ‹_›
  · exact hG ‹_›

theorem encSR_bits (u : W32) (h0 : bits u.toNat 0 1 = 0) (h1 : bits u.toNat 1 7 < 2) :
    encSR (bits u.toNat 23 9 * 2 + bits u.toNat 1 1) (BitVec.ofNat 5 (bits u.toNat 8 5)) (BitVec.ofNat 5 (bits u.toNat 13 5))
      (BitVec.ofNat 5 (bits u.toNat 18 5)) = u := by
  have hu := u.isLt
  apply BitVec.eq_of_toNat_eq
  simp only [bits] at *
  rw [encSR_toNat (by omega)]
  simp only [BitVec.toNat_ofNat]
  omega

/-- A step whose SR word has the fields of the word at hand, where those that are not checked to be 0 are its own. -/
theorem WritesBack.sr {u : W32} {f dn an bn k : Nat} {c : Bool} {i : Instr} {d a b : GReg}
    (key : encSR f (BitVec.ofNat 5 dn) (BitVec.ofNat 5 an) (BitVec.ofNat 5 bn) = u) (hi : encodeScalar i = some (encSR k d a b))
    (hk : k = f) (hc : c = true → d = BitVec.ofNat 5 dn ∧ a = BitVec.ofNat 5 an ∧ b = BitVec.ofNat 5 bn) :
    WritesBack u (some (c, i)) := by
  intro j hj
  obtain ⟨rfl, rfl⟩ := Prod.mk.inj (Option.some.inj hj)
  obtain ⟨rfl, rfl, rfl⟩ := hc rfl
  rw [hi, hk, key]

theorem amoOf_inv {n : Nat} (h : n < 10) : (amoOf n).num = n := by interval_cases n <;> rfl

theorem amofOf_inv {n : Nat} {op : AmofOp} (h : amofOf n = some op) : op.num = n := by
  unfold amofOf at h
  split at h <;> cases h <;> rfl

theorem amofFmtOf_inv {n : Nat} {fmt : AmofFmt} (h : amofFmtOf n = some fmt) : fmt.num = n := by
  unfold amofFmtOf at h
  split at h <;> cases h <;> rfl

/-- R140: every function of the SR map, and none but these, has the word that the map reads. -/
theorem decodeSR_writesBack (u : W32) (h0 : bits u.toNat 0 1 = 0) (h1 : bits u.toNat 1 7 < 2) : WritesBack u (decodeSR u.toNat) := by
  have key := encSR_bits u h0 h1
  have hb := bits_lt u.toNat 18 5
  unfold decodeSR
  generalize bits u.toNat 23 9 * 2 + bits u.toNat 1 1 = f at *
  generalize bits u.toNat 8 5 = dn at *
  generalize bits u.toNat 13 5 = an at *
  generalize bits u.toNat 18 5 = bn at *
  simp only [form, formIf, Bool.and_eq_true, decide_eq_true_eq]
  refine .ite (fun hf => ?_) fun _ => .ite (fun hf => ?_) fun _ => .ite (fun hf => ?_) fun _ => .ite (fun hf => ?_) fun _ =>
    .ite (fun hf => ?_) fun _ => .ite (fun hf => ?_) fun _ => .ite (fun hf => ?_) fun _ => .ite (fun hf => ?_) fun _ =>
    .ite (fun hf => ?_) fun _ => .ite (fun hf => ?_) fun _ => .ite (fun hf => ?_) fun _ => .ite (fun hf => ?_) fun _ =>
    .ite (fun hf => ?_) fun _ => .ite (fun hf => ?_) fun _ => .ite (fun hf => ?_) fun _ => .none
  · exact .sr key rfl hf.symm (by simp +contextual)
  · split
    case h_20 => exact .none
    all_goals exact .sr key rfl rfl (by simp +contextual)
  · split
    case h_10 => exact .none
    all_goals exact .sr key rfl rfl (by simp +contextual)
  · split
    case h_10 => exact .none
    all_goals exact .sr key rfl rfl (by simp +contextual)
  · exact .sr key rfl (by rw [BitVec.toNat_ofNat]; omega) (by simp +contextual)
  · exact .sr key rfl (by rw [BitVec.toNat_ofNat]; omega) (by simp +contextual)
  · have hsh : (BitVec.ofNat 6 (f % 2 * 32 + bn)).toNat = f % 2 * 32 + bn := by rw [BitVec.toNat_ofNat]; omega
    have hlow : BitVec.ofNat 5 (f % 2 * 32 + bn) = BitVec.ofNat 5 bn := by
      apply BitVec.eq_of_toNat_eq
      simp only [BitVec.toNat_ofNat]
      omega
    split
    case h_3 =>
      simp only [imp_false] at *
      exact .sr key rfl (by rw [hsh]; omega) fun _ => ⟨rfl, rfl, by rw [hsh, hlow]⟩
    all_goals exact .sr key rfl (by rw [hsh]; omega) fun _ => ⟨rfl, rfl, by rw [hsh, hlow]⟩
  · split
    case h_25 => exact .none
    all_goals exact .sr key rfl rfl (by simp +contextual)
  · exact .sr key rfl (by rw [BitVec.toNat_ofNat]; omega) (by simp +contextual)
  · exact .sr key rfl (by rw [BitVec.toNat_ofNat]; omega) (by simp +contextual)
  · exact .sr key rfl (by rw [BitVec.toNat_ofNat]; omega) (by simp +contextual)
  · refine .ite (fun _ => .none) fun _ => .sr key rfl ?_ fun _ => ⟨rfl, rfl, rfl⟩
    rw [amoOf_inv (by omega), toNat_decide]
    split <;> omega
  · split
    case h_5 =>
      simp only [imp_false] at *
      exact .sr key rfl (by omega) (by simp +contextual)
    all_goals exact .sr key rfl rfl (by simp +contextual)
  · exact .sr key rfl (by rw [BitVec.toNat_ofNat]; omega) (by simp +contextual)
  · split
    · rename_i op fmt hop hfmt
      refine .sr key rfl ?_ fun _ => ⟨rfl, rfl, rfl⟩
      rw [amofOf_inv hop, amofFmtOf_inv hfmt, flag_bits, flag_bits, flag_bits]
      simp only [bits]
      omega
    · exact .none

theorem encSI_bits (u : W32) (h0 : bits u.toNat 0 1 = 0) (hp : bits u.toNat 1 7 / 2 < 63) :
    encSI (2 * (bits u.toNat 1 7 / 2)) (BitVec.ofNat 5 (bits u.toNat 8 5)) (BitVec.ofNat 5 (bits u.toNat 13 5))
      (bits u.toNat 18 14 * 2 + bits u.toNat 1 1) = u := by
  have hu := u.isLt
  apply BitVec.eq_of_toNat_eq
  simp only [bits] at *
  rw [encSI_toNat (by omega) (by omega)]
  simp only [BitVec.toNat_ofNat]
  omega

/-- A step whose SI word has the fields of the word at hand, where those that are not checked to be 0 are its own. -/
theorem WritesBack.si {u : W32} {p dn an imm k m : Nat} {c : Bool} {i : Instr} {d a : GReg}
    (key : encSI (2 * p) (BitVec.ofNat 5 dn) (BitVec.ofNat 5 an) imm = u) (hi : encodeScalar i = some (encSI k d a m))
    (hk : k = 2 * p) (hc : c = true → d = BitVec.ofNat 5 dn ∧ a = BitVec.ofNat 5 an ∧ m = imm) : WritesBack u (some (c, i)) := by
  intro j hj
  obtain ⟨rfl, rfl⟩ := Prod.mk.inj (Option.some.inj hj)
  obtain ⟨rfl, rfl, rfl⟩ := hc rfl
  rw [hi, hk, key]

theorem sizeOf2_inv {n : Nat} (h : n < 4) : (sizeOf2 n).num = n := by interval_cases n <;> rfl

theorem memImm_bits {imm : Nat} (h : imm < 2 ^ 15) : memImm (sizeOf2 (bits imm 13 2)) (BitVec.ofNat 13 imm) = imm := by
  rw [memImm, sizeOf2_inv (bits_lt ..), BitVec.toNat_ofNat, bits]
  omega

theorem decodeSI_writesBack (u : W32) (h0 : bits u.toNat 0 1 = 0) (hp : bits u.toNat 1 7 / 2 < 63) :
    WritesBack u (decodeSI (bits u.toNat 1 7 / 2) u.toNat) := by
  have key := encSI_bits u h0 hp
  have himm : bits u.toNat 18 14 * 2 + bits u.toNat 1 1 < 2 ^ 15 := by
    have h18 := bits_lt u.toNat 18 14
    have h1 := bits_lt u.toNat 1 1
    omega
  unfold decodeSI
  generalize bits u.toNat 18 14 * 2 + bits u.toNat 1 1 = imm at *
  generalize bits u.toNat 8 5 = dn at *
  generalize bits u.toNat 13 5 = an at *
  generalize bits u.toNat 1 7 / 2 = p at *
  have h12 := memImm_bits himm
  have hfull : (BitVec.ofNat 15 imm).toNat = imm := by rw [BitVec.toNat_ofNat, Nat.mod_eq_of_lt himm]
  have hpair : (BitVec.ofNat 7 (bits imm 8 7)).toNat * 2 ^ 8 + (BitVec.ofNat 8 imm).toNat = imm := by
    simp only [bits, BitVec.toNat_ofNat]; omega
  have hsem (hk : BitVec.ofNat 7 (bits imm 8 7) = 0) : (BitVec.ofNat 8 imm).toNat = imm := by
    rw [hk] at hpair
    simpa using hpair
  have hsr (hz : bits imm 12 3 = 0) : (BitVec.ofNat 12 imm).toNat = imm := by
    rw [BitVec.toNat_ofNat]
    rw [bits] at hz
    omega
  simp only [form, formIf]
  split
  case h_22 => exact .none
  case h_16 | h_17 => exact .si key rfl rfl (by simp +contextual [hpair, -BitVec.toNat_ofNat, -Nat.reducePow])
  all_goals exact .si key rfl rfl (by simp +contextual [h12, hfull, hsem, hsr, -BitVec.toNat_ofNat])

theorem encP_bits (u : W32) (h0 : bits u.toNat 0 1 = 0) : encP (bits u.toNat 1 7) (bits u.toNat 8 24) = u := by
  have hu := u.isLt
  apply BitVec.eq_of_toNat_eq
  simp only [bits] at *
  rw [encP_toNat (by omega) (by omega)]
  omega

/-- A step whose word has the primary opcode and, above it, the fields of the word at hand. -/
theorem WritesBack.primary {u : W32} {p w k m : Nat} {c : Bool} {i : Instr}
    (key : encP p (bits w 8 24) = u) (hi : encodeScalar i = some (encP k m)) (hk : k = p) (hc : c = true → m = bits w 8 24) :
    WritesBack u (some (c, i)) := by
  intro j hj
  obtain ⟨rfl, rfl⟩ := Prod.mk.inj (Option.some.inj hj)
  rw [hi, hk, hc rfl, key]

theorem cmpOf_inv {n : Nat} {c : Cmp} (h : cmpOf n = some c) : c.num = n := by
  unfold cmpOf at h
  split at h <;> cases h <;> rfl

theorem decodeSB_writesBack (u : W32) (h0 : bits u.toNat 0 1 = 0) : WritesBack u (decodeSB (bits u.toNat 1 7) u.toNat) := by
  have key := encP_bits u h0
  have hu := u.isLt
  unfold decodeSB
  generalize bits u.toNat 1 7 = p at *
  generalize u.toNat = w at *
  simp only [form, formIf, Bool.and_eq_true, decide_eq_true_eq]
  split
  case h_11 =>
    refine .ite (fun hp => ?_) fun _ => .none
    split
    · exact .primary key rfl (by rw [cmpOf_inv ‹_›]; omega) fun _ => by
        simp only [fld, field_toNat]
        simp only [bits]
        omega
    · exact .none
  case h_1 | h_2 | h_5 => exact .primary key rfl rfl fun _ => field_toNat ..
  all_goals
    refine .primary key rfl rfl ?_
    simp only [fld, field_toNat, decide_eq_true_eq]
    simp only [bits]
    omega

theorem scalarForm_writesBack (u : W32) : WritesBack u (scalarForm u) := by
  have hp := bits_lt u.toNat 1 7
  refine .ite (fun _ => .none) fun h0 => ?_
  replace h0 : bits u.toNat 0 1 = 0 := by
    have h1 := bits_lt u.toNat 0 1
    omega
  refine .ite (decodeSR_writesBack u h0) fun _ => .ite (fun _ => decodeSI_writesBack u h0 (by omega)) fun _ =>
    .ite (fun _ => decodeSB_writesBack u h0) fun _ => .ite (fun _ => decodeSI_writesBack u h0 (by omega)) fun _ =>
    .ite (fun _ => .none) fun _ => .primary (encP_bits u h0) rfl ?_ fun _ => field_toNat ..
  rw [BitVec.toNat_ofNat]
  omega

end Sys2Proof
end

-- ==== Proofs: vector and engine words and their encodings (O57, O58) ====
section
/-! PROOF. Vector words (R144, R147) and engine words (R152, R153) read in both directions: their common fields, their operand areas, and
their opcode maps. -/
namespace Sys2Proof

/-! Vector words. -/

theorem encVector_low (opc : Nat) (w : VWord) : bits (encVector opc w) 0 2 = 1 := by
  rw [bits, Nat.pow_zero, Nat.div_one]
  exact Laws.UnitCount.low_encVector opc w

theorem encVector_opcode (opc : Nat) (w : VWord) (h : opc < 256) : bits (encVector opc w) 2 8 = opc := by
  have hz := w.zero.toNat_lt
  simp (disch := omega) only [encVector, fld, flag_eq, bits_add_above, bits_add_at]

theorem vwordOf_encVector (opc : Nat) (w : VWord) (h : opc < 256) : vwordOf (encVector opc w) = w := by
  have hz := w.zero.toNat_lt
  simp (disch := omega) only [encVector, vwordOf, fld, flag_eq, bits_add_above, bits_add_at, BitVec.ofNat_toNat, BitVec.setWidth_eq,
    decide_toNat_eq_one]

theorem encVector_lt (opc : Nat) (w : VWord) (h : opc < 256) : encVector opc w < 2 ^ 96 := by
  have hz := w.zero.toNat_lt
  simp only [encVector, fld, flag_eq]
  omega

theorem encVector_vwordOf {x : Nat} (hx : x < 2 ^ 96) (h : bits x 0 2 = 1) : encVector (bits x 2 8) (vwordOf x) = x := by
  simp only [encVector, vwordOf, fld_bits, flag_bits, bits_start 8 h, bits_join]
  exact Nat.mod_eq_of_lt hx

/-- The opcode map makes each vector word from its opcode and its fields (R147). -/
theorem vmake_of_vword {opc : Nat} {w : VWord} {i : Instr} (h : i.vword = some (opc, w)) (hq : i.quantOk = true) :
    vmake opc w = some i := by
  cases i
  case vquantScale | vquant =>
    obtain ⟨rfl, rfl⟩ := Prod.mk.inj (Option.some.inj h)
    simp only [Instr.quantOk, Bool.not_eq_true'] at hq
    simp [vmake, hq]
  case vcmp c _ | vred c _ => cases c <;> cases h <;> rfl
  all_goals cases h
  all_goals rfl

/-- What the opcode map makes is written with the opcode and the fields that it was made of (R147). -/
theorem vword_of_vmake {opc : Nat} {w : VWord} {i : Instr} (h : vmake opc w = some i) :
    i.vword = some (opc, w) ∧ encodeScalar i = none ∧ opc < 256 ∧ i.quantOk = true ∧ i.slotOk = true := by
  unfold vmake at h
  split at h
  case h_49 =>
    obtain rfl := Option.some.inj h
    by_cases hs : w.isScale = true
    · rw [if_pos hs]
      exact ⟨rfl, rfl, by decide, hs, rfl⟩
    · rw [if_neg hs]
      exact ⟨rfl, rfl, by decide, by simp [Instr.quantOk, hs], rfl⟩
  case h_71 => cases h
  all_goals
    cases h
    exact ⟨rfl, rfl, by decide, rfl, rfl⟩

/-! The common fields of engine words (R152). -/

theorem encHead_eq (opc : Nat) (h : EHead) : encHead opc h = 3 + opc * 2 ^ 2 + h.wsem.toNat * 2 ^ 10 + h.wthr.toNat * 2 ^ 18 +
    h.sinc.toNat * 2 ^ 25 + h.stamped.toNat * 2 ^ 29 + h.ssem.toNat * 2 ^ 32 + h.stamp.toNat * 2 ^ 128 + h.comp.toNat * 2 ^ 160 := by
  simp only [encHead, fld, flag_eq]

theorem encHead_add (opc : Nat) (h : EHead) (a : Nat) : encHead opc h + a * 2 ^ 40 = 3 + opc * 2 ^ 2 + h.wsem.toNat * 2 ^ 10 +
    h.wthr.toNat * 2 ^ 18 + h.sinc.toNat * 2 ^ 25 + h.stamped.toNat * 2 ^ 29 + h.ssem.toNat * 2 ^ 32 + a * 2 ^ 40 +
    h.stamp.toNat * 2 ^ 128 + h.comp.toNat * 2 ^ 160 := by
  simp only [encHead_eq]
  omega

/-- An operand area takes bits [127:40] of a word (R152). -/
theorem encHead_add_fields {opc a : Nat} (h : EHead) (hopc : opc < 256) (ha : a < 2 ^ 88) :
    bits (encHead opc h + a * 2 ^ 40) 0 2 = 3 ∧ bits (encHead opc h + a * 2 ^ 40) 2 8 = opc ∧
    bits (encHead opc h + a * 2 ^ 40) 30 2 = 0 ∧ eheadOf (encHead opc h + a * 2 ^ 40) = h ∧ encHead opc h + a * 2 ^ 40 < 2 ^ 192 ∧
    ∀ lo n, 40 ≤ lo → lo + n ≤ 128 → bits (encHead opc h + a * 2 ^ 40) lo n = bits a (lo - 40) n := by
  have hs := h.stamped.toNat_lt
  rw [encHead_add]
  refine ⟨?_, ?_, ?_, ?_, ?_, fun lo n hlo hn => ?_⟩
  · simp (disch := omega) only [bits_add_above]
    rfl
  · simp (disch := omega) only [bits_add_above, bits_add_at]
  · simp (disch := omega) only [bits_add_above, bits_of_lt]
  · simp (disch := omega) only [eheadOf, bits_add_above, bits_add_at, BitVec.ofNat_toNat, BitVec.setWidth_eq, decide_toNat_eq_one]
  · omega
  · simp (disch := omega) only [bits_add_above, bits_add_below]

theorem encHead_eheadOf {w : Nat} (hw : w < 2 ^ 192) (h0 : bits w 0 2 = 3) (hr : bits w 30 2 = 0) :
    encHead (bits w 2 8) (eheadOf w) + bits w 40 88 * 2 ^ 40 = w := by
  simp only [encHead_add, eheadOf, field_toNat, toNat_decide_bits, bits_start 8 h0, bits_join]
  rw [bits_skip (lo := 2 + 8 + 8 + 7 + 4 + 1) hr]
  simp only [bits_join]
  exact Nat.mod_eq_of_lt hw

/-! From a command to its operand area, and back. -/

/-- What is written in bits [127:40] of a word, and what any word that has these bits reads as. -/
def AreaReads (e : Nat) (P : Nat → Prop) : Prop :=
  ∃ a, e = a * 2 ^ 40 ∧ a < 2 ^ 88 ∧ ∀ w, (∀ lo n, 40 ≤ lo → lo + n ≤ 128 → bits w lo n = bits a (lo - 40) n) → P w

theorem areaReads_mma (x : MmaArgs) : AreaReads (encMma x) fun w => mmaOf w = x ∧ bits w 40 14 = 0 := by
  have hbsrc := x.bsrc.toNat_lt
  have hscaled := x.scaled.toNat_lt
  have hsat := x.sat.toNat_lt
  refine ⟨0 + x.base.toNat * 2 ^ 14 + x.offA.toNat * 2 ^ 19 + x.bsrc.toNat * 2 ^ 33 + x.offB.toNat * 2 ^ 34 + x.acc.toNat * 2 ^ 48 +
    x.fa.toNat * 2 ^ 52 + x.fb.toNat * 2 ^ 56 + x.scaled.toNat * 2 ^ 60 + x.ca.toNat * 2 ^ 61 + x.cb.toNat * 2 ^ 68 +
    x.sat.toNat * 2 ^ 75 + x.m1.toNat * 2 ^ 76 + x.n1.toNat * 2 ^ 82, ?_, by omega, fun w hw => ?_⟩
  · simp only [encMma, fld, flag_eq]
    omega
  · simp (disch := omega) only [mmaOf, hw, bits_add_above, bits_add_at, bits_of_lt, BitVec.ofNat_toNat,
      BitVec.setWidth_eq, decide_toNat_eq_one, and_self]

theorem areaReads_acc (x : AccArgs) : AreaReads (encAcc x) fun w => accOf w = x ∧ bits w 71 57 = 0 := by
  have hrz := x.rz.toNat_lt
  have hsat := x.sat.toNat_lt
  have hclr := x.clr.toNat_lt
  refine ⟨x.base.toNat + x.off.toNat * 2 ^ 5 + x.acc.toNat * 2 ^ 20 + x.rz.toNat * 2 ^ 24 + x.sat.toNat * 2 ^ 25 +
    x.clr.toNat * 2 ^ 26 + x.ty.toNat * 2 ^ 27, ?_, by omega, fun w hw => ?_⟩
  · simp only [encAcc, fld, flag_eq]
    omega
  · simp (disch := omega) only [accOf, hw, bits_add_above, bits_add_at, bits_of_lt, Nat.sub_self, bits_toNat_self, BitVec.ofNat_toNat,
      BitVec.setWidth_eq, decide_toNat_eq_one, and_self]

theorem areaReads_scl (x : SclArgs) : AreaReads (encScl x) fun w => sclOf w = x ∧ bits w 74 54 = 0 := by
  refine ⟨x.base.toNat + x.off.toNat * 2 ^ 5 + x.c0.toNat * 2 ^ 20 + x.nc1.toNat * 2 ^ 27, ?_, by omega, fun w hw => ?_⟩
  · simp only [encScl, fld]
    omega
  · simp (disch := omega) only [sclOf, hw, bits_add_above, bits_add_at, bits_of_lt, Nat.sub_self, bits_toNat_self, BitVec.ofNat_toNat,
      BitVec.setWidth_eq, and_self]

theorem areaReads_wst (x : WstArgs) : AreaReads (encWst x) fun w => wstOf w = x ∧ bits w 57 71 = 0 := by
  refine ⟨x.src.toNat + x.t0.toNat * 2 ^ 5 + x.count1.toNat * 2 ^ 9 + x.fmt.toNat * 2 ^ 13 + x.width.toNat * 2 ^ 15, ?_, by omega,
    fun w hw => ?_⟩
  · simp only [encWst, fld]
    omega
  · simp (disch := omega) only [wstOf, hw, bits_add_above, bits_add_at, bits_of_lt, Nat.sub_self, bits_toNat_self, BitVec.ofNat_toNat,
      BitVec.setWidth_eq, and_self]

theorem areaReads_cpy (x : CpyArgs) : AreaReads (encCpy x) fun w => cpyOf w = x ∧ bits w 67 61 = 0 := by
  have hdkind := x.dkind.toNat_lt
  have hskind := x.skind.toNat_lt
  refine ⟨x.cq.toNat + x.gd.toNat * 2 ^ 2 + x.gs.toNat * 2 ^ 7 + x.gz.toNat * 2 ^ 12 + x.gw.toNat * 2 ^ 17 + x.dkind.toNat * 2 ^ 22 +
    x.skind.toNat * 2 ^ 23 + x.decl.toNat * 2 ^ 24, ?_, by omega, fun w hw => ?_⟩
  · simp only [encCpy, fld, flag_eq]
    omega
  · simp (disch := omega) only [cpyOf, hw, bits_add_above, bits_add_at, bits_of_lt, Nat.sub_self, bits_toNat_self, BitVec.ofNat_toNat,
      BitVec.setWidth_eq, decide_toNat_eq_one, and_self]

theorem areaReads_mask {n : Nat} (hn : n ≤ 88) (x : BitVec n) :
    AreaReads (fld x 40) fun w => BitVec.ofNat n (bits w 40 n) = x ∧ bits w (40 + n) (88 - n) = 0 := by
  refine ⟨x.toNat, rfl, x.isLt.trans_le (Nat.pow_le_pow_right (by decide) hn), fun w hw => ?_⟩
  show _ ∧ _
  rw [hw _ _ (le_refl _) (by omega), hw _ _ (by omega) (by omega), Nat.sub_self, bits_toNat_self, Nat.add_sub_cancel_left,
    bits_toNat_above x (le_refl _)]
  simp

theorem areaReads_sfj {op : Nat} (hop : op < 8) (g : GReg) :
    AreaReads (encSfj op g) fun w => bits w 40 3 = op ∧ BitVec.ofNat 5 (bits w 43 5) = g ∧ bits w 48 80 = 0 := by
  refine ⟨op + g.toNat * 2 ^ 3, ?_, ?_, fun w hw => ?_⟩
  · simp only [encSfj, fld]
    omega
  · omega
  · have h0 : bits op 0 3 = op := by rw [bits]; omega
    simp (disch := omega) only [hw, h0, bits_add_above, bits_add_at, bits_of_lt, BitVec.ofNat_toNat, BitVec.setWidth_eq, and_self]

/-- A word made of its common fields and an operand area (R152). -/
theorem AreaReads.word {e opc : Nat} {P : Nat → Prop} (he : AreaReads e P) (h : EHead) (hopc : opc < 256) :
    let w := encHead opc h + e
    w < 2 ^ 192 ∧ bits w 0 2 = 3 ∧ bits w 2 8 = opc ∧ bits w 30 2 = 0 ∧ eheadOf w = h ∧ P w := by
  obtain ⟨a, rfl, ha, hP⟩ := he
  obtain ⟨h0, h2, h30, hh, hlt, harea⟩ := encHead_add_fields h hopc ha
  exact ⟨hlt, h0, h2, h30, hh, hP _ harea⟩

/-- An engine word that has an operand area is decoded from it. -/
theorem decodeEngine_word {e opc : Nat} {P : Nat → Prop} (he : AreaReads e P) (h : EHead) (hopc : opc < 256) {i : Instr}
    (hc : i.check = none)
    (hi : ∀ w, P w → eheadOf w = h → bits w 2 8 = opc → bits w 30 2 = 0 → decodeEngine w = acceptIf true i) :
    encHead opc h + e < 2 ^ 192 ∧ bits (encHead opc h + e) 0 2 = 3 ∧ decodeEngine (encHead opc h + e) = .ok i := by
  obtain ⟨hlt, h0, h2, h30, hh, hP⟩ := he.word h hopc
  exact ⟨hlt, h0, (hi _ hP hh h2 h30).trans (acceptIf_ok.mpr ⟨rfl, hc, rfl⟩)⟩

/-- The map of engine words reads each word as the command it was made from (R152, R153). -/
theorem decodeEngine_encodeEngine {i : Instr} {w : Nat} (hw : encodeEngine i = some w) (hc : i.check = none) :
    w < 2 ^ 192 ∧ bits w 0 2 = 3 ∧ decodeEngine w = .ok i := by
  cases i
  case mma h x | mmaz h x =>
    obtain rfl := Option.some.inj hw
    exact decodeEngine_word (areaReads_mma x) h (by decide) hc fun w hP hh h2 h30 => by simp [decodeEngine, hP, hh, h2, h30]
  case accrd h x | accwr h x  =>
    obtain rfl := Option.some.inj hw
    exact decodeEngine_word (areaReads_acc x) h (by decide) hc fun w hP hh h2 h30 => by simp [decodeEngine, hP, hh, h2, h30]
  case cpy h x | cpyt h x | cpyf h x | chain h x =>
    obtain rfl := Option.some.inj hw
    exact decodeEngine_word (areaReads_cpy x) h (by decide) hc fun w hP hh h2 h30 => by simp [decodeEngine, hP, hh, h2, h30]
  case scld h x =>
    obtain rfl := Option.some.inj hw
    exact decodeEngine_word (areaReads_scl x) h (by decide) hc fun w hP hh h2 h30 => by simp [decodeEngine, hP, hh, h2, h30]
  case wstrm h x =>
    obtain rfl := Option.some.inj hw
    exact decodeEngine_word (areaReads_wst x) h (by decide) hc fun w hP hh h2 h30 => by simp [decodeEngine, hP, hh, h2, h30]
  case accz h x | wsel h x =>
    obtain rfl := Option.some.inj hw
    exact decodeEngine_word (areaReads_mask (by decide) x) h (by decide) hc fun w hP hh h2 h30 => by simp [decodeEngine, hP, hh, h2, h30]
  case sfjExp h x | sfjLog h x | sfjSoftmax h x | sfjTopk h x | sfjSort h x | sfjSample h x =>
    obtain rfl := Option.some.inj hw
    exact decodeEngine_word (areaReads_sfj (by decide) x) h (by decide) hc fun w hP hh h2 h30 => by
      simp [decodeEngine, sfjOf, hP, hh, h2, h30]
  all_goals cases hw

/-! From a word to its command's word. -/

/-- An engine word is made of its common fields and of what an operand area writes of bits [127:40]. -/
theorem encHead_area {w e opc : Nat} (hw : w < 2 ^ 192) (h0 : bits w 0 2 = 3) (hr : bits w 30 2 = 0) (hopc : bits w 2 8 = opc)
    (he : w % 2 ^ 40 + e = w % 2 ^ 128) : encHead opc (eheadOf w) + e = w := by
  have hjoin := bits_join w 40 88
  rw [← hopc, show e = bits w 40 88 * 2 ^ 40 by omega]
  exact encHead_eheadOf hw h0 hr

theorem encMma_mmaOf {w : Nat} (h : bits w 40 14 = 0) : w % 2 ^ 40 + encMma (mmaOf w) = w % 2 ^ 128 := by
  rw [bits_skip h]
  simp only [encMma, mmaOf, fld_bits, flag_bits, ← Nat.add_assoc, bits_join]

theorem encAcc_accOf {w : Nat} (h : bits w 71 57 = 0) : w % 2 ^ 40 + encAcc (accOf w) = w % 2 ^ 128 := by
  rw [← bits_skip h]
  simp only [encAcc, accOf, fld_bits, flag_bits, ← Nat.add_assoc, bits_join]

theorem encScl_sclOf {w : Nat} (h : bits w 74 54 = 0) : w % 2 ^ 40 + encScl (sclOf w) = w % 2 ^ 128 := by
  rw [← bits_skip h]
  simp only [encScl, sclOf, fld_bits, ← Nat.add_assoc, bits_join]

theorem encWst_wstOf {w : Nat} (h : bits w 57 71 = 0) : w % 2 ^ 40 + encWst (wstOf w) = w % 2 ^ 128 := by
  rw [← bits_skip h]
  simp only [encWst, wstOf, fld_bits, ← Nat.add_assoc, bits_join]

theorem encCpy_cpyOf {w : Nat} (h : bits w 67 61 = 0) : w % 2 ^ 40 + encCpy (cpyOf w) = w % 2 ^ 128 := by
  rw [← bits_skip h]
  simp only [encCpy, cpyOf, fld_bits, flag_bits, ← Nat.add_assoc, bits_join]

theorem fld_mask {w n m : Nat} (h : bits w (40 + n) m = 0) (hm : n + m = 88) :
    w % 2 ^ 40 + fld (BitVec.ofNat n (bits w 40 n)) 40 = w % 2 ^ 128 := by
  rw [fld_bits, bits_join, bits_skip h, Nat.add_assoc, hm]

theorem encSfj_bits {w op : Nat} (hop : bits w 40 3 = op) (h : bits w 48 80 = 0) :
    w % 2 ^ 40 + encSfj op (BitVec.ofNat 5 (bits w 43 5)) = w % 2 ^ 128 := by
  rw [← bits_skip h, ← hop]
  simp only [encSfj, fld_bits, ← Nat.add_assoc, bits_join]

theorem sfjOf_encode {h : EHead} {n w : Nat} {g : GReg} {i : Instr} (hi : sfjOf h n g = some i)
    (hw : ∀ op, n = op → encHead 0x30 h + encSfj op g = w) : encodeEngine i = some w := by
  unfold sfjOf at hi
  split at hi <;> cases hi <;> exact congrArg some (hw _ rfl)

/-- What the map of engine words reads is written as that word (R152, R153). -/
theorem encodeEngine_decodeEngine {i : Instr} {w : Nat} (hw : w < 2 ^ 192) (h0 : bits w 0 2 = 3) (h : decodeEngine w = .ok i) :
    encodeEngine i = some w ∧ i.check = none := by
  unfold decodeEngine at h
  generalize hopc : bits w 2 8 = opc at h
  dsimp only at h
  split at h
  case h_14 => cases h
  case h_13 =>
    split at h
    · rename_i j hj
      obtain ⟨hz, hc, rfl⟩ := acceptIf_ok.mp h
      simp only [Bool.and_eq_true, decide_eq_true_eq] at hz
      exact ⟨sfjOf_encode hj fun op hop => encHead_area hw h0 hz.1 hopc (encSfj_bits hop hz.2), hc⟩
    · split at h <;> cases h
  all_goals
    obtain ⟨hz, hc, rfl⟩ := acceptIf_ok.mp h
    simp only [Bool.and_eq_true, decide_eq_true_eq] at hz
  case h_1 | h_2 => exact ⟨congrArg some (encHead_area hw h0 hz.1 hopc (encMma_mmaOf hz.2)), hc⟩
  case h_3 | h_4 => exact ⟨congrArg some (encHead_area hw h0 hz.1 hopc (encAcc_accOf hz.2)), hc⟩
  case h_5 | h_8 => exact ⟨congrArg some (encHead_area hw h0 hz.1 hopc (fld_mask hz.2 rfl)), hc⟩
  case h_6 => exact ⟨congrArg some (encHead_area hw h0 hz.1 hopc (encScl_sclOf hz.2)), hc⟩
  case h_7 => exact ⟨congrArg some (encHead_area hw h0 hz.1 hopc (encWst_wstOf hz.2)), hc⟩
  all_goals exact ⟨congrArg some (encHead_area hw h0 hz.1 hopc (encCpy_cpyOf hz.2)), hc⟩

end Sys2Proof
end

-- ==== Proofs: the statements about encodings (O56, O57, O58) ====
section
/-! PROOF. Words of a strand, of one, three or six units, and the micro-ops of a conductor word (R157), each way. -/
namespace Sys2Proof

/-! From an instruction to its word. -/

theorem quantOk_slotOk_of_encodeScalar {i : Instr} {u : W32} (h : encodeScalar i = some u) : i.quantOk = true ∧ i.slotOk = true := by
  constructor
  · unfold Instr.quantOk
    split
    · cases h
    · cases h
    · rfl
  · unfold Instr.slotOk
    split
    · cases h
    · cases h
    · rfl

theorem of_encodeEngine {i : Instr} {w : Nat} (h : encodeEngine i = some w) :
    encodeScalar i = none ∧ i.vword = none ∧ i.quantOk = true ∧ i.slotOk = true := by
  unfold encodeEngine at h
  split at h
  case h_19 => cases h
  all_goals exact ⟨rfl, rfl, rfl, rfl⟩

theorem encode_of_encodeScalar {i : Instr} {u : W32} (h : encodeScalar i = some u) : encode i = [u] := by rw [encode, h]

theorem encode_of_vword {i : Instr} {opc : Nat} {w : VWord} (h : encodeScalar i = none) (hv : i.vword = some (opc, w)) :
    encode i = natUnits 3 (encVector opc w) := by simp only [encode, h, hv]

theorem encode_of_encodeEngine {i : Instr} {x : Nat} (h : encodeEngine i = some x) : encode i = natUnits 6 x := by
  obtain ⟨hs, hv, -, -⟩ := of_encodeEngine h
  simp only [encode, hs, hv, h]

theorem decodeScalar_encodeScalar {i : Instr} {u : W32} (h : encodeScalar i = some u) (hc : i.check = none) :
    bits u.toNat 0 1 = 0 ∧ decodeScalar u = .ok i := by
  have hform := scalarForm_of_encodeScalar h hc
  refine ⟨?_, by simp only [decodeScalar, hform, acceptIf_ok.mpr ⟨rfl, hc, rfl⟩]⟩
  by_contra h0
  have h1 : bits u.toNat 0 1 = 1 := by
    have := bits_lt u.toNat 0 1
    omega
  rw [scalarForm, if_pos h1] at hform
  cases hform

/-- A well-formed word is decoded from its units, whatever follows them. -/
theorem decodeUnits_encode {i : Instr} (rest : List W32) (hw : i.wf = true) (he : encode i ≠ []) :
    decodeUnits (encode i ++ rest) = .ok i := by
  obtain ⟨hc, hq, -⟩ := wf_iff.mp hw
  cases hs : encodeScalar i with
  | some u =>
    obtain ⟨h0, hd⟩ := decodeScalar_encodeScalar hs hc
    rw [encode_of_encodeScalar hs]
    exact (decodeUnits_one rest h0).trans hd
  | none =>
    cases hv : i.vword with
    | some x =>
      obtain ⟨opc, w⟩ := x
      have hm := vmake_of_vword hv hq
      obtain ⟨-, -, hopc, -, -⟩ := vword_of_vmake hm
      rw [encode_of_vword hs hv, decodeUnits_three rest (encVector_lt opc w hopc) (encVector_low opc w), decodeVector,
        encVector_opcode opc w hopc, vwordOf_encVector opc w hopc, hm]
      exact accept_ok.mpr ⟨hc, rfl⟩
    | none =>
      cases hx : encodeEngine i with
      | some x =>
        obtain ⟨hlt, h0, hd⟩ := decodeEngine_encodeEngine hx hc
        rw [encode_of_encodeEngine hx, decodeUnits_six rest hlt h0, hd]
      | none => exact absurd (by simp only [encode, hs, hv, hx]) he

/-- A micro-op is decoded in the slot of its target, or in that of the control die (R157). -/
theorem decodeMicro_encodeMicro {i : Instr} {u : W32} (hw : i.wf = true) (h : encodeMicro i = some u) :
    (∃ d, decodeDieOp d u = .ok (some i)) ∨ decodeCdOp u = .ok (some i) := by
  cases i
  case push d q cb =>
    obtain rfl := Option.some.inj h
    refine .inl ⟨d, ?_⟩
    have hu : (BitVec.ofNat 32 (1 + fld q 2 + fld cb 4)).toNat = 1 + q.toNat * 2 ^ 2 + cb.toNat * 2 ^ 4 := by
      simp only [fld, BitVec.toNat_ofNat]
      omega
    have h1 : bits 1 0 2 = 1 := rfl
    simp (disch := omega) only [decodeDieOp, hu, h1, bits_add_above, bits_add_at, bits_of_lt, BitVec.ofNat_toNat,
      BitVec.setWidth_eq, if_true]
  case qfence d m =>
    obtain rfl := Option.some.inj h
    refine .inl ⟨d, ?_⟩
    have hu : (BitVec.ofNat 32 (2 + fld m 4)).toNat = 2 + m.toNat * 2 ^ 4 := by
      simp only [fld, BitVec.toNat_ofNat]
      omega
    have h1 : bits 2 0 2 = 2 := rfl
    have h2 : bits 2 2 2 = 0 := rfl
    simp (disch := omega) [decodeDieOp, hu, h1, h2, bits_add_above, bits_add_at, bits_of_lt, -Nat.reducePow]
  case launch g =>
    obtain rfl := Option.some.inj h
    have hu : (BitVec.ofNat 32 (1 + fld g 3)).toNat = 1 + g.toNat * 2 ^ 3 := by
      simp only [fld, BitVec.toNat_ofNat]
      omega
    have h1 : bits 1 0 2 = 1 := rfl
    have h2 : bits 1 2 1 = 0 := rfl
    simp (disch := omega) [decodeCdOp, hu, h1, h2, bits_add_above, bits_add_at, bits_of_lt, -Nat.reducePow]
  case launchGraph g =>
    obtain rfl := Option.some.inj h
    have hu : (BitVec.ofNat 32 (5 + fld g 3)).toNat = 5 + g.toNat * 2 ^ 3 := by
      simp only [fld, BitVec.toNat_ofNat]
      omega
    have h1 : bits 5 0 2 = 1 := rfl
    have h2 : bits 5 2 1 = 1 := rfl
    simp (disch := omega) [decodeCdOp, hu, h1, h2, bits_add_above, bits_add_at, bits_of_lt, -Nat.reducePow]
  case overlay =>
    cases h
    exact .inr rfl
  all_goals cases h

/-- Settles O57: strands' words by their number of units, then the micro-ops. -/
theorem encodingRoundTrip : Obligations.EncodingRoundTrip :=
  ⟨fun _ rest hw he => decodeUnits_encode rest hw he, fun _ _ hw h => decodeMicro_encodeMicro hw h⟩

/-! From units to an instruction. -/

theorem encode_decodeScalar {i : Instr} {u : W32} (h : decodeScalar u = .ok i) : i.wf = true ∧ encode i = [u] := by
  unfold decodeScalar at h
  split at h
  · cases h
  · rename_i hform
    obtain ⟨rfl, hc, rfl⟩ := acceptIf_ok.mp h
    have hs := scalarForm_writesBack u _ hform
    exact ⟨wf_iff.mpr ⟨hc, quantOk_slotOk_of_encodeScalar hs⟩, encode_of_encodeScalar hs⟩

theorem encode_decodeVector {i : Instr} {x : Nat} (hx : x < 2 ^ 96) (h0 : bits x 0 2 = 1) (h : decodeVector x = .ok i) :
    i.wf = true ∧ encode i = natUnits 3 x := by
  unfold decodeVector at h
  split at h
  · cases h
  · rename_i hm
    obtain ⟨hc, rfl⟩ := accept_ok.mp h
    obtain ⟨hv, hs, -, hq⟩ := vword_of_vmake hm
    exact ⟨wf_iff.mpr ⟨hc, hq⟩, by rw [encode_of_vword hs hv, encVector_vwordOf hx h0]⟩

theorem encode_decodeEngine {i : Instr} {x : Nat} (hx : x < 2 ^ 192) (h0 : bits x 0 2 = 3) (h : decodeEngine x = .ok i) :
    i.wf = true ∧ encode i = natUnits 6 x := by
  obtain ⟨he, hc⟩ := encodeEngine_decodeEngine hx h0 h
  obtain ⟨-, -, hq⟩ := of_encodeEngine he
  exact ⟨wf_iff.mpr ⟨hc, hq⟩, encode_of_encodeEngine he⟩

/-- A word decoded from the first units of a list is well formed, and written as these units. -/
theorem encode_decodeUnits {us : List W32} {i : Instr} (h : decodeUnits us = .ok i) :
    ∃ n, n ≤ us.length ∧ 0 < n ∧ i.wf = true ∧ encode i = us.take n := by
  cases us with
  | nil => cases h
  | cons u us =>
    unfold decodeUnits at h
    dsimp only at h
    by_cases hl : (u :: us).length < unitsOf u
    · rw [if_pos hl] at h
      cases h
    rw [if_neg hl] at h
    replace hl := Nat.not_lt.mp hl
    rcases unitsOf_cases u with hn | ⟨hn, h0⟩ | ⟨hn, h0⟩
    · rw [if_pos hn] at h
      exact ⟨1, by simp, by decide, encode_decodeScalar h⟩
    · rw [hn] at h hl
      obtain ⟨hw, he⟩ := encode_decodeVector (unitsNat_take_lt hl) ((unitsNat_low ..).trans h0) h
      exact ⟨3, hl, by decide, hw, he.trans (natUnits_unitsNat_take hl)⟩
    · rw [hn] at h hl
      obtain ⟨hw, he⟩ := encode_decodeEngine (unitsNat_take_lt hl) ((unitsNat_low ..).trans h0) h
      exact ⟨6, hl, by decide, hw, he.trans (natUnits_unitsNat_take hl)⟩

/-- Settles O58: what is decoded is written as the units that it was decoded from. -/
theorem encodingUnique : Obligations.EncodingUnique := by
  intro us i h
  obtain ⟨n, hn, hpos, hw, he⟩ := encode_decodeUnits h
  have hlen : (encode i).length = n := by rw [he, List.length_take_of_le hn]
  exact ⟨hw, by rw [hlen, he], List.ne_nil_of_length_pos (by omega)⟩

/-- Settles O56: each word is decoded as it stands. -/
theorem wordsDecode : Obligations.WordsDecode := by
  unfold Obligations.WordsDecode
  decide +kernel

end Sys2Proof
end

-- ==== Proofs: record memory, scratchpad and spill words (O11) ====
section
/-! PROOF. Scalar loads and stores of on-chip memory (O11). -/
namespace Sys2Proof.Machine

variable {s : State} {n k : Nat} {st : Strand} {tt : TileTask}

theorem Size.bytes_cases (sz : Size) : Size.bytes sz = 1 ∨ Size.bytes sz = 2 ∨ Size.bytes sz = 4 ∨ Size.bytes sz = 8 := by
  cases sz <;> simp [Size.bytes]

/-- A byte of a table after the low bytes of a number were written, little-endian. -/
theorem tget_tsets_leBytes (t : Tab Byte) (a m v x : Nat) : tget 0 (tsets 0 t a (leBytes m v)) x =
    if a ≤ x ∧ x < a + m then BitVec.ofNat 8 (v / 256 ^ (x - a)) else tget 0 t x := by
  rw [tget_tsets, leBytes_length, getElem?_leBytes]
  by_cases hx : a ≤ x ∧ x < a + m
  · rw [if_pos hx, if_pos hx, if_pos (by omega), Option.getD_some]
  · rw [if_neg hx, if_neg hx]

/-- A tag of a table after one tag was written over a range. -/
theorem tget_tsets_replicate (t : Tab Bool) (a m : Nat) (b : Bool) (x : Nat) : tget false (tsets false t a (List.replicate m b)) x =
    if a ≤ x ∧ x < a + m then b else tget false t x := by
  rw [tget_tsets, List.length_replicate]
  by_cases hx : a ≤ x ∧ x < a + m
  · rw [if_pos hx, if_pos hx, List.getElem?_replicate, if_pos (by omega), Option.getD_some]
  · rw [if_neg hx, if_neg hx]

/-! Conductor record memory (R156, R346). -/

theorem State.conducts.conducting (h : s.conducts k) : s.conducting = true := by simp only [State.conducting, h.1]

theorem recordCheck_none {ea : W64} {m : Nat} (ha : ea.toNat % m = 0) (hlt : ea.toNat < 2 ^ 22) : recordCheck ea m = none := by
  rw [recordCheck, if_neg (not_not.mpr ha), if_neg (Nat.not_le.mpr hlt : ¬ recordSize ≤ ea.toNat)]

section
variable {sz : Size} {d a : GReg} {off : BitVec 13} (h : s.conducts k) (ha : (s.ea a off).toNat % Size.bytes sz = 0)
  (hlt : (s.ea a off).toNat < 2 ^ 22)
include h ha hlt

theorem ld_conducts : exec (.ld sz d a off) s =
    let v := leNat (tgets 0 s.mem.record (s.ea a off).toNat (Size.bytes sz))
    .next (s.setG d (BitVec.ofInt 64 (signed (8 * Size.bytes sz) v)) false).issued := by
  change execLd sz d a off s = _
  simp only [execLd, h.conducting, if_true, State.condLoad, recordCheck_none ha hlt]
  rfl

theorem ldn_conducts : exec (.ldn sz d a off) s =
    let v := leNat (tgets 0 s.mem.record (s.ea a off).toNat (Size.bytes sz))
    .next (s.setG d (BitVec.ofNat 64 v) false).issued := by
  have hv := extend_leNat (bs := tgets 0 s.mem.record (s.ea a off).toNat (Size.bytes sz)) false (tgets_length ..)
  rw [if_neg Bool.false_ne_true, BitVec.ofInt_natCast] at hv
  change execLdn sz d a off s = _
  simp only [execLdn, h.conducting, if_true, State.condLoad, recordCheck_none ha hlt, State.plain, State.recordBytes, hv]

theorem st_conducts : exec (.st sz d a off) s = .next (s.modMem fun m =>
    { m with record := tsets 0 m.record (s.ea a off).toNat (leBytes (Size.bytes sz) (s.g d).toNat) }).issued := by
  change execSt sz d a off s = _
  simp only [execSt, h.conducting, if_true, State.condStore, recordCheck_none ha hlt]

end

/-! The scratchpad window (R22, R188, R214). -/

/-- Bits of the mask of a write of some whole bytes. -/
theorem pushMask_bits {m i : Nat} (hi : i < 512) : bits (BitVec.ofNat 4096 (2 ^ (8 * m) - 1)).toNat (8 * i) 8 =
    if i < m then 255 else 0 := by
  refine Nat.eq_of_testBit_eq fun j => ?_
  rw [bits, Nat.testBit_mod_two_pow, Nat.testBit_div_two_pow, BitVec.testBit_toNat, BitVec.getLsbD_ofNat,
    Nat.testBit_two_pow_sub_one]
  split
  · rw [show 255 = 2 ^ 8 - 1 from rfl, Nat.testBit_two_pow_sub_one]
    by_cases hj : j < 8
    · simp [hj]
      omega
    · simp [hj]
  · by_cases hj : j < 8
    · simp [hj]
      omega
    · simp [hj]

theorem byteMask_pushBytes {m i : Nat} (hi : i < 512) : (byteMask (BitVec.ofNat 4096 (2 ^ (8 * m) - 1))).getLsbD i = decide (i < m) := by
  rw [byteMask, bytesWhere_getLsbD _ _ hi, pushMask_bits hi]
  split <;> simp_all

theorem fullMask_pushBytes {m i : Nat} (hi : i < 512) : (fullMask (BitVec.ofNat 4096 (2 ^ (8 * m) - 1))).getLsbD i = decide (i < m) := by
  rw [fullMask, bytesWhere_getLsbD _ _ hi, pushMask_bits hi]
  split <;> simp_all

/-- Which of the 512 bytes at an address a mask of the first m of them enables. -/
theorem enabledBytes_isSome {v : Vec} {en : BitVec 512} {m : Nat} (h : ∀ i < 512, en.getLsbD i = decide (i < m)) (hm : m ≤ 512) (i : Nat) :
    (((enabledBytes v en)[i]?).getD none).isSome = decide (i < m) := by
  rw [enabledBytes, List.getElem?_mapIdx, getElem?_leBytes]
  by_cases hi : i < 512
  · rw [if_pos hi, Option.map_some, Option.getD_some, h i hi]
    by_cases hlt : i < m <;> simp [hlt]
  · rw [if_neg hi, Option.map_none, Option.getD_none, decide_eq_false (by omega)]
    rfl

/-- The low bytes of a number written to a scratchpad. -/
def Core.storeBytes (c : Core) (ctx a m v : Nat) (tag : Bool) : Core :=
  c.push ctx (pushBytes a m v).1 (pushBytes a m v).2.1 (pushBytes a m v).2.2 tag

/-- A write of whole bytes leaves them and every other byte as it was. -/
theorem storeBytes_spm (c : Core) (ctx a v : Nat) {m : Nat} (hm : m ≤ 512) (tag : Bool) (x : Nat) :
    tget 0 (c.storeBytes ctx a m v tag).spm x =
      if a ≤ x ∧ x < a + m then BitVec.ofNat 8 (v / 256 ^ (x - a)) else tget 0 c.spm x := by
  by_cases hx : a ≤ x ∧ x < a + 512
  · obtain ⟨i, rfl⟩ : ∃ i, x = a + i := ⟨x - a, by omega⟩
    have hi : i < 512 := by omega
    rw [Nat.add_sub_cancel_left]
    refine (push_inside c ctx a _ _ tag hi).trans (BitVec.eq_of_getLsbD_eq fun j hj => ?_)
    rw [byte_getLsbD _ _ hj, blend_getLsbD _ _ _ (by omega)]
    have hen : (pushBytes a m v).2.2.getLsbD (8 * i + j) = decide (i < m) := by
      rw [pushBytes, BitVec.getLsbD_ofNat, decide_eq_true (by omega), Bool.true_and, Nat.testBit_two_pow_sub_one]
      exact decide_eq_decide.mpr (by omega)
    rw [hen]
    by_cases hlt : i < m
    · rw [if_pos (decide_eq_true hlt), if_pos (by omega), ← byte_getLsbD _ _ hj]
      simp only [pushBytes, BitVec.getLsbD_ofNat, BitVec.toNat_ofNat]
      rw [show (256 : Nat) ^ i = 2 ^ (8 * i) from pow_mul 2 8 i ▸ rfl]
      simp only [Nat.testBit_div_two_pow, Nat.testBit_mod_two_pow, show j + 8 * i < 4096 by omega, decide_true, Bool.true_and]
    · rw [if_neg (by simpa using hlt), if_neg (by omega), vecAt_getLsbD _ _ (by omega), show (8 * i + j) / 8 = i by omega,
        show (8 * i + j) % 8 = j by omega]
  · exact (push_outside c ctx a _ _ tag hx).trans (if_neg (by omega)).symm

/-- The rows that a write of some whole bytes of one row touches: that row. -/
theorem filter_touches {a m : Nat} (hm : 0 < m) (hrow : a % 64 + m ≤ 64) {bs : List (Option Byte)}
    (hb : ∀ i, ((bs[i]?).getD none).isSome = decide (i < m)) : (sectorsOf a 512).filter (touchesSector a bs) = [a / 64] := by
  have htouch (r : Nat) : touchesSector a bs r = decide (r = a / 64) := by
    rw [touchesSector, Bool.eq_iff_iff, List.any_eq_true, decide_eq_true_eq]
    constructor
    · rintro ⟨i, hi, h⟩
      have := List.mem_range.mp hi
      simp only [hb, Bool.and_eq_true, decide_eq_true_eq] at h
      omega
    · rintro rfl
      refine ⟨a % 64, List.mem_range.mpr (by omega), ?_⟩
      simp only [hb, Bool.and_eq_true, decide_eq_true_eq]
      omega
  rw [funext htouch, sectorsOf, if_neg (by omega), upto, List.range_succ_eq_map, List.map_cons, List.filter_cons_of_pos (by simp),
    Nat.add_zero, List.filter_eq_nil_iff.mpr fun r hr => ?_]
  obtain ⟨x, hx, rfl⟩ := List.mem_map.mp hr
  obtain ⟨y, -, rfl⟩ := List.mem_map.mp hx
  simp

theorem coversSector_part {a m r : Nat} (hm : m < 64) {bs : List (Option Byte)}
    (hb : ∀ i, ((bs[i]?).getD none).isSome = decide (i < m)) : coversSector a bs r = false := by
  rw [coversSector, List.all_eq_false]
  by_cases h : a ≤ r * 64
  · exact ⟨63, List.mem_range.mpr (by omega), by simp only [hb, Bool.and_eq_true, decide_eq_true_eq]; omega⟩
  · exact ⟨0, List.mem_range.mpr (by omega), by simp only [Bool.and_eq_true, decide_eq_true_eq]; omega⟩

/-- A write of less than a row within one: it poisons the row when it is tagged, and notes the context at the row's window. -/
theorem storeBytes_rest (c : Core) (ctx a v : Nat) {m : Nat} (hm : 0 < m) (hm' : m < 64) (hrow : a % 64 + m ≤ 64) (tag : Bool) :
    c.storeBytes ctx a m v tag = { c with
      spm := (c.storeBytes ctx a m v tag).spm
      spmTag := tset false c.spmTag (a / 64) (tag || tget false c.spmTag (a / 64))
      spmOwner := tset 0 c.spmOwner (a / 4096) (ctx + 1) } := by
  have hlen (v : Vec) (en : BitVec 512) : (enabledBytes v en).length = 512 := by rw [enabledBytes, List.length_mapIdx, leBytes_length]
  have htouch (v : Vec) := filter_touches (a := a) hm hrow
    (enabledBytes_isSome (v := v) (fun i hi => byteMask_pushBytes (m := m) hi) (by omega))
  have hcover (v : Vec) (r : Nat) := coversSector_part (a := a) (r := r) hm'
    (enabledBytes_isSome (v := v) (fun i hi => fullMask_pushBytes (m := m) hi) (by omega))
  simp only [Core.storeBytes, pushBytes, Core.push, Core.spmPut, hlen, htouch, hcover, List.foldl_cons, List.foldl_nil,
    poisonAfter, Bool.not_false, Bool.and_true, Nat.div_div_eq_div_mul]

theorem State.acts.readCore (h : s.acts n st) : s.readCore = s.coreAt (coreOfStrand n) := by
  obtain ⟨hcur, hst, hview | hview⟩ := h
  · simp only [State.readCore, hview, State.RunsAs.myCore ⟨hcur, hst⟩]
  · simp only [State.readCore, hview]

theorem State.RunsAs.window (h : s.RunsAs n st) (htt : s.ttAt st.tt = some tt) : s.window = (tt.spmBase, tt.spmUnits * 4096) := by
  simp only [State.window, h.myTt, htt]

/-- An access of the scratchpad in order: aligned, below 2 MiB, and inside the window. -/
theorem spmCheck_none {base units m : Nat} {a : W64} (ha : a.toNat % m = 0) (hm : 0 < m) (hlt : a.toNat + m ≤ 2 ^ 21) (hlo : base ≤ a.toNat)
    (hhi : a.toNat + m ≤ base + 4096 * units) : spmCheck base (units * 4096) a m m false = none := by
  rw [spmCheck, if_neg (by simpa using ha), if_neg]
  rw [inWindow, decide_eq_true hlo, decide_eq_true (show a.toNat + m ≤ base + units * 4096 by omega)]
  simp only [Bool.and_self, Bool.not_true, Bool.or_false, decide_eq_true_eq]
  omega

/-- The tag of a range that lies in one row. -/
theorem spmRead_row (c : Core) {a m : Nat} (hm : 0 < m) (hrow : a % 64 + m ≤ 64) :
    c.spmRead a m = (tgets 0 c.spm a m, tget false c.spmTag (a / 64)) := by
  rw [Core.spmRead, sectorsOf, if_neg (by omega), show (a + m - 1) / 64 - a / 64 + 1 = 1 by omega]
  simp [upto]

theorem spmStore_bytes (h : s.RunsAs n st) (hfree : st.owesBefore (st.mark + 1) = false) (a m v : Nat) (tag : Bool) :
    s.spmStore [pushBytes a m v] tag = s.modCore (coreOfStrand n) (·.storeBytes s.myCtx a m v tag) := by
  simp only [State.spmStore, h.me, hfree, Bool.false_eq_true, if_false, h.myCore]
  rfl

section
variable {sz : Size} {d a : GReg} {off : BitVec 13} (h : s.acts n st) (htt : s.ttAt st.tt = some tt)
  (hp : s.produced [a, d]) (hc : s.clear [a])
  (ha : (s.ea a off).toNat % Size.bytes sz = 0) (hlt : (s.ea a off).toNat + Size.bytes sz ≤ 2 ^ 21)
  (hlo : tt.spmBase ≤ (s.ea a off).toNat) (hhi : (s.ea a off).toNat + Size.bytes sz ≤ tt.spmBase + 4096 * tt.spmUnits)
include h htt hp hc ha hlt hlo hhi

theorem ldSp_next (hq : st.spmPending (s.ea a off).toNat (Size.bytes sz) = false) : exec (.ldSp sz d a off) s =
    let core := s.coreAt (coreOfStrand n)
    .next ((s.setG d (BitVec.ofInt 64 (signed (8 * (Size.bytes sz)) (leNat (tgets 0 core.spm (s.ea a off).toNat (Size.bytes sz)))))
      (tget false core.spmTag ((s.ea a off).toNat / 64))).issued) := by
  have hsz := Size.bytes_cases sz
  have hprod : s.produced [a] := fun r hr => hp r (List.mem_cons.mpr (.inl (List.mem_singleton.mp hr)))
  change execLdSp sz d a off s = _
  simp only [execLdSp, h.runsAs.window htt, State.whenReady_produced hprod, State.clean_clear hc,
    spmCheck_none ha (by omega) hlt hlo hhi, h.readStrand, hq, h.readCore, Bool.false_eq_true, if_false,
    spmRead_row _ (by omega : 0 < Size.bytes sz) (by rcases hsz with h | h | h | h <;> rw [h] at ha ⊢ <;> omega : (s.ea a off).toNat % 64 + (Size.bytes sz) ≤ 64)]
  rfl

theorem stSp_next : exec (.stSp sz d a off) s =
    .next (s.spmStore [pushBytes (s.ea a off).toNat (Size.bytes sz) (s.g d).toNat] (s.gt d)).issued := by
  have hsz := Size.bytes_cases sz
  change execStSp sz d a off s = _
  simp only [execStSp, h.runsAs.window htt, State.whenReady_produced hp, State.clean_clear hc,
    spmCheck_none ha (by omega) hlt hlo hhi]

end

/-! Spill slots (R189). -/

theorem spillAt_eq {m : Nat} {off : BitVec 13} (h : off.toNat * m + m ≤ 16384) : spillAt m off = some (off.toNat * m) := if_pos h

section
variable {sz : Size} {d : GReg} {off : BitVec 13} (h : s.acts n st) (ho : off.toNat * Size.bytes sz + Size.bytes sz ≤ 16384)
include h ho

theorem spld_next : exec (.spld sz d off) s =
    let o := off.toNat * Size.bytes sz
    .next (s.setG d (BitVec.ofInt 64 (signed (8 * Size.bytes sz) (leNat (tgets 0 st.spill o (Size.bytes sz)))))
      ((tgets false st.spillTag o (Size.bytes sz)).any id)).issued := by
  change execSpld sz d off s = _
  simp only [execSpld, spillAt_eq ho, h.readStrand]
  rfl

theorem spst_next (hp : s.produced [d]) : exec (.spst sz d off) s =
    let o := off.toNat * Size.bytes sz
    .next (s.setStrand n (some { st with
      spill := tsets 0 st.spill o (leBytes (Size.bytes sz) (s.g d).toNat)
      spillTag := tsets false st.spillTag o (List.replicate (Size.bytes sz) (s.gt d)) })).issued := by
  change execSpst sz d off s = _
  simp only [execSpst, spillAt_eq ho, State.whenReady_produced hp, h.runsAs.modMe]

end

/-- Settles O11: record memory; the window of the scratchpad, read, stored in line and stored at once; the spill slots. -/
theorem onChipMemory : Obligations.OnChipMemory := by
  unfold Obligations.OnChipMemory
  refine ⟨?_, ?_, ?_⟩
  · intro s k sz d a off h ea v ha hlt
    exact ⟨ld_conducts h ha hlt, ldn_conducts h ha hlt, _, st_conducts h ha hlt, rfl, rfl, rfl, fun x => tget_tsets_leBytes ..⟩
  · intro s n st tt sz d a off h htt hp hc e core ha hlt hlo hhi hq
    have hsz := Size.bytes_cases sz
    have hrow : e % 64 + (Size.bytes sz) ≤ 64 := by rcases hsz with h | h | h | h <;> rw [h] at ha ⊢ <;> omega
    refine ⟨ldSp_next h htt hp hc ha hlt hlo hhi hq, fun howes => ?_, fun hfree => ?_⟩
    · rw [stSp_next h htt hp hc ha hlt hlo hhi]
      simp only [State.spmStore, h.runsAs.me, howes, if_true, h.runsAs.modMe]
      rfl
    · have hcore (m : Nat) := State.coreAt_modCore s (coreOfStrand n) m (·.storeBytes s.myCtx e (Size.bytes sz) (s.g d).toNat (s.gt d))
      have hrest := storeBytes_rest core s.myCtx e (s.g d).toNat (by omega : 0 < Size.bytes sz) (by omega) hrow (s.gt d)
      refine ⟨_, stSp_next h htt hp hc ha hlt hlo hhi, rfl, ?_⟩
      rw [spmStore_bytes h.runsAs hfree]
      refine ⟨fun m hm => (hcore m).trans (if_neg hm), rfl, ?_⟩
      intro core'
      rw [show core' = _ from (hcore _).trans (if_pos rfl)]
      refine ⟨?_, storeBytes_spm core _ _ _ (by omega) _, fun r => ?_, fun k => ?_⟩
      · rw [hrest]
      · rw [hrest, tget_tset]
        by_cases hr : r = e / 64
        · rw [if_pos hr, if_pos hr, hr]
        · rw [if_neg hr, if_neg hr]
      · rw [hrest, tget_tset]
  · intro s n st sz d off h o ho
    refine ⟨spld_next h ho, fun hp => ?_⟩
    exact ⟨_, _, spst_next h ho hp, rfl, s.onlyStrand_setStrand n _ _, s.strandAt_setStrand_same n _ _, rfl,
      fun x => ⟨tget_tsets_leBytes .., tget_tsets_replicate ..⟩⟩

end Sys2Proof.Machine
end

-- ==== Proofs: semaphores (O13) ====
section
/-! PROOF. Semaphores of strands and conductor cores, and the waiters of a deadlocked tile task (O13). -/
namespace Sys2Proof.Machine

variable {s : State} {n k i : Nat} {st : Strand}

/-! A row of semaphores (R151). -/

@[simp] theorem Sync.sem_setSem (c : Sync) (i m : Nat) (x : Sem) : (c.setSem i x).sem m = if m = i then x else c.sem m := tget_tset ..

@[simp] theorem Sync.sem_take (c : Sync) (i t m : Nat) (w : Waiter) :
    (c.take i t w).sem m = if m = i then ⟨(c.sem i).count - t, (c.sem i).poisoned⟩ else c.sem m := c.sem_setSem i m _

theorem Sync.post_fits {c : Sync} {x : Nat} (hp : (c.sem i).poisoned = false) (hf : (c.sem i).count + x ≤ 65535) :
    c.post i x = some (c.setSem i ⟨(c.sem i).count + x, (c.sem i).poisoned⟩) := by
  simp only [Sync.post, hp, Bool.false_eq_true, if_false, Nat.not_lt.mpr hf]

theorem Sync.ready_alone {c : Sync} {t : Nat} {w : Waiter} (ht : t ≤ (c.sem i).count) (hw : tget [] c.waiters i = []) :
    c.ready i t w = true := by
  simp only [Sync.ready, hw, ht, decide_true, Bool.and_true]

/-! Strands. -/

/-- A core's semaphores put in place change nothing else. -/
theorem setSync_frame (s : State) (core : Nat) (c : Sync) :
    let t := (s.modCore core fun x => { x with sync := c }).issued
    t.verdict = .issued none ∧ (∀ m, (t.coreAt core).sem m = c.sem m) ∧ (∀ m, m ≠ core → t.coreAt m = s.coreAt m) ∧ t.mem = s.mem ∧
      ∀ r, t.g r = s.g r := by
  intro t
  have hcore (m : Nat) := State.coreAt_modCore s core m fun x => { x with sync := c }
  refine ⟨rfl, fun m => ?_, fun m hm => (hcore m).trans (if_neg hm), rfl, fun _ => rfl⟩
  rw [show t.coreAt core = _ from (hcore core).trans (if_pos rfl)]
  rfl

/-- With nothing in flight to perform, a POST finds its core, its strand and memory as they were. -/
theorem State.acts.landPushes (h : s.acts n st) (hf : ∀ f ∈ st.fly, f.pushes = []) :
    (∀ m, s.landPushes.coreAt m = s.coreAt m) ∧ s.landPushes.mem = s.mem ∧ ∀ r, s.landPushes.g r = s.g r := by
  have hfold (c : Core) : st.fly.foldl (fun c f => f.pushes.foldl (fun c p => c.push s.myCtx p.1 p.2.1 p.2.2 f.tag) c) c = c := by
    refine List.foldlRecOn st.fly _ (motive := (· = c)) rfl fun c' hc f hm => ?_
    rw [hf f hm, hc]
    rfl
  have hfly : st.fly.map (fun f => { f with pushes := [] }) = st.fly :=
    (List.map_congr_left fun f hm => by rw [← hf f hm]; rfl).trans (List.map_id _)
  have hr : (s.modCore (coreOfStrand n) id).RunsAs n st := ⟨h.1, h.2.1⟩
  have hland : s.landPushes = (s.modCore (coreOfStrand n) id).setStrand n (some st) := by
    have hmap := hr.modMe fun st => { st with fly := st.fly.map fun f => { f with pushes := [] } }
    rw [hfly] at hmap
    simp only [State.landPushes, h.runsAs.me, h.runsAs.myCore, hfold]
    exact hmap
  have hcore (m : Nat) : s.landPushes.coreAt m = s.coreAt m := by
    rw [hland]
    exact (State.coreAt_modCore s _ m id).trans (by split <;> simp_all)
  have hacts : s.landPushes.acts n st := by
    refine hland ▸ ⟨h.1, (State.strandAt_setStrand _ n n _).trans (if_pos rfl), ?_⟩
    rw [← hland, hcore]
    have hview : s.landPushes.view = s.view := by rw [hland]; rfl
    exact hview ▸ h.2.2
  exact ⟨hcore, hland ▸ rfl, fun r => (hacts.g_eq r).trans (h.g_eq r).symm⟩

section
variable {sem : BitVec 8} {x : BitVec 7} (h : s.acts n st) (hi : s.mySem sem.toNat = some i)
include h hi

theorem post_strand (ht : st.txn = none) (hr : st.rels = []) (hf : ∀ f ∈ st.fly, f.pushes = []) (ho : st.owesPush = false) {c : Sync}
    (hpost : (s.coreAt (coreOfStrand n)).sync.post i x.toNat = some c) :
    exec (.post sem x) s = .next (s.landPushes.modCore (coreOfStrand n) fun y => { y with sync := c }).issued := by
  have hfly : st.fly.any (fun f => decide (f.pushes ≠ [])) = false := List.any_eq_false.mpr fun f hm => by simp [hf f hm]
  change execPost sem x s = _
  simp only [execPost, h.runsAs.conducting, Bool.false_eq_true, if_false, hi, h.runsAs.outsideTxn ht, h.runsAs.afterRels hr,
    State.strandPost, h.readStrand, hfly, h.runsAs.me, ho, Bool.or_self, h.runsAs.myCore, hpost]

theorem await_strand (ht : st.txn = none) (hr : st.rels = []) (hd : st.deadlock = false)
    (hp : ((s.coreAt (coreOfStrand n)).sem i).poisoned = false) (hx : x.toNat ≤ ((s.coreAt (coreOfStrand n)).sem i).count)
    (hw : tget [] (s.coreAt (coreOfStrand n)).sync.waiters i = []) :
    exec (.await sem x) s = .next (if x.toNat = 0 then s
      else s.modCore (coreOfStrand n) (·.modSync (·.take i x.toNat (.strand n)))).issued := by
  have hready := Sync.ready_alone (w := .strand n) hx hw
  have hwait : s.waitSem i x.toNat State.issued State.issued = (if x.toNat = 0 then s
      else s.modCore (coreOfStrand n) (·.modSync (·.take i x.toNat (.strand n)))).issued := by
    simp only [State.waitSem, h.runsAs.myCore, h.runsAs.myNum, h.runsAs.me, hp, hd, hready, Bool.false_eq_true, if_false, if_true]
    split <;> rfl
  change execAwait sem x s = _
  simp only [execAwait, h.runsAs.conducting, Bool.false_eq_true, if_false, hi, h.runsAs.outsideTxn ht, h.runsAs.afterRels hr, hwait]
  rw [orWaits_issued rfl]

theorem semrd_strand (d : GReg) : exec (.semrd d sem) s =
    let y := (s.coreAt (coreOfStrand n)).sem i
    .next (s.setG d (BitVec.ofNat 64 (y.count + if y.poisoned then 65536 else 0)) false).issued := by
  change execSemrd d sem s = _
  simp only [execSemrd, h.runsAs.conducting, Bool.false_eq_true, if_false, hi, h.readCore]
  rfl

theorem semwr_strand {y : Ctx} {a : GReg} (hc : s.ctxAt s.myCtx = some y) (hy : y.privileged = true) (hp : s.produced [a])
    (hk : s.clear [a]) (hv : (s.g a).toNat ≤ 65535) :
    exec (.semwr sem a) s = .next (s.modCore (coreOfStrand n) (·.modSync (·.setSem i ⟨(s.g a).toNat, false⟩))).issued := by
  change execSemwr sem a s = _
  simp only [execSemwr, State.privileged, hc, hy, if_true, hi, State.whenReady_produced hp, State.clean_clear hk,
    if_neg (Nat.not_lt.mpr hv), h.runsAs.myCore]

end

/-! Conductor cores (R156). -/

/-- A conductor core's semaphores put in place change nothing else. -/
theorem setCondSync_frame (h : s.conducts k) (c : Sync) :
    let t := (s.modCond k fun x => { x with sync := c }).issued
    t.verdict = .issued none ∧ (∀ m, (t.condAt k).sync.sem m = c.sem m) ∧ t.mem = s.mem ∧ t.strands = s.strands ∧ ∀ r, t.g r = s.g r := by
  intro t
  have hcond := (State.condAt_modCond s k k fun x => { x with sync := c }).trans (if_pos rfl)
  change t.condAt k = { s.condAt k with sync := c } at hcond
  refine ⟨rfl, fun m => by rw [hcond], rfl, rfl, fun r => ?_⟩
  have hg : tget 0 t.readCond.g r.toNat = tget 0 s.readCond.g r.toNat := by
    obtain ⟨hcur, hview | hview⟩ := h
    · have ht : t.readCond = t.condAt k := State.conducts.readCond ⟨hcur, .inl hview⟩
      rw [ht, hcond, State.conducts.readCond ⟨hcur, .inl hview⟩]
    · rw [State.conducts.readCond ⟨hcur, .inr hview⟩]
      have ht : t.view = some ⟨Strand.init, Core.init, s.condAt k, 0, []⟩ := hview
      rw [State.readCond, ht]
  have hcur : t.cur = .conductor k := h.1
  simp only [State.g, hcur, h.1, hg]

section
variable {m : BitVec 8} {x : BitVec 7} (h : s.conducts k)
include h

theorem State.conducts.myCondNum : s.myCondNum = k := by simp only [State.myCondNum, h.1]

theorem post_conductor {c : Sync} (hpost : (s.condAt k).sync.post m.toNat x.toNat = some c) :
    exec (.post m x) s = .next (s.modCond k fun y => { y with sync := c }).issued := by
  change execPost m x s = _
  simp only [execPost, h.conducting, if_true, h.myCondNum, hpost]

theorem await_conductor (hx : x.toNat ≤ ((s.condAt k).sync.sem m.toNat).count) (hw : tget [] (s.condAt k).sync.waiters m.toNat = []) :
    exec (.await m x) s = .next (if x = 0 then s
      else s.modCond k fun y => { y with sync := (s.condAt k).sync.take m.toNat x.toNat (.strand 0) }).issued := by
  have hready := Sync.ready_alone (w := .strand 0) hx hw
  change execAwait m x s = _
  simp only [execAwait, h.conducting, if_true, h.myCondNum, hready]
  split <;> rfl

theorem semrd_conductor (d : GReg) : exec (.semrd d m) s =
    let y := (s.condAt k).sync.sem m.toNat
    .next (s.setG d (BitVec.ofNat 64 (y.count + if y.poisoned then 65536 else 0)) false).issued := by
  change execSemrd d m s = _
  simp only [execSemrd, h.conducting, if_true, h.readCond]
  rfl

end

/-! The waiters of a deadlocked tile task (R295). -/

/-- What a deadlock tells a strand that has not ended. -/
def Strand.deadlocks (st : Strand) : Strand := if st.ended then st else { st with deadlock := true }

theorem Strand.deadlocks_deadlocks (st : Strand) : st.deadlocks.deadlocks = st.deadlocks := by
  by_cases h : st.ended <;> simp [Strand.deadlocks, h]

/-- One change made in the strands of a list, where making it twice is making it once. -/
theorem strandAt_foldl_modStrand {f : Strand → Strand} (hf : ∀ st, f (f st) = f st) (l : List Nat) (s : State) (m : Nat) :
    (l.foldl (fun s n => s.modStrand n f) s).strandAt m = if m ∈ l then (s.strandAt m).map f else s.strandAt m := by
  induction l generalizing s with
  | nil => rfl
  | cons n l ih =>
    rw [List.foldl_cons, ih, State.strandAt_modStrand]
    by_cases hm : m = n
    · subst hm
      cases s.strandAt m <;> simp [hf]
    · simp [hm]

theorem foldl_modStrand_frame (f : Strand → Strand) (l : List Nat) (s : State) :
    (l.foldl (fun s n => s.modStrand n f) s).cores = s.cores ∧ (l.foldl (fun s n => s.modStrand n f) s).mem = s.mem := by
  induction l generalizing s with
  | nil => exact ⟨rfl, rfl⟩
  | cons n l ih => simp only [List.foldl_cons, ih, State.modStrand_cores, State.modStrand_mem, and_self]

/-- A deadlock of which no engine command is a waiter is told to the strands of its tile task. -/
theorem deadlockAwait_next {tt : Nat} {t : TileTask} (htt : s.ttAt tt = some t) (hd : s.deadlocked tt t = true)
    (hq : ∀ q x, q < 7 → (s.coreAt t.core).head q = some x → x.tt ≠ tt) :
    exec (.deadlockAwait tt) s = .next (t.strands.foldl (fun s n => s.modStrand n Strand.deadlocks) s) := by
  have hheads : (upto 7).filterMap (fun q => match (s.coreAt t.core).head q with
      | some x => if x.tt = tt then some (q, x) else none
      | none => none) = [] := by
    refine List.filterMap_eq_nil_iff.mpr fun q hm => ?_
    split
    · exact if_neg (hq _ _ (List.mem_range.mp hm) ‹_›)
    · rfl
  change execDeadlockAwait tt s = _
  simp only [execDeadlockAwait, htt, hd, Bool.not_true, Bool.false_eq_true, if_false]
  exact congrArg Host.Outcome.next (congrArg (fun l => List.foldl _ _ l) hheads)

/-- A trap taken is no wait. -/
theorem takeTrap_verdict (hst : s.strandAt n ≠ none) (c : Cause) (r : Rec) (epc : W64) (ign : State) (sem : Option (Nat × Nat)) :
    (s.takeTrap n c r epc ign).verdict ≠ .waits sem := by
  unfold State.takeTrap
  split
  · contradiction
  · dsimp only
    split
    · split <;> exact Verdict.noConfusion
    · split <;> exact Verdict.noConfusion

theorem orWaits_trap {u : State} (hcur : u.cur = .strand n) (hst : u.strandAt n ≠ none) (hd : u.slot.defer = false) (c : Cause) (r : Rec)
    (s : State) (sem t : Nat) (w : Waiter) : (u.trap c r).orWaits s sem t w = u.trap c r := by
  have hv : (u.trap c r).verdict ≠ .waits none := by
    simp only [State.trap, State.trapI, hd, Bool.false_eq_true, if_false, hcur]
    exact takeTrap_verdict hst c r _ _ none
  unfold State.orWaits
  split
  · contradiction
  · rfl

/-- A strand that was told of the deadlock leaves every line and raises DEADLOCK_AWAIT. -/
theorem await_deadlocked {sem : BitVec 8} {x : BitVec 7} (h : s.RunsAs n st) (hd : s.slot.defer = false) (ht : st.txn = none)
    (hr : st.rels = []) (hdead : st.deadlock = true) (hi : s.mySem sem.toNat = some i)
    (hp : ((s.coreAt (coreOfStrand n)).sem i).poisoned = false) :
    exec (.await sem x) s = .next (s.leaveLines.trap .deadlockAwait Rec.zero) := by
  have hst : s.leaveLines.strandAt n ≠ none := by
    rw [show s.leaveLines.strandAt n = some st from h.here]
    exact Option.some_ne_none st
  change execAwait sem x s = _
  simp only [execAwait, h.conducting, Bool.false_eq_true, if_false, hi, h.outsideTxn ht, h.afterRels hr, State.waitSem,
    h.myCore, hp, h.me, hdead, if_true]
  exact congrArg Host.Outcome.next (orWaits_trap (u := s.leaveLines) h.cur hst hd _ _ _ _ _ _)

/-- Settles O13: the four words in a strand, the three in a conductor core, and the deadlocked tile task. -/
theorem semaphores : Obligations.Semaphores := by
  unfold Obligations.Semaphores
  refine ⟨?_, ?_, ?_⟩
  · intro s n st sem x d a i h hi core c sets
    have hsets (j : Instr) (v : Sem) (t : State) (y : Sync) (hj : exec j s = .next (t.modCore core fun z => { z with sync := y }).issued)
        (hcore : ∀ m, t.coreAt m = s.coreAt m) (hmem : t.mem = s.mem) (hg : ∀ r, t.g r = s.g r)
        (hy : ∀ m, y.sem m = if m = i then v else c.sem m) : sets j v := by
      obtain ⟨hv, hsem, hothers, hm, hregs⟩ := setSync_frame t core y
      refine ⟨_, hj, hv, ?_, fun m hm => ?_, fun m hm => (hothers m hm).trans (hcore m), hm.trans hmem, fun r => (hregs r).trans (hg r)⟩
      · rw [hsem, hy, if_pos rfl]
      · rw [hsem, hy, if_neg hm]
    refine ⟨fun ht hr hf ho hp hx => ?_, fun ht hr hd hp hx hw => ?_, semrd_strand h hi d, fun y hy hpriv hprod hclear hv => ?_⟩
    · obtain ⟨hcore, hmem, hg⟩ := h.landPushes hf
      refine hsets _ _ _ _ (post_strand h hi ht hr hf ho (Sync.post_fits hp hx)) hcore hmem hg fun m => ?_
      rw [Sync.sem_setSem, ← hp]
      rfl
    · have hawait := await_strand h hi ht hr hd hp hx hw
      by_cases h0 : x.toNat = 0
      · rw [if_pos h0] at hawait
        refine ⟨_, hawait, rfl, ?_, fun m _ => rfl, fun m _ => rfl, rfl, fun r => rfl⟩
        rw [h0, ← hp]
        rfl
      · rw [if_neg h0] at hawait
        refine hsets _ _ s _ hawait (fun _ => rfl) rfl (fun _ => rfl) fun m => ?_
        rw [Sync.sem_take, ← hp]
        rfl
    · exact hsets _ _ s _ (semwr_strand h hi hy hpriv hprod hclear hv) (fun _ => rfl) rfl (fun _ => rfl) fun m => Sync.sem_setSem ..
  · intro s k m x d h c sem sets
    have hsets (j : Instr) (v : Nat) (y : Sync) (hj : exec j s = .next (s.modCond k fun z => { z with sync := y }).issued)
        (hy : ∀ i, y.sem i = if i = m.toNat then ⟨v, sem.poisoned⟩ else c.sem i) : sets j v := by
      obtain ⟨hv, hsem, hmem, hstrands, hg⟩ := setCondSync_frame h y
      refine ⟨_, hj, hv, ?_, fun i hi => ?_, hmem, hstrands, hg⟩
      · rw [hsem, hy, if_pos rfl]
      · rw [hsem, hy, if_neg hi]
    refine ⟨fun hp hx => hsets _ _ _ (post_conductor h (Sync.post_fits hp hx)) fun i => Sync.sem_setSem .., fun hx hw => ?_,
      semrd_conductor h d⟩
    have hawait := await_conductor h hx hw
    by_cases h0 : x = 0
    · rw [if_pos h0] at hawait
      refine ⟨_, hawait, rfl, ?_, fun i _ => rfl, rfl, rfl, fun r => rfl⟩
      rw [h0]
      rfl
    · rw [if_neg h0] at hawait
      exact hsets _ _ _ hawait fun i => Sync.sem_take ..
  · intro s tt n t st htt hd hq hn hst hend
    have hat (m : Nat) := strandAt_foldl_modStrand Strand.deadlocks_deadlocks t.strands s m
    obtain ⟨hcores, hmem⟩ := foldl_modStrand_frame Strand.deadlocks t.strands s
    have hu : (t.strands.foldl (fun s n => s.modStrand n Strand.deadlocks) s).strandAt n = some { st with deadlock := true } := by
      rw [hat, if_pos hn, hst, Option.map_some, Strand.deadlocks, if_neg (by rw [hend]; exact Bool.false_ne_true)]
    refine ⟨_, deadlockAwait_next htt hd hq, hu, fun m hm => (hat m).trans (if_neg hm), hcores, hmem, ?_⟩
    exact fun i k x hcur hview hdefer ht hr hi hp _ => await_deadlocked ⟨hcur, hu⟩ hdefer ht hr rfl hi hp

end Sys2Proof.Machine
end

-- ==== Proofs: special registers (O14) ====
section
/-! PROOF. The special registers as MFS and MTS find them, what they refuse, and the time words (O14). -/
namespace Sys2Proof.Machine

variable {s : State} {n : Nat} {st : Strand} {c : Ctx} {r : BitVec 12} {v : W64} {a d : GReg}

theorem mfs_next (hr : r.toNat < 0x800) (hv : s.special r.toNat = some v) : exec (.mfs d r) s = .next (s.setG d v false).issued := by
  change execMfs d r s = _
  simp only [execMfs, if_neg (Nat.not_le.mpr hr), hv, State.plain]

theorem mfs_privilege (hd : s.slot.defer = true) (hr : 0x800 ≤ r.toNat) :
    ∃ t, exec (.mfs d r) s = .next t ∧ t.verdict = .trapped .privilege Rec.zero := by
  refine ⟨_, congrArg Host.Outcome.next (if_pos hr), ?_⟩
  rw [State.trapD, State.trapI_defer hd]

theorem mfs_badName (hd : s.slot.defer = true) (hr : r.toNat < 0x800) (hv : s.special r.toNat = none) :
    ∃ t, exec (.mfs d r) s = .next t ∧ t.verdict = .trapped .badName Rec.zero := by
  refine ⟨s.trapD .badName Rec.zero d, ?_, ?_⟩
  · change execMfs d r s = _
    simp only [execMfs, if_neg (Nat.not_le.mpr hr), hv]
  · rw [State.trapD, State.trapI_defer hd]

/-! Registers of the strand, of the context, and rows of four (R19, R88, R175, R283). -/

theorem State.acts.special_strand (h : s.acts n st) :
    s.special 0x010 = some st.fpm ∧ s.special 0x011 = some st.srkey ∧ s.special 0x012 = some st.srctr ∧ s.special 0x040 = some st.epc ∧
    s.special 0x041 = some st.causeReg ∧ s.special 0x042 = some st.einfo ∧ s.special 0x043 = some st.tvec ∧
    s.special 0x060 = some (BitVec.ofNat 64 n) := by
  rw [← h.readStrand, ← h.runsAs.myNum]
  exact ⟨rfl, rfl, rfl, rfl, rfl, rfl, rfl, rfl⟩

theorem special_ctx (hc : s.ctxAt s.myCtx = some c) {k : Nat} (hlo : 0x020 ≤ k) (hhi : k ≤ 0x026) : s.special k = some (c.reg k) := by
  simp only [State.special, hc, Option.map_some, if_neg (by omega : ¬ k ≤ 9), if_neg (by omega : ¬ k = 0x010), if_neg (by omega : ¬ k = 0x011),
    if_neg (by omega : ¬ k = 0x012), if_pos (And.intro hlo hhi)]

theorem special_present {i : Nat} (hi : i < 4) : s.special (0x030 + i) = some (tget 0 s.cpres i) := by
  interval_cases i <;> rfl

theorem State.acts.special_loop (h : s.acts n st) {i : Nat} (hi : i < 4) : s.special (0x050 + i) = some (loopAt st.loops i).lc := by
  rw [← h.readStrand]
  interval_cases i <;> rfl

/-- A number of R143's table. -/
def listed (k : Nat) : Bool :=
  k ≤ 9 || (k = 0x010 || (k = 0x011 || (k = 0x012 || ((0x020 ≤ k ∧ k ≤ 0x026) || ((0x030 ≤ k ∧ k ≤ 0x033) || (k = 0x040 || (k = 0x041 ||
    (k = 0x042 || (k = 0x043 || ((0x050 ≤ k ∧ k ≤ 0x053) || (k = 0x060 || k = 0x061)))))))))))

theorem isSome_ite_some {α : Type} {p : Prop} [Decidable p] (x : α) (y : Option α) :
    (if p then some x else y).isSome = (decide p || y.isSome) := by
  by_cases h : p <;> simp [h]

theorem special_isSome (hc : s.ctxAt s.myCtx = some c) (k : Nat) : (s.special k).isSome = listed k := by
  simp only [State.special, hc, Option.map_some, isSome_ite_some, Option.isSome_none, Bool.or_false, listed]

theorem special_unlisted (hc : s.ctxAt s.myCtx = some c) {k : Nat} (hk : 0x062 ≤ k) : s.special k = none := by
  rw [← Option.not_isSome_iff_eq_none, special_isSome hc]
  simp only [listed, Bool.or_eq_true, decide_eq_true_eq]
  omega

theorem reg_quota (c : Ctx) : c.reg 0x020 = BitVec.ofNat 64 (c.ceiling.toNat * 2 ^ 32 + c.limit.toNat) := by
  refine BitVec.eq_of_toNat_eq ?_
  have hc := c.ceiling.isLt
  have hl := c.limit.isLt
  rw [Ctx.reg, BitVec.toNat_append, ← Nat.shiftLeft_add_eq_or_of_lt hl, Nat.shiftLeft_eq, BitVec.toNat_ofNat, Nat.mod_eq_of_lt (by omega)]

theorem reg_commit (c : Ctx) : c.reg 0x021 = BitVec.ofNat 64 c.commit.toNat := (BitVec.ofNat_toNat ..).symm
theorem reg_mbCount (c : Ctx) : c.reg 0x025 = BitVec.ofNat 64 c.mbCount.toNat := (BitVec.ofNat_toNat ..).symm
theorem reg_trtfb (c : Ctx) : c.reg 0x026 = BitVec.ofNat 64 c.trtfb.toNat := (BitVec.ofNat_toNat ..).symm

/-! Writes. -/

/-- A word that writes a register that its context may write. -/
theorem mts_next (hr : r.toNat < 0x800) (hv : (s.special r.toNat).isSome)
    (ha : accessOf r.toNat = .writable ∨ accessOf r.toNat = .privileged ∧ s.ctxAt s.myCtx = some c ∧ c.privileged = true)
    (hk : s.specialCheck r.toNat (s.g a) = none) (hp : s.produced [a]) (hc : s.clear [a]) :
    exec (.mts r a) s = .next (s.setSpecial r.toNat (s.g a)).issued := by
  obtain ⟨v, hv⟩ := Option.isSome_iff_exists.mp hv
  change execMts r a s = _
  rcases ha with ha | ⟨ha, hctx, hpriv⟩
  · simp only [execMts, if_neg (Nat.not_le.mpr hr), hv, ha, State.whenReady_produced hp, State.clean_clear hc, hk]
  · simp only [execMts, if_neg (Nat.not_le.mpr hr), hv, ha, State.privileged, hctx, hpriv, if_true, State.whenReady_produced hp,
      State.clean_clear hc, hk]

section
variable (hd : s.slot.defer = true)
include hd

theorem mts_privilege (hr : 0x800 ≤ r.toNat) : exec (.mts r a) s = .next { s with verdict := .trapped .privilege Rec.zero } := by
  change execMts r a s = _
  simp only [execMts, if_pos hr, State.trap_defer hd]

theorem mts_badName (hr : r.toNat < 0x800) (hv : s.special r.toNat = none) :
    exec (.mts r a) s = .next { s with verdict := .trapped .badName Rec.zero } := by
  change execMts r a s = _
  simp only [execMts, if_neg (Nat.not_le.mpr hr), hv, State.trap_defer hd]

theorem mts_readOnly (hr : r.toNat < 0x800) (hv : (s.special r.toNat).isSome) (ha : accessOf r.toNat = .readOnly) :
    exec (.mts r a) s = .next { s with verdict := .trapped .readOnly Rec.zero } := by
  obtain ⟨v, hv⟩ := Option.isSome_iff_exists.mp hv
  change execMts r a s = _
  simp only [execMts, if_neg (Nat.not_le.mpr hr), hv, ha, State.trap_defer hd]

theorem mts_unprivileged (hr : r.toNat < 0x800) (hv : (s.special r.toNat).isSome) (ha : accessOf r.toNat = .privileged)
    (hc : s.ctxAt s.myCtx = some c) (hp : c.privileged = false) :
    exec (.mts r a) s = .next { s with verdict := .trapped .privilege Rec.zero } := by
  obtain ⟨v, hv⟩ := Option.isSome_iff_exists.mp hv
  change execMts r a s = _
  simp only [execMts, if_neg (Nat.not_le.mpr hr), hv, ha, State.privileged, hc, hp, Bool.false_eq_true, if_false, State.trap_defer hd]

end

/-! What a write leaves. -/

theorem fieldOf_low {w : Nat} (x : BitVec w) (k : Nat) : fieldOf x 0 k = x.toNat % 2 ^ k := by
  rw [fieldOf, bits, Nat.pow_zero, Nat.div_one]

theorem fpmWrite_eq (old v : W64) : fpmWrite old v =
    BitVec.ofNat 64 ((if v.toNat % 8 < 5 then v.toNat % 8 else old.toNat % 8) + 8 * (v.toNat / 8 % 4)) := by
  simp only [fpmWrite, fieldOf_low]
  rfl

theorem State.setSpecial_ctx (hc : s.ctxAt s.myCtx = some c) (v : W64) :
    s.setSpecial 0x020 v = s.setCtx s.myCtx (some { c with limit := BitVec.ofNat 32 (min (v.toNat % 2 ^ 32) c.ceiling.toNat) }) ∧
    s.setSpecial 0x024 v = s.setCtx s.myCtx (some { c with mbBase := v }) ∧
    s.setSpecial 0x025 v = s.setCtx s.myCtx (some { c with mbCount := BitVec.ofNat 17 v.toNat }) := by
  have hmod (f : Ctx → Ctx) : s.modCtx s.myCtx f = s.setCtx s.myCtx (some (f c)) := by simp only [State.modCtx, hc]
  refine ⟨(hmod _).trans ?_, (hmod _).trans ?_, (hmod _).trans ?_⟩
  · rw [fieldOf_low]
  · rfl
  · rw [BitVec.ofNat_toNat]

theorem State.acts.setSpecial_strand (h : s.acts n st) (v : W64) :
    s.setSpecial 0x010 v = s.setStrand n (some { st with fpm := (BitVec.ofNat 64
      ((if v.toNat % 8 < 5 then v.toNat % 8 else st.fpm.toNat % 8) + 8 * (v.toNat / 8 % 4))) }) ∧
    s.setSpecial 0x011 v = s.setStrand n (some { st with srkey := BitVec.ofNat 64 (v.toNat % 2 ^ 32) }) ∧
    s.setSpecial 0x012 v = s.setStrand n (some { st with srctr := BitVec.ofNat 64 (v.toNat % 2 ^ 32) }) ∧
    s.setSpecial 0x040 v = s.setStrand n (some { st with epc := v }) ∧
    s.setSpecial 0x043 v = s.setStrand n (some { st with tvec := v }) := by
  refine ⟨(h.runsAs.modMe _).trans ?_, (h.runsAs.modMe _).trans ?_, (h.runsAs.modMe _).trans ?_, h.runsAs.modMe _, h.runsAs.modMe _⟩
  · rw [fpmWrite_eq]
  · rw [fieldOf_low]
  · rw [fieldOf_low]

theorem State.acts.setSpecial_loop (h : s.acts n st) (v : W64) {i : Nat} (hi : i < 4) : s.setSpecial (0x050 + i) v =
    s.setStrand n (some { st with loops := tset Loop.none st.loops i { loopAt st.loops i with lc := v } }) := by
  interval_cases i <;> exact h.runsAs.modMe _

theorem setSpecial_time (s : State) (v : W64) :
    s.setSpecial 0x004 v = s.modTime (fun t => { t with slipth := (v.toNat % 2 ^ 32) }) ∧
    s.setSpecial 0x006 v = s.modTime (fun t => { t with
      framelen := (if frameLenOk (v.toNat % 2 ^ 32) = true then v.toNat % 2 ^ 32 else t.framelen) }) := by
  rw [← fieldOf_low]
  refine ⟨rfl, ?_⟩
  have hset : s.setSpecial 0x006 v = { s with time :=
      (if frameLenOk (fieldOf v 0 32) = true then { s.time with framelen := fieldOf v 0 32 } else s.time) } := rfl
  rw [hset, State.modTime]
  split <;> rfl

/-- The checks of a write in its own description are TVEC's and the loop counters'. -/
theorem specialCheck_none {k : Nat} (hk : k ≠ 0x043) (hlt : k < 0x050) (v : W64) : s.specialCheck k v = none := by
  rw [State.specialCheck, if_neg hk, if_neg (Nat.not_le.mpr hlt)]

theorem readOnly_numbers : ∀ r ∈ ([0x000, 0x001, 0x002, 0x003, 0x005, 0x007, 0x008, 0x009, 0x021, 0x022, 0x023, 0x026, 0x030, 0x041, 0x042,
    0x060, 0x061] : List (BitVec 12)), r.toNat < 0x800 ∧ listed r.toNat = true ∧ accessOf r.toNat = .readOnly := by simp [listed, accessOf]

theorem privileged_numbers : ∀ r ∈ ([0x004, 0x006, 0x024, 0x025] : List (BitVec 12)),
    r.toNat < 0x800 ∧ listed r.toNat = true ∧ accessOf r.toNat = .privileged := by simp [listed, accessOf]

theorem accessOf_loop {i : Nat} (hi : i < 4) : accessOf (0x050 + i) = .writable := by interval_cases i <;> rfl

theorem State.acts.specialCheck_loop (h : s.acts n st) {i : Nat}
    (hi : ((loopAt st.loops i).active && (loopAt st.loops i).pipelined) = false) :
    s.specialCheck (0x050 + i) v = none := by
  simp only [State.specialCheck, if_neg (by omega : ¬ 0x050 + i = 0x043), if_pos (Nat.le_add_right 0x050 i), Nat.add_sub_cancel_left,
    h.readStrand, hi, Bool.false_eq_true, if_false]

/-- Settles O14: the reads; the writes; the refusals; PTRD and FRRD. -/
theorem specialRegisters : Obligations.SpecialRegisters := by
  unfold Obligations.SpecialRegisters
  refine ⟨?_, ?_, ?_, fun s d a => ⟨rfl, rfl⟩⟩
  · intro s n st d h reads
    obtain ⟨hfpm, hkey, hctr, hepc, hcause, hinfo, hvec, hnum⟩ := h.special_strand
    have hread {r : BitVec 12} {v : W64} (hr : r.toNat < 0x800) (hv : s.special r.toNat = some v) : reads r v := mfs_next hr hv
    refine ⟨hread (by decide) rfl, hread (by decide) rfl, hread (by decide) rfl, hread (by decide) rfl, hread (by decide) rfl,
      hread (by decide) rfl, hread (by decide) rfl, hread (by decide) hfpm, hread (by decide) hkey, hread (by decide) hctr, fun c hc => ?_,
      fun i => ?_, hread (by decide) hepc, hread (by decide) hcause, hread (by decide) hinfo, hread (by decide) hvec, hread (by decide) hnum,
      hread (by decide) rfl⟩
    · have hctx (r : BitVec 12) (hr : 0x020 ≤ r.toNat ∧ r.toNat ≤ 0x026) : reads r (c.reg r.toNat) :=
        hread (by omega) (special_ctx hc hr.1 hr.2)
      exact ⟨reg_quota c ▸ hctx 0x020 (by decide), reg_commit c ▸ hctx 0x021 (by decide), hctx 0x022 (by decide), hctx 0x023 (by decide),
        hctx 0x024 (by decide), reg_mbCount c ▸ hctx 0x025 (by decide), reg_trtfb c ▸ hctx 0x026 (by decide)⟩
    · have hi := i.isLt
      have hnum (k : Nat) (hk : k < 0x100) : (BitVec.ofNat 12 (k + i)).toNat = k + i := Nat.mod_eq_of_lt (by omega)
      refine ⟨hread ?_ ?_, hread ?_ ?_⟩
      all_goals rw [hnum _ (by decide)]
      · omega
      · exact special_present hi
      · omega
      · exact h.special_loop hi
  · intro s n st a c h hctx hp hc v writes strand ctx
    obtain ⟨hfpm, hkey, hctr, hepc, hvec⟩ := h.setSpecial_strand v
    obtain ⟨hlimit, hbase, hcount⟩ := State.setSpecial_ctx hctx v
    obtain ⟨hslipth, hframelen⟩ := setSpecial_time s v
    have hwrite (r : BitVec 12) {t : State} (hset : s.setSpecial r.toNat v = t) (hr : r.toNat < 0x800) (hl : listed r.toNat = true)
        (ha : accessOf r.toNat = .writable ∨ accessOf r.toNat = .privileged ∧ s.ctxAt s.myCtx = some c ∧ c.privileged = true)
        (hk : s.specialCheck r.toNat v = none) : writes r t :=
      hset ▸ mts_next hr ((special_isSome hctx _).trans hl) ha hk hp hc
    have hfree (r : BitVec 12) {t : State} (hset : s.setSpecial r.toNat v = t) (hl : listed r.toNat = true)
        (ha : accessOf r.toNat = .writable) (hr : r.toNat ≠ 0x043 ∧ r.toNat < 0x050) : writes r t :=
      hwrite r hset (by omega) hl (.inl ha) (specialCheck_none hr.1 hr.2 v)
    refine ⟨hfree _ hfpm (by decide) (by decide) (by decide), hfree _ hkey (by decide) (by decide) (by decide),
      hfree _ hctr (by decide) (by decide) (by decide), hfree _ hlimit (by decide) (by decide) (by decide),
      hfree _ hepc (by decide) (by decide) (by decide), fun hv => ?_, fun i hi => ?_, fun hpriv => ?_⟩
    · refine hwrite 0x043 hvec (by decide) (by decide) (.inl (by decide)) ?_
      exact if_neg (not_not.mpr ((fieldOf_low v 2).trans hv))
    · have hlt := i.isLt
      have hnum : (BitVec.ofNat 12 (0x050 + i)).toNat = 0x050 + i := Nat.mod_eq_of_lt (by omega)
      refine hwrite _ ((congrArg (s.setSpecial · v) hnum).trans (h.setSpecial_loop v hlt)) ?_ ?_ (.inl ?_) ?_
      all_goals rw [hnum]
      · omega
      · simp only [listed, Bool.or_eq_true, decide_eq_true_eq]
        omega
      · exact accessOf_loop hlt
      · exact h.specialCheck_loop hi
    · have hset (r : BitVec 12) {t : State} (hset : s.setSpecial r.toNat v = t) (hl : listed r.toNat = true)
          (ha : accessOf r.toNat = .privileged) (hr : r.toNat ≠ 0x043 ∧ r.toNat < 0x050) : writes r t :=
        hwrite r hset (by omega) hl (.inr ⟨ha, hctx, hpriv⟩) (specialCheck_none hr.1 hr.2 v)
      exact ⟨hset _ hslipth (by decide) (by decide) (by decide), hset _ hframelen (by decide) (by decide) (by decide),
        hset _ hbase (by decide) (by decide) (by decide), hset _ hcount (by decide) (by decide) (by decide)⟩
  · intro s n st a d c r h hd hctx refuses
    have hsome (hr : listed r.toNat = true) : (s.special r.toNat).isSome := (special_isSome hctx _).trans hr
    refine ⟨fun hr => ⟨mts_privilege hd hr, mfs_privilege hd hr⟩, fun hlo hhi => ?_, fun hr => ?_, fun hpriv hr => ?_⟩
    · exact ⟨mts_badName hd hhi (special_unlisted hctx hlo), mfs_badName hd hhi (special_unlisted hctx hlo)⟩
    · obtain ⟨hlt, hl, ha⟩ := readOnly_numbers r hr
      exact mts_readOnly hd hlt (hsome hl) ha
    · obtain ⟨hlt, hl, ha⟩ := privileged_numbers r hr
      exact mts_unprivileged hd hlt (hsome hl) ha hctx hpriv

end Sys2Proof.Machine
end

-- ==== Proofs: conductor words (O30) ====
section
/-! PROOF. PUSH, QFENCE, OVERLAY, LAUNCH and the swap of an overlay (O30). -/
namespace Sys2Proof.Machine

variable {s : State} {k g t : Nat}

/-- A trap in a conductor core leaves its word without effect. -/
theorem State.conducts.trap (h : s.conducts k) (c : Cause) (r : Rec) : s.trap c r = { s with verdict := .trapped c r } := by
  by_cases hd : s.slot.defer = true
  · exact State.trap_defer hd c r
  · simp only [State.trap, State.trapI, if_neg hd, h.1]

theorem State.conducts.waitsAt (h : s.conducts k) (sem : Option (Nat × Nat)) : s.waitsAt sem = { s with verdict := .waits sem } := by
  simp only [State.waitsAt, State.modMe, h.1]

/-! Control blocks (R265, R266). -/

/-- The bytes of a field of two. -/
theorem recF_two (b : List Byte) {o : Nat} (h : o + 2 ≤ b.length) : recF b o 1 = recF b o 2 % 256 ∧ recF b (o + 1) 1 = recF b o 2 / 256 := by
  obtain ⟨x, y, z, hz⟩ : ∃ x y z, b.drop o = x :: y :: z := by
    match hd : b.drop o with
    | [] | [_] =>
      have hl := congrArg List.length hd
      simp only [List.length_drop, List.length_nil, List.length_singleton] at hl
      omega
    | x :: y :: z => exact ⟨x, y, z, rfl⟩
  have hy : b.drop (o + 1) = y :: z := by rw [← List.drop_drop, hz]; rfl
  have hx := x.isLt
  simp only [recF, hz, hy, List.take_succ_cons, List.take_zero, leNat]
  omega

theorem ctlOf_fields {b : List Byte} {ctx run : Nat} {sfd : Bool} {c : Ctl} (hb : 8 ≤ b.length) (h : ctlOf b g t ctx run sfd = some c) :
    c.waitSem = recF b 4 1 ∧ c.waitThr = recF b 5 1 ∧ c.sigSem = recF b 6 1 ∧ c.sigInc = recF b 7 1 ∧ c.queued = false ∧
      c.kind = if sfd then 2 else 1 := by
  have hw := recF_two b (o := 4) (by omega)
  have hs := recF_two b (o := 6) (by omega)
  obtain ⟨hok, hv⟩ := Option.ite_none_right_eq_some.mp h
  simp only [Bool.and_eq_true, decide_eq_true_eq] at hok
  obtain ⟨⟨⟨⟨⟨⟨-, -⟩, hkind⟩, -⟩, -⟩, -⟩, -⟩ := hok
  cases hv
  exact ⟨hw.1.symm, hw.2.symm, hs.1.symm, hs.2.symm, rfl, hkind⟩

theorem blockAt_addBlock (s : State) (b : Block) (m : Nat) :
    (s.addBlock b).1.blockAt m = if m = s.work.nextBlock then some b else s.blockAt m := s.blockAt_setBlock s.work.nextBlock m (some b)

section
variable (h : s.conducts k)
include h

theorem push_full {d : BitVec 4} {q : BitVec 2} {cb : BitVec 16}
    (hf : Config.streamDepth ≤ (s.streamAt (streamNum d.toNat k q.toNat)).items.length) :
    exec (.push d q cb) s = .next { s with verdict := .waits none } := by
  change execPush d q cb s = _
  simp only [execPush, h.myCondNum, hf, if_true, h.waitsAt]

theorem push_next {d : BitVec 4} {q : BitVec 2} {cb : BitVec 16} {c : Ctl} (ht : (s.condAt k).task = some (g, t))
    (hf : (s.streamAt (streamNum d.toNat k q.toNat)).items.length < Config.streamDepth)
    (hc : ctlOf (s.recordBytes (64 * cb.toNat) 64) g t s.myCtx (s.condAt k).run (decide (d.toNat = sfd)) = some c) :
    exec (.push d q cb) s = .next (s.modStream (streamNum d.toNat k q.toNat) fun x => { x with items := x.items ++ [c] }).issued := by
  change execPush d q cb s = _
  simp only [execPush, h.myCondNum, if_neg (Nat.not_le.mpr hf), ht, Option.getD_some, hc]

theorem qfence_next (d m : BitVec 4) : exec (.qfence d m) s =
    .next (if (upto 4).any fun q => m.getLsbD q && s.owes k (streamNum d.toNat k q) then { s with verdict := .waits none } else s.issued) := by
  change execQfence d m s = _
  simp only [execQfence, h.myCondNum, h.waitsAt]

theorem qfence_free {d m : BitVec 4} (hq : ∀ q, q < 4 → m.getLsbD q = true →
      ∀ c ∈ (s.streamAt (streamNum d.toNat k q)).items, c.run ≠ (s.condAt k).run) : exec (.qfence d m) s = .next s.issued := by
  rw [qfence_next h, if_neg]
  rw [List.any_eq_true]
  rintro ⟨q, hlt, ho⟩
  simp only [Bool.and_eq_true, State.owes, List.any_eq_true, decide_eq_true_eq] at ho
  obtain ⟨hm, c, hc, hrun⟩ := ho
  exact hq q (List.mem_range.mp hlt) hm c hc hrun

theorem qfence_waits {d m : BitVec 4} {q : Nat} (hlt : q < 4) (hm : m.getLsbD q = true) {c : Ctl}
    (hc : c ∈ (s.streamAt (streamNum d.toNat k q)).items) (hrun : c.run = (s.condAt k).run) :
    exec (.qfence d m) s = .next { s with verdict := .waits none } := by
  have howes : s.owes k (streamNum d.toNat k q) = true := List.any_eq_true.mpr ⟨c, hc, decide_eq_true hrun⟩
  rw [qfence_next h, if_pos]
  exact List.any_eq_true.mpr ⟨q, List.mem_range.mpr hlt, by rw [hm, howes]; rfl⟩

theorem launch_misaligned {a : GReg} (ha : (s.g a).toNat % 256 ≠ 0) :
    exec (.launch a) s = .next { s with verdict := .trapped .alignment (Rec.addr (s.g a)) } := by
  change execLaunch a s = _
  simp only [execLaunch, if_pos ha, h.trap]

theorem launch_next {a : GReg} {l : LbRec} (ht : (s.condAt k).task = some (g, t)) (ha : (s.g a).toNat % 256 = 0)
    (hin : (s.g a).toNat + 256 ≤ 2 ^ 22) (hroom : s.work.generalUsed < Config.poolGeneral)
    (hl : lbOf (s.recordBytes (s.g a).toNat 256) (s.ctxRights s.myCtx).1 (s.ctxRights s.myCtx).2 false = some l)
    (hr : l.timetabled = true → l.release < s.time.framelen) :
    exec (.launch a) s = .next (((s.addBlock (s.newBlock s.myCtx g t .pool (s.g a) l)).1.modWork fun w =>
      { w with poolBlocks := w.poolBlocks ++ [s.work.nextBlock] }).issued) := by
  have htimed : ¬ (l.timetabled && decide (s.time.framelen ≤ l.release)) = true := by
    rw [Bool.and_eq_true, decide_eq_true_eq]
    exact fun hc => Nat.not_le.mpr (hr hc.1) hc.2
  change execLaunch a s = _
  simp only [execLaunch, h.myCondNum, ht, Option.getD_some, if_neg (not_not.mpr ha), if_neg (Nat.not_lt.mpr hin),
    if_neg (Nat.not_le.mpr hroom), hl, if_neg htimed]
  rfl

end

/-! The end of an overlay (R268). -/

theorem modTask_leaves (s : State) (g t : Nat) (f : Task → Task) :
    (s.modTask g t f).cores = s.cores ∧ (s.modTask g t f).mem = s.mem ∧ (s.modTask g t f).work.cond = s.work.cond := by
  unfold State.modTask State.modGraph
  split <;> exact ⟨rfl, rfl, rfl⟩

theorem taskAt_modTask_other {g' t' : Nat} (h : (g', t') ≠ (g, t)) (s : State) (f : Task → Task) :
    (s.modTask g t f).taskAt g' t' = s.taskAt g' t' := by
  by_cases hg : g' = g
  · subst hg
    rw [State.taskAt_modTask, if_neg fun ht => h (by rw [ht])]
  · have hgraph : (s.modTask g t f).graphAt g' = s.graphAt g' := by
      unfold State.modTask State.modGraph
      split
      · rw [State.graphAt_setGraph, if_neg hg]
      · rfl
    rw [State.taskAt, State.taskAt, hgraph]

theorem condAt_freeCond (s : State) (j m : Nat) :
    (s.freeCond j).condAt m = if m = j then { Conductor.init with run := (s.condAt j).run + 1 } else s.condAt m :=
  State.condAt_modCond s j m fun c => { Conductor.init with run := c.run + 1 }

theorem overlaySwap_next {j : Nat} (ht : (s.condAt j).task = some (g, t)) (hs : (s.condAt j).swapping = true)
    (hq : ∀ b, b < 36 → (s.condAt j).trailer.getLsbD b = true →
      ∀ c ∈ (s.streamAt (streamNum (b / 4) j (b % 4))).items, c.run ≠ (s.condAt j).run) :
    exec (.overlaySwap j) s = .next ((s.modTask g t fun x => { x with overlayDone := true }).freeCond j) := by
  have hall : ((upto 36).all fun b => !((s.condAt j).trailer.getLsbD b && s.owes j (streamNum (b / 4) j (b % 4)))) = true := by
    refine List.all_eq_true.mpr fun b hb => ?_
    have howes (hbit : (s.condAt j).trailer.getLsbD b = true) : s.owes j (streamNum (b / 4) j (b % 4)) = false :=
      List.any_eq_false.mpr fun c hc => by simpa using hq b (List.mem_range.mp hb) hbit c hc
    cases hbit : (s.condAt j).trailer.getLsbD b
    · rfl
    · rw [howes hbit]
      rfl
  change execOverlaySwap j s = _
  simp only [execOverlaySwap, ht, hs, hall, Bool.and_self, if_true]

/-- Settles O30: PUSH, QFENCE, OVERLAY and the swap; then LAUNCH. -/
theorem conductorWords : Obligations.ConductorWords := by
  unfold Obligations.ConductorWords
  refine ⟨?_, ?_⟩
  · intro s k h
    refine ⟨?_, fun d m => ⟨qfence_free h, fun q hlt hm ⟨c, hc, hrun⟩ => qfence_waits h hlt hm hc hrun⟩, ?_, ?_⟩
    · intro d q cb g t c ht i b
      have hat (j : Nat) := State.streamAt_modStream s i j fun x => { x with items := x.items ++ [c] }
      have hlen : b.length = 64 := tgets_length ..
      refine ⟨push_full h, fun hf hc => ?_⟩
      obtain ⟨hws, hwt, hss, hsi, hqueued, hkind⟩ := ctlOf_fields (by omega) hc
      refine ⟨hws, hwt, hss, hsi, hqueued, by simpa using hkind, _, push_next h ht hf hc, rfl, ?_, fun j hj => (hat j).trans (if_neg hj),
        rfl, rfl, rfl⟩
      exact congrArg Stream.items ((hat i).trans (if_pos rfl))
    · change execOverlay s = _
      rw [execOverlay, h.myCondNum]
      rfl
    · intro j g t x ht hs hx hq
      obtain ⟨hcores, hmem, hcond⟩ := modTask_leaves s g t fun x => { x with overlayDone := true }
      have hat (m : Nat) : (s.modTask g t fun x => { x with overlayDone := true }).condAt m = s.condAt m := by
        rw [State.condAt, hcond, State.condAt]
      refine ⟨_, overlaySwap_next ht hs hq, ?_, ?_, fun m hm => ?_, fun g' t' hg => ?_, hcores, hmem⟩
      · exact (State.taskAt_congr rfl g t).trans (State.taskAt_modTask_same hx _)
      · rw [condAt_freeCond, if_pos rfl, hat]
      · rw [condAt_freeCond, if_neg hm, hat]
      · exact (State.taskAt_congr rfl g' t').trans (taskAt_modTask_other hg s _)
  · intro s k a g t l h ht off
    have hat := blockAt_addBlock s (s.newBlock s.myCtx g t .pool off l)
    refine ⟨launch_misaligned h, fun ha hin hroom hl hr => ?_⟩
    refine ⟨_, _, launch_next h ht ha hin hroom hl hr, rfl, (hat _).trans (if_pos rfl), rfl, rfl, rfl, rfl, rfl, rfl, rfl, rfl,
      fun hd => if_pos hd, fun m hm => (hat m).trans (if_neg hm), rfl, rfl⟩

end Sys2Proof.Machine
end

-- ==== Proofs: control blocks (O31) ====
section
/-! PROOF. Control blocks are served on the control die, read at the head of their stream at the die, and completed (O31). -/
namespace Sys2Proof.Machine

variable {s : State} {k d q i n : Nat} {c : Ctl}

/-! The first element of a list that answers a test, with its place. -/

theorem find?_zipIdx {α : Type} {p : α → Bool} {l : List α} {x : α} (hx : l[n]? = some x) (hp : p x = true)
    (hbefore : ∀ j y, j < n → l[j]? = some y → p y = false) : (l.zipIdx.find? fun z => p z.1) = some (x, n) := by
  obtain ⟨hn, rfl⟩ := List.getElem?_eq_some_iff.mp hx
  refine List.find?_eq_some_iff_getElem.mpr ⟨hp, n, by rwa [List.length_zipIdx], by simp, fun j hj => ?_⟩
  simpa using hbefore j l[j] hj (List.getElem?_eq_getElem _)

theorem mapIdx_eq_set {α : Type} {l : List α} {x : α} (hx : l[n]? = some x) (f : α → α) :
    (l.mapIdx fun j y => if j = n then f y else y) = l.set n (f x) := by
  refine List.ext_getElem? fun j => ?_
  rw [List.getElem?_mapIdx, List.getElem?_set]
  by_cases hj : n = j
  · subst hj
    obtain ⟨hn, rfl⟩ := List.getElem?_eq_some_iff.mp hx
    simp [hn]
  · rw [if_neg hj]
    cases l[j]? <;> simp [Ne.symm hj]

theorem modItem_items (hc : (s.streamAt i).items[n]? = some c) (f : Ctl → Ctl) :
    ((s.modItem i n f).streamAt i).items = (s.streamAt i).items.set n (f c) := by
  have hat := State.streamAt_modStream s i i fun x => { x with items := x.items.mapIdx fun j c => if j = n then f c else c }
  exact (congrArg Stream.items (hat.trans (if_pos rfl))).trans (mapIdx_eq_set hc f)

/-! What a control block waits for (R151, R266). -/

theorem serveCtl_items (hc : (s.streamAt i).items[n]? = some c)
    (hw : c.waitThr = 0 ∨ (s.condAt k).sync.ready c.waitSem c.waitThr (.engine i) = true) :
    ((s.serveCtl k i n c).streamAt i).items = (s.streamAt i).items.set n { c with queued := true } := by
  unfold State.serveCtl
  by_cases h0 : c.waitThr = 0
  · simp only [if_pos h0]
    exact modItem_items hc _
  · simp only [if_neg h0, hw.resolve_left h0, if_true]
    exact modItem_items hc _

theorem serveCtl_sem (hw : c.waitThr = 0 ∨ (s.condAt k).sync.ready c.waitSem c.waitThr (.engine i) = true) (m : Nat) :
    (((s.serveCtl k i n c).condAt k).sync.sem m).count =
      ((s.condAt k).sync.sem m).count - if m = c.waitSem then c.waitThr else 0 := by
  unfold State.serveCtl
  by_cases h0 : c.waitThr = 0
  · simp only [h0, if_true, ite_self, Nat.sub_zero]
    rfl
  · simp only [if_neg h0, hw.resolve_left h0, if_true]
    have hat := State.condAt_modCond s k k fun x => { x with sync := x.sync.take c.waitSem c.waitThr (.engine i) }
    refine (congrArg (fun x : Conductor => (x.sync.sem m).count) (hat.trans (if_pos rfl))).trans ?_
    rw [Sync.sem_take]
    by_cases hm : m = c.waitSem
    · rw [if_pos hm, if_pos hm, hm]
    · rw [if_neg hm, if_neg hm]
      rfl

theorem serveCtl_leaves (s : State) (k i n : Nat) (c : Ctl) :
    (s.serveCtl k i n c).work.blocks = s.work.blocks ∧ (s.serveCtl k i n c).mem = s.mem := by
  unfold State.serveCtl
  dsimp only
  split_ifs <;> exact ⟨rfl, rfl⟩

section
variable (hk : k < 16) (hd : d < 9) (hq : q < 4) (hr : s.condReaches k d = true)
include hk hd hq hr

theorem stream_reached : (decide (15 < k) || decide (8 < d) || decide (3 < q) || !s.condReaches k d) = false := by
  rw [hr, decide_eq_false (by omega), decide_eq_false (by omega), decide_eq_false (by omega)]
  rfl

/-- With nothing to read at the die, the first block that is not in the die queue is served. -/
theorem controlBlockHead_serves {y : Ctl} {m : Nat} (hc : (s.streamAt (streamNum d k q)).items[n]? = some c) (hqueued : c.queued = false)
    (hbefore : ∀ j y, j < n → (s.streamAt (streamNum d k q)).items[j]? = some y → y.queued = true)
    (hy : s.dieHead (streamNum d k q) = some (y, m)) (hread : y.queued = true → y.kind = 1 → y.block.isSome = true) :
    exec (.controlBlockHead k d q) s = .next (s.serveCtl k (streamNum d k q) n c) := by
  have hfirst := find?_zipIdx (p := fun x : Ctl => !x.queued) hc (by simp [hqueued]) fun j y hj hl => by simp [hbefore j y hj hl]
  have hopen : (y.queued && decide (y.kind = 1) && y.block.isNone) = false := by
    rw [Bool.eq_false_iff]
    simp only [ne_eq, Bool.and_eq_true, decide_eq_true_eq, Option.isNone_iff_eq_none, not_and, and_imp]
    exact fun h1 h2 h3 => by simpa [h3] using hread h1 h2
  change execControlBlockHead k d q s = _
  simp only [execControlBlockHead, stream_reached hk hd hq hr, Bool.false_eq_true, if_false, hy, hopen, hfirst]

theorem controlBlockHead_reads (hy : s.dieHead (streamNum d k q) = some (c, n)) (hqueued : c.queued = true) (hkind : c.kind = 1)
    (hblock : c.block = none) : exec (.controlBlockHead k d q) s = .next (s.readCtl k d (streamNum d k q) n c) := by
  change execControlBlockHead k d q s = _
  simp only [execControlBlockHead, stream_reached hk hd hq hr, Bool.false_eq_true, if_false, hy, hqueued, hkind, hblock, decide_true,
    Option.isNone_none, Bool.and_self, if_true]

/-- The first block whose work is done completes. -/
theorem controlBlockComplete_next (hc : (s.streamAt (streamNum d k q)).items[n]? = some c) (hready : s.ctlReady c = true)
    (hbefore : ∀ j y, j < n → (s.streamAt (streamNum d k q)).items[j]? = some y → s.ctlReady y = false) :
    exec (.controlBlockComplete k d q) s = .next (if c.kind = 1 then s.ctlDone k (streamNum d k q) n c
      else s.runCtl k (streamNum d k q) n c) := by
  have hfirst := find?_zipIdx (p := s.ctlReady) hc hready hbefore
  change execControlBlockComplete k d q s = _
  simp only [execControlBlockComplete, stream_reached hk hd hq hr, Bool.false_eq_true, if_false, hfirst]

end

/-! The launch block of a control block (R34, R75, R273). -/

/-- The frame that a block joins, where it is timetabled and its unit not parked. -/
def State.joins (s : State) (b : Block) (t : Nat) : Option Nat :=
  if b.lb.timetabled = true ∧ s.unitParked b.ctx b.graph b.task = false then some (s.frameFor b.lb.release t) else b.frame

theorem joinFrame_leaves (s : State) (b t : Nat) :
    (s.joinFrame b t).mem = s.mem ∧ (s.joinFrame b t).work.streams = s.work.streams := by
  unfold State.joinFrame
  split
  · split <;> exact ⟨rfl, rfl⟩
  · exact ⟨rfl, rfl⟩

theorem joinFrame_block {b : Nat} {x : Block} (h : s.blockAt b = some x) (t : Nat) :
    ∃ r, (s.joinFrame b t).blockAt b = some { x with frame := s.joins x t, released := r } := by
  unfold State.joinFrame State.joins
  simp only [h]
  by_cases hj : x.lb.timetabled = true ∧ s.unitParked x.ctx x.graph x.task = false
  · obtain ⟨ht, hp⟩ := hj
    simp only [ht, hp, Bool.not_false, Bool.and_self, if_true, and_self]
    exact ⟨false, State.blockAt_setBlock_same ..⟩
  · rw [if_neg hj, if_neg (by simpa using hj)]
    exact ⟨x.released, h⟩

theorem readCtl_next {l : LbRec} (hl : lbOf (s.recordBytes c.target.toNat 256) (s.ctxRights c.ctx).1 (s.ctxRights c.ctx).2 true = some l)
    (hr : l.timetabled = true → l.release < s.time.framelen) :
    s.readCtl k d i n c =
      ((s.addBlock (s.newBlock c.ctx c.graph c.task (.queue i) c.target l)).1.joinFrame s.work.nextBlock (s.pt d)).modItem i n
        fun c => { c with block := some s.work.nextBlock } := by
  have htimed : ¬ (l.timetabled && decide (s.time.framelen ≤ l.release)) = true := by
    rw [Bool.and_eq_true, decide_eq_true_eq]
    exact fun hc => Nat.not_le.mpr (hr hc.1) hc.2
  simp only [State.readCtl, hl, if_neg htimed]
  rfl

/-! The end of a control block (R266). -/

theorem ctlSignal_next (hrun : (s.condAt k).run = c.run) (htask : (s.condAt k).task = some (c.graph, c.task))
    (hp : ((s.condAt k).sync.sem c.sigSem).poisoned = false) (hf : ((s.condAt k).sync.sem c.sigSem).count + c.sigInc ≤ 65535) :
    s.ctlSignal k c = if c.sigInc = 0 then s else s.modCond k fun x =>
      { x with sync := (s.condAt k).sync.setSem c.sigSem ⟨((s.condAt k).sync.sem c.sigSem).count + c.sigInc, false⟩ } := by
  have hpost := Sync.post_fits hp hf
  rw [hp] at hpost
  by_cases h0 : c.sigInc = 0
  · simp [State.ctlSignal, h0]
  · simp [State.ctlSignal, hrun, htask, h0, hpost]

/-- A control block has left its stream, and not yet performed its signal. -/
def State.ctlLeft (s : State) (k i n : Nat) : State :=
  ((s.endFrameWait (.stream i)).modCond k fun x => { x with sync := x.sync.leave (.engine i) }).modStream i fun x =>
    { x with items := x.items.eraseIdx n }

theorem ctlLeft_leaves (s : State) (k i n : Nat) : ((s.ctlLeft k i n).streamAt i).items = (s.streamAt i).items.eraseIdx n ∧
    (s.ctlLeft k i n).condAt k = { s.condAt k with sync := (s.condAt k).sync.leave (.engine i) } ∧
    { (s.ctlLeft k i n).mem with frameWaits := s.mem.frameWaits } = s.mem := by
  refine ⟨?_, ?_, rfl⟩
  · exact congrArg Stream.items ((State.streamAt_modStream _ i i fun x => { x with items := x.items.eraseIdx n }).trans (if_pos rfl))
  · exact (State.condAt_modCond (s.endFrameWait (.stream i)) k k fun x => { x with sync := x.sync.leave (.engine i) }).trans (if_pos rfl)

/-- A control block that completes for the run that pushed it leaves its stream and performs its signal. -/
theorem ctlDone_completes (n : Nat) (hrun : (s.condAt k).run = c.run) (htask : (s.condAt k).task = some (c.graph, c.task))
    (hp : ((s.condAt k).sync.sem c.sigSem).poisoned = false) (hf : ((s.condAt k).sync.sem c.sigSem).count + c.sigInc ≤ 65535) :
    ((s.ctlDone k i n c).streamAt i).items = (s.streamAt i).items.eraseIdx n ∧
    (∀ m, (((s.ctlDone k i n c).condAt k).sync.sem m).count = ((s.condAt k).sync.sem m).count + if m = c.sigSem then c.sigInc else 0) ∧
    { (s.ctlDone k i n c).mem with frameWaits := s.mem.frameWaits } = s.mem := by
  obtain ⟨hstream, hcond, hmem⟩ := ctlLeft_leaves s k i n
  have hsem (m : Nat) : ((s.ctlLeft k i n).condAt k).sync.sem m = ((s.condAt k).sync.sem m) := by rw [hcond]; rfl
  have hdone : s.ctlDone k i n c = _ := ctlSignal_next (s := s.ctlLeft k i n) (c := c) (by rw [hcond]; exact hrun) (by rw [hcond]; exact htask)
    (by rw [hsem]; exact hp) (by rw [hsem]; exact hf)
  by_cases h0 : c.sigInc = 0
  · rw [if_pos h0] at hdone
    rw [hdone, h0]
    exact ⟨hstream, fun m => by rw [hsem, ite_self, Nat.add_zero], hmem⟩
  · rw [if_neg h0] at hdone
    rw [hdone]
    refine ⟨hstream, fun m => ?_, hmem⟩
    rw [State.condAt_modCond, if_pos rfl]
    dsimp only
    rw [Sync.sem_setSem, hsem, hsem]
    by_cases hm : m = c.sigSem
    · rw [if_pos hm, if_pos hm, hm]
    · rw [if_neg hm, if_neg hm, Nat.add_zero]

/-- Settles O31: the wait served, the launch block read, and the two ways in which a control block completes. -/
theorem controlBlocks : Obligations.ControlBlocks := by
  unfold Obligations.ControlBlocks
  intro s k d q n c hk hd hq hr i items same hc
  refine ⟨fun hqueued hbefore y m hy hread hw => ?_, fun l hy hqueued hkind hblock hl htimed => ?_,
    ?_⟩
  · obtain ⟨hblocks, hmem⟩ := serveCtl_leaves s k i n c
    exact ⟨_, controlBlockHead_serves hk hd hq hr hc hqueued hbefore hy hread, serveCtl_items hc hw, serveCtl_sem hw, hblocks, hmem⟩
  · let s1 := (s.addBlock (s.newBlock c.ctx c.graph c.task (.queue i) c.target l)).1
    obtain ⟨hmem, hstreams⟩ := joinFrame_leaves s1 s.work.nextBlock (s.pt d)
    have hnew : s1.blockAt s.work.nextBlock = some (s.newBlock c.ctx c.graph c.task (.queue i) c.target l) :=
      (blockAt_addBlock ..).trans (if_pos rfl)
    obtain ⟨r, hb⟩ := joinFrame_block hnew (s.pt d)
    have hat (j : Nat) : (s1.joinFrame s.work.nextBlock (s.pt d)).streamAt j = s.streamAt j := by
      rw [State.streamAt, hstreams]
      rfl
    have hitem : ((s1.joinFrame s.work.nextBlock (s.pt d)).streamAt i).items[n]? = some c := by rwa [hat]
    have hexec := controlBlockHead_reads hk hd hq hr hy hqueued hkind hblock
    rw [readCtl_next hl htimed] at hexec
    refine ⟨_, _, hexec, hb, rfl, rfl, rfl, rfl, rfl, rfl, ?_, fun j hj => ?_, ?_⟩
    · rw [modItem_items hitem, hat]
    · exact ((State.streamAt_modStream _ i j _).trans (if_neg hj)).trans (hat j)
    · exact hmem
  · intro hqueued hbefore hrun htask hp hf signals
    refine ⟨fun b hkind hblock hgone => ?_, fun s' hkind hjob hdone hwork => ?_⟩
    · have hready : s.ctlReady c = true := by simp [State.ctlReady, hqueued, hkind, hblock, hgone]
      refine ⟨_, controlBlockComplete_next hk hd hq hr hc hready hbefore, ?_⟩
      rw [if_pos hkind]
      exact ctlDone_completes n hrun htask hp hf
    · have hready : s.ctlReady c = true := by simp [State.ctlReady, hqueued, hkind, hjob]
      have hcond : s'.condAt k = s.condAt k := by rw [State.condAt, hwork]; rfl
      have hstream : s'.streamAt i = s.streamAt i := by rw [State.streamAt, hwork]; rfl
      have hrunCtl : s.runCtl k i n c = s'.ctlDone k i n c := by simp only [State.runCtl, hdone]
      refine ⟨_, controlBlockComplete_next hk hd hq hr hc hready hbefore, ?_⟩
      rw [if_neg (by rw [hkind]; decide), hrunCtl]
      have hdoneAt := ctlDone_completes (s := s') (k := k) (i := i) n (hcond ▸ hrun) (hcond ▸ htask) (hcond ▸ hp) (hcond ▸ hf)
      rwa [hcond, hstream] at hdoneAt

end Sys2Proof.Machine
end

-- ==== Proofs: segments of copies, and what engine commands leave of a state (O28, O29) ====
section
/-! PROOF. Commands of a queue changed in place, signals performed, commands completed, and segments moved within a scratchpad: what
chains (O29) and completions (O28) share. -/
namespace Sys2Proof.Machine

variable {s : State} {c : Core} {core q : Nat} {x : Cmd}

/-! A command changed in its queue. -/

theorem queue_setQueue (c : Core) (q r : Nat) (l : List Cmd) : (c.setQueue q l).queue r = if r = q then l else c.queue r := tget_tset ..

theorem queue_modCmd (c : Core) (q r id : Nat) (f : Cmd → Cmd) :
    (c.modCmd q id f).queue r = if r = q then (c.queue q).map fun z => if z.id = id then f z else z else c.queue r := queue_setQueue ..

theorem find?_modCmd {p : Cmd → Bool} {f : Cmd → Cmd} (hf : ∀ z, p (f z) = p z) (h : (c.queue q).find? p = some x) :
    ((c.modCmd q x.id f).queue q).find? p = some (f x) := by
  have hp : (fun z : Cmd => p (if z.id = x.id then f z else z)) = p := by
    funext z
    split
    · exact hf z
    · rfl
  rw [queue_modCmd, if_pos rfl, List.find?_map, Function.comp_def, hp, h, Option.map_some, if_pos rfl]

/-! A signal performed (R151). -/

theorem signal_fits (f : FaultAt) {i n : Nat} (hp : ((s.coreAt core).sem i).poisoned = false)
    (hf : ((s.coreAt core).sem i).count + n ≤ 65535) : s.signal core f (some (i, n)) = s.modCore core fun x =>
      { x with sync := (s.coreAt core).sync.setSem i ⟨((s.coreAt core).sem i).count + n, false⟩ } := by
  have hpost : (s.coreAt core).sync.post i n = some ((s.coreAt core).sync.setSem i ⟨((s.coreAt core).sem i).count + n, false⟩) := by
    have h := Sync.post_fits (c := (s.coreAt core).sync) hp hf
    rwa [show ((s.coreAt core).sync.sem i).poisoned = false from hp] at h
  simp only [State.signal, hpost]

/-- A signal that its semaphore holds adds to its count, and changes nothing else. -/
theorem signal_counts (f : FaultAt) {i n : Nat} (hp : ((s.coreAt core).sem i).poisoned = false)
    (hf : ((s.coreAt core).sem i).count + n ≤ 65535) : ∃ y, let u := s.signal core f (some (i, n))
    { u with cores := s.cores } = s ∧ u.coreAt core = { s.coreAt core with sync := y } ∧ (∀ m, m ≠ core → u.coreAt m = s.coreAt m) ∧
    ∀ k, (y.sem k).count = ((s.coreAt core).sem k).count + if k = i then n else 0 := by
  refine ⟨(s.coreAt core).sync.setSem i ⟨((s.coreAt core).sem i).count + n, false⟩, ?_⟩
  intro u
  have hu := signal_fits f hp hf
  have hat (m : Nat) := State.coreAt_modCore s core m fun x =>
    { x with sync := (s.coreAt core).sync.setSem i ⟨((s.coreAt core).sem i).count + n, false⟩ }
  rw [← hu] at hat
  refine ⟨by rw [show u = _ from hu]; rfl, (hat core).trans (if_pos rfl), fun m hm => (hat m).trans (if_neg hm), fun k => ?_⟩
  rw [Sync.sem_setSem]
  by_cases hk : k = i
  · rw [if_pos hk, if_pos hk, hk]
  · rw [if_neg hk, if_neg hk]
    rfl

/-! A command completed (R236, R251). -/

/-- From s to u no part of the package changes but cores, caches, the flags of waits for frames, and the RELs of strands. -/
structure State.SameBut (s u : State) : Prop where
  rest : { u with cores := s.cores, mem := s.mem, strands := s.strands } = s
  bytes : u.mem.bytes = s.mem.bytes

theorem State.SameBut.trans {a b c : State} (h : a.SameBut b) (k : b.SameBut c) : a.SameBut c where
  rest := by
    obtain ⟨hrest, -⟩ := h
    obtain ⟨krest, -⟩ := k
    rw [← hrest, ← krest]
  bytes := k.bytes.trans h.bytes

theorem State.SameBut.refl (s : State) : s.SameBut s := ⟨rfl, rfl⟩

theorem State.SameBut.modCore (s : State) (core : Nat) (f : Core → Core) : s.SameBut (s.modCore core f) := ⟨rfl, rfl⟩

theorem State.SameBut.endFrameWait (s : State) (u : FrameUser) : s.SameBut (s.endFrameWait u) := ⟨rfl, rfl⟩

theorem State.SameBut.noteHead (s : State) (core : Nat) : s.SameBut (s.noteHead core) := by
  unfold State.noteHead
  split
  · exact .refl s
  · dsimp only
    split
    · exact .modCore ..
    · exact .refl s

theorem State.SameBut.settleRels (s : State) (n : Nat) : s.SameBut (s.settleRels n) := by
  cases h : s.strandAt n with
  | none => rw [show s.settleRels n = s by simp only [State.settleRels, h]]; exact .refl s
  | some st =>
    obtain ⟨hsame, ⟨w, c, r, hmem⟩, -⟩ := settleRels_leaves h
    exact ⟨congrArg (fun t : State => { t with cores := s.cores }) hsame, by rw [hmem]⟩

theorem State.SameBut.signal (f : FaultAt) {sig : Option (Nat × Nat)} (h : ∀ i k, sig = some (i, k) →
    ((s.coreAt core).sem i).poisoned = true ∨ ((s.coreAt core).sem i).count + k ≤ 65535) : s.SameBut (s.signal core f sig) := by
  cases sig with
  | none => exact .refl s
  | some p =>
    obtain ⟨i, k⟩ := p
    cases hp : ((s.coreAt core).sem i).poisoned with
    | true =>
      have hpost : (s.coreAt core).sync.post i k = some (s.coreAt core).sync := if_pos hp
      simp only [State.signal, hpost]
      exact .modCore ..
    | false =>
      rw [signal_fits f hp ((h i k rfl).resolve_left (by rw [hp]; exact Bool.false_ne_true))]
      exact .modCore ..

theorem State.SameBut.completeCmd (q : Nat) (h : s.signalFits core x) : s.SameBut (s.completeCmd core q x) := by
  obtain ⟨-, hsem, -⟩ := dropped_leaves s core q x
  have hdrop : s.SameBut (s.dropped core q x) :=
    ((State.SameBut.endFrameWait s _).trans (.modCore _ core _)).trans (.noteHead _ core)
  refine State.SameBut.trans ?_ (.settleRels _ _)
  change s.SameBut (if x.discard then s.dropped core q x else (s.dropped core q x).signal core (s.faultOfCmd core q x) x.sig)
  split
  · exact hdrop
  · next hx => exact hdrop.trans (.signal _ fun i k hik => by rw [hsem]; exact h.resolve_left hx i k hik)

/-! Segments moved within a scratchpad (R256, R257). -/

/-- The byte of a scratchpad at which a segment is read, or written. -/
def Move.reads (m : Move) (k : Nat) : Nat := (m.at_ m.src m.sstride k).toNat % 2 ^ 21
def Move.writes (m : Move) (k : Nat) : Nat := (m.at_ m.dst m.dstride k).toNat % 2 ^ 21

/-- The bytes of a segment of a fill. -/
def fillBytes (v : W64) : List Byte := (List.replicate 8 (leBytes 8 v.toNat)).flatten

/-- A segment moved within a scratchpad. -/
def Core.copySeg (c : Core) (ctx : Nat) (m : Move) (k : Nat) : Core :=
  let x := if m.fill then (fillBytes m.src, false) else c.spmRead (m.reads k) 64
  c.spmWrite ctx (m.writes k) (whole x.1) x.2

/-- Segments moved within a scratchpad, n of them from number k. -/
def Core.copySegs (c : Core) (ctx : Nat) (m : Move) : Nat → Nat → Core
  | 0, _ => c
  | n + 1, k => (c.copySeg ctx m k).copySegs ctx m n (k + 1)

/-- Whatever segments are moved, a core keeps all but its scratchpad. -/
theorem copySegs_rest (ctx : Nat) (m : Move) (n k : Nat) :
    { c.copySegs ctx m n k with spm := c.spm, spmTag := c.spmTag, spmOwner := c.spmOwner } = c := by
  induction n generalizing c k with
  | zero => rfl
  | succ n ih =>
    have h := ih (c := c.copySeg ctx m k) (k + 1)
    exact congrArg (fun d : Core => { d with spm := c.spm, spmTag := c.spmTag, spmOwner := c.spmOwner }) h

theorem local_sides {m : Move} (h : m.global = false) : m.dkind = true ∧ (m.fill = false → m.skind = true) := by
  cases hd : m.dkind <;> cases hf : m.fill <;> cases hs : m.skind <;> simp_all [Move.global]

/-- A segment within a scratchpad neither faults nor waits. -/
theorem segment_local {m : Move} (h : m.global = false) (s : State) (core ctx k : Nat) :
    (s.segRead core ctx m k).andThen (fun x s => s.segWrite core ctx m k x.1 x.2) = .ok () (s.modCore core (·.copySeg ctx m k)) := by
  obtain ⟨hd, hs⟩ := local_sides h
  by_cases hf : m.fill = true
  · simp only [State.segRead, State.segWrite, Res.andThen, Core.copySeg, hf, hd, if_true]
    rfl
  · have hskind := hs (Bool.eq_false_iff.mpr hf)
    simp only [State.segRead, State.segWrite, Res.andThen, Core.copySeg, hf, hd, hskind, if_true]
    rfl

/-- Segments within a scratchpad are all moved, and change that scratchpad alone. -/
theorem moveSegs_local {m : Move} (h : m.global = false) (s : State) (core ctx n k : Nat) :
    let r := s.moveSegs core ctx m n k
    r.fault = none ∧ r.waits = false ∧ r.next = k + n ∧ { r.s with cores := s.cores } = s ∧
      r.s.coreAt core = (s.coreAt core).copySegs ctx m n k ∧ ∀ j, j ≠ core → r.s.coreAt j = s.coreAt j := by
  induction n generalizing s k with
  | zero => exact ⟨rfl, rfl, rfl, rfl, rfl, fun _ _ => rfl⟩
  | succ n ih =>
    have hstep : s.moveSegs core ctx m (n + 1) k = (s.modCore core (·.copySeg ctx m k)).moveSegs core ctx m n (k + 1) := by
      rw [State.moveSegs, segment_local h]
    have hat (j : Nat) := State.coreAt_modCore s core j (·.copySeg ctx m k)
    obtain ⟨hfault, hwaits, hnext, hrest, hcore, hother⟩ := ih (s.modCore core (·.copySeg ctx m k)) (k + 1)
    rw [← hstep] at hfault hwaits hnext hrest hcore hother
    refine ⟨hfault, hwaits, by rw [hnext]; omega, ?_, ?_, fun j hj => (hother j hj).trans ((hat j).trans (if_neg hj))⟩
    · exact congrArg (fun t : State => { t with cores := s.cores }) hrest
    · rw [hcore, hat, if_pos rfl, Core.copySegs]

/-- Bytes written to a scratchpad stand there, and beside them every byte is as it was. -/
theorem spmWrite_byte (c : Core) (ctx a : Nat) (bs : List Byte) (tag : Bool) (p : Nat) :
    tget 0 (c.spmWrite ctx a (whole bs) tag).spm p = if a ≤ p ∧ p < a + bs.length then (bs[p - a]?).getD 0 else tget 0 c.spm p := by
  by_cases hp : a ≤ p ∧ p < a + bs.length
  · obtain ⟨k, rfl⟩ : ∃ k, p = a + k := ⟨p - a, by omega⟩
    have hk : k < bs.length := by omega
    rw [spmWrite_spm c ctx a bs tag (List.getElem?_eq_getElem hk), if_pos hp, Nat.add_sub_cancel_left, List.getElem?_eq_getElem hk,
      Option.getD_some]
  · rw [if_neg hp]
    refine (tget_putBytes (whole bs) c.spm a p).trans ?_
    by_cases h : a ≤ p
    · rw [if_pos h, List.getElem?_eq_none (by rw [whole, List.length_map]; omega)]
      rfl
    · rw [if_neg h]

theorem fillBytes_length (v : W64) : (fillBytes v).length = 64 := by simp [fillBytes, leBytes_length]

theorem fillBytes_getElem? (v : W64) {j : Nat} (hj : j < 64) : (fillBytes v)[j]? = some (BitVec.ofNat 8 (v.toNat / 256 ^ (j % 8))) := by
  have hflat : fillBytes v = (List.range 64).map fun j => BitVec.ofNat 8 (v.toNat / 256 ^ (j % 8)) := by
    have h8 : leBytes 8 v.toNat = (List.range 8).map fun j => BitVec.ofNat 8 (v.toNat / 256 ^ j) := by
      refine List.ext_getElem? fun i => ?_
      rw [getElem?_leBytes, List.getElem?_map]
      by_cases hi : i < 8
      · rw [if_pos hi, List.getElem?_range hi, Option.map_some]
      · rw [if_neg hi, List.getElem?_eq_none (by rw [List.length_range]; omega), Option.map_none]
    rw [fillBytes, h8]
    rfl
  rw [hflat, List.getElem?_map, List.getElem?_range hj, Option.map_some]

theorem copySeg_byte (c : Core) (ctx : Nat) (m : Move) (k p : Nat) : tget 0 (c.copySeg ctx m k).spm p =
    if m.writes k ≤ p ∧ p < m.writes k + 64 then (if m.fill then BitVec.ofNat 8 (m.src.toNat / 256 ^ ((p - m.writes k) % 8))
      else tget 0 c.spm (m.reads k + (p - m.writes k))) else tget 0 c.spm p := by
  have hlen : (if m.fill then (fillBytes m.src, false) else c.spmRead (m.reads k) 64).1.length = 64 := by
    split
    · exact fillBytes_length _
    · exact tgets_length ..
  rw [Core.copySeg, spmWrite_byte, hlen]
  refine if_ctx_congr Iff.rfl (fun hp => ?_) fun _ => rfl
  by_cases hf : m.fill = true
  · rw [if_pos hf, if_pos hf, fillBytes_getElem? _ (by omega), Option.getD_some]
  · rw [if_neg hf, if_neg hf, Core.spmRead, getElem?_tgets, if_pos (by omega), Option.getD_some]

/-- Bytes that no segment writes stay as they are. -/
theorem copySegs_outside (c : Core) (ctx : Nat) (m : Move) {n k p : Nat}
    (h : ∀ i, k ≤ i → i < k + n → ¬ (m.writes i ≤ p ∧ p < m.writes i + 64)) : tget 0 (c.copySegs ctx m n k).spm p = tget 0 c.spm p := by
  induction n generalizing c k with
  | zero => rfl
  | succ n ih =>
    rw [Core.copySegs, ih _ fun i hi hi' => h i (by omega) (by omega), copySeg_byte, if_neg (h k (Nat.le_refl k) (by omega))]

/-! Where segments stand (R256). -/

theorem dvd_add_word {x y : W64} (hx : 64 ∣ x.toNat) (hy : 64 ∣ y.toNat) : 64 ∣ (x + y).toNat := by
  rw [BitVec.toNat_add]
  omega

theorem at_aligned {m : Move} {a : W64} {stride : Int} (ha : a.toNat % 64 = 0) (hb : m.rowBytes % 64 = 0) (hs : stride % 64 = 0) (k : Nat) :
    (m.at_ a stride k).toNat % 64 = 0 := by
  refine Nat.mod_eq_zero_of_dvd (dvd_add_word (dvd_add_word (Nat.dvd_of_mod_eq_zero ha) ?_) ?_)
  · have hd : (64 : Int) ∣ (k * 64 / m.rowBytes : Nat) * stride := Dvd.dvd.mul_left (Int.dvd_of_emod_eq_zero hs) _
    rw [wrap64, BitVec.toNat_ofInt]
    omega
  · have hd : 64 ∣ k * 64 % m.rowBytes := (Nat.dvd_mod_iff (Nat.dvd_of_mod_eq_zero hb)).mpr (Nat.dvd_mul_left 64 k)
    rw [BitVec.toNat_ofNat]
    omega

theorem misaligned_none {m : Move} (h : m.misaligned = none) :
    (m.fill = false → m.src.toNat % 64 = 0 ∧ m.sstride % 64 = 0) ∧ m.dst.toNat % 64 = 0 ∧ m.rowBytes % 64 = 0 ∧ m.dstride % 64 = 0 := by
  unfold Move.misaligned at h
  split_ifs at h with h1 h2 h3
  cases hf : m.fill <;> simp_all

theorem writes_aligned {m : Move} (h : m.misaligned = none) (k : Nat) : m.writes k % 64 = 0 := by
  obtain ⟨-, hd, hb, hs⟩ := misaligned_none h
  have := at_aligned hd hb hs k
  rw [Move.writes]
  omega

/-- A row that holds the value of a fill keeps it. -/
theorem fillSegs_keep {m : Move} (hf : m.fill = true) (ha : m.misaligned = none) {a j : Nat} (hA : a % 64 = 0) (hj : j < 64) (c : Core)
    (ctx n k : Nat) (h : tget 0 c.spm (a + j) = BitVec.ofNat 8 (m.src.toNat / 256 ^ (j % 8))) :
    tget 0 (c.copySegs ctx m n k).spm (a + j) = BitVec.ofNat 8 (m.src.toNat / 256 ^ (j % 8)) := by
  induction n generalizing c k with
  | zero => exact h
  | succ n ih =>
    refine ih _ _ ?_
    rw [copySeg_byte]
    split
    · next hp =>
      have hw := writes_aligned ha k
      rw [show a + j - m.writes k = j by omega]
    · exact h

/-- A fill leaves its value in every eight bytes of each of its segments. -/
theorem fillSegs_inside {m : Move} (hf : m.fill = true) (ha : m.misaligned = none) (c : Core) (ctx : Nat) {n k i j : Nat} (hk : k ≤ i)
    (hi : i < k + n) (hj : j < 64) :
    tget 0 (c.copySegs ctx m n k).spm (m.writes i + j) = BitVec.ofNat 8 (m.src.toNat / 256 ^ (j % 8)) := by
  induction n generalizing c k with
  | zero => omega
  | succ n ih =>
    by_cases hik : i = k
    · subst hik
      refine fillSegs_keep hf ha (writes_aligned ha i) hj _ ctx n _ ?_
      rw [copySeg_byte, if_pos (by omega), if_pos hf, Nat.add_sub_cancel_left]
    · exact ih _ (by omega) (by omega)

end Sys2Proof.Machine
end

-- ==== Proofs: chains (O29) ====
section
/-! PROOF. What a CHAIN performs at the record that its walk has reached (O29). -/
namespace Sys2Proof.Machine

variable {s : State} {core q : Nat} {x : Cmd} {y : Chain} {r : ChainRec}

/-- The walk of a chain has come to a record in its window, and goes on (R251, R259). -/
structure Walks (s : State) (core q : Nat) (x : Cmd) (y : Chain) : Prop where
  walking : ((s.coreAt core).queue (1 + q)).find? (fun z => z.started && !z.failed) = some x
  chain : x.chain = some y
  live : x.discard = false
  runs : s.frozen x.tt = false
  short : y.count < Config.chainLimit
  lo : x.spmBase ≤ y.at_.toNat
  hi : y.at_.toNat + 64 ≤ x.spmBase + x.spmLen

/-- The record that the walk has come to. -/
def State.record (s : State) (core : Nat) (y : Chain) : List Byte := y.copying.getD ((s.coreAt core).spmRead y.at_.toNat 64).1

theorem Walks.step (h : Walks s core q x y) (hr : chainRec (s.record core y) = some r) (k : Cmd → Chain → ChainRec → State) :
    s.chainStep core q k = k x y r := by
  have hwalk : (s.coreAt core).walking q = some (x, y) := by
    simp only [Core.walking, h.walking, h.chain, Option.map_some]
  have hin : inWindow x.spmBase x.spmLen y.at_.toNat 64 = true := by
    rw [inWindow, decide_eq_true h.lo, decide_eq_true h.hi, Bool.and_self]
  have hrec : chainRec (y.copying.getD ((s.coreAt core).spmRead y.at_.toNat 64).1) = some r := hr
  simp only [State.chainStep, hwalk, h.live, h.runs, Bool.or_self, Bool.false_and, Bool.false_eq_true, if_false, hin, Bool.not_true,
    if_neg (Nat.ne_of_lt h.short), hrec]

/-- A chain set to go on: its command has it, and beside that queue nothing changes. -/
theorem setChain_goes (h : ((s.coreAt core).queue q).find? (fun z => z.started && !z.failed) = some x) (y' : Chain) :
    (∃ x', (((s.setChain core q x y').coreAt core).queue q).find? (fun z => z.started && !z.failed) = some x' ∧ x'.chain = some y') ∧
    (s.setChain core q x y').mem = s.mem ∧ (∀ m, m ≠ core → (s.setChain core q x y').coreAt m = s.coreAt m) ∧
    ((s.setChain core q x y').coreAt core).sync = (s.coreAt core).sync := by
  have hat (m : Nat) := State.coreAt_modCore s core m (·.modCmd q x.id fun z => { z with chain := some y' })
  have hcore : (s.setChain core q x y').coreAt core = (s.coreAt core).modCmd q x.id fun z => { z with chain := some y' } :=
    (hat core).trans (if_pos rfl)
  refine ⟨⟨{ x with chain := some y' }, ?_, rfl⟩, rfl, fun m hm => (hat m).trans (if_neg hm), by rw [hcore]; rfl⟩
  rw [hcore]
  exact find?_modCmd (fun _ => rfl) h

/-! LOOP and COND. -/

theorem chainLoop_next (h : Walks s core q x y) {n : Nat} {sa da : W64} {off : Int}
    (hr : chainRec (s.record core y) = some (.loop n sa da off)) : exec (.chainLoop core q) s = .next (s.setChain core (1 + q) x
      (if y.i + 1 < n then { y.goto off with i := y.i + 1, os := y.os + sa, od := y.od + da }
        else { y.goto 64 with i := 0, os := 0, od := 0 })) :=
  congrArg Host.Outcome.next (h.step hr _)

theorem condHolds_iff (op a b : Nat) :
    condHolds op a b = true ↔ (op = 0 ∧ a = b) ∨ (op = 1 ∧ a ≠ b) ∨ (op = 2 ∧ a < b) ∨ (2 < op ∧ b ≤ a) := by
  match op with
  | 0 | 1 | 2 => simp [condHolds]
  | n + 3 => simp [condHolds]

theorem chainCond_next (h : Walks s core q x y) {op v a : Nat} {off : Int} (hr : chainRec (s.record core y) = some (.cond op v a off))
    (hlo : x.spmBase ≤ a) (hhi : a + 4 ≤ x.spmBase + x.spmLen) : exec (.chainCond core q) s = .next (s.setChain core (1 + q) x
      (y.goto (if condHolds op (leNat ((s.coreAt core).spmRead a 4).1) v then off else 64))) := by
  have hin : inWindow x.spmBase x.spmLen a 4 = true := by rw [inWindow, decide_eq_true hlo, decide_eq_true hhi, Bool.and_self]
  refine congrArg Host.Outcome.next ((h.step hr _).trans ?_)
  simp only [hin, Bool.not_true, Bool.false_eq_true, if_false]

/-! SIGNAL (R151). -/

/-- A chain has passed its SIGNAL record: the wait's count is subtracted. -/
def State.chainServed (s : State) (core q : Nat) (x : Cmd) (y : Chain) (ws wt : Nat) : State :=
  (if wt = 0 then s else s.modCore core (·.modSync (·.take (semNum x.semBase ws) wt (.engine (1 + q))))).setChain core (1 + q) x (y.goto 64)

theorem chainServed_leaves (h : ((s.coreAt core).queue (1 + q)).find? (fun z => z.started && !z.failed) = some x) (y : Chain) (ws wt : Nat) :
    let u := s.chainServed core q x y ws wt
    (∃ x', ((u.coreAt core).queue (1 + q)).find? (fun z => z.started && !z.failed) = some x' ∧ x'.chain = some (y.goto 64)) ∧
    u.mem = s.mem ∧ (∀ m, m ≠ core → u.coreAt m = s.coreAt m) ∧
    ∀ k, (u.coreAt core).sem k =
      ⟨((s.coreAt core).sem k).count - (if k = semNum x.semBase ws then wt else 0), ((s.coreAt core).sem k).poisoned⟩ := by
  intro u
  by_cases h0 : wt = 0
  · have hu : u = s.setChain core (1 + q) x (y.goto 64) := 
      congrArg (fun t : State => t.setChain core (1 + q) x (y.goto 64)) (if_pos h0)
    obtain ⟨hx, hmem, hother, hsync⟩ := setChain_goes h (y.goto 64)
    refine ⟨hu ▸ hx, hu ▸ hmem, hu ▸ hother, fun k => ?_⟩
    rw [hu, Core.sem, hsync, h0, ite_self, Nat.sub_zero]
    rfl
  · let s1 := s.modCore core (·.modSync (·.take (semNum x.semBase ws) wt (.engine (1 + q))))
    have hat (m : Nat) : s1.coreAt m = if m = core then
        (s.coreAt core).modSync (·.take (semNum x.semBase ws) wt (.engine (1 + q))) else s.coreAt m := State.coreAt_modCore ..
    have hu : u = s1.setChain core (1 + q) x (y.goto 64) := 
      congrArg (fun t : State => t.setChain core (1 + q) x (y.goto 64)) (if_neg h0)
    obtain ⟨hx, hmem, hother, hsync⟩ := setChain_goes (s := s1) (by rw [hat, if_pos rfl]; exact h) (y.goto 64)
    refine ⟨hu ▸ hx, hu ▸ hmem, fun m hm => hu ▸ (hother m hm).trans ((hat m).trans (if_neg hm)), fun k => ?_⟩
    rw [hu, Core.sem, hsync, hat, if_pos rfl]
    refine (Sync.sem_take ..).trans ?_
    by_cases hk : k = semNum x.semBase ws
    · rw [if_pos hk, if_pos hk, hk]
      rfl
    · rw [if_neg hk, if_neg hk]
      rfl

section
variable {ws wt ss si : Nat} (h : Walks s core q x y) (hr : chainRec (s.record core y) = some (.signal ws wt ss si))
  (hws : wt = 0 ∨ ws < x.semLen) (hss : si = 0 ∨ ss < x.semLen)
include h hr hws hss

theorem chainSignal_serves (hw : wt = 0 ∨ ((s.coreAt core).sem (semNum x.semBase ws)).poisoned = false ∧
      (s.coreAt core).sync.ready (semNum x.semBase ws) wt (.engine (1 + q)) = true) :
    exec (.chainSignal core q) s = .next (
      let u := s.chainServed core q x y ws wt
      if si = 0 then u else u.signal core (u.faultOfCmd core (1 + q) x) (some (semNum x.semBase ss, si))) := by
  refine congrArg Host.Outcome.next ((h.step hr _).trans ?_)
  have hrange : ((decide (wt ≠ 0) && decide (x.semLen ≤ ws)) || (decide (si ≠ 0) && decide (x.semLen ≤ ss))) = false := by
    simp only [Bool.or_eq_false_iff, Bool.and_eq_false_iff, decide_eq_false_iff_not]
    omega
  have hpoison : (decide (wt ≠ 0) && ((s.coreAt core).sync.sem (semNum x.semBase ws)).poisoned) = false := by
    rcases hw with h0 | ⟨hp, -⟩
    · rw [h0]; rfl
    · rw [show ((s.coreAt core).sync.sem _).poisoned = false from hp, Bool.and_false]
  have hready : (decide (wt ≠ 0) && !(s.coreAt core).sync.ready (semNum x.semBase ws) wt (.engine (1 + q))) = false := by
    rcases hw with h0 | ⟨-, hq⟩
    · rw [h0]; rfl
    · rw [hq, Bool.not_true, Bool.and_false]
  simp only [hrange, hpoison, hready, Bool.false_eq_true, if_false]
  rfl

theorem chainSignal_waits (hwt : wt ≠ 0) (hp : ((s.coreAt core).sem (semNum x.semBase ws)).poisoned = false)
    (hw : (s.coreAt core).sync.ready (semNum x.semBase ws) wt (.engine (1 + q)) = false) :
    exec (.chainSignal core q) s = .next (s.modCore core (·.modSync (·.join (semNum x.semBase ws) wt (.engine (1 + q))))) := by
  refine congrArg Host.Outcome.next ((h.step hr _).trans ?_)
  have hrange : ((decide (wt ≠ 0) && decide (x.semLen ≤ ws)) || (decide (si ≠ 0) && decide (x.semLen ≤ ss))) = false := by
    simp only [Bool.or_eq_false_iff, Bool.and_eq_false_iff, decide_eq_false_iff_not]
    omega
  have hsem : ((s.coreAt core).sync.sem (semNum x.semBase ws)).poisoned = false := hp
  simp only [hrange, Bool.false_eq_true, if_false]
  simp only [hsem, hw, hwt, Bool.false_eq_true, if_false, Bool.and_false, ne_eq, not_false_eq_true, decide_true, Bool.not_false,
    Bool.and_self, if_true]

end

theorem Sync.ready_iff {c : Sync} {i t : Nat} {w : Waiter} :
    c.ready i t w = true ↔ t ≤ (c.sem i).count ∧ (tget [] c.waiters i = [] ∨ ∃ k r, tget [] c.waiters i = (w, k) :: r) := by
  unfold Sync.ready
  cases hl : tget [] c.waiters i with
  | nil => simp
  | cons e r => obtain ⟨w', k⟩ := e; simp

theorem Sync.sem_join (c : Sync) (i t m : Nat) (w : Waiter) : (c.join i t w).sem m = c.sem m := by
  unfold Sync.join
  dsimp only
  split <;> rfl

/-- Who joins the line of a semaphore stands in it. -/
theorem Sync.mem_join (c : Sync) (i t : Nat) (w : Waiter) : ∃ e ∈ tget [] (c.join i t w).waiters i, e.1 = w := by
  unfold Sync.join
  dsimp only
  split
  · next h =>
    obtain ⟨e, he, hw⟩ := List.any_eq_true.mp h
    exact ⟨e, he, of_decide_eq_true hw⟩
  · exact ⟨(w, t), by rw [tget_tset_same]; exact List.mem_append_right _ (List.mem_singleton.mpr rfl), rfl⟩

theorem chainSignal_copy (h : Walks s core q x y) {m : Move} (hr : chainRec (s.record core y) = some (.copy m)) :
    exec (.chainSignal core q) s = .next s := congrArg Host.Outcome.next (h.step hr _)

theorem chainEnd_next (h : Walks s core q x y) (hr : chainRec (s.record core y) = some .done) :
    exec (.chainEnd core q) s = .next (s.completeCmd core (1 + q) x) := congrArg Host.Outcome.next (h.step hr _)

/-! COPY (R256). -/

/-- A command and its chain once the segments before a number of the record under way have been moved. -/
def Cmd.moved (x : Cmd) (y : Chain) (b : List Byte) (next : Nat) : Cmd :=
  { x with progress := x.progress + (next * 64 - y.moved), chain := some { y with moved := next * 64, copying := some b } }

/-- What is left of a record, up to the end of the command's 4 KiB segment. -/
theorem segmentEnd_sub (progress left : Nat) : segmentEnd progress (progress + left) - progress = min left (4096 - progress % 4096) := by
  unfold segmentEnd
  omega

/-- A COPY whose segments meet neither fault nor wait: its command has moved on, past the record when all its bytes are moved. -/
theorem chainCopy_next (h : Walks s core q x y) {m0 m : Move} {r : Moved} (hr : chainRec (s.record core y) = some (.copy m0))
    (hm : m0.shifted y = m) (hmoved : s.moveSegs core x.ctx m (min (m.total - y.moved) (4096 - x.progress % 4096) / 64) (y.moved / 64) = r)
    (hok : y.copying = none → m.misaligned = none ∧ m.outside x.spmBase x.spmLen = none)
    (hctl : m.global = false ∨ (1 + q) ∉ (s.coreAt core).ctlErrors) (hfault : r.fault = none) (hwaits : r.waits = false) :
    let x1 := x.moved y (s.record core y) r.next
    ∃ s2, s2.cores = (r.s.modCore core (·.modCmd (1 + q) x.id fun _ => x1)).cores ∧ s2.mem.bytes = r.s.mem.bytes ∧
      s2.strands = r.s.strands ∧ exec (.chainCopy core q) s = .next (if m.total ≤ r.next * 64 then
        s2.setChain core (1 + q) x1 (Chain.goto { y with moved := r.next * 64, copying := some (s.record core y) } 64) else s2) := by
  have hcheck : (if y.copying.isSome = true then none else match m.misaligned with
      | some _ => some Cause.alignment
      | none => (m.outside x.spmBase x.spmLen).map fun _ => Cause.translation) = none := by
    cases hc : y.copying with
    | some b => rfl
    | none =>
      obtain ⟨hm, ho⟩ := hok hc
      simp only [hm, ho, Option.isSome_none, Bool.false_eq_true, if_false, Option.map_none]
  have hglobal : (m.global && (s.coreAt core).ctlErrors.contains (1 + q)) = false := by
    rcases hctl with hg | hn
    · simp only [hg, Bool.false_and]
    · rw [List.contains_eq_mem, decide_eq_false hn, Bool.and_false]
  intro x1
  refine ⟨if r.next * 64 - y.moved = 0 then r.s.modCore core (·.modCmd (1 + q) x.id fun _ => x1)
    else (r.s.modCore core (·.modCmd (1 + q) x.id fun _ => x1)).endFrameWait (.engine core x.id), ?_, ?_, ?_,
    congrArg Host.Outcome.next ((h.step hr _).trans ?_)⟩
  · split <;> rfl
  · split <;> rfl
  · split <;> rfl
  · simp only [hm, hglobal, Bool.false_eq_true, if_false, segmentEnd_sub, hmoved, hfault, hwaits]
    split
    · next cause hcause => exact absurd (hcause.symm.trans hcheck) (Option.some_ne_none cause)
    · rfl

/-- The queue of a command that has moved on, and gone past its record when all of that is moved. -/
theorem queue_moved {s2 : State} {r : Moved} {x1 : Cmd} {y' : Chain} (hid : x1.id = x.id)
    (hcores : s2.cores = (r.s.modCore core (·.modCmd q x.id fun _ => x1)).cores) (p : Prop) [Decidable p] :
    let u := if p then s2.setChain core q x1 y' else s2
    (u.coreAt core).spm = (r.s.coreAt core).spm ∧ (u.coreAt core).queue q =
      ((r.s.coreAt core).queue q).map fun z => if z.id = x.id then { x1 with chain := if p then some y' else x1.chain } else z := by
  have hs2 : s2.coreAt core = (r.s.coreAt core).modCmd q x.id fun _ => x1 := by
    rw [State.coreAt, hcores]
    exact (State.coreAt_modCore r.s core core _).trans (if_pos rfl)
  intro u
  by_cases hp : p
  · have hu : u.coreAt core = (s2.coreAt core).modCmd q x1.id fun z => { z with chain := some y' } := by
      rw [show u = s2.setChain core q x1 y' from if_pos hp]
      exact (State.coreAt_modCore s2 core core _).trans (if_pos rfl)
    rw [hu, hs2]
    refine ⟨rfl, ?_⟩
    rw [queue_modCmd, if_pos rfl, queue_modCmd, if_pos rfl, List.map_map]
    refine List.map_congr_left fun z _ => ?_
    simp only [Function.comp_apply, if_pos hp]
    by_cases hz : z.id = x.id
    · rw [if_pos hz, if_pos rfl, if_pos hz]
    · rw [if_neg hz, if_neg (hid ▸ hz), if_neg hz]
  · rw [show u = s2 from if_neg hp, hs2]
    refine ⟨rfl, ?_⟩
    rw [queue_modCmd, if_pos rfl]
    simp only [if_neg hp]

/-- Settles O29: LOOP, COND, SIGNAL served and waiting, a COPY not yet passed, COPY, segments within scratchpads, and END. -/
theorem chains : Obligations.Chains := by
  unfold Obligations.Chains
  intro s core q x y hq hwalking hchain hlive hruns hshort hlo hhi c rec_ goesTo next
  have h : Walks s core q x y := ⟨hwalking, hchain, hlive, hruns, hshort, hlo, hhi⟩
  have hgoes {i : Instr} {y' : Chain} (hi : exec i s = .next (s.setChain core (1 + q) x y')) : goesTo i y' := by
    obtain ⟨hx, hmem, hother, -⟩ := setChain_goes hwalking y'
    exact ⟨_, hi, hx, by rw [hmem], hother⟩
  refine ⟨fun n sa da off hr => ⟨fun hn => ?_, fun hn => ?_⟩, ?_, ?_, fun m0 hr => chainSignal_copy h hr, ?_, ?_, ?_⟩
  · have hexec := chainLoop_next h hr
    rw [if_pos hn] at hexec
    exact hgoes hexec
  · have hexec := chainLoop_next h hr
    rw [if_neg (Nat.not_lt.mpr hn)] at hexec
    exact hgoes hexec
  · intro op v a off hr ha ha' w
    have hexec := chainCond_next h hr ha ha'
    simp only [condHolds_iff] at hexec
    exact hgoes hexec
  · intro ws wt ss si hr hws hss i j left line
    refine ⟨fun hw hs => ?_, fun hwt hp hline => ?_⟩
    · have hw' : wt = 0 ∨ (c.sem i).poisoned = false ∧ c.sync.ready i wt (.engine (1 + q)) = true :=
        hw.imp_right fun ⟨hp, hle, hline⟩ => ⟨hp, Sync.ready_iff.mpr ⟨hle, hline⟩⟩
      have hexec := chainSignal_serves h hr hws hss hw'
      obtain ⟨hx, hmem, hother, hsem⟩ := chainServed_leaves hwalking y ws wt
      have hcount (k : Nat) : (((s.chainServed core q x y ws wt).coreAt core).sem k).count = left k := congrArg Sem.count (hsem k)
      by_cases h0 : si = 0
      · dsimp only at hexec
        rw [if_pos h0] at hexec
        exact ⟨⟨_, hexec, hx, by rw [hmem], hother⟩, _, hexec, fun k => by rw [hcount, h0, ite_self, Nat.add_zero]⟩
      · obtain ⟨hp, hfit⟩ := hs.resolve_left h0
        dsimp only at hexec
        rw [if_neg h0] at hexec
        obtain ⟨z, hrest, hcore, hothers, hz⟩ := signal_counts ((s.chainServed core q x y ws wt).faultOfCmd core (1 + q) x)
          (s := s.chainServed core q x y ws wt) (core := core) (i := j) (n := si) (by rw [hsem]; exact hp) (by rw [hcount]; exact hfit)
        have hmem' := congrArg State.mem hrest
        refine ⟨⟨_, hexec, ?_, by rw [← hmem, ← hmem'], fun m hm => (hothers m hm).trans (hother m hm)⟩, _, hexec, fun k => ?_⟩
        · rw [hcore]
          exact hx
        · rw [hcore]
          exact (hz k).trans (by rw [hcount])
    · have hready : c.sync.ready i wt (.engine (1 + q)) = false := by
        rw [Bool.eq_false_iff, ne_eq, Sync.ready_iff]
        rintro ⟨hle, hl⟩
        rcases hline with hlt | ⟨e, r, he, hne⟩
        · exact Nat.not_le.mpr hlt hle
        · rcases hl with hl | ⟨k, r', hl⟩
          · cases he.symm.trans hl
          · cases he.symm.trans hl
            exact hne rfl
      have hat (m : Nat) := State.coreAt_modCore s core m (·.modSync (·.join i wt (.engine (1 + q))))
      refine ⟨_, chainSignal_waits h hr hws hss (by omega) hp hready, rfl, rfl, fun m hm => (hat m).trans (if_neg hm), fun k => ?_,
        fun k => ?_, ?_⟩
      all_goals rw [hat, if_pos rfl]
      · rfl
      · exact Sync.sem_join ..
      · exact Sync.mem_join ..
  · intro m0 hr m left r x' hok hctl hfault hwaits
    obtain ⟨s2, hcores, hbytes, hstrands, hexec⟩ := chainCopy_next h hr rfl rfl hok hctl hfault hwaits
    obtain ⟨hspm, hqueue⟩ := queue_moved (x := x) (x1 := x.moved y (s.record core y) r.next)
      (y' := Chain.goto { y with moved := r.next * 64, copying := some (s.record core y) } 64) rfl hcores (m.total ≤ r.next * 64)
    refine ⟨_, hexec, ?_, ?_, hspm, hqueue.trans ?_⟩
    · split <;> exact hbytes
    · split <;> exact hstrands
    · refine congrArg (fun w => List.map (fun z : Cmd => if z.id = x.id then w else z) ((r.s.coreAt core).queue (1 + q))) ?_
      simp only [x']
      split <;> rfl
  · intro m n k hg r
    obtain ⟨hfault, hwaits, hnext, hrest, hcore, hother⟩ := moveSegs_local hg s core x.ctx n k
    refine ⟨hfault, hwaits, hnext, (congrArg State.mem hrest :), (congrArg State.strands hrest :), ?_, fun hf ha i j hk hi hj => ?_⟩
    · rw [hcore]
      exact (congrArg (fun c : Core => c.queue (1 + q)) (copySegs_rest (c := s.coreAt core) x.ctx m n k) :)
    · rw [hcore]
      exact fillSegs_inside hf ha _ _ hk hi hj
  · intro hr hs
    obtain ⟨-, hlacks⟩ := completeCmd_leaves (1 + q) hs
    exact ⟨_, chainEnd_next h hr, hlacks, (State.SameBut.completeCmd (1 + q) hs).bytes⟩

end Sys2Proof.Machine
end

-- ==== Proofs: what engines leave of the cores as they reach global memory (O28, O24) ====
section
/-! PROOF. Reads and writes of global memory change memory, contexts, strands, and the caches and translations of cores (R80-R89, R96): the
work that the package schedules, the scratchpads, the queues and the semaphores stay. What is kept by each change of that kind is kept by
the accesses of the engines. -/
namespace Sys2Proof.Machine

variable {s : State}

/-- What is kept as memory, a context, a strand, or the caches and translations of a core change. -/
structure State.Kept (P : State → Prop) : Prop where
  modMem : ∀ {s : State} (f : MemState → MemState), P s → P (s.modMem f)
  setCtx : ∀ {s : State} (n : Nat) (x : Ctx), P s → P (s.setCtx n x)
  modStrand : ∀ {s : State} (n : Nat) (f : Strand → Strand), P s → P (s.modStrand n f)
  noteWalk : ∀ {s : State} (ctx a : Nat), P s → P (s.noteWalk ctx a)
  caches : ∀ {s : State} (core : Nat) {f : Core → Core}, (∀ c, ∃ l t, f c = { c with l1 := l, tlb := t }) → P s → P (s.modCore core f)

section
variable {P : State → Prop}

theorem kept_foldl {α : Type} {f : State → α → State} {l : List α} (h : P s) (hf : ∀ s x, P s → P (f s x)) : P (l.foldl f s) := by
  induction l generalizing s with
  | nil => exact h
  | cons x l ih => exact ih (hf s x h)

variable (hP : State.Kept P)
include hP

theorem State.Kept.touchL2 {ctx pa dirty} (h : P s) : P (s.touchL2 ctx pa dirty) := by
  obtain ⟨w, c, r, e⟩ := touchL2_frame s ctx pa dirty
  exact e ▸ hP.modMem _ h

theorem State.Kept.dropCopies {core line} (h : P s) : P (s.dropCopies core line) := by
  unfold State.dropCopies State.dropRdc State.dropL1
  exact hP.modMem _ (hP.caches core (fun _ => ⟨_, _, rfl⟩) h)

theorem State.Kept.fireMonitor {n op d} (h : P s) : P (s.fireMonitor n op d) := by
  unfold State.fireMonitor
  split
  · exact hP.dropCopies (hP.modStrand _ _ h)
  · exact h

theorem State.Kept.wake {pa n} (h : P s) : P (s.wake pa n) := by
  refine kept_foldl h fun u x hu => ?_
  split
  · split
    · split
      · split
        · exact hP.fireMonitor hu
        · exact hu
      · exact hu
    · exact hu
  · exact hu

theorem State.Kept.homeWrite {ctx pa bs tag} (h : P s) : P (s.homeWrite ctx pa bs tag) :=
  hP.wake (hP.touchL2 (hP.modMem _ h))

theorem State.Kept.zeroFrame {pa n} (h : P s) : P (s.zeroFrame pa n) := by
  obtain ⟨w, c, r, e⟩ := touchSpan_frame s pa n
  rw [State.zeroFrame, e]
  exact hP.modMem _ (hP.modMem _ h)

theorem State.Kept.commit {ctx lvl at_ e} (h : P s) : (s.commit ctx lvl at_ e).Leaves P := by
  unfold State.commit
  split
  · exact h
  · refine .ite h ?_
    dsimp only
    split
    · exact h
    · exact hP.setCtx _ _ (hP.homeWrite (hP.modMem _ (hP.zeroFrame h)))

theorem State.Kept.translate {core ctx ptr need fresh} (h : P s) : (s.translate core ctx ptr need fresh).Leaves P := by
  unfold State.translate
  extract_lets p va hit
  refine .ite h ?_
  split
  · exact h
  extract_lets root u
  refine .ite h ?_
  split
  · exact .ite h h
  refine .ite h ?_
  have hu : P u := kept_foldl h fun _ _ h => hP.touchL2 h
  split
  · exact hu
  refine .ite hu (.ite hu ?_)
  extract_lets r
  have hr : r.Leaves P := .ite (hP.commit hu) hu
  clear_value r
  split
  · exact hr
  · exact hr
  next e v =>
    have hv : P v := hr
    have hw {p : Prop} [Decidable p] {a b} : P (if p then v else (v.homeWrite8 ctx a b).noteWalk ctx a) := by
      split
      · exact hv
      · exact hP.noteWalk _ _ (hP.homeWrite hv)
    cases core with
    | none => exact hw
    | some k => exact hP.caches k (fun _ => ⟨_, _, rfl⟩) hw

theorem State.Kept.translateAll {core ctx ptr need fresh l} (h : P s) : (s.translateAll core ctx ptr need fresh l).Leaves P := by
  induction l generalizing s with
  | nil => exact h
  | cons x xs ih =>
    have ht := hP.translate (core := core) (ctx := ctx) (ptr := ptr + BitVec.ofNat 64 x.1) (need := need) (fresh := fresh) h
    unfold State.translateAll
    dsimp only
    split
    next e => exact ht.trap e
    next e => exact ht.wait e
    next e =>
      refine .ite (ht.ok e) ?_
      split
      next e' => exact (ih (ht.ok e)).trap e'
      next e' => exact (ih (ht.ok e)).wait e'
      next e' => exact (ih (ht.ok e)).ok e'

theorem State.Kept.access {core ctx ptr n need fresh} (h : P s) : (s.access core ctx ptr n need fresh).Leaves P := by
  unfold State.access
  refine .ite (hP.modMem _ h) ?_
  split
  next e => exact (hP.translateAll h).trap e
  next e => exact (hP.translateAll h).wait e
  next e =>
    split
    · exact (hP.translateAll h).ok e
    · exact (hP.translateAll h).ok e

theorem State.Kept.useRdc {die ctx line} (h : P s) : P (s.useRdc die ctx line) := by
  unfold State.useRdc
  exact hP.modMem _ h

theorem State.Kept.fillRdc {die ctx line c} (h : P s) : P (s.fillRdc die ctx line c) := by
  unfold State.fillRdc
  exact hP.modMem _ h

theorem State.Kept.dieRead {die ctx cache pa n drop} (h : P s) : P (s.dieRead die ctx cache pa n drop).2 := by
  unfold State.dieRead
  extract_lets line remote s1
  split
  · exact hP.useRdc h
  · have h1 : P s1 := hP.touchL2 h
    dsimp only
    split
    · exact hP.fillRdc h1
    · exact h1

theorem State.Kept.dieReadParts {die ctx ps} (h : P s) : P (s.dieReadParts die ctx ps).2 := by
  induction ps generalizing s with
  | nil => exact h
  | cons p ps ih => exact ih (hP.dieRead h)

theorem State.Kept.engRead {core ctx a n} (h : P s) : (s.engRead core ctx a n).Leaves P := by
  unfold State.engRead
  refine .ite h ?_
  have ha := hP.access (core := some core) (ctx := ctx) (ptr := a) (n := n) (need := .read) (fresh := s.fresh) h
  cases e : s.access (some core) ctx a n .read s.fresh with
  | ok ps u => exact .ite (ha.ok e) (hP.dieReadParts (ha.ok e))
  | trap c r u => exact ha.trap e
  | wait u => exact ha.wait e

theorem State.Kept.updateCopies {die pa bs tag} (h : P s) : P (s.updateCopies none die pa bs tag) := by
  unfold State.updateCopies
  exact hP.modMem _ h

end

/-! Scratchpads, queues and semaphores. -/

/-- From s to u no core changes beside its L1 and its TLB, and the work of the package stays. -/
structure State.SameCores (s u : State) : Prop where
  core : ∀ m, ∃ l t, u.coreAt m = { s.coreAt m with l1 := l, tlb := t }
  work : u.work = s.work

theorem State.SameCores.refl (s : State) : s.SameCores s := ⟨fun _ => ⟨_, _, rfl⟩, rfl⟩

/-- The accesses of engines keep the cores beside their caches, and the work. -/
theorem sameCores_kept (s : State) : State.Kept s.SameCores where
  modMem _ h := ⟨h.core, h.work⟩
  setCtx _ _ h := ⟨h.core, h.work⟩
  modStrand n f h := by
    unfold State.modStrand
    split
    · exact ⟨h.core, h.work⟩
    · exact h
  noteWalk _ _ h := ⟨h.core, h.work⟩
  caches {u} core f hf h := by
    refine ⟨fun m => ?_, h.work⟩
    obtain ⟨l, t, hm⟩ := h.core m
    rw [State.coreAt_modCore]
    split
    · next e =>
      obtain ⟨l', t', hf⟩ := hf (u.coreAt core)
      exact ⟨l', t', by rw [hf, ← e, hm]⟩
    · exact ⟨l, t, hm⟩

end Sys2Proof.Machine
end

-- ==== Proofs: engine commands complete (O28) ====
section
/-! PROOF. The oldest started command of an engine queue completes (R236, R252-R258, R262): copies and fills run segment by segment, and
what they leave follows from the segments of a scratchpad (`copySegs`) and from the reads and writes of the engine. -/
namespace Sys2Proof.Machine

variable {s : State} {core q seg : Nat} {x : Cmd}

/-! A completion, and what it leaves. -/

/-- The oldest started command of a queue, that has not failed and whose signal its semaphore holds. -/
structure Completes (s : State) (core q : Nat) (x : Cmd) : Prop where
  small : q < 7
  works : x.failed = false
  kept : x.discard = false
  started : ((s.coreAt core).queue q).find? (·.started) = some x
  named : (s.coreAt core).cmd q x.id = some x
  fits : s.signalFits core x
  runs : s.frozen x.tt = false

/-- From v to u a command has left its queue, and its core has changed beside that in its semaphores at most. -/
structure Finished (v u : State) (core q id : Nat) : Prop where
  gone : ∀ y ∈ (u.coreAt core).queue q, y.id ≠ id
  bytes : u.mem.bytes = v.mem.bytes
  work : u.work = v.work
  core : ∃ sy qs, u.coreAt core = { v.coreAt core with sync := sy, queues := qs }

theorem completeCmd_finished {v : State} (h : v.signalFits core x) : Finished v (v.completeCmd core q x) core q x.id := by
  obtain ⟨⟨hcore, -⟩, hgone⟩ := completeCmd_leaves q h
  obtain ⟨hrest, hbytes⟩ := State.SameBut.completeCmd q h
  exact ⟨hgone, hbytes, (congrArg State.work hrest :), hcore⟩

theorem signalFits_of_sync {v : State} (h : s.signalFits core x) (hsync : (v.coreAt core).sync = (s.coreAt core).sync) :
    v.signalFits core x := by
  unfold State.signalFits Core.sem at *
  rwa [hsync]

/-- WSEL (R252). -/
theorem wsel_completes {h : EHead} {buf : BitVec 1} (hx : Completes s core 5 x) (hw : x.word = .wsel h buf) :
    exec (.engineCommandComplete core 5 seg) s = .next ((s.modCore core fun c => { c with side := buf.toNat }).completeCmd core 5 x) := by
  change execEngineCommandComplete core 5 seg s = _
  unfold execEngineCommandComplete
  rw [hx.started]
  simp only [hx.works, hw, Nat.reduceLT, Nat.reduceEqDiff, if_true, if_false, Bool.false_eq_true]

/-- A courier command that is no chain moves its segments (R256). -/
theorem courier_exec {m : Move} (hx : Completes s core q x) (h1 : 1 ≤ q) (h4 : q ≤ 4) (hm : x.move = some m) :
    exec (.engineCommandComplete core q seg) s = .next (s.copySegments core q x.id m seg) := by
  change execEngineCommandComplete core q seg s = _
  unfold execEngineCommandComplete
  rw [hx.started]
  simp only [hm, hx.works, hx.runs, show ¬ 6 < q by omega, show q ≠ 0 by omega, show q ≠ 5 by omega, show q ≠ 6 by omega, if_false,
    Bool.false_eq_true, Bool.false_and]
  congr 1
  unfold Cmd.move at hm
  split at hm
  · next hw _ => simp only [hw]
  · next hw _ => simp only [hw]
  · next hw _ => simp only [hw]
  · cases hm

/-! Segments moved one after another (R256). -/

theorem copySegs_add (c : Core) (ctx : Nat) (m : Move) (a b k : Nat) :
    c.copySegs ctx m (a + b) k = (c.copySegs ctx m a k).copySegs ctx m b (k + a) := by
  induction a generalizing c k with
  | zero => rw [Nat.zero_add]; rfl
  | succ a ih => rw [Nat.succ_add, Core.copySegs, ih, Core.copySegs, Nat.add_right_comm, Nat.add_assoc]

theorem copySegs_queues (c : Core) (ctx : Nat) (m : Move) (qs : Tab (List Cmd)) (n k : Nat) :
    ({ c with queues := qs } : Core).copySegs ctx m n k = { c.copySegs ctx m n k with queues := qs } := by
  induction n generalizing c k with
  | zero => rfl
  | succ n ih => exact ih (c.copySeg ctx m k) (k + 1)

/-- A core once its command x has moved segments up to number n. -/
def State.movedTo (s : State) (core q : Nat) (x : Cmd) (n : Nat) : State :=
  (s.modCore core (·.modCmd q x.id fun y => { y with progress := n * 64 })).endFrameWait (.engine core x.id)

theorem movedTo_coreAt (s : State) (core q : Nat) (x : Cmd) (n : Nat) :
    (s.movedTo core q x n).coreAt core = (s.coreAt core).modCmd q x.id fun y => { y with progress := n * 64 } := by
  exact (State.coreAt_modCore s core core (·.modCmd q x.id fun y => { y with progress := n * 64 })).trans (if_pos rfl)

/-- A turn of a copy whose segments are all moved goes on. -/
theorem copySegment_moved {m : Move} {v : State} {n : Nat} (hctl : m.global = false ∨ q ∉ (s.coreAt core).ctlErrors)
    (hv : s.moveSegs core x.ctx m ((segmentEnd x.progress m.total - x.progress) / 64) (x.progress / 64) = ⟨v, n, none, false⟩)
    (hn : n * 64 ≠ x.progress) : s.copySegment core q x m = (v.movedTo core q x n, true) := by
  have hc : (m.global && (s.coreAt core).ctlErrors.contains q) = false := by
    rcases hctl with h | h
    · rw [h, Bool.false_and]
    · rw [List.contains_eq_mem, decide_eq_false h, Bool.and_false]
  simp only [State.copySegment, hc, hv, if_neg hn, Bool.false_eq_true, if_false]
  rfl

/-- From s to u the command x has moved its first k segments within the scratchpad. -/
structure Moving (s u : State) (core q : Nat) (x : Cmd) (m : Move) (k : Nat) : Prop where
  rest : s.SameBut u
  spm : ∃ qs, u.coreAt core = { (s.coreAt core).copySegs x.ctx m k 0 with queues := qs }
  named : (u.coreAt core).cmd q x.id = some { x with progress := k * 64 }

/-- A turn of a copy within a scratchpad. -/
theorem Moving.turn {u : State} {m : Move} {k : Nat} (h : Moving s u core q x m k) (hg : m.global = false) (h64 : m.total % 64 = 0)
    (hk : k % 64 = 0) (hlt : k * 64 < m.total) : ∃ v n, n = min (m.total / 64) (k + 64) ∧ Moving s v core q x m n ∧
      u.copySegment core q { x with progress := k * 64 } m = (v, true) := by
  obtain ⟨hrest, ⟨qs, hcore⟩, hnamed⟩ := h
  have hstop : segmentEnd (k * 64) m.total = min m.total (k * 64 + 4096) := by unfold segmentEnd; omega
  obtain ⟨hfault, hwaits, hnext, hmoved, hat, -⟩ := moveSegs_local hg u core x.ctx (min (m.total / 64) (k + 64) - k) k
  have hr : u.moveSegs core x.ctx m (min (m.total / 64) (k + 64) - k) k =
      ⟨(u.moveSegs core x.ctx m (min (m.total / 64) (k + 64) - k) k).s, min (m.total / 64) (k + 64), none, false⟩ := by
    rw [← hfault, ← hwaits, show min (m.total / 64) (k + 64) = k + (min (m.total / 64) (k + 64) - k) by omega]
    rw [show k + (min (m.total / 64) (k + 64) - k) - k = min (m.total / 64) (k + 64) - k by omega, ← hnext]
  generalize (u.moveSegs core x.ctx m (min (m.total / 64) (k + 64) - k) k).s = v at hr hmoved hat
  have hqueue : (v.coreAt core).queue q = (u.coreAt core).queue q := by
    rw [hat]
    exact (congrArg (fun c : Core => c.queue q) (copySegs_rest (c := u.coreAt core) ..) :)
  refine ⟨v.movedTo core q x (min (m.total / 64) (k + 64)), _, rfl, ⟨?_, ?_, ?_⟩,
    copySegment_moved (x := { x with progress := k * 64 }) (.inl hg) ?_ ?_⟩
  · have huv : u.SameBut v := ⟨congrArg (fun t : State => { t with mem := u.mem, strands := u.strands }) hmoved,
      (congrArg (fun t : State => t.mem.bytes) hmoved :)⟩
    exact hrest.trans (huv.trans ((State.SameBut.modCore ..).trans (.endFrameWait ..)))
  · rw [movedTo_coreAt, hat, hcore, copySegs_queues,
      show min (m.total / 64) (k + 64) = k + (min (m.total / 64) (k + 64) - k) by omega, copySegs_add, Nat.zero_add, Nat.add_sub_cancel_left]
    exact ⟨_, rfl⟩
  · rw [movedTo_coreAt]
    have hfind : ((v.coreAt core).queue q).find? (fun y => y.id = x.id) = some { x with progress := k * 64 } := hqueue ▸ hnamed
    exact find?_modCmd (x := { x with progress := k * 64 }) (p := fun y => decide (y.id = x.id))
      (f := fun y => { y with progress := min (m.total / 64) (k + 64) * 64 })
      (fun _ => rfl) hfind
  · change u.moveSegs core x.ctx m ((segmentEnd (k * 64) m.total - k * 64) / 64) (k * 64 / 64) = _
    rw [hstop, show (min m.total (k * 64 + 4096) - k * 64) / 64 = min (m.total / 64) (k + 64) - k by omega, Nat.mul_div_cancel k (by decide)]
    exact hr
  · change _ ≠ k * 64
    omega

theorem copySegments_done {m : Move} {id : Nat} (n : Nat) (h : (s.coreAt core).cmd q id = some x) (hle : m.total ≤ x.progress) :
    s.copySegments core q id m (n + 1) = s.copyDone core q x := by
  simp only [State.copySegments, h, if_pos hle]

theorem copySegments_turn {v : State} {y : Cmd} {m : Move} {id : Nat} (n : Nat) (h : (s.coreAt core).cmd q id = some x)
    (hd : x.discard = false) (hlt : x.progress < m.total) (hturn : s.copySegment core q x m = (v, true))
    (hy : (v.coreAt core).cmd q id = some y) : s.copySegments core q id m (n + 1) =
      if m.total ≤ y.progress then v.copyDone core q y else v.copySegments core q id m n := by
  rw [State.copySegments]
  simp only [h, hd, hturn, hy, if_neg (Nat.not_le.mpr hlt), Bool.false_and, Bool.false_eq_true, if_false, Bool.not_true]

/-- A copy within a scratchpad, given turns for all its 4 KiB segments, moves them all and ends (R256). -/
theorem Moving.all {u : State} {m : Move} {k : Nat} (hg : m.global = false) (h64 : m.total % 64 = 0) (hd : x.discard = false) (n : Nat)
    (h : Moving s u core q x m k) (hk : k % 64 = 0) (hle : k * 64 < m.total) (hn : m.total ≤ k * 64 + 4096 * n) :
    ∃ v, Moving s v core q x m (m.total / 64) ∧
      u.copySegments core q x.id m n = v.copyDone core q { x with progress := m.total / 64 * 64 } := by
  induction n generalizing u k with
  | zero => omega
  | succ n ih =>
    obtain ⟨v, n', rfl, hv, hturn⟩ := h.turn hg h64 hk hle
    have hstep : u.copySegments core q x.id m (n + 1) = if m.total ≤ min (m.total / 64) (k + 64) * 64 then
        v.copyDone core q { x with progress := min (m.total / 64) (k + 64) * 64 } else v.copySegments core q x.id m n :=
      copySegments_turn n h.named hd hle hturn hv.named
    by_cases hlast : m.total ≤ k * 64 + 4096
    · have hmin : min (m.total / 64) (k + 64) = m.total / 64 := by omega
      rw [hmin] at hstep hv
      exact ⟨v, hv, hstep.trans (if_pos (by omega))⟩
    · have hmin : min (m.total / 64) (k + 64) = k + 64 := by omega
      rw [hmin] at hstep hv
      obtain ⟨w, hw, hend⟩ := ih hv (by omega) (by omega) (by omega)
      exact ⟨w, hw, (hstep.trans (if_neg (by omega))).trans hend⟩

/-- A copy or a fill within a scratchpad completes with all its segments moved. -/
theorem local_completes {m : Move} (hx : Completes s core q x) (h1 : 1 ≤ q) (h4 : q ≤ 4) (hm : x.move = some m)
    (hword : ∀ h a, x.word ≠ .cpyt h a) (hg : m.global = false) (h64 : m.total % 64 = 0) (h0 : x.progress = 0) (hseg : 0 < seg)
    (hall : m.total ≤ 4096 * seg) : ∃ u, exec (.engineCommandComplete core q seg) s = .next u ∧
      (∀ y ∈ (u.coreAt core).queue q, y.id ≠ x.id) ∧ u.mem.bytes = s.mem.bytes ∧
      (u.coreAt core).spm = ((s.coreAt core).copySegs x.ctx m (m.total / 64) 0).spm := by
  have hstart : Moving s s core q x m 0 := ⟨.refl s, ⟨_, rfl⟩, by rw [hx.named, Nat.zero_mul, ← h0]⟩
  obtain ⟨v, hv, hend⟩ : ∃ v, Moving s v core q x m (m.total / 64) ∧
      s.copySegments core q x.id m seg = v.copyDone core q { x with progress := m.total / 64 * 64 } := by
    by_cases hnone : m.total = 0
    · refine ⟨s, by rwa [hnone], ?_⟩
      obtain ⟨n, rfl⟩ : ∃ n, seg = n + 1 := ⟨seg - 1, by omega⟩
      rw [hnone, Nat.zero_div, Nat.zero_mul, ← h0]
      exact copySegments_done n hx.named (by omega)
    · exact hstart.all hg h64 hx.kept seg rfl (by omega) (by omega)
  have hdone : v.copyDone core q { x with progress := m.total / 64 * 64 } = v.completeCmd core q { x with progress := m.total / 64 * 64 } := by
    unfold State.copyDone
    split
    · next hw _ => exact absurd hw (hword _ _)
    · rfl
  obtain ⟨hrest, ⟨qs, hcore⟩, -⟩ := hv
  have hsync : (v.coreAt core).sync = (s.coreAt core).sync := by
    rw [hcore]
    exact (congrArg Core.sync (copySegs_rest (c := s.coreAt core) ..) :)
  obtain ⟨hgone, hbytes, -, ⟨sy, qs', hu⟩⟩ := completeCmd_finished (q := q) (x := { x with progress := m.total / 64 * 64 })
    (signalFits_of_sync hx.fits hsync)
  refine ⟨_, (courier_exec hx h1 h4 hm).trans (congrArg Host.Outcome.next (hend.trans hdone)), hgone, hbytes.trans hrest.bytes, ?_⟩
  rw [hu, hcore]

/-! Where the bytes of a copy stand in a scratchpad (R256). -/

/-- The scratchpad address of byte b of row r on one side. -/
def copyPlace (base : W64) (stride : Int) (r b : Nat) : Nat := (((base.toNat % 2 ^ 21 : Nat) : Int) + r * stride).toNat + b

/-- The segment that byte b of row r lies in. -/
def Move.segOf (m : Move) (r b : Nat) : Nat := (r * m.rowBytes + b) / 64

theorem segOf_lt {m : Move} (hb : m.rowBytes % 64 = 0) {r b : Nat} (hr : r < m.rows) (hlt : b < m.rowBytes) : m.segOf r b < m.total / 64 := by
  have hrow : (r + 1) * m.rowBytes ≤ m.total := Nat.mul_le_mul_right _ hr
  have h64 : 64 ∣ m.total := Dvd.dvd.mul_left (Nat.dvd_of_mod_eq_zero hb) _
  rw [Nat.succ_mul] at hrow
  unfold Move.segOf
  omega

/-- Row and byte at which a segment begins. -/
theorem seg_row {m : Move} (hb : m.rowBytes % 64 = 0) {i : Nat} (hi : i < m.total / 64) : i * 64 / m.rowBytes < m.rows ∧
    i * 64 % m.rowBytes + 63 < m.rowBytes ∧ i * 64 % m.rowBytes % 64 = 0 := by
  have hlt : i * 64 < m.rows * m.rowBytes := by
    change i < m.rows * m.rowBytes / 64 at hi
    omega
  have hpos : 0 < m.rowBytes := Nat.pos_of_ne_zero fun h => by rw [h, Nat.mul_zero] at hlt; omega
  have hmod := Nat.mod_lt (i * 64) hpos
  have hdvd : 64 ∣ i * 64 % m.rowBytes := (Nat.dvd_mod_iff (Nat.dvd_of_mod_eq_zero hb)).mpr (Nat.dvd_mul_left 64 i)
  exact ⟨Nat.div_lt_of_lt_mul (by rwa [Nat.mul_comm m.rowBytes]), by omega, by omega⟩

/-- Every row of a side whose extent lies in the scratchpad does. -/
theorem extent_row {m : Move} {a : W64} {stride : Int} {r : Nat} (hr : r < m.rows) (hlo : ¬ (m.extent a stride).1 < 0)
    (hhi : ¬ (2 ^ 21 : Int) < (m.extent a stride).2) : 0 ≤ ((a.toNat % 2 ^ 21 : Nat) : Int) + r * stride ∧
      ((a.toNat % 2 ^ 21 : Nat) : Int) + r * stride + m.rowBytes ≤ 2 ^ 21 := by
  have hrow : (r : Int) ≤ m.rows - 1 := by omega
  simp only [Move.extent] at hlo hhi
  rcases le_total 0 stride with hs | hs
  · have h0 : 0 ≤ (r : Int) * stride := mul_nonneg (Int.natCast_nonneg r) hs
    have h1 : (r : Int) * stride ≤ (m.rows - 1) * stride := mul_le_mul_of_nonneg_right hrow hs
    omega
  · have h0 : (r : Int) * stride ≤ 0 := mul_nonpos_of_nonneg_of_nonpos (Int.natCast_nonneg r) hs
    have h1 : ((m.rows : Int) - 1) * stride ≤ r * stride := mul_le_mul_of_nonpos_right hrow hs
    omega

/-- A copy that leaves no window of the whole scratchpad has its rows inside it. -/
theorem outside_none {m : Move} (h : m.outside 0 (2 ^ 21) = none) {r : Nat} (hr : r < m.rows) (hb : 0 < m.rowBytes) :
    (m.dkind = true → 0 ≤ ((m.dst.toNat % 2 ^ 21 : Nat) : Int) + r * m.dstride ∧
      ((m.dst.toNat % 2 ^ 21 : Nat) : Int) + r * m.dstride + m.rowBytes ≤ 2 ^ 21) ∧
    (m.skind = true → m.fill = false → 0 ≤ ((m.src.toNat % 2 ^ 21 : Nat) : Int) + r * m.sstride ∧
      ((m.src.toNat % 2 ^ 21 : Nat) : Int) + r * m.sstride + m.rowBytes ≤ 2 ^ 21) := by
  unfold Move.outside at h
  rw [if_neg (by simp only [Bool.or_eq_true, decide_eq_true_eq]; omega)] at h
  split_ifs at h with hsrc hdst
  simp only [Bool.and_eq_true, Bool.or_eq_true, decide_eq_true_eq, Bool.not_eq_true', not_and, not_or] at hsrc hdst
  refine ⟨fun hd => ?_, fun hs hf => ?_⟩
  · exact extent_row hr (hdst hd).1 (hdst hd).2
  · exact extent_row hr (hsrc ⟨hs, hf⟩).1 (hsrc ⟨hs, hf⟩).2

/-- The address of a segment, in the scratchpad, is that of its bytes. -/
theorem at_place {m : Move} {a : W64} {stride : Int} (hb : m.rowBytes % 64 = 0) {r b : Nat} (hlt : b < m.rowBytes)
    (hlo : 0 ≤ ((a.toNat % 2 ^ 21 : Nat) : Int) + r * stride)
    (hhi : ((a.toNat % 2 ^ 21 : Nat) : Int) + r * stride + m.rowBytes ≤ 2 ^ 21) :
    (m.at_ a stride (m.segOf r b)).toNat % 2 ^ 21 + b % 64 = copyPlace a stride r b := by
  obtain ⟨w, hw⟩ : ∃ w, m.rowBytes = 64 * w := ⟨m.rowBytes / 64, by omega⟩
  have hseg : m.segOf r b * 64 = m.rowBytes * r + b / 64 * 64 := by
    unfold Move.segOf
    rw [hw, show r * (64 * w) = 64 * (r * w) by ring, show 64 * w * r = 64 * (r * w) by ring]
    omega
  have hrow : m.segOf r b * 64 / m.rowBytes = r := by
    rw [hseg, Nat.mul_add_div (by omega), Nat.div_eq_of_lt (by omega), Nat.add_zero]
  have hcol : m.segOf r b * 64 % m.rowBytes = b / 64 * 64 := by
    rw [hseg, Nat.mul_add_mod, Nat.mod_eq_of_lt (by omega)]
  unfold Move.at_ copyPlace
  rw [hrow, hcol, BitVec.toNat_add, BitVec.toNat_add, wrap64, BitVec.toNat_ofInt, BitVec.toNat_ofNat]
  generalize (r : Int) * stride = t at hlo hhi ⊢
  omega

/-! Fills and copies within a scratchpad. -/

/-- The bytes of a segment are bytes of a row. -/
theorem segOf_row {m : Move} (ha : m.misaligned = none) {i j : Nat} (hi : i < m.total / 64) (hj : j < 64) :
    ∃ r b, r < m.rows ∧ b < m.rowBytes ∧ m.segOf r b = i ∧ b % 64 = j := by
  obtain ⟨-, -, h64, -⟩ := misaligned_none ha
  obtain ⟨hr, hb, hmod⟩ := seg_row h64 hi
  refine ⟨_, i * 64 % m.rowBytes + j, hr, by omega, ?_, by omega⟩
  have := Nat.div_add_mod' (i * 64) m.rowBytes
  unfold Move.segOf
  omega

section
variable {m : Move} (ha : m.misaligned = none) (hin : m.outside 0 (2 ^ 21) = none)
include ha hin

/-- Byte b of row r is written in its segment, at its place. -/
theorem writes_place (hd : m.dkind = true) {r b : Nat} (hr : r < m.rows) (hb : b < m.rowBytes) :
    m.writes (m.segOf r b) + b % 64 = copyPlace m.dst m.dstride r b := by
  obtain ⟨-, -, h64, -⟩ := misaligned_none ha
  obtain ⟨hlo, hhi⟩ := (outside_none hin hr (by omega)).1 hd
  exact at_place h64 hb hlo hhi

theorem reads_place (hs : m.skind = true) (hf : m.fill = false) {r b : Nat} (hr : r < m.rows) (hb : b < m.rowBytes) :
    m.reads (m.segOf r b) + b % 64 = copyPlace m.src m.sstride r b := by
  obtain ⟨-, -, h64, -⟩ := misaligned_none ha
  obtain ⟨hlo, hhi⟩ := (outside_none hin hr (by omega)).2 hs hf
  exact at_place h64 hb hlo hhi

/-- Bytes that no row of a copy covers stay. -/
theorem copySegs_frame (hd : m.dkind = true) (c : Core) (ctx : Nat) {p : Nat}
    (hp : ∀ r b, r < m.rows → b < m.rowBytes → copyPlace m.dst m.dstride r b ≠ p) :
    tget 0 (c.copySegs ctx m (m.total / 64) 0).spm p = tget 0 c.spm p := by
  refine copySegs_outside c ctx m fun i _ hi hseg => ?_
  obtain ⟨r, b, hr, hb, hi', hj⟩ := segOf_row ha (i := i) (j := p - m.writes i) (by omega) (by omega)
  have hplace := writes_place ha hin hd hr hb
  rw [hi', hj] at hplace
  exact hp r b hr hb (by omega)

end

/-- Segments copied within a scratchpad, each to its own place, from places that none of them writes. -/
theorem copySegs_copied {m : Move} (hf : m.fill = false) {n k : Nat} (c : Core) (ctx : Nat)
    (hww : ∀ i i' j j', k ≤ i → k ≤ i' → i < k + n → i' < k + n → j < 64 → j' < 64 → m.writes i + j = m.writes i' + j' → i = i')
    (hrw : ∀ i i' j j', k ≤ i → k ≤ i' → i < k + n → i' < k + n → j < 64 → j' < 64 → m.reads i + j ≠ m.writes i' + j')
    {i j : Nat} (hk : k ≤ i) (hi : i < k + n) (hj : j < 64) :
    tget 0 (c.copySegs ctx m n k).spm (m.writes i + j) = tget 0 c.spm (m.reads i + j) := by
  induction n generalizing c k with
  | zero => omega
  | succ n ih =>
    by_cases hik : i = k
    · subst hik
      rw [Core.copySegs, copySegs_outside, copySeg_byte, if_pos (by omega), if_neg (by rw [hf]; decide), Nat.add_sub_cancel_left]
      intro i' hi' hlt hin
      have := hww i i' j (m.writes i + j - m.writes i') hk (by omega) hi (by omega) hj (by omega) (by omega)
      omega
    · refine (ih (c.copySeg ctx m k) (fun i i' j j' h h' => ?_) (fun i i' j j' h h' => ?_) (by omega) (by omega)).trans ?_
      · exact fun a a' => hww i i' j j' (by omega) (by omega) (by omega) (by omega)
      · exact fun a a' => hrw i i' j j' (by omega) (by omega) (by omega) (by omega)
      · rw [copySeg_byte, if_neg]
        intro hin
        exact hrw i k j (m.reads i + j - m.writes k) hk (Nat.le_refl k) hi (by omega) hj (by omega) (by omega)

theorem total_aligned {m : Move} (ha : m.misaligned = none) : m.total % 64 = 0 := by
  obtain ⟨-, -, h64, -⟩ := misaligned_none ha
  exact Nat.mod_eq_zero_of_dvd (Dvd.dvd.mul_left (Nat.dvd_of_mod_eq_zero h64) _)

/-- A fill of a scratchpad range leaves its value in every eight bytes of each row (R257). -/
theorem fill_places {m : Move} (ha : m.misaligned = none) (hin : m.outside 0 (2 ^ 21) = none) (hd : m.dkind = true) (hf : m.fill = true)
    (c : Core) (ctx : Nat) {r b : Nat} (hr : r < m.rows) (hb : b < m.rowBytes) :
    tget 0 (c.copySegs ctx m (m.total / 64) 0).spm (copyPlace m.dst m.dstride r b) = BitVec.ofNat 8 (m.src.toNat / 256 ^ (b % 8)) := by
  obtain ⟨-, -, h64, -⟩ := misaligned_none ha
  have hseg := segOf_lt h64 hr hb
  rw [← writes_place ha hin hd hr hb, fillSegs_inside hf ha c ctx (Nat.zero_le _) (by omega) (by omega), show b % 64 % 8 = b % 8 by omega]

/-- A copy between ranges of a scratchpad that do not overlap leaves each byte that it read at its place (R256). -/
theorem copy_places {m : Move} (ha : m.misaligned = none) (hin : m.outside 0 (2 ^ 21) = none) (hd : m.dkind = true) (hs : m.skind = true)
    (hf : m.fill = false) (c : Core) (ctx : Nat)
    (hww : ∀ r b r' b', (r < m.rows ∧ b < m.rowBytes) → (r' < m.rows ∧ b' < m.rowBytes) →
      copyPlace m.dst m.dstride r b = copyPlace m.dst m.dstride r' b' → r = r' ∧ b = b')
    (hrw : ∀ r b r' b', (r < m.rows ∧ b < m.rowBytes) → (r' < m.rows ∧ b' < m.rowBytes) →
      copyPlace m.src m.sstride r b ≠ copyPlace m.dst m.dstride r' b') {r b : Nat} (hr : r < m.rows) (hb : b < m.rowBytes) :
    tget 0 (c.copySegs ctx m (m.total / 64) 0).spm (copyPlace m.dst m.dstride r b) = tget 0 c.spm (copyPlace m.src m.sstride r b) := by
  obtain ⟨-, -, h64, -⟩ := misaligned_none ha
  have hseg := segOf_lt h64 hr hb
  rw [← writes_place ha hin hd hr hb, ← reads_place ha hin hs hf hr hb]
  refine copySegs_copied hf c ctx ?_ ?_ (Nat.zero_le _) (by omega) (by omega)
  · intro i i' j j' _ _ hi hi' hj hj' heq
    obtain ⟨r, b, hr, hb, rfl, rfl⟩ := segOf_row ha (i := i) (j := j) (by omega) hj
    obtain ⟨r', b', hr', hb', rfl, rfl⟩ := segOf_row ha (i := i') (j := j') (by omega) hj'
    rw [writes_place ha hin hd hr hb, writes_place ha hin hd hr' hb'] at heq
    obtain ⟨rfl, rfl⟩ := hww r b r' b' ⟨hr, hb⟩ ⟨hr', hb'⟩ heq
    rfl
  · intro i i' j j' _ _ hi hi' hj hj' heq
    obtain ⟨r, b, hr, hb, rfl, rfl⟩ := segOf_row ha (i := i) (j := j) (by omega) hj
    obtain ⟨r', b', hr', hb', rfl, rfl⟩ := segOf_row ha (i := i') (j := j') (by omega) hj'
    rw [reads_place ha hin hs hf hr hb, writes_place ha hin hd hr' hb'] at heq
    exact hrw r b r' b' ⟨hr, hb⟩ ⟨hr', hb'⟩ heq

/-! A segment that reaches global memory (R96, R256). -/

theorem at_zero (m : Move) (a : W64) (stride : Int) : m.at_ a stride 0 = a := by
  simp [Move.at_, wrap64]

/-- A copy of one segment completes once it is moved. -/
theorem single_completes {m : Move} {v : State} (hx : Completes s core q x) (h1 : 1 ≤ q) (h4 : q ≤ 4) (hm : x.move = some m)
    (hword : ∀ h a, x.word ≠ .cpyt h a) (h0 : x.progress = 0) (hseg : 0 < seg) (ht : m.total = 64) (hctl : q ∉ (s.coreAt core).ctlErrors)
    (hmove : (s.segRead core x.ctx m 0).andThen (fun y s => s.segWrite core x.ctx m 0 y.1 y.2) = .ok () v)
    (hqueues : (v.coreAt core).queues = (s.coreAt core).queues) (hsync : (v.coreAt core).sync = (s.coreAt core).sync) :
    ∃ u, exec (.engineCommandComplete core q seg) s = .next u ∧ (∀ y ∈ (u.coreAt core).queue q, y.id ≠ x.id) ∧
      u.mem.bytes = v.mem.bytes ∧ ∃ sy qs, u.coreAt core = { v.coreAt core with sync := sy, queues := qs } := by
  obtain ⟨n, rfl⟩ : ∃ n, seg = n + 1 := ⟨seg - 1, by omega⟩
  have hsegs : s.moveSegs core x.ctx m ((segmentEnd x.progress m.total - x.progress) / 64) (x.progress / 64) = ⟨v, 1, none, false⟩ := by
    rw [h0, ht]
    change s.moveSegs core x.ctx m 1 0 = _
    rw [State.moveSegs, hmove]
    rfl
  have hturn := copySegment_moved (q := q) (.inr hctl) hsegs (by omega)
  have hnamed : ((v.movedTo core q x 1).coreAt core).cmd q x.id = some { x with progress := 64 } := by
    rw [movedTo_coreAt]
    refine find?_modCmd (p := fun y => decide (y.id = x.id)) (fun _ => rfl) ?_
    rw [Core.queue, hqueues]
    exact hx.named
  have hend : s.copySegments core q x.id m (n + 1) = (v.movedTo core q x 1).completeCmd core q { x with progress := 64 } := by
    rw [copySegments_turn n hx.named hx.kept (by omega) hturn hnamed, if_pos (Nat.le_of_eq ht)]
    unfold State.copyDone
    split
    · next hw _ => exact absurd hw (hword _ _)
    · rfl
  obtain ⟨hgone, hbytes, -, ⟨sy, qs, hu⟩⟩ := completeCmd_finished (q := q) (x := { x with progress := 64 })
    (signalFits_of_sync (v := v.movedTo core q x 1) hx.fits (by rw [movedTo_coreAt]; exact hsync))
  refine ⟨_, (courier_exec hx h1 h4 hm).trans (congrArg Host.Outcome.next hend), hgone, hbytes, sy, qs, ?_⟩
  rw [hu, movedTo_coreAt]
  rfl

/-- A write of the courier that is one part, at its home (R256). -/
theorem engWrite_part {ctx : Nat} {a : W64} {bs : List Byte} {tag : Bool} {p : Part} {v : State} (hlen : bs.length = 64)
    (hheld : s.walkHeld (dieOfCore core) (some core) ctx a 64 = false)
    (hv : s.access (some core) ctx a 64 .write s.fresh = .ok [p] v) (hoff : p.off = 0) (hp : p.len = 64)
    (hfree : v.homesFree (dieOfCore core) [p] = true) (hb : v.mem.bounces p.pa = false) : s.engWrite core ctx a bs tag =
      .ok () ((v.homeWrite ctx p.pa (whole bs) tag).updateCopies none (dieOfCore core) p.pa (whole bs) tag) := by
  rw [State.engWrite, hlen, hheld, hv]
  simp only [Res.andThen, hfree, hb, List.any_cons, List.any_nil, Bool.not_true, Bool.or_false, Bool.false_eq_true, if_false,
    List.foldl_cons, List.foldl_nil, hoff, hp, List.drop_zero, List.take_of_length_le (Nat.le_of_eq hlen)]

/-- The bytes of that write stand at its home. -/
theorem engWrite_bytes {v : State} {ctx die pa : Nat} {bs : List Byte} {tag : Bool} (hlen : bs.length = 64) (hd : v.mem.discards pa = false)
    (b : Nat) : ((v.homeWrite ctx pa (whole bs) tag).updateCopies none die pa (whole bs) tag).mem.byteAt b =
      if pa ≤ b ∧ b < pa + 64 then (bs[b - pa]?).getD 0 else v.mem.byteAt b := by
  refine (homeWrite_byteAt v ctx pa (whole bs) tag b).trans ?_
  by_cases hb : pa ≤ b ∧ b < pa + 64
  · rw [byteAt_write _ _ _ _ _ hd, if_pos hb.1, if_pos hb, whole, List.getElem?_map, List.getElem?_eq_getElem (by omega)]
    rfl
  · rw [if_neg hb, byteAt_write_outside _ _ _ _ _ (by rw [whole, List.length_map]; omega)]

/-- A row written whole has the tag of what was written (R214). -/
theorem spmWrite_row (c : Core) (ctx : Nat) {a : Nat} (ha : a % 64 = 0) {bs : List Byte} (hlen : bs.length = 64) (tag : Bool) :
    tget false (c.spmWrite ctx a (whole bs) tag).spmTag (a / 64) = tag := by
  have hb (i : Nat) : (((whole bs)[i]?).getD none).isSome = decide (i < 64) := by
    rw [whole, List.getElem?_map]
    by_cases hi : i < 64
    · rw [List.getElem?_eq_getElem (by omega), decide_eq_true hi]; rfl
    · rw [List.getElem?_eq_none (by omega), decide_eq_false hi]; rfl
  have hrow : sectorsOf a (whole bs).length = [a / 64] := by
    rw [whole, List.length_map, hlen, sectorsOf, if_neg (by decide), show (a + 64 - 1) / 64 - a / 64 + 1 = 1 by omega]
    rfl
  have hin (i : Nat) (hi : i < 64) : (decide (a ≤ a / 64 * 64 + i) && (((whole bs)[a / 64 * 64 + i - a]?).getD none).isSome) = true := by
    rw [hb, Bool.and_eq_true, decide_eq_true_eq, decide_eq_true_eq]
    omega
  have htouch : touchesSector a (whole bs) (a / 64) = true := List.any_eq_true.mpr ⟨0, List.mem_range.mpr (by decide), hin 0 (by decide)⟩
  have hcover : coversSector a (whole bs) (a / 64) = true := List.all_eq_true.mpr fun i hi => hin i (List.mem_range.mp hi)
  simp only [Core.spmWrite, Core.spmPut, hrow, List.filter_cons, htouch, hcover, if_true, List.filter_nil, List.foldl_cons, List.foldl_nil,
    tget_tset_same, poisonAfter, Bool.not_true, Bool.and_false, Bool.or_false]

/-- What the accesses of engines leave of a core's queues and semaphores. -/
theorem State.SameCores.queues {u : State} (h : s.SameCores u) (core : Nat) :
    (u.coreAt core).queues = (s.coreAt core).queues ∧ (u.coreAt core).sync = (s.coreAt core).sync := by
  obtain ⟨l, t, hc⟩ := h.core core
  exact ⟨by rw [hc], by rw [hc]⟩

section
variable {m : Move} (hx : Completes s core q x) (h1 : 1 ≤ q) (h4 : q ≤ 4) (hm : x.move = some m) (hword : ∀ h a, x.word ≠ .cpyt h a)
  (h0 : x.progress = 0) (hseg : 0 < seg) (ht : m.total = 64) (hctl : q ∉ (s.coreAt core).ctlErrors)
include hx h1 h4 hm hword h0 hseg ht hctl

/-- A segment read from global memory stands in the scratchpad, with its tag. -/
theorem copy_from_global {bs : List Byte} {tag : Bool} {s1 : State} (ha : m.misaligned = none) (hf : m.fill = false) (hs : m.skind = false)
    (hd : m.dkind = true) (hread : s.engRead core x.ctx m.src 64 = .ok (bs, tag) s1) (hlen : bs.length = 64) :
    ∃ u, exec (.engineCommandComplete core q seg) s = .next u ∧ (∀ y ∈ (u.coreAt core).queue q, y.id ≠ x.id) ∧
      u.mem.bytes = s1.mem.bytes ∧ (∀ k, tget 0 (u.coreAt core).spm k =
        if m.dst.toNat % 2 ^ 21 ≤ k ∧ k < m.dst.toNat % 2 ^ 21 + 64 then (bs[k - m.dst.toNat % 2 ^ 21]?).getD 0
        else tget 0 (s.coreAt core).spm k) ∧ tget false (u.coreAt core).spmTag (m.dst.toNat % 2 ^ 21 / 64) = tag := by
  have hsame : s.SameCores s1 := ((sameCores_kept s).engRead (.refl s)).ok hread
  obtain ⟨hqueues, hsync⟩ := hsame.queues core
  have hmove : (s.segRead core x.ctx m 0).andThen (fun y s => s.segWrite core x.ctx m 0 y.1 y.2) =
      .ok () (s1.modCore core (·.spmWrite x.ctx (m.dst.toNat % 2 ^ 21) (whole bs) tag)) := by
    simp only [State.segRead, State.segWrite, hf, hs, hd, at_zero, hread, Res.andThen, Bool.false_eq_true, if_false, if_true]
  have hat := State.coreAt_modCore s1 core core (·.spmWrite x.ctx (m.dst.toNat % 2 ^ 21) (whole bs) tag)
  rw [if_pos rfl] at hat
  obtain ⟨u, hu, hgone, hbytes, sy, qs, hcore⟩ := single_completes hx h1 h4 hm hword h0 hseg ht hctl hmove (by rw [hat]; exact hqueues)
    (by rw [hat]; exact hsync)
  have hdst : m.dst.toNat % 2 ^ 21 % 64 = 0 := by
    obtain ⟨-, hd, -, -⟩ := misaligned_none ha
    omega
  refine ⟨u, hu, hgone, hbytes, fun k => ?_, ?_⟩
  · obtain ⟨l, t, hc⟩ := hsame.core core
    rw [hcore, hat]
    refine (spmWrite_byte _ x.ctx _ bs tag k).trans ?_
    rw [hlen, hc]
  · rw [hcore, hat]
    exact spmWrite_row _ x.ctx hdst hlen tag

/-- A segment written to global memory stands at its home. -/
theorem copy_to_global {bs : List Byte} {tag : Bool} {p : Part} {s1 : State} (hd : m.dkind = false)
    (hread : s.segRead core x.ctx m 0 = .ok (bs, tag) s) (hlen : bs.length = 64)
    (hheld : s.walkHeld (dieOfCore core) (some core) x.ctx m.dst 64 = false)
    (hacc : s.access (some core) x.ctx m.dst 64 .write s.fresh = .ok [p] s1) (hoff : p.off = 0) (hp : p.len = 64)
    (hfree : s1.homesFree (dieOfCore core) [p] = true) (hb : s1.mem.bounces p.pa = false) (hdis : s1.mem.discards p.pa = false) :
    ∃ u, exec (.engineCommandComplete core q seg) s = .next u ∧ (∀ y ∈ (u.coreAt core).queue q, y.id ≠ x.id) ∧
      ∀ b, u.mem.byteAt b = if p.pa ≤ b ∧ b < p.pa + 64 then (bs[b - p.pa]?).getD 0 else s1.mem.byteAt b := by
  have hmove : (s.segRead core x.ctx m 0).andThen (fun y s => s.segWrite core x.ctx m 0 y.1 y.2) =
      .ok () ((s1.homeWrite x.ctx p.pa (whole bs) tag).updateCopies none (dieOfCore core) p.pa (whole bs) tag) := by
    simp only [hread, Res.andThen, State.segWrite, hd, at_zero, Bool.false_eq_true, if_false]
    exact engWrite_part hlen hheld hacc hoff hp hfree hb
  have hkept := sameCores_kept s
  obtain ⟨hqueues, hsync⟩ := State.SameCores.queues (hkept.updateCopies (die := dieOfCore core) (pa := p.pa) (bs := whole bs) (tag := tag)
    (hkept.homeWrite (ctx := x.ctx) (pa := p.pa) (bs := whole bs) (tag := tag) ((hkept.access (.refl s)).ok hacc))) core
  obtain ⟨u, hu, hgone, hbytes, -⟩ := single_completes hx h1 h4 hm hword h0 hseg ht hctl hmove hqueues hsync
  refine ⟨u, hu, hgone, fun b => ?_⟩
  rw [MemState.byteAt, hbytes]
  exact engWrite_bytes hlen hdis b

end

/-! CPYT publishes (R106, R258). -/

/-- A CPYT whose segments have all been moved comes to its publish. -/
theorem cpyt_publishes {h : EHead} {a : CpyArgs} {m : Move} (hx : Completes s core q x) (h1 : 1 ≤ q) (h4 : q ≤ 4) (hw : x.word = .cpyt h a)
    (hm : x.move = some m) (hall : m.total ≤ x.progress) (hseg : 0 < seg) : exec (.engineCommandComplete core q seg) s =
      .next ((s.modCore core (·.modCmd q x.id fun y => { y with progress := m.total + 64 })).cpytPublish core q
        { x with progress := m.total + 64 } a.decl.toNat) := by
  obtain ⟨n, rfl⟩ : ∃ n, seg = n + 1 := ⟨seg - 1, by omega⟩
  rw [courier_exec hx h1 h4 hm, copySegments_done n hx.named hall]
  simp only [State.copyDone, hw, hm, hx.kept, Bool.false_eq_true, if_false]

/-- A second publish of a declaration has no effect. -/
theorem cpytPublish_again {t : TileTask} {n : Nat} (ht : s.ttAt x.tt = some t) (hp : s.hasPublished t.block t.idx n = true) :
    s.cpytPublish core q x n = s.completeCmd core q x := by
  simp only [State.cpytPublish, ht, hp, if_true]

/-- The first publish of a declaration. -/
theorem cpytPublish_first {t : TileTask} {n : Nat} {b : Block} {y : Decl} {r : List Byte × Bool} {s1 : State} (ht : s.ttAt x.tt = some t)
    (hp : s.hasPublished t.block t.idx n = false) (hreach : s.reaches (dieOfCore core) cd = true) (hb : s.blockAt t.block = some b)
    (hy : b.lb.decls[n]? = some y) (hctl : q ∉ (s.coreAt core).ctlErrors) (hread : s.engRead core x.ctx y.desc 32 = .ok r s1)
    (hlive : (s1.work.buf t.ctx y.buffer).live = BitVec.ofNat 8 y.gen) : s.cpytPublish core q x n =
      ((s1.notePublished t.block t.idx n).publish t.ctx y.buffer (y.key t.g1 t.g2 t.g3) (BitVec.ofNat 8 y.gen)).completeCmd core q x := by
  have hstale : s1.stalePublish t.ctx y.buffer (BitVec.ofNat 8 y.gen) = false := by
    rw [State.stalePublish, hlive, BitVec.sub_self]
    exact Bool.and_false _
  simp only [State.cpytPublish, ht, hp, hreach, hb, hy, hread, hstale, Option.bind_some, State.engTurn, List.contains_eq_mem,
    decide_eq_false hctl, Bool.false_eq_true, if_false, Bool.not_true]

theorem notePublished_publish_cores {c b blk idx di : Nat} {k : Key} {g : BitVec 8} {y : Block} (hy : s.blockAt blk = some y)
    (hfresh : (s.work.buf c b).fresh = false) (hlive : (s.work.buf c b).live = g) (hfine : (s.work.buf c b).coarse = false)
    (hentry : s.work.entry c b k = none) (hroom : s.work.trtFree ≠ 0) :
    ((s.notePublished blk idx di).publish c b k g).cores = s.cores := by
  rw [notePublished_block hy, publish_first (s := s.setBlock blk _) hfresh hlive hfine hentry hroom]
  rfl

/-- What the publish of a CPYT leaves. -/
theorem cpyt_first {h : EHead} {a : CpyArgs} {m : Move} {t : TileTask} {b : Block} {y : Decl} {r : List Byte × Bool} {s1 : State}
    (hx : Completes s core q x) (h1 : 1 ≤ q) (h4 : q ≤ 4) (hw : x.word = .cpyt h a) (hm : x.move = some m) (hall : m.total ≤ x.progress)
    (hseg : 0 < seg) (ht : s.ttAt x.tt = some t) (hb : s.blockAt t.block = some b) (hy : b.lb.decls[a.decl.toNat]? = some y)
    (hp : s.hasPublished t.block t.idx a.decl.toNat = false) (hreach : s.reaches (dieOfCore core) cd = true)
    (hctl : q ∉ (s.coreAt core).ctlErrors)
    (hread : (s.modCore core (·.modCmd q x.id fun z => { z with progress := m.total + 64 })).engRead core x.ctx y.desc 32 = .ok r s1)
    (hfresh : (s1.work.buf t.ctx y.buffer).fresh = false) (hlive : (s1.work.buf t.ctx y.buffer).live = BitVec.ofNat 8 y.gen)
    (hfine : (s1.work.buf t.ctx y.buffer).coarse = false) (hentry : s1.work.entry t.ctx y.buffer (y.key t.g1 t.g2 t.g3) = none)
    (hroom : s1.work.trtFree ≠ 0) (hb1 : s1.blockAt t.block = some b) :
    ∃ u e, (exec (.engineCommandComplete core q seg) s = .next u ∧ ∀ z ∈ (u.coreAt core).queue q, z.id ≠ x.id) ∧
      u.work.entry t.ctx y.buffer (y.key t.g1 t.g2 t.g3) = some e ∧ e.published = true ∧
      (u.work.buf t.ctx y.buffer).count = satSucc (s1.work.buf t.ctx y.buffer).count ∧
      u.hasPublished t.block t.idx a.decl.toNat = true ∧ u.mem.bytes = s1.mem.bytes := by
  have hat := State.coreAt_modCore s core core (·.modCmd q x.id fun z => { z with progress := m.total + 64 })
  rw [if_pos rfl] at hat
  have hfirst := cpytPublish_first (s := s.modCore core (·.modCmd q x.id fun z => { z with progress := m.total + 64 }))
    (x := { x with progress := m.total + 64 }) (q := q) ht hp hreach hb hy (by rw [hat]; exact hctl) hread hlive
  have hcores := notePublished_publish_cores (idx := t.idx) (di := a.decl.toNat) hb1 hfresh hlive hfine hentry hroom
  obtain ⟨e, he, hpub, hcount, hhas, -, hmem⟩ :=
    notePublished_publish (idx := t.idx) (di := a.decl.toNat) hb1 hfresh hlive hfine hentry hroom
  generalize (s1.notePublished t.block t.idx a.decl.toNat).publish t.ctx y.buffer (y.key t.g1 t.g2 t.g3) (BitVec.ofNat 8 y.gen) = v at *
  have hsync : (v.coreAt core).sync = (s.coreAt core).sync := by
    obtain ⟨-, hs1⟩ := State.SameCores.queues ((sameCores_kept _).engRead (.refl _) |>.ok hread) core
    rw [hat] at hs1
    rw [State.coreAt, hcores]
    exact hs1
  obtain ⟨hgone, hbytes, hwork, -⟩ := completeCmd_finished (q := q) (x := { x with progress := m.total + 64 })
    (signalFits_of_sync hx.fits hsync)
  refine ⟨_, e, ⟨(cpyt_publishes hx h1 h4 hw hm hall hseg).trans (congrArg Host.Outcome.next hfirst), hgone⟩, ?_, hpub, ?_, ?_, ?_⟩
  · rw [hwork]; exact he
  · rw [hwork]; exact hcount
  · rw [State.hasPublished, State.blockAt, hwork]; exact hhas
  · rw [hbytes, hmem]

/-! WSTRM (R253, R254). -/

section
variable {P : State → Prop} (hP : State.Kept P)
include hP

theorem State.Kept.denseRows {src n k rs} (h : P s) : P (s.denseRows src n k rs).s := by
  induction n generalizing s k rs with
  | zero => exact h
  | succ n ih =>
    unfold State.denseRows
    split
    next e => exact ih ((hP.engRead h).ok e)
    next e => exact (hP.engRead h).trap e
    next e => exact (hP.engRead h).wait e

theorem State.Kept.sparseRows {src w n k rs} (h : P s) : P (s.sparseRows src w n k rs).s := by
  induction n generalizing s k rs with
  | zero => exact h
  | succ n ih =>
    unfold State.sparseRows
    dsimp only
    split
    next e =>
      have h1 := (hP.engRead h).ok e
      split
      · exact ih h1
      · exact h1
    next e => exact (hP.engRead h).trap e
    next e => exact (hP.engRead h).wait e

theorem State.Kept.zrunBlocks {src n run zero tag off bs} (h : P s) : P (s.zrunBlocks src n run zero tag off bs).s := by
  induction n generalizing s run zero tag off bs with
  | zero => exact h
  | succ n ih =>
    unfold State.zrunBlocks
    extract_lets header
    have hheader : header.Leaves P := .ite (hP.engRead h) h
    clear_value header
    split
    · exact hheader
    · exact hheader
    next h1 v =>
      have hv : P v := hheader
      extract_lets
      split
      · exact hv
      · split
        · exact ih hv
        · split
          next e => exact (hP.engRead hv).trap e
          next e => exact (hP.engRead hv).wait e
          next e => exact ih ((hP.engRead hv).ok e)

theorem State.Kept.decodeStream {src a} (h : P s) : P (s.decodeStream src a).s := by
  unfold State.decodeStream
  dsimp only
  split
  · exact hP.denseRows h
  · exact hP.sparseRows h
  · exact hP.zrunBlocks h

end

theorem flatten_length {α : Type} {n : Nat} (ls : List (List α)) (h : ∀ l ∈ ls, l.length = n) : ls.flatten.length = n * ls.length := by
  rw [List.length_flatten, List.sum_eq_card_nsmul (ls.map List.length) n fun k hk => ?_, List.length_map, smul_eq_mul, Nat.mul_comm]
  obtain ⟨l, hl, rfl⟩ := List.mem_map.mp hk
  exact h l hl

/-- Whole tiles of rows put in the stream-side buffer: each byte and each tag at its place, and no other. -/
theorem putTiles_leaves (c : Core) (t0 : Nat) {rows : List WRow} (h64 : rows.length % 64 = 0) (hlen : ∀ r ∈ rows, r.1.length = 128) :
    let base := 16 * (1 - c.side) + t0
    (∀ k i r, rows[k]? = some r → i < 128 → tget 0 (c.putTiles t0 rows).wb (8192 * base + 128 * k + i) = (r.1[i]?).getD 0 ∧
      tget false (c.putTiles t0 rows).wbTag (64 * base + k) = r.2) ∧
    (∀ k, k < 8192 * base ∨ 8192 * base + 128 * rows.length ≤ k → tget 0 (c.putTiles t0 rows).wb k = tget 0 c.wb k) ∧
    ∀ k, k < 64 * base ∨ 64 * base + rows.length ≤ k → tget false (c.putTiles t0 rows).wbTag k = tget false c.wbTag k := by
  intro base
  have htake : rows.take (rows.length / 64 * 64) = rows := List.take_of_length_le (by omega)
  have hrow : ∀ l ∈ rows.map (·.1), l.length = 128 := by
    intro l hl
    obtain ⟨r, hr, rfl⟩ := List.mem_map.mp hl
    exact hlen r hr
  have hflat : (rows.map (·.1)).flatten.length = 128 * rows.length := by rw [flatten_length _ hrow, List.length_map]
  have hwb (k : Nat) : tget 0 (c.putTiles t0 rows).wb k = if 8192 * base ≤ k ∧ k < 8192 * base + 128 * rows.length then
      ((rows.map (·.1)).flatten[k - 8192 * base]?).getD 0 else tget 0 c.wb k := by
    rw [Core.putTiles, htake, tget_tsets, hflat]
  have htag (k : Nat) : tget false (c.putTiles t0 rows).wbTag k = if 64 * base ≤ k ∧ k < 64 * base + rows.length then
      ((rows.map (·.2))[k - 64 * base]?).getD false else tget false c.wbTag k := by
    rw [Core.putTiles, htake, tget_tsets, List.length_map]
  refine ⟨fun k i r hr hi => ?_, fun k hk => ?_, fun k hk => ?_⟩
  · obtain ⟨hk, -⟩ := List.getElem?_eq_some_iff.mp hr
    rw [hwb, if_pos (by omega), htag, if_pos (by omega), show 8192 * base + 128 * k + i - 8192 * base = 128 * k + i by omega,
      flatten_getElem? _ hrow hi, List.getElem?_map, hr, Nat.add_sub_cancel_left, List.getElem?_map, hr]
    exact ⟨rfl, rfl⟩
  · rw [hwb, if_neg (by omega)]
  · rw [htag, if_neg (by omega)]

/-- A WSTRM whose stream decodes puts its rows in the stream-side buffer (R253). -/
theorem wstrm_completes {h : EHead} {a : WstArgs} {ptr : W64} {s1 : State} {rows : List WRow} (hx : Completes s core 5 x)
    (hw : x.word = .wstrm h a) (hr : x.regs = [ptr]) (hctl : 5 ∉ (s.coreAt core).ctlErrors)
    (hdec : s.decodeStream ⟨core, x.ctx, ptr⟩ a = ⟨s1, rows, none, none⟩) :
    ∃ u, exec (.engineCommandComplete core 5 seg) s = .next u ∧ (∀ y ∈ (u.coreAt core).queue 5, y.id ≠ x.id) ∧
      u.mem.bytes = s1.mem.bytes ∧ (u.coreAt core).wb = ((s.coreAt core).putTiles a.t0.toNat rows).wb ∧
      (u.coreAt core).wbTag = ((s.coreAt core).putTiles a.t0.toNat rows).wbTag := by
  have hsame : s.SameCores s1 := by
    have h1 := (sameCores_kept s).decodeStream (src := ⟨core, x.ctx, ptr⟩) (a := a) (.refl s)
    rwa [hdec] at h1
  have hat := State.coreAt_modCore s1 core core (·.putTiles a.t0.toNat rows)
  rw [if_pos rfl] at hat
  have hexec : exec (.engineCommandComplete core 5 seg) s =
      .next ((s1.modCore core (·.putTiles a.t0.toNat rows)).completeCmd core 5 x) := by
    change execEngineCommandComplete core 5 seg s = _
    unfold execEngineCommandComplete
    rw [hx.started]
    simp only [hx.works, hw, State.performWstrm, hr, State.engTurn, List.contains_eq_mem, decide_eq_false hctl, hdec, Nat.reduceLT,
      Nat.reduceEqDiff, if_true, if_false, Bool.false_eq_true]
  obtain ⟨l, t, hc⟩ := hsame.core core
  obtain ⟨hgone, hbytes, -, ⟨sy, qs, hu⟩⟩ := completeCmd_finished (q := 5) (signalFits_of_sync
    (v := s1.modCore core (·.putTiles a.t0.toNat rows)) hx.fits (by rw [hat]; exact (hsame.queues core).2))
  exact ⟨_, hexec, hgone, hbytes, by rw [hu, hat, hc]; rfl, by rw [hu, hat, hc]; rfl⟩

/-! 2:4 rows (R254). -/

/-- The elements of a group of a 2:4 row, from its nibble and its two values. -/
def groupOf (nib a b : Nat) : List Nat := (upto 4).map fun p => if p = nib % 4 then a else if p = nib / 4 then b else 0

theorem sparseRow_eq (w : Nat) (bs : List Byte) : sparseRow w bs =
    let vals := elemsOf w (512 / w) (bs.take 64)
    if (upto (256 / w)).all fun g => nibble (bs.drop 64) g % 4 < nibble (bs.drop 64) g / 4 then
      some (leBytes 128 (packNat w ((upto (256 / w)).map fun g =>
        groupOf (nibble (bs.drop 64) g) ((vals[2 * g]?).getD 0) ((vals[2 * g + 1]?).getD 0)).flatten))
    else none := rfl

/-- An element of a row of 128 bytes is the one packed in it. -/
theorem row_element {w : Nat} {els : List Nat} (h : w * els.length = 1024) (i : Nat) :
    leNat (leBytes 128 (packNat w els)) / 2 ^ (w * i) % 2 ^ w = (els[i]?).getD 0 % 2 ^ w := by
  rw [leNat_leBytes, show 256 = 2 ^ 8 from rfl, ← Nat.pow_mul, show 8 * 128 = w * els.length from h.symm, Nat.mod_eq_of_lt (packNat_lt w els)]
  exact bits_packNat w els i

theorem groupOf_getElem? (nib a b : Nat) {p : Nat} (hp : p < 4) :
    (groupOf nib a b)[p]? = some (if p = nib % 4 then a else if p = nib / 4 then b else 0) := by
  rw [groupOf, upto, List.getElem?_map, List.getElem?_range hp, Option.map_some]

theorem sparseRow_places {w : Nat} {bs row : List Byte} (hw : w = 4 ∨ w = 8 ∨ w = 16) (h : sparseRow w bs = some row) :
    row.length = 128 ∧ ∀ g, g < 256 / w →
      let nib := leNat (bs.drop 64) / 16 ^ g % 16
      let val (i : Nat) : Nat := leNat (bs.take 64) / 2 ^ (w * i) % 2 ^ w
      nib % 4 < nib / 4 ∧ ∀ p, p < 4 → leNat row / 2 ^ (w * (4 * g + p)) % 2 ^ w =
        if p = nib % 4 then val (2 * g) else if p = nib / 4 then val (2 * g + 1) else 0 := by
  rw [sparseRow_eq] at h
  extract_lets vals at h
  split at h
  · next hall =>
    obtain rfl := Option.some.inj h
    refine ⟨leBytes_length .., fun g hg => ?_⟩
    intro nib val
    have hnib : nibble (bs.drop 64) g = nib := by
      rw [nibble, bits, Nat.pow_mul]
      rfl
    have hval {i : Nat} (hi : i < 512 / w) : (vals[i]?).getD 0 = val i := by
      rw [show vals[i]? = _ from List.getElem?_map, upto, List.getElem?_range hi]
      rfl
    have h512 : 2 * g + 1 < 512 / w := by rcases hw with rfl | rfl | rfl <;> omega
    have hlt := List.all_eq_true.mp hall g (List.mem_range.mpr hg)
    rw [decide_eq_true_eq, hnib] at hlt
    refine ⟨hlt, fun p hp => ?_⟩
    rw [row_element, flatten_getElem? (n := 4) _ _ hp, List.getElem?_map, upto, List.getElem?_range hg]
    · refine Eq.trans ?_ (Nat.mod_eq_of_lt (b := 2 ^ w) ?_)
      · rw [Option.map_some, Option.bind_some, groupOf_getElem? _ _ _ hp, Option.getD_some, hnib, hval (by omega), hval h512]
      · split_ifs
        · exact Nat.mod_lt _ (Nat.two_pow_pos w)
        · exact Nat.mod_lt _ (Nat.two_pow_pos w)
        · exact Nat.two_pow_pos w
    · intro l hl
      obtain ⟨g, -, rfl⟩ := List.mem_map.mp hl
      rfl
    · rw [flatten_length (n := 4), List.length_map, upto, List.length_range]
      · rcases hw with rfl | rfl | rfl <;> rfl
      · intro l hl
        obtain ⟨g, -, rfl⟩ := List.mem_map.mp hl
        rfl
  · cases h
/-! Special-function commands (R262). -/

/-- A started special-function command leaves its core. -/
theorem sfj_completes (hx : Completes s core 6 x) : ∃ u, exec (.engineCommandComplete core 6 seg) s = .next u ∧
    (u.coreAt core).arriving = (s.coreAt core).arriving ++ [x] ∧ ∀ y ∈ (u.coreAt core).queue 6, y.id ≠ x.id := by
  have hexec : exec (.engineCommandComplete core 6 seg) s = .next ((s.modCore core fun c =>
      { c.dropCmd 6 x.id with arriving := c.arriving ++ [x] }).settleRels x.strand) := by
    change execEngineCommandComplete core 6 seg s = _
    unfold execEngineCommandComplete
    rw [hx.started]
    simp only [hx.works, Nat.reduceLT, Nat.reduceEqDiff, if_true, if_false, Bool.false_eq_true]
  refine ⟨_, hexec, ?_, ?_⟩
  · rw [settleRels_coreAt, State.coreAt_modCore, if_pos rfl]
  · rw [settleRels_coreAt, State.coreAt_modCore, if_pos rfl]
    exact dropCmd_lacks _ _ _

/-- The completion of a job arrives at its core (R250, R262). -/
theorem sfjCompletion_next {rest : List Cmd} {t : TileTask} {i k : Nat} (ha : (s.coreAt core).arriving = x :: rest)
    (hd : x.discard = false) (ht : s.ttAt x.tt = some t) (hs : t.saving = false) (hc : t.core = core) (hsig : x.sig = some (i, k))
    (hp : ((s.coreAt core).sem i).poisoned = false) (hf : ((s.coreAt core).sem i).count + k ≤ 65535) :
    (s.reaches sfd (dieOfCore core) = false → exec (.sfjCompletion core) s = .next s) ∧
    (s.reaches sfd (dieOfCore core) = true → ∃ u, exec (.sfjCompletion core) s = .next u ∧ (u.coreAt core).arriving = rest ∧
      (∀ j, ((u.coreAt core).sem j).count = ((s.coreAt core).sem j).count + if j = i then k else 0) ∧
      u.mem = s.mem ∧ u.strands = s.strands) := by
  have hheld : s.recordHeld x.tt = false := by simp only [State.recordHeld, ht]
  refine ⟨fun hr => ?_, fun hr => ?_⟩
  · change execSfjCompletion core s = _
    simp only [execSfjCompletion, ha, hr, Bool.not_false, Bool.true_or, if_true]
  · have hat := State.coreAt_modCore s core core fun c => { c with arriving := rest }
    rw [if_pos rfl] at hat
    have hexec : exec (.sfjCompletion core) s =
        .next ((s.modCore core fun c => { c with arriving := rest }).signal core (s.faultOfCmd core 6 x) (some (i, k))) := by
      change execSfjCompletion core s = _
      have ht' : (s.modCore core fun c => { c with arriving := rest }).ttAt x.tt = some t := ht
      simp only [execSfjCompletion, ha, hr, hheld, hd, ht', hs, hc, hsig, Bool.not_true, Bool.or_false, Bool.false_eq_true, if_false]
    obtain ⟨y, hrest, hcore, -, hcount⟩ := signal_counts (s := s.modCore core fun c => { c with arriving := rest }) (core := core)
      (s.faultOfCmd core 6 x) (by rw [hat]; exact hp) (by rw [hat]; exact hf)
    refine ⟨_, hexec, ?_, fun j => ?_, (congrArg State.mem hrest :), (congrArg State.strands hrest :)⟩
    · rw [hcore, hat]
    · rw [hcore]
      refine (hcount j).trans ?_
      rw [hat]
      rfl

/-! How the bytes of a stream become rows (R254). -/

theorem denseRows_next {s1 : State} {src : Source} {x : List Byte × Bool} (n k : Nat) (rs : List WRow)
    (h : s.stream src (128 * k) 128 = .ok x s1) : s.denseRows src (n + 1) k rs = s1.denseRows src n (k + 1) (rs ++ [x]) := by
  simp only [State.denseRows, h]

theorem sparseRows_next {s1 : State} {src : Source} {x : List Byte × Bool} {w : Nat} (n k : Nat) (rs : List WRow)
    (h : s.stream src ((64 + 128 / w) * k) (64 + 128 / w) = .ok x s1) :
    (∀ row, sparseRow w x.1 = some row → s.sparseRows src w (n + 1) k rs = s1.sparseRows src w n (k + 1) (rs ++ [(row, x.2)])) ∧
    (sparseRow w x.1 = none → s.sparseRows src w (n + 1) k rs =
      ⟨s1, rs, some (.weightFormat, Rec.addr (src.ptr + BitVec.ofNat 64 ((64 + 128 / w) * k))), none⟩) := by
  refine ⟨fun row hrow => ?_, fun hrow => ?_⟩
  · simp only [State.sparseRows, h, hrow]
  · simp only [State.sparseRows, h, hrow, badRecord]

/-- The header of a record of zero-block runs. -/
theorem zrunBlocks_header {s1 : State} {src : Source} {x : List Byte × Bool} (n off : Nat) (z t : Bool) (bl : List (List Byte × Bool))
    (h : s.stream src off 2 = .ok x s1) : let v := leNat x.1
    let blocks := v % 32768 + 1
    (n + 1 < blocks → s.zrunBlocks src (n + 1) 0 z t off bl =
      ⟨s1, pairRows bl, some (.weightFormat, Rec.addr (src.ptr + BitVec.ofNat 64 off)), none⟩) ∧
    (blocks ≤ n + 1 → 32768 ≤ v → s.zrunBlocks src (n + 1) 0 z t off bl =
      s1.zrunBlocks src n (blocks - 1) true x.2 (off + 2) (bl ++ [(List.replicate 64 0, x.2)])) ∧
    (blocks ≤ n + 1 → v < 32768 → ∀ y s2, s1.stream src (off + 2) 64 = .ok y s2 → s.zrunBlocks src (n + 1) 0 z t off bl =
      s2.zrunBlocks src n (blocks - 1) false x.2 (off + 66) (bl ++ [(y.1, y.2 || x.2)])) := by
  intro v blocks
  refine ⟨fun hn => ?_, fun hn hv => ?_, fun hn hv y s2 hy => ?_⟩
  · rw [State.zrunBlocks]
    simp only [if_true, h]
    exact if_pos hn
  · have hfits : ¬ n + 1 < leNat x.1 % 32768 + 1 := Nat.not_lt.mpr hn
    have hzero : decide (32768 ≤ leNat x.1) = true := decide_eq_true hv
    rw [State.zrunBlocks]
    simp only [if_true, h, if_neg hfits, hzero]
    rfl
  · have hfits : ¬ n + 1 < leNat x.1 % 32768 + 1 := Nat.not_lt.mpr hn
    have hcopy : decide (32768 ≤ leNat x.1) = false := decide_eq_false (Nat.not_le.mpr hv)
    rw [State.zrunBlocks]
    simp only [if_true, h, if_neg hfits, hcopy, Bool.false_eq_true, if_false, hy]
    rfl

/-- A further block of a record, zero or copied. -/
theorem zrunBlocks_block {src : Source} {n k : Nat} (t : Bool) (off : Nat) (bl : List (List Byte × Bool)) (hk : k ≤ n) :
    s.zrunBlocks src (n + 1) (k + 1) true t off bl = s.zrunBlocks src n k true t off (bl ++ [(List.replicate 64 0, t)]) ∧
    ∀ y s1, s.stream src off 64 = .ok y s1 → s.zrunBlocks src (n + 1) (k + 1) false t off bl =
      s1.zrunBlocks src n k false t (off + 64) (bl ++ [(y.1, y.2 || t)]) := by
  have hlt : ¬ n + 1 < k + 1 := by omega
  refine ⟨?_, fun y s1 hy => ?_⟩
  · rw [State.zrunBlocks]
    simp only [Nat.succ_ne_zero, if_false, if_neg hlt, if_true, Nat.add_sub_cancel]
  · rw [State.zrunBlocks]
    simp only [Nat.succ_ne_zero, if_false, if_neg hlt, hy, Nat.add_sub_cancel, Bool.false_eq_true]

theorem decodeStream_formats (s : State) (src : Source) (x : WstArgs) : s.decodeStream src x =
    let tiles := x.count1.toNat + 1
    if x.fmt.toNat = 0 then s.denseRows src (64 * tiles) 0 []
    else if x.fmt.toNat = 1 then s.sparseRows src (4 * 2 ^ x.width.toNat) (64 * tiles) 0 []
    else s.zrunBlocks src (128 * tiles) 0 false false 0 [] := by
  unfold State.decodeStream
  dsimp only
  split
  · next h => rw [if_pos h]
  · next h => rw [if_neg (by omega), if_pos h]; rfl
  · next h0 h1 => rw [if_neg h0, if_neg h1]

/-- Settles O28: WSEL, fills and copies within the scratchpad, single segments to and from global memory, CPYT, WSTRM and its formats,
special-function commands, and their completions. -/
theorem engineCompletes : Obligations.EngineCompletes := by
  unfold Obligations.EngineCompletes
  refine ⟨?_, ?_, ?_, ?_, fun _ _ _ => rfl, ?_, decodeStream_formats⟩
  · intro s core q seg x h hq hworks hkept hstarted hnamed hfits hruns c
    have hx : Completes s core q x := ⟨hq, hworks, hkept, hstarted, hnamed, hfits, hruns⟩
    refine ⟨?_, ?_, ?_, ?_, ?_, ?_, ?_, ?_⟩
    · rintro buf rfl hw
      have hat := State.coreAt_modCore s core core fun c => { c with side := buf.toNat }
      rw [if_pos rfl] at hat
      obtain ⟨hgone, hbytes, -, ⟨sy, qs, hu⟩⟩ := completeCmd_finished (q := 5) (signalFits_of_sync
        (v := s.modCore core fun c => { c with side := buf.toNat }) hfits (by rw [hat]))
      exact ⟨_, wsel_completes hx hw, by rw [hu, hat], hgone, hbytes⟩
    · intro a d src z w m h1 h4 hw hr h0 hd ha hin hseg hall
      have hm : x.move = some m := by simp only [Cmd.move, hw, hr]; rfl
      obtain ⟨u, hu, hgone, hbytes, hspm⟩ := local_completes hx h1 h4 hm (by rw [hw]; nofun) (by simp [Move.global, m, moveOf, hd])
        (total_aligned ha) h0 hseg hall
      refine ⟨u, hu, hgone, hbytes, fun r b hr hb => ?_, fun k hk => ?_⟩
      · rw [hspm]
        exact fill_places ha hin hd rfl c x.ctx hr hb
      · rw [hspm]
        exact copySegs_frame ha hin hd c x.ctx hk
    · intro a d src z w m place reads writes moved h1 h4 hw hr h0 hs hd ha hin hseg hall hww hrw
      have hm : x.move = some m := by simp only [Cmd.move, hw, hr]; rfl
      obtain ⟨u, hu, hgone, hbytes, hspm⟩ := local_completes hx h1 h4 hm (by rw [hw]; nofun) (by simp [Move.global, m, moveOf, hd, hs])
        (total_aligned ha) h0 hseg hall
      refine ⟨u, hu, hgone, hbytes, fun r b ⟨hr, hb⟩ => ?_, fun k hk => ?_⟩
      · rw [hspm]
        exact copy_places ha hin hd hs rfl c x.ctx hww hrw hr hb
      · rw [hspm]
        exact copySegs_frame ha hin hd c x.ctx fun r b hr hb => hk r b ⟨hr, hb⟩
    · intro a d src z w m h1 h4 hw hr h0 ha hin hseg hrows hbytes hctl
      have hm : x.move = some m := by simp only [Cmd.move, hw, hr]; rfl
      have ht : m.total = 64 := by rw [Move.total, hrows, hbytes]
      refine ⟨fun bs tag s1 hs hd hread hlen => ?_, fun p s1 hs hd hheld hacc hoff hp hfree hb hdis => ?_⟩
      · exact copy_from_global hx h1 h4 hm (by rw [hw]; nofun) h0 hseg ht hctl ha rfl hs hd hread hlen
      · have hread : s.segRead core x.ctx m 0 = .ok (c.spmRead (m.src.toNat % 2 ^ 21) 64) s := by
          simp only [State.segRead, show m.fill = false from rfl, show m.skind = true from hs, at_zero, Bool.false_eq_true, if_false, if_true]
          rfl
        obtain ⟨u, hu, hgone, hb⟩ := copy_to_global hx h1 h4 hm (by rw [hw]; nofun) h0 hseg ht hctl hd hread (tgets_length ..) hheld hacc
          hoff hp hfree hb hdis
        refine ⟨u, hu, hgone, fun b => (hb b).trans (if_ctx_congr Iff.rfl (fun hin => ?_) fun _ => rfl)⟩
        rw [getElem?_tgets, if_pos (by omega), Option.getD_some]
        rfl
    · intro a d src z w p s1 m h1 h4 hw hr h0 ha hseg hrows hbytes hctl hd hheld hacc hoff hp hfree hb hdis
      have hm : x.move = some m := by simp only [Cmd.move, hw, hr]; rfl
      have ht : m.total = 64 := by rw [Move.total, hrows, hbytes]
      have hread : s.segRead core x.ctx m 0 = .ok (fillBytes m.src, false) s := by
        simp only [State.segRead, show m.fill = true from rfl, if_true]
        rfl
      obtain ⟨u, hu, hgone, hb⟩ := copy_to_global hx h1 h4 hm (by rw [hw]; nofun) h0 hseg ht hctl hd hread (fillBytes_length _) hheld hacc
        hoff hp hfree hb hdis
      refine ⟨u, hu, hgone, fun b => (hb b).trans (if_ctx_congr Iff.rfl (fun hin => ?_) fun _ => rfl)⟩
      rw [fillBytes_getElem? _ (by omega), Option.getD_some]
      rfl
    · intro a d src z w t b y r s1 m n key s' done h1 h4 hw hr hall hseg ht hb hy
      have hm : x.move = some m := by simp only [Cmd.move, hw, hr]; rfl
      refine ⟨fun hp => ?_, fun hp hreach hctl hread hfresh hlive hfine hentry hroom hb1 => ?_⟩
      · have hat := State.coreAt_modCore s core core (·.modCmd q x.id fun z => { z with progress := m.total + 64 })
        rw [if_pos rfl] at hat
        have hagain := cpytPublish_again (s := s') (core := core) (q := q) (x := { x with progress := m.total + 64 }) ht hp
        obtain ⟨hgone, hbytes, hwork, -⟩ := completeCmd_finished (q := q) (x := { x with progress := m.total + 64 })
          (signalFits_of_sync (v := s') hfits (by rw [hat]; rfl))
        exact ⟨_, ⟨(cpyt_publishes hx h1 h4 hw hm hall hseg).trans (congrArg Host.Outcome.next hagain), hgone⟩, hwork, hbytes⟩
      · exact cpyt_first hx h1 h4 hw hm hall hseg ht hb hy hp hreach hctl hread hfresh hlive hfine hentry hroom hb1
    · rintro a ptr s1 rows rfl hw hr hctl hside hdec hlen h128 base
      obtain ⟨u, hu, hgone, hbytes, hwb, htag⟩ := wstrm_completes hx hw hr hctl hdec
      obtain ⟨hin, hout, hoff⟩ := putTiles_leaves c a.t0.toNat (by omega) h128
      refine ⟨u, hu, hgone, hbytes, ?_⟩
      rw [hwb, htag]
      exact ⟨hin, hout, hoff⟩
    · rintro rfl
      exact sfj_completes hx
  · intro s core x rest t i k harr hd ht hs hc hsig hp hf
    exact sfjCompletion_next harr hd ht hs hc hsig hp hf
  · intro s s1 s2 core ctx n k m bs tag hread hwrite
    rw [State.moveSegs, hread]
    simp only [Res.andThen, hwrite]
  · intro s s1 s2 src n k w off rs bl x y z t
    refine ⟨rfl, denseRows_next n k rs, rfl, sparseRows_next n k rs, rfl, fun h => ?_, fun hk => (zrunBlocks_block t off bl hk).1,
      fun hk => (zrunBlocks_block t off bl hk).2 y s1⟩
    obtain ⟨hbad, hzero, hcopied⟩ := zrunBlocks_header n off z t bl h
    exact ⟨hbad, hzero, fun hn hv => hcopied hn hv y s2⟩
  · intro w bs row hw hlen hrow
    obtain ⟨h128, hgroups⟩ := sparseRow_places hw hrow
    refine ⟨h128, ?_⟩
    intro val out g hg nib
    obtain ⟨hlt, hout⟩ := hgroups g hg
    have hnib : nib < 16 := Nat.mod_lt _ (by decide)
    exact ⟨hlt, (hout (nib % 4) (by omega)).trans (if_pos rfl),
      (hout (nib / 4) (by omega)).trans ((if_neg (Nat.ne_of_gt hlt)).trans (if_pos rfl)),
      fun p hp hp0 hp1 => (hout p hp).trans ((if_neg hp0).trans (if_neg hp1))⟩

end Sys2Proof.Machine
end

-- ==== Proofs: engine commands start (O24) ====
section
/-! PROOF. Heads that start, stamped words that issue on their tick or miss it, and commands that fail (R71, R72, R151, R236): what each
leaves of the queues and semaphores of its core. -/
namespace Sys2Proof.Machine

variable {s : State} {core q : Nat} {x : Cmd} {h : EHead}

/-! Queues, apart from the times of arrival and the walks of chains. -/

/-- A command without its time of arrival and its chain. -/
def Cmd.bare (y : Cmd) : Cmd := { y with arrived := none, chain := none }

theorem bare_modCmd (c : Core) (r id p : Nat) {f : Cmd → Cmd} (hf : ∀ y : Cmd, (f y).bare = f y.bare) :
    ((c.modCmd r id f).queue p).map Cmd.bare = ((c.queue p).map Cmd.bare).map fun y => if p = r ∧ y.id = id then f y else y := by
  rw [queue_modCmd, List.map_map]
  split
  · next hp =>
    subst hp
    rw [List.map_map]
    refine List.map_congr_left fun y _ => ?_
    simp only [Function.comp_apply, true_and]
    rw [show y.bare.id = y.id from rfl]
    split
    · exact hf y
    · rfl
  · next hp => simp only [hp, false_and, if_false, Function.comp_def]

/-- What leaves the bare commands of a queue leaves its queue, when it is taken for bare. -/
theorem bare_modCmd_hidden (c : Core) (r id p : Nat) {f : Cmd → Cmd} (hf : ∀ y : Cmd, (f y).bare = y.bare) :
    ((c.modCmd r id f).queue p).map Cmd.bare = (c.queue p).map Cmd.bare := by
  rw [queue_modCmd]
  split
  · next hp =>
    subst hp
    rw [List.map_map]
    refine List.map_congr_left fun y _ => ?_
    simp only [Function.comp_apply]
    split
    · exact hf y
    · rfl
  · rfl

/-- From s to u one core changes, and there only the times of arrival and the chains of commands. -/
structure Hidden (s u : State) (core : Nat) : Prop where
  rest : { u with cores := s.cores } = s
  other : ∀ m, m ≠ core → u.coreAt m = s.coreAt m
  sync : (u.coreAt core).sync = (s.coreAt core).sync
  queue : ∀ p, ((u.coreAt core).queue p).map Cmd.bare = ((s.coreAt core).queue p).map Cmd.bare

theorem Hidden.refl (s : State) (core : Nat) : Hidden s s core := ⟨rfl, fun _ _ => rfl, rfl, fun _ => rfl⟩

theorem Hidden.modCmd (s : State) (core r id : Nat) {f : Cmd → Cmd} (hf : ∀ y : Cmd, (f y).bare = y.bare) :
    Hidden s (s.modCore core (·.modCmd r id f)) core := by
  have hat (m : Nat) := State.coreAt_modCore s core m (·.modCmd r id f)
  refine ⟨rfl, fun m hm => (hat m).trans (if_neg hm), ?_, fun p => ?_⟩
  · rw [hat, if_pos rfl]
    rfl
  · rw [hat, if_pos rfl]
    exact bare_modCmd_hidden _ r id p hf

theorem Hidden.trans {a b c : State} (h : Hidden a b core) (k : Hidden b c core) : Hidden a c core where
  rest := (congrArg (fun t : State => { t with cores := a.cores }) k.rest).trans h.rest
  other m hm := (k.other m hm).trans (h.other m hm)
  sync := k.sync.trans h.sync
  queue p := (k.queue p).trans (h.queue p)

theorem Hidden.noteHead (s : State) (core : Nat) : Hidden s (s.noteHead core) core := by
  unfold State.noteHead
  split
  · exact .refl s core
  · dsimp only
    split
    · exact .modCmd s core _ _ fun _ => rfl
    · exact .refl s core

theorem Hidden.begin (s : State) (core q : Nat) (x : Cmd) : Hidden s (s.begin core q x) core := by
  unfold State.begin
  split
  · split
    · exact .modCmd s core _ _ fun _ => rfl
    · exact .refl s core
  · exact .refl s core

theorem Hidden.work {u : State} (h : Hidden s u core) : u.work = s.work := (congrArg State.work h.rest :)

/-! A head starts (R151, R236). -/

/-- The wait clause of a head is still to be served. -/
def Cmd.waits (x : Cmd) (h : EHead) : Bool := decide (h.wthr ≠ 0) && !x.waited

theorem waits_iff {x : Cmd} {h : EHead} : x.waits h = true ↔ ¬ (h.wthr = 0 ∨ x.waited = true) := by
  simp [Cmd.waits]

/-- A wait clause that its semaphore satisfies is served. -/
theorem clause_yes {c : Core} (hh : engineHead x.word = some h) (hs : x.waits h = true →
    (c.sem (semNum x.semBase h.wsem.toNat)).poisoned = false ∧ h.wthr.toNat ≤ (c.sem (semNum x.semBase h.wsem.toNat)).count ∧
      (tget [] c.sync.waiters (semNum x.semBase h.wsem.toNat) = [] ∨
        ∃ k r, tget [] c.sync.waiters (semNum x.semBase h.wsem.toNat) = (.engine q, k) :: r)) : c.clause q x = .yes := by
  simp only [Core.clause, hh]
  split
  · rfl
  · next hw =>
    obtain ⟨hp, hcount, hline⟩ := hs (waits_iff.mpr (by simpa using hw))
    rw [if_neg (by rw [hp]; decide), if_pos (Sync.ready_iff.mpr ⟨hcount, hline⟩)]

/-- A wait clause whose semaphore holds too little is not. -/
theorem clause_no {c : Core} (hh : engineHead x.word = some h) (hw : x.waits h = true)
    (hp : (c.sem (semNum x.semBase h.wsem.toNat)).poisoned = false) (hcount : (c.sem (semNum x.semBase h.wsem.toNat)).count < h.wthr.toNat) :
    c.clause q x = .no := by
  have hready : c.sync.ready (semNum x.semBase h.wsem.toNat) h.wthr.toNat (.engine q) = false := by
    rw [Bool.eq_false_iff]
    intro hr
    obtain ⟨hle, -⟩ := Sync.ready_iff.mp hr
    exact absurd hcount (Nat.not_lt.mpr hle)
  simp only [Core.clause, hh]
  rw [if_neg (by simpa using waits_iff.mp hw), hp, hready]
  rfl

/-- A clause served: its count is subtracted, and its command waits no more. -/
theorem serve_leaves (c : Core) (hh : engineHead x.word = some h) :
    (∀ k, (c.serve q x).sem k = if k = semNum x.semBase h.wsem.toNat ∧ x.waits h = true then
      { c.sem k with count := (c.sem k).count - h.wthr.toNat } else c.sem k) ∧
    ∀ p, ((c.serve q x).queue p).map Cmd.bare =
      ((c.queue p).map Cmd.bare).map fun y => if p = q ∧ y.id = x.id then { y with waited := true } else y := by
  refine ⟨fun k => ?_, fun p => ?_⟩
  · simp only [Core.serve, hh]
    split
    · next hw => rw [if_neg fun hk => waits_iff.mp hk.2 (by simpa using hw)]; rfl
    · next hw =>
      have hwaits : x.waits h = true := waits_iff.mpr (by simpa using hw)
      refine (Sync.sem_take ..).trans (if_ctx_congr (by simp [hwaits]) (fun hk => ?_) fun _ => rfl)
      rw [hk.1]
      rfl
  · simp only [Core.serve, hh]
    split
    · exact bare_modCmd _ q x.id p fun _ => rfl
    · exact bare_modCmd _ q x.id p fun _ => rfl

/-- A head started: the count of its clause is subtracted, and no other core, memory or strand changes. -/
structure Starts (s u : State) (core q : Nat) (x : Cmd) (h : EHead) : Prop where
  rest : { u with cores := s.cores } = s
  other : ∀ m, m ≠ core → u.coreAt m = s.coreAt m
  sem : ∀ k, (u.coreAt core).sem k = if k = semNum x.semBase h.wsem.toNat ∧ x.waits h = true then
    { (s.coreAt core).sem k with count := ((s.coreAt core).sem k).count - h.wthr.toNat } else (s.coreAt core).sem k
  queue : ∀ p, ((u.coreAt core).queue p).map Cmd.bare = (((s.coreAt core).queue p).map Cmd.bare).map fun y =>
    if p = q ∧ y.id = x.id then { y with waited := true, started := true } else y

theorem startCmd_starts (s : State) (core q : Nat) (hh : engineHead x.word = some h) : Starts s (s.startCmd core q x) core q x h := by
  let c := (s.coreAt core).serve q x
  let c' : Core := { c.modCmd q x.id fun x => { x with started := true } with starts := tmod 0 c.starts (8 + q) (· + 1) }
  have hcore : ((s.modCore core (·.serve q x)).modCore core fun c => { c.modCmd q x.id fun x => { x with started := true } with
      starts := tmod 0 c.starts (8 + q) (· + 1) }).coreAt core = c' := by
    rw [State.coreAt_modCore, if_pos rfl, State.coreAt_modCore, if_pos rfl]
  have hother (m : Nat) (hm : m ≠ core) : ((s.modCore core (·.serve q x)).modCore core fun c =>
      { c.modCmd q x.id fun x => { x with started := true } with starts := tmod 0 c.starts (8 + q) (· + 1) }).coreAt m = s.coreAt m := by
    rw [State.coreAt_modCore, if_neg hm, State.coreAt_modCore, if_neg hm]
  obtain ⟨hsem, hqueue⟩ := serve_leaves (s.coreAt core) (q := q) hh
  obtain ⟨hrest, hoth, hsync, hbare⟩ := (Hidden.begin ((s.modCore core (·.serve q x)).modCore core fun c =>
    { c.modCmd q x.id fun x => { x with started := true } with starts := tmod 0 c.starts (8 + q) (· + 1) }) core q x).trans (.noteHead _ core)
  refine ⟨?_, fun m hm => (hoth m hm).trans (hother m hm), fun k => ?_, fun p => ?_⟩
  · exact congrArg (fun t : State => { t with cores := s.cores }) hrest
  · rw [Core.sem, State.startCmd, hsync, hcore]
    exact hsem k
  · rw [State.startCmd, hbare, hcore]
    refine (bare_modCmd c q x.id p (f := fun y => { y with started := true }) fun _ => rfl).trans ?_
    rw [hqueue, List.map_map]
    refine List.map_congr_left fun y _ => ?_
    simp only [Function.comp_apply]
    by_cases hy : p = q ∧ y.id = x.id
    · simp only [if_pos hy]
    · simp only [if_neg hy]

/-- A command of a queue once its head has started. -/
theorem Starts.started {u : State} (hu : Starts s u core q x h) (hx : x ∈ (s.coreAt core).queue q) :
    ∃ y ∈ (u.coreAt core).queue q, y.id = x.id ∧ y.word = x.word ∧ y.started = true := by
  have hin : ({ x.bare with waited := true, started := true } : Cmd) ∈ ((u.coreAt core).queue q).map Cmd.bare := by
    rw [hu.queue]
    exact List.mem_map.mpr ⟨x.bare, List.mem_map_of_mem hx, if_pos ⟨rfl, rfl⟩⟩
  obtain ⟨y, hy, hbare⟩ := List.mem_map.mp hin
  exact ⟨y, hy, (congrArg Cmd.id hbare :), (congrArg Cmd.word hbare :), (congrArg Cmd.started hbare :)⟩

theorem head_mem {c : Core} (hx : c.head q = some x) : x ∈ c.queue q := List.mem_of_find?_eq_some hx

/-- A head that is served and may start does (R236). -/
theorem start_exec (hq : q < 6) (hx : (s.coreAt core).head q = some x) (hh : engineHead x.word = some h) (hst : h.stamped = false)
    (hf : s.frozen x.tt = false) (hnone : q ≠ 0 → ∀ y ∈ (s.coreAt core).queue q, y.started = false) (hmay : s.mayStart core q x = true)
    (hc : (s.coreAt core).clause q x = .yes) : exec (.engineCommandStart core q) s = .next (s.startCmd core q x) := by
  have hany : (decide (q ≠ 0) && ((s.coreAt core).queue q).any (·.started)) = false := by
    by_cases h0 : q = 0
    · rw [decide_eq_false (not_not.mpr h0), Bool.false_and]
    · rw [Bool.and_eq_false_iff]
      exact .inr (List.any_eq_false.mpr fun y hy => by rw [hnone h0 y hy]; decide)
  change execEngineCommandStart core q s = _
  have h6 : decide (6 < q) = false := decide_eq_false (by omega)
  have hq6 : q ≠ 6 := by omega
  simp only [execEngineCommandStart, hx, hany, hf, hc, hh, hst, hmay, h6, hq6, Option.map_some, Option.getD_some, Bool.or_false,
    Bool.false_eq_true, if_false, Bool.not_true, decide_false, Bool.false_and]

/-! Stamped words (R71, R72). -/

/-- The target time has the stamp in its low 32 bits, and lies within 2^31 of H. -/
theorem stampTarget_near (a b : Nat) (hb : b < 2 ^ 32) : stampTarget a b % 2 ^ 32 = (b : Int) ∧
    -(2 ^ 31) ≤ stampTarget a b - a ∧ stampTarget a b - (a : Int) < 2 ^ 31 := by
  unfold stampTarget
  dsimp only
  split <;> omega

section
variable {H : W64} (hx : (s.coreAt core).head 0 = some x) (hh : engineHead x.word = some h) (hst : h.stamped = true)
  (harr : x.arrived = some H) (hf : s.frozen x.tt = false)
include hx hh hst harr hf

/-- What STAMPED_COMMAND_ISSUE does with a head. -/
theorem stamped_exec : exec (.stampedCommandIssue core) s = .next (
    let T := stampTarget H.toNat h.stamp.toNat
    let miss : State := s.failCmd core 0 x .scheduleMiss (missRec T H x.resumed)
    if T < (H.toNat : Int) then miss
    else if ((s.pt (dieOfCore core) : Nat) : Int) < T then s
    else match (s.coreAt core).clause 0 x with
      | .poisoned => s.failCmd core 0 x .awaitPoisoned Rec.zero
      | .no => miss
      | .yes => if x.atE ≠ some false && s.mayStart core 0 x then s.startCmd core 0 x else miss) := by
  change execStampedCommandIssue core s = _
  simp only [execStampedCommandIssue, hx, harr, hh, hst, hf, Bool.not_true, Bool.or_false, Bool.false_eq_true, if_false] <;> rfl

/-- Before its target a stamped word does nothing. -/
theorem stamped_early (hH : (H.toNat : Int) ≤ stampTarget H.toNat h.stamp.toNat)
    (hpt : ((s.pt (dieOfCore core) : Nat) : Int) < stampTarget H.toNat h.stamp.toNat) : exec (.stampedCommandIssue core) s = .next s := by
  rw [stamped_exec hx hh hst harr hf]
  simp only [if_neg (Int.not_lt.mpr hH), if_pos hpt]

/-- A target before H is missed. -/
theorem stamped_late (hH : stampTarget H.toNat h.stamp.toNat < (H.toNat : Int)) : exec (.stampedCommandIssue core) s =
    .next (s.failCmd core 0 x .scheduleMiss (missRec (stampTarget H.toNat h.stamp.toNat) H x.resumed)) := by
  rw [stamped_exec hx hh hst harr hf]
  simp only [if_pos hH]

section
variable (hH : (H.toNat : Int) ≤ stampTarget H.toNat h.stamp.toNat)
  (hpt : stampTarget H.toNat h.stamp.toNat ≤ ((s.pt (dieOfCore core) : Nat) : Int))
include hH hpt

/-- On its tick, a stamped word whose clause is not served misses it. -/
theorem stamped_unserved (hc : (s.coreAt core).clause 0 x = .no) : exec (.stampedCommandIssue core) s =
    .next (s.failCmd core 0 x .scheduleMiss (missRec (stampTarget H.toNat h.stamp.toNat) H x.resumed)) := by
  rw [stamped_exec hx hh hst harr hf]
  simp only [if_neg (Int.not_lt.mpr hH), if_neg (Int.not_lt.mpr hpt), hc]

/-- A stamped word whose clock has passed on which it could not issue misses it. -/
theorem stamped_passed (hc : (s.coreAt core).clause 0 x = .yes) (hE : x.atE = some false) : exec (.stampedCommandIssue core) s =
    .next (s.failCmd core 0 x .scheduleMiss (missRec (stampTarget H.toNat h.stamp.toNat) H x.resumed)) := by
  rw [stamped_exec hx hh hst harr hf]
  simp only [if_neg (Int.not_lt.mpr hH), if_neg (Int.not_lt.mpr hpt), hc, hE, ne_eq, not_true_eq_false, decide_false, Bool.false_and,
    Bool.false_eq_true, if_false]

/-- A stamped word that is served and that the engine takes issues. -/
theorem stamped_issues (hc : (s.coreAt core).clause 0 x = .yes) (hE : x.atE ≠ some false) (hmay : s.mayStart core 0 x = true) :
    exec (.stampedCommandIssue core) s = .next (s.startCmd core 0 x) := by
  rw [stamped_exec hx hh hst harr hf]
  simp only [if_neg (Int.not_lt.mpr hH), if_neg (Int.not_lt.mpr hpt), hc, decide_eq_true hE, hmay, Bool.and_self, if_true]

end

end

/-! A command that fails (R52, R237). -/

theorem State.Kept.modCtx {P : State → Prop} (hP : State.Kept P) {n : Nat} {f : Ctx → Ctx} (h : P s) : P (s.modCtx n f) := by
  unfold State.modCtx
  split
  · exact hP.setCtx _ _ h
  · exact h

theorem State.Kept.logFault {P : State → Prop} (hP : State.Kept P) {f c r lvl pol} (h : P s) : P (s.logFault f c r lvl pol) := by
  unfold State.logFault State.flog
  dsimp only
  split
  · exact hP.modCtx h
  · unfold State.flogNow
    split
    · exact h
    · dsimp only
      split
      · exact hP.homeWrite (hP.homeWrite h)
      · exact hP.homeWrite h

theorem endStrand_work (s : State) (n : Nat) : (s.endStrand n).work = s.work := by
  unfold State.endStrand
  split
  · rfl
  · dsimp only
    split
    · rfl
    · exact State.modCtx_work ..

/-- A tile task that is killed ends abnormally (R52). -/
theorem killTt_failing {n : Nat} {retry : Bool} {t : TileTask} (ht : s.ttAt n = some t) :
    ∃ t', (s.killTt n retry).ttAt n = some t' ∧ t'.failing = true := by
  have hwork (l : List Nat) (s : State) : (l.foldl (fun s n => s.endStrand n) s).work = s.work := by
    induction l generalizing s with
    | nil => rfl
    | cons m l ih => exact (ih _).trans (endStrand_work s m)
  have htt : ((t.strands.foldl (fun s n => s.endStrand n) s).modCore t.core (·.drain n)).ttAt n = some t :=
    (congrArg (fun w : WorkState => tget none w.tts n) (hwork t.strands s)).trans ht
  refine ⟨{ t with failing := true, retry := retry, request := none }, ?_, rfl⟩
  simp only [State.killTt, ht]
  rw [State.ttAt_modTt, if_pos rfl, htt]
  rfl

/-- A command that fails and is not kept is gone from its queue. -/
theorem failCmd_gone {w : State} {cause : Cause} {r : Rec} (hw : (s.endFrameWait (.engine core x.id)).containTt
    ((s.endFrameWait (.engine core x.id)).faultOfCmd core q x) cause r = (w, false)) :
    (∀ y ∈ ((s.failCmd core q x cause r).coreAt core).queue q, y.id ≠ x.id) ∧ (s.failCmd core q x cause r).work = w.work := by
  let v := (w.modCore core (·.modSync (·.leave (.engine q)))).modCore core (·.dropCmd q x.id)
  have hfail : s.failCmd core q x cause r = v.noteHead core := by
    simp only [State.failCmd, hw, Bool.false_eq_true, if_false]
    rfl
  obtain ⟨-, -, hlack⟩ := noteHead_leaves v core
  rw [hfail]
  refine ⟨hlack q x.id ?_, (Hidden.noteHead v core).work⟩
  rw [State.coreAt_modCore, if_pos rfl]
  exact dropCmd_lacks _ _ _

/-- A command that fails and is kept stays in its queue, started and failed. -/
theorem failCmd_kept {w : State} {cause : Cause} {r : Rec} (hw : (s.endFrameWait (.engine core x.id)).containTt
    ((s.endFrameWait (.engine core x.id)).faultOfCmd core q x) cause r = (w, true)) (hx : x ∈ (w.coreAt core).queue q) :
    (∃ y ∈ ((s.failCmd core q x cause r).coreAt core).queue q, y.id = x.id) ∧
    ∀ y ∈ ((s.failCmd core q x cause r).coreAt core).queue q, y.id = x.id → y.started = true ∧ y.failed = true := by
  let v := w.modCore core (·.modSync (·.leave (.engine q)))
  let mark : Cmd → Cmd := fun y => { y with started := true, failed := true, waited := true }
  have hfail : s.failCmd core q x cause r = (v.modCore core (·.modCmd q x.id mark)).noteHead core := by
    simp only [State.failCmd, hw, if_true]
    rfl
  have hqueue : (((s.failCmd core q x cause r).coreAt core).queue q).map Cmd.bare =
      (((w.coreAt core).queue q).map Cmd.bare).map fun y => if q = q ∧ y.id = x.id then mark y else y := by
    rw [hfail, (Hidden.noteHead _ core).queue, State.coreAt_modCore, if_pos rfl, State.coreAt_modCore, if_pos rfl]
    exact bare_modCmd _ q x.id q fun _ => rfl
  refine ⟨?_, fun y hy hid => ?_⟩
  · have hin : mark x.bare ∈ (((s.failCmd core q x cause r).coreAt core).queue q).map Cmd.bare := by
      rw [hqueue]
      exact List.mem_map.mpr ⟨x.bare, List.mem_map_of_mem hx, if_pos ⟨rfl, rfl⟩⟩
    obtain ⟨y, hy, hbare⟩ := List.mem_map.mp hin
    exact ⟨y, hy, (congrArg Cmd.id hbare :)⟩
  · have hin := List.mem_map_of_mem (f := Cmd.bare) hy
    rw [hqueue] at hin
    obtain ⟨z, -, hz⟩ := List.mem_map.mp hin
    by_cases hzid : z.id = x.id
    · rw [if_pos ⟨rfl, hzid⟩] at hz
      exact ⟨(congrArg Cmd.started hz :).symm, (congrArg Cmd.failed hz :).symm⟩
    · rw [if_neg fun h => hzid h.2] at hz
      exact absurd ((congrArg Cmd.id hz :).trans hid) hzid

section
variable {t : TileTask} {b : Block} (ht : s.ttAt x.tt = some t) (hb : s.blockAt t.block = some b) (core q : Nat) (cause : Cause) (r : Rec)
include ht hb

/-- What the tile-task level does with the fault of a command (R52). -/
theorem containTt_cmd : let s0 := s.endFrameWait (.engine core x.id)
    let f := s0.faultOfCmd core q x
    (b.lb.ttPolicy = .killSelf → s0.containTt f cause r = ((s0.logFault f cause r .tileTask .killSelf).killTt x.tt false, false)) ∧
    (b.lb.ttPolicy = .ignore → s0.containTt f cause r = (s0.logFault f cause r .tileTask .ignore, true)) := by
  intro s0 f
  have ht' : s0.ttAt x.tt = some t := ht
  have hb' : s0.blockAt t.block = some b := hb
  have hf : f.tt = some x.tt := by simp only [f, State.faultOfCmd, State.faultOfTt, ht']
  refine ⟨fun hp => ?_, fun hp => ?_⟩
  · simp only [State.containTt, hf, ht', hb', hp, Option.bind_some, Option.map_some]
  · simp only [State.containTt, hf, ht', hb', hp, Option.bind_some, Option.map_some]

/-- Under KILL_SELF the command that fails is gone, and its tile task is ending abnormally. -/
theorem failCmd_killSelf (hp : b.lb.ttPolicy = .killSelf) : (∀ y ∈ ((s.failCmd core q x cause r).coreAt core).queue q, y.id ≠ x.id) ∧
    ∃ t', (s.failCmd core q x cause r).ttAt x.tt = some t' ∧ t'.failing = true := by
  obtain ⟨hgone, hwork⟩ := failCmd_gone ((containTt_cmd ht hb core q cause r).1 hp)
  have hsame (f : FaultAt) : ((s.endFrameWait (.engine core x.id)).logFault f cause r .tileTask .killSelf).ttAt x.tt = some t :=
    (congrArg (fun w : WorkState => tget none w.tts x.tt) ((sameCores_kept _).logFault (.refl _)).work).trans ht
  obtain ⟨t', ht', hfailing⟩ := killTt_failing (retry := false) (hsame _)
  exact ⟨hgone, t', (congrArg (fun w : WorkState => tget none w.tts x.tt) hwork).trans ht', hfailing⟩

/-- Under IGNORE it stays, started and failed. -/
theorem failCmd_ignore (hp : b.lb.ttPolicy = .ignore) (hx : x ∈ (s.coreAt core).queue q) :
    (∃ y ∈ ((s.failCmd core q x cause r).coreAt core).queue q, y.id = x.id) ∧
    ∀ y ∈ ((s.failCmd core q x cause r).coreAt core).queue q, y.id = x.id → y.started = true ∧ y.failed = true := by
  refine failCmd_kept ((containTt_cmd ht hb core q cause r).2 hp) ?_
  obtain ⟨hqueues, -⟩ := (((sameCores_kept (s.endFrameWait (.engine core x.id))).logFault
    (f := (s.endFrameWait (.engine core x.id)).faultOfCmd core q x) (c := cause) (r := r) (lvl := .tileTask) (pol := .ignore)
    (.refl _))).queues core
  rw [Core.queue, hqueues]
  exact hx

end

end Sys2Proof.Machine
end

-- ==== Proofs: special-function jobs are performed (O24) ====
section
/-! PROOF. A job reads its descriptor and its rows, computes, and writes its outputs (R260-R263): the bytes that a write leaves, the start of
a job, and the fields of a descriptor. -/
namespace Sys2Proof.Machine

variable {s : State} {core : Nat} {x : Cmd} {h : EHead}

/-! The bytes of an output (R262). -/

/-- The piece of an output that lies in a sector, written at its home. -/
def State.writeSector (s : State) (ctx : Nat) (o : JobOut) (pa len sec : Nat) : State :=
  let lo := max pa (64 * sec)
  let hi := min (pa + len) (64 * sec + 64)
  s.homeWrite ctx lo (whole ((o.bytes.drop (lo - pa)).take (hi - lo))) (((o.tags.drop (lo - pa)).take (hi - lo)).any id)

theorem writeOut_sectors (s : State) (ctx : Nat) (o : JobOut) {p : Part} (hoff : p.off = 0) :
    s.writeOut ctx o [p] = (sectorsOf p.pa p.len).foldl (fun s i => s.writeSector ctx o p.pa p.len i) s := by
  rw [State.writeOut, List.map_singleton, List.flatten_singleton, sectorPieces, List.foldl_map]
  simp only [hoff, Nat.zero_add]
  rfl

/-- The first sectors of an output written: their bytes, and no other. -/
theorem writeSectors_bytes (s : State) (ctx : Nat) (o : JobOut) (pa : Nat) (hd : ∀ k, k < o.bytes.length → s.mem.discards (pa + k) = false)
    (n : Nat) : let t := ((upto n).map (pa / 64 + ·)).foldl (fun s i => s.writeSector ctx o pa o.bytes.length i) s
    (∀ a, t.mem.discards a = s.mem.discards a) ∧ ∀ a, t.mem.byteAt a =
      if pa ≤ a ∧ a < pa + o.bytes.length ∧ a < 64 * (pa / 64 + n) then (o.bytes[a - pa]?).getD 0 else s.mem.byteAt a := by
  induction n with
  | zero => exact ⟨fun _ => rfl, fun a => (if_neg (by omega)).symm⟩
  | succ n ih =>
    intro t
    unfold upto at ih
    have ht : t = (((List.range n).map (pa / 64 + ·)).foldl (fun s i => s.writeSector ctx o pa o.bytes.length i) s).writeSector ctx o pa
        o.bytes.length (pa / 64 + n) := by
      change ((List.range (n + 1)).map (pa / 64 + ·)).foldl _ s = _
      rw [List.range_succ, List.map_append, List.foldl_append]
      rfl
    generalize ((List.range n).map (pa / 64 + ·)).foldl (fun s i => s.writeSector ctx o pa o.bytes.length i) s = u at ih ht
    obtain ⟨hdis, hbytes⟩ := ih
    rw [ht]
    refine ⟨fun a => (homeWrite_discards ..).trans (hdis a), fun a => (homeWrite_byteAt ..).trans ?_⟩
    by_cases hin : max pa (64 * (pa / 64 + n)) ≤ a ∧ a < min (pa + o.bytes.length) (64 * (pa / 64 + n) + 64)
    · rw [byteAt_write _ _ _ _ _ (by
          rw [hdis, show max pa (64 * (pa / 64 + n)) = pa + (max pa (64 * (pa / 64 + n)) - pa) by omega]
          exact hd _ (by omega)), if_pos hin.1, if_pos (by omega), whole, List.getElem?_map,
        List.getElem?_take_of_lt (by omega), List.getElem?_drop,
        show max pa (64 * (pa / 64 + n)) - pa + (a - max pa (64 * (pa / 64 + n))) = a - pa by omega, List.getElem?_eq_getElem (by omega)]
      rfl
    · rw [byteAt_write_outside _ _ _ _ _ (by rw [whole, List.length_map, List.length_take, List.length_drop]; omega), hbytes]
      exact if_congr (by omega) rfl rfl

/-- An output written at one part: each of its bytes stands there, and no other byte changes. -/
theorem writeOut_bytes (s : State) (ctx : Nat) (o : JobOut) {p : Part} (hoff : p.off = 0) (hlen : p.len = o.bytes.length)
    (hd : ∀ k, k < p.len → s.mem.discards (p.pa + k) = false) (a : Nat) : (s.writeOut ctx o [p]).mem.byteAt a =
      if p.pa ≤ a ∧ a < p.pa + p.len then (o.bytes[a - p.pa]?).getD 0 else s.mem.byteAt a := by
  rw [writeOut_sectors s ctx o hoff, hlen]
  by_cases h0 : o.bytes.length = 0
  · rw [h0, if_neg (by omega)]
    rfl
  · obtain ⟨-, hbytes⟩ := writeSectors_bytes s ctx o p.pa (hlen ▸ hd) ((p.pa + o.bytes.length - 1) / 64 - p.pa / 64 + 1)
    rw [sectorsOf, if_neg h0, hbytes]
    exact if_congr (by omega) rfl rfl

/-! The fields of a descriptor (R261). -/

theorem jobOf_fields {op : Nat} {b : List Byte} {y : Job} (h : jobOf op b = some y) :
    y.op = op ∧ y.src = BitVec.ofNat 64 (recF b 0 8) ∧ y.dst = BitVec.ofNat 64 (recF b 8 8) ∧
    y.aux = BitVec.ofNat 64 (recF b 0x10 8) ∧ y.rows = recF b 0x18 4 ∧ y.len = recF b 0x1C 4 ∧ y.sstride = recF b 0x20 4 ∧
    y.dstride = recF b 0x24 4 ∧ y.astride = recF b 0x28 4 ∧ y.inTy = recF b 0x2C 4 % 16 ∧ y.outTy = recF b 0x2C 4 / 16 % 16 ∧
    y.k = recF b 0x2C 4 / 65536 % 65536 ∧ y.key = recF b 0x30 4 ∧ y.ctr = recF b 0x34 4 ∧ 1 ≤ y.rows ∧ y.rows ≤ 2 ^ 24 ∧
    1 ≤ y.len ∧ recF b 0x38 8 = 0 ∧ recF b 0x2C 4 / 1024 % 64 = 0 := by
  unfold jobOf at h
  extract_lets f c j float ranked types at h
  obtain ⟨hok, hy⟩ := Option.ite_none_right_eq_some.mp h
  obtain rfl := Option.some.inj hy
  simp only [Bool.and_eq_true, decide_eq_true_eq] at hok
  obtain ⟨⟨⟨⟨⟨⟨⟨-, hrows⟩, hmax⟩, hlen⟩, -⟩, hres⟩, hzero⟩, -⟩ := hok
  refine ⟨rfl, rfl, rfl, rfl, rfl, rfl, rfl, rfl, rfl, ?_, rfl, rfl, rfl, rfl, hrows, hmax, hlen, hzero, hres⟩
  exact congrArg (· % 16) (Nat.div_one _)

/-! What a job leaves of the cores. -/

section
variable {P : State → Prop} (hP : State.Kept P)
include hP

theorem State.Kept.sfdReadParts {ctx ps} (h : P s) : P (s.sfdReadParts ctx ps).2 := by
  induction ps generalizing s with
  | nil => exact h
  | cons p ps ih => exact ih (hP.dieRead (die := sfd) (ctx := ctx) (cache := 2) (pa := p.pa) (n := p.len) (drop := false) h)

theorem State.Kept.sfdRead {ctx a n} (h : P s) : (s.sfdRead ctx a n).Leaves P := by
  unfold State.sfdRead
  refine .ite h ?_
  have ha := hP.access (core := none) (ctx := ctx) (ptr := a) (n := n) (need := .read) (fresh := true) h
  cases e : s.access none ctx a n .read true with
  | ok ps u => exact .ite (ha.ok e) (hP.sfdReadParts (ha.ok e))
  | trap c r u => exact ha.trap e
  | wait u => exact ha.wait e

theorem State.Kept.jobRows {ctx y n j} (h : P s) : (s.jobRows ctx y n j).Leaves P := by
  induction n generalizing s j with
  | zero => exact h
  | succ n ih =>
    unfold State.jobRows
    dsimp only
    have hr := hP.sfdRead (ctx := ctx) (a := y.src + BitVec.ofNat 64 (j * y.sstride)) (n := y.len * (typeWidth y.inTy / 8)) h
    cases e : s.sfdRead ctx (y.src + BitVec.ofNat 64 (j * y.sstride)) (y.len * (typeWidth y.inTy / 8)) with
    | trap c r u => exact hr.trap e
    | wait u => exact hr.wait e
    | ok b u =>
      have hi := ih (j := j + 1) (hr.ok e)
      simp only [Res.andThen]
      cases e' : u.jobRows ctx y n (j + 1) with
      | trap c r v => exact hi.trap e'
      | wait v => exact hi.wait e'
      | ok rest v => exact hi.ok e'

theorem State.Kept.jobPlaces {ctx os} (h : P s) : (s.jobPlaces ctx os).Leaves P := by
  induction os generalizing s with
  | nil => exact h
  | cons o os ih =>
    unfold State.jobPlaces
    refine .ite h ?_
    have ha := hP.access (core := none) (ctx := ctx) (ptr := o.at_) (n := o.bytes.length) (need := .write) (fresh := true) h
    cases e : s.access none ctx o.at_ o.bytes.length .write true with
    | trap c r u => exact ha.trap e
    | wait u => exact ha.wait e
    | ok ps u =>
      have hi := ih (ha.ok e)
      simp only [Res.andThen]
      cases e' : u.jobPlaces ctx os with
      | trap c r v => exact hi.trap e'
      | wait v => exact hi.wait e'
      | ok rest v => exact hi.ok e'

theorem State.Kept.writeOut {ctx o ps} (h : P s) : P (s.writeOut ctx o ps) := kept_foldl h fun _ _ h => hP.homeWrite h

end

/-! A job starts (R262). -/

/-- A command whose clause is served stays in its queue. -/
theorem serve_mem {c : Core} {q : Nat} (hh : engineHead x.word = some h) (hx : x ∈ c.queue q) :
    ({ x with waited := true } : Cmd) ∈ (c.serve q x).queue q := by
  simp only [Core.serve, hh, queue_modCmd, if_true]
  refine List.mem_map.mpr ⟨x, ?_, if_pos rfl⟩
  split
  · exact hx
  · exact hx

/-- The job at the head of a core's special-function queue, at its engine, that may start. -/
structure JobReady (s : State) (core n : Nat) (x : Cmd) (h : EHead) (d : W64) : Prop where
  head : (s.coreAt core).head 6 = some x
  word : engineHead x.word = some h
  plain : h.stamped = false
  regs : x.regs = [d]
  order : x.order = some n
  runs : s.frozen x.tt = false
  idle : ∀ y ∈ (s.coreAt core).queue 6, y.started = false
  served : (s.coreAt core).clause 6 x = .yes
  may : s.mayStart core 6 x = true
  powered : tget false s.energy.gated sfd = false
  first : s.jobFirst (engineOfSub (sfjOp x.word)) n = true
  sound : 6 ∉ (s.coreAt core).ctlErrors

theorem job_exec {n : Nat} {d : W64} (hx : JobReady s core n x h d) : exec (.engineCommandStart core 6) s = .next (
    let p := (s.modCore core (·.serve 6 x)).runJob x.ctx (sfjOp x.word) d
    match p.2 with
    | .done => p.1.startCmd core 6 { x with waited := true }
    | .waits => p.1.frameWait (.engine core x.id) sfd (fun s => s.failCmd core 6 { x with waited := true } .commitFail (Rec.addr d)) id
    | .held => p.1
    | .fault c r => p.1.failCmd core 6 { x with waited := true } c r) := by
  obtain ⟨hhead, hword, hplain, hregs, horder, hruns, hidle, hserved, hmay, hpowered, hfirst, hsound⟩ := hx
  have hany : ((s.coreAt core).queue 6).any (·.started) = false :=
    List.any_eq_false.mpr fun y hy => by rw [hidle y hy]; decide
  change execEngineCommandStart core 6 s = _
  simp only [execEngineCommandStart, hhead, hany, hruns, hserved, hword, hplain, hmay, hpowered, State.arriveJob, horder, hfirst,
    State.startJob, hregs, State.engTurn, List.contains_eq_mem, decide_eq_false hsound, Option.map_some, Option.getD_some, Bool.or_false,
    Bool.and_false, Bool.false_eq_true, if_false, Bool.not_true, Nat.lt_irrefl, decide_false, if_true] <;> rfl

/-- A job whose descriptor, inputs and places are all there is done: it has started, and its outputs are written. -/
theorem job_done {n : Nat} {d : W64} {b : List Byte × List Bool} {s1 s2 s3 : State} {y : Job} {rows : List (List Nat × List Bool)}
    {os : List (JobOut × List Part)} (hx : JobReady s core n x h d) (hb : (s.modCore core (·.serve 6 x)).sfdRead x.ctx d 64 = .ok b s1)
    (hy : jobOf (sfjOp x.word) b.1 = some y) (hrows : s1.jobRows x.ctx y y.rows 0 = .ok rows s2)
    (hos : s2.jobPlaces x.ctx ((rows.mapIdx fun j r => y.row j r.1 r.2).flatten) = .ok os s3)
    (hfree : ∀ o ∈ os, s3.homesFree sfd o.2 = true ∧ ∀ p ∈ o.2, s3.mem.bounces p.pa = false) :
    ∃ u z, exec (.engineCommandStart core 6) s = .next u ∧ z ∈ (u.coreAt core).queue 6 ∧ z.id = x.id ∧ z.started = true ∧
      u.mem.bytes = (os.foldl (fun s o => s.writeOut x.ctx o.1 o.2) s3).mem.bytes := by
  have hany : (os.any fun o => !s3.homesFree sfd o.2 || o.2.any fun p => s3.mem.bounces p.pa) = false := by
    refine List.any_eq_false.mpr fun o ho => ?_
    obtain ⟨hhome, hmem⟩ := hfree o ho
    rw [hhome, Bool.not_true, Bool.false_or, List.any_eq_true]
    rintro ⟨p, hp, hbounce⟩
    exact absurd hbounce (by rw [hmem p hp]; decide)
  have hrun : (s.modCore core (·.serve 6 x)).runJob x.ctx (sfjOp x.word) d =
      (os.foldl (fun s o => s.writeOut x.ctx o.1 o.2) s3, .done) := by
    simp only [State.runJob, hb, hy, hrows, Res.andThen, hos, hany, Bool.false_eq_true, if_false]
  have hkept := sameCores_kept (s.modCore core (·.serve 6 x))
  have h3 := (hkept.jobPlaces ((hkept.jobRows ((hkept.sfdRead (.refl _)).ok hb)).ok hrows)).ok hos
  have hv := kept_foldl (f := fun s (o : JobOut × List Part) => s.writeOut x.ctx o.1 o.2) (l := os) h3 fun _ _ h => hkept.writeOut h
  have hmem : ({ x with waited := true } : Cmd) ∈ ((os.foldl (fun s o => s.writeOut x.ctx o.1 o.2) s3).coreAt core).queue 6 := by
    rw [Core.queue, (hv.queues core).1, State.coreAt_modCore, if_pos rfl]
    exact serve_mem hx.word (head_mem hx.head)
  have hstarts := startCmd_starts (os.foldl (fun s o => s.writeOut x.ctx o.1 o.2) s3) core 6 (x := { x with waited := true }) hx.word
  obtain ⟨z, hz, hid, -, hstarted⟩ := hstarts.started hmem
  refine ⟨_, z, ?_, hz, hid, hstarted, (congrArg (fun t : State => t.mem.bytes) hstarts.rest :)⟩
  rw [job_exec hx, hrun]

end Sys2Proof.Machine
end

-- ==== Proofs: the outputs of special-function jobs (O24) ====
section
/-! PROOF. What EXP, LOG, SOFTMAX, TOPK, SORT and SAMPLE put in the outputs of a row (R263): elements as bytes, stable ranks, the greatest
value of a row, and the sample of its running sums; then O24. -/
namespace Sys2Proof.Machine

/-! Elements as bytes. -/

theorem flatten_piece {α : Type} {n : Nat} (ls : List (List α)) (h : ∀ l ∈ ls, l.length = n) (i : Nat) :
    (ls.flatten.drop (n * i)).take n = (ls[i]?).getD [] := by
  induction ls generalizing i with
  | nil => simp
  | cons l ls ih =>
    have hl : l.length = n := h l List.mem_cons_self
    cases i with
    | zero => rw [List.flatten_cons, Nat.mul_zero, List.drop_zero, List.take_left' hl]; rfl
    | succ i =>
      rw [List.flatten_cons, Nat.mul_succ, Nat.add_comm, ← List.drop_drop, List.drop_left' hl, ih fun l' h' => h l' (List.mem_cons_of_mem _ h')]
      rfl

theorem elemBytes_length (ty : Nat) (xs : List Nat) : (elemBytes ty xs).length = typeWidth ty / 8 * xs.length := by
  rw [elemBytes, flatten_length (n := typeWidth ty / 8), List.length_map]
  intro l hl
  obtain ⟨v, -, rfl⟩ := List.mem_map.mp hl
  exact leBytes_length ..

/-- An element among bytes, as far as its bytes hold it. -/
theorem elemBytes_element {ty : Nat} {xs : List Nat} {i e : Nat} (he : xs[i]? = some e) :
    leNat (((elemBytes ty xs).drop (typeWidth ty / 8 * i)).take (typeWidth ty / 8)) = e % 256 ^ (typeWidth ty / 8) := by
  rw [elemBytes, flatten_piece, List.getElem?_map, he]
  · exact leNat_leBytes ..
  · intro l hl
    obtain ⟨v, -, rfl⟩ := List.mem_map.mp hl
    exact leBytes_length ..

theorem tag_bytes {n k i : Nat} {t : Bool} {tags : List Bool} (ht : tags[i]? = some t) (hk : k < n) :
    (tags.map (List.replicate n)).flatten[n * i + k]? = some t := by
  rw [flatten_getElem? _ (fun l hl => ?_) hk, List.getElem?_map, ht]
  · exact (List.getElem?_replicate ..).trans (if_pos hk)
  · obtain ⟨t, -, rfl⟩ := List.mem_map.mp hl
    exact List.length_replicate

/-! Ranks of TOPK and SORT. -/

/-- One ranked element stands before another: by its rank, and by its index where the ranks are the same. -/
def Outranks (desc : Bool) (a b : Int × Nat × Nat) : Prop :=
  (if desc then b.1 ≤ a.1 else a.1 ≤ b.1) ∧ (a.1 = b.1 → a.2.2 < b.2.2)

/-- An element goes before another when it ranks strictly before it. -/
def goesBefore (desc : Bool) (a b : Int) : Bool := if desc then b < a else a < b

theorem goesBefore_outranks {desc : Bool} {a b : Int × Nat × Nat} (h : goesBefore desc a.1 b.1 = true) : Outranks desc a b := by
  unfold Outranks
  unfold goesBefore at h
  cases desc <;> simp only [Bool.false_eq_true, if_false, if_true, decide_eq_true_eq] at h ⊢ <;> omega

theorem goesBefore_trans {desc : Bool} {a b c : Int × Nat × Nat} (h : goesBefore desc a.1 b.1 = true) (hbc : Outranks desc b c) :
    Outranks desc a c := by
  unfold Outranks at hbc ⊢
  unfold goesBefore at h
  cases desc <;> simp only [Bool.false_eq_true, if_false, if_true, decide_eq_true_eq] at h hbc ⊢ <;> omega

theorem outranks_of_not_before {desc : Bool} {a b : Int × Nat × Nat} (h : ¬ goesBefore desc a.1 b.1 = true) (hlt : b.2.2 < a.2.2) :
    Outranks desc b a := by
  unfold Outranks
  unfold goesBefore at h
  cases desc <;> simp only [Bool.false_eq_true, if_false, if_true, decide_eq_true_eq] at h ⊢ <;> omega

theorem rankPut_perm (before : Int → Int → Bool) (x : Int × Nat × Nat) (l : List (Int × Nat × Nat)) : (rankPut before x l).Perm (x :: l) := by
  induction l with
  | nil => exact .refl _
  | cons y ys ih =>
    rw [rankPut]
    split
    · exact .refl _
    · exact (ih.cons y).trans (.swap x y ys)

theorem rankPut_outranks (desc : Bool) (x : Int × Nat × Nat) (l : List (Int × Nat × Nat)) (hl : l.Pairwise (Outranks desc))
    (hx : ∀ y ∈ l, y.2.2 < x.2.2) : (rankPut (goesBefore desc) x l).Pairwise (Outranks desc) := by
  induction l with
  | nil => exact List.pairwise_singleton _ x
  | cons y ys ih =>
    obtain ⟨hy, hys⟩ := List.pairwise_cons.mp hl
    rw [rankPut]
    split
    · next hb =>
      refine List.pairwise_cons.mpr ⟨fun z hz => ?_, hl⟩
      rcases List.mem_cons.mp hz with rfl | hz
      · exact goesBefore_outranks hb
      · exact goesBefore_trans hb (hy z hz)
    · next hb =>
      refine List.pairwise_cons.mpr ⟨fun z hz => ?_, ih hys fun z hz => hx z (List.mem_cons_of_mem y hz)⟩
      rcases List.mem_cons.mp ((rankPut_perm _ x ys).subset hz) with rfl | hz
      · exact outranks_of_not_before hb (hx y List.mem_cons_self)
      · exact hy z hz

/-- Elements put in order one after another. -/
theorem ranked_fold (desc : Bool) (l acc : List (Int × Nat × Nat)) (hacc : acc.Pairwise (Outranks desc))
    (hl : l.Pairwise fun a b => a.2.2 < b.2.2) (hlt : ∀ a ∈ acc, ∀ b ∈ l, a.2.2 < b.2.2) :
    (l.foldl (fun l x => rankPut (goesBefore desc) x l) acc).Pairwise (Outranks desc) ∧
    (l.foldl (fun l x => rankPut (goesBefore desc) x l) acc).Perm (acc ++ l) := by
  induction l generalizing acc with
  | nil => exact ⟨hacc, by rw [List.append_nil]; exact .refl _⟩
  | cons x xs ih =>
    obtain ⟨hx, hxs⟩ := List.pairwise_cons.mp hl
    have hperm := rankPut_perm (goesBefore desc) x acc
    obtain ⟨hpair, hall⟩ := ih (rankPut (goesBefore desc) x acc)
      (rankPut_outranks desc x acc hacc fun y hy => hlt y hy x List.mem_cons_self) hxs fun a ha b hb => by
        rcases List.mem_cons.mp (hperm.subset ha) with rfl | ha
        · exact hx b hb
        · exact hlt a ha b (List.mem_cons_of_mem x hb)
    exact ⟨hpair, hall.trans ((hperm.append_right xs).trans (List.perm_middle.symm))⟩

/-- The ranks of a row: every element with its index once, in order. -/
theorem ranked_ranks (ty : Nat) (desc : Bool) (xs : List Nat) : let r := ranked ty desc xs
    r.length = xs.length ∧ (r.map (·.2)).Nodup ∧ (∀ e ∈ r, xs[e.2]? = some e.1) ∧ r.Pairwise fun a b =>
      (if desc then rankOf ty b.1 ≤ rankOf ty a.1 else rankOf ty a.1 ≤ rankOf ty b.1) ∧
      (rankOf ty a.1 = rankOf ty b.1 → a.2 < b.2) := by
  intro r
  let zs := xs.mapIdx fun i x => (rankOf ty x, x, i)
  have hzs : ∀ z ∈ zs, z.1 = rankOf ty z.2.1 ∧ xs[z.2.2]? = some z.2.1 := by
    intro z hz
    obtain ⟨i, hi, rfl⟩ := List.mem_mapIdx.mp hz
    exact ⟨rfl, List.getElem?_eq_getElem hi⟩
  have hindex : zs.Pairwise fun a b => a.2.2 < b.2.2 := by
    rw [List.pairwise_iff_getElem]
    intro i j hi hj hij
    simpa only [zs, List.getElem_mapIdx] using hij
  obtain ⟨hpair, hperm⟩ := ranked_fold desc zs [] .nil hindex nofun
  rw [List.nil_append] at hperm
  generalize hsorted : zs.foldl (fun l x => rankPut (goesBefore desc) x l) [] = sorted at hpair hperm
  have hr : r = sorted.map (·.2) := congrArg (List.map fun z : Int × Nat × Nat => z.2) hsorted
  rw [hr]
  refine ⟨?_, ?_, ?_, ?_⟩
  · rw [List.length_map, hperm.length_eq, List.length_mapIdx]
  · rw [List.map_map]
    refine (hperm.map _).nodup_iff.mpr ?_
    rw [List.Nodup, List.pairwise_map]
    exact hindex.imp fun h => Nat.ne_of_lt h
  · intro e he
    obtain ⟨z, hz, rfl⟩ := List.mem_map.mp he
    exact (hzs z (hperm.subset hz)).2
  · rw [List.pairwise_map]
    refine hpair.imp_of_mem fun {a b} ha hb hab => ?_
    rwa [Outranks, (hzs a (hperm.subset ha)).1, (hzs b (hperm.subset hb)).1] at hab

/-! The greatest value of a row (SOFTMAX). -/

/-- The greater of two values, as a row's greatest is found. -/
def FVal.upTo (a z : FVal) : FVal := if a.lt z then z else a

theorem isInf_iff (neg : Bool) (v : FVal) : v.isInf neg = decide (v = .inf neg) := by
  cases v with
  | nan s f => exact (decide_eq_false nofun).symm
  | inf s => simp [FVal.isInf]
  | fin s m e => exact (decide_eq_false nofun).symm

theorem top_negInf {l : List FVal} (h : ∀ z ∈ l, z = .inf true) : l.foldl FVal.upTo (.inf true) = .inf true := by
  induction l with
  | nil => rfl
  | cons z l ih =>
    obtain rfl := h z List.mem_cons_self
    exact ih fun z hz => h z (List.mem_cons_of_mem _ hz)

theorem top_posInf (l : List FVal) : l.foldl FVal.upTo (.inf false) = .inf false := by
  induction l with
  | nil => rfl
  | cons z l ih => cases z <;> exact ih

theorem upTo_notNan {a z : FVal} (ha : a.isNan = false) (hz : z.isNan = false) : (a.upTo z).isNan = false := by
  unfold FVal.upTo
  split
  · exact hz
  · exact ha

/-- The greatest of values with a positive infinity. -/
theorem top_of_posInf {l : List FVal} {a : FVal} (ha : a.isNan = false) (hn : ∀ z ∈ l, z.isNan = false) (hi : .inf false ∈ l) :
    l.foldl FVal.upTo a = .inf false := by
  induction l generalizing a with
  | nil => exact absurd hi List.not_mem_nil
  | cons z l ih =>
    rcases List.mem_cons.mp hi with rfl | hi
    · have hup : a.upTo (.inf false) = .inf false := by
        cases a with
        | nan s f => cases ha
        | inf s => cases s <;> rfl
        | fin s m e => rfl
      rw [List.foldl_cons, hup, top_posInf]
    · exact ih (upTo_notNan ha (hn z List.mem_cons_self)) (fun y hy => hn y (List.mem_cons_of_mem z hy)) hi

/-- The greatest of values among which some is finite and none is NaN or positive infinity. -/
theorem top_finite {l : List FVal} {a : FVal} (ha : (∃ s m e, a = .fin s m e) ∨ a = .inf true ∧ ∃ z ∈ l, z ≠ .inf true)
    (hl : ∀ z ∈ l, z.isNan = false ∧ z ≠ .inf false) : ∃ s m e, l.foldl FVal.upTo a = .fin s m e := by
  induction l generalizing a with
  | nil =>
    rcases ha with ha | ⟨-, z, hz, -⟩
    · exact ha
    · exact absurd hz List.not_mem_nil
  | cons z l ih =>
    have hl' : ∀ y ∈ l, y.isNan = false ∧ y ≠ .inf false := fun y hy => hl y (List.mem_cons_of_mem z hy)
    obtain ⟨hnan, hinf⟩ := hl z List.mem_cons_self
    refine ih ?_ hl'
    rcases ha with ⟨s, m, e, rfl⟩ | ⟨rfl, y, hy, hne⟩
    · cases z with
      | nan => cases hnan
      | inf t => cases t with
        | false => exact absurd rfl hinf
        | true => exact .inl ⟨s, m, e, rfl⟩
      | fin t n g =>
        refine .inl ?_
        unfold FVal.upTo
        split
        · exact ⟨_, _, _, rfl⟩
        · exact ⟨_, _, _, rfl⟩
    · cases z with
      | nan => cases hnan
      | inf t => cases t with
        | false => exact absurd rfl hinf
        | true =>
          rcases List.mem_cons.mp hy with rfl | hy
          · exact absurd rfl hne
          · exact .inr ⟨rfl, y, hy, hne⟩
      | fin t n g => exact .inl ⟨t, n, g, rfl⟩

/-! SOFTMAX. -/

theorem no_nan {l : List FVal} (h : ∀ z ∈ l, z.isNan = false) : ¬ l.any (·.isNan) = true := by
  rw [List.any_eq_true]
  rintro ⟨z, hz, hnan⟩
  rw [h z hz] at hnan
  cases hnan

section
variable {ty : Nat} {vals : List FVal} {i : Nat} {v : FVal} (hv : vals[i]? = some v)
include hv

theorem softmax_nan (h : ∃ z ∈ vals, z.isNan = true) : (softmaxRow ty vals)[i]? = some (canonNan ty) := by
  rw [softmaxRow]
  dsimp only
  rw [if_pos (List.any_eq_true.mpr h), List.getElem?_map, hv]
  rfl

theorem softmax_negInf (h : ∀ z ∈ vals, z = .inf true) : (softmaxRow ty vals)[i]? = some 0 := by
  have hnan := no_nan fun z hz => show z.isNan = false by rw [h z hz]; rfl
  have htop : vals.foldl (fun m x => if m.lt x then x else m) (.inf true) = .inf true := top_negInf h
  rw [softmaxRow]
  dsimp only
  rw [if_neg hnan, htop, if_pos (show FVal.isInf true (.inf true) = true from rfl), List.getElem?_map, hv]
  rfl

theorem softmax_posInf (hn : ∀ z ∈ vals, z.isNan = false) (h : ∃ z ∈ vals, z = .inf false) : (softmaxRow ty vals)[i]? =
    some (if v = .inf false then
      fdiv ty engineEnv (.fin false 1 0) (.fin false (vals.countP fun z => decide (z = .inf false)) 0) else 0) := by
  obtain ⟨z, hz, rfl⟩ := h
  have hnan := no_nan hn
  have htop : vals.foldl (fun m x => if m.lt x then x else m) (.inf true) = .inf false := top_of_posInf rfl hn hz
  have hcount : (vals.filter (·.isInf false)).length = vals.countP fun z => decide (z = .inf false) := by
    rw [List.countP_eq_length_filter]
    simp only [isInf_iff]
  rw [softmaxRow]
  dsimp only
  rw [if_neg hnan, htop, if_neg (by decide), if_pos (show FVal.isInf false (.inf false) = true from rfl), List.getElem?_map, hv, hcount]
  simp only [isInf_iff, decide_eq_true_eq, Option.map_some]

theorem softmax_finite (hn : ∀ z ∈ vals, z.isNan = false ∧ z ≠ .inf false) (h : ∃ z ∈ vals, z ≠ .inf true) :
    let top := vals.foldl (fun a z => if a.lt z then z else a) (.inf true)
    let e (z : FVal) : FVal := unpack 8 false (fexp 8 engineEnv (unpack 8 false (fadd 8 engineEnv [] z top.flip)))
    (softmaxRow ty vals)[i]? = some (fdiv ty engineEnv (e v)
      (vals.foldl (fun a z => unpack 8 false (fadd 8 engineEnv [] a (e z))) (.fin false 0 0))) := by
  have hnan := no_nan fun z hz => (hn z hz).1
  intro top e
  obtain ⟨s, m, g, htop⟩ : ∃ s m g, top = .fin s m g := top_finite (.inr ⟨rfl, h⟩) hn
  have hpos : top.isInf true = false := by rw [htop]; rfl
  have hneg : top.isInf false = false := by rw [htop]; rfl
  rw [softmaxRow]
  dsimp only
  change (if _ then _ else if top.isInf true = true then _ else if top.isInf false = true then _ else _)[i]? = _
  rw [if_neg hnan, hpos, hneg, if_neg (by decide), if_neg (by decide), List.map_map, List.getElem?_map, hv, List.foldl_map]
  rfl

end

/-! SAMPLE. -/

theorem sample_bad {vals : List FVal} (ctr key j : Nat)
    (h : ∃ z ∈ vals, z.isNan = true ∨ z = .inf false ∨ z = .inf true ∨ ∃ k q, z = .fin true (k + 1) q) :
    sampleRow ctr key j vals = 0xFFFFFFFF := by
  unfold sampleRow
  extract_lets bad cum last none_
  obtain ⟨z, hz, hbad⟩ := h
  refine if_pos (List.any_eq_true.mpr ⟨z, hz, ?_⟩)
  rcases hbad with hnan | rfl | rfl | ⟨k, q, rfl⟩
  · cases z with
    | nan => rfl
    | inf => cases hnan
    | fin => cases hnan
  · rfl
  · rfl
  · rfl

/-- The sample that a hash draws from running sums, by their last. -/
def sampleFrom (hash : Nat) (cum : List FVal) (last : FVal) : Nat :=
  match last with
  | .fin _ 0 _ => 0xFFFFFFFF
  | .fin s (k + 1) q =>
    ((upto cum.length).find? fun i => FVal.lt (.fin s (hash * (k + 1)) (q - 32)) ((cum[i]?).getD last)).getD 0xFFFFFFFF
  | _ => 0xFFFFFFFF

/-- The sample of weights that are neither NaN, nor infinite, nor negative. -/
theorem sample_good {vals : List FVal} (ctr key j : Nat) {last : FVal}
    (h : ∀ z ∈ vals, z.isNan = false ∧ z ≠ .inf false ∧ z ≠ .inf true ∧ ∀ k q, z ≠ .fin true (k + 1) q)
    (hlast : (cumSums (.fin false 0 0) vals).getLast? = some last) :
    sampleRow ctr key j vals = sampleFrom (hashH ((ctr + j) % 2 ^ 32) key) (cumSums (.fin false 0 0) vals) last := by
  unfold sampleRow
  extract_lets bad cum last' none_ t
  have hbad : ¬ vals.any bad = true := by
    rw [List.any_eq_true]
    rintro ⟨z, hz, hb⟩
    obtain ⟨hnan, hpos, hneg, hmin⟩ := h z hz
    cases z with
    | nan => cases hnan
    | inf t => cases t with
      | false => exact hpos rfl
      | true => exact hneg rfl
    | fin t m q =>
      obtain ⟨rfl, hm⟩ : t = true ∧ m ≠ 0 := by simpa [bad] using hb
      obtain ⟨k, rfl⟩ := Nat.exists_eq_succ_of_ne_zero hm
      exact hmin k q rfl
  have hl : last' = last := by rw [show last' = cum.getLast?.getD (.fin false 0 0) from rfl, hlast]; rfl
  rw [if_neg hbad, hl]
  cases last with
  | nan => rfl
  | inf => rfl
  | fin s m q =>
    cases m with
    | zero => rfl
    | succ k =>
      have ht : t = .fin s (hashH ((ctr + j) % 2 ^ 32) key * (k + 1)) (q - 32) := by
        rw [show t = (fmulX (.fin false (hashH ((ctr + j) % 2 ^ 32) key) 0) last').scale2 (-32) from rfl, hl]
        cases s <;> simp [fmulX, FVal.scale2, sub_eq_add_neg]
      rw [ht]
      rfl

/-- The first running sum beyond the draw is the sample. -/
theorem sampleFrom_first {hash k i : Nat} {s : Bool} {q : Int} {cum : List FVal} {v : FVal} (hv : cum[i]? = some v)
    (hlt : FVal.lt (.fin s (hash * (k + 1)) (q - 32)) v = true)
    (hfirst : ∀ l w, l < i → cum[l]? = some w → FVal.lt (.fin s (hash * (k + 1)) (q - 32)) w = false) :
    sampleFrom hash cum (.fin s (k + 1) q) = i := by
  obtain ⟨hi, -⟩ := List.getElem?_eq_some_iff.mp hv
  have hfind : ((upto cum.length).find? fun i => FVal.lt (.fin s (hash * (k + 1)) (q - 32)) ((cum[i]?).getD (.fin s (k + 1) q))) = some i := by
    refine List.find?_range_eq_some.mpr ⟨?_, List.mem_range.mpr hi, fun l hl => ?_⟩
    · rw [hv]
      exact hlt
    · rw [List.getElem?_eq_getElem (by omega)]
      exact congrArg (!·) (hfirst l _ hl (List.getElem?_eq_getElem (by omega)))
  rw [sampleFrom, hfind]
  rfl

/-! Rows. -/

/-- An output whose bytes all have one tag. -/
def sameTag (a : W64) (bs : List Byte) (t : Bool) : JobOut := ⟨a, bs, bs.map fun _ => t⟩

theorem sameTag_tags {a : W64} {bs : List Byte} {t : Bool} : ∀ u ∈ (sameTag a bs t).tags, u = t := by
  intro u hu
  obtain ⟨-, -, rfl⟩ := List.mem_map.mp hu
  rfl

/-- An output of a function of each element, with the element's tag. -/
def mapped (a : W64) (inTy outTy : Nat) (f : FVal → Nat) (xs : List Nat) (tags : List Bool) : JobOut :=
  ⟨a, elemBytes outTy ((xs.map (unpack inTy false)).map f), (tags.map (List.replicate (typeWidth outTy / 8))).flatten⟩

theorem mapped_elements (a : W64) (inTy outTy : Nat) (f : FVal → Nat) (xs : List Nat) (tags : List Bool) :
    (mapped a inTy outTy f xs tags).bytes.length = typeWidth outTy / 8 * xs.length ∧ ∀ i e t, xs[i]? = some e → tags[i]? = some t →
      leNat (((mapped a inTy outTy f xs tags).bytes.drop (typeWidth outTy / 8 * i)).take (typeWidth outTy / 8)) =
        f (unpack inTy false e) % 256 ^ (typeWidth outTy / 8) ∧
      ∀ k, k < typeWidth outTy / 8 → (mapped a inTy outTy f xs tags).tags[typeWidth outTy / 8 * i + k]? = some t := by
  refine ⟨?_, fun i e t he ht => ⟨elemBytes_element ?_, fun k hk => tag_bytes ht hk⟩⟩
  · rw [mapped, elemBytes_length, List.length_map, List.length_map]
  · rw [List.getElem?_map, List.getElem?_map, he]
    rfl

section
variable {y : Job} (j : Nat) (xs : List Nat) (tags : List Bool)

theorem row_exp (h : y.op = 0) : y.row j xs tags =
    [mapped (y.dst + BitVec.ofNat 64 (j * y.dstride)) y.inTy y.outTy (fexp y.outTy engineEnv) xs tags] := by
  simp only [Job.row, h]
  rfl

theorem row_log (h : y.op = 1) : y.row j xs tags =
    [mapped (y.dst + BitVec.ofNat 64 (j * y.dstride)) y.inTy y.outTy (fln y.outTy engineEnv) xs tags] := by
  simp only [Job.row, h]
  rfl

theorem row_softmax (h : y.op = 2) : y.row j xs tags = [sameTag (y.dst + BitVec.ofNat 64 (j * y.dstride))
    (elemBytes y.outTy (softmaxRow y.outTy (xs.map (unpack y.inTy false)))) (tags.any id)] := by
  simp only [Job.row, h]
  rfl

theorem row_topk (h : y.op = 3) : y.row j xs tags =
    [sameTag (y.dst + BitVec.ofNat 64 (j * y.dstride)) (elemBytes y.inTy (((ranked y.inTy true xs).take y.k).map (·.1))) (tags.any id),
      sameTag (y.aux + BitVec.ofNat 64 (j * y.astride)) (elemBytes 5 (((ranked y.inTy true xs).take y.k).map (·.2))) (tags.any id)] := by
  simp only [Job.row, h]
  rfl

theorem row_sort (h : y.op = 4) : y.row j xs tags =
    sameTag (y.dst + BitVec.ofNat 64 (j * y.dstride)) (elemBytes y.inTy ((ranked y.inTy y.desc xs).map (·.1))) (tags.any id) ::
      if y.indices then
        [sameTag (y.aux + BitVec.ofNat 64 (j * y.astride)) (elemBytes 5 ((ranked y.inTy y.desc xs).map (·.2))) (tags.any id)]
      else [] := by
  simp only [Job.row, h]
  rfl

theorem row_sample (h : y.op = 5) : y.row j xs tags = [sameTag (y.dst + BitVec.ofNat 64 (j * y.dstride))
    (leBytes 4 (sampleRow y.ctr y.key j (xs.map (unpack y.inTy false)))) (tags.any id)] := by
  simp only [Job.row, h]
  rfl

end

/-- A ranked element and its index, among their bytes. -/
theorem ranked_elements {ty i : Nat} {r : List (Nat × Nat)} {e : Nat × Nat} (he : r[i]? = some e) :
    leNat (((elemBytes ty (r.map (·.1))).drop (typeWidth ty / 8 * i)).take (typeWidth ty / 8)) = e.1 % 256 ^ (typeWidth ty / 8) ∧
    leNat (((elemBytes 5 (r.map (·.2))).drop (4 * i)).take 4) = e.2 % 2 ^ 32 :=
  ⟨elemBytes_element (by rw [List.getElem?_map, he]; rfl), elemBytes_element (ty := 5) (by rw [List.getElem?_map, he]; rfl)⟩

/-- The sample of a row, among its bytes. -/
theorem sample_element (v : Nat) : leNat (((leBytes 4 v).drop (4 * 0)).take 4) = v % 2 ^ 32 := by
  rw [Nat.mul_zero, List.drop_zero, List.take_of_length_le (Nat.le_of_eq (leBytes_length 4 v))]
  exact leNat_leBytes 4 v

/-- Settles O24: heads that start, stamped words on their tick, and jobs: their start, their writes, their descriptors and their rows. -/
theorem engineStarts : Obligations.EngineStarts := by
  unfold Obligations.EngineStarts
  refine ⟨?_, ?_, ?_, fun s ctx o p hoff hlen hd a => writeOut_bytes s ctx o hoff hlen hd a, fun op b y hy => jobOf_fields hy, ?_⟩
  · intro s core q x h hq hx hh hst hf hnone hmay c i waits hserved bare
    have hu := startCmd_starts s core q hh
    refine ⟨_, start_exec hq hx hh hst hf hnone hmay (clause_yes hh hserved), hu.queue, hu.sem, hu.other, ?_, ?_⟩
    · exact (congrArg State.strands hu.rest :)
    · exact (congrArg State.mem hu.rest :)
  · intro s core x h H hx hh hst harr hf T pt
    obtain ⟨hstamp, hlo, hhi⟩ := stampTarget_near H.toNat h.stamp.toNat h.stamp.isLt
    refine ⟨hstamp, hlo, hhi, fun hH hpt => stamped_early hx hh hst harr hf hH hpt, ?_⟩
    intro c i waits served misses
    refine ⟨fun hH hpt hs hE hmay => ?_, fun hlate => stamped_late hx hh hst harr hf hlate,
      fun hH hpt hw hp hcount => stamped_unserved hx hh hst harr hf hH hpt (clause_no hh hw hp hcount),
      fun hH hpt hs hE => stamped_passed hx hh hst harr hf hH hpt (clause_yes hh hs) hE, fun t b ht hb => ?_⟩
    · have hu := startCmd_starts s core 0 hh
      obtain ⟨y, hy, hid, hword, hstarted⟩ := hu.started (head_mem hx)
      exact ⟨_, y, stamped_issues hx hh hst harr hf hH hpt (clause_yes hh hs) hE hmay, hy, hid, hword, hstarted, hu.sem,
        (congrArg State.strands hu.rest :), (congrArg State.mem hu.rest :)⟩
    · exact ⟨failCmd_killSelf ht hb core 0 _ _, fun hp => failCmd_ignore ht hb core 0 _ _ hp (head_mem hx)⟩
  · intro s s1 s2 s3 core n x h d b hx hh hst hr ho hf hidle hserved hmay hpow hfirst hctl hb
    have hready : JobReady s core n x h d := ⟨hx, hh, hst, hr, ho, hf, hidle, hserved, hmay, hpow, hfirst, hctl⟩
    refine ⟨fun y rows os hy hrows hos hfree => job_done hready hb hy hrows hos hfree, fun hnone => ?_⟩
    rw [job_exec hready]
    simp only [State.runJob, hb, hnone]
  · intro y j xs tags htags outAt elem tagged n m vals maps ranks
    have hmaps (f : FVal → Nat) (h : y.row j xs tags = [mapped (outAt y.dst y.dstride) y.inTy y.outTy f xs tags]) : maps f :=
      ⟨_, h, rfl, mapped_elements ..⟩
    refine ⟨fun h => hmaps _ (row_exp j xs tags h), fun h => hmaps _ (row_log j xs tags h), fun h => ?_, fun h => ?_, fun h => ?_,
      fun h => ?_⟩
    · refine ⟨_, row_softmax j xs tags h, rfl, sameTag_tags, fun i v hv => ⟨fun hz => ?_, fun hz => ?_, fun hn hz => ?_, fun hn hz => ?_⟩⟩
      · exact elemBytes_element (softmax_nan hv hz)
      · exact (elemBytes_element (softmax_negInf hv hz)).trans (Nat.zero_mod _)
      · exact elemBytes_element (softmax_posInf hv hn hz)
      · exact elemBytes_element (softmax_finite hv hn hz)
    · exact ⟨_, _, _, row_topk j xs tags h, rfl, rfl, sameTag_tags, sameTag_tags, ranked_ranks .., fun i e he => ranked_elements he⟩
    · refine ⟨_, _, _, row_sort j xs tags h, rfl, sameTag_tags, ranked_ranks .., fun i e he => (ranked_elements he).1, fun hi => ?_,
        fun hi => ?_⟩
      · rw [hi]
        rfl
      · rw [hi]
        exact ⟨_, rfl, rfl, sameTag_tags, fun i e he => (ranked_elements (ty := y.inTy) he).2⟩
    · refine ⟨_, row_sample j xs tags h, rfl, sameTag_tags, leBytes_length .., fun hbad => ?_, ?_⟩
      · exact (sample_element _).trans (by rw [sample_bad _ _ _ hbad]; rfl)
      · intro cum hgood
        refine ⟨fun s hs => ?_, fun s q hs => ?_, ?_⟩
        · exact (sample_element _).trans (by rw [sample_good _ _ _ hgood hs]; rfl)
        · exact (sample_element _).trans (by rw [sample_good _ _ _ hgood hs]; rfl)
        · intro s k q i v hs hi t hv hlt hfirst
          refine (sample_element _).trans ?_
          rw [sample_good _ _ _ hgood hs, sampleFrom_first hv hlt hfirst, Nat.mod_eq_of_lt hi]

end Sys2Proof.Machine
end
